-- ==== Sys2Proof/Word.lean ====
section
/-!
DEFINITION. Word.lean: the word types of the MR6256 model and their plainest arithmetic.
The management window, the tables and the tenant pages are 32-bit words (R1, R436); a byte is eight bits.
-/
namespace Sys2Proof

/-- A 32-bit register or table word (R436). -/
abbrev Word := BitVec 32

/-- A byte (R1). -/
abbrev Byte := BitVec 8

/-- A 24-bit INTID (R9). -/
abbrev Intid := BitVec 24

end Sys2Proof
end

