-- ==== Sys2Proof/Syntax.lean ====
section
/-!
DEFINITION. Syntax.lean: the commands of the MR6256, one constructor per row of spec/opcode_table.json, with what each
event brings from outside the state as its operands. Rows that carry no field in the table carry here what the spec's
text says the event consists of (log 1).
-/
namespace Sys2Proof

/-- A link number, 0 to 7. -/
abbrev Link := BitVec 3
/-- A target number (R67). -/
abbrev Target := BitVec 8
/-- A tenant number (R194). -/
abbrev Tenant := BitVec 8
/-- Byte enables of a write: bit n is 1 when byte n is enabled (R128, R280). -/
abbrev BE := BitVec 4

/-- What the error-correcting code of the store reported during the reads of one command (R367): how many words were
corrected, and the word addresses whose reads were uncorrectable. -/
structure Ecc where
  corrected : Nat
  bad : List Nat
  deriving DecidableEq, Repr

/-- The line bits that arrive on the four physical lanes of a link in one stretch of time, in transmission order (R216). -/
abbrev Lines := List (List Bool)

/-- What arrives on the line, and what the analogue side of the lanes shows, when a training step may end (R236, R243,
R244). -/
structure TrainInfo where
  lines : Lines
  /-- Physical lanes with CDR lock and finished adaptation. -/
  good : BitVec 4
  /-- The peaking that adaptation found, 4 bits a physical lane. -/
  peaks : BitVec 16
  /-- 100 us have passed since the step began (R244). -/
  late : Bool
  deriving DecidableEq, Repr

/-- How a lane may lose lock (R232): its CDR reports loss, or its line brings the errors. -/
inductive LockLossCause where
  | cdrLoss
  | line (bits : List Bool)
  deriving DecidableEq, Repr

/-- What a completion brings of a read: the byte offset of its first data word, and its data words (Table LP-5, R281). -/
structure CplData where
  off   : BitVec 6
  words : List Word
  deriving DecidableEq, Repr

/-- The access of a sweep that a row names: the read of a block, the read of a configuration word, the CLRBITS (R174). -/
inductive SweepAccess where
  | read | word | clear
  deriving DecidableEq, Repr

/-- What an end does, or what its lines bring, in a step of an exit from FALLOW (R311, R314). -/
structure ExitStep where
  byEndpoint : Bool
  lines : Lines
  deriving DecidableEq, Repr

/-- What ends device-level FALLOW (R321, R343). -/
inductive WakeSource where
  | wired | beacon | breq | bus | thermal | pfail
  deriving DecidableEq, Repr

/-- The outcome of an erase: finished with a clean blank check, finished with a failing blank check (R369). -/
inductive EraseOutcome where
  | ok | fail
  deriving DecidableEq, Repr

/-- The range the VDDHB supply stands in when nPOR rises (R494, R511). -/
inductive HbRange where
  | v18 | v33 | outside
  deriving DecidableEq, Repr

/-- The commands of the block, in the order of the table. -/
inductive Instr where
  | wirqTransition (n : BitVec 7) (level : Bool)
  | wirqFilterPass (n : BitVec 7)
  | frameBoundary
  | fsyncEdgeInWindow (d : Int)
  | fsyncEdgeOutOfWindow (p gap : Nat)
  | tbCtlWrite (be : BE) (data : Word)
  | headland
  | scanPassComplete
  | furrowRefresh (bank : BitVec 4)
  | routeSelect (t : Target)
  | offerReplayEntry (link : Link)
  | wiredOfferAssert (k : BitVec 4)
  | recallSend (link : Link)
  | offerTimeout (t : Target) (ticket : BitVec 8)
  | recallTimeout (t : Target) (ticket : BitVec 8)
  | dlvHoldWrite (v : Bool)
  | claimed (link : Link) (t : Target) (i : Intid) (ticket : BitVec 8)
  | returned (link : Link) (t : Target) (i : Intid) (ticket : BitVec 8)
  | returnedBelow (link : Link) (t : Target) (i : Intid) (ticket : BitVec 8)
  | eoi (link : Link) (t : Target) (i : Intid)
  | completedExit (t : Target) (i : Intid)
  | prio (link : Link) (t : Target) (pmr : BitVec 8) (bpr : BitVec 3) (rpr : BitVec 8)
  | stateReport (link : Link) (t : Target) (code : BitVec 2)
  | signal (link : Link) (sender : Target) (form : Bool) (dest : BitVec 8) (num : BitVec 4)
  | priv (link : Link) (t : Target) (src : BitVec 4) (level : Bool)
  | wtAckRead (k : BitVec 4)
  | wtEoiWrite (k : BitVec 4) (be : BE) (data : Word)
  | reclaim (t : Target)
  | registerWrite (off : BitVec 14) (be : BE) (data : Word)
  | sequenceClear (off : BitVec 14) (be : BE) (data : Word) (hwSet : BitVec 24)
  | aliasSetWrite (off : BitVec 14) (be : BE) (data : Word)
  | aliasClrWrite (off : BitVec 14) (be : BE) (data : Word)
  | aliasTglWrite (off : BitVec 14) (be : BE) (data : Word)
  | wPendWrite (m : BitVec 2) (be : BE) (data : Word)
  | multiwordCapture (addr : BitVec 16)
  | shadowHoldWrite (v : Bool)
  | hlRevert
  | twRead
  | twReadLive
  | twWrite
  | twWriteCfg
  | pendSet
  | pendClr
  | lostClr
  | cfgSnap
  | driftRel
  | hwmClr
  | regionSyncReq
  | regionSyncDone
  | sowWrite (link : Link) (fn : Tenant) (be : BE) (data : Word)
  | sowAdmit (link : Link)
  | invWrite (link : Link) (fn : Tenant) (be : BE) (data : Word)
  | invalidationServe
  | syncWrite (link : Link) (fn : Tenant) (be : BE) (data : Word)
  | syncDone (fn : Tenant)
  | rrd (link : Link) (fn : Tenant) (off : BitVec 12) (rtag : BitVec 8) (malformed : Bool)
  | rwr (link : Link) (fn : Tenant) (off : BitVec 12) (be : BE) (data : Word) (malformed : Bool)
  | flr (link : Link) (fn : Tenant)
  | freset (n : Tenant)
  | resetForced (n : Tenant)
  | tenantQuiesced (n : Tenant)
  | ringHeadWrite (link : Link) (fn : Tenant) (evt : Bool) (be : BE) (data : Word)
  | ringTailWrite (link : Link) (fn : Tenant) (evt : Bool) (be : BE) (data : Word)
  | walkerTake
  | walkBlockedRelease (n : Tenant)
  | walkReadIssue (tag : BitVec 6)
  | walkCompletion (link : Link) (tag : BitVec 6) (gen : BitVec 4) (status : BitVec 3) (last : Bool) (data : CplData)
  | cplTimeout (tag : BitVec 6)
  | spillSweep (n : Tenant) (block : Nat) (access : SweepAccess)
  | xcfgRefetch (i : Intid)
  | noteSend (link : Link)
  | cmpTimeoutDrop (link : Link)
  | faultRecordWrite
  | eventRecordWrite
  | tlpReceive (link : Link) (lines : Lines)
  | ackReceive (link : Link) (seq : BitVec 12)
  | nakReceive (link : Link) (seq : BitVec 12)
  | creditReceive (link : Link) (vc : BitVec 2) (cum : BitVec 12)
  | replayTimeout (link : Link)
  | creditRepeat (link : Link)
  | grainLock (link : Link) (lane : BitVec 2) (peak : BitVec 4) (lead c1 c2 : List Bool)
  | laneLockLoss (link : Link) (lane : BitVec 2) (cause : LockLossCause)
  | laneReadmit (link : Link) (lane : BitVec 2)
  | detectPoll (link : Link) (mask : BitVec 4)
  | trainingStepExit (link : Link) (info : TrainInfo)
  | trainingStepTimeout (link : Link)
  | trainHoldoffEnd (link : Link)
  | electricalIdleSeen (link : Link)
  | regroupStart (link : Link)
  | regroupGrainReceived (link : Link) (lines : Lines)
  | regroupTimeout (link : Link)
  | linkDown (link : Link) (lines : Lines)
  | retrain (link : Link)
  | linkPwrEntry (link : Link)
  | entryMarkAnswer (link : Link)
  | entryTimeout (link : Link)
  | idleExit (link : Link) (byEndpoint : Bool)
  | fallowExitStep (link : Link) (step : ExitStep)
  | powerExitFail (link : Link)
  | deviceWake (src : WakeSource) (num : BitVec 7)
  | budgetLevelAdopt (level : BitVec 4)
  | breqAdopt (n : BitVec 3) (level : Bool)
  | allotGrant
  | wakeGrantTimeout (t : Target)
  | trevokeExpiry (n : BitVec 3)
  | pfail
  | gaspRecordComplete (ok : Bool)
  | gaspRecovery
  | npor
  | nreset
  | softwareWarmReset (key : BitVec 8) (alsoSteward : Bool)
  | stewardReset (key : BitVec 8)
  | pllLoss
  | resetRelease (straps : BitVec 5) (level : BitVec 4)
  | loaderOutcome (ecc : Ecc)
  | loadTimeout
  | watchdogExpiry
  | gaspArming
  | thermalRound (t0 t1 t2 t3 : BitVec 12)
  | shutdownTrip
  | testEntry (ir : BitVec 5)
  | testExit
  | bistMem (pass : Bool) (nfail : BitVec 8) (first : BitVec 16)
  | bistLogic (pass : Bool) (nfail : BitVec 8) (first : BitVec 16)
  | nvProgramDone (ok : Bool)
  | nvEraseDone (outcome : EraseOutcome)
  | journalCheckpoint
  | mbxCmdWrite (be : BE) (data : Word)
  | mbxReplyPost
  | mbxPop
  | ping
  | getInfo
  | imgBegin
  | imgWrite
  | imgVerify (ecc : Ecc)
  | bootTrial
  | commitTrial
  | switch
  | setPolicy
  | nvInfo
  | logRead (ecc : Ecc)
  | gaspRead (ecc : Ecc)
  | calSave
  | wearRead
  | logMark
  | bundleBegin
  | bundleWrite
  | bundleVerify (ecc : Ecc)
  | bundleApply
  | bundleHoldStart (ecc : Ecc)
  | bundleConfirm
  | bundleRollback
  | confirmTimeout
  | bundleInfo
  | keyPut
  | keyDrop
  | keyInfo
  | auOpen (be : BE) (data : Word)
  | auFeed (be : BE) (data : Word)
  | auClose (be : BE) (data : Word)
  | auKeyErase (be : BE) (data : Word)
  | engineTurn
  | auContextTimeout (ctx : BitVec 2)
  | nporRise (range : HbRange)
  | rootPllLock
  | supplyOutOfRange (outside : Bool)
  | equaliserTracking (link : Link) (lane : BitVec 2) (up : Bool)
  deriving DecidableEq, Repr

end Sys2Proof
end

