-- ==== Sys2Proof/Decode.lean ====
section
/-!
DEFINITION. Decode.lean: the command a word spells. The table gives no row any bits, so no word spells one.
-/
namespace Sys2Proof

/-- The command that `nbits` bits with the value `w` spell: none, since spec/opcode_table.json gives no encoding. -/
def decodeTableWord (_nbits _w : Nat) : Option Instr := none

end Sys2Proof
end

