-- ==== Sys2Proof/Config.lean ====
section
/-!
DEFINITION. Config.lean: the values the spec leaves open. Each is opaque: nothing in Lean can evaluate it, so a
statement holds whatever the value is. The assumption log names every one (entries 3 to 6, 79 and 80).
-/
namespace Sys2Proof.Config

/-- DESIGN CHOICE (log 3). A fresh free value for each use: an undefined read (R491), an unstated choice. The state's
counter `free` is the argument, so two uses need not agree. -/
opaque freeWord : Nat → BitVec 32

/-- DESIGN CHOICE (log 4). The hash that selects a set of the translation cache; R161 leaves it unspecified. The
arguments are the tenant and the key. -/
opaque cacheHash : Nat → Nat → Nat

/-- DESIGN CHOICE (log 5). The SHA-256 digests of the four ROM verification keys; the spec gives no value (R354). -/
opaque romKey : Nat → BitVec 256

/-- DESIGN CHOICE (log 6). The device-unique key of the sealed key store; the spec gives no value (R403). -/
opaque deviceKey : List (BitVec 8)

/-- DESIGN CHOICE (log 79). The starting state of the replacement tree of a set of a cache; R161 leaves it and its
convention unspecified. The arguments are the cache and the set. -/
opaque plruStart : Nat → Nat → BitVec 8

/-- DESIGN CHOICE (log 80). The implementation code of the part's CAP0; the spec gives no value (Table LB-6). -/
opaque implCode : BitVec 16

end Sys2Proof.Config
end

