-- ==== Sys2Proof/Machine/Bits.lean ====
section
/-!
DEFINITION. Machine/Bits.lean: bit fields, byte enables, saturating counts and the sparse tables the state is made of.
-/
namespace Sys2Proof.Machine

/-- The field of `n` bits of a word that begins at bit `lo`, as a number. -/
def fld (w : Word) (lo n : Nat) : Nat := (w.toNat >>> lo) % 2 ^ n

/-- Bit `i` of a word. -/
def bit (w : Word) (i : Nat) : Bool := w.getLsbD i

/-- A number placed as a field at bit `lo` of a word. -/
def put (v lo : Nat) : Word := BitVec.ofNat 32 (v <<< lo)

/-- A flag placed at bit `i` of a word. -/
def putB (b : Bool) (i : Nat) : Word := if b then BitVec.ofNat 32 (1 <<< i) else 0

/-- The mask of the enabled bytes: bit n of `be` is 1 when nBE[n] is low (R128). -/
def beMask (be : BitVec 4) : Word :=
  (if be.getLsbD 0 then 0x000000FF else 0) ||| (if be.getLsbD 1 then 0x0000FF00 else 0) |||
  (if be.getLsbD 2 then 0x00FF0000 else 0) ||| (if be.getLsbD 3 then 0xFF000000 else 0)

/-- The bits of `mask` taken from `new`, the others from `old`. -/
def mergeMask (mask old new : Word) : Word := (old &&& ~~~mask) ||| (new &&& mask)

/-- An 8-bit count that saturates at 255 (R31, R109, R117). -/
def satInc8 (b : BitVec 8) : BitVec 8 := if b = 0xFF then b else b + 1

/-- A threshold field whose value 0 acts as 1 (R111, R162, R289, R307). -/
def atLeastOne (n : Nat) : Nat := if n = 0 then 1 else n

/-- A sparse table: entries by rising key, none equal to what its key reads as by default. -/
abbrev Tab (α : Type) := List (Nat × α)

/-- The entry of a key, or the default `d` where none is listed. -/
def tabGet {α : Type} (t : Tab α) (d : α) (k : Nat) : α :=
  match t with
  | [] => d
  | (j, v) :: r => if j = k then v else tabGet r d k

/-- The table without any entry of a key. -/
def tabErase {α : Type} (t : Tab α) (k : Nat) : Tab α := t.filter fun p => p.1 ≠ k

/-- The table with a key listed at a value, in rising order. -/
def tabPut {α : Type} (t : Tab α) (k : Nat) (v : α) : Tab α :=
  match t with
  | [] => [(k, v)]
  | (j, w) :: r => if j = k then (k, v) :: r else if k < j then (k, v) :: (j, w) :: r else (j, w) :: tabPut r k v

/-- A write: the value the default gives is not listed, so equal tables are equal data. -/
def tabSet {α : Type} [DecidableEq α] (t : Tab α) (d : α) (k : Nat) (v : α) : Tab α :=
  if v = d then tabErase t k else tabPut t k v

/-- The canonical form: keys strictly rising, no entry equal to the default of its key. -/
def tabWf {α : Type} [DecidableEq α] (d : Nat → α) (t : Tab α) : Bool :=
  match t with
  | [] => true
  | [(k, v)] => decide (v ≠ d k)
  | (k, v) :: (j, w) :: r => decide (v ≠ d k) && decide (k < j) && tabWf d ((j, w) :: r)

/-- A value placed in a list before the first entry it does not come after. -/
def insertBy {α : Type} (le : α → α → Bool) (x : α) : List α → List α
  | [] => [x]
  | y :: r => if le x y then x :: y :: r else y :: insertBy le x r

/-- A list in the order `le`, entries of equal rank as they stood. -/
def sortBy {α : Type} (le : α → α → Bool) : List α → List α
  | [] => []
  | x :: r => insertBy le x (sortBy le r)

/-- Numbers 0 to n − 1 in rising order. -/
def upTo (n : Nat) : List Nat := List.range n

/-- A fold of a state over a list. -/
def foldS {σ α : Type} (f : σ → α → σ) (s : σ) (l : List α) : σ := l.foldl f s

end Sys2Proof.Machine
end

