-- ==== Sys2Proof/Machine/LineCode.lean ====
section
/-!
DEFINITION. Machine/LineCode.lean: the line code of a lane as functions on bits and grains: MARK and IDLE, the MARK check,
the scrambler and the stuffing rule (chapter 10, R216 to R229). Line bits are in transmission order.
-/
namespace Sys2Proof.Machine

/-- A 64-bit grain (R216). -/
abbrev Grain := BitVec 64

/-- The bits of a grain in the order of the line, bit 0 first (R216), and the grain that 64 line bits make. -/
def grainBits (g : Grain) : List Bool := (upTo 64).map g.getLsbD
def grainOf (bs : List Bool) : Grain := BitVec.ofNat 64 (bs.foldr (fun b n => 2 * n + b.toNat) 0)

/-! ## MARK and IDLE (R224 to R226) -/

/-- One bit of the check register of R225. -/
def checkBit (r : BitVec 16) (b : Bool) : BitVec 16 :=
  let f := xor b (r.getLsbD 15)
  let r := r <<< 1
  if f then r ^^^ 0x1021 else r

/-- CHECK over bits 32 to 47 of a grain, bit 32 first. -/
def markCheck (g : Grain) : BitVec 16 :=
  ((upTo 16).map fun i => g.getLsbD (32 + i)).foldl checkBit 0xFFFF

/-- Bits [47:0] of a MARK: the run, the lane field, SEQ (Table LN-3). -/
def markHead (lane : BitVec 2) (seq : BitVec 8) : Grain :=
  0xFFFFFFFF#64 ||| ((0x40#64 ||| (lane.setWidth 64 <<< 1)) <<< 32) ||| (seq.setWidth 64 <<< 40)

/-- The MARK of a lane with a sequence number. -/
def mark (lane : BitVec 2) (seq : BitVec 8) : Grain :=
  let h := markHead lane seq
  h ||| ((markCheck h).setWidth 64 <<< 48)

/-- The IDLE grain (R226). -/
def idleGrain : Grain := 0x55555555F0000000

def markLane (g : Grain) : BitVec 2 := g.extractLsb' 33 2
def markSeq (g : Grain) : BitVec 8 := g.extractLsb' 40 8

/-- A candidate of R227 is valid: run, break bit, fixed bits and CHECK. -/
def markValid (g : Grain) : Bool :=
  g.extractLsb' 0 32 = 0xFFFFFFFF && !g.getLsbD 32 && g.extractLsb' 35 5 = 0x08 && g.extractLsb' 48 16 = markCheck g

/-- The polarity correction of R228. -/
def polarity (inverted : Bool) (g : Grain) : Grain := if inverted then ~~~g else g

/-- A training grain is accepted (R242): a listed step, and zero bits above. -/
def trainingGrainOk (g : Grain) : Bool :=
  let st := (g.extractLsb' 0 4).toNat
  g.extractLsb' 16 48 = 0 && (st = 3 || st = 4 || st = 8 || st = 10 || st = 11 || st = 12)

/-! ## The scrambler (R220, R221) -/

/-- The seed S(n, q). -/
def seed (lane : BitVec 2) (seq : BitVec 8) : BitVec 31 :=
  ((0x2D5A0F31#32) ^^^ (lane.setWidth 32 * 0x01010101#32) ^^^ (seq.setWidth 32 * 0x00010000#32)).setWidth 31

/-- The first 31 keystream bits. -/
def keyStart (s : BitVec 31) : List Bool := (upTo 31).map fun k => s.getLsbD (30 - k)

/-- The keystream goes on: the window holds the last 31 bits, oldest first. -/
def keyNext (win : List Bool) : Bool := xor (win.getD 3 false) (win.getD 0 false)

/-- n bits of keystream from a window that holds the next 31. -/
def keyFrom : Nat → List Bool → List Bool
  | 0, _ => []
  | n + 1, win => win.headD false :: keyFrom n (win.drop 1 ++ [keyNext win])

/-- The keystream n bits on. -/
def keySkip : Nat → List Bool → List Bool
  | 0, win => win
  | n + 1, win => keySkip n (win.drop 1 ++ [keyNext win])

/-- The first n bits of keystream after a MARK. -/
def keystream (lane : BitVec 2) (seq : BitVec 8) (n : Nat) : List Bool := keyFrom n (keyStart (seed lane seq))

/-- Scrambling and descrambling are the same exclusive-or. -/
def scramble (key data : List Bool) : List Bool := List.zipWith xor key data

/-! ## Stuffing (R222, R223) -/

/-- The run at the end of the line bits sent so far: its bit and its length. -/
structure Run where
  v : Bool := false
  n : Nat := 0
  deriving DecidableEq, Repr

/-- The run after one more line bit. -/
def Run.push (r : Run) (b : Bool) : Run := if b = r.v then { r with n := r.n + 1 } else ⟨b, 1⟩

/-- The run after more line bits. -/
def Run.after (r : Run) (bs : List Bool) : Run := bs.foldl Run.push r

/-- The line bits of data bits: before a bit, one stuff bit of the opposite value where the last 24 bits are alike. -/
def stuff (r : Run) : List Bool → List Bool
  | [] => []
  | b :: bs =>
    if 24 ≤ r.n then (!r.v) :: b :: stuff ((r.push (!r.v)).push b) bs
    else b :: stuff (r.push b) bs

/-- What the receiver takes from the line for one data grain: its bits, still scrambled; the lane errors counted; the run
after them; the line bits that follow. -/
structure Taken where
  bits : List Bool
  errs : Nat
  run  : Run
  rest : List Bool
  deriving DecidableEq, Repr

/-- The lane errors of a line bit within a data grain (Table LN-6): STUFF, where a removed bit goes on with its run, and RUN,
where a run that does not lie within a MARK or an IDLE reaches 25 bits, or has more as the grain begins. A removed bit that
goes on with its run is both. DEDUCED (log 78). -/
def bitErrors (first : Bool) (r : Run) (b : Bool) : Nat :=
  if b = r.v && 24 ≤ r.n then 1 + (if r.n = 24 || first then 1 else 0) else 0

/-- The receiver's side of stuffing: `need` more data bits are taken from the line, and every bit after 24 alike is removed
(R223). The answer none: the line has not brought them yet. -/
def destuff (first : Bool) (need : Nat) (r : Run) (acc : List Bool) (errs : Nat) : List Bool → Option Taken
  | [] => if need = 0 then some ⟨acc.reverse, errs, r, []⟩ else none
  | b :: bs =>
    if need = 0 then some ⟨acc.reverse, errs, r, b :: bs⟩
    else if 24 ≤ r.n then destuff false need (r.push b) acc (errs + bitErrors first r b) bs
    else destuff false (need - 1) (r.push b) (b :: acc) errs bs

/-- The guard bit of R218 before a grain whose first bit is v, after the run of the line so far. -/
def guardBit (r : Run) (v : Bool) : List Bool := if r.v = v && r.n ≠ 0 then [!v] else []

/-! ## Sending and classifying grains (R218, R229) -/

/-- The line bits of a MARK or an IDLE: a guard bit where one is due, then the grain as it stands (R218, R224, R226). -/
def specialLine (r : Run) (g : Grain) : List Bool := guardBit r (g.getLsbD 0) ++ grainBits g

/-- The line bits of a data grain: scrambled, then stuffed (R221, R222). -/
def dataLine (r : Run) (key : List Bool) (g : Grain) : List Bool := stuff r (scramble (keyFrom 64 key) (grainBits g))

/-- What stands at a grain boundary (R229). -/
inductive Start where
  | guard | mark | idle | data
  deriving DecidableEq, Repr

/-- The line begins with n bits of value v and then one of the other value. -/
def runOf (v : Bool) (n : Nat) (bs : List Bool) : Bool := bs.take (n + 1) = List.replicate n v ++ [!v]

/-- The classification of R229, in its order. -/
def startOf (bs : List Bool) : Start :=
  let b := bs.headD false
  if (bs.drop 1).take 28 = List.replicate 28 (!b) then .guard
  else if runOf true 32 bs then .mark
  else if runOf false 28 bs then .idle
  else .data

/-- The search of R227: the first run of exactly 32 bits, preceded and followed by the other value; the answer is its value
and the line from its first bit on. -/
def findRun : List Bool → Option (Bool × List Bool)
  | [] => none
  | x :: rest => if runOf (!x) 32 rest then some (!x, rest) else findRun rest

end Sys2Proof.Machine
end

