-- ==== Sys2Proof/Machine/State.lean ====
section
/-!
DEFINITION. Machine/State.lean: everything the spec gives the machine, as plain data, with its value after power-on.
-/
namespace Sys2Proof.Machine

/-! ## Configuration and registers -/

/-- A register of sequence-clear flags: flags in [23:0], sequence number in [31:24] (R132). -/
structure SqReg where
  flags : BitVec 24 := 0
  seq   : BitVec 8 := 0
  deriving DecidableEq, Repr

/-- The configuration and register words. Tables are sparse: a key that is not listed reads as its reset value. -/
structure Cfg where
  /-- Shadow and live words of the HL-class fields: registers, window tables, tenant pages (R115, R116). -/
  shadow : Tab Word := []
  live   : Tab Word := []
  /-- Immediate-class RW words of the management window (R121). -/
  im     : Tab Word := []
  /-- Sequence-clear registers, by offset (R132). -/
  sq     : Tab SqReg := []
  /-- Wrapping counters of the queues and counters group, by offset (R443, Table RG-14). -/
  cnt    : Tab Word := []
  deriving DecidableEq, Repr

/-- The management bus: what the refused access was, the last read's data, the captures of R438, the window. -/
structure Bus where
  /-- MB_ERR.CODE, RD and ADDR (R131). -/
  errCode : BitVec 4 := 0
  errRd   : Bool := false
  errAddr : BitVec 14 := 0
  /-- D[31:0] of the last served read (R126). -/
  rdata   : Word := 0
  /-- Later words held by the base and live-view captures of each multi-word register, by base offset and word (R438). -/
  capBase : Tab Word := []
  capLive : Tab Word := []
  /-- TW_STAT.ERR and COUNT (R140). -/
  twErr   : BitVec 4 := 0
  twCount : BitVec 8 := 0
  deriving DecidableEq, Repr

/-! ## Timebase and headland -/

/-- States of the timebase (Table HL-1); TB_STAT.STATE codes 0 to 3. -/
inductive TbMode where
  | free | acquire | locked | flywheel
  deriving DecidableEq, Repr

structure Timebase where
  /-- The timebase has started: the root PLL has locked since nPOR (R105). -/
  started : Bool := false
  /-- TB_STAT.STATE (Table HL-1, R106 to R111). -/
  mode    : TbMode := .free
  /-- TB_STAT.CAUSE (R111). -/
  cause   : BitVec 2 := 0
  /-- TB_STAT.MISS and ERR (R109). -/
  miss    : BitVec 8 := 0
  err     : BitVec 9 := 0
  /-- Frame phase, length of the current frame and of the next one (R105, R108). -/
  phase   : Nat := 0
  len     : Nat := 77760
  nextLen : Nat := 77760
  /-- TB_FRAME (R105). -/
  frame   : Word := 0
  /-- An edge was accepted in the current frame (R108). -/
  accepted : Bool := false
  /-- A step ends the current frame at once (R110). -/
  stepEnd : Bool := false
  /-- The loss of this flywheel has been flagged (R111). -/
  lossFlagged : Bool := false
  /-- Length of the qualifying run (R110). -/
  run     : Nat := 0
  deriving DecidableEq, Repr

/-- The headland and the integrity scan. -/
structure Headland where
  /-- HL_STAT.LEFT: frame boundaries to the next headland; 0 while a headland is due (R113). -/
  left  : Nat := 1
  /-- HL_SEQ (R114). -/
  seq   : Word := 0
  /-- HL_STAT.DIRTY and HELD (R117, R118). -/
  dirty : Bool := false
  held  : BitVec 8 := 0
  /-- SHADOW_HOLD of a bundle (R414), beside the register's. -/
  bundleHold : Bool := false
  /-- The scan: segment, a live value changed at the last commit, CFG_CRC, SNAP_PEND, PASSES (R141 to R145). -/
  seg   : Nat := 0
  epoch : Bool := true
  done  : Option Word := none
  crc   : Word := 0
  snapPend : Bool := false
  passes : BitVec 16 := 0
  deriving DecidableEq, Repr

/-! ## INTIDs, offers and targets -/

/-- The five states of an INTID, Offered in its two substates (R16); STATE codes 0 to 5 (Table IS-6). -/
inductive IntState where
  | inactive | pending | offeredP | offeredE | active | completed
  deriving DecidableEq, Repr

/-- What has become of the recall of a ticket (R74). -/
inductive Recall where
  | none | flagged | sent
  deriving DecidableEq, Repr

/-- A current ticket: an OFFER or SUPERSEDE from event S until it is retired (R69, R70). -/
structure Offer where
  target : Target
  ticket : BitVec 8
  /-- The effective priority fixed at event S (R50). -/
  prio   : BitVec 8
  /-- It was made as a SUPERSEDE. -/
  supersede  : Bool
  /-- A wake grant was held for it when it was made (R318). -/
  granted : Bool := false
  /-- Order of placing, the position in Q-DLV. -/
  born   : Nat
  /-- Commits since event X (R73). -/
  cnt    : Nat := 0
  /-- Its recall (R74). -/
  rcl    : Recall := .none
  /-- Commits since the RECALL was sent, and whether its timeout has been counted (R75). -/
  rcnt   : Nat := 0
  tmoCounted : Bool := false
  deriving DecidableEq, Repr

/-- The event a completion notification reports: its link, tenant and key (R178). -/
structure NoteKey where
  link   : Link
  tenant : Tenant
  dev    : BitVec 16
  ev     : BitVec 16
  deriving DecidableEq, Repr

/-- A pool entry's copy of an extended configuration word (R170, R171). -/
structure XCopy where
  word    : Word
  stamp   : Word
  /-- The tenant that owned the INTID when the entry was allocated (R527). -/
  owner   : Tenant
  /-- The copy has expired and is to be refetched. -/
  expired : Bool := false
  /-- Its refetch has faulted: it stays in use for the present delivery (R171, R527). -/
  kept    : Bool := false
  /-- The serial number of the invalidation that expired it (R168). -/
  invBorn : Option Nat := none
  /-- A differing word that replaces the copy at the next commit. -/
  staged  : Option (Word × Word) := none
  deriving DecidableEq, Repr

/-- One INTID (for 0 to 31, at one target). The record not listed is `IntRec.idle`. -/
structure IntRec where
  st     : IntState := .inactive
  /-- Age in headlands (R47). -/
  age    : BitVec 8 := 0
  /-- LOST count (R31). -/
  lost   : BitVec 8 := 0
  /-- Its current ticket, while there is one (R69). -/
  offer  : Option Offer := none
  /-- The target that holds it Active (R22). -/
  holder : Target := 0
  /-- Marked for discard (R199). -/
  discard : Bool := false
  /-- The trigger that last took it out of Inactive or Completed asked for a notification (R28). -/
  note   : Option NoteKey := none
  /-- The number of its notification while that stands in Q-CMP (R29). -/
  noteId : Option Nat := none
  /-- The pool's copy of an extended configuration word (R170). -/
  copy   : Option XCopy := none
  deriving DecidableEq, Repr

/-- One target: the view (R41 to R45), its sleep code, its ticket counter, its furrow entry (R53), the wired record. -/
structure TgtRec where
  pmr    : BitVec 8 := 0
  bpr    : BitVec 3 := 0
  rpr    : BitVec 8 := 0xFF
  /-- SLEEP code (Table PW-1): 0 AWAKE, 1 DOZE, 2 SLEEP, 3 DEEP. -/
  sleep  : BitVec 2 := 0
  /-- The ticket given last (R69). -/
  lastTicket : BitVec 8 := 0
  /-- The furrow's best candidate (R53). -/
  best   : Option Intid := none
  /-- The 256-bit active-priority record of a wired target (R102). -/
  record : BitVec 256 := 0
  /-- Its WOUT pin has been asserted since the target last held no ticket (R98). -/
  wout   : Bool := false
  /-- The last level reported by PRIV for each private source (R97). -/
  levels : BitVec 16 := 0
  deriving DecidableEq, Repr

/-- A form-1 SIGNAL whose destinations are being triggered (R96): its number, and the destinations still to come. -/
structure FanOut where
  num  : BitVec 4
  rest : List Target
  deriving DecidableEq, Repr

/-- The interrupt path. -/
structure Irq where
  /-- The INTIDs, by `ikey`. -/
  ints : Tab IntRec := []
  /-- The targets, by number. -/
  tgts : Tab TgtRec := []
  /-- PTR of each set (R59). -/
  ptrs : Tab (BitVec 8) := []
  /-- Choices that wait to be placed (R61). -/
  choices : List (Target × Intid) := []
  /-- Serial number of offers. -/
  serial : Nat := 0
  /-- Wired inputs: level at the pin after the synchroniser, filtered level, a transition being filtered (R523). -/
  wPin  : BitVec 96 := 0
  wFilt : BitVec 96 := 0
  wTran : BitVec 96 := 0
  /-- The CCLK (`now`) in which the transition of an input was detected (R523, R524). -/
  wSince : Tab Nat := []
  /-- The pointer of each furrow bank: the place, 0 to 15, of the target it refreshes next (R53). -/
  bankPos : Tab Nat := []
  /-- The form-1 fan-outs in progress, oldest first (R96). -/
  fans : List FanOut := []
  deriving DecidableEq, Repr

/-! ## Sowing, translation and tenants -/

/-- An event on Q-IN (R149). -/
structure SowEvent where
  tenant : Tenant
  link   : Link
  dev    : BitVec 16
  ev     : BitVec 16
  deriving DecidableEq, Repr

/-- A walk-blocked event (R202). -/
structure Blocked where
  e      : SowEvent
  merged : BitVec 4 := 1
  deriving DecidableEq, Repr

inductive WalkKind where
  | event | spill | refetch | sweep
  deriving DecidableEq, Repr

/-- The access a walk makes next (R155, R172); of a sweep, a block's read, a configuration word or its CLRBITS (R174). -/
inductive WalkStage where
  | dt | et | xcfg | spill | block | clear
  deriving DecidableEq, Repr

/-- A walk, refetch, spill write or sweep that holds a walk tag (R157, R174). -/
structure Walk where
  tag    : BitVec 6
  gen    : BitVec 4
  kind   : WalkKind
  /-- The event, with its ingress link, and the links of the events that joined it, in order. -/
  e      : SowEvent
  joined : List Link := []
  /-- The step it began with, and the step at hand. -/
  start  : WalkStage
  stage  : WalkStage
  /-- The 49-bit address of the access at hand (R182). -/
  addr   : Nat
  /-- Live tables at the first read (R122). -/
  dtLog2 : Nat := 0
  xBase  : Nat := 0
  xAddr  : Nat := 0
  /-- What the tables gave: INTID, NOTIFY, NAK (R155). -/
  intid  : Intid := 0
  notify : Bool := false
  nak    : Bool := false
  /-- HL_SEQ at the first read (R162). -/
  stamp  : Word
  /-- Its serial number, for the barriers of R168 and R191. -/
  born   : Nat
  /-- Serial number of its first region check (R191). -/
  firstChk : Option Nat := none
  /-- The link whose VC queue the access at hand has entered: a read is outstanding from then on (R156, R201). -/
  issued : Option Link := none
  /-- The check has passed and the access waits for this link to be ACTIVE (R156, R185). -/
  waits  : Option Link := none
  /-- Data words received for a read so far, by word number (Table LP-5, R281). -/
  got    : Tab Word := []
  /-- It has been repeated once (R163). -/
  repeated : Bool := false
  /-- An invalidation covered it: no fill. Extended INTIDs invalidated while its own was not known (R166). -/
  noFill : Bool := false
  invs   : List (Nat × Nat) := []
  /-- Abandoned (R201): kept only for its outstanding read; OUTSTANDING has been forced to 0 meanwhile (R207). -/
  dead   : Bool := false
  forced : Bool := false
  /-- A spill write's bit in its block (R267). -/
  bitNo  : Nat := 0
  /-- The stamp of the cached translation that a word-only walk began from (R150, R162). -/
  tStamp : Word := 0
  /-- A sweep: it ends with the block at hand; its block; set bits still to be re-injected; bits re-injected; bits spilled into the block meanwhile, which
  the sweep re-injects and memory does not hold (R174). -/
  stop   : Bool := false
  block  : Nat := 0
  todo   : List Nat := []
  did    : List Nat := []
  extra  : List Nat := []
  deriving DecidableEq, Repr

/-- A translation-cache entry, with its way in its set (R159). -/
structure TransEntry where
  part   : Link
  way    : Nat := 0
  e      : SowEvent
  intid  : Intid
  notify : Bool
  nak    : Bool
  stamp  : Word
  deriving DecidableEq, Repr

/-- A configuration-cache entry, with its way in its set (R160). -/
structure XcfgEntry where
  way   : Nat := 0
  intid : Intid
  word  : Word
  stamp : Word
  deriving DecidableEq, Repr

/-- A fault record on Q-FLT (Table TW-9, without LOSS). -/
structure FltRec where
  code   : BitVec 8
  tenant : Tenant
  link   : Link
  nak    : Bool
  stage  : BitVec 3
  dev    : BitVec 16
  ev     : BitVec 16
  addr   : BitVec 48
  region : BitVec 5
  rhit   : Bool
  hlseq  : BitVec 8
  deriving DecidableEq, Repr

/-- An event record on Q-EVT (Table TW-10). -/
structure EvtRec where
  kind   : BitVec 8
  tenant : Tenant
  link   : Link
  hlseq  : Word
  data   : BitVec 64
  deriving DecidableEq, Repr

/-- A NOTE on Q-CMP (R178). -/
structure Note where
  key    : NoteKey
  intid  : Intid
  nak    : Bool
  code   : BitVec 8
  /-- The number of a completion notification. -/
  id     : Option Nat
  deriving DecidableEq, Repr

/-- An invalidation on the queue (R165, R166). `born` orders it against SYNC and barriers. -/
structure InvReq where
  tenant : Tenant
  scope  : BitVec 4
  dev    : BitVec 16
  ev     : BitVec 16
  intid  : Intid
  born   : Nat
  deriving DecidableEq, Repr

/-- A pending invalidation held outside the queue (R426): TENANT_ALL, or XCFG_ALL over the ranges named. -/
structure PendInv where
  tenant : Tenant
  xcfg   : Bool
  ranges : List (Nat × Nat)
  born   : Nat
  /-- The serial number at which R189 entered it or merged into it last (R191). -/
  region : Option Nat := none
  deriving DecidableEq, Repr

/-- A ring write that has passed its check and stands in the VC-P queue of its link (R204, R209): the link, its address,
and the serial number of its check (R191). -/
structure RingVc where
  link : Link
  addr : Nat
  born : Nat
  deriving DecidableEq, Repr

/-- The translation path. -/
structure Xlate where
  qIn    : List SowEvent := []
  blocked : List Blocked := []
  walks  : List Walk := []
  /-- Generation last used of each walk tag (R157). -/
  gens   : Tab (BitVec 4) := []
  /-- The translation cache and the configuration cache (R159, R160). -/
  tcache : List TransEntry := []
  xcache : List XcfgEntry := []
  /-- The replacement trees of the sets used so far: 3 bits a set of the translation cache, 7 of the other (R161). -/
  tlru   : Tab (BitVec 8) := []
  xlru   : Tab (BitVec 8) := []
  /-- Q-FLT, Q-EVT and Q-CMP (R176 to R178, R423). -/
  qFlt   : List FltRec := []
  qEvt   : List EvtRec := []
  qCmp   : List Note := []
  /-- The first record of Q-FLT and of Q-EVT, once it stands in a VC queue (R209). -/
  fltVc  : Option RingVc := none
  evtVc  : Option RingVc := none
  /-- The tenant swept last (R174). -/
  swept  : Tenant := 255
  /-- The invalidation queue, and the pending invalidations held outside it (R166, R426). -/
  inv    : List InvReq := []
  pend   : List PendInv := []
  /-- The link admitted last from a receive buffer (R149). -/
  lastAdmit : Link := 7
  /-- Serial numbers of walks and invalidations; of notifications. -/
  serial : Nat := 0
  noteSerial : Nat := 0
  /-- REGION_SYNC (R190, R191): DONE, DIRTY, HLSEQ and the serial number the barrier covers. -/
  rsDone : Bool := true
  rsDirty : Bool := false
  rsSeq  : Word := 0
  rsMark : Nat := 0
  /-- High-water marks of Q_HWM0 to Q_HWM3 by field, and of the pool (R443, Table CQ-7). -/
  hwm    : Tab Nat := []
  deriving DecidableEq, Repr

/-- A ring's pointers (R208). -/
structure Ring where
  head : BitVec 16 := 0
  tail : BitVec 16 := 0
  deriving DecidableEq, Repr

/-- One tenant: the state behind its page (R196, R204, R208) and its COUNTERS entry (Table TP-12). -/
structure TenRec where
  resetPend : Bool := false
  /-- 2 ms have passed, or QUIESCED has been set, since the reset request: the default step is due (R207). -/
  stepDue  : Bool := false
  /-- QUIESCED (R204). -/
  quiesced : Bool := true
  /-- Reads issued and posted writes checked, not yet ended (R204). -/
  outstanding : Nat := 0
  /-- FN_STAT.SPILL, the spill flag of R174 (R196). -/
  spill    : Bool := false
  /-- INV_KEY, INV_XID (R463). -/
  invKey   : Word := 0
  invXid   : Intid := 0
  /-- SYNC (R168): TOKEN, DONE, and the serial number it covers. -/
  token    : BitVec 16 := 0
  syncDone : Bool := true
  syncMark : Nat := 0
  /-- The pointers of the fault ring and of the event ring (R208). -/
  fault    : Ring := {}
  event    : Ring := {}
  /-- Records lost since the last written one (Table TW-9). -/
  loss     : BitVec 8 := 0
  /-- The COUNTERS entry, words 0 to 5 (R460, Table TP-12). -/
  c0 : Word := 0
  c1 : Word := 0
  c2 : Word := 0
  c3 : Word := 0
  c4 : Word := 0
  c5 : Word := 0
  deriving DecidableEq, Repr

/-! ## Links -/

/-- Link states (Table LB-1 and R306); LK_STAT.STATE codes 0x0 to 0xD in this order. -/
inductive LinkState where
  | down | detect | clock | align | order | caps | rate | clockAtRate | alignAtRate | active | regroup
  | idle | fallow | wake
  deriving DecidableEq, Repr

/-- A TLP in the replay buffer (R268): its words as first sent, and the ring record it carries, if any (R431):
the event ring or a fault ring, and the tenant. -/
structure Tlp where
  seq   : BitVec 12
  words : List Word
  ring  : Option (Bool × Tenant) := none
  deriving DecidableEq, Repr

/-- A TLP in a VC-P receive buffer: a posted write of a tenant page, or a malformed TLP of its length (R149, R166, R270,
R275). -/
structure PWrite where
  fn   : Tenant
  off  : BitVec 12
  be   : BE
  data : Word
  malformed : Bool := false
  grains : Nat := 3
  deriving DecidableEq, Repr

/-- A TLP of the walker in a VC queue of a link (R201, R282), with the tag it was made under. -/
structure VcTlp where
  type   : Nat
  grains : Nat
  fn     : Tenant
  body   : List Word
  tag    : BitVec 6
  deriving DecidableEq, Repr

/-- Transmit credit of one limited VC (R277): initial credit, grains sent, grains reported freed, last value taken. -/
structure Credit where
  init  : Nat := 0
  sent  : Nat := 0
  freed : Nat := 0
  last  : BitVec 12 := 0
  deriving DecidableEq, Repr

/-- Receive side of one limited VC (R278): grains held in the receive buffer, and grains freed since
ACTIVE. -/
structure RxCredit where
  held  : Nat := 0
  freed : BitVec 12 := 0
  deriving DecidableEq, Repr

/-- The link layer of one link (R268 to R279). -/
structure LinkLayer where
  txSeq  : BitVec 12 := 0
  rxExp  : BitVec 12 := 0
  /-- A TLP has been accepted since ACTIVE, so an ACK value exists. -/
  rxAny  : Bool := false
  /-- A NAK has been sent and its TLP not yet accepted; the receiver hunts; an ACK is due (R271 to R273). -/
  nakSent : Bool := false
  hunt   : Bool := false
  ackDue : Bool := false
  /-- The sequence of a NAK that is due; VCs whose freed count is to be reported, by number; CCLK for which something has
  been due (R269, R272, R277). -/
  nakDue : Option (BitVec 12) := none
  crDue  : BitVec 4 := 0
  dueAge : Nat := 0
  /-- The replay buffer, oldest first (R268), and what a replay in progress has still to send (R273). -/
  replay : List Tlp := []
  rpl    : List Tlp := []
  /-- Consecutive replays without a TLP freed (R274). -/
  noProg : Nat := 0
  /-- Grains of the packet at hand that no transmit FIFO holds yet; the number of the next grain of the stream; the number
  of the next grain to be taken from the receive lanes (R262). -/
  out    : List Grain := []
  txK    : Nat := 0
  rxK    : Nat := 0
  /-- Grains received of a packet that is not complete (R269). -/
  frame  : List Grain := []
  /-- Transmit credit of VC-P, VC-N and VC-I (R276, R277). -/
  p : Credit := {}
  n : Credit := {}
  i : Credit := {}
  /-- Receive side of VC-P, VC-N and VC-I (R278). -/
  rxP : RxCredit := {}
  rxN : RxCredit := {}
  rxI : RxCredit := {}
  /-- Posted writes held in the VC-P receive buffer behind a blocked one (R149). -/
  vpWait : List PWrite := []
  /-- Completions built and not yet in the replay buffer. -/
  cplQ   : List (List Word) := []
  /-- The walker's TLPs in the VC-N queue and in the VC-P queue; whether VC-N had the last turn between the two; the
  posted-write source that had the last turn: Q-CMP, Q-FLT, Q-EVT, the walker (R282). -/
  vnQ    : List VcTlp := []
  vpQ    : List VcTlp := []
  lastN  : Bool := false
  lastSrc : BitVec 2 := 3
  deriving DecidableEq, Repr

/-- The handshake of a training step or regroup (R244, R248). -/
structure Shake where
  /-- A grain of the step has been accepted; READY and GO have been received; GO in an answer to the part's (R248). -/
  got    : Bool := false
  farReady : Bool := false
  farGo  : Bool := false
  /-- READY and GO of the part, and whether a whole interval has been sent with each. -/
  ready  : Bool := false
  go     : Bool := false
  sentReady : Bool := false
  sentGo : Bool := false
  /-- RXMASK as frozen with READY. -/
  frozen : BitVec 4 := 0
  /-- What the part sends in an interval of the step, by its number: fixed when the first lane begins it (R241). -/
  latch  : List (Nat × List Grain) := []
  /-- The far end's capabilities: the grains of the interval at hand, whether the last one's copies agreed, and whether two
  in a row have, with what they gave (R248). -/
  capIv  : List Grain := []
  capOk  : Bool := false
  capHeld : Bool := false
  cap0   : BitVec 64 := 0
  cap1   : BitVec 64 := 0
  cap2   : BitVec 64 := 0
  deriving DecidableEq, Repr

/-- One link. -/
structure LinkRec where
  st      : LinkState := .down
  /-- The electrical-idle hold-off of R250 or R258 runs. -/
  holdoff : Bool := false
  /-- WIDTH, RATE, groups and masks of LK_STAT. -/
  width   : BitVec 2 := 0
  rate    : BitVec 2 := 0
  txGroup : BitVec 4 := 0
  rxGroup : BitVec 4 := 0
  rxMask  : BitVec 4 := 0
  farMask : BitVec 4 := 0
  reversed : Bool := false
  /-- RATE_CAP and FAILS (R250). -/
  rateCap : BitVec 2 := 3
  fails   : BitVec 8 := 0
  /-- Consecutive passes failed in RATE, CLOCK_AT_RATE or ALIGN_AT_RATE (R250). -/
  rateFails : Nat := 0
  /-- Detected set and the result of the last poll (R243). -/
  detected : BitVec 4 := 0
  lastPoll : BitVec 4 := 0
  /-- The far end's CAP0, CAP1, CAP2 (Table LB-6), kept until the next agreement (R444). -/
  far0    : BitVec 64 := 0
  far1    : BitVec 64 := 0
  far2    : BitVec 64 := 0
  /-- The rate and the width agreed in CAPS (R248, R249). -/
  agreedRate  : BitVec 2 := 0
  agreedWidth : BitVec 2 := 0
  /-- A regroup or rate change in progress: its cap, its new rate, width and rate when it started (R252, R257, R259). -/
  rgCap   : BitVec 2 := 0
  rgRate  : Option (BitVec 2) := none
  rgWidth0 : BitVec 2 := 0
  rgRate0 : BitVec 2 := 0
  /-- An entry MARK has been sent: to FALLOW (true) or IDLE (false) (R308). -/
  entry   : Option Bool := none
  /-- The step an exit from FALLOW has reached (R311). -/
  exitStep : Nat := 0
  /-- The handshake of the step at hand. -/
  hs      : Shake := {}
  /-- Its link layer. -/
  ll      : LinkLayer := {}
  /-- FAIL_CAUSE and the counts of LK_ERR, LK_REPLAY and the entry and exit counts (R274, R312, Table LP-9). -/
  failCause : BitVec 3 := 0
  crcErr  : BitVec 16 := 0
  nakCnt  : BitVec 16 := 0
  replays : BitVec 16 := 0
  malformed : BitVec 16 := 0
  idleEnt : BitVec 16 := 0
  fallEnt : BitVec 16 := 0
  entFail : BitVec 16 := 0
  exitFail : BitVec 16 := 0
  deriving DecidableEq, Repr

/-- The transmitter of one lane (R217 to R224, R241, R308). -/
structure LaneTx where
  /-- The transmit FIFO, at most eight grains (R217). -/
  fifo  : List Grain := []
  /-- Grains sent since the last MARK, that MARK's SEQ, and the number of its interval in training (R217, R224, R241). -/
  since : Nat := 0
  seq   : BitVec 8 := 255
  iv    : Nat := 0
  /-- The run at the end of the line bits made so far, and the keystream to come (R221, R222). -/
  run   : Run := {}
  key   : List Bool := []
  /-- Line bits made and not yet sent, and those of the last CCLK; none while the lane sends no bits. -/
  bits  : List Bool := []
  line  : List Bool := []
  /-- A MARK is due at the next grain boundary whatever the count (R244, R253, R310). -/
  force : Bool := false
  /-- TP1 bits still to be sent in an exit from IDLE (R310). -/
  tp1   : Nat := 0
  /-- After the entry MARK: IDLE grains still to be sent before electrical idle (R308). -/
  tail  : Option Nat := none
  deriving DecidableEq, Repr

/-- What a receiver does with the line bits of its lane (R227 to R229): it searches for a MARK, it has found one and parses
on to the next, or it parses with grain lock. -/
inductive Sync where
  | search | found | on
  deriving DecidableEq, Repr

/-- One physical lane: the fields of LANE_EQ (Table TP-10) and its transmitter and receiver (R227 to R232, R256). -/
structure LaneRec where
  /-- PEAK_NOW (R236, R237). -/
  peakNow : BitVec 4 := 6
  /-- MODE = 1 as the lane's last training took it (R236). -/
  fixed   : Bool := false
  /-- POL_INV, LFIELD, LOCK and ERRCNT (Table TP-10, R228, R231). -/
  polInv  : Bool := false
  lfield  : BitVec 2 := 0
  lock    : Bool := false
  errCnt  : BitVec 16 := 0
  /-- Its transmitter (R217). -/
  tx      : LaneTx := {}
  /-- Line bits received and not yet parsed, and the run that ends before them; they are as corrected for polarity except in a
  search. -/
  sync    : Sync := .search
  buf     : List Bool := []
  run     : Run := {}
  /-- Polarity, lane field and SEQ of the last MARK; the descrambler's keystream to come (R228, R230). -/
  inv     : Bool := false
  field   : BitVec 2 := 0
  seq     : BitVec 8 := 0
  key     : List Bool := []
  /-- Grains since the last MARK; the spacing in force is 1024, else 16; the last MARK stood at another place, and what
  follows it decides (R230, R231, R253). -/
  since   : Nat := 0
  wide    : Bool := false
  odd     : Bool := false
  /-- Data grains belong to the link's stream; else they are training or capability grains (R246). Training grains with GO
  since the last MARK; 16 after an ACTIVE MARK that the next grain has not followed yet. -/
  traffic : Bool := false
  goRun   : Nat := 0
  /-- Grains parsed since lock; the grain numbers of the last lane errors; bad MARKs in a row; good MARKs in a row since
  lock (R232, R256). -/
  gno     : Nat := 0
  errAt   : List Nat := []
  bad     : Nat := 0
  good    : Nat := 0
  /-- Equaliser tracking may change the peaking: the last grain parsed is a good MARK, or follows one, and it has not been
  used (R237). -/
  track   : Bool := false
  /-- Line bits received, and the number of the last one of each of the last MARKs, with its SEQ (R247). -/
  count   : Nat := 0
  marks   : List (BitVec 8 × Nat) := []
  /-- Data grains that destriping has not taken yet (R246, R262). -/
  fifo    : List Grain := []
  deriving DecidableEq, Repr

/-! ## Allotments -/

/-- A request to the arbiter (R287, R288). `client` is its ALLOT_CLIENT index; a combined wake and exit request names the
wake as its client and the link in `exit`. -/
structure Req where
  client : Nat
  prio   : BitVec 8
  exit   : Option Link := none
  /-- The INTID, by key, that a wake request is for (R62). -/
  key    : Option Nat := none
  /-- Order of raising (R291). -/
  order  : Nat
  /-- It is unfit, and has been counted so (R290). -/
  unfit  : Bool := false
  deriving DecidableEq, Repr

/-- A grant (R289): allotments held, tier, order, whether it has started, whether it is under revocation (R299). -/
structure Grant where
  client  : Nat
  held    : Nat
  prio    : BitVec 8
  saff    : Bool
  order   : Nat
  /-- The INTID, by key, that a wake grant was requested for (R289). -/
  key     : Option Nat := none
  started : Bool := false
  revoking : Bool := false
  deriving DecidableEq, Repr

structure Allot where
  /-- LEVEL, and PFAIL in force (R284, R285). -/
  level  : BitVec 4 := 0
  pfail  : Bool := false
  /-- The requests waiting and the grants held (R287, R289). -/
  reqs   : List Req := []
  grants : List Grant := []
  /-- Serial number of requests and grants (R291). -/
  serial : Nat := 0
  /-- ALLOT_STAT.OVERDRAFT and LEAN (R298, R302). -/
  overdraft : Bool := false
  lean   : Bool := false
  /-- Normal wakes granted since the last commit (R294). -/
  wakes  : Nat := 0
  /-- BREQ as adopted; clients that must see BREQ low before they may ask again (R296, R297). -/
  breq   : BitVec 8 := 0
  barred : BitVec 8 := 0
  /-- CNT_ALLOT_UNFIT, CNT_REVOKE, CNT_EXT_VIOL. -/
  cntUnfit  : Word := 0
  cntRevoke : Word := 0
  cntViol   : Word := 0
  deriving DecidableEq, Repr

/-! ## Modes, resets, pins -/

/-- The modes (Table MD-5); OPEN, RUN, LEAN, HOLD and THROTTLE are one state here, told apart by R333. -/
inductive Mode where
  | reset | load | safe | operating | fallow | lastGasp | shutdown | test
  deriving DecidableEq, Repr

structure Power where
  mode    : Mode := .reset
  driftHold : Bool := false
  /-- THR condition (R387). -/
  thr     : Bool := false
  /-- MODE_STAT.STW_DOWN and LOAD_TMO (R330, R337). -/
  stwDown : Bool := false
  loadTmo : Bool := false
  /-- RST_STAT (R327, Table MD-8). -/
  cause   : BitVec 4 := 1
  shut    : Bool := false
  count   : BitVec 8 := 0
  /-- STRAP_STAT[4:0]: HBMODE, BOOTSEL, FSYNCSRC, SAFE_FORCE (R331). -/
  straps  : BitVec 5 := 0
  /-- The cause that the next release records, and whether the reset ends a SHUTDOWN. -/
  nextCause : BitVec 4 := 1
  endsShut : Bool := false
  /-- nPOR and nRESET as adopted, root PLL locked. -/
  nporHigh : Bool := false
  nresetLow : Bool := false
  pllLocked : Bool := false
  /-- The range VDDHB stood in at the last nPOR rise (R494, R511); a supply is out of range (R486). -/
  hbRange : HbRange := .v33
  supplyOut : Bool := false
  /-- LAST-GASP: a record is being written; a warm reset deferred with its cause (R340). -/
  gaspWriting : Bool := false
  deferred : Option (BitVec 4) := none
  /-- Commits at which the conditions of R319 have held, PWR_STAT (R321). -/
  fallowRun : Nat := 0
  wakeSrc : BitVec 3 := 0
  wakeNum : BitVec 7 := 0
  /-- THERM_T0 to T3 (12-bit), sensors failed, sensors that warn (R386 to R389). -/
  t0 : BitVec 12 := 0
  t1 : BitVec 12 := 0
  t2 : BitVec 12 := 0
  t3 : BitVec 12 := 0
  tMax : BitVec 12 := 0
  tFail : BitVec 4 := 0
  /-- Rounds in a row in which each sensor stood more than 15 degrees from the others' median (R389). -/
  tDev  : Tab Nat := []
  /-- The warning stands (R387). -/
  tWarn : Bool := false
  /-- WOUT levels held in FALLOW and LAST-GASP (Table MD-7): driven, level. -/
  woutOe  : BitVec 16 := 0
  woutLvl : BitVec 16 := 0
  /-- MIRQ levels held in FALLOW (Table MD-7). -/
  mirqHeld : BitVec 4 := 0
  /-- Test access port: current instruction, BIST result register (R487, R490). -/
  ir      : BitVec 5 := 2
  bist    : BitVec 32 := 0
  /-- The update stage of the boundary-scan register, cell n at bit n (R489, log 24). -/
  bsr     : BitVec 432 := 0
  deriving DecidableEq, Repr
/-! ## The store, the Steward, the mailbox, the engine and bundles -/

/-- A queued mailbox command (R360). -/
structure MbxCmd where
  op  : BitVec 8
  tag : BitVec 8
  a0 : Word := 0
  a1 : Word := 0
  a2 : Word := 0
  a3 : Word := 0
  deriving DecidableEq, Repr

/-- A reply (R361). -/
structure Reply where
  op   : BitVec 8
  tag  : BitVec 8
  code : BitVec 8
  d0 : Word := 0
  d1 : Word := 0
  d2 : Word := 0
  d3 : Word := 0
  deriving DecidableEq, Repr

/-- What the Steward runs (Table MD-5, R330). -/
inductive Firmware where
  | none | monitor | olumon
  deriving DecidableEq, Repr

/-- The mailbox. Q-MBX is `q`, the command in work, and the replies not yet popped; the first of `replies` is shown. -/
structure Mailbox where
  q       : List MbxCmd := []
  /-- The command taken from `q` whose reply is not yet posted. -/
  busy    : Option MbxCmd := none
  /-- The reply it will get, once its work is done. -/
  done    : Option Reply := none
  /-- Replies posted and not popped (R361). -/
  replies : List Reply := []
  /-- MBX_STAT.BUF_BUSY and EPOCH (R360, R362). -/
  bufBusy : Bool := false
  epoch   : BitVec 4 := 0
  deriving DecidableEq, Repr

/-- The append areas of the store (R372, Table NV-3). -/
inductive Area where
  | journal | policy | log
  deriving DecidableEq, Repr

/-- The pairing policy (Table SW-4). -/
structure Policy where
  allow  : Bool := false
  revoke : BitVec 4 := 0
  active : Bool := false
  trial  : BitVec 2 := 0
  attempted : Bool := false
  floor  : BitVec 16 := 0
  deriving DecidableEq, Repr

/-- A key of a slot: type 1 HMAC or 2 P256, use mask, bytes (R400). -/
structure Key where
  kind  : BitVec 2
  use   : BitVec 3
  bytes : List Byte
  deriving DecidableEq, Repr

/-- A piece of the Steward's work, in the order it is done. -/
inductive NvItem where
  /-- Append one entry (Table NV-2): TYPE, ARG, VALUE, DATA. -/
  | append (a : Area) (type arg : BitVec 8) (value : Word) (data : BitVec 96)
  /-- Program one word at a store address (R368). -/
  | program (addr : Nat) (bytes : List Byte)
  /-- Erase a sector, its ERASE_BEGIN to be appended first (R373); `again` after a failed attempt (R371). -/
  | eraseSector (sector : Nat) (again : Bool)
  /-- The erase itself. -/
  | erase (sector : Nat) (again : Bool)
  /-- Word j of a checkpoint (R374). -/
  | ckpt (j : Nat)
  /-- The checkpoint is whole: its sector is in use. -/
  | ckptDone
  /-- An append area goes on in a sector just erased. -/
  | areaMoved (a : Area) (sector : Nat)
  /-- The answer to the mailbox command in work. -/
  | reply (code : BitVec 8) (d0 d1 d2 d3 : Word)
  /-- The policy record is in the store (R352). -/
  | policyDone (p : Policy)
  /-- The Steward runs a verification of this many turns on the engine, with the key of a slot or one given directly; a slot erased
  meanwhile gives this answer (R287, R395, R402). -/
  | engine (slot : Option (BitVec 4)) (turns : Nat) (code : BitVec 8) (d0 : Word)
  /-- LOG_MARK: the reply gives the ESEQ of the entry just appended. -/
  | markDone
  /-- Boot: the ends of the append areas are located (R377 step 3); the gasp record is recovered (R377 step 4). -/
  | locate
  | gaspRecover
  /-- A bundle's check has failed with this code (R412). -/
  | verdict (code : BitVec 4)
  /-- Boot: the examination of R385 ends; the armed slot is to be found (R381). -/
  | gaspDone (result : BitVec 2)
  | armWanted
  /-- Boot: the key slots are loaded (R404), a boot apply is considered (R419). -/
  | bootKeys
  | bootApply
  /-- A key-store copy is to be written, for a put (1), a drop (2) or an erase by register (3) of a slot (R402, R405). -/
  | keyCopy (slot : BitVec 4) (key : Option Key) (why : BitVec 8)
  /-- It has been written: the slot takes the key, or STORE_STALE ends. -/
  | keyDone (slot : BitVec 4) (key : Option Key)
  | staleDone
  /-- BUNDLE_APPLIED has been appended (R416). -/
  | applyDone
  /-- A sector left incomplete has been erased again (R377). -/
  | repaired (sector : Nat)
  deriving DecidableEq, Repr

/-- One job of the Steward: a mailbox command's work, or housekeeping. -/
structure NvJob where
  mailbox : Bool
  items   : List NvItem
  deriving DecidableEq, Repr

/-- What the store controller has in hand (R370). -/
inductive NvOp where
  | program (addr : Nat) (bytes : List Byte)
  | erase (sector : Nat)
  deriving DecidableEq, Repr

/-- Where an append area goes on: sector in use, next word, next ESEQ. -/
structure AreaPos where
  sector : Nat := 0
  word   : Nat := 0
  eseq   : Word := 0
  deriving DecidableEq, Repr

/-- The 256-byte gasp record being programmed (R382): its words not yet programmed, and its address. -/
structure Gasp where
  addr  : Nat
  bytes : List Byte
  deriving DecidableEq, Repr

/-- The canonical form of the store's bytes: addresses strictly rising, and no byte listed that reads 0xFF (log 22). -/
def Memory.wf (m : Tab Byte) : Bool := tabWf (fun _ => 0xFF) m

/-- The non-volatile store and what the Steward knows of it. -/
structure Store where
  /-- The bytes of the store; an address not listed reads 0xFF, the erased value (R366). -/
  mem    : Tab Byte := []
  /-- Sectors whose erase was aborted, with the number of their free content (R369). -/
  indet  : Tab Nat := []
  /-- Work in order; its store items are Q-NVM and what waits for room in it (R370). -/
  jobs   : List NvJob := []
  /-- The operation in progress; it belongs to work that has been discarded. -/
  op     : Option NvOp := none
  orphan : Bool := false
  /-- A gasp slot is armed (R381). -/
  armed  : Bool := false
  /-- The Steward has done steps 1 to 4 of R377 and looks for an erased slot. -/
  wantArm : Bool := false
  /-- GASP_RESULT (R385), CAL_SRC (R379) and the count of corrected words (R367). -/
  gaspResult : BitVec 2 := 0
  calSrc : BitVec 2 := 3
  corrected : BitVec 16 := 0
  /-- Positions of the append areas, erase counts, retired sectors (R374 to R377). -/
  journal : AreaPos := {}
  policy  : AreaPos := {}
  log     : AreaPos := {}
  epoch   : Word := 0
  counts  : Tab Nat := []
  retired : List Nat := []
  /-- A checkpoint is being written (R374), and the next word of the sector it goes to. -/
  ckpt    : Bool := false
  ckptPos : Nat := 0
  /-- The armed slot (R381) and the gasp record in hand (R382). -/
  slot    : Nat := 0
  gseq    : Word := 0
  gasp    : Option Gasp := none
  /-- House flags of the last eight CCLKs in which some were set, newest first (Table NV-5). -/
  trail   : List (Word × BitVec 16) := []
  deriving DecidableEq, Repr

/-- The Steward and what the loader set (R349 to R358). -/
structure Stew where
  fw      : Firmware := .none
  featEn  : Word := 0
  fwVer   : Word := 0
  lmcVer  : Word := 0
  /-- LOAD_STAT (Table SW-7) and the mirror PAIR_POLICY of the last loader run. -/
  loadStat : Word := 0
  mirror  : Policy := {}
  /-- The record in the store now. -/
  policy  : Policy := {}
  /-- ROLLBACK and KEY_ID of the running firmware; PAIR_ID and bank of the LMC in force (none: ROM default). -/
  rollback : BitVec 16 := 0
  keyId   : BitVec 8 := 0
  lmcPair : Option (BitVec 16) := none
  lmcBank : Option Bool := none
  /-- RATES of the LMC in force (Table SW-2); the ROM default supports the two lower rates (R350). -/
  lmcRates : BitVec 16 := 3
  /-- SW_STAT.WDOG (R348). -/
  wdog    : BitVec 8 := 0
  /-- Image area last begun, kind and bank, and the 128-byte pieces written to it since (R364). -/
  imgKind : BitVec 2 := 0
  imgBank : Bool := false
  imgSet  : List Nat := []
  /-- Frames since nPOR, for UPTIME of the gasp record. -/
  frames  : Nat := 0
  deriving DecidableEq, Repr

/-- A key slot (Table AU-3): EMPTY holds none; WRITE_PENDING holds a pending key as well. -/
structure KeySlot where
  key  : Option Key := none
  next : Option Key := none
  deriving DecidableEq, Repr

/-- Holders of a context (R395). -/
inductive CtxUser where
  | loader | steward | host
  deriving DecidableEq, Repr

/-- States of a context; AU_CSTATn.STATE codes 0 to 4 in this order. -/
inductive CtxState where
  | free | ready | run | done | error
  deriving DecidableEq, Repr

/-- An engine context (R394 to R399). -/
structure Ctx where
  owner : Option CtxUser := none
  st    : CtxState := .free
  code  : BitVec 4 := 0
  alg   : BitVec 2 := 0
  slot  : BitVec 4 := 0
  key   : List Byte := []
  /-- The hash in progress: chaining value, blocks not yet compressed, bytes of message fed. -/
  hash  : List Word := []
  todo  : List (List Byte) := []
  bytes : Nat := 0
  last  : Bool := false
  /-- The outer hash of an HMAC has begun; the message digest of an ECDSA operation. -/
  outer : Bool := false
  digest : List Byte := []
  sig   : Option (List Byte) := none
  /-- Verification steps still to run. -/
  steps : Nat := 0
  /-- The result bytes (R398). -/
  res   : List Byte := []
  deriving DecidableEq, Repr

/-- The authentication engine. -/
structure Engine where
  ctxs  : Tab Ctx := []
  slots : Tab KeySlot := []
  /-- The context served last (R396). -/
  last  : BitVec 2 := 3
  /-- AU_HSTAT: CTX in [1:0], CODE in [7:4] (R398, Table RG-10). -/
  hstat : BitVec 8 := 0
  /-- Context named by the last AU_FEED (AU_RES). -/
  feedCtx : BitVec 2 := 0
  /-- STORE_STALE and SEALED, as AU_STAT shows them (R402, R405). -/
  stale : Bool := false
  sealed : Bool := false
  deriving DecidableEq, Repr

/-- Why a bundle is being applied. -/
inductive ApplyKind where
  | command | boot | rollback (cause : BitVec 2) (left : BitVec 1)
  deriving DecidableEq, Repr

/-- Sealed bundles (R406 to R419). -/
structure Bundle where
  /-- AU_BSTAT. -/
  apply   : Bool := false
  holding : Bool := false
  unconf  : Bool := false
  late    : Bool := false
  slot    : BitVec 1 := 0
  code    : BitVec 4 := 0
  bseq    : Word := 0
  n       : Word := 0
  /-- What is being applied, and whether the shadows have been written (R414). -/
  kind    : ApplyKind := .command
  written : Bool := false
  /-- The transfer has happened and R416 is to be finished. -/
  finishing : Bool := false
  /-- The region barrier of R416 has completed and the log entries are on their way. -/
  synced  : Bool := false
  /-- Slot of the bundle transferred last; its transfer commit T, CONFIRM_HL and REF_MODE (R417). -/
  tSlot   : BitVec 1 := 0
  tSeq    : Word := 0
  confirm : BitVec 16 := 0
  refMode : BitVec 2 := 0
  drift   : Bool := false
  /-- No further automatic rollback (R418). -/
  noAuto  : Bool := false
  /-- BUNDLE_BEGIN: length declared, 128-byte pieces written since, staging slot, floor computed before the erase (R411, R412). -/
  declared : Nat := 0
  wrote   : List Nat := []
  stage   : Option (BitVec 1) := none
  floor   : Word := 0
  deriving DecidableEq, Repr


/-! ## The whole machine -/

/-- Why the model stops (R511): the spec calls the management bus undefined while VDDHB stands outside both of its
ranges at the rise of nPOR. Raised by every command of the management bus in that case; safe, because the hardware's
behaviour is nowhere fixed. -/
inductive Fault where
  | hostBankUndefined
  deriving DecidableEq, Repr

/-- Why the model gives no meaning. -/
inductive Refusal where
  /-- Raised by the dispatcher for a command without a meaning; safe, because nothing is concluded about it. -/
  | notModelled (mnemonic : String)
  deriving DecidableEq, Repr

/-- The state of the part. -/
structure State where
  /-- The commands that wait, first in, first out. -/
  pending : List Instr := []
  /-- The groups of the part's state. -/
  cfg   : Cfg := {}
  bus   : Bus := {}
  tb    : Timebase := {}
  hl    : Headland := {}
  irq   : Irq := {}
  xl    : Xlate := {}
  tens  : Tab TenRec := []
  quiesceLast : Tenant := 0
  links : Tab LinkRec := []
  lanes : Tab LaneRec := []
  allot : Allot := {}
  pw    : Power := {}
  mbx   : Mailbox := {}
  nv    : Store := {}
  stew  : Stew := {}
  au    : Engine := {}
  bun   : Bundle := {}
  /-- The model's own: CCLK counted by idle steps (log 2). -/
  now   : Nat := 0
  /-- The model's own: house flags set so far in the CCLK at hand; 0 between commands (R132, log 7). -/
  hsAcc : BitVec 16 := 0
  /-- The model's own: the sequence-clear registers whose SEQ has advanced in the CCLK at hand; none between commands
  (R132, log 7). -/
  sqAcc : List Nat := []
  /-- The model's own: the number of the next free value (log 3). -/
  free  : Nat := 0
  deriving DecidableEq, Repr

/-- The machine right after power is applied, with nPOR low (R327 to R329): RESET, every field at its reset value. -/
def State.reset : State := {}

end Sys2Proof.Machine
end

