-- ==== Sys2Proof/Machine/Operands.lean ====
section
/-!
DEFINITION. Machine/Operands.lean: where each register, table entry and tenant-page word stands, which of its bits are
HL class and which are immediate RW, what it reads as at reset, and how its fields are read (chapters 20 and 21).
-/
namespace Sys2Proof.Machine

/-! ## Keys of the configuration words -/

/-- The word of a management-window register at a base offset (R436). -/
def regKey (off : Nat) : Nat := off

/-- Word `w` of a window-table entry (Table TP-1): table code, index, target, word. -/
def tabKey (t idx tgt w : Nat) : Nat := 2 ^ 16 + (((t * 2 ^ 24 + idx) * 256 + tgt) * 8 + w)

/-- The word at an offset of a tenant page (Table TP-13). -/
def pageKey (n off : Nat) : Nat := 2 ^ 50 + n * 4096 + off

/-! ## The window map (Table RG-1 to RG-20) -/

/-- Offset within a link block, for offsets 0x0C00 to 0x0DFF (Table RG-15). -/
def linkOff (off : Nat) : Nat := (off - 0xC00) % 0x40

/-- The offset lies in the link group. -/
def isLinkOff (off : Nat) : Bool := 0xC00 ≤ off && off < 0xE00

/-- `off` is one of the word offsets from `lo` to `hi`. -/
def inWords (off lo hi : Nat) : Bool := lo ≤ off && off ≤ hi && off % 4 = 0

/-- The base offsets that hold a register (R436). -/
def regExists (off : Nat) : Bool :=
  inWords off 0x0 0x20 || inWords off 0x40 0x4C || inWords off 0x100 0x120 || inWords off 0x200 0x218 ||
  inWords off 0x300 0x308 || inWords off 0x310 0x31C || inWords off 0x400 0x414 || inWords off 0x420 0x458 ||
  inWords off 0x500 0x518 || inWords off 0x600 0x608 || inWords off 0x700 0x738 || inWords off 0x740 0x79C ||
  inWords off 0x800 0x810 || inWords off 0x900 0x934 || inWords off 0x980 0x9FC || inWords off 0xA00 0xA28 ||
  inWords off 0xA40 0xA98 || (isLinkOff off && inWords (linkOff off) 0x0 0x38) || inWords off 0x1000 0x102C ||
  inWords off 0x1100 0x1108 || inWords off 0x1110 0x1118 || inWords off 0x1120 0x1128 || inWords off 0x1200 0x1280 ||
  inWords off 0x1300 0x1304

/-- Registers that hold sequence-clear fields (R132). -/
def isSq (off : Nat) : Bool :=
  off = 0x20 || off = 0x300 || off = 0x604 || off = 0x72C || off = 0x90C || (isLinkOff off && linkOff off = 0x20)

/-- The first word and the number of words of the multi-word register an offset belongs to, if any (R438). -/
def multiWord (off : Nat) : Option (Nat × Nat) :=
  if off = 0x444 || off = 0x448 then some (0x444, 2)
  else if off = 0x730 || off = 0x734 || off = 0x738 then some (0x730, 3)
  else if off = 0xA20 || off = 0xA24 then some (0xA20, 2)
  else if off = 0x1300 || off = 0x1304 then some (0x1300, 2)
  else if isLinkOff off then
    let o := linkOff off
    if 0x8 ≤ o && o < 0x20 then some (off - o + (o / 8) * 8, 2) else none
  else none

/-- HL-class bits of a window register (chapter 20). -/
def regHl (off : Nat) : Word :=
  if off = 0x44 || off = 0x48 || off = 0x4C then 0xFF
  else if off = 0x110 then 0x3F
  else if off = 0x200 then 0x3
  else if off = 0x214 then 0xFF01
  else if off = 0x304 then 0xFFFF
  else if off = 0x400 then 0x3
  else if off = 0x404 || off = 0x408 then 0xFFF
  else if off = 0x40C then 0x0FFF00FF
  else if off = 0x410 then 0xFFFFFFFF
  else if off = 0x414 then 0x00FFFFFF
  else if inWords off 0x420 0x43C then 0x0FFF0FFF
  else if off = 0x1280 then 0xFFFFFFFF
  else if isLinkOff off then
    (if linkOff off = 0 then 0x333 else if linkOff off = 4 then 0xFF03 else 0)
  else 0

/-- Immediate-class RW bits of a window register that are held as a word (R121). -/
def regIm (off : Nat) : Word :=
  if off = 0x40 || off = 0x114 then 0x1
  else if off = 0x100 then 0x000FFF01
  else if inWords off 0x310 0x31C then 0x1FFFF
  else if off = 0x514 then 0xFFFFF
  else if off = 0x720 then 0xF
  else if inWords off 0x740 0x77C then 0xFFFFFFFF
  else if off = 0x804 then 0xFFFFFFFF
  else if off = 0x808 then 0x3
  else if inWords off 0x910 0x91C || inWords off 0x980 0x9FC then 0xFFFFFFFF
  else if off = 0x1000 then 0xF
  else if inWords off 0x1004 0x1024 then 0xFFFFFFFF
  else if inWords off 0x1110 0x1118 then 0xFFFFFFFF
  else 0

/-- Reset value of the RW bits of a window register. The strap bits of TB_CTL and WOUT_CFG are set at the release. -/
def regReset (off : Nat) : Word :=
  if off = 0x44 || off = 0x4C then 8
  else if off = 0x48 then 16
  else if off = 0x100 then 0x00040800
  else if off = 0x110 then 1
  else if off = 0x214 then 0x800
  else if off = 0x414 then 0x0064140A
  else if off = 0x514 then 0x0005646E
  else if inWords off 0x1110 0x1118 then 0xFFFFFFFF
  else if off = 0x1280 then 0xFFE00000
  else if isLinkOff off then
    (if linkOff off = 0 then 0x320 else if linkOff off = 4 then 0x1000 else 0)
  else 0

/-- Base offset of the group of an offset (Table RG-2). -/
def groupOf (off : Nat) : Nat :=
  if off < 0x100 then 0 else if off < 0x200 then 0x100 else if off < 0x300 then 0x200 else if off < 0x400 then 0x300
  else if off < 0x500 then 0x400 else if off < 0x600 then 0x500 else if off < 0x700 then 0x600
  else if off < 0x800 then 0x700 else if off < 0x900 then 0x800 else if off < 0xA00 then 0x900
  else if off < 0xC00 then 0xA00 else if off < 0x1000 then 0xC00 else if off < 0x1100 then 0x1000
  else if off < 0x1200 then 0x1100 else if off < 0x1300 then 0x1200 else 0x1300

/-! ## The window tables (Table TP-1 to TP-12) -/

/-- Words of an entry of a table (Table TP-1); SET pointer entries have one. -/
def tabWords (t idx : Nat) : Nat :=
  match t with
  | 0 => 2 | 1 => 2 | 2 => 2
  | 3 => if idx < 64 then 8 else 1
  | 4 => 6 | 5 => 5 | 6 => 1 | 7 => 3 | 8 => 2 | 9 => 2 | 10 => 2 | 11 => 6
  | _ => 0

/-- The table takes a target at this index (R137). -/
def tabBanked (t idx : Nat) : Bool := t = 1 || (t = 10 && idx < 32)

/-- The table holds the index (Table TP-1); reserved INTIDs of STATE are held (R448). -/
def tabHolds (t idx : Nat) : Bool :=
  match t with
  | 0 => (128 ≤ idx && idx ≤ 143) || (1024 ≤ idx && idx ≤ 16383)
  | 1 => idx < 32
  | 2 => idx < 256
  | 3 => idx < 128
  | 4 => idx < 256
  | 5 => idx < 32
  | 6 => idx < 256
  | 7 => idx < 275
  | 8 => idx < 96
  | 9 => idx < 32
  | 10 => idx < 1064960
  | 11 => idx < 256
  | _ => false

/-- HL-class bits of a word of an entry. -/
def tabHl (t idx w : Nat) : Word :=
  match t, w with
  | 0, 0 => 0x13FFFFFF
  | 0, 1 => if idx < 1024 then 0 else 0xFF
  | 1, 0 => if idx < 16 then 0x1000FFFF else 0x3000FFFF
  | 2, 0 => if idx < 240 then 0x0000FF71 else 0xFF71FF71
  | 3, _ => if idx < 64 then 0xFFFFFFFF else 0
  | 4, 0 => 0x3F01
  | 4, 1 => 0x001FFFC0
  | 4, 2 => 0x001FFFC0
  | 4, 3 => 0xFFFFFFC0
  | 4, 4 => 0xFFFF
  | 5, 0 => 0x3F73
  | 5, 1 => 0xFFFFF000
  | 5, 2 => 0xFFFF
  | 5, 3 => 0xFFFFF000
  | 5, 4 => 0xFFFF
  | 6, 0 => 0xFF
  | 7, 0 => if idx < 256 then 0xFFF else 0xFF0FFF
  | 7, 1 => if 256 ≤ idx && idx < 264 then 0xFFF else 0
  | 8, 0 => 0x63FFFFFF
  | 8, 1 => 0xFF
  | 9, 0 => 0xF03
  | _, _ => 0

/-- Reset value of a word of an entry. -/
def tabReset (t w : Nat) : Word :=
  match t, w with
  | 0, 0 => 0xFFFF
  | 1, 0 => 0xFFFF
  | 8, 0 => 0xFFFF
  | 9, 0 => 0x600
  | _, _ => 0

/-- The entry holds an HL-class field (R118). -/
def tabHasHl (t idx : Nat) : Bool := t ≤ 9 && !(t = 3 && 64 ≤ idx)

/-- Entries of the table hold pending and LOST fields (R138): SOURCE, PRIVATE, WIRED. -/
def tabHasPend (t : Nat) : Bool := t = 0 || t = 1 || t = 8

/-! ## Tenant pages (Table TP-13, TP-14) -/

/-- HL-class bits of a word of tenant n's page. -/
def pageHl (n off : Nat) : Word :=
  if off = 0x4 then 0x1
  else if off = 0x10 then 0xFFFFF1F1
  else if off = 0x14 || off = 0x1C || off = 0x24 then 0xFFFF
  else if off = 0x18 then 0xFFFFFFC1
  else if off = 0x20 then 0xFFFFF00F
  else if n = 0 && off = 0x80 then 0xFFFFF00F
  else if n = 0 && off = 0x84 then 0xFFFF
  else 0

/-- Tenant n's page holds a register at the offset (Table TP-13, R465). -/
def pageExists (n off : Nat) : Bool :=
  inWords off 0x0 0x8 || inWords off 0x10 0x14 || inWords off 0x18 0x2C || inWords off 0x40 0x48 || off = 0x50 ||
  (n = 0 && inWords off 0x80 0x8C) || off = 0xFFC

/-! ## Reset values by key, and the reads of configuration words -/

/-- What a word that is not listed reads as: its reset value. -/
def keyReset (k : Nat) : Word :=
  if k < 2 ^ 16 then regReset k
  else if k < 2 ^ 50 then
    let j := k - 2 ^ 16
    tabReset (j / (8 * 256 * 2 ^ 24)) (j % 8)
  else 0

def shadowAt (s : State) (k : Nat) : Word := tabGet s.cfg.shadow (keyReset k) k
def liveAt (s : State) (k : Nat) : Word := tabGet s.cfg.live (keyReset k) k
def imAt (s : State) (k : Nat) : Word := tabGet s.cfg.im (keyReset k) k

/-- Live word of a register. -/
def regLive (s : State) (off : Nat) : Word := liveAt s (regKey off)
/-- Immediate-class word of a register. -/
def regImm (s : State) (off : Nat) : Word := imAt s (regKey off)
/-- Live word of a table entry. -/
def tabLive (s : State) (t idx tgt w : Nat) : Word := liveAt s (tabKey t idx tgt w)
/-- Live word of a tenant page. -/
def pageLive (s : State) (n off : Nat) : Word := liveAt s (pageKey n off)

def setShadow (s : State) (k : Nat) (v : Word) : State :=
  { s with cfg := { s.cfg with shadow := tabSet s.cfg.shadow (keyReset k) k v } }
def setLive (s : State) (k : Nat) (v : Word) : State :=
  { s with cfg := { s.cfg with live := tabSet s.cfg.live (keyReset k) k v } }
def setIm (s : State) (k : Nat) (v : Word) : State :=
  { s with cfg := { s.cfg with im := tabSet s.cfg.im (keyReset k) k v } }

/-! ## Records of the state by number -/

def tgtOf (s : State) (t : Target) : TgtRec := tabGet s.irq.tgts {} t.toNat
def setTgt (s : State) (t : Target) (r : TgtRec) : State :=
  { s with irq := { s.irq with tgts := tabSet s.irq.tgts {} t.toNat r } }

def tenOf (s : State) (n : Tenant) : TenRec := tabGet s.tens {} n.toNat
def setTen (s : State) (n : Tenant) (r : TenRec) : State := { s with tens := tabSet s.tens {} n.toNat r }

def linkOf (s : State) (l : Link) : LinkRec := tabGet s.links {} l.toNat
def setLink (s : State) (l : Link) (r : LinkRec) : State := { s with links := tabSet s.links {} l.toNat r }

def laneOf (s : State) (l : Link) (p : Nat) : LaneRec := tabGet s.lanes {} (l.toNat * 4 + p)
def setLane (s : State) (l : Link) (p : Nat) (r : LaneRec) : State :=
  { s with lanes := tabSet s.lanes {} (l.toNat * 4 + p) r }

def ptrOf (s : State) (set : Nat) : BitVec 8 := tabGet s.irq.ptrs 0 set
def setPtr (s : State) (set : Nat) (v : BitVec 8) : State :=
  { s with irq := { s.irq with ptrs := tabSet s.irq.ptrs 0 set v } }

/-- The key of an INTID's record: INTIDs 0 to 31 are banked per target (R10). -/
def ikey (t : Target) (i : Intid) : Nat := if i.toNat < 32 then t.toNat * 32 + i.toNat else 8192 + i.toNat
/-- The INTID of a key, and the target of a banked one. -/
def keyIntid (k : Nat) : Intid := BitVec.ofNat 24 (if k < 8192 then k % 32 else k - 8192)
def keyTarget (k : Nat) : Target := BitVec.ofNat 8 (if k < 8192 then k / 32 else 0)

def intOf (s : State) (k : Nat) : IntRec := tabGet s.irq.ints {} k
def setInt (s : State) (k : Nat) (r : IntRec) : State :=
  { s with irq := { s.irq with ints := tabSet s.irq.ints {} k r } }

/-! ## INTID ranges and kinds (Table IS-1, IS-2) -/

/-- The usable ranges (R9). -/
def usable (i : Intid) : Bool :=
  let n := i.toNat
  n ≤ 143 || (1024 ≤ n && n ≤ 1064959)
def isExt (i : Intid) : Bool := 16384 ≤ i.toNat && i.toNat ≤ 1064959
def isShared (i : Intid) : Bool := 1024 ≤ i.toNat && i.toNat ≤ 16383
def isHouse (i : Intid) : Bool := 128 ≤ i.toNat && i.toNat ≤ 143
def isWiredSrc (i : Intid) : Bool := 32 ≤ i.toNat && i.toNat ≤ 127
def isPrivate (i : Intid) : Bool := 16 ≤ i.toNat && i.toNat ≤ 31

/-! ## Fields of entries, live -/

/-- Word 0 of the entry that configures an INTID (Table RK-1); for an extended INTID the copy in the pool. -/
def srcW0 (s : State) (t : Target) (i : Intid) : Word :=
  let n := i.toNat
  if n < 32 then tabLive s 1 n t.toNat 0
  else if n < 128 then tabLive s 8 (n - 32) 0 0
  else if n < 16384 then tabLive s 0 n 0 0
  else match (intOf s (ikey t i)).copy with
    | some c => c.word
    | none => 0

/-- Base priority, ceiling, route mode, destination, enable of an INTID (R41, Table TW-4). -/
def srcPrio (s : State) (t : Target) (i : Intid) : Nat := if isExt i then fld (srcW0 s t i) 16 8 else fld (srcW0 s t i) 0 8
def srcCeil (s : State) (t : Target) (i : Intid) : Nat := if isExt i then fld (srcW0 s t i) 24 8 else fld (srcW0 s t i) 8 8
def srcMode (s : State) (t : Target) (i : Intid) : Nat :=
  if i.toNat < 32 then 0 else if isExt i then fld (srcW0 s t i) 2 2 else fld (srcW0 s t i) 24 2
def srcDest (s : State) (t : Target) (i : Intid) : Nat :=
  if i.toNat < 32 then t.toNat else if isExt i then fld (srcW0 s t i) 8 8 else fld (srcW0 s t i) 16 8
def srcEn (s : State) (t : Target) (i : Intid) : Bool := if isExt i then bit (srcW0 s t i) 1 else bit (srcW0 s t i) 28

/-- The register of W_PEND, W_MASK and W_LEVEL that holds a wired INTID (R445). -/
def wSuffix (i : Intid) : Nat := (i.toNat / 32) % 3
/-- The W_MASK bit of a wired INTID (R25). -/
def wMasked (s : State) (i : Intid) : Bool := bit (regImm s (0x1110 + 4 * wSuffix i)) (i.toNat % 32)

/-- A private or wired source is edge triggered (TRIG = 1). -/
def srcEdge (s : State) (t : Target) (i : Intid) : Bool := bit (srcW0 s t i) 29
/-- Level sources (Table IS-2). -/
def isLevel (s : State) (t : Target) (i : Intid) : Bool :=
  isHouse i || ((isPrivate i || isWiredSrc i) && !srcEdge s t i)

/-- Fields of a target's live entry (Table TP-4). -/
def tgtW0 (s : State) (t : Target) : Word := tabLive s 2 t.toNat 0 0
def tgtEn (s : State) (t : Target) : Bool := bit (tgtW0 s t) 0
def tgtLink (s : State) (t : Target) : Link := BitVec.ofNat 3 (fld (tgtW0 s t) 4 3)
def tgtTenant (s : State) (t : Target) : Tenant := BitVec.ofNat 8 (fld (tgtW0 s t) 8 8)
def tgtBind (s : State) (t : Target) : Bool := bit (tgtW0 s t) 16
/-- The view of a target; a wired target's mask and split point are configuration (R45). -/
def viewPmr (s : State) (t : Target) : Nat := if tgtBind s t then fld (tgtW0 s t) 24 8 else (tgtOf s t).pmr.toNat
def viewBpr (s : State) (t : Target) : Nat := if tgtBind s t then fld (tgtW0 s t) 20 3 else (tgtOf s t).bpr.toNat
def viewRpr (s : State) (t : Target) : Nat := (tgtOf s t).rpr.toNat

/-- Member bit of a set (R57). -/
def setMember (s : State) (set m : Nat) : Bool := bit (tabLive s 3 set 0 (m / 32)) (m % 32)

/-- TENANT fields (Table TP-6). -/
def tenEn (s : State) (n : Tenant) : Bool := bit (tabLive s 4 n.toNat 0 0) 0
def tenColour (s : State) (n : Tenant) : Nat := fld (tabLive s 4 n.toNat 0 0) 8 6
def xBaseOf (w1 : Word) : Nat := (fld w1 6 15) * 64
def tenXBase (s : State) (n : Tenant) : Nat := xBaseOf (tabLive s 4 n.toNat 0 1)
def tenXCount (s : State) (n : Tenant) : Nat := xBaseOf (tabLive s 4 n.toNat 0 2)
def tenXAddr (s : State) (n : Tenant) : Nat :=
  (tabLive s 4 n.toNat 0 4).toNat * 2 ^ 32 + (tabLive s 4 n.toNat 0 3).toNat
def tenLinks (s : State) (n : Tenant) : Word := tabLive s 6 n.toNat 0 0
/-- The tenant is enabled; its effective master enable (R196). -/
def tenEnabled (s : State) (n : Tenant) : Bool := tenEn s n && !(tenOf s n).resetPend
def tenMe (s : State) (n : Tenant) : Bool := bit (pageLive s n.toNat 4) 0 && !(tenOf s n).resetPend

/-- An INTID lies in a tenant's live extended range (R152, R455). -/
def inXRange (s : State) (n : Tenant) (i : Intid) : Bool :=
  isExt i && tenXBase s n ≤ i.toNat && i.toNat < tenXBase s n + tenXCount s n

/-- The tenant an INTID belongs to (R152, R194): for an extended INTID the lowest-numbered whose range holds it. -/
def ownerOf (s : State) (i : Intid) : Option Tenant :=
  if isShared i then some (BitVec.ofNat 8 (fld (tabLive s 0 i.toNat 0 1) 0 8))
  else if isExt i then ((upTo 256).find? fun n => inXRange s (BitVec.ofNat 8 n) i).map (BitVec.ofNat 8)
  else none

/-! ## Features held off (R351, Table SW-3) -/

def feat (s : State) (k : Nat) : Bool := bit s.stew.featEn k

/-- HL-class bits of a word that a feature held off keeps at their reset values. ROTATE_AWAKE, the top rate, bundles and
ECDSA have no control field of their own. -/
def featOff (s : State) (k : Nat) : Word :=
  if k < 2 ^ 16 then
    (if k = 0x214 && !feat s 1 then 0xFF01
     else if isLinkOff k && linkOff k = 4 && !feat s 2 then 0xFF03 else 0)
  else if k < 2 ^ 50 then
    (if (k - 2 ^ 16) / (8 * 256 * 2 ^ 24) = 9 && (k - 2 ^ 16) % 8 = 0 && !feat s 6 then 0x2 else 0)
  else if !feat s 0 && (k - 2 ^ 50) % 4096 = 0x18 then 0xFFFFFFC1
  else if !feat s 0 && (k - 2 ^ 50) % 4096 = 0x1C then 0xFFFF
  else 0

/-! ## Conditions of the mode (R333) -/

def runEn (s : State) : Bool := bit (regLive s 0x200) 0
def holdCond (s : State) : Bool := bit (regLive s 0x200) 1 || s.pw.driftHold
/-- The part is in an operating mode. -/
def operating (s : State) : Bool := s.pw.mode = .operating
/-- Event S is permitted (R333, R35). -/
def permitS (s : State) : Bool := operating s && runEn s && !holdCond s && !bit (regImm s 0x40) 0

/-- The code MODE_STAT.MODE reads (Table MD-5, R333). -/
def modeCode (s : State) : Nat :=
  match s.pw.mode with
  | .reset => 0
  | .load => 1
  | .safe => 2
  | .operating =>
    if s.pw.thr then 7 else if !runEn s then 3 else if holdCond s then 6 else if s.allot.lean then 5 else 4
  | .fallow => 8
  | .lastGasp => 9
  | .shutdown => 10
  | .test => 11

/-- The modes with a commit CCLK (R114). -/
def hasCommit (s : State) : Bool := operating s || s.pw.mode = .safe

/-- The groups a mode serves (Table MD-5, RG-2). STW_DOWN takes the mailbox away (R330). -/
def groupServed (s : State) (off : Nat) : Bool :=
  let g := groupOf off
  match s.pw.mode with
  | .load => g = 0 || g = 0x200
  | .safe => g ≠ 0xC00
  | .operating => !(s.pw.stwDown && g = 0x900)
  | .lastGasp => g = 0 || g = 0x200 || g = 0x300
  | _ => false

/-- The modes in which the bus is served at all (Table MD-5); in FALLOW every cycle is refused. -/
def busServed (s : State) : Bool :=
  match s.pw.mode with
  | .reset | .shutdown | .test => false
  | _ => true

end Sys2Proof.Machine
end

