-- ==== Sys2Proof/Machine/Flags.lean ====
section
/-!
DEFINITION. Machine/Flags.lean: sequence-clear registers (R131 to R133), wrapping counters (R443), the integrity CRC
(R141) and the MIRQ summaries (R146).
-/
namespace Sys2Proof.Machine

/-! ## Sequence-clear registers -/

def sqOf (s : State) (off : Nat) : SqReg := tabGet s.cfg.sq {} off

def setSq (s : State) (off : Nat) (r : SqReg) : State :=
  { s with cfg := { s.cfg with sq := tabSet s.cfg.sq {} off r } }

/-- Hardware sets flags of a register in one CCLK: one increment of SEQ, even for a flag already set (R132). -/
def sqRaise (r : SqReg) (f : BitVec 24) : SqReg :=
  if f = 0 then r else { flags := r.flags ||| f, seq := r.seq + 1 }

/-- A write of a sequence-clear register, with the flags hardware sets in that CCLK (R133). -/
def sqClear (r : SqReg) (data : Word) (hw : BitVec 24) : SqReg :=
  if hw ≠ 0 then sqRaise r hw
  else if data.extractLsb' 24 8 = r.seq then { r with flags := r.flags &&& ~~~(data.extractLsb' 0 24) }
  else r

/-- The flags a register implements; other bits of a write or a set are reserved (R2). -/
def sqMask (off : Nat) : BitVec 24 :=
  if off = 0x20 then 0x3 else if off = 0x300 then 0xFFFF else if off = 0x604 then 0xFF
  else if off = 0x72C then 0x3 else if off = 0x90C then 0x3 else 0x1F

/-- Flags set by hardware in one CCLK after others of the same register: SEQ has advanced already (R132). -/
def sqJoin (r : SqReg) (f : BitVec 24) : SqReg := { r with flags := r.flags ||| f }

/-- Flags set by hardware in a register. All that one command sets in it, it sets in one CCLK (R132). -/
def sqSet (s : State) (off : Nat) (f : BitVec 24) : State :=
  setSq { s with sqAcc := if f = 0 then s.sqAcc else off :: s.sqAcc } off
    (if s.sqAcc.contains off then sqJoin (sqOf s off) f else sqRaise (sqOf s off) f)

/-- LK_EVT of a link (Table RG-16). -/
def lkEvtOff (l : Link) : Nat := 0xC20 + 0x40 * l.toNat

/-- A refused access is recorded in MB_ERR (R131). -/
def mbRefuse (s : State) (code : BitVec 4) (rd : Bool) (addr : BitVec 14) : State :=
  let r := sqOf s 0x20
  if r.flags.getLsbD 0 then sqSet s 0x20 2
  else
    let s := sqSet s 0x20 1
    { s with bus := { s.bus with errCode := code, errRd := rd, errAddr := addr } }

/-! ## Counters (Table RG-14) -/

def cntLOST : Nat := 0xA40
def cntSTRAY : Nat := 0xA44
def cntSIGDEN : Nat := 0xA48
def cntRETBELOW : Nat := 0xA4C
def cntRECALLTMO : Nat := 0xA50
def cntREVERT : Nat := 0xA54
def cntDISCARD : Nat := 0xA58
def cntSOWBAD : Nat := 0xA5C
def cntSOWDIS : Nat := 0xA60
def cntACCESS : Nat := 0xA64
def cntSPILL : Nat := 0xA68
def cntPOOLDROP : Nat := 0xA6C
def cntBLOCKDROP : Nat := 0xA70
def cntLATECPL : Nat := 0xA74
def cntWALKTMO : Nat := 0xA78
def cntINVBAD : Nat := 0xA7C
def cntFAULTLOST : Nat := 0xA80
def cntEVTLOST : Nat := 0xA84
def cntCMPDROP : Nat := 0xA88
def cntFLTDROP : Nat := 0xA8C
def cntEVTDROP : Nat := 0xA90
def cntRSTFORCED : Nat := 0xA94
def cntUNGRANTED : Nat := 0xA98
/-- CNT_FSYNC_OOW stands in the timebase group (R109). -/
def cntFSYNCOOW : Nat := 0x120

def cntOf (s : State) (off : Nat) : Word := tabGet s.cfg.cnt 0 off

/-- A counter advances, wrapping (R443). -/
def bump (s : State) (off : Nat) : State :=
  { s with cfg := { s.cfg with cnt := tabSet s.cfg.cnt 0 off (cntOf s off + 1) } }

/-- A counter advances n times. -/
def bumpN (s : State) (off n : Nat) : State :=
  { s with cfg := { s.cfg with cnt := tabSet s.cfg.cnt 0 off (cntOf s off + BitVec.ofNat 32 n) } }

/-! ## CRC-32C (R141, R264) -/

/-- One bit of the reflected division by 0x1EDC6F41. -/
def crcBit (c : Word) : Word := if c.getLsbD 0 then (c >>> 1) ^^^ 0x82F63B78 else c >>> 1

/-- n bits. -/
def crcBits : Nat → Word → Word
  | 0, c => c
  | n + 1, c => crcBits n (crcBit c)

/-- One 32-bit word taken as four bytes in little-endian order. -/
def crcWord (c w : Word) : Word := crcBits 32 (c ^^^ w)

/-- CRC-32C of a sequence of words. -/
def crc32c (ws : List Word) : Word := ~~~(ws.foldl crcWord 0xFFFFFFFF)

/-! ## The integrity scan's sequence (R141, R450) -/

/-- Entries of a table in scan order: index and target. -/
def tabEntries (t : Nat) : List (Nat × Nat) :=
  match t with
  | 0 => ((upTo 16).map fun i => (128 + i, 0)) ++ ((upTo 15360).map fun i => (1024 + i, 0))
  | 1 => (upTo 32).flatMap fun i => (upTo 256).map fun g => (i, g)
  | 2 => (upTo 256).map fun i => (i, 0)
  | 3 => (upTo 64).map fun i => (i, 0)
  | 4 => (upTo 256).map fun i => (i, 0)
  | 5 => (upTo 32).map fun i => (i, 0)
  | 6 => (upTo 256).map fun i => (i, 0)
  | 7 => (upTo 275).map fun i => (i, 0)
  | 8 => (upTo 96).map fun i => (i, 0)
  | 9 => (upTo 32).map fun i => (i, 0)
  | _ => []

/-- The keys of the scan with the mask of their HL-class bits, in the order of R141: registers, tables, tenant pages. -/
def scanKeys : List (Nat × Word) :=
  (((upTo 0x800).map (· * 4)).filterMap fun off =>
    if regExists off && regHl off ≠ 0 then some (regKey off, regHl off) else none) ++
  ((upTo 10).flatMap fun t => (tabEntries t).flatMap fun p =>
    (upTo (tabWords t p.1)).filterMap fun w =>
      if tabHl t p.1 w ≠ 0 then some (tabKey t p.1 p.2 w, tabHl t p.1 w) else none) ++
  ((upTo 256).flatMap fun n => ((upTo 0x40).map (· * 4)).filterMap fun off =>
    if pageHl n off ≠ 0 then some (pageKey n off, pageHl n off) else none)

/-- The CRC of one configuration (R141). -/
def scanCrc (live : Tab Word) : Word :=
  crc32c (scanKeys.map fun p => tabGet live (keyReset p.1) p.1 &&& p.2)

/-! ## House flags as levels, and the MIRQ pins -/

/-- HS_STAT[15:0]. -/
def hsFlags (s : State) : BitVec 16 := (sqOf s 0x300).flags.extractLsb' 0 16

/-- The levels of the sixteen house sources: flag and enable (Table IS-2). -/
def houseLevels (s : State) : BitVec 16 := hsFlags s &&& (regLive s 0x304).extractLsb' 0 16

/-- MIRQ m is asserted (R146), and the pin's level (MIRQ_MAP POL). -/
def mirqAsserted (s : State) (m : Nat) : Bool :=
  (hsFlags s &&& (regImm s (0x310 + 4 * m)).extractLsb' 0 16) ≠ 0
def mirqLevel (s : State) (m : Nat) : Bool :=
  if bit (regImm s (0x310 + 4 * m)) 16 then mirqAsserted s m else !mirqAsserted s m

end Sys2Proof.Machine
end

