-- ==== Sys2Proof/Machine/Ops.lean ====
section
/-!
DEFINITION. Machine/Ops.lean: the named operations over INTIDs, tickets, targets and house flags: the events of Table
IS-5, the withdrawal of R335, the reversion of R76.
-/
namespace Sys2Proof.Machine

/-- A fresh free value (log 3). -/
def takeFree (s : State) : Word × State := (Config.freeWord s.free, { s with free := s.free + 1 })

/-! ## House flags (Table IS-3) -/

def hDRIFT : BitVec 16 := 0x0001
def hNARROW : BitVec 16 := 0x0002
def hLINKDOWN : BitVec 16 := 0x0004
def hWALKFAULT : BitVec 16 := 0x0008
def hOVERDRAFT : BitVec 16 := 0x0010
def hBUDGET : BitVec 16 := 0x0020
def hTHERM : BitVec 16 := 0x0040
def hNVDONE : BitVec 16 := 0x0080
def hNVERROR : BitVec 16 := 0x0100
def hAUTH : BitVec 16 := 0x0200
def hMBX : BitVec 16 := 0x0400
def hFSYNC : BitVec 16 := 0x0800
def hPAIRING : BitVec 16 := 0x1000
def hQDROP : BitVec 16 := 0x2000
def hQUIESCED : BitVec 16 := 0x4000
def hGASP : BitVec 16 := 0x8000

/-- A house flag is set in the CCLK at hand. The set is made once for the CCLK, by `settle`. -/
def house (s : State) (f : BitVec 16) : State := { s with hsAcc := s.hsAcc ||| f }

/-- A drop counter advances, with QUEUE_DROP (R428). -/
def dropCount (s : State) (off : Nat) : State := house (bump s off) hQDROP

/-! ## Events on one INTID (Table IS-4, IS-5) -/

/-- The record of an INTID that enters Inactive: an extended one leaves the pool (R17). -/
def restRec (k : Nat) (r : IntRec) : IntRec :=
  if 8192 + 16384 ≤ k then {} else { lost := r.lost, age := r.age }

/-- The level a level source shows: filtered, as reported by PRIV, or the house level (R37). -/
def levelHigh (s : State) (t : Target) (i : Intid) : Bool :=
  if isPrivate i then (tgtOf s t).levels.getLsbD (i.toNat - 16)
  else if isWiredSrc i then s.irq.wFilt.getLsbD (i.toNat - 32)
  else if isHouse i then (houseLevels s).getLsbD (i.toNat - 128)
  else false

/-- A completion notification enters Q-CMP in the CCLK after EOI; a full queue drops it (R29). The flag tells whether
it entered. -/
def placeNote (s : State) (n : NoteKey) (i : Intid) : State × Option Nat :=
  if 512 ≤ s.xl.qCmp.length then (dropCount s cntCMPDROP, none)
  else
    let id := s.xl.noteSerial
    ({ s with xl := { s.xl with qCmp := s.xl.qCmp ++ [{ key := n, intid := i, nak := false, code := 0, id := some id }],
                                noteSerial := id + 1 } }, some id)

/-- A trigger is lost (R31). -/
def loseTrigger (s : State) (k : Nat) : State :=
  bump (setInt s k { intOf s k with lost := satInc8 (intOf s k).lost }) cntLOST

/-- Event T from a source (R19, R20, R31); what reaches an Active level source is a rise of its level, and is not lost.
`note` is what a sow event with NOTIFY reports. -/
def evT (s : State) (k : Nat) (note : Option NoteKey) : State :=
  let r := intOf s k
  match r.st with
  | .inactive => setInt s k { r with st := .pending, age := 0, note := note, noteId := none, discard := false }
  | .completed =>
    let s := match r.note, r.noteId with
      | some n, none => (placeNote s n (keyIntid k)).1
      | _, _ => s
    setInt s k { r with st := .pending, age := 0, note := note, noteId := none, discard := false }
  | .active =>
    if isLevel s (keyTarget k) (keyIntid k) then s else loseTrigger s k
  | _ => s

/-- Event T as a software set of the pending bit (R26): of any Active INTID it is lost (R20). -/
def evSet (s : State) (k : Nat) : State :=
  match (intOf s k).st with
  | .active => loseTrigger s k
  | _ => evT s k none

/-- Event F (R19). -/
def evF (s : State) (k : Nat) : State :=
  let r := intOf s k
  match r.st with
  | .pending => setInt s k (restRec k r)
  | .offeredP => setInt s k (restRec k r)
  | _ => s

/-- Event W (R19): the ticket is retired. -/
def evW (s : State) (k : Nat) : State :=
  let r := intOf s k
  match r.st with
  | .offeredP => setInt s k { r with st := .pending, offer := none }
  | _ => s

/-- Event C (R19): Active, held by the claiming target. -/
def evC (s : State) (k : Nat) (t : Target) : State :=
  let r := intOf s k
  match r.st with
  | .offeredE => setInt s k { r with st := .active, offer := none, holder := t, discard := false }
  | _ => s

/-- Event N (R19, R21, R199). -/
def evN (s : State) (k : Nat) : State :=
  let r := intOf s k
  match r.st with
  | .offeredE =>
    if r.discard then bump (setInt s k (restRec k r)) cntDISCARD
    else if isLevel s (keyTarget k) (keyIntid k) && !levelHigh s (keyTarget k) (keyIntid k) then
      setInt s k (restRec k r)
    else setInt s k { r with st := .pending, offer := none }
  | _ => s

/-- Event E (R19). -/
def evE (s : State) (k : Nat) : State :=
  let r := intOf s k
  match r.st with
  | .active => setInt s k { r with st := .completed, holder := 0 }
  | _ => s

/-- Event K (R19, R23). -/
def evK (s : State) (k : Nat) : State :=
  let r := intOf s k
  match r.st with
  | .pending | .offeredP =>
    if isLevel s (keyTarget k) (keyIntid k) && levelHigh s (keyTarget k) (keyIntid k) then s
    else setInt s k (restRec k r)
  | _ => s

/-- A recall flag on a current Offered-E ticket; one RECALL per ticket (R74). -/
def flagRecall (o : Offer) : Offer := if o.rcl = .none then { o with rcl := .flagged } else o

/-- Event D (R19, R199). -/
def evD (s : State) (k : Nat) : State :=
  let r := intOf s k
  match r.st with
  | .pending | .offeredP => bump (setInt s k (restRec k r)) cntDISCARD
  | .offeredE => setInt s k { r with discard := true, offer := r.offer.map flagRecall }
  | _ => s

/-- Event Q for the notification of number `id`: an INTID that waits Completed for it becomes Inactive (R19, R28). -/
def evQ (s : State) (i : Intid) (id : Nat) : State :=
  let k := ikey 0 i
  let r := intOf s k
  if r.st = .completed ∧ r.noteId = some id then setInt s k (restRec k r) else s

/-- The pending bit of an INTID (R27). -/
def pendBit (s : State) (k : Nat) : Bool :=
  match (intOf s k).st with
  | .pending | .offeredP | .offeredE => true
  | _ => false

/-! ## Triggers that ask whether the tenant is enabled (Table TN-3) -/

/-- A trigger is discarded and counted while the tenant of its INTID is not enabled (R197). -/
def ifEnabled (s : State) (k : Nat) (f : State → State) : State :=
  match ownerOf s (keyIntid k) with
  | some n => if tenEnabled s n then f s else bump s cntDISCARD
  | none => f s

/-- A trigger of an INTID outside the extended range. -/
def trigger (s : State) (k : Nat) (note : Option NoteKey) : State := ifEnabled s k fun s => evT s k note

/-- Software set (true) or clear (false) of a pending bit (R26). -/
def softPend (s : State) (k : Nat) (v : Bool) : State := if v then ifEnabled s k fun s => evSet s k else evK s k

/-- LOST count set to zero (R32). -/
def clearLost (s : State) (k : Nat) : State := setInt s k { intOf s k with lost := 0 }

/-! ## House sources -/

/-- The house sources follow a change of their levels from `old` (Table IS-2). INTIDs change only in the operating
modes (R338, R340). -/
def houseEdges (old : BitVec 16) (s : State) : State :=
  if operating s then
    foldS (fun s j =>
      let k := 8192 + 128 + j
      if (houseLevels s).getLsbD j && !old.getLsbD j then evT s k none
      else if !(houseLevels s).getLsbD j && old.getLsbD j then evF s k
      else s) s (upTo 16)
  else s

/-- The house flags of the CCLK are set, once (R132), the sources follow, and the trail of the gasp record takes the flags
that were clear (Table NV-5). -/
def flushHouse (s : State) : State :=
  if s.hsAcc = 0 then s
  else
    let old := houseLevels s
    let fresh := s.hsAcc &&& ~~~(hsFlags s)
    let s1 := sqSet { s with hsAcc := 0, nv := { s.nv with trail := (s.hl.seq, fresh) :: s.nv.trail.take 7 } } 0x300
      (s.hsAcc.setWidth 24)
    houseEdges old s1

/-! ## Offers and tickets -/

/-- The current tickets of a target, with the keys of their INTIDs (R69). -/
def ticketsOf (s : State) (t : Target) : List (Nat × Offer) :=
  s.irq.ints.filterMap fun p =>
    match p.2.offer with
    | some o => if o.target = t then some (p.1, o) else none
    | none => none

/-- The offer of an INTID is endpoint-held. -/
def isE (s : State) (k : Nat) : Bool := (intOf s k).st = .offeredE

/-- Offered-P offers of a link's Q-DLV, oldest first (R61); a wired target's offer is in no Q-DLV (R98). -/
def qDlv (s : State) (l : Link) : List (Nat × Offer) :=
  sortBy (fun a b => decide (a.2.born ≤ b.2.born)) (s.irq.ints.filterMap fun p =>
    match p.2.st, p.2.offer with
    | .offeredP, some o => if tgtLink s o.target = l && !tgtBind s o.target then some (p.1, o) else none
    | _, _ => none)

/-- The next ticket of a target: on from the previous one, never 0, never one that is current (R69). -/
def nextTicket (s : State) (t : Target) : BitVec 8 :=
  let cur := (ticketsOf s t).map fun p => p.2.ticket
  let nxt := fun (b : BitVec 8) => if b = 0xFF then (1 : BitVec 8) else b + 1
  let a := nxt (tgtOf s t).lastTicket
  if cur.contains a then
    let b := nxt a
    if cur.contains b then nxt b else b
  else a

/-- Every Offered-P INTID takes event W (R34, R335). -/
def withdrawAll (s : State) : State :=
  foldS (fun s p => evW s p.1) s (s.irq.ints.filter fun p => p.2.st = .offeredP)

/-- R335 across a change of state. -/
def settlePermit (before after : State) : State :=
  if permitS before && !permitS after && operating after then withdrawAll after else after

/-! ## Work of the store (R370, R373, R393) -/

/-- A piece of work that the store controller does. -/
def isStoreWork : NvItem → Bool
  | .append _ _ _ _ _ | .program _ _ | .eraseSector _ _ | .erase _ _ | .ckpt _ => true
  | _ => false

/-- Store work that has not ended: Q-NVM, and what waits for room in it. -/
def storeWork (s : State) : Nat :=
  ((s.nv.jobs.flatMap (·.items)).filter isStoreWork).length + (if s.nv.orphan then 1 else 0)

/-- Occupancy of Q-NVM (R370, Table CQ-1). -/
def qNvm (s : State) : Nat := min 16 (storeWork s)

def pushJob (s : State) (items : List NvItem) : State :=
  { s with nv := { s.nv with jobs := s.nv.jobs ++ [{ mailbox := false, items := items }] } }

/-- A log entry of the Steward, while Olumon firmware runs (R376); in LAST-GASP and SHUTDOWN it takes up no new work (R382, R390). -/
def logEntry (s : State) (type arg : BitVec 8) (value : Word) (data : BitVec 96) : State :=
  if s.stew.fw = .olumon && !s.pw.stwDown && s.pw.mode ≠ .lastGasp && s.pw.mode ≠ .shutdown then
    pushJob s [.append .log type arg value data]
  else s

/-- Flags of NV_EVT are set: NV_ERROR, and a STORE entry for each (R393, Table NV-3). -/
def nvEvt (s : State) (k : Nat) (sector : Nat) : State :=
  let s := house (sqSet s 0x604 (BitVec.ofNat 24 (2 ^ k))) hNVERROR
  logEntry s 0x13 (BitVec.ofNat 8 k) (BitVec.ofNat 32 sector) 0

/-- Abort of the erase in progress (R369, R373): the sector has free content until it has been erased again, and the work
begins again with its ERASE_BEGIN. -/
def abortErase (s : State) : State :=
  match s.nv.op with
  | some (.erase sec) =>
    let jobs := match s.nv.jobs with
      | [] => []
      | j :: js => match j.items with
        | .erase q again :: rest => if s.nv.orphan then j :: js else { j with items := .eraseSector q again :: rest } :: js
        | _ => j :: js
    { s with nv := { s.nv with op := none, orphan := false, jobs := jobs, indet := tabSet s.nv.indet 0 sec (s.free + 1) },
             free := s.free + 1024 }
  | _ => s

/-- A change of mode is logged by running firmware (Table NV-3). -/
def logMode (before after : State) : State :=
  let on := fun s : State => s.stew.fw = .olumon && (operating s || s.pw.mode = .safe)
  if on before && on after && modeCode before ≠ modeCode after then
    logEntry after 0x11 (BitVec.ofNat 8 (modeCode after)) 0 0
  else after

/-- NV_DONE: Q-NVM has become empty (R393). -/
def nvDone (before after : State) : State :=
  if storeWork before ≠ 0 && storeWork after = 0 then house after hNVDONE else after

/-! ## Occupancies and high-water marks (Table CQ-1, CQ-7) -/

def qWalk (s : State) : Nat := s.xl.walks.length
def qDlvAll (s : State) : Nat := (s.irq.ints.filter fun p => p.2.st = .offeredP &&
  (match p.2.offer with | some o => !tgtBind s o.target | none => false)).length
def qMbx (s : State) : Nat := s.mbx.q.length + (if s.mbx.busy.isSome then 1 else 0) + s.mbx.replies.length

/-- Pool entries in use: extended INTIDs that are not Inactive, and walk-blocked events (R17, R202). -/
def poolUsed (s : State) : Nat :=
  (s.irq.ints.filter fun p => 8192 + 16384 ≤ p.1 && decide (p.2.st ≠ .inactive)).length + s.xl.blocked.length

/-- The occupancies in the order of Table CQ-7, then the pool's. -/
def occupancies (s : State) : List Nat :=
  [s.xl.qIn.length, qWalk s, qDlvAll s, s.xl.qCmp.length, s.xl.qFlt.length, s.xl.qEvt.length, qNvm s, qMbx s, poolUsed s]

/-- A high-water mark is the highest occupancy that a command has left. -/
def noteHwm (s : State) : State :=
  { s with xl := { s.xl with
      hwm := (occupancies s).zipIdx.foldl (fun t (p : Nat × Nat) => tabSet t 0 p.2 (max (tabGet t 0 p.2) p.1)) s.xl.hwm } }

/-! ## The active-priority record of a wired target (R102) -/

/-- The lowest-numbered set bit, or 0xFF. -/
def lowestSet (r : BitVec 256) : BitVec 8 :=
  match (upTo 256).find? fun j => r.getLsbD j with
  | some j => BitVec.ofNat 8 j
  | none => 0xFF

def setBit256 (r : BitVec 256) (j : Nat) : BitVec 256 := r ||| (1#256 <<< j)
def clrBit256 (r : BitVec 256) (j : Nat) : BitVec 256 := r &&& ~~~(1#256 <<< j)

/-- A claim sets bit e; VIEW_RPR is the lowest set bit. -/
def recordClaim (r : TgtRec) (e : BitVec 8) : TgtRec :=
  let rec' := setBit256 r.record e.toNat
  { r with record := rec', rpr := lowestSet rec' }

/-- An EOI clears the lowest set bit. -/
def recordEoi (r : TgtRec) : TgtRec :=
  let rec' := if r.record = 0 then r.record else clrBit256 r.record (lowestSet r.record).toNat
  { r with record := rec', rpr := lowestSet rec' }

/-! ## Reversion and reclaim (R76, R77) -/

/-- The state change of R76 on one INTID whose offer or claim is at target t; it is counted in CNT_REVERT. -/
def revertInt (s : State) (t : Target) (k : Nat) : State :=
  let r := intOf s k
  match r.st with
  | .offeredP => if r.offer.map (·.target) = some t then bump (evW s k) cntREVERT else s
  | .offeredE => if r.offer.map (·.target) = some t then bump (evN s k) cntREVERT else s
  | .active => if r.holder = t then bump (evE s k) cntREVERT else s
  | _ => s

/-- The actions of R76 on one target; a wired target's record is emptied (R102). -/
def revertTarget (s : State) (t : Target) : State :=
  let s := foldS (fun s p => revertInt s t p.1) s s.irq.ints
  if tgtBind s t then setTgt s t { tgtOf s t with record := 0, rpr := 0xFF } else s

/-- Every private level of a target falls to 0, with event F where it was 1 (R97, R104). -/
def dropLevels (s : State) (t : Target) : State :=
  let old := (tgtOf s t).levels
  let s := setTgt s t { tgtOf s t with levels := 0 }
  foldS (fun s j =>
    let i : Intid := BitVec.ofNat 24 (16 + j)
    if old.getLsbD j && !srcEdge s t i then evF s (ikey t i) else s) s (upTo 16)

/-- The view and the sleep code of a target whose link goes down (R44, R316). -/
def viewDown (r : TgtRec) : TgtRec := { r with pmr := 0, bpr := 0, rpr := 0xFF, sleep := 0 }

/-- Link-down reversion on every target of a link (R76, R97, R44, R316). -/
def revertLink (s : State) (l : Link) : State :=
  foldS (fun s n =>
    let t : Target := BitVec.ofNat 8 n
    if tgtLink s t = l && !tgtBind s t then
      let s := revertTarget s t
      let s := dropLevels s t
      setTgt s t (viewDown (tgtOf s t))
    else s) s (upTo 256)

end Sys2Proof.Machine
end

