-- ==== Sys2Proof/Machine/Regions.lean ====
section
/-!
DEFINITION. Machine/Regions.lean: the region map and the check of every access to host memory (chapter 08), the
bookkeeping of a tenant's outstanding accesses (R204) and the records queued on Q-FLT and Q-EVT (R176, R177).
-/
namespace Sys2Proof.Machine

/-! ## Link conditions -/

/-- The eight links. -/
def allLinks : List Link := (upTo 8).map (BitVec.ofNat 3)

/-- The link is down for R156: from R258 until it next reaches ACTIVE by training. -/
def linkIsDown (r : LinkRec) : Bool :=
  match r.st with
  | .active | .regroup | .idle | .fallow | .wake => false
  | .rate | .clockAtRate | .alignAtRate => !(r.rgRate.isSome || 0 < r.exitStep)
  | _ => true

def linkActive (s : State) (l : Link) : Bool := (linkOf s l).st = .active

/-! ## The region check (R179 to R186) -/

def regionW (s : State) (j w : Nat) : Word := tabLive s 5 j 0 w
/-- First and last page of a region (R456). -/
def regionBase (s : State) (j : Nat) : Nat := (regionW s j 2).toNat * 2 ^ 20 + (regionW s j 1).toNat / 4096
def regionLimit (s : State) (j : Nat) : Nat := (regionW s j 4).toNat * 2 ^ 20 + (regionW s j 3).toNat / 4096
def regionLink (s : State) (j : Nat) : Link := BitVec.ofNat 3 (fld (regionW s j 0) 4 3)
def regionColour (s : State) (j : Nat) : Nat := fld (regionW s j 0) 8 6
def regionDevice (s : State) (j : Nat) : Bool := bit (regionW s j 0) 1

/-- The lowest-numbered region with V = 1 that covers a page. -/
def regionFor (s : State) (page : Nat) : Option Nat :=
  (upTo 32).find? fun j => bit (regionW s j 0) 0 && regionBase s j ≤ page && page ≤ regionLimit s j

/-- The answer of a check: the link to use, or the fault code with the region that matched (Table RC-2). -/
inductive RegionResult where
  | pass (l : Link) (region : Nat)
  | fail (code : Nat) (region : Option Nat)
  deriving DecidableEq, Repr

/-- Table RC-2, for tenant n and a 49-bit address. -/
def regionCheck (s : State) (n : Tenant) (addr : Nat) : RegionResult :=
  if 2 ^ 48 ≤ addr then .fail 0x10 none
  else match regionFor s (addr / 4096) with
    | none => .fail 0x10 none
    | some j =>
      if regionDevice s j then .fail 0x12 (some j)
      else if regionColour s j ≠ tenColour s n then .fail 0x11 (some j)
      else if linkIsDown (linkOf s (regionLink s j)) then .fail 0x13 (some j)
      else .pass (regionLink s j) j

/-! ## Outstanding accesses and quiescence (R204, R205) -/

/-- QUIESCED is set when the effective master enable is 0 and nothing is outstanding, with its flag (R204); it clears
when the effective master enable is 1. -/
def quiesceCheck (s : State) (n : Tenant) : State :=
  let r := tenOf s n
  if tenMe s n then
    if r.quiesced then setTen s n { r with quiesced := false } else s
  else if r.outstanding = 0 && !r.quiesced then
    house { setTen s n { r with quiesced := true, stepDue := r.stepDue || r.resetPend } with quiesceLast := n } hQUIESCED
  else s

def outAdd (s : State) (n : Tenant) : State :=
  let r := tenOf s n
  setTen s n { r with outstanding := r.outstanding + 1 }

/-- An access of the tenant ends. -/
def outSub (s : State) (n : Tenant) : State :=
  let r := tenOf s n
  setTen s n { r with outstanding := r.outstanding - 1 }

/-- Every tenant that has come to rest becomes quiescent, in ascending order: the highest stands in QUIESCE_LAST (R205). -/
def quiesceAll (s : State) : State := foldS (fun s p => quiesceCheck s (BitVec.ofNat 8 p.1)) s s.tens

/-! ## Fault and event records -/

/-- A record for the provider's event ring; a full Q-EVT drops it (R177, R423). -/
def queueEvt (s : State) (e : EvtRec) : State :=
  if 512 ≤ s.xl.qEvt.length then dropCount s cntEVTDROP
  else { s with xl := { s.xl with qEvt := s.xl.qEvt ++ [e] } }

/-- A fault record for a tenant's ring; it sets WALK_FAULT, and a full Q-FLT drops it, which its tenant's next record tells
(R176, R177, Table CQ-5). -/
def queueFlt (s : State) (f : FltRec) : State :=
  let s := house s hWALKFAULT
  if 256 ≤ s.xl.qFlt.length then
    let r := tenOf s f.tenant
    setTen (dropCount s cntFLTDROP) f.tenant { r with loss := satInc8 r.loss }
  else
    let r := tenOf s f.tenant
    let s := setTen s f.tenant { r with c4 := r.c4 + 1 }
    { s with xl := { s.xl with qFlt := s.xl.qFlt ++ [f] } }

/-- ACCESS_ERROR (Table TW-10): page offset, addressed tenant, 1 for a read. -/
def accessError (s : State) (l : Link) (n : Tenant) (off : BitVec 12) (rd : Bool) : State :=
  let d : BitVec 64 := BitVec.ofNat 64 (off.toNat + n.toNat * 2 ^ 12 + (if rd then 2 ^ 20 else 0))
  queueEvt s { kind := 1, tenant := n, link := l, hlseq := s.hl.seq, data := d }

/-- POOL_DROP or SPILL_DROP (Table TW-10): the drop is counted, in the tenant's COUNTERS entry as well (R172, R176). -/
def poolDrop (s : State) (n : Tenant) (l : Link) (i : Intid) (record : Option (BitVec 8)) : State :=
  let s := dropCount s cntPOOLDROP
  let r := tenOf s n
  let s := setTen s n { r with c1 := r.c1 + 1 }
  match record with
  | some kind => queueEvt s { kind := kind, tenant := n, link := l, hlseq := s.hl.seq, data := i.setWidth 64 }
  | none => s

/-- Q-CMP has room (Table CQ-1). -/
def cmpRoom (s : State) : Bool := s.xl.qCmp.length < 512

/-- A NAK-event on Q-CMP (R176, R178); a full queue drops it (R425). -/
def queueNak (s : State) (e : SowEvent) (i : Intid) (code : Nat) : State :=
  if !cmpRoom s then dropCount s cntCMPDROP
  else
    let n : Note := { key := { link := e.link, tenant := e.tenant, dev := e.dev, ev := e.ev }, intid := i, nak := true,
                      code := BitVec.ofNat 8 code, id := none }
    { s with xl := { s.xl with qCmp := s.xl.qCmp ++ [n] } }

/-- One fault record for one event (Table TW-9). -/
def faultRec (s : State) (e : SowEvent) (code stage : Nat) (nak : Bool) (addr : Nat) (region : Option Nat)
    (withKey : Bool) : FltRec :=
  { code := BitVec.ofNat 8 code, tenant := e.tenant, link := e.link, nak := nak, stage := BitVec.ofNat 3 stage,
    dev := if withKey then e.dev else 0, ev := if withKey then e.ev else 0, addr := BitVec.ofNat 48 addr,
    region := BitVec.ofNat 5 (region.getD 0), rhit := region.isSome, hlseq := s.hl.seq.extractLsb' 0 8 }

/-! ## Rings (R208) -/

/-- Base address and size of a ring of a tenant; the provider's event ring when `evt`. -/
def ringOff (evt : Bool) : Nat := if evt then 0x80 else 0x20
def ringLog2 (s : State) (n : Tenant) (evt : Bool) : Nat := fld (pageLive s n.toNat (ringOff evt)) 0 4
def ringBase (s : State) (n : Tenant) (evt : Bool) : Nat :=
  (pageLive s n.toNat (ringOff evt + 4)).toNat * 2 ^ 32 + ((pageLive s n.toNat (ringOff evt)).toNat / 4096) * 4096
def ringOf (s : State) (n : Tenant) (evt : Bool) : Ring := if evt then (tenOf s n).event else (tenOf s n).fault
def setRing (s : State) (n : Tenant) (evt : Bool) (r : Ring) : State :=
  if evt then setTen s n { tenOf s n with event := r } else setTen s n { tenOf s n with fault := r }
/-- Records in the ring. -/
def ringCount (r : Ring) : Nat := (r.tail - r.head).toNat
/-- A ring with no valid LOG2 is always full. -/
def ringFull (s : State) (n : Tenant) (evt : Bool) : Bool :=
  let g := ringLog2 s n evt
  g < 4 || 2 ^ g ≤ ringCount (ringOf s n evt)
/-- Address of the slot at TAIL. -/
def ringSlot (s : State) (n : Tenant) (evt : Bool) : Nat :=
  ringBase s n evt + 16 * ((ringOf s n evt).tail.toNat % 2 ^ ringLog2 s n evt)

end Sys2Proof.Machine
end

