-- ==== Sys2Proof/Machine/Arbiter.lean ====
section
/-!
DEFINITION. Machine/Arbiter.lean: the budget, the requests and grants of the allotment arbiter, revocation (chapter 13).
-/
namespace Sys2Proof.Machine

/-! ## Budget (R283) -/

def levelEntry (s : State) (j : Nat) : Nat := fld (regLive s (0x420 + 4 * (j / 2))) (16 * (j % 2)) 12

/-- THR acts on the budget in the operating modes (R336); what changes while CCLK stands still in FALLOW acts at the wake
(R343). -/
def thrActs (s : State) : Bool := s.pw.thr && operating s

def budget (s : State) : Nat :=
  if s.allot.pfail then 0
  else
    let raw := if bit (regLive s 0x400) 0 then fld (regLive s 0x404) 0 12 else levelEntry s s.allot.level.toNat
    raw - (if thrActs s then fld (regLive s 0x408) 0 12 else 0)

def heldSum (s : State) : Nat := (s.allot.grants.map (·.held)).sum
def saffHeld (s : State) : Nat := ((s.allot.grants.filter (·.saff)).map (·.held)).sum
/-- FREE, signed (R301). -/
def freeAllot (s : State) : Int := (budget s : Int) - (heldSum s : Int)
def saffRes (s : State) : Nat := fld (regLive s 0x40C) 16 12
def saffPrio (s : State) : Nat := fld (regLive s 0x40C) 0 8

/-! ## Clients (Table AL-1) -/

def exitClient (l : Link) : Nat := 256 + l.toNat
def cPROGRAM : Nat := 264
def cERASE : Nat := 265
def cAUTH : Nat := 266
def extClient (n : Nat) : Nat := 267 + n

def hasGrant (s : State) (client : Nat) : Bool := s.allot.grants.any fun g => g.client = client
def hasReq (s : State) (client : Nat) : Bool := s.allot.reqs.any fun r => r.client = client

/-! ### The need of the authentication engine (R396, R397) -/

def ctxOf (s : State) (c : Nat) : Ctx := tabGet s.au.ctxs {} c

/-- The context holds a block to compress or a verification step to run (R396). -/
def ctxReady (x : Ctx) : Bool := x.owner.isSome && (!x.todo.isEmpty || 0 < x.steps)

def anyReady (s : State) : Bool := (upTo 4).any fun c => ctxReady (ctxOf s c)

/-! ### Costs and ranks -/

/-- Cost of a client now: a link's depends on the state it leaves (R313). -/
def clientCost (s : State) (c : Nat) : Nat :=
  if 256 ≤ c && c < 264 then
    if (linkOf s (BitVec.ofNat 3 (c - 256))).st = .idle then fld (tabLive s 7 c 0 1) 0 12 else fld (tabLive s 7 c 0 0) 0 12
  else fld (tabLive s 7 c 0 0) 0 12

/-- The link leaves IDLE or FALLOW only on an exit that nobody has been granted and nobody has begun (R288). -/
def exitWanted (s : State) (l : Link) : Bool :=
  ((linkOf s l).st = .idle || (linkOf s l).st = .fallow) && (linkOf s l).exitStep = 0 && !hasGrant s (exitClient l)

/-- The link whose exit a combined request asks for; one that is granted or begun already adds nothing (R288). -/
def reqExit (s : State) (r : Req) : Option Link := r.exit.filter (exitWanted s)

def reqCost (s : State) (r : Req) : Nat :=
  clientCost s r.client + (match reqExit s r with | some l => clientCost s (exitClient l) | none => 0)

/-- The best candidates that wait for a link and for no wake (R287, R313). -/
def waitingBest (s : State) (l : Link) : List (Target × Intid) :=
  s.irq.tgts.filterMap fun p =>
    let t : Target := BitVec.ofNat 8 p.1
    if tgtLink s t = l && !tgtBind s t && (p.2.sleep.toNat < 2 || hasGrant s t.toNat) then p.2.best.map fun i => (t, i)
    else none

/-- Base priority of the most urgent offer that waits for a link: best candidates and Q-DLV entries (R287, R313). -/
def waitingPrio (s : State) (l : Link) : Nat :=
  let a := (waitingBest s l).map fun p => srcPrio s p.1 p.2
  let b := (qDlv s l).map fun p => srcPrio s (keyTarget p.1) (keyIntid p.1)
  (a ++ b).foldl min 0xFF

/-- Rank priority of a request (Table AL-1). -/
def rankPrio (s : State) (r : Req) : Nat :=
  if r.client < 256 then r.prio.toNat
  else if r.client < 264 then
    min (fld (tabLive s 7 r.client 0 0) 16 8) (waitingPrio s (BitVec.ofNat 3 (r.client - 256)))
  else fld (tabLive s 7 r.client 0 0) 16 8

/-- Saffron requests (R291). -/
def isSaffron (s : State) (r : Req) : Bool :=
  if r.client < 256 then r.prio.toNat < saffPrio s
  else if r.client < 264 then waitingPrio s (BitVec.ofNat 3 (r.client - 256)) < saffPrio s
  else false

/-- A non-zero request that no budget in force can serve (R290). -/
def isUnfit (s : State) (r : Req) : Bool :=
  reqCost s r ≠ 0 && (if isSaffron s r then budget s < reqCost s r else budget s < reqCost s r + saffRes s)

/-- Requests are marked as they become unfit, each time counted (R290). -/
def markUnfit (s : State) : State :=
  let newly := (s.allot.reqs.filter fun r => isUnfit s r && !r.unfit).length
  { s with allot := { s.allot with reqs := s.allot.reqs.map (fun r => { r with unfit := isUnfit s r }),
                                   cntUnfit := s.allot.cntUnfit + BitVec.ofNat 32 newly } }

def dropReq (s : State) (c : Nat) : State :=
  { s with allot := { s.allot with reqs := s.allot.reqs.filter fun r => r.client ≠ c } }

/-- A request is raised; one that stands for the same INTID keeps its time of raising (R291), one for another INTID takes
its place as a request of its own (R62). -/
def raiseReq (s : State) (c : Nat) (prio : BitVec 8) (exit : Option Link) (key : Option Nat) : State :=
  if s.allot.reqs.any fun r => r.client = c && r.key = key then
    markUnfit { s with allot := { s.allot with
      reqs := s.allot.reqs.map fun r => if r.client = c then { r with prio := prio, exit := exit } else r } }
  else
    let s := dropReq s c
    markUnfit { s with allot := { s.allot with
      reqs := s.allot.reqs ++ [{ client := c, prio := prio, exit := exit, key := key, order := s.allot.serial }],
      serial := s.allot.serial + 1 } }

/-- The engine asks while a context is ready and it holds no grant: a grant cancelled before the first block, or paused, is
asked for anew (R299, R397). -/
def engineRequest (s : State) : State :=
  if anyReady s && !hasGrant s cAUTH && !hasReq s cAUTH then raiseReq s cAUTH 0 none none else s

def freeGrant (s : State) (c : Nat) : State :=
  { s with allot := { s.allot with grants := s.allot.grants.filter fun g => g.client ≠ c } }

def startGrant (s : State) (c : Nat) : State :=
  { s with allot := { s.allot with
      grants := s.allot.grants.map fun g => if g.client = c then { g with started := true } else g } }

/-- BGNT of an external client: a grant not under revocation (R296, R297). -/
def bgnt (s : State) (n : Nat) : Bool :=
  s.allot.grants.any fun g => g.client = extClient n && !g.revoking

/-! ## Revocation (R298, R299) -/

/-- The aim of revocation, by FREE plus what is already under revocation. -/
def aimMet (s : State) : Bool :=
  let soon := ((s.allot.grants.filter (·.revoking)).map (·.held)).sum
  if bit (regLive s 0x400) 1 then (saffRes s : Int) ≤ freeAllot s + (soon : Int) + (saffHeld s : Int)
  else 0 ≤ freeAllot s + (soon : Int)

/-- The step of Table AL-4 a normal grant is revoked in. -/
def revokeStep (g : Grant) : Nat :=
  if !g.started then 1
  else if 267 ≤ g.client then 2
  else if g.client = cAUTH then 3
  else if g.client = cERASE then 4
  else if g.client = cPROGRAM then 5
  else 6

/-- Grants open to revocation in the order of Table AL-4. -/
def revokeOrder (s : State) : List Grant :=
  sortBy (fun a b =>
    decide (revokeStep a < revokeStep b) ||
    (revokeStep a = revokeStep b && (b.prio < a.prio || (a.prio = b.prio && b.order ≤ a.order))))
    (s.allot.grants.filter fun g => !g.saff && !g.revoking)

/-- One revocation: a grant that has not started is cancelled; another is made to end. An erase is aborted at once. -/
def revokeOne (s : State) (g : Grant) : State :=
  if revokeStep g = 1 then freeGrant s g.client
  else
    let s := { s with allot := { s.allot with
      grants := s.allot.grants.map fun h => if h.client = g.client then { h with revoking := true } else h } }
    if 2 ≤ revokeStep g && revokeStep g ≤ 4 then
      let s := { s with allot := { s.allot with cntRevoke := s.allot.cntRevoke + 1 } }
      if g.client = cERASE then freeGrant (abortErase s) cERASE else s
    else s

/-- Revocation until its aim is met. -/
def revoke (s : State) : State := foldS (fun s g => if aimMet s then s else revokeOne s g) s (revokeOrder s)

/-- What follows any change of the budget, the reserve or the grants: overdraft, revocation, LEAN, BUDGET_CHANGE
(R286, R298, R302). -/
def arbSettle (before s : State) : State :=
  let s := if budget before ≠ budget s then house s hBUDGET else s
  let s := if freeAllot s < 0 && !s.allot.overdraft then
      house { s with allot := { s.allot with overdraft := true } } hOVERDRAFT else s
  let s := if aimMet s then s else revoke s
  let s := if 0 ≤ freeAllot s then { s with allot := { s.allot with overdraft := false } } else s
  let enter := fld (regLive s 0x410) 0 12
  let leave := max enter (fld (regLive s 0x410) 12 12)
  let lean := if s.allot.lean then budget s < leave else budget s < enter
  markUnfit { s with allot := { s.allot with lean := lean } }

/-! ## Waits for a link (R313) -/

/-- Link of the ring write at the head of Q-FLT or Q-EVT, if its check passes. -/
def headRingLink (s : State) (evt : Bool) : Option Link :=
  let n : Option Tenant := if evt then s.xl.qEvt.head?.map (fun _ => 0) else s.xl.qFlt.head?.map (·.tenant)
  match n with
  | none => none
  | some n =>
    if ringFull s n evt || !tenMe s n || (if evt then s.xl.evtVc else s.xl.fltVc).isSome then none
    else match regionCheck s n (ringSlot s n evt) with
      | .pass l _ => some l
      | .fail _ _ => none

/-- Something waits for link l to leave IDLE or FALLOW (R313). -/
def exitWaits (s : State) (l : Link) : Bool :=
  !(waitingBest s l).isEmpty || !(qDlv s l).isEmpty ||
  (s.irq.ints.any fun p => match p.2.offer with
    | some o => o.rcl = .flagged && tgtLink s o.target = l && !tgtBind s o.target
    | none => false) ||
  (s.xl.walks.any fun w => w.waits = some l && !w.dead) ||
  headRingLink s false = some l || headRingLink s true = some l

/-- The grants of a client that have not started are freed (R289). -/
def cancelGrant (s : State) (c : Nat) : State :=
  { s with allot := { s.allot with grants := s.allot.grants.filter fun g => g.client ≠ c || g.started } }

/-- The exit request of a link follows what waits for it; a grant that has not started ends with its reason (R289). -/
def exitRequest (s : State) (l : Link) : State :=
  let asleep := (linkOf s l).st = .idle || (linkOf s l).st = .fallow
  if asleep && exitWaits s l then
    if exitWanted s l then raiseReq s (exitClient l) 0xFF none none else dropReq s (exitClient l)
  else cancelGrant (dropReq s (exitClient l)) (exitClient l)

def exitRequests (s : State) : State := foldS (fun s n => exitRequest s (BitVec.ofNat 3 n)) s (upTo 8)

/-! ## Grants (R290 to R294) -/

/-- The modes in which the arbiter grants (Table MD-5). -/
def arbGrants (s : State) : Bool := operating s || s.pw.mode = .safe

/-- The order of R291 within a tier. -/
def reqBefore (s : State) (a b : Req) : Bool :=
  rankPrio s a < rankPrio s b ||
  (rankPrio s a = rankPrio s b && (a.order < b.order || (a.order = b.order && a.client ≤ b.client)))

def tier (s : State) (saff : Bool) : List Req :=
  sortBy (reqBefore s) (s.allot.reqs.filter fun r => isSaffron s r = saff && !isUnfit s r && reqCost s r ≠ 0)

/-- A normal wake in LEAN is paced (R294). -/
def leanAllows (s : State) (r : Req) : Bool :=
  let w := fld (regLive s 0x410) 24 8
  !(s.allot.lean && r.client < 256) || w = 0 || s.allot.wakes < w

/-- The request that is granted next, if any, with its tier: a request of cost 0, else the first of the saffron tier,
else the first of the normal tier, each if it fits (R290, R292). -/
def nextGrant (s : State) : Option (Req × Bool) :=
  match s.allot.reqs.find? fun r => reqCost s r = 0 with
  | some r => some (r, isSaffron s r)
  | none =>
    match (tier s true).head? with
    | some r =>
      if (reqCost s r : Int) ≤ freeAllot s then some (r, true)
      else match (tier s false).head? with
        | some q => if (reqCost s q : Int) ≤ freeAllot s - (saffRes s : Int) && leanAllows s q then some (q, false) else none
        | none => none
    | none =>
      match (tier s false).head? with
      | some q => if (reqCost s q : Int) ≤ freeAllot s - (saffRes s : Int) && leanAllows s q then some (q, false) else none
      | none => none

/-- A request becomes a grant; a combined one becomes the wake grant and the exit grant (R288). External clients and the
store start at once: BGNT is asserted, the operation begins (Table AL-2). -/
def makeGrant (s : State) (r : Req) (saff : Bool) : State :=
  let g : Grant := { client := r.client, held := clientCost s r.client, prio := BitVec.ofNat 8 (rankPrio s r),
                     saff := saff, order := s.allot.serial, key := r.key, started := 267 ≤ r.client }
  let e : List Grant := match reqExit s r with
    | some l => [{ client := exitClient l, held := clientCost s (exitClient l), prio := r.prio, saff := saff,
                   order := s.allot.serial + 1 }]
    | none => []
  let w := if r.client < 256 && !saff then 1 else 0
  let s := dropReq s r.client
  let s := match reqExit s r with | some l => dropReq s (exitClient l) | none => s
  { s with allot := { s.allot with grants := s.allot.grants ++ (g :: e), serial := s.allot.serial + 2,
                                   wakes := s.allot.wakes + w } }

end Sys2Proof.Machine
end

