-- ==== Sys2Proof/Machine/Sha.lean ====
section
/-!
DEFINITION. Machine/Sha.lean: the algorithms of the authentication engine (Table AU-1): SHA-256, HMAC-SHA-256 and ECDSA
verification over P-256, as FIPS 180-4, 198-1 and 186-4 define them. PRESUMED (log 9): the spec names the algorithms only.
Keys and signatures are little-endian (R1, R349); a digest is read as FIPS 186-4 reads it.
-/
namespace Sys2Proof.Machine

/-- The constants of the rounds, sixteen to a number, the first in its highest bits; the initial value in the same way. -/
def roundKeys : List Nat := [
  0x428a2f9871374491b5c0fbcfe9b5dba53956c25b59f111f1923f82a4ab1c5ed5d807aa9812835b01243185be550c7dc372be5d7480deb1fe9bdc06a7c19bf174,
  0xe49b69c1efbe47860fc19dc6240ca1cc2de92c6f4a7484aa5cb0a9dc76f988da983e5152a831c66db00327c8bf597fc7c6e00bf3d5a7914706ca635114292967,
  0x27b70a852e1b21384d2c6dfc53380d13650a7354766a0abb81c2c92e92722c85a2bfe8a1a81a664bc24b8b70c76c51a3d192e819d6990624f40e3585106aa070,
  0x19a4c1161e376c082748774c34b0bcb5391c0cb34ed8aa4a5b9cca4f682e6ff3748f82ee78a5636f84c878148cc7020890befffaa4506cebbef9a3f7c67178f2]
def firstValue : Nat := 0x6a09e667bb67ae853c6ef372a54ff53a510e527f9b05688c1f83d9ab5be0cd19

/-- The n words of a number, highest first. -/
def wordsFrom (n v : Nat) : List Word := (upTo n).map fun i => BitVec.ofNat 32 (v / 2 ^ (32 * (n - 1 - i)))

def shaKeys : List Word := roundKeys.flatMap (wordsFrom 16)
def shaInit : List Word := wordsFrom 8 firstValue

/-- Four octets as a big-endian word; a word as four octets. -/
def beWord (b : List Byte) : Word := BitVec.ofNat 32 (b.foldl (fun a x => a * 256 + x.toNat) 0)
def beBytes (w : Word) : List Byte := [w.extractLsb' 24 8, w.extractLsb' 16 8, w.extractLsb' 8 8, w.extractLsb' 0 8]
/-- A word as four octets, the lowest first. -/
def leBytes (w : Word) : List Byte := [w.extractLsb' 0 8, w.extractLsb' 8 8, w.extractLsb' 16 8, w.extractLsb' 24 8]
/-- Octets as a little-endian word. -/
def leWord (b : List Byte) : Word := BitVec.ofNat 32 (b.foldr (fun x a => a * 256 + x.toNat) 0)

/-- `m` pieces of n items each. -/
def pieces {α : Type} (n : Nat) : Nat → List α → List (List α)
  | 0, _ => []
  | m + 1, l => l.take n :: pieces n m (l.drop n)

/-- Three turned copies of a word, added bit by bit; the third one shifted instead, in the schedule. -/
def turned (i j k : Nat) (x : Word) : Word := [x.rotateRight i, x.rotateRight j, x.rotateRight k].foldl (· ^^^ ·) 0
def spread (i j k : Nat) (x : Word) : Word := [x.rotateRight i, x.rotateRight j, x >>> k].foldl (· ^^^ ·) 0

/-- The schedule grows by n words, newest first: each from the 2nd, 7th, 15th and 16th before it. -/
def shaGrow : Nat → List Word → List Word
  | 0, w => w
  | n + 1, w =>
    let back := fun k => w.getD (k - 1) 0
    shaGrow n ((back 16 + back 7 + spread 7 18 3 (back 15) + spread 17 19 10 (back 2)) :: w)

/-- One round on the eight words, with its schedule word and key added: the words move on by one place, and two are mixed. -/
def shaMix (h : List Word) (kw : Word) : List Word :=
  let v := fun i => h.getD i 0
  let low := kw + v 7 + turned 6 11 25 (v 4) + (v 6 ^^^ (v 4 &&& (v 5 ^^^ v 6)))
  let high := turned 2 13 22 (v 0) + ((v 0 &&& v 1) ||| (v 2 &&& (v 0 ||| v 1)))
  (low + high) :: (h.take 3 ++ (v 3 + low) :: (h.drop 4).take 3)

/-- Compression of one block of 64 octets. -/
def shaBlock (h : List Word) (b : List Byte) : List Word :=
  let w := (shaGrow 48 ((pieces 4 16 b).map beWord).reverse).reverse
  List.zipWith (· + ·) h ((List.zipWith (· + ·) shaKeys w).foldl shaMix h)

/-- The padding of a message of n octets. -/
def shaPad (n : Nat) : List Byte :=
  (0x80 : Byte) :: (List.replicate ((119 - n % 64) % 64) (0 : Byte) ++
    (beBytes (BitVec.ofNat 32 (8 * n / 2 ^ 32)) ++ beBytes (BitVec.ofNat 32 (8 * n))))

/-- The blocks of padded octets. -/
def shaBlocks (b : List Byte) : List (List Byte) := pieces 64 (b.length / 64) b

def shaBytes (h : List Word) : List Byte := h.flatMap beBytes

/-- SHA-256. -/
def sha256 (m : List Byte) : List Byte := shaBytes ((shaBlocks (m ++ shaPad m.length)).foldl shaBlock shaInit)

/-- A key of at most 64 octets, padded and masked: the first block of the inner (0x36) or the outer (0x5C) hash. -/
def hmacPad (x : Byte) (key : List Byte) : List Byte :=
  (key ++ List.replicate (64 - key.length) 0).map fun b => b ^^^ x

/-- HMAC-SHA-256. -/
def hmac (key m : List Byte) : List Byte := sha256 (hmacPad 0x5C key ++ sha256 (hmacPad 0x36 key ++ m))

/-! ## ECDSA over P-256 -/

def ecP : Nat := 0xffffffff00000001000000000000000000000000ffffffffffffffffffffffff
def ecN : Nat := 0xffffffff00000000ffffffffffffffffbce6faada7179e84f3b9cac2fc632551
def ecB : Nat := 0x5ac635d8aa3a93e7b3ebbd55769886bc651d06b0cc53b0f63bce3c3e27d2604b
def ecG : Nat × Nat := (0x6b17d1f2e12c4247f8bce6e563a440f277037d812deb33a0f4a13945d898c296,
  0x4fe342e2fe1a7f9b8ee7eb4a7c0f9e162bce33576b315ececbb6406837bf51f5)

/-- The number that octets spell: highest octet first, as a digest is read; lowest first, as the part's own quantities are
(R1, R349). -/
def beNat (b : List Byte) : Nat := b.foldl (fun a x => a * 256 + x.toNat) 0
def leNat (b : List Byte) : Nat := b.foldr (fun x a => a * 256 + x.toNat) 0

/-- b to the power e modulo m, by n squarings. -/
def powMod (m : Nat) : Nat → Nat → Nat → Nat
  | 0, _, _ => 1 % m
  | n + 1, b, e =>
    let r := powMod m n (b * b % m) (e / 2)
    if e % 2 = 1 then b * r % m else r

/-- The inverse modulo a prime. -/
def invMod (m a : Nat) : Nat := powMod m 256 (a % m) (m - 2)

/-- A point of the curve by three numbers: its coordinates are x over the square of z and y over the cube of z, modulo the
prime; z 0 is the point at infinity. -/
structure Jac where
  x : Nat
  y : Nat
  z : Nat

def Jac.infinity : Jac := ⟨1, 1, 0⟩

/-- A point added to itself. -/
def Jac.double (a : Jac) : Jac :=
  let q := a.y * a.y % ecP
  let c := 4 * a.x * q % ecP
  let w := a.z * a.z % ecP
  let m := 3 * (a.x + ecP - w) * (a.x + w) % ecP
  let x := (m * m + 2 * ecP - 2 * c) % ecP
  ⟨x, (m * (c + ecP - x) + 8 * (ecP * ecP - q * q)) % ecP, 2 * a.y * a.z % ecP⟩

/-- Two points added. -/
def Jac.add (a b : Jac) : Jac :=
  if a.z = 0 then b
  else if b.z = 0 then a
  else
    let za := a.z * a.z % ecP
    let zb := b.z * b.z % ecP
    let u := a.x * zb % ecP
    let v := a.y * (b.z * zb) % ecP
    let h := (b.x * za + ecP - u) % ecP
    let r := (b.y * (a.z * za) + ecP - v) % ecP
    if h = 0 then (if r = 0 then a.double else Jac.infinity)
    else
      let hh := h * h % ecP
      let hc := h * hh % ecP
      let uh := u * hh % ecP
      let x := (r * r + 3 * ecP - hc - 2 * uh) % ecP
      ⟨x, (r * (uh + ecP - x) + ecP * ecP - v * hc) % ecP, h * (a.z * b.z) % ecP⟩

/-- j times P plus k times Q, j and k below 2 to the power n, pq their sum: both multiples are doubled together. -/
def Jac.combine (p q pq : Jac) : Nat → Nat → Nat → Jac
  | 0, _, _ => Jac.infinity
  | n + 1, j, k =>
    let a := (Jac.combine p q pq n (j / 2) (k / 2)).double
    if j % 2 = 1 then (if k % 2 = 1 then a.add pq else a.add p) else if k % 2 = 1 then a.add q else a

/-- The point lies on the curve, its coordinates reduced. -/
def ecOn (x y : Nat) : Bool := x < ecP && y < ecP && y * y % ecP = (x * x * x + (ecP - 3) * x + ecB) % ecP

/-- ECDSA verification: key X then Y, digest, signature r then s, 32 octets each; keys and signatures are little-endian (R1,
R349). -/
def ecdsa (key digest sig : List Byte) : Bool :=
  let qx := leNat (key.take 32)
  let qy := leNat (key.drop 32)
  let r := leNat (sig.take 32)
  let v := leNat (sig.drop 32)
  if key.length = 64 && sig.length = 64 && ecOn qx qy && 0 < r && r < ecN && 0 < v && v < ecN then
    let w := invMod ecN v
    let g : Jac := ⟨ecG.1, ecG.2, 1⟩
    let q : Jac := ⟨qx, qy, 1⟩
    let a := Jac.combine g q (g.add q) 256 (beNat digest * w % ecN) (r * w % ecN)
    let i := invMod ecP a.z
    a.z != 0 && a.x * (i * i) % ecP % ecN == r
  else false

end Sys2Proof.Machine
end

