-- ==== Sys2Proof/Machine/Store.lean ====
section
/-!
DEFINITION. Machine/Store.lean: the non-volatile store: its bytes, entries, append areas, journal, calibration copies and
gasp slots (chapter 17).
-/
namespace Sys2Proof.Machine

/-! ## Bytes (R366 to R369) -/

/-- A byte of the free content numbered n. -/
def freeByte (n i : Nat) : Byte := (Config.freeWord (n + i / 4)).extractLsb' (8 * (i % 4)) 8

/-- The sector's erase was aborted, and it has not been erased since (R369). -/
def indetSector (s : State) (sec : Nat) : Bool := tabGet s.nv.indet 0 sec ≠ 0

/-- A byte of the store: 0xFF where nothing has been programmed, free in a sector of indeterminate content. -/
def nvByte (s : State) (a : Nat) : Byte :=
  let f := tabGet s.nv.indet 0 (a / 4096)
  if f = 0 then tabGet s.nv.mem 0xFF a else freeByte (f - 1) (a % 4096)

def nvBytes (s : State) (a n : Nat) : List Byte := (upTo n).map fun i => nvByte s (a + i)
def nv32 (s : State) (a : Nat) : Word := leWord (nvBytes s a 4)
def nv16 (s : State) (a : Nat) : BitVec 16 := (nv32 s a).setWidth 16

/-- Little-endian words of bytes. -/
def leWords (b : List Byte) : List Word := (pieces 4 (b.length / 4) b).map leWord

/-- Bytes written from an address up. -/
def putBytes (t : Tab Byte) (a : Nat) : List Byte → Tab Byte
  | [] => t
  | b :: r => putBytes (tabSet t 0xFF a b) (a + 1) r

def setMem (s : State) (m : Tab Byte) : State := { s with nv := { s.nv with mem := m } }
def nvWrite (s : State) (a : Nat) (b : List Byte) : State := setMem s (putBytes s.nv.mem a b)

/-- Every byte of a sector returns to 0xFF. -/
def nvEraseSector (s : State) (sec : Nat) : State :=
  { s with nv := { s.nv with mem := s.nv.mem.filter fun p => p.1 / 4096 ≠ sec, indet := tabSet s.nv.indet 0 sec 0 } }

/-- A sector of free content. -/
def nvSpoil (s : State) (sec : Nat) : State :=
  { s with nv := { s.nv with indet := tabSet s.nv.indet 0 sec (s.free + 1) }, free := s.free + 1024 }

/-- A program word of free content: a program that failed or was cut short. -/
def nvSpoilWord (s : State) (a : Nat) : State :=
  { nvWrite s a ((upTo 32).map fun i => freeByte s.free i) with free := s.free + 8 }

/-- Every byte of a program word reads 0xFF (R368). -/
def wordErased (s : State) (a : Nat) : Bool :=
  !indetSector s (a / 4096) && (nvBytes s a 32).all fun b => b = 0xFF

/-- What the error-correcting code reported during a command's reads of a span of bytes (R367): whether a read of it was
uncorrectable. -/
def eccBad (e : Ecc) (a n : Nat) : Bool := e.bad.any fun w => a / 32 ≤ w && w * 32 < a + n

/-- NV_ECC.CORRECTED and ECC_UNCORR for reads of a span. -/
def eccTake (s : State) (e : Ecc) (a n : Nat) : State :=
  let c := BitVec.ofNat 16 (min 0xFFFF (s.nv.corrected.toNat + e.corrected))
  let s := { s with nv := { s.nv with corrected := c } }
  match e.bad.find? fun w => a / 32 ≤ w && w * 32 < a + n with
  | some w => nvEvt s 0 (w / 128)
  | none => s

/-! ## Entries (R372, Table NV-2) -/

structure Entry where
  type  : Byte
  arg   : Byte
  eseq  : Word
  value : Word
  data  : List Byte
  deriving DecidableEq, Repr

def dataBytes (d : BitVec 96) : List Byte := (upTo 12).map fun i => d.extractLsb' (8 * i) 8

/-- The 32 bytes of an entry. -/
def entryBytes (type arg : Byte) (eseq hlseq value : Word) (data : List Byte) : List Byte :=
  let b := [type, arg, 0, 0] ++ leBytes eseq ++ leBytes hlseq ++ leBytes value ++ data
  b ++ leBytes (crc32c (leWords b))

/-- The valid entry at an address, if any. -/
def entryAt (s : State) (a : Nat) : Option Entry :=
  let b := nvBytes s a 32
  if indetSector s (a / 4096) || wordErased s a then none
  else if crc32c (leWords (b.take 28)) = leWord (b.drop 28) then
    some { type := b.getD 0 0, arg := b.getD 1 0, eseq := leWord ((b.drop 4).take 4),
           value := leWord ((b.drop 12).take 4), data := (b.drop 16).take 12 }
  else none

/-- The first wholly erased word of a sector from word i on, n words at most. -/
def areaEnd (s : State) (sec : Nat) : Nat → Nat → Nat
  | 0, i => i
  | n + 1, i => if wordErased s (sec * 4096 + 32 * i) then i else areaEnd s sec n (i + 1)

def sectorEnd (s : State) (sec : Nat) : Nat := areaEnd s sec 128 0

/-- The valid entries of a sector in order. -/
def sectorEntries (s : State) (sec : Nat) : List Entry :=
  (upTo (sectorEnd s sec)).filterMap fun i => entryAt s (sec * 4096 + 32 * i)

def lastEseq (es : List Entry) : Nat := es.foldl (fun m e => max m (e.eseq.toNat + 1)) 0

/-! ## The append areas -/

/-- First sector and number of sectors of an area (Table NV-1). -/
def areaSectors : Area → Nat × Nat
  | .journal => (0, 2)
  | .policy => (2, 2)
  | .log => (196, 60)

def areaPos (s : State) : Area → AreaPos
  | .journal => s.nv.journal
  | .policy => s.nv.policy
  | .log => s.nv.log

def setAreaPos (s : State) (a : Area) (p : AreaPos) : State :=
  match a with
  | .journal => { s with nv := { s.nv with journal := p } }
  | .policy => { s with nv := { s.nv with policy := p } }
  | .log => { s with nv := { s.nv with log := p } }

/-- The sector an area goes on in: the next of the ring that is not retired (R371, R376). -/
def nextSector (s : State) (a : Area) : Option Nat :=
  let (b, n) := areaSectors a
  ((upTo n).map fun j => b + ((areaPos s a).sector - b + 1 + j) % n).find? fun q => !s.nv.retired.contains q

/-- Where an area stands in the store: the sector with the highest entry sequence, its first erased word, the sequence that
follows (R372). An area without an entry begins in its first sector; its first sequence number is 1 (log 10). -/
def findArea (s : State) (a : Area) : AreaPos :=
  let (b, n) := areaSectors a
  let tops := (upTo n).map fun j => (b + j, lastEseq (sectorEntries s (b + j)))
  let best := tops.foldl (fun m p => if m.2 < p.2 then p else m) (b, 0)
  { sector := best.1, word := sectorEnd s best.1, eseq := BitVec.ofNat 32 (max 1 best.2) }

/-! ## The journal (R373 to R377) -/

/-- Epoch of the valid checkpoint of a journal sector (R374). -/
def checkpointOf (s : State) (sec : Nat) : Option Nat :=
  let es := sectorEntries s sec
  match es.find? fun e => e.type = 0x04 with
  | some h =>
    if (upTo 43).all fun j => es.any fun e => e.type = 0x05 && e.arg.toNat = 6 * j then some h.value.toNat else none
  | none => none

/-- The journal sector in use: the highest valid epoch, else sector 0. -/
def journalSector (s : State) : Nat × Nat :=
  match checkpointOf s 0, checkpointOf s 1 with
  | none, some e => (1, e)
  | some e, none => (0, e)
  | some d, some e => if d < e then (1, e) else (0, d)
  | none, none => (0, 0)

structure Replay where
  counts  : Tab Nat := []
  retired : List Nat := []
  /-- Sectors whose latest entry is ERASE_BEGIN. -/
  isOpen  : List Nat := []
  gaspDone : List Word := []
  deriving DecidableEq, Repr

/-- Six erase counts of a CKPT_DATA entry. -/
def ckptCounts (t : Tab Nat) (f : Nat) (d : List Byte) : Tab Nat :=
  (upTo 6).foldl (fun t j => tabSet t 0 (f + j) ((d.getD (2 * j) 0).toNat + 256 * (d.getD (2 * j + 1) 0).toNat)) t

def replayEntry (r : Replay) (e : Entry) : Replay :=
  let n := e.arg.toNat
  if e.type = 0x01 then
    { r with counts := tabSet r.counts 0 n (tabGet r.counts 0 n + 1), isOpen := n :: r.isOpen.filter fun q => q ≠ n }
  else if e.type = 0x02 then
    { r with counts := tabSet r.counts 0 n e.value.toNat, isOpen := r.isOpen.filter fun q => q ≠ n }
  else if e.type = 0x03 then { r with retired := if r.retired.contains n then r.retired else r.retired ++ [n] }
  else if e.type = 0x05 then { r with counts := ckptCounts r.counts n e.data }
  else if e.type = 0x06 then { r with gaspDone := e.value :: r.gaspDone }
  else r

def replayJournal (s : State) : Replay := (sectorEntries s (journalSector s).1).foldl replayEntry {}

/-- The Steward reads where the store stands (R377 steps 1 and 3). -/
def learnStore (s : State) : State :=
  let r := replayJournal s
  let j := journalSector s
  let top := max (lastEseq (sectorEntries s 0)) (lastEseq (sectorEntries s 1))
  { s with nv := { s.nv with
      counts := r.counts, retired := r.retired, epoch := BitVec.ofNat 32 j.2,
      journal := { sector := j.1, word := sectorEnd s j.1, eseq := BitVec.ofNat 32 (max 1 top) },
      policy := findArea s .policy, log := findArea s .log, ckpt := false, ckptPos := 0 } }

def eraseCount (s : State) (sec : Nat) : Nat := tabGet s.nv.counts 0 sec

/-- The sector is incomplete (R373). -/
def incomplete (s : State) (sec : Nat) : Bool := (replayJournal s).isOpen.contains sec

def journalFree (s : State) : Nat := 128 - s.nv.journal.word

/-! ## The policy record (R352) -/

def policyData (p : Policy) : BitVec 96 :=
  let b0 : BitVec 96 := (if p.allow then 1 else 0) ||| (if p.active then 2 else 0) ||| (p.trial.setWidth 96 <<< 2) |||
    (if p.attempted then 16 else 0)
  b0 ||| (p.revoke.setWidth 96 <<< 8) ||| (p.floor.setWidth 96 <<< 32)

def policyOf (d : List Byte) : Policy :=
  let b := d.getD 0 0
  { allow := b.getLsbD 0, active := b.getLsbD 1, trial := b.extractLsb' 2 2, attempted := b.getLsbD 4,
    revoke := (d.getD 1 0).setWidth 4, floor := (leWord ((d.drop 4).take 4)).setWidth 16 }

/-- The record in the store: the valid POLICY_REC with the highest sequence, else the reset values. -/
def readPolicy (s : State) : Policy :=
  let es := (sectorEntries s 2 ++ sectorEntries s 3).filter fun e => e.type = 0x50
  match es.foldl (fun m e => match m with
    | none => some e
    | some x => if x.eseq.toNat < e.eseq.toNat then some e else m) none with
  | some e => policyOf e.data
  | none => {}

/-- PAIR_POLICY (Table RG-3). -/
def policyWord (p : Policy) : Word :=
  putB p.allow 0 ||| putB p.active 1 ||| put p.trial.toNat 2 ||| putB p.attempted 4 ||| put p.revoke.toNat 8 |||
  put p.floor.toNat 16

/-! ## Copies with a header word: calibration and key store (R378 to R380, R403) -/

/-- Body bytes of a copy: declared for calibration, fixed for the key store. -/
def copyLen (s : State) (sec : Nat) (keys : Bool) : Nat := if keys then 2048 else (nv32 s (sec * 4096 + 8)).toNat

/-- GEN of a valid copy. -/
def copyGen (s : State) (sec : Nat) (keys : Bool) : Option Nat :=
  let a := sec * 4096
  let n := copyLen s sec keys
  let magic : Word := if keys then 0x5359454B else 0x42434C41
  if indetSector s sec || nv32 s a ≠ magic || 4064 < n || n % 32 ≠ 0 then none
  else if crc32c (leWords (nvBytes s a 28 ++ nvBytes s (a + 32) n)) = nv32 s (a + 28) then some (nv32 s (a + 4)).toNat
  else none

/-- The valid copy of higher GEN of a pair of sectors: which, and its GEN (R380). -/
def copyInForce (s : State) (sec : Nat) (keys : Bool) : Option (Nat × Nat) :=
  match copyGen s sec keys, copyGen s (sec + 1) keys with
  | none, none => none
  | some g, none => some (0, g)
  | none, some h => some (1, h)
  | some g, some h => if g < h then some (1, h) else some (0, g)

/-- The sector that a new copy goes to, and its GEN (R379). -/
def copyTarget (s : State) (sec : Nat) (keys : Bool) : Nat × Word :=
  match copyInForce s sec keys with
  | none => (sec, 1)
  | some (k, g) => (sec + 1 - k, BitVec.ofNat 32 (g + 1))

/-- The work that writes a copy: erase, body words, header word last. -/
def copyWork (sec : Nat) (header body : List Byte) : List NvItem :=
  let h := header ++ leBytes (crc32c (leWords (header ++ body)))
  .eraseSector sec false ::
    (((pieces 32 (body.length / 32) body).zipIdx.map fun p => NvItem.program (sec * 4096 + 32 * (p.2 + 1)) p.1) ++
     [.program (sec * 4096) h])

/-- NV_STAT.CAL_SRC at a reset; without a valid copy CAL_BAD is set (R380). -/
def loadCal (s : State) : State :=
  match copyInForce s 4 false with
  | some (k, _) => { s with nv := { s.nv with calSrc := BitVec.ofNat 2 k } }
  | none => nvEvt { s with nv := { s.nv with calSrc := 3 } } 7 4

/-! ## Gasp slots (R381, R385) -/

/-- Address of slot k. -/
def slotAddr (k : Nat) : Nat := (6 + k / 16) * 4096 + 256 * (k % 16)

def slotErased (s : State) (k : Nat) : Bool := (upTo 8).all fun w => wordErased s (slotAddr k + 32 * w)

/-- GSEQ of a valid record. -/
def gaspSeq (s : State) (k : Nat) : Option Nat :=
  let a := slotAddr k
  if indetSector s (a / 4096) || nv32 s a ≠ 0x50534147 then none
  else if crc32c (leWords (nvBytes s a 252)) = nv32 s (a + 252) then some (nv32 s (a + 4)).toNat
  else none

/-- A record that fails its check (R385). -/
def gaspTorn (s : State) (k : Nat) : Bool := !slotErased s k && (gaspSeq s k).isNone

/-- The slot with the highest valid GSEQ. -/
def lastGasp (s : State) : Option (Nat × Nat) :=
  (upTo 32).foldl (fun m k => match gaspSeq s k, m with
    | some g, none => some (k, g)
    | some g, some (j, h) => if h < g then some (k, g) else some (j, h)
    | none, m => m) none

/-- The armed slot (R381); a torn slot is treated as used. -/
def armedSlot (s : State) : Nat :=
  let first := match lastGasp s with | some (k, _) => (k + 1) % 32 | none => 0
  match ((upTo 32).map fun j => (first + j) % 32).find? fun k => !gaspTorn s k with
  | some k => k
  | none => first

/-- The slots that R385 examines: the one before the armed slot, and the later ones that are not erased. -/
def gaspExamined (s : State) : List Nat :=
  let first := match lastGasp s with | some (k, _) => (k + 1) % 32 | none => 0
  let prev := match lastGasp s with | some (k, _) => [k] | none => [31]
  prev ++ (((upTo 32).map fun j => (first + j) % 32).takeWhile fun k => gaspTorn s k)

/-- The twenty-two log entries of a record, and its GASP_CONSUMED. -/
def gaspWork (s : State) (k g : Nat) : List NvItem :=
  ((upTo 22).map fun c =>
    let b := (nvBytes s (slotAddr k) 256 ++ List.replicate 8 (0 : Byte)).drop (12 * c)
    let d := (upTo 12).foldl (fun (x : BitVec 96) i => x ||| ((b.getD i 0).setWidth 96 <<< (8 * i))) 0
    NvItem.append .log 0x20 (BitVec.ofNat 8 c) 0 d) ++
  [.append .journal 0x06 (BitVec.ofNat 8 k) (BitVec.ofNat 32 g) 0]

/-- Step 4 of R377. -/
def gaspRecoverWork (s : State) : List NvItem :=
  let done := (replayJournal s).gaspDone
  let ex := gaspExamined s
  let fresh := ex.filterMap fun k => match gaspSeq s k with
    | some g => if done.contains (BitVec.ofNat 32 g) then none else some (k, g)
    | none => none
  let res : BitVec 2 := if !fresh.isEmpty then 1 else if ex.any (gaspTorn s) then 2 else 0
  (fresh.flatMap fun p => gaspWork s p.1 p.2) ++ [.gaspDone res]

/-- Slots whose records the log has taken, newest first (GASP_READ). -/
def consumedSlots (s : State) : List Nat :=
  let done := (replayJournal s).gaspDone
  let ks := (upTo 32).filterMap fun k => match gaspSeq s k with
    | some g => if done.contains (BitVec.ofNat 32 g) then some (k, g) else none
    | none => none
  (sortBy (fun a b => decide (b.2 ≤ a.2)) ks).map (·.1)

end Sys2Proof.Machine
end

