-- ==== Sys2Proof/Machine/Images.lean ====
section
/-!
DEFINITION. Machine/Images.lean: the checks of firmware and LMC images and the loader's decision (R349 to R357).
-/
namespace Sys2Proof.Machine

/-- First sector and sectors of an image area (Table NV-1); banks A false, B true. -/
def imgArea (lmc bank : Bool) : Nat × Nat :=
  if lmc then (if bank then 118 else 58, 10) else (if bank then 68 else 8, 50)

def imgAddr (lmc bank : Bool) : Nat := (imgArea lmc bank).1 * 4096

/-- Header fields (Table SW-2). -/
def imgLen (s : State) (lmc bank : Bool) : Nat := (nv32 s (imgAddr lmc bank + 0x0C)).toNat
def imgKeyId (s : State) (lmc bank : Bool) : Nat := (nvByte s (imgAddr lmc bank + 7)).toNat
def imgVersion (s : State) (lmc bank : Bool) : Word := nv32 s (imgAddr lmc bank + 8)
def imgPair (s : State) (lmc bank : Bool) : BitVec 16 := nv16 s (imgAddr lmc bank + 0x12)
def imgRollback (s : State) (lmc bank : Bool) : BitVec 16 := nv16 s (imgAddr lmc bank + 0x1C)
def imgRates (s : State) (bank : Bool) : BitVec 16 := nv16 s (imgAddr true bank + 0x1E)

/-- The silicon revision (R349) and the features of the silicon (Table SW-3). -/
def idRev : Nat := 0xB0
def idFeat : Word := 0xFF

/-- A sector of the area is incomplete (R373, R377). -/
def areaBroken (s : State) (first n : Nat) : Bool :=
  (upTo n).any fun j => indetSector s (first + j) || incomplete s (first + j)

def headerOk (s : State) (lmc bank : Bool) : Bool :=
  let a := imgAddr lmc bank
  let n := imgLen s lmc bank
  nv16 s (a + 4) = 1 && (nvByte s (a + 6)).toNat = (if lmc then 2 else 1) && n % 32 = 0 &&
  n ≤ (if lmc then 32768 else 196608)

/-- The key hash and the signature (R349). -/
def signatureOk (s : State) (lmc bank : Bool) : Bool :=
  let a := imgAddr lmc bank
  let k := imgKeyId s lmc bank
  let pub := nvBytes s (a + 0x40) 64
  k < 4 && BitVec.ofNat 256 (beNat (sha256 pub)) = Config.romKey k &&
  ecdsa pub (sha256 (nvBytes s a 128)) (nvBytes s (a + 0x80) 64)

def digestOk (s : State) (lmc bank : Bool) : Bool :=
  let a := imgAddr lmc bank
  let (f, n) := imgArea lmc bank
  !areaBroken s f n && sha256 (nvBytes s (a + 192) (imgLen s lmc bank)) = nvBytes s (a + 0x20) 32

/-- The checks EMPTY to ROLLBACK of Table SW-6, in order; 0 when all pass. An image whose first sector is incomplete is no
image; one with another sector incomplete fails DIGEST. -/
def checkImage (s : State) (e : Ecc) (p : Policy) (lmc bank : Bool) : Nat :=
  let a := imgAddr lmc bank
  let f := (imgArea lmc bank).1
  let magic : Word := if lmc then 0x4F4C4D4C else 0x4F4C4D46
  if areaBroken s f 1 || nv32 s a ≠ magic then 0x1
  else if eccBad e a (192 + (if headerOk s lmc bank then imgLen s lmc bank else 0)) then 0xB
  else if !headerOk s lmc bank then 0x2
  else if p.revoke.getLsbD (imgKeyId s lmc bank) then 0x3
  else if !signatureOk s lmc bank then 0x4
  else if !digestOk s lmc bank then 0x5
  else if (imgRollback s lmc bank).toNat < p.floor.toNat then 0x6
  else 0

/-- The LMC for a firmware of a bank: 0 own bank, 1 other bank, 2 ROM default (R355). -/
def lmcSource (s : State) (e : Ecc) (p : Policy) (bank : Bool) (pair : BitVec 16) : Nat :=
  let fits := fun b => checkImage s e p true b = 0 && imgPair s true b = pair
  if fits bank then 0 else if fits (!bank) then 1 else 2

/-- The check RUNNING_LMC: the firmware does not go with the LMC in force. -/
def runningLmcFails (s : State) (e : Ecc) (p : Policy) (bank : Bool) : Bool :=
  let pair := imgPair s false bank
  match s.stew.lmcPair with
  | some q => pair ≠ q
  | none => lmcSource s e p bank pair ≠ 2

/-- Code of a firmware image under Table SW-6, and whether it would run restricted. -/
def checkFirmware (s : State) (e : Ecc) (p : Policy) (steward bank : Bool) : Nat × Bool :=
  let a := imgAddr false bank
  let c := checkImage s e p false bank
  if c ≠ 0 then (c, false)
  else if idRev < (nvByte s (a + 0x10)).toNat then (0x7, false)
  else if nv32 s (a + 0x14) &&& ~~~idFeat ≠ 0 then (0x8, false)
  else if steward && runningLmcFails s e p bank then (0xA, false)
  else if (nvByte s (a + 0x11)).toNat < idRev then (if p.allow then (0, true) else (0x9, false))
  else (0, false)

/-- What the loader decides (R353, R354, Table SW-7). -/
structure LoadRun where
  outcome : Nat
  bank    : Option Bool := none
  trial   : Bool := false
  failA   : Nat := 0
  failB   : Nat := 0
  deriving DecidableEq, Repr

def setFail (r : LoadRun) (bank : Bool) (c : Nat) : LoadRun :=
  if bank then { r with failB := c } else { r with failA := c }

/-- Table SW-5. -/
def bankOrder (s : State) (p : Policy) (steward : Bool) : List Bool :=
  let sel := (s.pw.straps.extractLsb' 1 2).toNat
  if sel = 0 then [false, true]
  else if sel = 1 then [true, false]
  else if sel = 2 then
    let first := if !steward && p.trial ≠ 0 && !p.attempted then p.trial = 2 else p.active
    [first, !first]
  else []

/-- The run boots the trial bank first. -/
def trialRun (s : State) (p : Policy) (steward : Bool) : Bool :=
  (s.pw.straps.extractLsb' 1 2).toNat = 2 && !steward && p.trial ≠ 0 && !p.attempted

def tryBanks (s : State) (e : Ecc) (p : Policy) (steward : Bool) : List Bool → LoadRun → LoadRun
  | [], r => r
  | b :: rest, r =>
    match checkFirmware s e p steward b with
    | (0, restricted) => { r with outcome := if restricted then 1 else 0, bank := some b }
    | (0x9, _) => { setFail r b 0x9 with outcome := 3 }
    | (c, _) => tryBanks s e p steward rest (setFail r b c)

def loaderDecide (s : State) (e : Ecc) (p : Policy) (steward : Bool) : LoadRun :=
  let order := bankOrder s p steward
  let r := tryBanks s e p steward order { outcome := if order.isEmpty then 4 else 2 }
  { r with trial := trialRun s p steward && r.bank.isSome && r.bank = order.head? }

/-- LOAD_STAT (Table RG-3). -/
def loadStatWord (r : LoadRun) (steward : Bool) (lmcSrc : Nat) : Word :=
  put r.outcome 0 ||| put (match r.bank with | some true => 1 | some false => 0 | none => 3) 4 ||| putB r.trial 6 |||
  putB steward 7 ||| put lmcSrc 8 ||| put r.failA 16 ||| put r.failB 20

end Sys2Proof.Machine
end

