-- ==== Sys2Proof/Machine/Keys.lean ====
section
/-!
DEFINITION. Machine/Keys.lean: the key slots, their use by operations, and the wrapped key store (R400 to R405).
-/
namespace Sys2Proof.Machine

def slotOf (s : State) (k : Nat) : KeySlot := tabGet s.au.slots {} k
def setSlot (s : State) (k : Nat) (x : KeySlot) : State :=
  { s with au := { s.au with slots := tabSet s.au.slots {} k x } }

def setCtx (s : State) (c : Nat) (x : Ctx) : State := { s with au := { s.au with ctxs := tabSet s.au.ctxs {} c x } }

/-- The operation of a context uses the slot: from its open until its close or its abort (R400). -/
def ctxUses (x : Ctx) (k : Nat) : Bool := x.owner.isSome && x.alg ≠ 0 && x.slot.toNat = k && x.st ≠ .error

def slotInUse (s : State) (k : Nat) : Bool := (upTo 4).any fun c => ctxUses (ctxOf s c) k

/-- AU_SLOT_STAT of a slot: 0 EMPTY, 1 LOADED, 2 WRITE_PENDING (Table AU-3). -/
def slotState (x : KeySlot) : Nat := if x.next.isSome then 2 else if x.key.isSome then 1 else 0

/-- Pending keys of slots that no operation uses any more become the slots' keys (R400). -/
def settleSlots (s : State) : State :=
  foldS (fun s k =>
    let x := slotOf s k
    if x.next.isSome && !slotInUse s k then setSlot s k { key := x.next } else s) s (upTo 16)

/-- A key is put in a slot: pending while an operation uses it (R400, R401). -/
def putKey (s : State) (k : Nat) (key : Key) : State :=
  if slotInUse s k then setSlot s k { slotOf s k with next := some key } else setSlot s k { key := some key }

/-- A slot is zeroised; the operations that use it go to ERROR with KEY_ERASED (R402). The answer tells whether a host
context is among them. -/
def eraseSlot (s : State) (k : Nat) : State :=
  let hit := (upTo 4).filter fun c => ctxUses (ctxOf s c) k
  let host := hit.any fun c => (ctxOf s c).owner = some .host
  let s := foldS (fun s c => setCtx s c { ctxOf s c with st := .error, code := 6, key := [], todo := [], steps := 0 }) s hit
  let s := setSlot s k {}
  if host then house s hAUTH else s

/-! ## Wrapping (R403) -/

def kEnc : List Byte := hmac Config.deviceKey [1]
def kMac : List Byte := hmac Config.deviceKey [2]

/-- The mask of slot k's key bytes; octet order of the message PRESUMED (log 9). -/
def keyMask (k : Nat) (gen : Word) : List Byte :=
  (upTo 2).flatMap fun i => hmac kEnc ((BitVec.ofNat 8 k :: leBytes gen) ++ [BitVec.ofNat 8 i])

def wrap (k : Nat) (gen : Word) (b : List Byte) : List Byte := List.zipWith (· ^^^ ·) b (keyMask k gen)

/-- The 128-byte entry of a slot (Table AU-4). -/
def keyEntry (k : Nat) (gen : Word) (key : Option Key) : List Byte :=
  let head : List Byte := match key with
    | some q => [BitVec.ofNat 8 k, q.kind.setWidth 8, q.use.setWidth 8, BitVec.ofNat 8 q.bytes.length]
    | none => [BitVec.ofNat 8 k, 0, 0, 0]
  let body := match key with | some q => q.bytes ++ List.replicate (64 - q.bytes.length) 0 | none => List.replicate 64 0
  let front := head ++ List.replicate 12 0 ++ wrap k gen body
  front ++ hmac kMac front ++ List.replicate 16 0

/-- The key that an entry of a copy holds; the outer none is a tag that fails (R404). -/
def readKey (s : State) (sec k : Nat) (gen : Word) : Option (Option Key) :=
  let a := sec * 4096 + 32 + 128 * k
  let front := nvBytes s a 0x50
  if hmac kMac front ≠ nvBytes s (a + 0x50) 32 then none
  else
    let kind : BitVec 2 := (front.getD 1 0).setWidth 2
    if kind = 0 then some none
    else some (some { kind := kind, use := (front.getD 2 0).setWidth 3,
                      bytes := (wrap k gen (front.drop 16)).take (front.getD 3 0).toNat })

/-- Every slot is loaded from the copy in force (R404). -/
def loadKeys (s : State) : State :=
  match copyInForce s 192 true with
  | none => s
  | some (c, g) =>
    let sec := 192 + c
    let gen := BitVec.ofNat 32 g
    let s := { s with au := { s.au with sealed := (nvByte s (sec * 4096 + 8)).getLsbD 0 } }
    let bad := (upTo 16).any fun k => (readKey s sec k gen).isNone
    let s := foldS (fun s k => match readKey s sec k gen with
      | some q => setSlot s k { key := q }
      | none => s) s (upTo 16)
    if bad then sqSet s 0x72C 2 else s

/-! ## A new copy (R402, R403, R405) -/

/-- The key a slot will have. -/
def slotKey (x : KeySlot) : Option Key := match x.next with | some k => some k | none => x.key

def isBundleKey : Option Key → Bool
  | some k => k.use.getLsbD 2
  | none => false

/-- Slot k holds, or will hold, `key`; the others what they have. -/
def slotsWith (s : State) (k : Nat) (key : Option Key) : List (Option Key) :=
  (upTo 16).map fun j => if j = k then key else slotKey (slotOf s j)

/-- SEALED is set in every copy written once a BUNDLE key has been stored. -/
def sealedWith (s : State) (keys : List (Option Key)) : Bool := s.au.sealed || keys.any isBundleKey

/-- The work that writes a copy with these keys, and its GEN. -/
def keyStoreWork (s : State) (keys : List (Option Key)) : Word × List NvItem :=
  let (sec, gen) := copyTarget s 192 true
  let body := (keys.zipIdx.map fun p => keyEntry p.2 gen p.1).flatten
  let flags : Byte := if sealedWith s keys then 1 else 0
  let head := leBytes 0x5359454B ++ leBytes gen ++ [flags] ++ List.replicate 19 0
  (gen, copyWork sec head body)

/-- A key's type, use mask and length obey R400. -/
def keyOk (kind : BitVec 2) (use : BitVec 3) (len : Nat) : Bool :=
  if kind = 1 then use = 1 && 1 ≤ len && len ≤ 64
  else if kind = 2 then use ≠ 0 && use &&& 1 = 0 && len = 64
  else false

/-- A loaded P-256 key of a use bit. -/
def p256Key (s : State) (k useBit : Nat) : Option (List Byte) :=
  match (slotOf s k).key with
  | some q => if q.kind = 2 && q.use.getLsbD useBit then some q.bytes else none
  | none => none

end Sys2Proof.Machine
end

