-- ==== Sys2Proof/Machine/BundleFormat.lean ====
section
/-!
DEFINITION. Machine/BundleFormat.lean: sealed bundles in the store: status words, which bundle is in force, the checks of
Table AU-8 and the records (R406 to R412).
-/
namespace Sys2Proof.Machine

/-- First byte of a bundle slot. -/
def bslotAddr (slot : BitVec 1) : Nat := if slot = 0 then 128 * 4096 else 160 * 4096

/-! ## Status words (R409) -/

def statusBytes (w : Nat) (bseq value : Word) : List Byte :=
  let b := leBytes 0x54534253 ++ [BitVec.ofNat 8 w, 0, 0, 0] ++ leBytes bseq ++ leBytes value ++ List.replicate 12 0
  b ++ leBytes (crc32c (leWords b))

/-- The BSEQ and the value of a status word that the slot has. KIND holds the number of the word (log 11). -/
def statusWord (s : State) (slot : BitVec 1) (w : Nat) : Option (Word × Word) :=
  let a := bslotAddr slot + 32 * w
  if indetSector s (a / 4096) || nv32 s a ≠ 0x54534253 || (nvByte s (a + 4)).toNat ≠ w then none
  else if crc32c (leWords (nvBytes s a 28)) = nv32 s (a + 28) then some (nv32 s (a + 8), nv32 s (a + 12)) else none

def hasStatus (s : State) (slot : BitVec 1) (w : Nat) : Bool := (statusWord s slot w).isSome

/-- Programs a status word. -/
def statusWork (slot : BitVec 1) (w : Nat) (bseq value : Word) : NvItem :=
  .program (bslotAddr slot + 32 * w) (statusBytes w bseq value)

/-! ## Header fields (Table AU-5) -/

def bh (s : State) (slot : BitVec 1) (off : Nat) : Word := nv32 s (bslotAddr slot + 0x100 + off)
def bSeq (s : State) (slot : BitVec 1) : Word := bh s slot 8
def bLen (s : State) (slot : BitVec 1) : Nat := (bh s slot 0xC).toNat
def bTarget (s : State) (slot : BitVec 1) : Word := bh s slot 0x10
def bConfirm (s : State) (slot : BitVec 1) : BitVec 16 := (bh s slot 0x14).setWidth 16
def bFlags (s : State) (slot : BitVec 1) : Byte := nvByte s (bslotAddr slot + 0x107)
def bRefMode (s : State) (slot : BitVec 1) : BitVec 2 := (bFlags s slot).extractLsb' 1 2
def bKeySlot (s : State) (slot : BitVec 1) : Nat := (nvByte s (bslotAddr slot + 0x106)).toNat

/-! ## Which bundle is in force (R410) -/

def qualifies (s : State) (slot : BitVec 1) : Bool := hasStatus s slot 1 && !hasStatus s slot 3

def inForceSlot (s : State) : Option (BitVec 1) :=
  match qualifies s 0, qualifies s 1 with
  | true, true => if (bSeq s 0).toNat < (bSeq s 1).toNat then some 1 else some 0
  | true, false => some 0
  | false, true => some 1
  | false, false => none

def previousSlot (s : State) : Option (BitVec 1) :=
  match inForceSlot s with
  | some k => if qualifies s (k + 1) then some (k + 1) else none
  | none => none

/-- The sequence floor. -/
def seqFloor (s : State) : Nat :=
  let one := fun slot : BitVec 1 =>
    let a := match statusWord s slot 0 with | some (b, v) => max b.toNat v.toNat | none => 0
    (upTo 4).foldl (fun m j => match statusWord s slot (4 + j) with
      | some (_, v) => max m v.toNat
      | none => m) a
  max (one 0) (one 1)

/-- The staging slot of BUNDLE_BEGIN (R411). -/
def stagingSlot (s : State) : BitVec 1 :=
  match inForceSlot s with
  | some k => k + 1
  | none => if !hasStatus s 0 0 then 0 else if !hasStatus s 1 0 then 1 else 0

/-- The slot of a bundle that has STAGED and not APPLIED, the one staged last first. -/
def stagedSlot (s : State) (last : Option (BitVec 1)) : Option (BitVec 1) :=
  let ok := fun k => hasStatus s k 0 && !hasStatus s k 1
  match last with
  | some k => if ok k then some k else if ok (k + 1) then some (k + 1) else none
  | none => if ok 0 then some 0 else if ok 1 then some 1 else none

/-! ## Records (R407) -/

structure Rec where
  isTab : Bool
  /-- Bits [31:0], which ascend. -/
  low   : Nat
  key   : Nat
  hl    : Word
  value : Word
  /-- The record obeys its form. -/
  ok    : Bool
  deriving DecidableEq, Repr

def recordOf (lo hi : Word) : Rec :=
  let kind := fld lo 0 4
  if kind = 1 then
    let off := fld lo 16 16
    { isTab := false, low := lo.toNat, key := regKey off, hl := regHl off, value := hi,
      ok := fld lo 4 12 = 0 && off < 0x2000 && regExists off && regHl off ≠ 0 && hi &&& ~~~(regHl off) = 0 }
  else
    let t := fld lo 4 4
    let w := fld lo 8 3
    let n := fld lo 12 20
    let idx := if t = 1 then n % 32 else n
    let tgt := if t = 1 then n / 32 else 0
    { isTab := true, low := lo.toNat, key := tabKey t idx tgt w, hl := tabHl t idx w, value := hi,
      ok := kind = 2 && t ≤ 9 && !bit lo 11 && tabHolds t idx && tgt < 256 && w < tabWords t idx &&
            hi &&& ~~~(tabHl t idx w) = 0 }

/-- The records of a body. -/
def bodyRecords (s : State) (slot : BitVec 1) : List Rec :=
  let a := bslotAddr slot + 0x180
  (upTo (bLen s slot / 8)).map fun i => recordOf (nv32 s (a + 8 * i)) (nv32 s (a + 8 * i + 4))

/-- Order: REG before TAB, each kind strictly rising. -/
def recordsOrdered : List Rec → Bool
  | a :: b :: r =>
    ((!a.isTab && b.isTab) || (a.isTab = b.isTab && a.low < b.low)) && recordsOrdered (b :: r)
  | _ => true

def formatOk (s : State) (slot : BitVec 1) : Bool :=
  let rs := bodyRecords s slot
  rs.all (·.ok) && recordsOrdered rs

/-! ## The checks (R412, Table AU-8) -/

def bundleHeaderOk (s : State) (slot : BitVec 1) (declared : Option Nat) : Bool :=
  let n := bLen s slot
  nv16 s (bslotAddr slot + 0x104) = 1 && n % 8 = 0 && n ≤ 130688 && bRefMode s slot ≠ 3 &&
  (match declared with | some d => 128 + n ≤ d | none => true)

/-- The code of the first check that fails, 0 when all pass. Without a floor, SEQUENCE is not checked (R418). -/
def bundleCheck (s : State) (e : Ecc) (slot : BitVec 1) (declared floor : Option Nat) : Nat :=
  let a := bslotAddr slot + 0x100
  if areaBroken s (bslotAddr slot / 4096) 1 || bh s slot 0 ≠ 0x4C444E42 then 1
  else if !bundleHeaderOk s slot declared then 2
  else match (if bKeySlot s slot < 16 then p256Key s (bKeySlot s slot) 2 else none) with
    | none => 3
    | some key =>
      if slotState (slotOf s (bKeySlot s slot)) ≠ 1 then 3
      else if !ecdsa key (sha256 (nvBytes s a 64)) (nvBytes s (a + 0x40) 64) then 4
      else if sha256 (nvBytes s (a + 128) (bLen s slot)) ≠ nvBytes s (a + 0x20) 32 then 5
      else if (match floor with | some f => decide ((bSeq s slot).toNat ≤ f) | none => false) then 6
      else if bh s slot 0x18 &&& ~~~s.stew.featEn ≠ 0 then 7
      else if !formatOk s slot then 8
      else if eccBad e a (128 + bLen s slot) then 9
      else 0

/-! ## The shadows (R408, R414) -/

/-- Reset value of WOUT_CFG: polarity of pins 0 to 4 is the complement of their straps (R332). -/
def woutReset (s : State) : Word := 0xFFE00000 ||| put ((~~~s.pw.straps).toNat) 16

/-- Every HL-class shadow of the window and its tables at its reset value; tenant pages are left. -/
def shadowsReset (s : State) : State :=
  let s := { s with cfg := { s.cfg with shadow := s.cfg.shadow.filter fun p => 2 ^ 50 ≤ p.1 } }
  setShadow s (regKey 0x1280) (woutReset s)

/-- Each record as a shadow write (R116); fields of a feature held off ignore it (R351). -/
def writeRecords (s : State) (rs : List Rec) : State :=
  let s := foldS (fun s r =>
    setShadow s r.key (mergeMask (r.hl &&& ~~~(featOff s r.key)) (shadowAt s r.key) r.value)) s rs
  { s with hl := { s.hl with dirty := true } }

end Sys2Proof.Machine
end

