-- ==== Sys2Proof/Machine/Lanes.lean ====
section
/-!
DEFINITION. Machine/Lanes.lean: the transmitter and the receiver of a lane on line bits (chapter 10), what the lanes of a
link send in each state, the part's training and capability grains (chapter 11), striping and destriping (R262).
-/
namespace Sys2Proof.Machine

/-! ## A receiver: errors and lock (R230 to R232) -/

/-- The MARK spacing in force, in grains (R217, R241). -/
def spacing (a : LaneRec) : Nat := if a.wide then 1024 else 16

/-- The receiver searches the raw line bits again (R227). -/
def toSearch (a : LaneRec) : LaneRec :=
  { a with lock := false, sync := .search, buf := if a.sync = .search then a.buf else a.buf.map (xor a.inv), odd := false,
           track := false, goRun := 0, traffic := false, wide := false, marks := [] }

/-- Lane errors (R231). Before grain lock an error ends the attempt (R228). -/
def laneErrors (n : Nat) (a : LaneRec) : LaneRec :=
  if n = 0 then a
  else if a.sync = .on then
    { a with errCnt := a.errCnt + BitVec.ofNat 16 n, errAt := (List.replicate n a.gno ++ a.errAt).take 8 }
  else toSearch a

/-- Eight lane errors within 256 grains, or two bad MARKs in a row (R232). -/
def lockLost (a : LaneRec) : Bool :=
  a.sync = .on && ((8 ≤ a.errAt.length && decide (a.gno < a.errAt.getD 7 0 + 256)) || 2 ≤ a.bad)

def judgeLock (a : LaneRec) : LaneRec := if lockLost a then toSearch a else a

/-- A MARK error: counted with the bad MARKs in a row (R231, R232). -/
def badMark (a : LaneRec) : LaneRec := laneErrors 1 { a with bad := a.bad + 1, good := 0 }

/-- A MARK at another place than the spacing gives is a MARK_POS error, unless a REGROUP or RATE grain follows it (R253). -/
def closeOdd (a : LaneRec) : LaneRec := if a.odd then badMark { a with odd := false } else a

/-- A grain that is no MARK: where a MARK is due it stands for that MARK, and is a MARK_POS error (R231). DEDUCED (log 78). -/
def countGrain (a : LaneRec) : LaneRec :=
  if a.since + 1 = spacing a then badMark { a with since := 0, seq := a.seq + 1 } else { a with since := a.since + 1 }

/-- The receiver reseeds from a MARK (R221, R230). -/
def reseed (a : LaneRec) (g : Grain) : LaneRec := { a with key := keyStart (seed (markLane g) (markSeq g)), seq := markSeq g }

/-- Grain lock (R228): the fields of LANE_EQ follow, and the counts of R232 and R256 begin. -/
def takeLock (a : LaneRec) : LaneRec :=
  if a.sync = .on then a
  else { a with sync := .on, lock := true, polInv := a.inv, lfield := a.field, gno := 0, errAt := [], bad := 0, good := 0 }

/-- A MARK after an interval sent whole with GO is the ACTIVE MARK: traffic follows it, at a spacing of 1024 (R244, R246). -/
def afterGo (a : LaneRec) : LaneRec :=
  if a.goRun = 15 && !a.traffic then { a with traffic := true, wide := true, goRun := 16, fifo := [] } else { a with goRun := 0 }

/-- A MARK with its check right, of the lane, and next in sequence (Table LN-6). -/
def markFits (a : LaneRec) (g : Grain) : Bool := markLane g = a.field && markSeq g = a.seq + 1

/-- A MARK grain has been parsed. One that stands at another place reseeds as well: a training grain after it could not be
read otherwise (R230, R253). DEDUCED (log 78). -/
def takeMark (a : LaneRec) (g : Grain) (rest : List Bool) : LaneRec :=
  let a := closeOdd { a with buf := rest, run := a.run.after (grainBits g), gno := a.gno + 1, track := false }
  if !markValid g then badMark { a with since := 0, seq := a.seq + 1, goRun := 0 }
  else if !markFits a g then badMark { a with since := 0, seq := markSeq g, goRun := 0 }
  else
    let b := reseed { a with since := 0, marks := ((markSeq g, a.count - rest.length) :: a.marks).take 4 } g
    if a.since + 1 = spacing a then
      let b := takeLock b
      afterGo { b with bad := 0, good := if a.sync = .on then b.good + 1 else 0, track := true }
    else if a.sync = .on then { b with odd := true, goRun := 0 }
    else toSearch b

/-- An IDLE grain has been parsed (R226, R231). -/
def takeIdle (a : LaneRec) (g : Grain) (rest : List Bool) : LaneRec :=
  let a := closeOdd { a with buf := rest, run := a.run.after (grainBits g), gno := a.gno + 1, track := false, goRun := 0 }
  laneErrors (if g = idleGrain then 0 else 1) (countGrain a)

/-- STEP of a training grain that begins a regroup. -/
def isRegroupGrain (g : Grain) : Bool :=
  trainingGrainOk g && ((g.extractLsb' 0 4).toNat = 10 || (g.extractLsb' 0 4).toNat = 11)

/-- GO in a grain of the step before ACTIVE (R244). -/
def isGoGrain (g : Grain) : Bool :=
  trainingGrainOk g && g.getLsbD 5 && ((g.extractLsb' 0 4).toNat = 8 || (g.extractLsb' 0 4).toNat = 10)

/-- The receiver leaves the traffic spacing: what follows the last MARK is training again. -/
def toTraining (a : LaneRec) : LaneRec := { a with odd := false, wide := false, traffic := false, goRun := 0 }

/-- What no packet begins with: a BACKGROUND grain, after which the lane stands outside the far end's transmit group (R256), or
another grain with GO. -/
def staysInTraining (g : Grain) : Bool :=
  trainingGrainOk g && !g.getLsbD 7 && ((g.extractLsb' 0 4).toNat = 12 || isGoGrain g)

/-- A REGROUP or RATE grain after a MARK begins a regroup, and that MARK is no MARK_POS error (R253). A training grain after what
was taken for the ACTIVE MARK tells that the lane carries no traffic. -/
def newTraining (a : LaneRec) (g : Grain) : LaneRec :=
  if (a.odd || (a.traffic && a.since = 0)) && isRegroupGrain g then
    { toTraining a with bad := 0, good := if a.odd then a.good + 1 else a.good }
  else if a.goRun = 16 && staysInTraining g then toTraining a
  else closeOdd a

/-- A data grain has been parsed; what is no traffic is passed on as a training grain (R230, R246, R253). -/
def takeData (a : LaneRec) (t : Taken) : LaneRec × List (Option Grain) :=
  let g := grainOf (scramble (keyFrom 64 a.key) t.bits)
  let a := { a with buf := t.rest, run := t.run, key := keySkip 64 a.key, gno := a.gno + 1, track := false }
  let a := laneErrors t.errs (countGrain (newTraining a g))
  if a.sync ≠ .on then (a, [])
  else if a.traffic then ({ a with fifo := a.fifo ++ [g], goRun := 0 }, [])
  else ({ a with goRun := if isGoGrain g then a.goRun + 1 else a.goRun }, [some g])

/-- One step of the search (R227, R228): a valid candidate is parsed on from; a lane that has kept its lock over IDLE takes the
MARK it expects (R310). The answer none: the line has not brought enough. -/
def searchStep (a : LaneRec) : Option LaneRec :=
  match findRun a.buf with
  | none => none
  | some (v, r) =>
    if r.length < 64 then none
    else
      let g := polarity (!v) (grainOf (r.take 64))
      let fits := !a.lock || (markFits { a with field := a.lfield } g && a.polInv = !v)
      if markValid g && fits then
        let b := reseed { a with buf := (r.drop 64).map (xor (!v)), inv := !v, field := markLane g, since := 0, odd := false,
                                 goRun := 0, run := Run.after {} (grainBits g) } g
        some (if a.lock then { b with sync := .on, wide := true, traffic := true, fifo := [] } else { b with sync := .found, wide := false })
      else some { a with buf := r.drop 1 }

/-- One step of a receiver: what stands at the boundary is taken, once the line has brought it (R229). The events are the MARKs
passed (none) and the training grains. -/
def laneStep (a : LaneRec) : Option (LaneRec × List (Option Grain)) :=
  match a.sync with
  | .search => (searchStep a).map fun b => (b, [])
  | _ =>
    if a.buf.length < 34 then none
    else match startOf a.buf with
    | .guard => some ({ a with buf := a.buf.drop 1, run := a.run.push (a.buf.headD false) }, [])
    | .mark =>
      if a.buf.length < 64 then none
      else some (judgeLock (takeMark a (grainOf (a.buf.take 64)) (a.buf.drop 64)), [none])
    | .idle =>
      if a.buf.length < 64 then none
      else some (judgeLock (takeIdle a (grainOf (a.buf.take 64)) (a.buf.drop 64)), [])
    | .data => (destuff true 64 a.run [] 0 a.buf).map fun t =>
      let r := takeData a t
      (judgeLock r.1, r.2)

/-! ## Widths, rates and groups (R245, R248, R249) -/

/-- LK_CTL of a link, and the link enabled in an operating mode: it trains and runs then (R240). -/
def lkCtl (s : State) (l : Link) : Word := regLive s (0xC00 + 0x40 * l.toNat)
def linkEn (s : State) (l : Link) : Bool := operating s && bit (lkCtl s l) 0

/-- A mask holds a group of a width code: 0 x1, 1 x2, 2 x4. -/
def hasGroup (w : Nat) (m : BitVec 4) : Bool :=
  if w = 2 then m = 15 else if w = 1 then (m &&& 3 = 3) || (m &&& 12 = 12) else m ≠ 0

/-- The preferred group of a width in a mask. -/
def groupIn (w : Nat) (m : BitVec 4) : BitVec 4 :=
  if w = 2 then 15 else if w = 1 then (if m &&& 3 = 3 then 3 else 12)
  else if m.getLsbD 0 then 1 else if m.getLsbD 1 then 2 else if m.getLsbD 2 then 4 else 8

/-- The widest width up to a cap that both masks can hold. -/
def widthIn (cap : Nat) (a b : BitVec 4) : Option Nat :=
  [2, 1, 0].find? fun w => w ≤ cap && hasGroup w a && hasGroup w b

/-- The width cap of the part's side of R248. -/
def ownCap (s : State) (l : Link) : Nat :=
  let c := lkCtl s l
  if s.allot.lean && bit c 1 then 0 else min 2 (fld c 4 2)

/-- The width caps of R248. -/
def capWidth (s : State) (l : Link) (r : LinkRec) : Nat := min (ownCap s l) (min 2 (r.far0.extractLsb' 16 2).toNat)

/-- The highest rate of the LMC in force (R215, R350). -/
def lmcLimit (s : State) : Nat := if s.stew.lmcRates.getLsbD 2 then 3 else if s.stew.lmcRates.getLsbD 1 then 2
  else if s.stew.lmcRates.getLsbD 0 then 1 else 0

/-- The rate limits of R248, the far end's mask apart. -/
def rateLimit (s : State) (l : Link) (r : LinkRec) : Nat :=
  let m := atLeastOne (fld (lkCtl s l) 8 2)
  let t := if s.pw.thr || !feat s 5 then 2 else 3
  min (min m (lmcLimit s)) (min t r.rateCap.toNat)

/-- The rate chosen: the highest that meets the limits. -/
def chosenRate (s : State) (l : Link) (r : LinkRec) : Option Nat :=
  [3, 2, 1].find? fun c => c ≤ rateLimit s l r && r.far0.getLsbD (17 + c)

/-- Logical lane of a physical one, and the other way round (R245). -/
def logical (rev : Bool) (p : Nat) : Nat := if rev then 3 - p else p

/-- The lanes of a mask, in ascending order. -/
def members (m : BitVec 4) : List Nat := (upTo 4).filter m.getLsbD

/-! ## What the part sends in training (R241, R242, R248) -/

/-- STEP of the training grains of a state (Table LB-3). -/
def stepCode (r : LinkRec) : Nat :=
  match r.st with
  | .align => 3
  | .order => 4
  | .alignAtRate => 8
  | .regroup => if r.rgRate.isSome then 11 else 10
  | _ => 12

/-- The receive mask the part reports: frozen once it is READY (R244). -/
def sentMask (r : LinkRec) : BitVec 4 := if r.hs.ready then r.hs.frozen else r.rxMask

/-- The width cap the part sends: that of a regroup, the agreed width in ALIGN_AT_RATE, elsewhere its own (R249; log 81). -/
def sentCap (s : State) (l : Link) (r : LinkRec) : Nat :=
  match r.st with
  | .regroup => r.rgCap.toNat
  | .alignAtRate => if r.rgRate.isSome then r.rgCap.toNat else if 0 < r.exitStep then r.width.toNat else r.agreedWidth.toNat
  | _ => ownCap s l

/-- The part's training grain (Table LB-3): ROLE is 0. -/
def ownGrain (s : State) (l : Link) : Grain :=
  let r := linkOf s l
  let back := r.st = .active
  BitVec.ofNat 64 (stepCode r + (if r.hs.ready && !back then 16 else 0) + (if r.hs.go && !back then 32 else 0) +
    (if back then r.rxMask else sentMask r).toNat * 256 + sentCap s l r * 4096 +
    (if r.st = .regroup then match r.rgRate with | some x => x.toNat * 16384 | none => 0 else 0))

/-- The part's capability grains (Table LB-6): x4, the rates of the LMC in force, the credits of Table LP-6, IDLE and FALLOW
supported; the agreed values with GO. -/
def ownCap0 (s : State) (r : LinkRec) : Grain :=
  BitVec.ofNat 64 (0x5 + 0x01 * 2 ^ 8 + 2 * 2 ^ 16 + (s.stew.lmcRates.toNat % 8) * 2 ^ 18 + (if r.hs.go then 2 ^ 23 else 0) +
    (sentMask r).toNat * 2 ^ 24 + Config.implCode.toNat * 2 ^ 32 + 0xB0 * 2 ^ 48)
def ownCap1 : Grain := BitVec.ofNat 64 (0x6 + 512 * 2 ^ 8 + 128 * 2 ^ 20 + 0xFFF * 2 ^ 32 + 256 * 2 ^ 44)
def ownCap2 (r : LinkRec) : Grain :=
  BitVec.ofNat 64 (0x7 + (if r.hs.go then r.agreedRate.toNat * 2 ^ 8 + r.agreedWidth.toNat * 2 ^ 10 else 0) + 2 ^ 12 + 2 ^ 13)

/-- The grains of an interval after its MARK, repeated to fifteen (Table LB-2). -/
def interval (s : State) (l : Link) : List Grain :=
  let r := linkOf s l
  if r.st = .caps then [ownCap0 s r, ownCap1, ownCap2 r] else [ownGrain s l]

/-- What a lane sends (Table LB-1, R306, R308, R311). -/
inductive Pattern where
  | idle | detect | tp1 | training | traffic | background | beacon
  deriving DecidableEq, Repr

/-- What physical lane p of a link sends. Lanes outside the detected set send electrical idle. -/
def lanePattern (s : State) (l : Link) (p : Nat) : Pattern :=
  let r := linkOf s l
  let there := r.detected.getLsbD p
  if !operating s then .idle
  else match r.st with
  | .down | .rate | .fallow | .idle => .idle
  | .detect => .detect
  | .clock => if there then .tp1 else .idle
  | .clockAtRate => if there && (r.exitStep = 0 || r.txGroup.getLsbD p) then .tp1 else .idle
  | .align | .order | .regroup => if there then .training else .idle
  | .alignAtRate => if there && (r.exitStep = 0 || r.txGroup.getLsbD p) then .training else .idle
  | .caps => if there && r.rxMask.getLsbD p then .training else .idle
  | .active => if r.txGroup.getLsbD p then .traffic else if there then .background else .idle
  | .wake => if r.exitStep = 1 && there then .beacon else .idle

/-! ## A transmitter (R217 to R224) -/

/-- Line bits of a lane in one CCLK (Table LN-1): the training rate up to CAPS, the new rate in a rate change or a training
pass after RATE, else the rate in force. -/
def bitsPerCclk (c : BitVec 2) : Nat := if c = 3 then 20 else if c = 2 then 16 else if c = 1 then 8 else 4
def lineRate (r : LinkRec) : BitVec 2 :=
  match r.st with
  | .detect | .clock | .align | .order | .caps => 0
  | .clockAtRate | .alignAtRate =>
    match r.rgRate with
    | some x => x
    | none => if 0 < r.exitStep then r.rate else r.agreedRate
  | _ => r.rate

/-- Line bits are made. -/
def emit (t : LaneTx) (bits : List Bool) : LaneTx := { t with bits := t.bits ++ bits, run := t.run.after bits }

/-- A MARK that continues the lane's sequence; the scrambler is reseeded (R221, R224). -/
def sendMark (t : LaneTx) (p : Nat) : LaneTx :=
  let q := t.seq + 1
  let n : BitVec 2 := BitVec.ofNat 2 p
  emit { t with seq := q, since := 0, force := false, iv := t.iv + 1, key := keyStart (seed n q) } (specialLine t.run (mark n q))

/-- A data grain (R221, R222). -/
def sendData (t : LaneTx) (g : Grain) : LaneTx :=
  emit { t with since := t.since + 1, key := keySkip 64 t.key } (dataLine t.run t.key g)

/-- An IDLE (R226). -/
def sendIdle (t : LaneTx) : LaneTx := emit { t with since := t.since + 1 } (specialLine t.run idleGrain)

/-- TP1: alternating bits that begin with a one (Table LB-2). -/
def sendTp1 : Nat → LaneTx → LaneTx
  | 0, t => t
  | n + 1, t => sendTp1 n (emit t [!t.run.v])

/-- The next grain of a lane that carries traffic (R217): a MARK that is due, the head of the FIFO, or an IDLE. With an entry
under way the MARK due is the entry MARK; one IDLE follows it for IDLE, two for FALLOW, and then electrical idle (R308). -/
def trafficGrain (entry : Option Bool) (p : Nat) (t : LaneTx) : LaneTx :=
  match t.tail with
  | some 0 => t
  | some (n + 1) => sendIdle { t with tail := some n }
  | none =>
    if t.force || t.since = 1023 then
      { sendMark t p with tail := if t.force then none else entry.map fun f => if f then 2 else 1 }
    else match t.fifo with
    | g :: rest => sendData { t with fifo := rest } g
    | [] => sendIdle t

/-- The next grain of a lane in TP2 or TP3: a MARK every sixteen grains, and between them the grains of the interval (R241). -/
def trainingGrain (content : List Grain) (p : Nat) (t : LaneTx) : LaneTx :=
  if t.force || 15 ≤ t.since then sendMark t p else sendData t (content.getD (t.since % content.length) 0)

def setTx (s : State) (l : Link) (p : Nat) (t : LaneTx) : State := setLane s l p { laneOf s l p with tx := t }

/-- The grains of interval n of a step; the first lane to begin it fixes them (R241). -/
def latched (s : State) (l : Link) (n : Nat) : List Grain :=
  match (linkOf s l).hs.latch.find? fun q => q.1 = n with
  | some q => q.2
  | none => interval s l

def latchInterval (s : State) (l : Link) (n : Nat) : State :=
  let r := linkOf s l
  if r.hs.latch.any fun q => q.1 = n then s
  else setLink s l { r with hs := { r.hs with latch := ((n, interval s l) :: r.hs.latch).take 4 } }

/-- A lane makes the line bits of its next grain, or of a CCLK of TP1. -/
def laneNext (s : State) (l : Link) (p : Nat) : State :=
  let t := (laneOf s l p).tx
  let n := bitsPerCclk (lineRate (linkOf s l))
  match lanePattern s l p with
  | .tp1 => setTx s l p (sendTp1 n t)
  | .training =>
    let t := trainingGrain (latched s l t.iv) p t
    latchInterval (setTx s l p t) l t.iv
  | .traffic =>
    if t.tp1 ≠ 0 then setTx s l p (sendTp1 (min n t.tp1) { t with tp1 := t.tp1 - n })
    else setTx s l p (trafficGrain (linkOf s l).entry p t)
  | .background => setTx s l p (trainingGrain [ownGrain s l] p t)
  | _ => s

/-- One CCLK of a lane: its line bits leave, and more are made at a grain boundary. A lane in electrical idle makes none. -/
def laneTick (l : Link) (s : State) (p : Nat) : State :=
  let pat := lanePattern s l p
  let n := bitsPerCclk (lineRate (linkOf s l))
  if pat = .idle || pat = .detect || pat = .beacon then
    let t := (laneOf s l p).tx
    if t.bits.isEmpty && t.line.isEmpty then s else setTx s l p { t with bits := [], line := [] }
  else
    let s := if (laneOf s l p).tx.bits.length < n then laneNext s l p else s
    let t := (laneOf s l p).tx
    setTx s l p { t with line := t.bits.take n, bits := t.bits.drop n }

/-- READY or GO in the interval that the part has sent whole on every lane: the one before the interval that the slowest lane
is in (R244). -/
def sentWhole (s : State) (l : Link) (b : Nat) : Bool :=
  let r := linkOf s l
  let ivs := ((upTo 4).filter fun p => lanePattern s l p = .training).map fun p => (laneOf s l p).tx.iv
  match ivs with
  | [] => false
  | n :: rest =>
    let m := rest.foldl min n
    match r.hs.latch.find? fun q => q.1 + 1 = m with
    | some (_, g :: _) => (g.extractLsb' 0 4).toNat = stepCode r && g.getLsbD b
    | _ => false

def noteSent (s : State) (l : Link) : State :=
  let r := linkOf s l
  setLink s l { r with hs := { r.hs with sentReady := r.hs.sentReady || sentWhole s l 4,
                                         sentGo := r.hs.sentGo || sentWhole s l 5 } }

/-- The state of a link is one in which the part sends training grains. -/
def inTp2 (r : LinkRec) : Bool := r.st = .align || r.st = .order || r.st = .alignAtRate || r.st = .regroup

/-- One CCLK of the transmit lanes of a link. -/
def lanesTick (s : State) (l : Link) : State :=
  let s := foldS (laneTick l) s (upTo 4)
  if inTp2 (linkOf s l) then noteSent s l else s

/-- A new sequence of TP2 intervals begins with a MARK on every lane: after TP1, and at a regroup (R244, R253). -/
def beginIntervals (s : State) (l : Link) : State :=
  foldS (fun s p =>
    let t := (laneOf s l p).tx
    setTx s l p { t with force := true, iv := 0, fifo := [], tail := none, tp1 := 0 }) s (upTo 4)

/-- The lanes of the transmit group send their first ACTIVE MARK at the next grain boundary; a lane that is in its MARK has begun
it (R244, R246). -/
def activeMarks (s : State) (l : Link) (tp1 : Nat) : State :=
  foldS (fun s p =>
    let t := (laneOf s l p).tx
    setTx s l p { t with force := t.since ≠ 0 || tp1 ≠ 0, tail := none, tp1 := if (linkOf s l).txGroup.getLsbD p then tp1 else 0 }) s (upTo 4)

/-! ## Striping (R246, R262) -/

/-- The lane that carries grain k of the stream: member k mod w of a group, in ascending logical order. -/
def stripe (m : BitVec 4) (k : Nat) : Option Nat := (members m)[k % (members m).length]?

/-- The FIFO for the next grain of the stream has room (R217, R262). -/
def fifoRoom (s : State) (l : Link) : Bool :=
  let r := linkOf s l
  match stripe r.txGroup r.ll.txK with
  | some p => (laneOf s l p).tx.fifo.length < 8
  | none => false

/-- Grains of the packet at hand enter the transmit FIFOs in rotation, as far as there is room. -/
def fillFifos (l : Link) : Nat → State → State
  | 0, s => s
  | n + 1, s =>
    let r := linkOf s l
    match r.ll.out, stripe r.txGroup r.ll.txK with
    | g :: rest, some p =>
      let t := (laneOf s l p).tx
      if t.fifo.length < 8 then
        fillFifos l n (setTx (setLink s l { r with ll := { r.ll with out := rest, txK := r.ll.txK + 1 } }) l p
          { t with fifo := t.fifo ++ [g] })
      else s
    | _, _ => s

def fillOut (s : State) (l : Link) : State := fillFifos l (linkOf s l).ll.out.length s

/-- The next grain of the received stream, if its lane has delivered it: members of the receive group in rotation. -/
def nextGrain (s : State) (l : Link) : Option (State × Grain) :=
  let r := linkOf s l
  match stripe r.rxGroup r.ll.rxK with
  | none => none
  | some n =>
    let a := laneOf s l (logical r.reversed n)
    match a.fifo with
    | [] => none
    | g :: rest =>
      some (setLane (setLink s l { r with ll := { r.ll with rxK := r.ll.rxK + 1 } }) l (logical r.reversed n)
        { a with fifo := rest }, g)

/-! ## Deskew (R247) -/

/-- Line bits by which the last MARK of lane p trails the same MARK of the earliest of the lanes compared. -/
def trail (s : State) (l : Link) (among : List Nat) (p : Nat) : Nat :=
  match (laneOf s l p).marks.head? with
  | none => 0
  | some (q, n) => n - (among.filterMap fun k => ((laneOf s l k).marks.find? fun m => m.1 = q).map (·.2)).foldl min n

/-- The lane trails by no more than a number of grains at the rate in force. -/
def deskewed (s : State) (l : Link) (among : List Nat) (grains p : Nat) : Bool := trail s l among p ≤ 64 * grains

end Sys2Proof.Machine
end

