-- ==== Sys2Proof/Machine/LinkLayer.lean ====
section
/-!
DEFINITION. Machine/LinkLayer.lean: packets, the replay buffer, acknowledgement and credit of a link layer (chapter 12).
-/
namespace Sys2Proof.Machine

/-! ## Packets (Table LP-1 to LP-5) -/

/-- Header word W0. -/
def hdr (type vc grains : Nat) (seq : BitVec 12) (fn : BitVec 8) : Word :=
  put type 0 ||| put vc 6 ||| put (grains - 1) 8 ||| put seq.toNat 11 ||| put fn.toNat 23

/-- The receive side of a limited VC. -/
def rxOf (ll : LinkLayer) (vc : Nat) : RxCredit := if vc = 0 then ll.rxP else if vc = 1 then ll.rxN else ll.rxI

def setRx (ll : LinkLayer) (vc : Nat) (x : RxCredit) : LinkLayer :=
  if vc = 0 then { ll with rxP := x } else if vc = 1 then { ll with rxN := x } else { ll with rxI := x }

/-- The VC whose freed count is reported next: the lowest-numbered one that is due (log 8). -/
def crNext (ll : LinkLayer) : Option Nat := (upTo 4).find? ll.crDue.getLsbD

/-- Link word W1 (Table LP-2): the part's acknowledgement, once it has one, and one freed count that is due (log 8). -/
def linkWord (ll : LinkLayer) : Word :=
  (if ll.rxAny then put (ll.rxExp - 1).toNat 0 ||| putB true 12 else 0) |||
  (match crNext ll with
   | some vc => put vc 13 ||| putB true 15 ||| put (rxOf ll vc).freed.toNat 16
   | none => 0)

/-- What a TLP's link word has reported is due no longer. -/
def reported (ll : LinkLayer) : LinkLayer :=
  { ll with ackDue := false, crDue := match crNext ll with | some vc => ll.crDue &&& ~~~(1#4 <<< vc) | none => ll.crDue }

/-- A TLP of n grains: header, link word, body padded with zero words, CRC (R263, R264). -/
def buildTlp (ll : LinkLayer) (type vc grains : Nat) (fn : BitVec 8) (body : List Word) : List Word :=
  let ws := hdr type vc grains ll.txSeq fn :: linkWord ll :: ((body ++ List.replicate (2 * grains) 0).take (2 * grains - 3))
  ws ++ [crc32c ws]

/-- An LCP (Table LP-4): header and CRC in one grain. -/
def buildLcp (type vc : Nat) (seq : BitVec 12) : BitVec 64 :=
  let w := hdr type vc 1 seq 0
  (crc32c [w]) ++ w

def tyMRD : Nat := 0x10
def tyMWR : Nat := 0x19
def tySETBITS : Nat := 0x1A
def tyCLRBITS : Nat := 0x1B
def tyNOTE : Nat := 0x1C
def tyCPL : Nat := 0x20
def tyOFFER : Nat := 0x30
def tySUPERSEDE : Nat := 0x31
def tyRECALL : Nat := 0x32

/-- VC of a type (Table LP-4): 0 VC-P, 1 VC-N, 2 VC-C, 3 VC-I; none for an LCP or an unlisted type. -/
def typeVc (ty : Nat) : Option Nat :=
  if ty = 0x10 || ty = 0x11 then some 1
  else if 0x18 ≤ ty && ty ≤ 0x1C then some 0
  else if ty = 0x20 then some 2
  else if (0x30 ≤ ty && ty ≤ 0x32) || (0x38 ≤ ty && ty ≤ 0x3F) then some 3
  else none

/-- The lengths in grains that a type may have (Table LP-4, R281). -/
def typeLens (ty : Nat) : List Nat :=
  if ty = 0x10 || ty = 0x18 || ty = 0x1A || ty = 0x1B || ty = 0x1C || ty = 0x30 || ty = 0x31 ||
     ty = 0x38 || ty = 0x39 || ty = 0x3A then [3]
  else if ty = 0x11 || ty = 0x32 || (0x3B ≤ ty && ty ≤ 0x3F) then [2]
  else if ty = 0x19 then [5]
  else if ty = 0x20 then [2, 3, 6]
  else []

/-- Types the part accepts (R265): RRD, RWR, CPL and the endpoint's VC-I messages. -/
def partAccepts (ty : Nat) : Bool := ty = 0x11 || ty = 0x18 || ty = 0x20 || (0x38 ≤ ty && ty ≤ 0x3F)

/-! ## Credit (R277) -/

def avail (c : Credit) : Nat := c.init + c.freed - c.sent

/-- Credit of a VC of the transmitter. VC-C is unlimited. -/
def creditOf (ll : LinkLayer) (vc : Nat) : Option Credit :=
  if vc = 0 then some ll.p else if vc = 1 then some ll.n else if vc = 3 then some ll.i else none

def setCredit (ll : LinkLayer) (vc : Nat) (c : Credit) : LinkLayer :=
  if vc = 0 then { ll with p := c } else if vc = 1 then { ll with n := c } else if vc = 3 then { ll with i := c } else ll

/-- Grains are sent for the first time. -/
def spend (ll : LinkLayer) (vc g : Nat) : LinkLayer :=
  match creditOf ll vc with
  | some c => setCredit ll vc { c with sent := c.sent + g }
  | none => ll

/-- Room in the replay buffer and credit for a new TLP (R268, R277). -/
def hasRoom (ll : LinkLayer) (vc g : Nat) : Bool :=
  ll.replay.length < 128 && (match creditOf ll vc with | some c => g ≤ avail c | none => true)

/-- The grains of a packet (chapter 12, Packets): word W(2i) is the low half of grain i. -/
def grainsOf : List Word → List Grain
  | a :: b :: r => (b ++ a) :: grainsOf r
  | [a] => [(0#32) ++ a]
  | [] => []

/-- A TLP enters the replay buffer as its first grain enters a FIFO (R268): it takes the next sequence number. -/
def enqueue (ll : LinkLayer) (type vc grains : Nat) (fn : BitVec 8) (body : List Word)
    (ring : Option (Bool × Tenant)) : LinkLayer :=
  let t : Tlp := { seq := ll.txSeq, words := buildTlp ll type vc grains fn body, ring := ring }
  let ll := reported (spend ll vc grains)
  { ll with replay := ll.replay ++ [t], txSeq := ll.txSeq + 1, out := ll.out ++ grainsOf t.words }

/-- The same on a link of the state; its grains go to the lanes. -/
def pushTlp (s : State) (l : Link) (type vc grains : Nat) (fn : BitVec 8) (body : List Word)
    (ring : Option (Bool × Tenant)) : State :=
  let r := linkOf s l
  fillOut (setLink s l { r with ll := enqueue r.ll type vc grains fn body ring }) l

/-- Grains leave the receive buffer of a VC: the freed count advances and is due to be reported (R277, R278). -/
def freeGrains (r : LinkRec) (vc g : Nat) : LinkRec :=
  let x := rxOf r.ll vc
  let g := min g x.held
  if vc = 2 || g = 0 then r
  else
    let ll := setRx r.ll vc { x with held := x.held - g, freed := x.freed + BitVec.ofNat 12 g }
    { r with ll := { ll with crDue := ll.crDue ||| (1#4 <<< vc) } }

def freeRx (s : State) (l : Link) (vc g : Nat) : State := setLink s l (freeGrains (linkOf s l) vc g)

/-- The TLP of a command enters the receive buffer of its VC (R278). -/
def arrive (s : State) (l : Link) (vc g : Nat) : State :=
  let r := linkOf s l
  let x := rxOf r.ll vc
  if operating s && linkActive s l then setLink s l { r with ll := setRx r.ll vc { x with held := x.held + g } } else s

/-! ## Acceptance (R269 to R274) -/

/-- A NAK for the expected sequence is due, unless one has been sent for it (R269 steps 1 and 5). -/
def sendNak (r : LinkRec) : LinkRec :=
  if r.ll.nakSent then r
  else { r with ll := { r.ll with nakSent := true, nakDue := some (r.ll.rxExp - 1) }, nakCnt := r.nakCnt + 1 }

/-- The packet obeys Table LP-4. -/
def wellFormedTlp (w0 : Word) : Bool :=
  let ty := fld w0 0 6
  partAccepts ty && typeVc ty = some (fld w0 6 2) && (typeLens ty).contains (fld w0 8 3 + 1)

/-- TYPE and LEN agree under R265 (R271), for LCPs as well. -/
def framable (w0 : Word) : Bool :=
  let ty := fld w0 0 6
  (typeLens ty).contains (fld w0 8 3 + 1) || ((ty = 1 || ty = 2 || ty = 3) && fld w0 8 3 = 0)

/-- An acknowledgement frees every TLP up to and including `s`; a value older than the oldest held is ignored (R273). The
answer none is a value after the last TLP sent (R274). -/
def ackTlps (ll : LinkLayer) (q : BitVec 12) : Option LinkLayer :=
  let last := ll.txSeq - 1
  if (last - q).toNat < 2048 then
    let kept := ll.replay.filter fun t => !decide ((q - t.seq).toNat < 2048)
    if kept.length = ll.replay.length then some ll
    else some { ll with replay := kept, rpl := ll.rpl.filter fun t => !decide ((q - t.seq).toNat < 2048), noProg := 0 }
  else none

/-- A replay begins: every TLP held is sent again, in order, before any new one (R273). -/
def beginReplay (r : LinkRec) : LinkRec :=
  { r with replays := r.replays + 1, ll := { r.ll with noProg := r.ll.noProg + 1, rpl := r.ll.replay } }

/-- A cumulative count reported by the far end (R277). -/
def takeCredit (c : Credit) (cum : BitVec 12) : Credit :=
  let d := (cum - c.last).toNat
  if d < 2048 then { c with freed := c.freed + d, last := cum } else c

def takeCreditVc (ll : LinkLayer) (vc : Nat) (cum : BitVec 12) : LinkLayer :=
  match creditOf ll vc with
  | some c => setCredit ll vc (takeCredit c cum)
  | none => ll

/-- Grains a limited VC of the receive side can hold (Table LP-6). -/
def rxLimit (vc : Nat) : Nat := if vc = 0 then 512 else if vc = 1 then 128 else 256

/-! ## The order of transmission (R282) -/

/-- Offered-E tickets of a link whose recall is flagged, by target. DESIGN CHOICE (log 70): of two tickets of one target the
one whose INTID has the lower key comes first. -/
def flaggedOn (s : State) (l : Link) : List (Nat × Offer) :=
  sortBy (fun a b => decide (a.2.target.toNat ≤ b.2.target.toNat))
    (s.irq.ints.filterMap fun p => match p.2.st, p.2.offer with
    | .offeredE, some o => if o.rcl = .flagged && tgtLink s o.target = l && !tgtBind s o.target then some (p.1, o) else none
    | _, _ => none)

/-- The first Q-CMP entry of a link (R425). -/
def cmpFirst (s : State) (l : Link) : Option Note := s.xl.qCmp.find? fun n => n.key.link = l

/-- What the link layer of a link may send next: by R282, a NAK, a TLP of a replay, an LCP, a completion, a RECALL, a Q-DLV
entry, a read of the walker, or a posted write of Q-CMP, Q-FLT, Q-EVT or the walker. -/
inductive TxClass where
  | nak | replay | lcp | cpl | recall | offer | read | note | flt | evt | post
  deriving DecidableEq, Repr

/-- The link is at a packet boundary: its link layer runs, no entry to IDLE or FALLOW is under way, the last packet is in the
FIFOs, and the next lane has room (R262, R282, R308). -/
def atBoundary (s : State) (l : Link) : Bool :=
  let r := linkOf s l
  operating s && r.st = .active && r.entry.isNone && r.ll.out.isEmpty && fifoRoom s l

/-- An acknowledgement or a freed count is due. -/
def lcpDue (ll : LinkLayer) : Bool := ll.ackDue || ll.crDue ≠ 0

/-- A posted-write source has a TLP that can go (R282). -/
def sourceReady (s : State) (l : Link) (src : BitVec 2) : Bool :=
  let ll := (linkOf s l).ll
  let ring := fun (v : Option RingVc) => match v with | some v => decide (v.link = l) && hasRoom ll 0 5 | none => false
  if src = 0 then (cmpFirst s l).isSome && hasRoom ll 0 3
  else if src = 1 then ring s.xl.fltVc
  else if src = 2 then ring s.xl.evtVc
  else match ll.vpQ with | q :: _ => hasRoom ll 0 q.grains | [] => false

/-- The posted-write source whose turn it is: in turn, a source with nothing ready skipped (R282). -/
def sourceTurn (s : State) (l : Link) : Option (BitVec 2) :=
  ((upTo 4).map fun j => (linkOf s l).ll.lastSrc + 1 + BitVec.ofNat 2 j).find? (sourceReady s l)

def sourceClass (src : BitVec 2) : TxClass := if src = 0 then .note else if src = 1 then .flt else if src = 2 then .evt else .post

/-- The next packet of a link (R282). DESIGN CHOICE (log 82): an LCP goes ahead of the TLPs once it has been due for 48 CCLK,
of the 64 that R272 and R277 give, and otherwise when no TLP can go. -/
def nextClass (s : State) (l : Link) : Option TxClass :=
  let ll := (linkOf s l).ll
  if !atBoundary s l then none
  else if ll.nakDue.isSome then some .nak
  else if !ll.rpl.isEmpty then some .replay
  else if lcpDue ll && 48 ≤ ll.dueAge then some .lcp
  else if !ll.cplQ.isEmpty && ll.replay.length < 128 then some .cpl
  else if !(flaggedOn s l).isEmpty && hasRoom ll 3 2 then some .recall
  else if !(qDlv s l).isEmpty && hasRoom ll 3 3 then some .offer
  else
    let read := !ll.vnQ.isEmpty && hasRoom ll 1 3
    match sourceTurn s l with
    | some src => if read && !ll.lastN then some .read else some (sourceClass src)
    | none => if read then some .read else if lcpDue ll then some .lcp else none

/-- A turn is taken: between VC-N and VC-P, and among the posted-write sources. -/
def tookRead (s : State) (l : Link) : State :=
  let r := linkOf s l
  setLink s l { r with ll := { r.ll with lastN := true } }
def tookSource (s : State) (l : Link) (src : BitVec 2) : State :=
  let r := linkOf s l
  setLink s l { r with ll := { r.ll with lastN := false, lastSrc := src } }

/-- A packet of the link layer's own is sent: an LCP, or a TLP again, as it was first sent (R273). -/
def sendGrains (s : State) (l : Link) (ll : LinkLayer) (gs : List Grain) : State :=
  fillOut (setLink s l { linkOf s l with ll := { ll with out := ll.out ++ gs } }) l

/-- The LCP that is due: an ACK, or the freed count of one VC (R272, R277). -/
def sendDue (s : State) (l : Link) : State :=
  let ll := (linkOf s l).ll
  if ll.ackDue then sendGrains s l { ll with ackDue := false } [buildLcp 0x01 0 (ll.rxExp - 1)]
  else match crNext ll with
  | some vc => sendGrains s l { ll with crDue := ll.crDue &&& ~~~(1#4 <<< vc) } [buildLcp 0x03 vc (rxOf ll vc).freed]
  | none => s

/-- The oldest completion that waits enters the replay buffer: its function stands before its body. -/
def sendWaitingCpl (s : State) (l : Link) : State :=
  let r := linkOf s l
  match r.ll.cplQ with
  | [] => s
  | q :: rest =>
    pushTlp (setLink s l { r with ll := { r.ll with cplQ := rest } }) l tyCPL 2 (q.length) ((q.headD 0).setWidth 8)
      (q.drop 1) none

/-- The link layer sends a packet of a class that waits for no command. -/
def sendOwn (s : State) (l : Link) : State :=
  let ll := (linkOf s l).ll
  match nextClass s l with
  | some .nak => match ll.nakDue with
    | some q => sendGrains s l { ll with nakDue := none } [buildLcp 0x02 0 q]
    | none => s
  | some .replay => match ll.rpl with
    | t :: rest => sendGrains s l { ll with rpl := rest } (grainsOf t.words)
    | [] => s
  | some .lcp => sendDue s l
  | some .cpl => sendWaitingCpl s l
  | _ => s

end Sys2Proof.Machine
end

