-- ==== Sys2Proof/Machine/Furrow.lean ====
section
/-!
DEFINITION. Machine/Furrow.lean: masking, effective priority, candidates, the furrow's refresh, the router and the
placing of offers (chapters 03 and 04).
-/
namespace Sys2Proof.Machine

/-! ## Masking and priority -/

/-- A route that holds no target (R56, R451). -/
def badRoute (s : State) (t : Target) (i : Intid) : Bool :=
  let m := srcMode s t i
  m = 3 || ((m = 1 || m = 2) && 63 < srcDest s t i)

/-- Masked under R25. -/
def masked (s : State) (t : Target) (i : Intid) : Bool :=
  (if isWiredSrc i then wMasked s i else !srcEn s t i) || badRoute s t i

/-- The formula of R46. -/
def effFormula (ripen base ceil age : Nat) : Nat :=
  if ripen = 0 || base ≤ ceil then base else max ceil (base - age / ripen)

/-- The effective priority of an INTID (R46). -/
def effPrio (s : State) (k : Nat) : Nat :=
  let t := keyTarget k
  let i := keyIntid k
  effFormula (fld (regLive s 0x44) 0 8) (srcPrio s t i) (srcCeil s t i) (intOf s k).age.toNat

/-- Pre-emption (R42) and eligibility (R43). -/
def preempts (e b r : Nat) : Bool := r = 0xFF || e + 2 ^ b ≤ r
def eligible (s : State) (t : Target) (e : Nat) : Bool :=
  e < viewPmr s t && preempts e (viewBpr s t) (viewRpr s t) && e ≠ 0xFF

/-! ## Routes (R51, R57) -/

/-- Enabled member of a set (R57, Table TN-3). -/
def enabledMember (s : State) (set : Nat) (t : Target) : Bool :=
  setMember s set t.toNat && tgtEn s t && tenEnabled s (tgtTenant s t)

/-- The route of an INTID holds the target. -/
def inRoute (s : State) (k : Nat) (t : Target) : Bool :=
  let i := keyIntid k
  if i.toNat < 32 then keyTarget k = t
  else
    let m := srcMode s 0 i
    if m = 0 then srcDest s 0 i = t.toNat
    else if (m = 1 || m = 2) && srcDest s 0 i ≤ 63 then enabledMember s (srcDest s 0 i) t
    else false

/-- A refetch of the INTID's word is under way or due: it is no candidate meanwhile (R171), unless its owner's master
enable is clear (R201). -/
def refetching (s : State) (k : Nat) : Bool :=
  match (intOf s k).copy with
  | some c => c.expired && !c.kept && tenMe s c.owner
  | none => false

/-- Candidate at a target (R51). -/
def candidate (s : State) (k : Nat) (t : Target) : Bool :=
  (intOf s k).st = .pending && !masked s (keyTarget k) (keyIntid k) && !refetching s k && inRoute s k t &&
  eligible s t (effPrio s k)

/-- The order of R52 on (effective priority, age, INTID). -/
def before (a b : Nat × Nat × Nat) : Bool :=
  a.1 < b.1 || (a.1 = b.1 && (b.2.1 < a.2.1 || (a.2.1 = b.2.1 && a.2.2 < b.2.2)))

def rankKey (s : State) (k : Nat) : Nat × Nat × Nat := (effPrio s k, (intOf s k).age.toNat, (keyIntid k).toNat)

/-- The best candidate of a target (R52). -/
def bestOf (s : State) (t : Target) : Option Nat :=
  s.irq.ints.foldl (fun acc p =>
    if candidate s p.1 t then
      match acc with
      | none => some p.1
      | some b => if before (rankKey s p.1) (rankKey s b) then some p.1 else some b
    else acc) none

/-! ## Readiness (R58, R70) -/

def awake (s : State) (t : Target) : Bool := tgtBind s t || (tgtOf s t).sleep.toNat < 2

/-- The link condition of R58; a wired target's always holds (R98). Q-DLV must have room (R424). -/
def linkReady (s : State) (t : Target) : Bool :=
  tgtBind s t ||
  ((linkActive s (tgtLink s t) || hasGrant s (exitClient (tgtLink s t))) && (qDlv s (tgtLink s t)).length < 128)

/-- The target can take an offer of effective priority e: none outstanding, or one Offered-E that e supersedes. -/
def offerRoom (s : State) (t : Target) (e : Nat) : Bool :=
  match ticketsOf s t with
  | [] => true
  | [(k, o)] => isE s k && e < o.prio.toNat
  | _ => false

/-- Ready for the INTID of key k (R58): it is the best candidate the furrow holds for the target, and passes the check of
R54. -/
def ready (s : State) (t : Target) (k : Nat) : Bool :=
  (tgtOf s t).best = some (keyIntid k) && candidate s k t && offerRoom s t (effPrio s k) &&
  (awake s t || hasGrant s t.toNat) && linkReady s t

/-! ## Rotation (R59, R62) -/

/-- The scan passes a member by when awake members are preferred and it is not awake (R59 step 2). With the feature held
off, ROTATE_AWAKE routes as ROTATE (R351, DEDUCED, log 41). -/
def awakeRule (s : State) (mode set : Nat) (t : Target) : Bool :=
  let prefer := (mode = 2 && feat s 3) || s.allot.lean
  if prefer && (upTo 256).any fun m => enabledMember s set (BitVec.ofNat 8 m) && awake s (BitVec.ofNat 8 m) then
    awake s t else true

/-- The targets of a set in the order of its pointer. -/
def scanOrder (ptr : BitVec 8) : List Target := (upTo 256).map fun j => ptr + BitVec.ofNat 8 j

/-- The member the router chooses for a rotate INTID (R59). -/
def rotateChoice (s : State) (k : Nat) : Option Target :=
  let i := keyIntid k
  let set := srcDest s 0 i
  (scanOrder (ptrOf s set)).find? fun t =>
    enabledMember s set t && awakeRule s (srcMode s 0 i) set t && ready s t k

/-- The member the scan would choose if every member at which the INTID is eligible were ready (R62). -/
def nominee (s : State) (k : Nat) : Option Target :=
  let i := keyIntid k
  let set := srcDest s 0 i
  if ((srcMode s 0 i = 2 && feat s 3) || s.allot.lean) &&
     ((upTo 256).any fun m => enabledMember s set (BitVec.ofNat 8 m) && awake s (BitVec.ofNat 8 m)) then none
  else (scanOrder (ptrOf s set)).find? fun t => enabledMember s set t && eligible s t (effPrio s k)

def isRotate (s : State) (i : Intid) : Bool := 32 ≤ i.toNat && (srcMode s 0 i = 1 || srcMode s 0 i = 2)

/-- The target the router chooses for the best candidate of t (R59, R60). -/
def routeOf (s : State) (t : Target) (k : Nat) : Option Target :=
  if isRotate s (keyIntid k) then rotateChoice s k else if ready s t k then some t else none

/-! ## The wake request of a target (R62, R288) -/

/-- The INTID has been chosen for a target other than t, where it waits to be placed (R61). -/
def chosenElsewhere (s : State) (t : Target) (k : Nat) : Bool :=
  32 ≤ (keyIntid k).toNat && s.irq.choices.any fun c => c.2 = keyIntid k && c.1 ≠ t

/-- A wake of t is wanted for the INTID of key k: t sleeps, the INTID is a candidate there and is not chosen elsewhere, and
a rotate INTID nominates t. DEDUCED (log 68): a request ends with its nomination too. -/
def wakeStands (s : State) (t : Target) (k : Nat) : Bool :=
  !awake s t && candidate s k t && !chosenElsewhere s t k && (!isRotate s (keyIntid k) || nominee s k = some t)

/-- A wake grant not yet started keeps its reason while its request would stand, or the offer it was for waits in Q-DLV
(R289). -/
def grantStands (s : State) (t : Target) (k : Nat) : Bool :=
  wakeStands s t k || ((intOf s k).st = .offeredP && (intOf s k).offer.map (·.target) = some t)

/-- The INTID a wake of t is asked for (R62): its best candidate when that is not a rotate INTID, or a rotate INTID that
nominates t; of several, DESIGN CHOICE (log 68), the one of lowest base priority number, then of lowest key. -/
def wakeReason (s : State) (t : Target) (best : Option Nat) : Option Nat :=
  if awake s t || hasGrant s t.toNat then none
  else s.irq.ints.foldl (fun acc p =>
    if (best = some p.1 || isRotate s (keyIntid p.1)) && wakeStands s t p.1 then
      match acc with
      | none => some p.1
      | some b =>
        if srcPrio s (keyTarget p.1) (keyIntid p.1) < srcPrio s (keyTarget b) (keyIntid b) then some p.1 else some b
    else acc) none

/-- The wake request of t follows its nomination; one for a link that sleeps asks for the link's exit too (R62, R288). -/
def wakeRequest (s : State) (t : Target) (best : Option Nat) : State :=
  match wakeReason s t best with
  | some k =>
    raiseReq s t.toNat (BitVec.ofNat 8 (srcPrio s (keyTarget k) (keyIntid k)))
      (some (tgtLink s t) |>.filter fun l => !tgtBind s t && exitWanted s l) (some k)
  | none => dropReq s t.toNat

/-! ## Refresh and placing -/

/-- One target is refreshed (R53): its best candidate is taken, its wake request follows, and a choice is passed on to be
placed (R55, R61). DESIGN CHOICE (log 69): where the member the scan meets first already has a choice waiting, no choice is
made at this refresh. -/
def refresh (s : State) (t : Target) : State :=
  let best := bestOf s t
  let s := setTgt s t { tgtOf s t with best := best.map keyIntid }
  let s := if operating s then wakeRequest s t best else s
  match best with
  | none => s
  | some k =>
    if permitS s then
      match routeOf s t k with
      | none => s
      | some m =>
        if s.irq.choices.any fun c => c.1 = m || (c.2 = keyIntid k && 32 ≤ c.2.toNat) then s
        else { s with irq := { s.irq with choices := s.irq.choices ++ [(m, keyIntid k)] } }
    else s

/-- The target a bank refreshes next: bank b holds the targets b, b + 16, …, b + 240 (R53). -/
def bankTarget (s : State) (b : BitVec 4) : Target := BitVec.ofNat 8 (b.toNat + 16 * tabGet s.irq.bankPos 0 b.toNat)

/-- A bank refreshes one target and steps on to the next, cyclically (R53). -/
def bankRefresh (s : State) (b : BitVec 4) : State :=
  let t := bankTarget s b
  let s := { s with irq := { s.irq with
    bankPos := tabSet s.irq.bankPos 0 b.toNat ((tabGet s.irq.bankPos 0 b.toNat + 1) % 16) } }
  refresh s t

/-- Event S for the INTID of key k at target t (R50, R69, R59): Offered-P with a new ticket; a set's pointer moves. -/
def placeOffer (s : State) (t : Target) (k : Nat) : State :=
  let i := keyIntid k
  let tk := nextTicket s t
  let sup := !(ticketsOf s t).isEmpty
  let r := intOf s k
  let o : Offer := { target := t, ticket := tk, prio := BitVec.ofNat 8 (effPrio s k), supersede := sup,
                     granted := hasGrant s t.toNat, born := s.irq.serial }
  let s := if isRotate s i then setPtr s (srcDest s 0 i) (t + 1) else s
  let s := setInt s k { r with st := .offeredP, offer := some o }
  let s := setTgt s t { tgtOf s t with lastTicket := tk, wout := sup && (tgtOf s t).wout }
  { s with irq := { s.irq with serial := s.irq.serial + 1 } }

/-- A choice is the first of its link: no choice waits there for a target of a lower bank, nor an earlier one of the same
bank (R61). DESIGN CHOICE (log 69): so too among choices made in different CCLKs. -/
def firstChoice (s : State) (t : Target) : Bool :=
  tgtBind s t ||
  (((s.irq.choices.map (·.1)).filter fun u => !tgtBind s u && tgtLink s u = tgtLink s t).foldl (fun (acc : Option Target) u =>
    match acc with
    | some v => if u.toNat % 16 < v.toNat % 16 then some u else some v
    | none => some u) none) = some t

/-- The re-check of a choice when it is placed (R54, R61). -/
def choiceHolds (s : State) (t : Target) (k : Nat) : Bool :=
  permitS s && candidate s k t && offerRoom s t (effPrio s k) && (awake s t || hasGrant s t.toNat) && linkReady s t

def dropChoice (s : State) (t : Target) : State :=
  { s with irq := { s.irq with choices := s.irq.choices.filter fun c => c.1 ≠ t } }

end Sys2Proof.Machine
end

