-- ==== Sys2Proof/Machine/Close.lean ====
section
/-!
DEFINITION. Machine/Close.lean: what every command ends with. The requests and grants of the arbiter follow the state it
leaves, and the house flags of its CCLK are set.
-/
namespace Sys2Proof.Machine

/-! ## The arbiter follows (R289, R304) -/

/-- Wake requests and unstarted wake grants end with their reason (R62, R289). -/
def pruneWakes (s : State) : State :=
  { s with allot := { s.allot with
      grants := s.allot.grants.filter fun g =>
        256 ≤ g.client || g.started || (match g.key with
          | some k => grantStands s (BitVec.ofNat 8 g.client) k
          | none => false)
      reqs := s.allot.reqs.filter fun r =>
        256 ≤ r.client || (match r.key with
          | some k => wakeStands s (BitVec.ofNat 8 r.client) k
          | none => false) } }

/-- An external client whose BREQ stands adopted high, and which holds nothing, asks (R296, R297). -/
def breqRequest (s : State) (n : Nat) : State :=
  let c := extClient n
  if s.allot.breq.getLsbD n && !s.allot.barred.getLsbD n && !hasGrant s c && !hasReq s c then raiseReq s c 0 none none else s

/-- What the arbiter does of itself after every command: frees, withdraws, raises, and ends an overdraft (R298, R304). -/
def follow (s : State) : State :=
  if arbGrants s then
    let s := pruneWakes s
    let s := if operating s then exitRequests s else s
    let s := engineRequest (foldS breqRequest s (upTo 8))
    markUnfit { s with allot := { s.allot with overdraft := s.allot.overdraft && freeAllot s < 0 } }
  else s

/-- The flags of the CCLK at hand are spent (log 7). -/
def endCclk (s : State) : State := { s with hsAcc := 0, sqAcc := [] }

/-- The allotments once the arbiter has followed; it sees none of the flags being gathered. -/
def arbFollow (s : State) : State := { s with allot := (follow (endCclk s)).allot }

/-! ## The close -/

/-- What every command ends with: NV_DONE, the mode's log entry, the withdrawal of R335, the arbiter's own steps, the house
flags of the command's CCLK, and the high-water marks. -/
def settle (before after : State) : State :=
  endCclk (noteHwm (flushHouse (arbFollow (settlePermit before (logMode before (nvDone before after))))))

end Sys2Proof.Machine
end

