-- ==== Sys2Proof/Machine/Offers.lean ====
section
/-!
DEFINITION. Machine/Offers.lean: the furrow, the router, offers, recalls and the messages of an endpoint (chapters 02 to
04). INTID state changes only in the operating modes (R338, R340), and a message arrives only over an ACTIVE link.
-/
namespace Sys2Proof.Machine

abbrev Out := Host.Outcome State Fault Refusal

/-- CCLK runs (Table MD-1). -/
def cclkRuns (s : State) : Bool :=
  match s.pw.mode with
  | .load | .safe | .operating | .lastGasp => true
  | _ => false

/-- FURROW_REFRESH: a bank refreshes one target, in every mode in which CCLK runs (R53, R55, R59 to R62). -/
def furrowRefresh (s : State) (b : BitVec 4) : State := if cclkRuns s then bankRefresh s b else s
def execFurrowRefresh (b : BitVec 4) (s : State) : Out := .next (settle s (furrowRefresh s b))

/-- ROUTE_SELECT: the choice that waits for t, the first of its link, is placed if it still holds, else dropped (R54, R61). -/
def routeSelect (s : State) (t : Target) : State :=
  match s.irq.choices.find? fun c => c.1 = t with
  | none => s
  | some c =>
    if !firstChoice s t then s
    else
      let s := dropChoice s t
      let k := ikey t c.2
      if choiceHolds s t k then placeOffer s t k else s
def execRouteSelect (t : Target) (s : State) : Out := .next (settle s (routeSelect s t))

/-- A change of the current offer of an INTID. -/
def updOffer (s : State) (k : Nat) (f : Offer → Offer) : State :=
  let r := intOf s k
  setInt s k { r with offer := r.offer.map f }

/-- Body of OFFER and SUPERSEDE (Table LP-5). -/
def offerBody (i : Intid) (o : Offer) : List Word :=
  [put i.toNat 0 ||| put o.target.toNat 24, put o.prio.toNat 0 ||| put o.ticket.toNat 8]

/-- OFFER_REPLAY_ENTRY: the oldest Q-DLV entry of the link enters the replay buffer, event X (R18, R74, R289). -/
def offerReplayEntry (s : State) (l : Link) : State :=
  match qDlv s l with
  | [] => s
  | (k, o) :: _ =>
    if operating s && nextClass s l = some .offer then
      let s := pushTlp s l (if o.supersede then tySUPERSEDE else tyOFFER) 3 3 0 (offerBody (keyIntid k) o) none
      let s := setInt s k { intOf s k with st := .offeredE, offer := some { o with cnt := 0 } }
      startGrant s o.target.toNat
    else s
def execOfferReplayEntry (l : Link) (s : State) : Out := .next (settle s (offerReplayEntry s l))

/-- A wired target's recalled tickets are given back at once (R99). -/
def wiredRecalls (s : State) : State :=
  foldS (fun s p => match p.2.st, p.2.offer with
    | .offeredE, some o => if o.rcl = .flagged && tgtBind s o.target then evN s p.1 else s
    | _, _ => s) s s.irq.ints

/-- Target number of WOUT k (R98). -/
def wiredTarget (k : BitVec 4) : Target := BitVec.ofNat 8 (240 + k.toNat)

/-- WIRED_OFFER_ASSERT: event X for a wired target, whose WOUT pin is asserted from then on (R98). -/
def wiredOfferAssert (s : State) (t : Target) : State :=
  if operating s && tgtBind s t then
    match (ticketsOf s t).find? fun p => !isE s p.1 with
    | none => s
    | some (k, o) =>
      let s := setInt s k { intOf s k with st := .offeredE, offer := some { o with cnt := 0 } }
      setTgt s t { tgtOf s t with wout := true }
  else s

/-- The CCLK after a SUPERSEDE's event X: the older ticket of a wired target is retired with event N (R99). -/
def wiredRetire (s : State) : State :=
  if operating s then
    foldS (fun s p =>
      match p.2.offer with
      | some o =>
        if p.2.st = .offeredE && tgtBind s o.target &&
           (ticketsOf s o.target).any (fun q => isE s q.1 && o.born < q.2.born) then evN s p.1 else s
      | none => s) s s.irq.ints
  else s
def execWiredOfferAssert (k : BitVec 4) (s : State) : Out := .next (settle s (wiredOfferAssert s (wiredTarget k)))

/-- RECALL_SEND: the first flagged recall of the link is sent (R74, R75). -/
def recallSend (s : State) (l : Link) : State :=
  match flaggedOn s l with
  | [] => s
  | (k, o) :: _ =>
    if operating s && nextClass s l = some .recall then
      let s := pushTlp s l tyRECALL 3 2 0 [put o.target.toNat 0 ||| put o.ticket.toNat 8] none
      updOffer s k fun o => { o with rcl := .sent, rcnt := 0 }
    else s
def execRecallSend (l : Link) (s : State) : Out := .next (settle s (recallSend s l))

def offerTmo (s : State) : Nat := fld (regLive s 0x48) 0 8

/-- The Offered-E offer of a target with a ticket. -/
def ticketE (s : State) (t : Target) (tk : BitVec 8) : Option (Nat × Offer) :=
  (ticketsOf s t).find? fun p => p.2.ticket = tk && isE s p.1

/-- OFFER_TIMEOUT (R73): the ticket is flagged; a wired target gives it back at once. -/
def offerTimeout (s : State) (t : Target) (tk : BitVec 8) : State :=
  match ticketE s t tk with
  | none => s
  | some (k, o) =>
    if operating s && offerTmo s ≠ 0 && offerTmo s ≤ o.cnt && o.rcl = .none then
      wiredRecalls (updOffer s k flagRecall)
    else s
def execOfferTimeout (t : Target) (tk : BitVec 8) (s : State) : Out := .next (settle s (offerTimeout s t tk))

/-- RECALL_TIMEOUT (R75). -/
def recallTimeout (s : State) (t : Target) (tk : BitVec 8) : State :=
  match ticketE s t tk with
  | none => s
  | some (k, o) =>
    if operating s && offerTmo s ≠ 0 && offerTmo s ≤ o.rcnt && o.rcl = .sent && !o.tmoCounted then
      bump (updOffer s k fun o => { o with tmoCounted := true }) cntRECALLTMO
    else s
def execRecallTimeout (t : Target) (tk : BitVec 8) (s : State) : Out := .next (settle s (recallTimeout s t tk))

/-! ## Endpoint messages -/

/-- A message of g grains has taken effect on VC-I: its grains are freed (R278). -/
def viMsg (s : State) (l : Link) (g : Nat) (f : State → State) : State :=
  if operating s && linkActive s l then f (freeRx s l 3 g) else s

/-- The message names a target of the link that has no wired binding (R68). -/
def servedBy (s : State) (l : Link) (t : Target) : Bool := tgtLink s t = l && !tgtBind s t

/-- The answer names a current, endpoint-held ticket of the target with its INTID (R71). -/
def answers (s : State) (t : Target) (i : Intid) (tk : BitVec 8) : Option Offer :=
  let r := intOf s (ikey t i)
  match r.st, r.offer with
  | .offeredE, some o => if usable i && o.target = t && o.ticket = tk then some o else none
  | _, _ => none

/-- CLAIMED: event C, and VIEW_RPR takes the lesser value (R44, R71). -/
def claimed (s : State) (l : Link) (t : Target) (i : Intid) (tk : BitVec 8) : State :=
  viMsg s l 3 fun s =>
    if servedBy s l t then
      match answers s t i tk with
      | some o =>
        let s := evC s (ikey t i) t
        setTgt s t { tgtOf s t with rpr := if o.prio.toNat < (tgtOf s t).rpr.toNat then o.prio else (tgtOf s t).rpr }
      | none => bump s cntSTRAY
    else bump s cntSTRAY
def execClaimed (l : Link) (t : Target) (i : Intid) (tk : BitVec 8) (s : State) : Out :=
  .next (settle s (claimed (arrive s l 3 3) l t i tk))

/-- RETURNED: event N (R71). -/
def returned (s : State) (l : Link) (t : Target) (i : Intid) (tk : BitVec 8) : State :=
  viMsg s l 3 fun s =>
    if servedBy s l t then
      match answers s t i tk with
      | some _ => evN s (ikey t i)
      | none => bump s cntSTRAY
    else bump s cntSTRAY
def execReturned (l : Link) (t : Target) (i : Intid) (tk : BitVec 8) (s : State) : Out :=
  .next (settle s (returned (arrive s l 3 3) l t i tk))

/-- RETURNED-BELOW: event N, counted (Table RG-14). -/
def returnedBelow (s : State) (l : Link) (t : Target) (i : Intid) (tk : BitVec 8) : State :=
  viMsg s l 3 fun s =>
    if servedBy s l t then
      match answers s t i tk with
      | some _ => bump (evN s (ikey t i)) cntRETBELOW
      | none => bump s cntSTRAY
    else bump s cntSTRAY
def execReturnedBelow (l : Link) (t : Target) (i : Intid) (tk : BitVec 8) (s : State) : Out :=
  .next (settle s (returnedBelow (arrive s l 3 3) l t i tk))

/-- The INTID is Active and held by the target (R33). -/
def holdsActive (s : State) (t : Target) (i : Intid) : Bool :=
  usable i && (intOf s (ikey t i)).st = .active && (intOf s (ikey t i)).holder = t

/-- EOI: event E (R22). -/
def eoiMsg (s : State) (l : Link) (t : Target) (i : Intid) : State :=
  viMsg s l 2 fun s => if servedBy s l t && holdsActive s t i then evE s (ikey t i) else bump s cntSTRAY
def execEoi (l : Link) (t : Target) (i : Intid) (s : State) : Out := .next (settle s (eoiMsg (arrive s l 3 2) l t i))

/-- COMPLETED_EXIT: the notification is placed, or the INTID leaves Completed (R28, R29). -/
def completedExit (s : State) (t : Target) (i : Intid) : State :=
  let k := ikey t i
  let r := intOf s k
  if operating s && r.st = .completed then
    match r.note, r.noteId with
    | some n, none =>
      let p := placeNote s n i
      match p.2 with
      | some id => setInt p.1 k { r with noteId := some id }
      | none => setInt p.1 k (restRec k r)
    | some _, some _ => s
    | none, _ =>
      if isLevel s t i && levelHigh s t i then setInt s k { r with st := .pending, age := 0, note := none, noteId := none }
      else setInt s k (restRec k r)
  else s
def execCompletedExit (t : Target) (i : Intid) (s : State) : Out := .next (settle s (completedExit s t i))

/-- PRIO: the view is replaced (R44). -/
def prioMsg (s : State) (l : Link) (t : Target) (pmr : BitVec 8) (bpr : BitVec 3) (rpr : BitVec 8) : State :=
  viMsg s l 2 fun s =>
    if servedBy s l t then setTgt s t { tgtOf s t with pmr := pmr, bpr := bpr, rpr := rpr } else bump s cntSTRAY
def execPrio (l : Link) (t : Target) (pmr : BitVec 8) (bpr : BitVec 3) (rpr : BitVec 8) (s : State) : Out :=
  .next (settle s (prioMsg (arrive s l 3 2) l t pmr bpr rpr))

/-- STATE: the sleep code; AWAKE or DOZE ends a wake grant, and a report of sleep over an offer made without one is
counted (R289, R316, R318). -/
def stateMsg (s : State) (l : Link) (t : Target) (code : BitVec 2) : State :=
  viMsg s l 2 fun s =>
    if servedBy s l t then
      let s1 := setTgt s t { tgtOf s t with sleep := code }
      if code.toNat < 2 then arbSettle s (freeGrant s1 t.toNat)
      else if (ticketsOf s t).any fun p => isE s p.1 && !p.2.granted then bump s1 cntUNGRANTED
      else s1
    else bump s cntSTRAY
def execState (l : Link) (t : Target) (code : BitVec 2) (s : State) : Out := .next (settle s (stateMsg (arrive s l 3 2) l t code))

/-- Signal n is triggered at a destination whose tenant is the sender's; else the denial is counted (R95). -/
def signalOne (sender : Target) (num : BitVec 4) (s : State) (d : Target) : State :=
  if tgtTenant s d = tgtTenant s sender then evT s (ikey d (num.setWidth 24)) none else bump s cntSIGDEN

/-- The destinations of a form-1 SIGNAL: the enabled members of the set but the sender (R95). -/
def signalSet (s : State) (sender : Target) (set : Nat) : List Target :=
  ((upTo 256).map (BitVec.ofNat 8)).filter fun d => enabledMember s set d && d ≠ sender

/-- A form-1 SIGNAL takes effect: its destinations and the tenant test of each are judged now; the first is triggered, and
the others follow one in each CCLK (R96). -/
def fanOut (s : State) (sender : Target) (num : BitVec 4) (ds : List Target) : State :=
  let allowed := ds.filter fun d => tgtTenant s d = tgtTenant s sender
  let s := bumpN s cntSIGDEN (ds.length - allowed.length)
  match allowed with
  | [] => s
  | d :: rest =>
    let s := evT s (ikey d (num.setWidth 24)) none
    if rest.isEmpty then s else { s with irq := { s.irq with fans := s.irq.fans ++ [{ num := num, rest := rest }] } }

/-- One CCLK of the fan-outs in progress: each triggers its next destination (R96). -/
def fanStep (s : State) : State :=
  if operating s then
    let s1 := foldS (fun s f => match f.rest with
      | d :: _ => evT s (ikey d (f.num.setWidth 24)) none
      | [] => s) s s.irq.fans
    { s1 with irq := { s1.irq with
        fans := (s.irq.fans.map fun f => { f with rest := f.rest.tail }).filter fun f => !f.rest.isEmpty } }
  else s

/-- SIGNAL (R68, R95, R96). -/
def signalMsg (s : State) (l : Link) (sender : Target) (form : Bool) (dest : BitVec 8) (num : BitVec 4) : State :=
  viMsg s l 2 fun s =>
    if servedBy s l sender then
      if form then
        if 63 < dest.toNat then bump s cntSIGDEN
        else fanOut s sender num (signalSet s sender dest.toNat)
      else signalOne sender num s dest
    else bump s cntSIGDEN
def execSignal (l : Link) (sender : Target) (form : Bool) (dest : BitVec 8) (num : BitVec 4) (s : State) : Out :=
  .next (settle s (signalMsg (arrive s l 3 2) l sender form dest num))

/-- PRIV (R97). -/
def privMsg (s : State) (l : Link) (t : Target) (src : BitVec 4) (level : Bool) : State :=
  viMsg s l 2 fun s =>
    if servedBy s l t then
      let i : Intid := BitVec.ofNat 24 (16 + src.toNat)
      let r := tgtOf s t
      let was := r.levels.getLsbD src.toNat
      let bits : BitVec 16 := 1#16 <<< src.toNat
      let s := setTgt s t { r with levels := if level then r.levels ||| bits else r.levels &&& ~~~bits }
      if srcEdge s t i then (if level then evT s (ikey t i) none else s)
      else if level && !was then evT s (ikey t i) none
      else if !level && was then evF s (ikey t i)
      else s
    else bump s cntSTRAY
def execPriv (l : Link) (t : Target) (src : BitVec 4) (level : Bool) (s : State) : Out :=
  .next (settle s (privMsg (arrive s l 3 2) l t src level))

/-! ## Wired targets (R100 to R102) -/

/-- The current, unclaimed offer that a read of WT_ACK claims: of two, the one with the lower priority number. -/
def wtOffer (s : State) (t : Target) : Option (Nat × Offer) :=
  (ticketsOf s t).foldl (fun acc p =>
    if isE s p.1 then
      match acc with
      | none => some p
      | some q => if p.2.prio.toNat < q.2.prio.toNat then some p else some q
    else acc) none

/-- A read of WT_ACK: the word returned, and the claim (R100, R102). -/
def wtClaim (s : State) (t : Target) : Word × State :=
  if operating s && tgtBind s t then
    match wtOffer s t with
    | none => (0x00FFFFFF, s)
    | some (k, o) =>
      let s := evC s k t
      let s := setTgt s t (recordClaim (tgtOf s t) o.prio)
      (put (keyIntid k).toNat 0 ||| put o.prio.toNat 24, s)
  else (0x00FFFFFF, s)

/-- A write of WT_EOI: event E, or stray (R101, R446). -/
def wtEoi (s : State) (t : Target) (be : BE) (i : Intid) : State :=
  if be.extractLsb' 0 3 = 7 && tgtBind s t && holdsActive s t i then
    let s := evE s (ikey t i)
    setTgt s t (recordEoi (tgtOf s t))
  else bump s cntSTRAY

/-- RECLAIM of one target (R77): the actions of R76. -/
def doReclaim (s : State) (t : Target) : State := if operating s then revertTarget s t else s

end Sys2Proof.Machine
end

