-- ==== Sys2Proof/Machine/Walks.lean ====
section
/-!
DEFINITION. Machine/Walks.lean: the walker: translation, walks, the two caches, the pending pool, spills and sweeps,
invalidations, records and notes (chapter 07).
-/
namespace Sys2Proof.Machine

/-! ## Pool and tags -/

def poolFree (s : State) : Nat := 8192 - poolUsed s

/-- The lowest-numbered free walk tag (R157). -/
def freeTag (s : State) : Option (BitVec 6) :=
  ((upTo 64).find? fun j => !s.xl.walks.any fun w => w.tag.toNat = j).map (BitVec.ofNat 6)

def genOf (s : State) (tag : BitVec 6) : BitVec 4 := tabGet s.xl.gens 0 tag.toNat
def walkAt (s : State) (tag : BitVec 6) : Option Walk := s.xl.walks.find? fun w => w.tag = tag

/-- Sweeps and refetches together hold at most 16 tags (R427). -/
def heldBack (s : State) : Nat := (s.xl.walks.filter fun w => w.kind = .refetch || w.kind = .sweep).length

/-- Grains of VC-C receive space reserved for completions: 12 for each allocated tag (R279). -/
def cplReserve (s : State) : Nat := 12 * s.xl.walks.length

def setXl (s : State) (x : Xlate) : State := { s with xl := x }
def updWalks (s : State) (f : List Walk → List Walk) : State := setXl s { s.xl with walks := f s.xl.walks }
def removeWalk (s : State) (tag : BitVec 6) : State := updWalks s fun ws => ws.filter fun w => w.tag ≠ tag
def putWalk (s : State) (w : Walk) : State := updWalks s fun ws => ws.map fun v => if v.tag = w.tag then w else v
def nextSerial (s : State) : State := setXl s { s.xl with serial := s.xl.serial + 1 }

/-- A tag is allocated: its generation advances (R157). -/
def allocWalk (s : State) (w : Walk) : State :=
  let g := genOf s w.tag + 1
  setXl s { s.xl with walks := s.xl.walks ++ [{ w with gen := g, born := s.xl.serial, stamp := s.hl.seq }],
                      gens := tabSet s.xl.gens 0 w.tag.toNat g, serial := s.xl.serial + 1 }

/-- An access of a walk ends; one whose count was forced to 0 lowers nothing (R204, R207). -/
def outEnd (s : State) (w : Walk) : State := if w.forced then s else outSub s w.e.tenant

/-! ## Expiry and the caches (R159 to R163) -/

def revalHl (s : State) : Nat := atLeastOne (fld (regLive s 0x4C) 0 8)
def stampExpired (s : State) (stamp : Word) : Bool := revalHl s ≤ (s.hl.seq - stamp).toNat

def sameKey (a b : SowEvent) : Bool := a.tenant = b.tenant && a.dev = b.dev && a.ev = b.ev

def lookupT (s : State) (e : SowEvent) : Option TransEntry :=
  s.xl.tcache.find? fun t => t.part = e.link && sameKey t.e e
def lookupX (s : State) (i : Intid) : Option XcfgEntry := s.xl.xcache.find? fun x => x.intid = i

/-- The set of a key in its partition; the hash is the part's own (R161). -/
def tSet (e : SowEvent) : Nat := Config.cacheHash e.tenant.toNat (e.dev.toNat * 65536 + e.ev.toNat) % 128
/-- The number of the set of a translation in its partition; of a configuration word (R159, R160). -/
def tSetNo (part : Link) (e : SowEvent) : Nat := part.toNat * 128 + tSet e
def xSetNo (i : Intid) : Nat := i.toNat % 256

/-- The way a replacement tree of the given depth points to; node n has the children 2n and 2n + 1 (R161). -/
def treeVictim (t : BitVec 8) : Nat → Nat → Nat
  | 0, n => n
  | d + 1, n => treeVictim t d (2 * n + (t.getLsbD n).toNat)

/-- A use of a leaf: every node above it points away from it. -/
def treeTouch (t : BitVec 8) : Nat → Nat → BitVec 8
  | 0, _ => t
  | d + 1, n =>
    let up := n / 2
    let t := if n % 2 = 0 then t ||| (1#8 <<< up) else t &&& ~~~(1#8 <<< up)
    treeTouch t d up

/-- The trees of the two caches; a set's starting state is the part's own (R161). -/
def tTree (s : State) (k : Nat) : BitVec 8 := tabGet s.xl.tlru (Config.plruStart 0 k) k
def xTree (s : State) (k : Nat) : BitVec 8 := tabGet s.xl.xlru (Config.plruStart 1 k) k

/-- A way of a set is used. -/
def touchT (s : State) (k way : Nat) : State :=
  setXl s { s.xl with tlru := tabPut s.xl.tlru k (treeTouch (tTree s k) 2 (4 + way)) }
def touchX (s : State) (k way : Nat) : State :=
  setXl s { s.xl with xlru := tabPut s.xl.xlru k (treeTouch (xTree s k) 3 (8 + way)) }

/-- The way a fill takes: one that holds nothing, of several any (a free value); else the one the tree points to (R161). -/
def pickWay (s : State) (ways : Nat) (used : List Nat) (victim : Nat) : State × Nat :=
  match (upTo ways).filter fun w => !used.contains w with
  | [] => (s, victim)
  | [w] => (s, w)
  | ws =>
    let f := takeFree s
    (f.2, ws.getD (f.1.toNat % ws.length) 0)

/-- A fill of the translation cache (R159, R161). -/
def fillT (s : State) (t : TransEntry) : State :=
  let k := tSetNo t.part t.e
  let others := s.xl.tcache.filter fun u => !(u.part = t.part && sameKey u.e t.e)
  let mine := others.filter fun u => tSetNo u.part u.e = k
  let p := pickWay s 4 (mine.map (·.way)) (treeVictim (tTree s k) 2 1 - 4)
  let kept := others.filter fun u => !(tSetNo u.part u.e = k && u.way = p.2)
  touchT (setXl p.1 { p.1.xl with tcache := kept ++ [{ t with way := p.2 }] }) k p.2

/-- A fill of the configuration cache (R160, R161). -/
def fillX (s : State) (x : XcfgEntry) : State :=
  let k := xSetNo x.intid
  let others := s.xl.xcache.filter fun u => u.intid ≠ x.intid
  let mine := others.filter fun u => xSetNo u.intid = k
  let p := pickWay s 8 (mine.map (·.way)) (treeVictim (xTree s k) 3 1 - 8)
  let kept := others.filter fun u => !(xSetNo u.intid = k && u.way = p.2)
  touchX (setXl p.1 { p.1.xl with xcache := kept ++ [{ x with way := p.2 }] }) k p.2

/-- Both caches are emptied (R164). -/
def emptyCaches (s : State) : State := setXl s { s.xl with tcache := [], xcache := [] }

/-! ## Delivery to the state store (R170, R172) -/

def spillEn (s : State) (n : Tenant) : Bool := bit (pageLive s n.toNat 0x18) 0
def spillBase (s : State) (n : Tenant) : Nat :=
  (pageLive s n.toNat 0x1C).toNat * 2 ^ 32 + ((pageLive s n.toNat 0x18).toNat / 64) * 64

/-- The 64-byte block and the bit in it of an INTID's spill bit (R154, R267). -/
def spillIndex (s : State) (n : Tenant) (i : Intid) : Nat := i.toNat - tenXBase s n
/-- Address of a block of a tenant's spill bitmap (R154). -/
def blockAddr (s : State) (n : Tenant) (block : Nat) : Nat := spillBase s n + 64 * block

/-- The sweep under way, if any (R174). -/
def sweepNow (s : State) : Option Walk := s.xl.walks.find? fun w => w.kind = .sweep && !w.dead

/-- The sweep holds an INTID's block between the block's read and its CLRBITS (R174). -/
def sweepHolds (s : State) (n : Tenant) (i : Intid) : Option Walk :=
  (sweepNow s).filter fun w =>
    w.e.tenant = n && w.block = spillIndex s n i / 512 && (w.stage ≠ .block || w.issued.isSome)

/-- A spill: the sweep that holds the block takes it, a spill write of the INTID that waits takes it as well, or a spill
write of its own is made under a tag (R172, R174, R176). -/
def placeSpill (s : State) (e : SowEvent) (i : Intid) : State :=
  let n := e.tenant
  let j := spillIndex s n i
  match sweepHolds s n i with
  | some w => putWalk s { w with extra := if w.extra.contains (j % 512) then w.extra else w.extra ++ [j % 512] }
  | none =>
    match s.xl.walks.find? fun w => w.kind = .spill && w.intid = i && w.e.tenant = n with
    | some w => putWalk s { w with joined := w.joined ++ [e.link] }
    | none => match freeTag s with
      | some tag => allocWalk s { tag := tag, gen := 0, kind := .spill, e := e, start := .spill, stage := .spill,
                                  addr := blockAddr s n (j / 512), bitNo := j % 512, intid := i, stamp := 0, born := 0 }
      | none => s

/-- An event for an Inactive extended INTID that finds no pool entry: spilled, or dropped (R172, R201). -/
def spillEvent (s : State) (e : SowEvent) (i : Intid) : State :=
  let n := e.tenant
  if !spillEn s n then poolDrop s n e.link i (some 3)
  else if !tenMe s n then poolDrop s n e.link i none
  else
    let s := bump s cntSPILL
    let r := tenOf s n
    placeSpill (setTen s n { r with spill := true, c5 := r.c5 + 1 }) e i

/-- Event T on an extended INTID with the configuration word read or cached for it (R170, R171). -/
def triggerExt (s : State) (e : SowEvent) (i : Intid) (word stamp : Word) (note : Option NoteKey) : State :=
  let k := ikey 0 i
  let r := intOf s k
  if !tenEnabled s e.tenant then bump s cntDISCARD
  else if r.st = .inactive then
    if poolFree s = 0 then spillEvent s e i
    else
      let s := evT s k note
      setInt s k { intOf s k with copy := some { word := word, stamp := stamp, owner := e.tenant } }
  else
    let s := evT s k note
    match (intOf s k).copy with
    | some c =>
      if c.word = word then s
      else setInt s k { intOf s k with copy := some { c with staged := some (word, stamp) } }
    | none => s

def noteOf (e : SowEvent) (notify : Bool) : Option NoteKey :=
  if notify then some { link := e.link, tenant := e.tenant, dev := e.dev, ev := e.ev } else none

/-- One translated event triggers its INTID. -/
def deliver (s : State) (e : SowEvent) (i : Intid) (notify : Bool) (word stamp : Word) : State :=
  if isExt i then triggerExt s e i word stamp (noteOf e notify) else trigger s (ikey 0 i) (noteOf e notify)

/-! ## Faults (R163, R176, R528) -/

/-- The events a walk serves: its own and those that joined it. -/
def walkEvents (w : Walk) : List SowEvent := w.e :: w.joined.map fun l => { w.e with link := l }

/-- The stage a fault record names (Table TW-9, Table RC-3). -/
def stageNo (w : Walk) : Nat :=
  match w.stage with
  | .dt => 1
  | .et => 2
  | .xcfg => if w.kind = .refetch then 6 else 3
  | .spill => 4
  | .block | .clear => 5

/-- A dropped event's NAK-event and record; NAK in the record tells that the NAK-event was queued. -/
def faultOne (w : Walk) (code stage addr : Nat) (region : Option Nat) (s : State) (e : SowEvent) : State :=
  let queued := w.nak && cmpRoom s
  queueFlt (if w.nak then queueNak s e w.intid code else s) (faultRec s e code stage queued addr region true)

/-- A refetch that faults leaves the copy in use (R171). -/
def keepCopy (s : State) (i : Intid) : State :=
  let k := ikey 0 i
  match (intOf s k).copy with
  | some c => setInt s k { intOf s k with copy := some { c with expired := false, kept := true, invBorn := none } }
  | none => s

/-- A spilled event is dropped with its write (R176). -/
def dropSpilled (w : Walk) (code addr : Nat) (region : Option Nat) (s : State) (e : SowEvent) : State :=
  poolDrop (queueFlt s (faultRec s e code 4 false addr region true)) e.tenant e.link w.intid (some 4)

/-- What a fault does, after the walk has left its tag. A sweep's faults are its own (`sweepFault`). -/
def faultEffect (s : State) (w : Walk) (code stage addr : Nat) (region : Option Nat) : State :=
  match w.kind with
  | .event => foldS (faultOne w code stage addr region) s (walkEvents w)
  | .spill => foldS (dropSpilled w code addr region) s (walkEvents w)
  | .refetch => keepCopy (queueFlt s (faultRec s w.e code 6 false addr region false)) w.intid
  | .sweep => s

/-- The tables a walk uses, live at its first read (R122), and its first address or its fault of steps 1 and 2. -/
def dtFields (s : State) (w : Walk) : Walk :=
  let n := w.e.tenant
  let lo := pageLive s n.toNat 0x10
  let base := (pageLive s n.toNat 0x14).toNat * 2 ^ 32 + (lo.toNat / 4096) * 4096
  { w with dtLog2 := fld lo 4 5, xBase := tenXBase s n, xAddr := tenXAddr s n,
           addr := base + 8 * w.e.dev.toNat, stage := w.start, stamp := s.hl.seq }

/-- Steps 1 and 2 of R155: the fault they end with, if any: code, stage, address. -/
def dtFault (s : State) (w : Walk) : Option (Nat × Nat × Nat) :=
  if !bit (pageLive s w.e.tenant.toNat 0x10) 0 || 16 < w.dtLog2 then some (1, 0, 0)
  else if 2 ^ w.dtLog2 ≤ w.e.dev.toNat then some (2, 1, w.addr)
  else none

/-- Address of the configuration word of INTID i, to 49 bits, with the base that the walk took (R155 step 8, R182). -/
def xcfgAddr (w : Walk) (i : Intid) : Nat := (w.xAddr + 8 * i.toNat + (2 ^ 49 - 8 * w.xBase)) % 2 ^ 49

/-- A walk begins or is repeated: it takes the tables now live and is at its first step (R155 steps 1 to 3). What a discarded
pass has read is gone (R163). -/
def beginWalk (s : State) (w : Walk) : State :=
  match w.start with
  | .dt =>
    let w := dtFields s { w with intid := 0, notify := false, nak := false, got := [] }
    match dtFault s w with
    | some (c, st, a) => faultEffect (removeWalk s w.tag) w c st a none
    | none => putWalk s w
  | _ =>
    let v := dtFields s { w with got := [] }
    putWalk s { v with addr := xcfgAddr v v.intid }

/-- A walk is repeated once, with a new stamp (R163). -/
def repeatWalk (s : State) (w : Walk) : State := beginWalk s { w with repeated := true, issued := none, waits := none }

/-- A walk faults; one that rests on table contents and has outlived its stamp is repeated once (R163). -/
def walkFault (s : State) (w : Walk) (code stage addr : Nat) (region : Option Nat) : State :=
  if 3 ≤ code && code ≤ 8 && stampExpired s w.stamp && !w.repeated then repeatWalk s w
  else faultEffect (removeWalk s w.tag) w code stage addr region

/-! ## Retirement (R155 step 9, R163) -/

/-- The translation of one event is filled into the partition of its ingress link. A word-only walk fills it for the links of
the events that missed, with the stamp of the translation it began from (R150, R162). -/
def fillEvent (w : Walk) (s : State) (e : SowEvent) : State :=
  if w.start ≠ .dt && (lookupT s e).isSome then s
  else fillT s { part := e.link, e := e, intid := w.intid, notify := w.notify, nak := w.nak,
                 stamp := if w.start = .dt then w.stamp else w.tStamp }

/-- The caches are filled, unless an invalidation or a repeat forbids it (R155 step 9, R163, R166). -/
def fillCaches (s : State) (w : Walk) (word : Option Word) : State :=
  if w.noFill || w.repeated then s
  else
    let s := match word with
      | some v => fillX s { intid := w.intid, word := v, stamp := w.stamp }
      | none => s
    if w.kind = .event then foldS (fillEvent w) s (walkEvents w) else s

/-- The refetch of INTID i finds that its tenant no longer owns it (R527). -/
def refetchLost (s : State) (e : SowEvent) (i : Intid) : State :=
  keepCopy (queueFlt s (faultRec s e 7 6 false 0 none false)) i

/-- A refetch begun at serial number `born` ends: an equal word renews the copy, a differing one is staged (R171). A word read
before the invalidation that expired the copy is not used (R169), nor one for another owner's copy (R527). -/
def refetchDone (s : State) (e : SowEvent) (i : Intid) (born : Nat) (word stamp : Word) : State :=
  let k := ikey 0 i
  match (intOf s k).copy with
  | some c =>
    if c.owner ≠ e.tenant || (match c.invBorn with | some b => decide (born < b) | none => false) then s
    else if ownerOf s i ≠ some e.tenant then refetchLost s e i
    else
      let c := { c with expired := false, invBorn := none, kept := false }
      setInt s k { intOf s k with
        copy := some (if c.word = word then { c with stamp := stamp } else { c with staged := some (word, stamp) }) }
  | none => s

/-- The trigger of an event would be lost: its tenant is not enabled, or it finds the pool full and no spill (R172, R197). -/
def losesTrigger (s : State) (e : SowEvent) (i : Intid) : Bool :=
  !tenEnabled s e.tenant ||
  (isExt i && decide ((intOf s (ikey 0 i)).st = .inactive) && poolFree s = 0 && !(spillEn s e.tenant && tenMe s e.tenant))

/-- The word of a walk that ends, with its stamp: as it was read, or as the configuration cache holds it (R162). -/
def wordOf (s : State) (w : Walk) : Option Word → Word × Word
  | some v => (v, w.stamp)
  | none => match lookupX s w.intid with
    | some x => (x.word, x.stamp)
    | none => (0, w.stamp)

/-- A walk of an event retires with its INTID and, for an extended one, its word. Its events give one trigger, that of the
first (R150, R203); where the trigger is lost, each event is counted (R435). DEDUCED (log 65). -/
def retireEvent (s : State) (w : Walk) (fetched : Option Word) : State :=
  if stampExpired s w.stamp && !w.repeated then repeatWalk s w
  else
    let x := wordOf s w fetched
    let s := fillCaches (removeWalk s w.tag) w fetched
    if losesTrigger s w.e w.intid then foldS (fun s e => deliver s e w.intid w.notify x.1 x.2) s (walkEvents w)
    else deliver s w.e w.intid w.notify x.1 x.2

/-- The INTID is known (steps 6 to 8 of R155). What was invalidated while it was not known counts from here on (R166). -/
def withIntid (s : State) (w0 : Walk) : State :=
  let w := { w0 with noFill := w0.noFill || (isExt w0.intid && w0.invs.any fun p => p.1 ≤ w0.intid.toNat && w0.intid.toNat < p.1 + p.2) }
  if w.intid.toNat < 1024 || 1064959 < w.intid.toNat then walkFault s w 6 2 w.addr none
  else if ownerOf s w.intid ≠ some w.e.tenant then walkFault s w 7 2 w.addr none
  else if isExt w.intid then
    match lookupX s w.intid with
    | none => putWalk s { w with stage := .xcfg, addr := xcfgAddr w w.intid, issued := none, got := [] }
    | some x => retireEvent (touchX s (xSetNo w.intid) x.way) { w with issued := none } none
  else retireEvent s { w with issued := none } none

/-! ## Sweeps (R174) -/

def markSpill (s : State) (n : Tenant) : State := setTen s n { tenOf s n with spill := true }

/-- A fault in a sweep: one record, and FN_STAT.SPILL is set again (R174, R186). -/
def sweepFault (s : State) (w : Walk) (code addr : Nat) (region : Option Nat) : State :=
  markSpill (queueFlt s (faultRec s w.e code (stageNo w) false addr region false)) w.e.tenant

/-- Blocks of a tenant's spill bitmap (R154). -/
def blockCount (s : State) (n : Tenant) : Nat := (tenXCount s n + 511) / 512

/-- The sweep goes on to its next block, or ends and frees its tag. -/
def sweepNext (s : State) (w : Walk) : State :=
  let b := w.block + 1
  if w.stop || blockCount s w.e.tenant ≤ b then removeWalk s w.tag
  else putWalk s { w with stage := .block, block := b, addr := blockAddr s w.e.tenant b, issued := none, waits := none,
                          got := [], todo := [], did := [], extra := [] }

/-- The INTID of bit j of the sweep's block. -/
def sweptIntid (s : State) (w : Walk) (j : Nat) : Intid := BitVec.ofNat 24 (tenXBase s w.e.tenant + 512 * w.block + j)

/-- Bits that the sweep holds for memory are re-injected as pool entries are free; their word is the cache's, or is read with
the trigger's next use: DESIGN CHOICE (log 83). -/
def sweepExtras (s : State) (w : Walk) : List Nat → State × List Nat
  | [] => (s, [])
  | j :: rest =>
    let i := sweptIntid s w j
    if poolFree s = 0 then (s, j :: rest)
    else match lookupX s i with
      | some x => sweepExtras (triggerExt s w.e i x.word x.stamp none) w rest
      | none => (s, j :: rest)

/-- The bits of the block are done: the bits spilled meanwhile follow, then the CLRBITS of what was re-injected, if anything was;
then the next block. -/
def sweepClose (s : State) (w : Walk) : State :=
  let r := sweepExtras s w w.extra
  let w := { w with extra := r.2 }
  if !r.2.isEmpty then
    match r.2 with
    | j :: _ =>
      if poolFree r.1 ≠ 0 then
        putWalk r.1 { w with stage := .xcfg, todo := [], intid := sweptIntid s w j, addr := xcfgAddr (dtFields s w) (sweptIntid s w j),
                             xBase := tenXBase s w.e.tenant, xAddr := tenXAddr s w.e.tenant, stamp := s.hl.seq, issued := none, got := [] }
      else putWalk r.1 { w with stage := .clear, addr := blockAddr s w.e.tenant w.block, issued := none, waits := none, got := [] }
    | [] => r.1
  else if w.did.isEmpty then sweepNext r.1 w
  else putWalk r.1 { w with stage := .clear, addr := blockAddr s w.e.tenant w.block, issued := none, waits := none, got := [] }

/-- The set bits of the block, in ascending order: each in the range is triggered with its cached word; one whose word is not
cached has it read; below 64 free pool entries the rest is left over (R174). -/
def sweepBits (w : Walk) : Nat → State → List Nat → List Nat → State
  | 0, s, _, _ => s
  | n + 1, s, todo, did =>
    match todo with
    | [] => sweepClose s { w with todo := [], did := did }
    | j :: rest =>
      let i := sweptIntid s w j
      if !inXRange s w.e.tenant i || ownerOf s i ≠ some w.e.tenant then sweepBits w n s rest did
      else if poolFree s < 64 then
        sweepClose (markSpill s w.e.tenant) { w with todo := [], did := did, stop := true }
      else match lookupX s i with
        | some x => sweepBits w n (triggerExt (touchX s (xSetNo i) x.way) w.e i x.word x.stamp none) rest (did ++ [j])
        | none =>
          let v := dtFields s w
          putWalk s { w with stage := .xcfg, todo := j :: rest, did := did, intid := i, xBase := v.xBase, xAddr := v.xAddr,
                             addr := xcfgAddr v i, stamp := s.hl.seq, noFill := false, issued := none, waits := none, got := [] }

def sweepOn (s : State) (w : Walk) : State := sweepBits w (w.todo.length + 1) s w.todo w.did

/-- The configuration word of a sweep's bit has been read: the first bit to do, or else the first spilled one. -/
def sweepWord (s : State) (w : Walk) (word : Word) : State :=
  let s := if w.noFill then s else fillX s { intid := w.intid, word := word, stamp := w.stamp }
  let s := triggerExt s w.e w.intid word w.stamp none
  match w.todo with
  | j :: rest => sweepOn s { w with todo := rest, did := w.did ++ [j], issued := none }
  | [] => sweepClose s { w with extra := w.extra.drop 1, issued := none }

/-- An access of a sweep fails: the block is left over, or its bits not yet re-injected, or its CLRBITS (R174, R186, R187). -/
def sweepFail (s : State) (w : Walk) (code addr : Nat) (region : Option Nat) : State :=
  let s := sweepFault s w code addr region
  match w.stage with
  | .xcfg => sweepClose s { w with todo := [], extra := if w.todo.isEmpty then w.extra.drop 1 else w.extra, issued := none, waits := none }
  | .clear => sweepClose s { w with did := [], issued := none, waits := none }
  | _ => sweepNext s w

/-- An access of a walk or of a sweep fails. -/
def accessFault (s : State) (w : Walk) (code : Nat) (region : Option Nat) : State :=
  if w.kind = .sweep then sweepFail s w code w.addr region else walkFault s w code (stageNo w) w.addr region

/-! ## Results of reads (R155, R158) -/

/-- Words of a read, by number; one that no completion has brought is a free value (log 84). -/
def readWord (s : State) (w : Walk) (n : Nat) : State × Word :=
  match w.got.find? fun p => p.1 = n with
  | some p => (s, p.2)
  | none => ((takeFree s).2, (takeFree s).1)

/-- The set bits of a block that was read: bit j is bit j mod 8 of byte j / 8 (R154). -/
def blockBits (s : State) (w : Walk) : State × List Nat :=
  (upTo 16).foldl (fun a n =>
    let r := readWord a.1 w n
    (r.1, a.2 ++ ((upTo 32).filter r.2.getLsbD).map (32 * n + ·))) (s, [])

/-- The result of a read moves the walk on (R155 steps 3 to 8). -/
def readResult (s0 : State) (w : Walk) : State :=
  match w.stage with
  | .block =>
    let b := blockBits s0 w
    sweepOn b.1 { w with todo := b.2, issued := none, got := [] }
  | .spill | .clear => s0
  | _ =>
    let a := readWord s0 w 0
    let b := readWord a.1 w 1
    let s := b.1
    let lo := a.2
    let hi := b.2
    match w.stage with
    | .dt =>
      let v := bit lo 0
      let log2 := fld hi 16 5
      let base := (fld hi 0 16) * 2 ^ 32 + (lo.toNat / 64) * 64
      let w := { w with nak := v && bit lo 1 }
      if !v || 16 < log2 then walkFault s w 3 1 w.addr none
      else if 2 ^ log2 ≤ w.e.ev.toNat then walkFault s w 4 2 (base + 8 * w.e.ev.toNat) none
      else putWalk s { w with stage := .et, addr := base + 8 * w.e.ev.toNat, issued := none, got := [] }
    | .et =>
      if !bit lo 0 then walkFault s w 5 2 w.addr none
      else withIntid s { w with notify := bit lo 1, intid := BitVec.ofNat 24 (fld lo 8 24) }
    | _ =>
      if !bit lo 0 then accessFault s w 8 none
      else match w.kind with
      | .refetch => refetchDone (fillCaches (removeWalk s w.tag) w (some lo)) w.e w.intid w.born lo w.stamp
      | .sweep => sweepWord s w lo
      | _ => retireEvent s { w with issued := none } (some lo)

/-! ## The walker's commands -/

/-- An event joins a walk-blocked event: the count saturates at 15 (R202). -/
def mergeBlocked (b : Blocked) : Blocked := { b with merged := if b.merged = 15 then 15 else b.merged + 1 }

def isBlocked (s : State) (e : SowEvent) : Bool := s.xl.blocked.any fun b => sameKey b.e e
def joinBlocked (s : State) (e : SowEvent) : State :=
  setXl s { s.xl with blocked := s.xl.blocked.map fun b => if sameKey b.e e then mergeBlocked b else b }

/-- An event that needs a walk while its tenant is not master-enabled is parked (R202). -/
def park (s : State) (e : SowEvent) : State :=
  if isBlocked s e then joinBlocked s e
  else if poolFree s = 0 then
    let s := dropCount s cntBLOCKDROP
    let r := tenOf s e.tenant
    setTen s e.tenant { r with c2 := r.c2 + 1 }
  else setXl s { s.xl with blocked := s.xl.blocked ++ [{ e := e }] }

/-- What a lookup leads to. -/
inductive Lookup where
  | deliver (i : Intid) (notify : Bool) (word stamp : Word)
  | owner (i : Intid) (nak : Bool)
  | needWord (t : TransEntry)
  | miss
  deriving DecidableEq, Repr

/-- The lookup of an event (R150, R151, R527). -/
def lookup (s : State) (e : SowEvent) : Lookup :=
  match lookupT s e with
  | none => .miss
  | some t =>
    if isExt t.intid then
      if ownerOf s t.intid ≠ some e.tenant then .owner t.intid t.nak
      else match lookupX s t.intid with
        | some x => .deliver t.intid t.notify x.word x.stamp
        | none => .needWord t
    else .deliver t.intid t.notify 0 t.stamp

/-- A lookup that hits uses its ways (R161). -/
def touchHit (s : State) (e : SowEvent) (i : Intid) : State :=
  let s := match lookupT s e with | some t => touchT s (tSetNo t.part t.e) t.way | none => s
  match lookupX s i with | some x => touchX s (xSetNo i) x.way | none => s

/-- A spill is due for this delivery and no tag is free for it: the event waits (R423). -/
def spillBlocked (s : State) (e : SowEvent) (i : Intid) : Bool :=
  isExt i && decide ((intOf s (ikey 0 i)).st = .inactive) && poolFree s = 0 && spillEn s e.tenant && tenMe s e.tenant &&
  (freeTag s).isNone

/-- A walk for an event takes a tag. -/
def newWalk (s : State) (e : SowEvent) (tag : BitVec 6) (start : WalkStage) (t : Option TransEntry) : State :=
  let w : Walk := { tag := tag, gen := 0, kind := .event, e := e, start := start, stage := start, addr := 0, stamp := 0, born := 0 }
  let w := match t with
    | some t => { w with intid := t.intid, notify := t.notify, nak := t.nak, tStamp := t.stamp }
    | none => w
  let s := allocWalk s w
  match walkAt s tag with
  | some v => beginWalk s v
  | none => s

/-- A walk of the event's key is in flight, so that the event can join it (R150). -/
def joinable (s : State) (e : SowEvent) : Bool := s.xl.walks.any fun w => w.kind = .event && !w.dead && sameKey w.e e

/-- The event joins the walk of its key (R150). -/
def joinWalk (s : State) (e : SowEvent) : State :=
  updWalks s fun ws => ws.map fun w =>
    if w.kind = .event && !w.dead && sameKey w.e e then { w with joined := w.joined ++ [e.link] } else w

/-- An event that needs a walk: parked, joined to the walk of its key, or given a tag; the answer none: it waits for one. -/
def needWalk (s : State) (e : SowEvent) (start : WalkStage) (t : Option TransEntry) : Option State :=
  if !tenMe s e.tenant then some (park s e)
  else if joinable s e then some (joinWalk s e)
  else (freeTag s).map fun tag => newWalk s e tag start t

/-- One event is handled by the walker: the answer none leaves it where it is. A hit that needs its word joins a walk of its
key as a miss does, which keeps events of one key in order (R150, R151, R197; DEDUCED, log 65). -/
def handleEvent (s : State) (e : SowEvent) : Option State :=
  match lookup s e with
  | .owner i nak =>
    let w : Walk := { tag := 0, gen := 0, kind := .event, e := e, start := .xcfg, stage := .xcfg, addr := 0, intid := i,
                      nak := nak, stamp := 0, born := 0 }
    some (faultOne w 7 3 0 none s e)
  | .deliver i notify word stamp =>
    if spillBlocked s e i then none else some (deliver (touchHit s e i) e i notify word stamp)
  | .needWord t => needWalk s e .xcfg (some t)
  | .miss => needWalk s e .dt none

/-- A sow event of a tenant that is not enabled (Table TN-3). -/
def sowDisabled (s : State) (n : Tenant) : State :=
  let s := bump s cntSOWDIS
  let r := tenOf s n
  setTen s n { r with c0 := r.c0 + 1 }

/-- Walk-blocked events that the walker takes ahead of Q-IN (R203). -/
def releasable (s : State) (b : Blocked) : Bool := tenMe s b.e.tenant && tenEnabled s b.e.tenant

/-- WALKER_TAKE: the head of Q-IN (R150). While walk-blocked events are to be released, only one that matches one of them leaves
Q-IN: it joins it (R203). -/
def walkerTake (s : State) : State :=
  match s.xl.qIn with
  | [] => s
  | e :: rest =>
    let q := setXl s { s.xl with qIn := rest }
    if !operating s then s
    else if s.xl.blocked.any (releasable s) then
      if s.xl.blocked.any (fun b => releasable s b && sameKey b.e e) then joinBlocked q e else s
    else if !tenEnabled s e.tenant then sowDisabled q e.tenant
    else match handleEvent s e with
      | none => s
      | some s' => setXl s' { s'.xl with qIn := rest }
def execWalkerTake (s : State) : Out := .next (settle s (walkerTake s))

/-- WALK_BLOCKED_RELEASE: the first walk-blocked event of the tenant (R203). -/
def walkBlockedRelease (s : State) (n : Tenant) : State :=
  if operating s && tenMe s n && tenEnabled s n then
    match s.xl.blocked.find? fun b => b.e.tenant = n with
    | none => s
    | some b =>
      let s1 := setXl s { s.xl with blocked := s.xl.blocked.filter fun c => !sameKey c.e b.e }
      match handleEvent s1 b.e with
      | none => s
      | some s' => s'
  else s
def execWalkBlockedRelease (n : Tenant) (s : State) : Out := .next (settle s (walkBlockedRelease s n))

/-! ## The VC queues (R156, R185, R201, R204, R282) -/

/-- Body of an MRD (Table LP-5). -/
def mrdBody (addr bytes : Nat) (tag : BitVec 6) (gen : BitVec 4) : List Word :=
  [BitVec.ofNat 32 addr, put (addr / 2 ^ 32 % 65536) 0 ||| put (bytes - 1) 16 ||| put tag.toNat 22 ||| put gen.toNat 28]

/-- Body of SETBITS and CLRBITS. -/
def bitsBody (addr first last : Nat) : List Word :=
  [BitVec.ofNat 32 addr, put (addr / 2 ^ 32 % 65536) 0, put first 0 ||| put last 16]

/-- The access is a posted write. -/
def isPost (w : Walk) : Bool := w.stage = .spill || w.stage = .clear

/-- The TLP of the access at hand (R267): a CLRBITS spans the bits re-injected. -/
def walkTlp (w : Walk) : VcTlp :=
  match w.stage with
  | .spill => { type := tySETBITS, grains := 3, fn := w.e.tenant, body := bitsBody w.addr w.bitNo w.bitNo, tag := w.tag }
  | .clear => { type := tyCLRBITS, grains := 3, fn := w.e.tenant, tag := w.tag,
                body := bitsBody w.addr (w.did.headD 0) (w.did.getLastD 0) }
  | .block => { type := tyMRD, grains := 3, fn := w.e.tenant, body := mrdBody w.addr 64 w.tag w.gen, tag := w.tag }
  | _ => { type := tyMRD, grains := 3, fn := w.e.tenant, body := mrdBody w.addr 8 w.tag w.gen, tag := w.tag }

/-- A posted write of the walker has entered the replay buffer: a spill's tag retires, a sweep goes on (Table CQ-1). -/
def postSent (s : State) (tag : BitVec 6) : State :=
  match walkAt s tag with
  | none => s
  | some w =>
    let s := outEnd s w
    if w.kind = .sweep && !w.dead then sweepClose s { w with did := [], issued := none } else removeWalk s tag

/-- The link layer takes a read or a posted write of the walker, where its turn has come (R282). -/
def sendWalker (s : State) (l : Link) : State :=
  let r := linkOf s l
  match nextClass s l with
  | some .read => match r.ll.vnQ with
    | q :: rest =>
      tookRead (pushTlp (setLink s l { r with ll := { r.ll with vnQ := rest } }) l q.type 1 q.grains q.fn q.body none) l
    | [] => s
  | some .post => match r.ll.vpQ with
    | q :: rest =>
      postSent (tookSource (pushTlp (setLink s l { r with ll := { r.ll with vpQ := rest } }) l q.type 0 q.grains q.fn q.body none)
        l 3) q.tag
    | [] => s
  | _ => s

/-- The access enters the VC queue of its link: from here on it is issued (R201). A posted write that has waited is counted
already (R204). -/
def enterVc (s : State) (w : Walk) (l : Link) (chk : Option Nat) : State :=
  let s := if isPost w && w.waits.isSome then s else outAdd s w.e.tenant
  let s := nextSerial (putWalk s { w with issued := some l, waits := none, firstChk := chk, got := [] })
  let r := linkOf s l
  let ll := if isPost w then { r.ll with vpQ := r.ll.vpQ ++ [walkTlp w] } else { r.ll with vnQ := r.ll.vnQ ++ [walkTlp w] }
  sendWalker (setLink s l { r with ll := ll }) l

/-- The access of a walk passes its check: it enters the VC queue, or waits for its link to be ACTIVE (R156, R185, R204). -/
def issueOn (s : State) (w : Walk) (l : Link) : State :=
  let chk := if w.firstChk.isNone then some s.xl.serial else w.firstChk
  if linkActive s l then enterVc s w l chk
  else
    let s := if isPost w && w.waits.isNone then outAdd s w.e.tenant else s
    exitRequest (nextSerial (putWalk s { w with waits := some l, firstChk := chk })) l

/-- A walk that has an access to make now: refetches, spills and sweeps only for an enabled tenant (Table TN-3). -/
def mayIssue (s : State) (w : Walk) : Bool :=
  operating s && w.issued.isNone && !w.dead && tenMe s w.e.tenant && (w.kind = .event || tenEnabled s w.e.tenant) &&
  !(w.stage = .clear && w.did.isEmpty)

/-- WALK_READ_ISSUE (R156, R183 to R186, R527). -/
def walkReadIssue (s : State) (tag : BitVec 6) : State :=
  match walkAt s tag with
  | none => s
  | some w =>
    if mayIssue s w then
      if w.kind = .refetch && ownerOf s w.intid ≠ some w.e.tenant then refetchLost (removeWalk s tag) w.e w.intid
      else match regionCheck s w.e.tenant w.addr with
      | .pass l _ => issueOn s w l
      | .fail code j => accessFault (if isPost w && w.waits.isSome then outEnd s w else s) w code j
    else s
def execWalkReadIssue (tag : BitVec 6) (s : State) : Out := .next (settle s (walkReadIssue s tag))

/-- Data words of a completion, by their number in the read (Table LP-5). -/
def placeWords (t : Tab Word) (n : Nat) : List Word → Tab Word
  | [] => t
  | v :: rest => placeWords (tabPut t n v) (n + 1) rest

/-- WALK_COMPLETION: matched by tag and generation (R158, R201, R281). -/
def walkCompletion (s : State) (l : Link) (tag : BitVec 6) (gen : BitVec 4) (status : BitVec 3) (last : Bool)
    (data : CplData) : State :=
  if linkActive s l && operating s then
    match walkAt s tag with
    | none => bump s cntLATECPL
    | some w =>
      if w.gen = gen && w.issued.isSome && !isPost w then
        let w := { w with got := placeWords w.got (data.off.toNat / 4) data.words }
        if w.dead then
          if last || status ≠ 0 then outEnd (removeWalk s tag) w else s
        else if status ≠ 0 then accessFault (outEnd s w) { w with issued := none } 0x18 none
        else if last then readResult (outEnd s w) w
        else putWalk s w
      else bump s cntLATECPL
  else s
def execWalkCompletion (l : Link) (tag : BitVec 6) (gen : BitVec 4) (status : BitVec 3) (last : Bool)
    (data : CplData) (s : State) : Out :=
  .next (settle s (walkCompletion s l tag gen status last data))

/-- CPL_TIMEOUT (R158, R201). -/
def cplTimeout (s : State) (tag : BitVec 6) : State :=
  match walkAt s tag with
  | none => s
  | some w =>
    if operating s && w.issued.isSome && !isPost w then
      let s := outEnd (bump s cntWALKTMO) w
      if w.dead then removeWalk s tag else accessFault s { w with issued := none } 0x19 none
    else s
def execCplTimeout (tag : BitVec 6) (s : State) : Out := .next (settle s (cplTimeout s tag))

/-- A refetch of the copy is due: it has expired, and no refetch is under way that began after the invalidation that expired it
(R169, R171). -/
def refetchDue (s : State) (i : Intid) (c : XCopy) : Bool :=
  isExt i && c.expired && !c.kept && tenMe s c.owner && tenEnabled s c.owner &&
  !(s.xl.walks.any fun w => w.kind = .refetch && w.intid = i && !w.dead && decide (w.e.tenant = c.owner) &&
     (match c.invBorn with | some b => decide (b ≤ w.born) | none => true))

/-- XCFG_REFETCH: the refetch of an expired copy takes its word from the configuration cache, or a tag, or faults for its owner
(R155 step 8, R171, R427, R527). -/
def xcfgRefetch (s : State) (i : Intid) : State :=
  match (intOf s (ikey 0 i)).copy with
  | none => s
  | some c =>
    let e : SowEvent := { tenant := c.owner, link := 0, dev := 0, ev := 0 }
    if operating s && refetchDue s i c then
      if ownerOf s i ≠ some c.owner then refetchLost s e i
      else match lookupX s i with
      | some x => refetchDone (nextSerial (touchX s (xSetNo i) x.way)) e i s.xl.serial x.word x.stamp
      | none =>
        if 16 ≤ heldBack s then s
        else match freeTag s with
        | none => s
        | some tag =>
          let s := allocWalk s { tag := tag, gen := 0, kind := .refetch, e := e, start := .xcfg, stage := .xcfg, addr := 0,
                                 intid := i, stamp := 0, born := 0 }
          match walkAt s tag with
          | some v => beginWalk s v
          | none => s
    else s
def execXcfgRefetch (i : Intid) (s : State) : Out := .next (settle s (xcfgRefetch s i))

/-- The tenant is to be swept. -/
def wantsSweep (s : State) (n : Tenant) : Bool := (tenOf s n).spill && tenEnabled s n && tenMe s n && spillEn s n

/-- The tenant swept next: in ascending order from the one swept last (R174; log 83). -/
def sweepTurn (s : State) : Option Tenant :=
  ((upTo 256).map fun j => s.xl.swept + 1 + BitVec.ofNat 8 j).find? (wantsSweep s)

/-- A sweep begins: FN_STAT.SPILL is cleared, and its first block is to be read. -/
def sweepStart (s : State) (n : Tenant) (tag : BitVec 6) : State :=
  let s := setXl (setTen s n { tenOf s n with spill := false }) { s.xl with swept := n }
  if blockCount s n = 0 then s
  else allocWalk s { tag := tag, gen := 0, kind := .sweep, e := { tenant := n, link := 0, dev := 0, ev := 0 }, start := .block,
                     stage := .block, addr := blockAddr s n 0, stamp := 0, born := 0 }

/-- The access that a sweep makes next. -/
def sweepAccess (w : Walk) : SweepAccess :=
  match w.stage with
  | .clear => .clear
  | .xcfg => .word
  | _ => .read

/-- SPILL_SWEEP: the sweep of tenant n makes its next access, which the row names, or re-injects what it holds; with no sweep under
way, and 1024 pool entries free, the sweep of the tenant whose turn it is begins, and its first block is read (R174, R427). -/
def spillSweep (s : State) (n : Tenant) (block : Nat) (access : SweepAccess) : State :=
  match sweepNow s with
  | some w =>
    if w.e.tenant ≠ n || w.block ≠ block || sweepAccess w ≠ access then s
    else if operating s && tenMe s w.e.tenant && tenEnabled s w.e.tenant && w.issued.isNone && w.stage = .clear && w.did.isEmpty then
      sweepClose s w
    else walkReadIssue s w.tag
  | none =>
    match sweepTurn s, freeTag s with
    | some m, some tag =>
      if m = n && block = 0 && access = .read && operating s && 1024 ≤ poolFree s && heldBack s < 16 then
        walkReadIssue (sweepStart s n tag) tag
      else s
    | _, _ => s
def execSpillSweep (n : Tenant) (block : Nat) (access : SweepAccess) (s : State) : Out :=
  .next (settle s (spillSweep s n block access))

/-! ## Notes and records -/

/-- The entry without its first entry for the link. -/
def cmpRest (l : Link) : List Note → List Note
  | [] => []
  | n :: r => if n.key.link = l then r else n :: cmpRest l r

/-- An entry leaves Q-CMP; for a notification event Q occurs. -/
def cmpLeave (s : State) (l : Link) (n : Note) : State :=
  let s := setXl s { s.xl with qCmp := cmpRest l s.xl.qCmp }
  match n.id with
  | some id => evQ s n.intid id
  | none => s

/-- NOTE_SEND (R178, R282, R425). -/
def noteSend (s : State) (l : Link) : State :=
  match cmpFirst s l with
  | none => s
  | some n =>
    if nextClass s l = some .note then
      let body := [put n.key.ev.toNat 0 ||| put n.key.dev.toNat 16, put n.intid.toNat 0 ||| putB n.nak 24,
                   put n.code.toNat 0]
      cmpLeave (tookSource (pushTlp s l tyNOTE 0 3 n.key.tenant body none) l 0) l n
    else s
def execNoteSend (l : Link) (s : State) : Out := .next (settle s (noteSend s l))

/-- CMP_TIMEOUT_DROP (R425). -/
def cmpTimeoutDrop (s : State) (l : Link) : State :=
  match cmpFirst s l with
  | none => s
  | some n => if operating s then cmpLeave (dropCount s cntCMPDROP) l n else s
def execCmpTimeoutDrop (l : Link) (s : State) : Out := .next (settle s (cmpTimeoutDrop s l))

/-- The four words of a fault record (Table TW-9). -/
def fltWords (f : FltRec) (loss : BitVec 8) : List Word :=
  [put f.code.toNat 0 ||| put f.tenant.toNat 8 ||| put f.link.toNat 16 ||| putB f.nak 19 ||| put f.stage.toNat 20 |||
     put loss.toNat 24,
   put f.dev.toNat 0 ||| put f.ev.toNat 16,
   f.addr.extractLsb' 0 32,
   (f.addr.extractLsb' 32 16).setWidth 32 ||| put f.region.toNat 16 ||| putB f.rhit 21 ||| put f.hlseq.toNat 24]

/-- The four words of an event record (Table TW-10). -/
def evtWords (e : EvtRec) : List Word :=
  [put e.kind.toNat 0 ||| put e.tenant.toNat 8 ||| put e.link.toNat 16, e.hlseq, e.data.extractLsb' 0 32,
   e.data.extractLsb' 32 32]

/-- A fault record is lost (R177, R201). -/
def loseFault (s : State) (n : Tenant) (l : Link) : State :=
  let s := bump s cntFAULTLOST
  let r := tenOf s n
  let s := setTen s n { r with loss := satInc8 r.loss }
  queueEvt s { kind := 2, tenant := n, link := l, hlseq := s.hl.seq, data := (cntOf s cntFAULTLOST).setWidth 64 }

/-- A 16-byte record write enters the replay buffer, and TAIL advances (R209). -/
def ringWrite (s : State) (v : RingVc) (n : Tenant) (evt : Bool) (ws : List Word) : State :=
  let s := pushTlp s v.link tyMWR 0 5 n (BitVec.ofNat 32 v.addr :: put (v.addr / 2 ^ 32 % 65536) 0 :: ws) (some (evt, n))
  let s := outSub (tookSource s v.link (if evt then 2 else 1)) n
  let g := ringOf s n evt
  setRing s n evt { g with tail := g.tail + 1 }

/-- What becomes of the first record of a queue. -/
inductive RecordStep where
  | lost | waits (l : Link) | queued (v : RingVc) | none
  deriving DecidableEq, Repr

/-- The check of the first record of tenant n's ring (R175, R177, R201, R209). -/
def recordCheck (s : State) (n : Tenant) (evt : Bool) : RecordStep :=
  if !operating s then .none
  else if !tenMe s n || ringFull s n evt then .lost
  else match regionCheck s n (ringSlot s n evt) with
    | .fail _ _ => .lost
    | .pass l _ => if linkActive s l then .queued ⟨l, ringSlot s n evt, s.xl.serial⟩ else .waits l

/-- The record at the head of Q-FLT leaves it. -/
def popFlt (s : State) : State := setXl s { s.xl with qFlt := s.xl.qFlt.drop 1, fltVc := none }
def popEvt (s : State) : State := setXl s { s.xl with qEvt := s.xl.qEvt.drop 1, evtVc := none }

/-- The fault record in the VC queue enters the replay buffer, where its turn has come (R209, R282). -/
def sendFlt (s : State) : State :=
  match s.xl.qFlt, s.xl.fltVc with
  | f :: _, some v =>
    if nextClass s v.link = some .flt then
      let s := ringWrite (popFlt s) v f.tenant false (fltWords f (tenOf s f.tenant).loss)
      setTen s f.tenant { tenOf s f.tenant with loss := 0 }
    else s
  | _, _ => s

/-- The event record in the VC queue enters the replay buffer, where its turn has come. -/
def sendEvt (s : State) : State :=
  match s.xl.qEvt, s.xl.evtVc with
  | e :: _, some v => if nextClass s v.link = some .evt then ringWrite (popEvt s) v 0 true (evtWords e) else s
  | _, _ => s

/-- FAULT_RECORD_WRITE (R175 to R177, R209). -/
def faultRecordWrite (s : State) : State :=
  match s.xl.qFlt, s.xl.fltVc with
  | [], _ => s
  | _, some _ => sendFlt s
  | f :: _, none =>
    match recordCheck s f.tenant false with
    | .lost => loseFault (popFlt s) f.tenant f.link
    | .waits l => exitRequest s l
    | .queued v => sendFlt (outAdd (nextSerial (setXl s { s.xl with fltVc := some v })) f.tenant)
    | .none => s
def execFaultRecordWrite (s : State) : Out := .next (settle s (faultRecordWrite s))

/-- EVENT_RECORD_WRITE (R177, R201, R209). -/
def eventRecordWrite (s : State) : State :=
  match s.xl.qEvt, s.xl.evtVc with
  | [], _ => s
  | _, some _ => sendEvt s
  | _ :: _, none =>
    match recordCheck s 0 true with
    | .lost => bump (popEvt s) cntEVTLOST
    | .waits l => exitRequest s l
    | .queued v => sendEvt (outAdd (nextSerial (setXl s { s.xl with evtVc := some v })) 0)
    | .none => s
def execEventRecordWrite (s : State) : Out := .next (settle s (eventRecordWrite s))

/-! ## Invalidations (R165, R166, R426) -/

/-- The extended INTIDs of a list of ranges. -/
def inRanges (rs : List (Nat × Nat)) (i : Intid) : Bool := isExt i && rs.any fun p => p.1 ≤ i.toNat && i.toNat < p.1 + p.2

/-- What an invalidation covers: translation keys, and extended INTIDs by their ranges (Table TW-6). -/
structure Scope where
  key : SowEvent → Bool
  ext : List (Nat × Nat)

/-- A walk in flight under an invalidation: in scope by its key or by its extended INTID it fills nothing; one whose INTID is not
known yet is judged by the ranges when it is (R166). -/
def scopeWalk (c : Scope) (w : Walk) : Walk :=
  if (w.kind = .event && c.key w.e) || inRanges c.ext w.intid then { w with noFill := true }
  else if w.kind = .event && w.intid = 0 then { w with invs := w.invs ++ c.ext }
  else w

/-- Cache entries go, walks in flight in scope fill nothing, pool copies in scope expire (R166). -/
def applyScope (s : State) (born : Nat) (c : Scope) : State :=
  let s := setXl s { s.xl with
    tcache := s.xl.tcache.filter fun t => !c.key t.e,
    xcache := s.xl.xcache.filter fun x => !inRanges c.ext x.intid,
    walks := s.xl.walks.map (scopeWalk c) }
  foldS (fun s p =>
    match (intOf s p.1).copy with
    | some x => if inRanges c.ext (keyIntid p.1) then
        setInt s p.1 { intOf s p.1 with copy := some { x with expired := true, kept := false, invBorn := some born } }
      else s
    | none => s) s (s.irq.ints.filter fun p => 8192 + 16384 ≤ p.1)

/-- The extended range of a tenant, as it is live. -/
def tenRange (s : State) (n : Tenant) : List (Nat × Nat) := [(tenXBase s n, tenXCount s n)]
def tenantScope (s : State) (n : Tenant) : Scope := ⟨fun e => e.tenant = n, tenRange s n⟩

/-- The scope of a queued request, with the range live as it is served. -/
def reqScope (s : State) (q : InvReq) : Scope :=
  match q.scope.toNat with
  | 0 => tenantScope s q.tenant
  | 1 => ⟨fun e => e.tenant = q.tenant && e.dev = q.dev, []⟩
  | 2 => ⟨fun e => e.tenant = q.tenant && e.dev = q.dev && e.ev = q.ev, []⟩
  | 3 => ⟨fun _ => false, [(q.intid.toNat, 1)]⟩
  | _ => ⟨fun _ => false, tenRange s q.tenant⟩

/-- INVALIDATION_SERVE: a pending invalidation first, then the queue's head (R426). -/
def invalidationServe (s : State) : State :=
  if operating s || s.pw.mode = .safe then
    match s.xl.pend with
    | p :: rest =>
      let s1 := setXl s { s.xl with pend := rest }
      if p.xcfg then applyScope s1 p.born ⟨fun _ => false, p.ranges⟩
      else applyScope s1 p.born (tenantScope s1 p.tenant)
    | [] =>
      match s.xl.inv with
      | q :: rest => applyScope (setXl s { s.xl with inv := rest }) q.born (reqScope s q)
      | [] => s
  else s

/-- A pending invalidation is entered; one of its kind for its tenant merges (R426). `region` tells that R189 enters it. -/
def pendInvalidate (s : State) (n : Tenant) (xcfg : Bool) (ranges : List (Nat × Nat)) (region : Bool) : State :=
  let mark := if region then some s.xl.serial else none
  if s.xl.pend.any fun p => p.tenant = n && p.xcfg = xcfg then
    setXl s { s.xl with serial := s.xl.serial + 1, pend := s.xl.pend.map fun p =>
      if p.tenant = n && p.xcfg = xcfg then { p with ranges := p.ranges ++ ranges, region := if region then mark else p.region }
      else p }
  else setXl s { s.xl with pend := s.xl.pend ++ [{ tenant := n, xcfg := xcfg, ranges := ranges, born := s.xl.serial, region := mark }],
                           serial := s.xl.serial + 1 }

/-! ## Barriers (R168, R191) -/

/-- The conditions of SYNC.DONE for a tenant. DESIGN CHOICE (log 85): an abandoned walk whose read is still outstanding has ended
for this rule, since its data are discarded. -/
def syncReady (s : State) (n : Tenant) (mark : Nat) : Bool :=
  !(s.xl.inv.any fun q => q.tenant = n && q.born < mark) &&
  !(s.xl.pend.any fun p => p.tenant = n && p.born < mark) &&
  !(s.xl.walks.any fun w => w.e.tenant = n && !w.dead && w.born < mark && (w.kind = .event || w.kind = .refetch)) &&
  !(s.irq.ints.any fun p => match p.2.copy with
    | some c => c.owner = n && c.expired && tenMe s n && tenEnabled s n &&
        (match c.invBorn with | some b => b < mark | none => false)
    | none => false)

/-- SYNC_DONE. -/
def syncDone (s : State) (n : Tenant) : State :=
  let r := tenOf s n
  if !r.syncDone && syncReady s n r.syncMark then setTen s n { r with syncDone := true } else s
def execSyncDone (n : Tenant) (s : State) : Out := .next (settle s (syncDone s n))

/-- The conditions of REGION_SYNC.DONE: accesses and walks with a check before the barrier, ring writes among them, and the
invalidations of R189. -/
def regionReady (s : State) : Bool :=
  !(s.xl.walks.any fun w => match w.firstChk with | some b => b < s.xl.rsMark | none => false) &&
  !(([s.xl.fltVc, s.xl.evtVc]).any fun v => match v with | some v => v.born < s.xl.rsMark | none => false) &&
  !(s.xl.pend.any fun p => match p.region with | some b => b < s.xl.rsMark | none => false)

end Sys2Proof.Machine
end

