-- ==== Sys2Proof/Machine/Tenants.lean ====
section
/-!
DEFINITION. Machine/Tenants.lean: the tenant pages and what hosts do to them, master enable, disable, reset, rings and
quiescence (chapters 07, 09 and 21).
-/
namespace Sys2Proof.Machine

/-! ## Master enable and disable (R199, R201) -/

/-- Every walk-blocked event of a tenant is freed and counted once (R199, R206). -/
def freeBlocked (s : State) (n : Tenant) : State :=
  let mine := s.xl.blocked.filter fun b => b.e.tenant = n
  bumpN (setXl s { s.xl with blocked := s.xl.blocked.filter fun b => b.e.tenant ≠ n }) cntDISCARD mine.length

/-- A walk leaves its tag, unless it waits for a read or a posted write that a VC queue holds (R201). -/
def leaveWalk (s : State) (w : Walk) : State :=
  let s := if w.issued.isNone && isPost w && w.waits.isSome then outSub s w.e.tenant else s
  if w.issued.isSome then putWalk s { w with dead := true } else removeWalk s w.tag

/-- The bits that a sweep holds for memory, as events. -/
def heldSpills (s : State) (w : Walk) : List (SowEvent × Intid) := w.extra.map fun j => (w.e, sweptIntid s w j)

/-- A walk of a tenant that loses its master enable (R201): its events are parked as one, a spill is dropped, a refetch is
deferred; a sweep ends and what it leaves is swept later (log 83). An access in a VC queue goes on. -/
def abandonWalk (s : State) (w : Walk) : State :=
  match w.kind with
  | .event => foldS park (leaveWalk s w) (walkEvents w)
  | .spill =>
    if w.issued.isSome then s
    else foldS (fun s e => poolDrop s e.tenant e.link w.intid none) (leaveWalk s w) (walkEvents w)
  | .refetch => leaveWalk s w
  | .sweep =>
    foldS (fun s p => poolDrop s p.1.tenant p.1.link p.2 none) (markSpill (leaveWalk s w) w.e.tenant) (heldSpills s w)

/-- The walks of a tenant that are not abandoned yet. -/
def liveWalks (s : State) (n : Tenant) : List Walk := s.xl.walks.filter fun w => w.e.tenant = n && !w.dead

/-- Every walk of the tenant is abandoned; of a tenant that is not enabled the events are freed (R201, R202, R206). -/
def abandonAll (s : State) (n : Tenant) : State :=
  let s1 := foldS abandonWalk s (liveWalks s n)
  if tenEnabled s1 n then s1 else freeBlocked s1 n

/-- Event D on every INTID of the tenant, with the recalls it flags (R199). -/
def discardInts (s : State) (n : Tenant) : State :=
  wiredRecalls (foldS (fun s p => if ownerOf s (keyIntid p.1) = some n then evD s p.1 else s) s s.irq.ints)

/-- What a walk of a tenant that is disabled may not issue any more: a refetch, a spill or a sweep. The events it holds are
discarded (R199, Table TN-3; log 86). -/
def dropUnissued (s : State) (w : Walk) : State :=
  match w.kind with
  | .event => s
  | .refetch => if w.issued.isSome then s else leaveWalk s w
  | .spill => if w.issued.isSome then s else bumpN (leaveWalk s w) cntDISCARD (walkEvents w).length
  | .sweep => bumpN (leaveWalk s w) cntDISCARD w.extra.length

/-- The commit that disables a tenant (R199). -/
def disableTenant (s : State) (n : Tenant) : State :=
  let s := freeBlocked (discardInts s n) n
  let s := foldS dropUnissued s (liveWalks s n)
  setTen s n { tenOf s n with spill := false }

/-! ## Tenant reset (R206, R207) -/

/-- FLR or FRESET: while a reset is pending a further one has no effect. -/
def tenantReset (s : State) (n : Tenant) : State :=
  let r := tenOf s n
  if r.resetPend then s
  else
    let s := setTen s n { r with resetPend := true, stepDue := r.quiesced }
    freeBlocked (abandonAll s n) n

/-- The walker's posted writes of a tenant leave the VC-P queue of a link unsent, each with its tag; a spilled event goes
with its write (R207; log 86). -/
def dropQueued (n : Tenant) (s : State) (l : Link) : State :=
  let r := linkOf s l
  let mine := r.ll.vpQ.filter fun q => q.fn = n
  let s := setLink s l { r with ll := { r.ll with vpQ := r.ll.vpQ.filter fun q => q.fn ≠ n } }
  foldS (fun s q => match walkAt s q.tag with
    | some w =>
      if w.kind = .spill then foldS (fun s e => poolDrop s e.tenant e.link w.intid none) (removeWalk s q.tag) (walkEvents w)
      else removeWalk s q.tag
    | none => s) s mine

/-- A record write of the tenant in a VC-P queue is removed: the record is lost (R177, R207). -/
def dropRecords (s : State) (n : Tenant) : State :=
  let s := match s.xl.qFlt, s.xl.fltVc with
    | f :: _, some _ => if f.tenant = n then loseFault (popFlt s) n f.link else s
    | _, _ => s
  if n = 0 && s.xl.evtVc.isSome then bump (popEvt s) cntEVTLOST else s

/-- RESET_FORCED: the 2 ms limit (R207). A read that is still outstanding lowers nothing when it ends. -/
def resetForced (s : State) (n : Tenant) : State :=
  let r := tenOf s n
  if r.resetPend && !r.stepDue then
    let s := dropRecords (foldS (dropQueued n) (bump s cntRSTFORCED) allLinks) n
    let s := updWalks s fun ws => ws.map fun w => if w.e.tenant = n then { w with forced := true } else w
    setTen s n { tenOf s n with outstanding := 0, stepDue := true }
  else s
def execResetForced (n : Tenant) (s : State) : Out := .next (settle s (resetForced s n))

/-- The tenant has come to rest: its effective master enable is 0 and nothing is outstanding (R204). -/
def atRest (s : State) (n : Tenant) : Bool := !tenMe s n && (tenOf s n).outstanding = 0 && !(tenOf s n).quiesced

/-- TENANT_QUIESCED (R204, R205): a tenant has come to rest, and with it every other that has in this CCLK. -/
def tenantQuiesced (s : State) (n : Tenant) : State := if atRest s n then quiesceAll s else s
def execTenantQuiesced (n : Tenant) (s : State) : Out := .next (settle s (tenantQuiesced s n))

/-- The fields a reset returns to 0, shadow and live (Table TN-4). -/
def defaultKeys (n : Tenant) : List Nat :=
  [0x4, 0x10, 0x14, 0x18, 0x1C, 0x20, 0x24, 0x80, 0x84].map (pageKey n.toNat)

def zeroBoth (s : State) (k : Nat) : State := setLive (setShadow s k 0) k 0

/-- The default step (R207, Table TN-4). -/
def defaultStep (s : State) (n : Tenant) : State :=
  let s := freeBlocked (discardInts s n) n
  let k := tabKey 4 n.toNat 0 0
  let s := setLive (setShadow s k (shadowAt s k &&& ~~~1)) k (liveAt s k &&& ~~~1)
  let s := foldS zeroBoth s (defaultKeys n)
  let r := tenOf s n
  let s := setTen s n { r with resetPend := false, stepDue := false, quiesced := true, outstanding := 0, spill := false,
                               token := 0, syncDone := true, fault := {}, event := {} }
  pendInvalidate s n false [] false

/-! ## The page, read (Table TP-14, TP-15) -/

/-- FN_STAT (Table TP-15). -/
def fnStat (s : State) (n : Tenant) : Word :=
  let r := tenOf s n
  putB (tenEn s n) 0 ||| putB (tenMe s n) 1 ||| putB r.resetPend 2 ||| putB r.quiesced 3 ||| putB r.spill 4 |||
  put (r.outstanding % 128) 8

/-- A page word as an RRD returns it (R461). -/
def pageRead (s : State) (n : Tenant) (off : Nat) : Word :=
  let r := tenOf s n
  if off = 0x8 then fnStat s n
  else if off = 0x28 then r.fault.head.setWidth 32
  else if off = 0x2C then r.fault.tail.setWidth 32
  else if off = 0x40 then r.invKey
  else if off = 0x44 then r.invXid.setWidth 32
  else if off = 0x50 then r.token.setWidth 32 ||| putB r.syncDone 31
  else if n = 0 && off = 0x88 then r.event.head.setWidth 32
  else if n = 0 && off = 0x8C then r.event.tail.setWidth 32
  else if off = 0xFFC then n.setWidth 32 ||| 0x6256B000
  else shadowAt s (pageKey n.toNat off) &&& pageHl n.toNat off

/-! ## Page writes -/

/-- An HL-class word takes the enabled bytes in its shadow; a write that touches a field sets DIRTY (R116, R118). Fields
of a feature held off ignore it (R351). -/
def shadowMerge (s : State) (k : Nat) (hl0 : Word) (mask data : Word) : State :=
  let hl := hl0 &&& ~~~(featOff s k)
  if hl &&& mask = 0 then s
  else
    let s := setShadow s k (mergeMask (hl &&& mask) (shadowAt s k) data)
    { s with hl := { s.hl with dirty := true } }

/-- Low 16 bits of a word merged by byte enables. -/
def merge16 (be : BE) (old : BitVec 16) (data : Word) : BitVec 16 :=
  (mergeMask (beMask be) (old.setWidth 32) data).setWidth 16

/-- An ignored pointer write is counted in the tenant's COUNTERS entry (R211). -/
def ringBad (s : State) (n : Tenant) : State :=
  let r := tenOf s n
  setTen s n { r with c3 := r.c3 + 1 }

/-- A write of HEAD (R211). -/
def headWrite (s : State) (n : Tenant) (evt : Bool) (be : BE) (data : Word) : State :=
  if be.extractLsb' 0 2 = 0 then s
  else
    let g := ringOf s n evt
    let h := merge16 be g.head data
    if (g.tail - h).toNat ≤ 2 ^ ringLog2 s n evt then setRing s n evt { g with head := h } else ringBad s n

/-- A write of TAIL (R211). -/
def tailWrite (s : State) (n : Tenant) (evt : Bool) (be : BE) (data : Word) : State :=
  if be.extractLsb' 0 2 = 0 then s
  else
    let g := ringOf s n evt
    if (tenOf s n).quiesced then setRing s n evt { g with tail := merge16 be g.tail data } else ringBad s n

/-- A write of SYNC (R168, R464): DONE stays 1 when nothing earlier is unfinished. -/
def syncStore (s : State) (n : Tenant) (be : BE) (data : Word) : State :=
  if be.extractLsb' 0 2 = 3 then
    let m := s.xl.serial
    setTen s n { tenOf s n with token := data.setWidth 16, syncMark := m, syncDone := syncReady s n m }
  else s

/-- The invalidation a write of INV requests, if it is a good one (R165, R463). -/
def invRequest (s : State) (fn : Tenant) (be : BE) (data : Word) : Option InvReq :=
  let scope : BitVec 4 := data.setWidth 4
  let n : Tenant := if fn = 0 then data.extractLsb' 8 8 else fn
  let r := tenOf s fn
  if !be.getLsbD 0 || (fn = 0 && !be.getLsbD 1) || 4 < scope.toNat then none
  else if scope = 3 && !inXRange s n r.invXid then none
  else some { tenant := n, scope := scope, dev := r.invKey.extractLsb' 16 16, ev := r.invKey.setWidth 16,
              intid := r.invXid, born := s.xl.serial }

/-- Applies a posted write that passed its check. The answer none: it waits for Q-IN or the invalidation queue
(R149, R166). -/
def applyWrite (s : State) (l : Link) (w : PWrite) : Option State :=
  let n := w.fn
  let off := w.off.toNat
  let mask := beMask w.be
  if off = 0 then
    if !tenEnabled s n then some (sowDisabled s n)
    else if 2048 ≤ s.xl.qIn.length then none
    else some (setXl s { s.xl with
      qIn := s.xl.qIn ++ [{ tenant := n, link := l, dev := w.data.extractLsb' 16 16, ev := w.data.setWidth 16 }] })
  else if off = 0x48 then
    match invRequest s n w.be w.data with
    | none => some (bump s cntINVBAD)
    | some q =>
      if 32 ≤ s.xl.inv.length then none
      else some (setXl s { s.xl with inv := s.xl.inv ++ [q], serial := s.xl.serial + 1 })
  else if off = 0x4 then
    let s := shadowMerge s (pageKey n.toNat 4) 1 mask w.data
    some (if bit (w.data &&& mask) 8 then tenantReset s n else s)
  else if off = 0x28 || off = 0x88 then some (headWrite s n (off = 0x88) w.be w.data)
  else if off = 0x2C || off = 0x8C then some (tailWrite s n (off = 0x8C) w.be w.data)
  else if off = 0x40 then some (setTen s n { tenOf s n with invKey := mergeMask mask (tenOf s n).invKey w.data })
  else if off = 0x44 then
    some (setTen s n { tenOf s n with
      invXid := (mergeMask mask ((tenOf s n).invXid.setWidth 32) w.data).setWidth 24 })
  else if off = 0x50 then some (syncStore s n w.be w.data)
  else some (shadowMerge s (pageKey n.toNat off) (pageHl n.toNat off) mask w.data)

/-- The tenant is bound to the link (R195, R280 step 2). -/
def bound (s : State) (l : Link) (n : Tenant) : Bool := bit (tenLinks s n) l.toNat

/-- A refused access is counted and recorded for the provider (R280). -/
def accessRefused (s : State) (l : Link) (n : Tenant) (off : BitVec 12) (rd : Bool) : State :=
  accessError (bump s cntACCESS) l n off rd

/-- The checks of R280 on a posted write, then its effect. A sow write that breaks R148 is counted twice over. -/
def decodeWrite (s : State) (l : Link) (w : PWrite) : Option State :=
  if !bound s l w.fn then some (accessRefused s l w.fn w.off false)
  else if !pageExists w.fn.toNat w.off.toNat then some (accessRefused s l w.fn w.off false)
  else if w.off = 0 && w.be ≠ 15 then some (accessRefused (bump s cntSOWBAD) l w.fn w.off false)
  else applyWrite s l w

def setWait (s : State) (l : Link) (ws : List PWrite) : State :=
  let r := linkOf s l
  setLink s l { r with ll := { r.ll with vpWait := ws } }

/-- A malformed TLP is counted (R270, R280). -/
def countMalformed (s : State) (l : Link) : State :=
  let r := linkOf s l
  setLink s l { r with malformed := r.malformed + 1 }

/-- A VC-P TLP at the head of its buffer is dealt with; the answer none: it waits. -/
def takeWrite (s : State) (l : Link) (w : PWrite) : Option State :=
  if w.malformed then some (countMalformed s l) else decodeWrite s l w

/-- A sow write that enters Q-IN when it is dealt with (R148, R149, R197, R280). -/
def sowEnters (s : State) (l : Link) (w : PWrite) : Bool :=
  !w.malformed && w.off = 0 && w.be = 15 && bound s l w.fn && pageExists w.fn.toNat 0 && tenEnabled s w.fn

/-- A sow write waits for Q-IN at the head of a link's buffer. -/
def sowWaits (s : State) (l : Link) : Bool :=
  match (linkOf s l).ll.vpWait with
  | w :: _ => sowEnters s l w
  | [] => false

/-- The link admitted next, in turn (R149). -/
def admitTurn (s : State) : Option Link :=
  ((upTo 8).map fun j => s.xl.lastAdmit + 1 + BitVec.ofNat 3 j).find? fun l => sowWaits s l

/-- A VC-P TLP leaves the receive buffer of its link, or waits in it: behind what waits there, for its turn at Q-IN, for Q-IN
or for the invalidation queue (R149, R275, R278). -/
def postedWrite (s : State) (l : Link) (w : PWrite) : State :=
  if operating s && linkActive s l then
    let ws := (linkOf s l).ll.vpWait
    if !ws.isEmpty || (sowEnters s l w && (admitTurn s).isSome) then setWait s l (ws ++ [w])
    else match takeWrite s l w with
      | some s' => freeRx s' l 0 w.grains
      | none => setWait s l [w]
  else s

/-- What waits at the head of a buffer and needs no turn at Q-IN is dealt with, in order. -/
def drainWait (s : State) (l : Link) : Nat → State
  | 0 => s
  | n + 1 =>
    match (linkOf s l).ll.vpWait with
    | [] => s
    | w :: rest =>
      if sowEnters s l w then s
      else match takeWrite s l w with
        | some s' => drainWait (freeRx (setWait s' l rest) l 0 w.grains) l n
        | none => s

/-- SOW_ADMIT (R149, R278): the sow write at the head of the link's buffer enters Q-IN, where it has the turn; one whose tenant
is no longer enabled needs none. -/
def sowAdmit (s : State) (l : Link) : State :=
  let ws := (linkOf s l).ll.vpWait
  if operating s then
    match ws with
    | [] => s
    | w :: rest =>
      if !sowEnters s l w then drainWait s l ws.length
      else if admitTurn s = some l then
        match takeWrite s l w with
        | some s' =>
          let s' := setXl s' { s'.xl with lastAdmit := l }
          drainWait (freeRx (setWait s' l rest) l 0 w.grains) l rest.length
        | none => s
      else s
  else s
def execSowAdmit (l : Link) (s : State) : Out := .next (settle s (sowAdmit s l))

/-- Space in the invalidation queue admits what waits for it, link by link (R166). -/
def drainInv (s : State) : State := foldS (fun s l => drainWait s l (linkOf s l).ll.vpWait.length) s allLinks

/-- INVALIDATION_SERVE (R166, R426). -/
def execInvalidationServe (s : State) : Out := .next (settle s (drainInv (invalidationServe s)))

/-! ## The commands of a host -/

/-- A posted write of a host arrives (R278) and is dealt with in order. -/
def hostWrite (s : State) (l : Link) (fn : Tenant) (off : BitVec 12) (be : BE) (data : Word) : State :=
  postedWrite (arrive s l 0 3) l { fn := fn, off := off, be := be, data := data }

def execSowWrite (l : Link) (fn : Tenant) (be : BE) (data : Word) (s : State) : Out :=
  .next (settle s (hostWrite s l fn 0x0 be data))
def execInvWrite (l : Link) (fn : Tenant) (be : BE) (data : Word) (s : State) : Out :=
  .next (settle s (hostWrite s l fn 0x48 be data))
def execSyncWrite (l : Link) (fn : Tenant) (be : BE) (data : Word) (s : State) : Out :=
  .next (settle s (hostWrite s l fn 0x50 be data))
/-- FLR: a write of 1 to FN_CTL.FLR, byte 1 enabled (R206). -/
def execFlr (l : Link) (fn : Tenant) (s : State) : Out :=
  .next (settle s (hostWrite s l fn 0x4 2 0x100))
def execRingHeadWrite (l : Link) (fn : Tenant) (evt : Bool) (be : BE) (data : Word) (s : State) : Out :=
  .next (settle s (hostWrite s l fn (if evt then 0x88 else 0x28) be data))
def execRingTailWrite (l : Link) (fn : Tenant) (evt : Bool) (be : BE) (data : Word) (s : State) : Out :=
  .next (settle s (hostWrite s l fn (if evt then 0x8C else 0x2C) be data))

/-- A malformed TLP is counted and its grains are freed on the VC its header names (R270, R280); one of VC-P in its order
(R275). -/
def malformedTlp (s : State) (l : Link) (vc g : Nat) : State :=
  if vc = 0 then postedWrite s l { fn := 0, off := 0, be := 0, data := 0, malformed := true, grains := g }
  else countMalformed (freeRx s l vc g) l

/-- RWR (R280). -/
def rwr (s : State) (l : Link) (fn : Tenant) (off : BitVec 12) (be : BE) (data : Word) (malformed : Bool) : State :=
  postedWrite s l { fn := fn, off := off, be := be, data := data, malformed := malformed }
def execRwr (l : Link) (fn : Tenant) (off : BitVec 12) (be : BE) (data : Word) (malformed : Bool) (s : State) : Out :=
  .next (settle s (rwr (arrive s l 0 3) l fn off be data malformed))

/-- Body of a CPL for an RRD: one data word, or none with its status (Table LP-5, R281). -/
def cplBody (rtag : BitVec 8) (status : Nat) (data : Option Word) : List Word :=
  match data with
  | some d => [put rtag.toNat 0 ||| put status 10 ||| putB true 13 ||| put 1 20, d]
  | none => [put rtag.toNat 0 ||| put status 10 ||| putB true 13]

/-- A completion is built, behind those that wait; it enters the replay buffer as soon as its turn comes (R282). Its request's
grains are freed (R278). -/
def sendCpl (s : State) (l : Link) (fn : Tenant) (rtag : BitVec 8) (status : Nat) (data : Option Word) : State :=
  let s := freeRx s l 1 2
  let r := linkOf s l
  let s := setLink s l { r with ll := { r.ll with cplQ := r.ll.cplQ ++ [put fn.toNat 0 :: cplBody rtag status data] } }
  if nextClass s l = some .cpl then sendWaitingCpl s l else s

/-- RRD (R280, R461). -/
def rrd (s : State) (l : Link) (fn : Tenant) (off : BitVec 12) (rtag : BitVec 8) (malformed : Bool) : State :=
  if operating s && linkActive s l then
    if malformed then sendCpl (countMalformed s l) l fn rtag 1 none
    else if !bound s l fn then sendCpl (accessRefused s l fn off true) l fn rtag 2 none
    else if !pageExists fn.toNat off.toNat then sendCpl (accessRefused s l fn off true) l fn rtag 1 none
    else sendCpl s l fn rtag 0 (some (pageRead s fn off.toNat))
  else s
def execRrd (l : Link) (fn : Tenant) (off : BitVec 12) (rtag : BitVec 8) (malformed : Bool) (s : State) : Out :=
  .next (settle s (rrd (arrive s l 1 2) l fn off rtag malformed))

end Sys2Proof.Machine
end

