-- ==== Sys2Proof/Machine/Timebase.lean ====
section
/-!
DEFINITION. Machine/Timebase.lean: the frame count, FSYNC qualification, loss and re-alignment (chapter 05, R105 to R112).
-/
namespace Sys2Proof.Machine

/-- The timebase counts: it has started and RCLK is valid (R105, R326). -/
def tbRuns (s : State) : Bool := s.tb.started && s.pw.pllLocked

/-- The modes in which FSYNC is acted on (R320, R486). -/
def fsyncActs (s : State) : Bool :=
  tbRuns s && decide (s.tb.mode ≠ .free) && decide (s.pw.mode ≠ .reset) && decide (s.pw.mode ≠ .shutdown) &&
  decide (s.pw.mode ≠ .test)

def lostN (s : State) : Nat := atLeastOne (fld (regImm s 0x100) 8 8)
/-- RESYNC_N; 0 and 1 act as 2 (R111). -/
def resyncN (s : State) : Nat := max 2 (fld (regImm s 0x100) 16 4)

def setTb (s : State) (t : Timebase) : State := { s with tb := t }

/-- The flag of Table HL-1 with its cause: 1 LOST, 2 STEP. -/
def tbFlag (s : State) (cause : BitVec 2) : State := house (setTb s { s.tb with cause := cause }) hFSYNC

/-- The loss is flagged once, when MISS reaches LOST_N in FLYWHEEL. DESIGN CHOICE (log 75): with LOST_N lowered below MISS
it is flagged at the next missed frame. -/
def tbLoss (s : State) : State :=
  if lostN s ≤ s.tb.miss.toNat && !s.tb.lossFlagged then
    tbFlag (setTb s { s.tb with lossFlagged := true }) 1
  else s

/-- What the end of a frame with no accepted edge does (Table HL-1, R109). -/
def tbMissed (s : State) : State :=
  match s.tb.mode with
  | .free => s
  | .acquire => setTb s { s.tb with miss := satInc8 s.tb.miss, nextLen := 77760 }
  | .locked => tbLoss (setTb s { s.tb with mode := .flywheel, miss := 1, lossFlagged := false })
  | .flywheel => tbLoss (setTb s { s.tb with miss := satInc8 s.tb.miss })

/-- A frame ends with no accepted edge. DESIGN CHOICE (log 73): one that a step ends counts in MISS as every such frame does
(R109), and the state stays what the step made it (R110). -/
def tbUnaccepted (s : State) : State :=
  if s.tb.stepEnd then setTb s { s.tb with miss := satInc8 s.tb.miss } else tbMissed s

/-- FRAME_BOUNDARY (R105, R113): a headland that is due comes first. -/
def frameBoundary (s : State) : State :=
  if tbRuns s && 0 < s.hl.left then
    let s := if s.tb.accepted then s else tbUnaccepted s
    { setTb s { s.tb with phase := 0, len := s.tb.nextLen, frame := s.tb.frame + 1, accepted := false, stepEnd := false } with
      hl := { s.hl with left := s.hl.left - 1 }, stew := { s.stew with frames := s.stew.frames + 1 } }
  else s
def execFrameBoundary (s : State) : Out := .next (settle s (frameBoundary s))

/-- The clamp of R108. -/
def slew (d : Int) : Nat := if d ≤ -2 then 77758 else if d = -1 then 77759 else if d = 0 then 77760 else if d = 1 then 77761 else 77762

/-- FSYNC_EDGE_IN_WINDOW (R107, R108, Table HL-1). -/
def fsyncIn (s : State) (d : Int) : State :=
  if fsyncActs s && !s.tb.accepted && decide (-128 ≤ d) && decide (d ≤ 128) then
    setTb s { s.tb with mode := .locked, accepted := true, nextLen := slew d, err := BitVec.ofInt 9 d, miss := 0, run := 0,
                        lossFlagged := false }
  else s
def execFsyncEdgeInWindow (d : Int) (s : State) : Out := .next (settle s (fsyncIn s d))

/-- The step of R110 at frame phase p: it ends the frame at once, or a whole frame later. The edge that completes the run is
no accepted edge. -/
def tbStep (s : State) (p : Nat) : State :=
  let flag := decide (s.tb.mode ≠ .acquire)
  let t := { s.tb with mode := .locked, run := 0, nextLen := 77760, lossFlagged := false }
  let s := setTb s (if 38880 ≤ p then { t with len := p, phase := p, stepEnd := true } else { t with len := p + 77760, phase := p })
  if flag then tbFlag s 2 else s

/-- FSYNC_EDGE_OUT_OF_WINDOW: `p` is the frame phase at the arrival, `gap` the CCLK since the edge before (R109, R110). -/
def fsyncOut (s : State) (p gap : Nat) : State :=
  if fsyncActs s && 128 < p && p + 128 < s.tb.len then
    let s := bump s cntFSYNCOOW
    let spaced := 77632 ≤ gap && gap ≤ 77888
    let run := if 0 < s.tb.run && spaced then s.tb.run + 1 else 1
    let s := setTb s { s.tb with run := run }
    if resyncN s ≤ run then tbStep s p else s
  else s
def execFsyncEdgeOutOfWindow (p gap : Nat) (s : State) : Out := .next (settle s (fsyncOut s p gap))

/-- A change of TB_CTL.SRC (R106, Table HL-1): to the pin, ACQUIRE; to the divider, FREE with frames of 77,760 CCLK.
DESIGN CHOICE (log 74): the frame in progress keeps its length. -/
def tbSource (s : State) (old new : Bool) : State :=
  if old = new then s
  else if new then setTb s { s.tb with mode := .acquire, run := 0 }
  else setTb s { s.tb with mode := .free, nextLen := 77760, run := 0, accepted := false, lossFlagged := false }

end Sys2Proof.Machine
end

