-- ==== Sys2Proof/Machine/Wired.lean ====
section
/-!
DEFINITION. Machine/Wired.lean: the wired inputs and their glitch filter (R523 to R525).
-/
namespace Sys2Proof.Machine

def wiredW0 (s : State) (n : Nat) : Word := tabLive s 8 n 0 0
def wiredPol (s : State) (n : Nat) : Bool := bit (wiredW0 s n) 30
def wiredFilt (s : State) (n : Nat) : Nat := fld (tabLive s 8 n 0 1) 0 8

/-- The synchronised level of an input, read under its live POL: true is active. -/
def wiredLevel (s : State) (n : Nat) : Bool := xor (s.irq.wPin.getLsbD n) (wiredPol s n)

def putBit96 (v : BitVec 96) (n : Nat) (b : Bool) : BitVec 96 :=
  if b then v ||| (1#96 <<< n) else v &&& ~~~(1#96 <<< n)

/-- The filter runs while CCLK does and the input is read: SAFE, the operating modes and LAST-GASP (R338, R491). -/
def filterRuns (s : State) : Bool := operating s || s.pw.mode = .safe || s.pw.mode = .lastGasp

/-- A transition passes (R523): the filtered level follows, and the INTID takes its event in the operating modes. -/
def wiredPass (s : State) (n : Nat) : State :=
  let v := wiredLevel s n
  let s := { s with irq := { s.irq with wFilt := putBit96 s.irq.wFilt n v, wTran := putBit96 s.irq.wTran n false } }
  let i : Intid := BitVec.ofNat 24 (32 + n)
  if operating s then
    if v then evT s (ikey 0 i) none
    else if srcEdge s 0 i then s
    else evF s (ikey 0 i)
  else s

/-- A transition is detected or cancelled; with F = 0 it passes in its detection CCLK (R523). -/
def wiredDetect (s : State) (n : Nat) : State :=
  if wiredLevel s n = s.irq.wFilt.getLsbD n then { s with irq := { s.irq with wTran := putBit96 s.irq.wTran n false } }
  else
    let s := { s with irq := { s.irq with wTran := putBit96 s.irq.wTran n true, wSince := tabSet s.irq.wSince 0 n s.now } }
    if wiredFilt s n = 0 then wiredPass s n else s

/-- WIRQ_TRANSITION: the level at pin n, after its synchroniser, becomes `level` (R523). -/
def wirqTransition (s : State) (n : Nat) (level : Bool) : State :=
  if filterRuns s && n < 96 then
    wiredDetect { s with irq := { s.irq with wPin := putBit96 s.irq.wPin n level } } n
  else s
def execWirqTransition (n : BitVec 7) (level : Bool) (s : State) : Out :=
  .next (settle s (wirqTransition s n.toNat level))

/-- WIRQ_FILTER_PASS: the transition being filtered has held for F CCLK. -/
def wirqFilterPass (s : State) (n : Nat) : State :=
  if filterRuns s && n < 96 && s.irq.wTran.getLsbD n then wiredPass s n else s
def execWirqFilterPass (n : BitVec 7) (s : State) : Out := .next (settle s (wirqFilterPass s n.toNat))

/-- The transition being filtered has held for the F now live, counted from its detection (R524). -/
def wiredHeld (s : State) (n : Nat) : Bool := wiredFilt s n ≤ s.now - tabGet s.irq.wSince 0 n

/-- What a commit does to wired input n, whose entry words were `w0` and `w1` before it (R524, R525). -/
def wiredCommit (s : State) (n : Nat) (w0 w1 : Word) : State :=
  let i : Intid := BitVec.ofNat 24 (32 + n)
  let s := if bit w0 30 ≠ wiredPol s n then wiredDetect s n
    else if fld w1 0 8 ≠ wiredFilt s n && s.irq.wTran.getLsbD n && wiredHeld s n then wiredPass s n
    else s
  if bit w0 29 && !bit (wiredW0 s n) 29 && s.irq.wFilt.getLsbD n && operating s then evT s (ikey 0 i) none else s

/-- WOUT k in SAFE (R339). -/
def woutSafe (s : State) (k : Nat) : Bool :=
  bit (regLive s 0x1280) k &&
  (upTo 6).any fun j =>
    let n := 6 * k + j
    s.irq.wFilt.getLsbD n && !wMasked s (BitVec.ofNat 24 (32 + n))

end Sys2Proof.Machine
end

