-- ==== Sys2Proof/Machine/Training.lean ====
section
/-!
DEFINITION. Machine/Training.lean: link down, the lines of a link, the handshakes, training passes, regroups and rate changes
(chapter 11), with the equalisers (chapter 10).
-/
namespace Sys2Proof.Machine

def setLl (s : State) (l : Link) (f : LinkLayer → LinkLayer) : State :=
  let r := linkOf s l
  setLink s l { r with ll := f r.ll }

/-- A link that is down trains only while the Steward runs (R330). -/
def stewardRuns (s : State) : Bool := s.stew.fw ≠ .none && !s.pw.stwDown

def lkEvt (s : State) (l : Link) (f : BitVec 24) : State := sqSet s (lkEvtOff l) f

/-- Every lane of a link is changed alike. -/
def mapLanes (s : State) (l : Link) (f : LaneRec → LaneRec) : State :=
  foldS (fun s p => setLane s l p (f (laneOf s l p))) s (upTo 4)

/-! ## Receive masks (R245, R247) -/

/-- The physical lanes with grain lock, as a list and as a mask. -/
def lockedList (s : State) (l : Link) : List Nat := (upTo 4).filter fun p => (laneOf s l p).lock
def maskOf (ps : List Nat) : BitVec 4 := ps.foldl (fun m p => m ||| (1#4 <<< p)) 0
def lockedLanes (s : State) (l : Link) : BitVec 4 := maskOf (lockedList s l)

/-- Bits of a mask by physical lane, moved to their logical lanes; the same map leads back. -/
def toLogical (rev : Bool) (m : BitVec 4) : BitVec 4 := maskOf ((members m).map (logical rev))

/-- The vote of R245 for an orientation: locked lanes whose lane field is the one it gives them. -/
def voters (s : State) (l : Link) (rev : Bool) : List Nat :=
  (lockedList s l).filter fun p => (laneOf s l p).lfield.toNat = logical rev p

/-- The orientation with more votes; a tie is normal. -/
def orientation (s : State) (l : Link) : Bool := (voters s l false).length < (voters s l true).length

/-- RXMASK in ALIGN: the voters for the orientation that trail by no more than 12 grains, by logical lane. -/
def alignMask (s : State) (l : Link) : BitVec 4 :=
  let rev := orientation s l
  toLogical rev (maskOf ((voters s l rev).filter (deskewed s l (lockedList s l) 12)))

/-- In ALIGN the mask follows the lanes; once READY it only loses lanes. -/
def refreshAlign (s : State) (l : Link) : State :=
  let r := linkOf s l
  setLink s l { r with rxMask := alignMask s l &&& (if r.hs.ready then r.hs.frozen else 15) }

/-! ## Link down and failed passes (R250, R258) -/

/-- The lanes of a link fall silent: nothing is received or sent that began before. -/
def dropLanes (s : State) (l : Link) : State :=
  mapLanes s l fun a => { toSearch a with buf := [], run := {}, fifo := [], count := 0, tx := {} }

/-- The receivers search again; the transmitters keep their MARK sequence. -/
def searchLanes (s : State) (l : Link) : State := mapLanes s l fun a => { toSearch a with buf := [], fifo := [] }

/-- A ring record that the replay buffer of a link still holds is lost (R431, Table CQ-5). -/
def loseRing (l : Link) (s : State) (t : Tlp) : State :=
  match t.ring with
  | some (false, n) => loseFault s n l
  | some (true, _) => bump s cntEVTLOST
  | none => s

/-- Every read outstanding on the link faults (R156); the tag of an abandoned walk is freed. -/
def faultReads (s : State) (l : Link) : State :=
  foldS (fun s w =>
    let s := outEnd s w
    if w.dead then removeWalk s w.tag else accessFault s { w with issued := none } 0x13 none) s
    (s.xl.walks.filter fun w => w.issued = some l && !isPost w)

/-- A posted write of the walker in the link's VC queue is discarded (R258): a spilled event is counted (Table CQ-5); the bits
of a CLRBITS stay set, so that they are swept again. -/
def dropPost (s : State) (w : Walk) : State :=
  let s := outEnd s w
  if w.kind = .spill then foldS (fun s _ => dropCount s cntPOOLDROP) (removeWalk s w.tag) (walkEvents w)
  else if w.dead then removeWalk s w.tag
  else sweepClose (markSpill s w.e.tenant) { w with did := [], issued := none }

/-- The posted writes in the link's VC queues are discarded, ring records among them (R177, R258). -/
def dropPosts (s : State) (l : Link) : State :=
  let s := foldS dropPost s (s.xl.walks.filter fun w => w.issued = some l && isPost w)
  let s := match s.xl.qFlt, s.xl.fltVc with
    | f :: _, some v => if v.link = l then loseFault (outSub (popFlt s) f.tenant) f.tenant f.link else s
    | _, _ => s
  match s.xl.evtVc with
  | some v => if v.link = l then bump (outSub (popEvt s) 0) cntEVTLOST else s
  | none => s

/-- Q-CMP entries of the link are dropped and counted (R425). -/
def dropNotes (s : State) (l : Link) : State :=
  foldS (fun s n => cmpLeave (dropCount s cntCMPDROP) l n) s (s.xl.qCmp.filter fun n => n.key.link = l)

/-- A link record as DOWN begins with its hold-off. -/
def downRec (r : LinkRec) : LinkRec :=
  { r with st := .down, holdoff := true, ll := {}, hs := {}, rxMask := 0, rgRate := none, entry := none, exitStep := 0, lastPoll := 0 }

/-- A link reset clears the counters of LK_CNT0 to LK_CNT2 (R444, Table MD-2). -/
def clearCounts (r : LinkRec) : LinkRec :=
  { r with crcErr := 0, nakCnt := 0, replays := 0, malformed := 0, idleEnt := 0, fallEnt := 0, entFail := 0, exitFail := 0 }

/-- A link leaves ACTIVE, REGROUP or a power state for DOWN (R258, R312). -/
def goDown (s : State) (l : Link) : State :=
  let s := house (lkEvt s l 8) hLINKDOWN
  let s := revertLink s l
  let lost := (linkOf s l).ll.replay
  let s := setLink s l (clearCounts (downRec (linkOf s l)))
  let s := foldS (loseRing l) s lost
  let s := dropNotes (dropPosts (faultReads (dropLanes s l) l) l) l
  arbSettle s (dropReq (freeGrant s (exitClient l)) (exitClient l))

/-- The link layer declares its link failed (R274). -/
def linkFail (s : State) (l : Link) (cause : BitVec 3) : State :=
  goDown (setLink s l { linkOf s l with failCause := cause }) l

/-- The rate a pass or a rate change attempts. -/
def attempted (r : LinkRec) : BitVec 2 := match r.rgRate with | some x => x | none => r.agreedRate

/-- A training pass fails (R250). -/
def failPass (s : State) (l : Link) : State :=
  let r := linkOf s l
  let late := r.st = .rate || r.st = .clockAtRate || r.st = .alignAtRate
  let n := if late then r.rateFails + 1 else 0
  let next := max 1 (r.agreedRate.toNat - 1)
  let cap := if n = 2 && next < r.rateCap.toNat then BitVec.ofNat 2 next else r.rateCap
  let s := lkEvt s l 16
  dropLanes (setLink s l { downRec r with fails := satInc8 r.fails, rateFails := if n = 2 then 0 else n, rateCap := cap }) l

/-- A step of a rate change fails (R257): the link goes down, and the lower rate becomes the cap. -/
def failRate (s : State) (l : Link) : State :=
  let r := linkOf s l
  let low := min (attempted r).toNat r.rgRate0.toNat
  goDown (setLink s l { r with rateCap := BitVec.ofNat 2 (min low r.rateCap.toNat) }) l

/-- An exit fails (R312): the link goes down, and the failure is counted in that CCLK. -/
def failExit (s : State) (l : Link) : State :=
  let t := goDown s l
  setLink t l { linkOf t l with exitFail := (linkOf t l).exitFail + 1 }

/-- The link is in a rate change after GO, or in an exit from FALLOW (R257, R311). -/
def inRateSteps (r : LinkRec) : Bool := r.st = .rate || r.st = .clockAtRate || r.st = .alignAtRate
def inTraining (r : LinkRec) : Bool :=
  match r.st with
  | .detect | .clock | .align | .order | .caps => true
  | .rate | .clockAtRate | .alignAtRate => r.rgRate.isNone && r.exitStep = 0
  | _ => false

/-! ## Groups and regroups (R249, R252 to R255, R259) -/

/-- The groups of R249 are taken under a cap, from the part's frozen mask and the far end's last one. -/
def takeGroups (r : LinkRec) (cap : Nat) : Option LinkRec :=
  match widthIn cap r.hs.frozen r.farMask with
  | none => none
  | some w => some { r with width := BitVec.ofNat 2 w, txGroup := groupIn w r.farMask, rxGroup := groupIn w r.hs.frozen }

/-- R259: NARROWED for any way of reaching ACTIVE; WIDENED and RATE_CHG only after a regroup or rate change. -/
def reachEvents (s : State) (l : Link) (training : Bool) : State :=
  let r := linkOf s l
  let narrow := r.width.toNat < capWidth s l r || (match chosenRate s l r with | some c => r.rate.toNat < c | none => false)
  let f : BitVec 24 :=
    (if narrow then 1 else 0) ||| (if !training && r.rgWidth0 < r.width then 2 else 0) |||
    (if !training && r.rgRate0 ≠ r.rate then 4 else 0)
  let s := if f = 0 then s else lkEvt s l f
  if narrow then house s hNARROW else s

/-- A regroup starts (R253): the link layer stops, what the transmit FIFOs hold is discarded for replay, what is incomplete at
the receiver is discarded (R255), and TP2 begins on every lane; `rate` for a rate change (R257). -/
def startRegroup (s : State) (l : Link) (cap : Nat) (rate : Option (BitVec 2)) : State :=
  let r := linkOf s l
  beginIntervals (setLink s l { r with
    st := .regroup, rgCap := BitVec.ofNat 2 cap, rgRate := rate, rgWidth0 := r.width, rgRate0 := r.rate, entry := none, hs := {},
    ll := { r.ll with out := [], frame := [] } }) l

/-- A lane of the receive group has lost lock (R252, case 1). -/
def groupBroken (r : LinkRec) : Bool := r.rxGroup &&& ~~~r.rxMask ≠ 0

/-- A link that reaches ACTIVE with a lane of its group lost meanwhile regroups at once (Table LB-8). -/
def regroupAgain (s : State) (l : Link) : State :=
  let r := linkOf s l
  if r.st = .active && groupBroken r then startRegroup s l r.width.toNat none else s

/-- Replay from the oldest TLP held, with the striping and the framing begun anew (R246, R255, R273). -/
def resume (r : LinkRec) : LinkRec :=
  { r with st := .active, rgRate := none, hs := {},
           ll := { r.ll with hunt := false, rpl := r.ll.replay, out := [], frame := [], txK := 0, rxK := 0 },
           replays := if r.ll.replay.isEmpty then r.replays else r.replays + 1 }

/-- A regroup or rate change ends (R249, R255, R259). -/
def regroupEnds (s : State) (l : Link) : State :=
  let r := linkOf s l
  match takeGroups r r.rgCap.toNat with
  | none => if r.rgRate.isSome then failRate s l else goDown s l
  | some r =>
    let r := { r with rate := match r.rgRate with | some x => x | none => r.rate }
    regroupAgain (reachEvents (activeMarks (setLink s l (resume r)) l 0) l false) l

/-! ## Reaching ACTIVE by training (R248, R268, R276) -/

/-- CAP1 of the far end obeys R276. -/
def creditsOk (c : BitVec 64) : Bool :=
  let ok := fun lo => 8 ≤ (c.extractLsb' lo 12).toNat && (c.extractLsb' lo 12).toNat ≤ 2047
  ok 8 && ok 20 && c.extractLsb' 32 12 = 0xFFF && ok 44

/-- A fresh link layer with the far end's initial credit (R268, R276). -/
def freshLl (c : BitVec 64) : LinkLayer :=
  { p := { init := (c.extractLsb' 8 12).toNat }, n := { init := (c.extractLsb' 20 12).toNat },
    i := { init := (c.extractLsb' 44 12).toNat } }

/-- The last training step ends: ACTIVE by training, or a pass that fails for want of a group. -/
def enterActive (s : State) (l : Link) : State :=
  let r := linkOf s l
  match takeGroups r r.agreedWidth.toNat with
  | none => failPass s l
  | some r =>
    let r := { r with st := .active, rate := r.agreedRate, fails := 0, rateFails := 0, hs := {}, ll := freshLl r.far1 }
    let s := reachEvents (activeMarks (setLink s l r) l 0) l true
    if creditsOk r.far1 then regroupAgain s l else linkFail s l 4

/-! ## Equalisers (R236 to R238) -/

def laneEq (s : State) (l : Link) (p : Nat) : Word := tabLive s 9 (l.toNat * 4 + p) 0 0

/-- A training of the lane begins: it takes the MODE that is live now (R236). -/
def takeMode (s : State) (l : Link) (p : Nat) : State := setLane s l p { laneOf s l p with fixed := bit (laneEq s l p) 0 }
def takeModes (s : State) (l : Link) : State := foldS (fun s p => takeMode s l p) s (upTo 4)

/-- The peaking of a training: what adaptation found, or PEAK in fixed mode and under the ROM-default LMC (R236, R238). -/
def trainPeak (s : State) (l : Link) (p : Nat) (found : BitVec 4) : BitVec 4 :=
  if (laneOf s l p).fixed || s.stew.lmcPair.isNone then BitVec.ofNat 4 (fld (laneEq s l p) 8 4) else found

def takePeak (s : State) (l : Link) (p : Nat) (found : BitVec 4) : State :=
  setLane s l p { laneOf s l p with peakNow := trainPeak s l p found }

def takePeaks (s : State) (l : Link) (peaks : BitVec 16) : State :=
  foldS (fun s p => takePeak s l p (peaks.extractLsb' (4 * p) 4)) s (upTo 4)

/-! ## The lines of a link -/

/-- A lane has lost lock (R245, R256, Table LB-8): it leaves RXMASK; in ACTIVE its training begins anew. -/
def lockGone (s : State) (l : Link) (p : Nat) : State :=
  let r := linkOf s l
  let out := setLink s l { r with rxMask := r.rxMask &&& ~~~(1#4 <<< logical r.reversed p) }
  match r.st with
  | .align => refreshAlign s l
  | .active => takeMode out l p
  | .order | .caps | .alignAtRate | .regroup => out
  | _ => s

/-- A grain of the step at hand: what the far end says in it (R244). -/
def noteShake (s : State) (l : Link) (g : Grain) : State :=
  let r := linkOf s l
  setLink s l { r with hs := { r.hs with got := true, farReady := r.hs.farReady || g.getLsbD 4, farGo := r.hs.farGo || g.getLsbD 5 } }

/-- STEP 0xA or 0xB. -/
def isRegroupStep (n : Nat) : Bool := n = 10 || n = 11

/-- An accepted training grain (R242): the far mask follows it; it is of the step at hand, or begins a regroup (R252). -/
def trainingGrainIn (s : State) (l : Link) (g : Grain) : State :=
  if !trainingGrainOk g then s
  else
    let r := linkOf s l
    let n := (g.extractLsb' 0 4).toNat
    let s := setLink s l { r with farMask := g.extractLsb' 8 4 }
    if r.st = .active then
      if isRegroupStep n then noteShake (startRegroup s l r.width.toNat none) l g else s
    else if inTp2 r && (n = stepCode r || (r.st = .regroup && isRegroupStep n)) then noteShake s l g
    else s

/-- The lane that capabilities are taken from: the lowest one in the mask that has lock. -/
def capLane (s : State) (l : Link) : Option Nat :=
  let r := linkOf s l
  (lockedList s l).find? fun p => r.rxMask.getLsbD (logical r.reversed p)

/-- An interval of TP3 has the five copies of three capability grains. -/
def capsAgree (iv : List Grain) : Bool :=
  let g := fun n => iv.getD n 0
  iv = [g 0, g 1, g 2, g 0, g 1, g 2, g 0, g 1, g 2, g 0, g 1, g 2, g 0, g 1, g 2] &&
  (g 0).extractLsb' 0 4 = 5 && (g 1).extractLsb' 0 4 = 6 && (g 2).extractLsb' 0 4 = 7

/-- A TP3 interval ends (R248): the second of two whose copies agree gives the far end's capabilities. -/
def closeCaps (s : State) (l : Link) : State :=
  let r := linkOf s l
  let h := r.hs
  let g := fun n => h.capIv.getD n 0
  if capsAgree h.capIv then
    let same := (g 2).extractLsb' 8 2 = r.agreedRate && (g 2).extractLsb' 10 2 = r.agreedWidth
    let h := { h with farReady := h.farReady || (g 0).getLsbD 22, farGo := h.farGo || (h.go && (g 0).getLsbD 23 && same) }
    let h := if h.capOk then { h with capHeld := true, cap0 := g 0, cap1 := g 1, cap2 := g 2 } else h
    setLink s l { r with farMask := (g 0).extractLsb' 24 4, hs := { h with capIv := [], capOk := true } }
  else setLink s l { r with hs := { h with capIv := [], capOk := false } }

/-- What a receiver passes on: a MARK, or a grain that is no traffic. -/
def grainEvent (l : Link) (p : Nat) (s : State) (ev : Option Grain) : State :=
  if (linkOf s l).st = .caps then
    if capLane s l = some p then
      match ev with
      | none => closeCaps s l
      | some g =>
        let r := linkOf s l
        setLink s l { r with hs := { r.hs with capIv := (r.hs.capIv ++ [g]).take 16 } }
    else s
  else match ev with
  | none => s
  | some g => trainingGrainIn s l g

/-- The step of a receiver, with what it means to its link. -/
def laneStepped (l : Link) (p : Nat) (s : State) (b : LaneRec) (ev : List (Option Grain)) : State :=
  let was := (laneOf s l p).lock
  let s := foldS (grainEvent l p) (setLane s l p b) ev
  if was && !b.lock then lockGone s l p
  else if !was && b.lock && (linkOf s l).st = .align then refreshAlign s l
  else s

/-- A receiver goes on as far as its line bits reach. -/
def laneGo (l : Link) (p : Nat) : Nat → State → State
  | 0, s => s
  | n + 1, s =>
    match laneStep (laneOf s l p) with
    | none => s
    | some (b, ev) => laneGo l p n (laneStepped l p s b ev)

/-- Line bits arrive at a receiver; of a search without result the bits that a run could still begin in are kept. -/
def laneFeed (s : State) (l : Link) (p : Nat) (bits : List Bool) : State :=
  let a := laneOf s l p
  let a := { a with buf := a.buf ++ (if a.sync = .search then bits else bits.map (xor a.inv)), count := a.count + bits.length }
  let s := laneGo l p (a.buf.length + 1) (setLane s l p a)
  let b := laneOf s l p
  if b.sync = .search then setLane s l p { b with buf := b.buf.drop (b.buf.length - 98) } else s

/-- The states in which the part receives grains: from ALIGN on, and in IDLE. -/
def receives (r : LinkRec) : Bool :=
  match r.st with
  | .align | .order | .caps | .alignAtRate | .active | .regroup | .idle => true
  | _ => false

/-- Physical lanes of the receive group. -/
def rxLanes (r : LinkRec) : List Nat := (members r.rxGroup).map (logical r.reversed)

/-- In ACTIVE a lane of the group that trails by more than 24 grains loses lock (R247). -/
def deskewGroup (s : State) (l : Link) : State :=
  if (linkOf s l).st = .active then
    let among := rxLanes (linkOf s l)
    foldS (fun s p =>
      if (laneOf s l p).lock && !deskewed s l among 24 p then lockGone (setLane s l p (toSearch (laneOf s l p))) l p else s) s among
  else s

/-- Line bits arrive on the lanes of the detected set; the count of line bits goes on alike on every lane, since they arrive in
the same time. -/
def lineIn (s : State) (l : Link) (lines : Lines) : State :=
  let n := (lines.map List.length).foldl max 0
  let s := foldS (fun s p =>
    if operating s && receives (linkOf s l) && (linkOf s l).detected.getLsbD p then
      let bits := lines.getD p []
      let s := laneFeed s l p bits
      setLane s l p { laneOf s l p with count := (laneOf s l p).count + (n - bits.length) }
    else s) s (upTo 4)
  deskewGroup s l

/-- Line bits arrive on one lane. -/
def laneIn (s : State) (l : Link) (p : Nat) (bits : List Bool) : State := lineIn s l (List.replicate p [] ++ [bits])

/-! ## The handshakes (R244, R248) -/

/-- The part's own result for the step is final (R244). DEDUCED (log 87): in ALIGN_AT_RATE as in ALIGN, for the lanes it trains. -/
def stepFinal (s : State) (l : Link) (late : Bool) : Bool :=
  let r := linkOf s l
  let locked := lockedLanes s l
  match r.st with
  | .align => r.detected &&& ~~~locked = 0 || (late && locked ≠ 0)
  | .order | .regroup => true
  | .alignAtRate =>
    let need := if 0 < r.exitStep then r.rxGroup else r.rxMask
    need &&& ~~~(toLogical r.reversed locked) = 0 || (late && r.exitStep = 0 && locked ≠ 0)
  | _ => false

/-- The mask that READY freezes: in ALIGN_AT_RATE the lanes that have lock again and do not trail (R247). -/
def finalMask (s : State) (l : Link) : BitVec 4 :=
  let r := linkOf s l
  if r.st = .alignAtRate then
    r.rxMask &&& toLogical r.reversed (maskOf ((lockedList s l).filter (deskewed s l (lockedList s l) 12)))
  else r.rxMask

/-- READY and GO of the part in a step with training grains. -/
def shakeTp2 (s : State) (l : Link) (late : Bool) : State :=
  let r := linkOf s l
  let r := if r.hs.got && !r.hs.ready && stepFinal s l late then
      { r with rxMask := finalMask s l, hs := { r.hs with ready := true, frozen := finalMask s l } }
    else r
  setLink s l { r with hs := { r.hs with go := r.hs.go || (r.hs.ready && r.hs.farReady && r.hs.sentReady) } }

/-- GO of the part in CAPS, with the rate and the width it chooses; with no rate or no group GO stays clear (R248). -/
def shakeCaps (s : State) (l : Link) : State :=
  let r := linkOf s l
  if r.hs.capHeld && r.hs.farReady && !r.hs.go then
    let q := { r with far0 := r.hs.cap0 }
    match chosenRate s l q, widthIn (capWidth s l q) r.rxMask r.farMask with
    | some rate, some w =>
      setLink s l { r with agreedRate := BitVec.ofNat 2 rate, agreedWidth := BitVec.ofNat 2 w, hs := { r.hs with go := true } }
    | _, _ => s
  else s

def shake (s : State) (l : Link) (late : Bool) : State :=
  let r := linkOf s l
  if inTp2 r then shakeTp2 s l late else if r.st = .caps then shakeCaps s l else s

/-! ## Training (R243 to R248) -/

/-- The next step, with its own handshake; the interval that is being sent is sent to its end. -/
def enterStep (r : LinkRec) (st : LinkState) : LinkRec := { r with st := st, hs := { latch := r.hs.latch } }

/-- A step with TP2 begins after TP1: the receivers search, and MARKs begin (R241). -/
def beginTp2 (s : State) (l : Link) : State :=
  beginIntervals (searchLanes (setLink s l { linkOf s l with st := .alignAtRate, hs := {} }) l) l

/-- ALIGN ends: the orientation is taken (R245). -/
def alignExit (s : State) (l : Link) : State :=
  let r := linkOf s l
  setLink s l { enterStep r .order with reversed := orientation s l }

/-- CAPS ends: the far end's capabilities are loaded (R444), and the lanes fall silent in RATE. -/
def capsExit (s : State) (l : Link) : State :=
  let r := linkOf s l
  searchLanes (setLink s l { enterStep r .rate with far0 := r.hs.cap0, far1 := r.hs.cap1, far2 := r.hs.cap2 }) l

/-- ALIGN_AT_RATE ends: training or the rate change is done (R257). -/
def alignRateExit (s : State) (l : Link) : State :=
  if (linkOf s l).rgRate.isSome then regroupEnds s l else enterActive s l

/-- REGROUP ends, or a rate change goes on to RATE. -/
def regroupExit (s : State) (l : Link) : State :=
  let r := linkOf s l
  if r.rgRate.isSome then searchLanes (setLink s l (enterStep r .rate)) l else regroupEnds s l

/-- The step at hand ends, where its exit condition is met (Table LB-4). -/
def stepExit (s : State) (l : Link) (info : TrainInfo) : State :=
  let r := linkOf s l
  match r.st with
  | .clock =>
    if r.detected &&& ~~~info.good = 0 then
      let s := beginTp2 (takePeaks s l info.peaks) l
      setLink s l { linkOf s l with st := .align }
    else s
  | .align => if r.hs.sentGo then alignExit s l else s
  | .order => if r.hs.sentGo then setLink s l (enterStep r .caps) else s
  | .caps => if r.hs.go && r.hs.farGo then capsExit s l else s
  | .rate => takeModes (setLink s l { r with st := .clockAtRate }) l
  | .clockAtRate =>
    if r.exitStep = 0 && toLogical r.reversed r.rxMask &&& ~~~info.good = 0 then beginTp2 (takePeaks s l info.peaks) l else s
  | .alignAtRate => if r.exitStep = 0 && r.hs.sentGo then alignRateExit s l else s
  | .regroup => if r.hs.sentGo then regroupExit s l else s
  | _ => s

/-- TRAINING_STEP_EXIT: what the lines bring is taken, the handshake goes on, and the step ends if it may. -/
def trainingStepExit (s : State) (l : Link) (info : TrainInfo) : State :=
  if linkEn s l then stepExit (shake (lineIn s l info.lines) l info.late) l info else s
def execTrainingStepExit (l : Link) (info : TrainInfo) (s : State) : Out := .next (settle s (trainingStepExit s l info))

/-- TRAINING_STEP_TIMEOUT (R243, R257). In DETECT the limit runs from the first poll that found the far end. -/
def trainingStepTimeout (s : State) (l : Link) : State :=
  let r := linkOf s l
  if !operating s then s
  else if inTraining r then (if r.st = .detect && r.detected = 0 then s else failPass s l)
  else if inRateSteps r && r.rgRate.isSome then failRate s l
  else s
def execTrainingStepTimeout (l : Link) (s : State) : Out := .next (settle s (trainingStepTimeout s l))

/-- DETECT begins. -/
def enterDetect (r : LinkRec) : LinkRec := { r with holdoff := false, st := .detect, detected := 0, lastPoll := 0 }

/-- DETECT_POLL (Table LB-4). -/
def detectPoll (s : State) (l : Link) (mask : BitVec 4) : State :=
  let r := linkOf s l
  if linkEn s l && r.st = .detect then
    if mask ≠ 0 && mask = r.lastPoll then takeModes (setLink s l { r with st := .clock, detected := mask, lastPoll := 0 }) l
    else setLink s l { r with lastPoll := mask, detected := if mask = 0 then r.detected else mask }
  else s
def execDetectPoll (l : Link) (mask : BitVec 4) (s : State) : Out := .next (settle s (detectPoll s l mask))

/-- TRAIN_HOLDOFF_END (R250, R258, R330). -/
def trainHoldoffEnd (s : State) (l : Link) : State :=
  let r := linkOf s l
  if operating s && r.st = .down && r.holdoff then
    if !linkEn s l then setLink s l { r with holdoff := false }
    else if stewardRuns s then setLink s l (enterDetect r)
    else s
  else s
def execTrainHoldoffEnd (l : Link) (s : State) : Out := .next (settle s (trainHoldoffEnd s l))

/-- ELECTRICAL_IDLE_SEEN (R251). -/
def electricalIdleSeen (s : State) (l : Link) : State :=
  let r := linkOf s l
  if !operating s then s
  else match r.st with
  | .clock | .align | .order | .caps => failPass s l
  | .clockAtRate | .alignAtRate =>
    if r.exitStep ≠ 0 then failExit s l else if r.rgRate.isSome then failRate s l else failPass s l
  | .active | .regroup => goDown s l
  | _ => s
def execElectricalIdleSeen (l : Link) (s : State) : Out := .next (settle s (electricalIdleSeen s l))

/-! ## Lanes (R228, R232, R237, R256) -/

/-- Adaptation runs with this lock: in training, and on a lane outside the receive group (R236, R256); not in an exit from FALLOW. -/
def adapts (r : LinkRec) (p : Nat) : Bool :=
  match r.st with
  | .align => true
  | .alignAtRate => r.exitStep = 0
  | .active | .regroup => !(rxLanes r).contains p
  | _ => false

/-- GRAIN_LOCK: the line brings what leads up to two MARKs, the first with what follows it, and the second; a lane that reaches grain lock has the result of its adaptation in PEAK_NOW (R228,
R236). -/
def grainLock (s : State) (l : Link) (p : Nat) (peak : BitVec 4) (bits : List Bool) : State :=
  let r := linkOf s l
  let t := laneIn s l p bits
  if !(laneOf s l p).lock && (laneOf t l p).lock && adapts r p then takePeak t l p peak else t
def execGrainLock (l : Link) (lane : BitVec 2) (peak : BitVec 4) (lead c1 c2 : List Bool) (s : State) : Out :=
  .next (settle s (grainLock s l lane.toNat peak (lead ++ c1 ++ c2)))

/-- LANE_LOCK_LOSS (R232, R256): a group that has lost a lane is regrouped by REGROUP_START. -/
def laneLockLoss (s : State) (l : Link) (p : Nat) (cause : LockLossCause) : State :=
  match cause with
  | .cdrLoss =>
    let a := laneOf s l p
    if operating s && a.lock then lockGone (setLane s l p { toSearch a with buf := [] }) l p else s
  | .line bits => laneIn s l p bits
def execLaneLockLoss (l : Link) (lane : BitVec 2) (cause : LockLossCause) (s : State) : Out :=
  .next (settle s (laneLockLoss s l lane.toNat cause))

/-- LANE_READMIT (R256): 64 good MARKs in a row since lock. -/
def laneReadmit (s : State) (l : Link) (p : Nat) : State :=
  let r := linkOf s l
  let a := laneOf s l p
  if operating s && r.st = .active && a.lock && 64 ≤ a.good && r.detected.getLsbD p && a.lfield.toNat = logical r.reversed p then
    setLink s l { r with rxMask := r.rxMask ||| (1#4 <<< logical r.reversed p) }
  else s
def execLaneReadmit (l : Link) (lane : BitVec 2) (s : State) : Out := .next (settle s (laneReadmit s l lane.toNat))

/-- EQUALISER_TRACKING (R237, R238): by 1, in the grain that follows a good MARK. -/
def equaliserTracking (s : State) (l : Link) (p : Nat) (up : Bool) : State :=
  let a := laneOf s l p
  if operating s && linkActive s l && a.lock && a.track && !a.fixed && bit (laneEq s l p) 1 && feat s 6 && s.stew.lmcPair.isSome then
    setLane s l p { a with track := false,
                           peakNow := if up then (if a.peakNow = 15 then 15 else a.peakNow + 1)
                             else (if a.peakNow = 0 then 0 else a.peakNow - 1) }
  else s
def execEqualiserTracking (l : Link) (lane : BitVec 2) (up : Bool) (s : State) : Out :=
  .next (settle s (equaliserTracking s l lane.toNat up))

/-! ## Regroups (R252 to R257) -/

/-- REGROUP_START: case 1 of R252, with CAP the width in force. -/
def regroupStart (s : State) (l : Link) : State := if operating s then regroupAgain s l else s
def execRegroupStart (l : Link) (s : State) : Out := .next (settle s (regroupStart s l))

/-- REGROUP_GRAIN_RECEIVED (R242, R252 case 2): the far end's grain is answered, and its mask is taken. -/
def regroupGrain (s : State) (l : Link) (lines : Lines) : State := shake (lineIn s l lines) l false
def execRegroupGrainReceived (l : Link) (lines : Lines) (s : State) : Out := .next (settle s (regroupGrain s l lines))

/-- REGROUP_TIMEOUT (R253). -/
def regroupTimeout (s : State) (l : Link) : State :=
  if operating s && (linkOf s l).st = .regroup then goDown s l else s
def execRegroupTimeout (l : Link) (s : State) : Out := .next (settle s (regroupTimeout s l))

/-- LINK_DOWN (R258): with what the lines bring, no group of any width remains. The other causes of R258 act with what
brings them: a commit, RETRAIN, the link layer, electrical idle, a failed regroup. -/
def linkDown (s0 : State) (l : Link) (lines : Lines) : State :=
  let s := lineIn s0 l lines
  let r := linkOf s l
  if operating s && (r.st = .active || r.st = .regroup) && (widthIn 2 r.rxMask r.farMask).isNone then goDown s l else s
def execLinkDown (l : Link) (lines : Lines) (s : State) : Out := .next (settle s (linkDown s l lines))

/-- LK_CTL.RETRAIN (R250, R258): RATE_CAP returns to the top rate. -/
def doRetrain (s : State) (l : Link) : State :=
  if operating s then
    let r := linkOf s l
    let s := setLink s l { clearCounts r with rateCap := 3 }
    if linkIsDown r then (if inTraining r then dropLanes (setLink s l (downRec (linkOf s l))) l else s)
    else goDown s l
  else s

/-- A commit on a link that is ACTIVE (R252): a rate change, with the width in force unless that must change too, or a
regroup (R257, Table LB-8); no rate takes the link down. -/
def commitActive (s : State) (l : Link) (r : LinkRec) : State :=
  match chosenRate s l r with
  | none => goDown s l
  | some c =>
    let moved : Bool := match widthIn (capWidth s l r) r.rxMask r.farMask with
      | some w => decide (w ≠ r.width.toNat)
      | none => false
    let cap := if moved then capWidth s l r else r.width.toNat
    if c ≠ r.rate.toNat then startRegroup s l cap (some (BitVec.ofNat 2 c))
    else if moved then startRegroup s l cap none
    else s

/-- A commit during a regroup (Table LB-8): READY = 0 with the new CAP, and the handshake restarts. DEDUCED (log 87): the rate
follows as well. -/
def commitRegroup (s : State) (l : Link) (r : LinkRec) : State :=
  match chosenRate s l r with
  | none => goDown s l
  | some c =>
    setLink s l { enterStep r .regroup with rgCap := BitVec.ofNat 2 (capWidth s l r),
                                            rgRate := if c ≠ r.rate.toNat then some (BitVec.ofNat 2 c) else none }

/-- What a commit does to a link whose LK_CTL was `old` (R240, R250, R252, R258, R260). -/
def linkCommit (s : State) (l : Link) (old : Word) : State :=
  if !operating s then s
  else
    let s := if fld old 8 2 ≠ fld (lkCtl s l) 8 2 then setLink s l { linkOf s l with rateCap := 3 } else s
    let r := linkOf s l
    if !bit (lkCtl s l) 0 then
      if !linkIsDown r then goDown s l
      else if inTraining r then dropLanes (setLink s l { downRec r with holdoff := false }) l
      else s
    else match r.st with
    | .down => if r.holdoff then s
      else if stewardRuns s then setLink s l (enterDetect r) else setLink s l { r with holdoff := true }
    | .active => commitActive s l r
    | .regroup => commitRegroup s l r
    | .rate | .clockAtRate | .alignAtRate => if r.rgRate.isSome && (chosenRate s l r).isNone then goDown s l else s
    | _ => s

/-- What a commit does to a lane whose LANE_EQ word was `old` (R236, R238). -/
def laneCommit (s : State) (idx : Nat) (old : Word) : State :=
  let w := tabLive s 9 idx 0 0
  let l : Link := BitVec.ofNat 3 (idx / 4)
  let a := laneOf s l (idx % 4)
  if fld old 8 4 ≠ fld w 8 4 && (a.fixed || s.stew.lmcPair.isNone) then
    setLane s l (idx % 4) { a with peakNow := BitVec.ofNat 4 (fld w 8 4) }
  else s

end Sys2Proof.Machine
end

