-- ==== Sys2Proof/Machine/Links.lean ====
section
/-!
DEFINITION. Machine/Links.lean: the power states of a link (chapter 14), acknowledgement, replay and credit, and the packets that
arrive (chapter 12).
-/
namespace Sys2Proof.Machine

/-! ## Power states (R306 to R313) -/

def lkPwr (s : State) (l : Link) : Word := regLive s (0xC04 + 0x40 * l.toNat)

/-- The conditions of R307 on the state; the quiet time is the command's. -/
def entryReady (s : State) (l : Link) : Bool :=
  let r := linkOf s l
  operating s && r.st = .active && r.entry.isNone && bit (lkPwr s l) 0 && r.far2.getLsbD 12 && r.ll.replay.isEmpty &&
  !lcpDue r.ll && (qDlv s l).isEmpty && (flaggedOn s l).isEmpty &&
  !(s.xl.walks.any fun w => w.issued = some l && !isPost w)

/-- FALLOW rather than IDLE (R307). DESIGN CHOICE (log 71): a target with a wired binding counts by its LINK and EN too. -/
def entryFallow (s : State) (l : Link) : Bool :=
  bit (lkPwr s l) 1 && (linkOf s l).far2.getLsbD 13 &&
  (upTo 256).all fun n =>
    let t : Target := BitVec.ofNat 8 n
    !(tgtEn s t && tgtLink s t = l) || (tgtOf s t).sleep = 3

/-- LINK_PWR_ENTRY (R307, R308). -/
def linkPwrEntry (s : State) (l : Link) : State :=
  if entryReady s l then setLink s l { linkOf s l with entry := some (entryFallow s l) } else s
def execLinkPwrEntry (l : Link) (s : State) : Out := .next (settle s (linkPwrEntry s l))

/-- The entry MARK has been sent on the transmit group (R308). -/
def entrySent (s : State) (l : Link) : Bool :=
  let r := linkOf s l
  r.entry.isSome && (members r.txGroup).any fun p => (laneOf s l p).tx.tail.isSome

/-- In IDLE every CDR coasts and lock is kept; the receivers look for the MARK they expect (R310). -/
def coastLanes (s : State) (l : Link) : State :=
  mapLanes s l fun a => { a with sync := .search, buf := [], odd := false, goRun := 0, track := false, fifo := [] }

/-- IDLE begins, or FALLOW, in which the CDRs are off. -/
def enterIdle (s : State) (l : Link) (step : Nat) : State :=
  coastLanes (setLink s l { linkOf s l with st := .idle, entry := none, exitStep := step }) l
def enterFallow (s : State) (l : Link) (st : LinkState) (step : Nat) : State :=
  searchLanes (setLink s l { linkOf s l with st := st, entry := none, exitStep := step }) l

/-- ENTRY_MARK_ANSWER (R309, R312). -/
def entryMarkAnswer (s : State) (l : Link) : State :=
  let r := linkOf s l
  if operating s && r.st = .active && entrySent s l then
    match r.entry with
    | some true => exitRequest (enterFallow (setLink s l { r with fallEnt := r.fallEnt + 1 }) l .fallow 0) l
    | some false => exitRequest (enterIdle (setLink s l { r with idleEnt := r.idleEnt + 1 }) l 0) l
    | none => s
  else s
def execEntryMarkAnswer (l : Link) (s : State) : Out := .next (settle s (entryMarkAnswer s l))

/-- An entry is cancelled (R309): once the entry MARK has been sent, the link leaves by its exit, which has begun. DEDUCED (log 89):
before that nothing has been sent, and the entry just ends. -/
def cancelEntry (s : State) (l : Link) : State :=
  let r := linkOf s l
  if entrySent s l then
    let s := setLink s l { r with entFail := r.entFail + 1 }
    if r.entry = some true then enterFallow s l .wake 1 else enterIdle s l 1
  else setLink s l { r with entry := none }

/-- ENTRY_TIMEOUT: 2 us after the entry MARK. -/
def entryTimeout (s : State) (l : Link) : State := if operating s && entrySent s l then cancelEntry s l else s
def execEntryTimeout (l : Link) (s : State) : Out := .next (settle s (entryTimeout s l))

/-- The part may start an exit: it holds the grant (R313); an endpoint's needs none (R314). -/
def mayExit (s : State) (l : Link) (byEndpoint : Bool) : Bool := byEndpoint || hasGrant s (exitClient l)

/-- The link has left IDLE or FALLOW: the exit grant is freed (Table AL-2). -/
def exitDone (s : State) (l : Link) : State := arbSettle s (dropReq (freeGrant s (exitClient l)) (exitClient l))

/-- Line bits that TP1 takes in 48 ns: 30 CCLK (R310). -/
def idleTp1 (r : LinkRec) : Nat := 30 * bitsPerCclk r.rate

/-- The endpoint answers the entry MARK by an exit of its own (R309): the part has not entered the state, and leaves with it. -/
def exitInstead (s : State) (l : Link) (byEndpoint deep : Bool) : Bool :=
  byEndpoint && (linkOf s l).st = .active && entrySent s l && (linkOf s l).entry = some deep

/-- The link is in IDLE and may leave, or leaves in place of entering (R309, R310, R313). -/
def leavesIdle (s : State) (l : Link) (byEndpoint : Bool) : Bool :=
  ((linkOf s l).st = .idle && (0 < (linkOf s l).exitStep || mayExit s l byEndpoint)) || exitInstead s l byEndpoint false

/-- IDLE_EXIT (R310): TP1, then an ACTIVE MARK on every lane of the group; striping begins anew. -/
def idleExit (s : State) (l : Link) (byEndpoint : Bool) : State :=
  let r := linkOf s l
  if operating s && leavesIdle s l byEndpoint then
    let s := if r.st = .active then coastLanes s l else s
    let q := { r with st := .active, entry := none, exitStep := 0, ll := { r.ll with txK := 0, rxK := 0 } }
    exitDone (activeMarks (setLink s l q) l (idleTp1 r)) l
  else s
def execIdleExit (l : Link) (byEndpoint : Bool) (s : State) : Out := .next (settle s (idleExit s l byEndpoint))

/-- The last step of an exit from FALLOW ends: ACTIVE with the groups of R249, under the width in force (Table PW-1A). -/
def fallowActive (s : State) (l : Link) : State :=
  let r := linkOf s l
  match takeGroups r r.width.toNat with
  | some q =>
    let q := { q with st := .active, exitStep := 0, hs := {}, ll := { q.ll with txK := 0, rxK := 0 } }
    regroupAgain (exitDone (activeMarks (setLink s l q) l 0) l) l
  | none => failExit s l

/-- FALLOW_EXIT_STEP (Table PW-1A): from FALLOW the beacon begins; then each step completes in turn, the last by its
handshake. -/
def fallowExitStep (s : State) (l : Link) (step : ExitStep) : State :=
  let r := linkOf s l
  if !operating s then s
  else match r.st with
  | .active => if exitInstead s l step.byEndpoint true then enterFallow s l .wake 1 else s
  | .fallow =>
    if mayExit s l step.byEndpoint then startGrant (setLink s l { r with st := .wake, exitStep := 1 }) (exitClient l) else s
  | .wake => if r.exitStep = 1 then setLink s l { r with exitStep := 2 } else setLink s l { r with st := .clockAtRate, exitStep := 3 }
  | .clockAtRate =>
    if r.exitStep = 3 then
      let s := beginTp2 s l
      setLink s l { linkOf s l with exitStep := 4 }
    else s
  | .alignAtRate =>
    if r.exitStep = 4 then
      let s := shake (lineIn s l step.lines) l false
      if (linkOf s l).hs.sentGo then fallowActive s l else s
    else s
  | _ => s
def execFallowExitStep (l : Link) (step : ExitStep) (s : State) : Out := .next (settle s (fallowExitStep s l step))

/-- POWER_EXIT_FAIL (R312). -/
def powerExitFail (s : State) (l : Link) : State :=
  let r := linkOf s l
  if operating s && (r.st = .idle || r.st = .wake || 0 < r.exitStep) then
    failExit s l
  else s
def execPowerExitFail (l : Link) (s : State) : Out := .next (settle s (powerExitFail s l))

/-! ## Acknowledgement, replay and credit (R273, R274, R277) -/

/-- A replay begins; the fourth in a row without a TLP freed fails the link. -/
def replayNow (s : State) (l : Link) : State :=
  let r := linkOf s l
  if r.ll.replay.isEmpty then s
  else
    let r := beginReplay r
    let s := setLink s l r
    if 4 ≤ r.ll.noProg then linkFail s l 1 else s

/-- What follows when the replay buffer has lost TLPs: completions that waited enter it (R273, R282). -/
def freed (s : State) (l : Link) : State := if nextClass s l = some .cpl then sendWaitingCpl s l else s

/-- An acknowledgement (R273, R274). -/
def takeAck (s : State) (l : Link) (q : BitVec 12) : State :=
  match ackTlps (linkOf s l).ll q with
  | none => linkFail s l 3
  | some ll => freed (setLl s l fun _ => ll) l

/-- Traffic moves on the link. -/
def linkRuns (s : State) (l : Link) : Bool := operating s && linkActive s l

/-- ACK_RECEIVE. -/
def ackReceive (s : State) (l : Link) (q : BitVec 12) : State :=
  if linkRuns s l then cancelEntry (takeAck s l q) l else s
def execAckReceive (l : Link) (q : BitVec 12) (s : State) : Out := .next (settle s (ackReceive s l q))

/-- A NAK tells of the TLP after the oldest one held, or of that one itself; an older value is ignored. DEDUCED from Case LP-1
(log 88). -/
def nakStands (ll : LinkLayer) (q : BitVec 12) : Bool :=
  match ll.replay with
  | t :: _ => q + 1 = t.seq || decide ((q - t.seq).toNat < 2048)
  | [] => false

/-- NAK_RECEIVE: as ACK, then a replay of what is left (R273). -/
def takeNak (s : State) (l : Link) (q : BitVec 12) : State :=
  let was := (linkOf s l).ll
  match ackTlps was q with
  | none => linkFail s l 3
  | some ll => if nakStands was q then freed (replayNow (setLl s l fun _ => ll) l) l else s
def nakReceive (s : State) (l : Link) (q : BitVec 12) : State :=
  if linkRuns s l then cancelEntry (takeNak s l q) l else s
def execNakReceive (l : Link) (q : BitVec 12) (s : State) : Out := .next (settle s (nakReceive s l q))

/-- CREDIT_RECEIVE. -/
def creditReceive (s : State) (l : Link) (vc : Nat) (cum : BitVec 12) : State :=
  if linkRuns s l then cancelEntry (setLl s l fun ll => takeCreditVc ll vc cum) l else s
def execCreditReceive (l : Link) (vc : BitVec 2) (cum : BitVec 12) (s : State) : Out :=
  .next (settle s (creditReceive s l vc.toNat cum))

/-- REPLAY_TIMEOUT. -/
def replayTimeout (s : State) (l : Link) : State := if linkRuns s l then replayNow s l else s
def execReplayTimeout (l : Link) (s : State) : Out := .next (settle s (replayTimeout s l))

/-- CREDIT_REPEAT: the count of every limited VC is due to be reported again (R277). -/
def creditRepeat (s : State) (l : Link) : State :=
  if linkRuns s l then sendOwn (setLl s l fun ll => { ll with crDue := 0b1011 }) l else s
def execCreditRepeat (l : Link) (s : State) : Out := .next (settle s (creditRepeat s l))

/-! ## Packets received (R269 to R271, R280) -/

/-- Body word Bn of a packet. -/
def bodyWord (ws : List Word) (n : Nat) : Word := ws.getD (n + 1) 0

/-- An LCP is acted on (R269 step 2). -/
def actLcp (s : State) (l : Link) (w0 : Word) : State :=
  let ty := fld w0 0 6
  let q : BitVec 12 := BitVec.ofNat 12 (fld w0 11 12)
  if ty = 1 then takeAck s l q
  else if ty = 2 then takeNak s l q
  else if ty = 3 then setLl s l fun ll => takeCreditVc ll (fld w0 6 2) q
  else s

/-- A well-formed TLP reaches the transaction layer. -/
def actTlp (s : State) (l : Link) (ws : List Word) : State :=
  let w0 := ws.headD 0
  let b1 := bodyWord ws 1
  let b2 := bodyWord ws 2
  let ty := fld w0 0 6
  let fn : Tenant := BitVec.ofNat 8 (fld w0 23 8)
  let iid : Intid := b1.setWidth 24
  let thi : Target := b1.extractLsb' 24 8
  let tlo : Target := b1.extractLsb' 0 8
  let tk : BitVec 8 := b2.extractLsb' 8 8
  if ty = 0x11 then rrd s l fn (b1.extractLsb' 0 12) (b1.extractLsb' 12 8) false
  else if ty = 0x18 then
    postedWrite s l { fn := fn, off := b1.extractLsb' 0 12, be := b1.extractLsb' 12 4, data := b2 }
  else if ty = 0x20 then
    walkCompletion s l (b1.extractLsb' 0 6) (b1.extractLsb' 6 4) (b1.extractLsb' 10 3) (bit b1 13)
      ⟨b1.extractLsb' 14 6, (ws.drop 3).take (fld b1 20 4)⟩
  else if ty = 0x38 then claimed s l thi iid tk
  else if ty = 0x39 then returned s l thi iid tk
  else if ty = 0x3A then returnedBelow s l thi iid tk
  else if ty = 0x3B then eoiMsg s l thi iid
  else if ty = 0x3C then prioMsg s l tlo (b1.extractLsb' 8 8) (b1.extractLsb' 16 3) (b1.extractLsb' 24 8)
  else if ty = 0x3D then stateMsg s l tlo (b1.extractLsb' 8 2)
  else if ty = 0x3E then signalMsg s l tlo (bit b1 20) (b1.extractLsb' 8 8) (b1.extractLsb' 16 4)
  else if ty = 0x3F then privMsg s l tlo (b1.extractLsb' 8 4) (bit b1 12)
  else s

/-- A malformed TLP (R270, R280): an RRD is completed with UR. -/
def actMalformed (s : State) (l : Link) (ws : List Word) : State :=
  let w0 := ws.headD 0
  let g := fld w0 8 3 + 1
  if fld w0 0 6 = 0x11 then
    let s := freeRx (countMalformed s l) l (fld w0 6 2) g
    sendCpl s l (BitVec.ofNat 8 (fld w0 23 8)) ((bodyWord ws 1).extractLsb' 12 8) 1 none
  else malformedTlp s l (fld w0 6 2) g

/-- An accepted TLP: it is to be acknowledged, its link word is acted on once, and it enters its VC's receive buffer (R269 step 3,
R272, R274). -/
def acceptTlp (s : State) (l : Link) (ws : List Word) : State :=
  let w0 := ws.headD 0
  let w1 := ws.getD 1 0
  let vc := fld w0 6 2
  let g := fld w0 8 3 + 1
  let r := linkOf s l
  let ll := { r.ll with rxExp := r.ll.rxExp + 1, rxAny := true, nakSent := false, ackDue := true }
  let x := rxOf ll vc
  let ll := if vc = 2 then ll else setRx ll vc { x with held := x.held + g }
  let s := setLink s l { r with ll := ll }
  let s := if bit w1 15 then setLl s l fun ll => takeCreditVc ll (fld w1 13 2) (BitVec.ofNat 12 (fld w1 16 12)) else s
  let s := if bit w1 12 then takeAck s l (BitVec.ofNat 12 (fld w1 0 12)) else s
  if !linkActive s l then s
  else if vc ≠ 2 && rxLimit vc < x.held + g then linkFail s l 2
  else if fld w0 0 6 = 0x20 && vc = 2 && 5 < fld w0 8 3 then linkFail s l 3
  else if wellFormedTlp w0 then actTlp s l ws
  else actMalformed s l ws

/-- The words of a packet's grains, and whether its CRC is good (R264). -/
def wordsOf (gs : List Grain) : List Word := gs.flatMap fun g => [g.extractLsb' 0 32, g.extractLsb' 32 32]
def crcGood (ws : List Word) : Bool := ws.getLastD 0 = crc32c (ws.take (ws.length - 1))

/-- A packet is judged in the order of R269. -/
def judge (s : State) (l : Link) (ws : List Word) : State :=
  let w0 := ws.headD 0
  let r := linkOf s l
  if !crcGood ws then
    let r := sendNak { r with crcErr := r.crcErr + 1 }
    setLink s l { r with ll := { r.ll with hunt := true } }
  else if fld w0 8 3 = 0 then actLcp s l w0
  else
    let seq : BitVec 12 := BitVec.ofNat 12 (fld w0 11 12)
    if seq = r.ll.rxExp then acceptTlp s l ws
    else if (r.ll.rxExp - seq).toNat ≤ 2048 then setLink s l { r with ll := { r.ll with ackDue := true } }
    else setLink s l (sendNak r)

/-- One step of framing: a packet whose grains are there is judged; in hunt a grain that begins none is dropped (R269, R271). A good
packet ends an entry (R309). The answer none: more grains are awaited. -/
def frameStep (s : State) (l : Link) : Option State :=
  let ll := (linkOf s l).ll
  match ll.frame with
  | [] => none
  | g :: rest =>
    let w0 := g.extractLsb' 0 32
    let n := fld w0 8 3 + 1
    let ws := wordsOf (ll.frame.take n)
    if ll.hunt && !framable w0 then some (setLl s l fun ll => { ll with frame := rest })
    else if ll.frame.length < n then none
    else if ll.hunt && !crcGood ws then some (setLl s l fun ll => { ll with frame := rest })
    else
      let s := judge (setLl s l fun ll => { ll with frame := ll.frame.drop n, hunt := false }) l ws
      some (if crcGood ws && linkActive s l then cancelEntry s l else s)

def frameOn (l : Link) : Nat → State → State
  | 0, s => s
  | n + 1, s => match frameStep s l with
    | some s' => frameOn l n s'
    | none => s

/-- Grains leave the lanes of the receive group in rotation, and packets are framed from them (R246, R262). -/
def destripe (l : Link) : Nat → State → State
  | 0, s => s
  | n + 1, s =>
    if linkRuns s l then
      match nextGrain s l with
      | none => s
      | some (s, g) =>
        let s := setLl s l fun ll => { ll with frame := ll.frame ++ [g] }
        destripe l n (frameOn l (linkOf s l).ll.frame.length s)
    else s

/-- Grains that wait in the lanes of a link. -/
def heldGrains (s : State) (l : Link) : Nat := (upTo 4).foldl (fun n p => n + (laneOf s l p).fifo.length) 0

/-- TLP_RECEIVE: the lines bring grains, and every packet that is complete is judged (R246, R262, R269). -/
def tlpReceive (s : State) (l : Link) (lines : Lines) : State :=
  let s := lineIn s l lines
  destripe l (heldGrains s l) s
def execTlpReceive (l : Link) (lines : Lines) (s : State) : Out := .next (settle s (tlpReceive s l lines))

end Sys2Proof.Machine
end

