-- ==== Sys2Proof/Machine/Steward.lean ====
section
/-!
DEFINITION. Machine/Steward.lean: the Steward's work and the store controller: programs and erases in order, their grants,
their outcomes, the journal's entries and checkpoints (R370 to R376).
-/
namespace Sys2Proof.Machine

/-! ## Replies -/

/-- The command in work gets its reply. -/
def replyNow (s : State) (code : BitVec 8) (d0 d1 d2 d3 : Word) : State :=
  match s.mbx.busy with
  | some c =>
    { s with mbx := { s.mbx with done := some { op := c.op, tag := c.tag, code := code, d0 := d0, d1 := d1, d2 := d2, d3 := d3 } } }
  | none => s

def setJobs (s : State) (js : List NvJob) : State := { s with nv := { s.nv with jobs := js } }

/-- The items that remain of the first job; a job without items is gone. -/
def setHead (s : State) (its : List NvItem) : State :=
  match s.nv.jobs with
  | [] => s
  | j :: js => if its.isEmpty then setJobs s js else setJobs s ({ j with items := its } :: js)

def headItems (s : State) : List NvItem := match s.nv.jobs with | [] => [] | j :: _ => j.items

/-- The piece of work at hand has failed (R371): a mailbox command is answered NV_ERROR and given up; a key-store copy is
given up; other housekeeping goes on without it. -/
def failWork (s : State) : State :=
  match s.nv.jobs with
  | [] => s
  | j :: js =>
    if j.mailbox then setJobs (replyNow s 6 0 0 0 0) js
    else if j.items.contains .staleDone then setJobs s js
    else setHead s (j.items.drop 1)

/-! ## Areas of Table NV-1, as R371 takes them -/

/-- First sector and sectors of the area a sector lies in. -/
def areaOfSector (q : Nat) : Nat × Nat :=
  if q < 8 then (q / 2 * 2, 2) else if q < 58 then (8, 50) else if q < 68 then (58, 10) else if q < 118 then (68, 50)
  else if q < 128 then (118, 10) else if q < 160 then (128, 32) else if q < 192 then (160, 32)
  else if q < 196 then (q / 2 * 2, 2) else (196, 60)

/-- A retired sector has made the area unusable; the log goes on without it. -/
def areaDead (s : State) (q : Nat) : Bool :=
  let (f, n) := areaOfSector q
  q < 196 && s.nv.retired.any fun r => f ≤ r && r < f + n

/-! ## Applying a bundle: what is settled when it is accepted (R413, R417) -/

def startApply (s : State) (slot : BitVec 1) (n : Word) (kind : ApplyKind) : State :=
  { s with bun := { s.bun with apply := true, holding := false, late := false, slot := slot, bseq := bSeq s slot, n := n,
                               kind := kind, written := false, finishing := false, synced := false } }

/-- The boot apply (R419); SEQUENCE is not asked of a bundle in force. -/
def bootApply (s : State) : State :=
  if !feat s 4 || !feat s 7 then s
  else match inForceSlot s with
  | none => s
  | some k =>
    if !(bFlags s k).getLsbD 0 then s
    else
      let c := bundleCheck s { corrected := 0, bad := [] } k none none
      if c = 0 then startApply s k (s.hl.seq + 17) .boot
      else { s with bun := { s.bun with code := BitVec.ofNat 4 c, slot := k, bseq := bSeq s k } }

/-! ## Work without the controller -/

def retireSector (s : State) (q : Nat) : State :=
  nvEvt { s with nv := { s.nv with retired := if s.nv.retired.contains q then s.nv.retired else s.nv.retired ++ [q] } } 4 q

/-- A checkpoint is whole: the new sector is in use (R374). -/
def ckptEnds (s : State) : State :=
  { s with nv := { s.nv with
      journal := { s.nv.journal with sector := 1 - s.nv.journal.sector, word := s.nv.ckptPos }, epoch := s.nv.epoch + 1,
      ckpt := false, ckptPos := 0 } }

/-- A key is put or dropped once its copy stands in the store (R402, R405). -/
def keyDone (s : State) (slot : Nat) (key : Option Key) : State :=
  let s := { s with au := { s.au with sealed := s.au.sealed || isBundleKey key } }
  match key with
  | some q => putKey s slot q
  | none => eraseSlot s slot

/-- An item that needs no store work. -/
def doItem (s : State) : NvItem → State
  | .ckptDone => ckptEnds s
  | .areaMoved a q => setAreaPos s a { areaPos s a with sector := q, word := 0 }
  | .reply c a b d e => replyNow s c a b d e
  | .policyDone p => { s with stew := { s.stew with policy := p } }
  | .markDone => replyNow s 0 (s.nv.log.eseq - 1) 0 0 0
  | .gaspDone r => house { s with nv := { s.nv with gaspResult := r } } hGASP
  | .armWanted => { s with nv := { s.nv with wantArm := true } }
  | .bootKeys => loadKeys s
  | .bootApply => bootApply s
  | .keyDone k key => keyDone s k.toNat key
  | .staleDone => { s with au := { s.au with stale := false } }
  | .verdict c => { s with bun := { s.bun with code := c } }
  | .locate => { s with nv := { s.nv with policy := findArea s .policy, log := findArea s .log } }
  | .applyDone => house { s with bun := { s.bun with apply := false, finishing := false, synced := false } } hAUTH
  | .repaired q => nvEvt s 6 q
  | _ => s

/-! ## The engine's grant, and the Steward's use of the engine (R395 to R397) -/

/-- The request of client 266 follows the engine's need (R397); when the engine is idle the grant is freed (Table AL-2). -/
def engineNeed (s : State) : State :=
  if anyReady s then engineRequest s
  else if hasGrant s cAUTH || hasReq s cAUTH then arbSettle s (freeGrant (dropReq s cAUTH) cAUTH)
  else s

def freeCtx (s : State) : Option Nat := (upTo 4).find? fun c => (ctxOf s c).owner.isNone

/-- The Steward's context. -/
def stewardCtx (s : State) : Option Nat := (upTo 4).find? fun c => (ctxOf s c).owner = some .steward

/-- The Steward opens a context for a verification; a key given directly uses no slot. -/
def stewardOpens (s : State) (c : Nat) (slot : Option (BitVec 4)) (turns : Nat) : State :=
  engineNeed (setCtx s c { owner := some .steward, st := .run, code := 1, alg := if slot.isSome then 2 else 0,
                           slot := slot.getD 0, steps := turns })

/-- The Steward closes its context. -/
def stewardCloses (s : State) : State :=
  match stewardCtx s with
  | some c => engineNeed (settleSlots (setCtx s c {}))
  | none => s

/-- What ends the work when the slot it uses is erased meanwhile: its reply, and for a bundle's check BUNDLE_REFUSED and
AU_BSTAT.CODE (R402, R412, Table AU-11). -/
def engineFails (s : State) (code : BitVec 8) (d0 : Word) : State :=
  if code = 5 then
    let k := s.bun.stage.getD (stagingSlot s)
    setHead { s with bun := { s.bun with code := d0.setWidth 4 } } [.append .log 0x19 (d0.setWidth 8) (bSeq s k) 0, .reply code d0 0 0 0]
  else setHead s [.reply code d0 0 0 0]

/-- A piece of engine work goes on: its context is opened, waited for, and closed. -/
def engineWork (s : State) (slot : Option (BitVec 4)) (turns : Nat) (code : BitVec 8) (d0 : Word) (rest : List NvItem) :
    Option State :=
  match stewardCtx s with
  | none => if turns = 0 then some (setHead s rest) else (freeCtx s).map fun c => stewardOpens s c slot turns
  | some c =>
    let x := ctxOf s c
    if ctxReady x then none
    else some (if x.st = .error then engineFails (stewardCloses s) code d0 else setHead (stewardCloses s) rest)

/-! ## Operations (R370) -/

/-- The operation begins; an erase is counted as it begins (R375). -/
def startOp (s : State) (client : Nat) (op : NvOp) : State :=
  let s := startGrant { s with nv := { s.nv with op := some op } } client
  match op with
  | .erase q =>
    let n := eraseCount s q + 1
    let s := { s with nv := { s.nv with counts := tabSet s.nv.counts 0 q n } }
    if n = 18000 then nvEvt s 5 q else s
  | .program _ _ => s

/-- The operation begins under its grant, or its request is raised; none: it waits. -/
def askOp (s : State) (client : Nat) (op : NvOp) : Option State :=
  if hasGrant s client then some (startOp s client op)
  else if hasReq s client then none
  else some (raiseReq s client 0 none none)

def hlSeqNow (s : State) : Word := if operating s then s.hl.seq else 0

/-- The bytes of word j of a checkpoint (R374). -/
def ckptBytes (s : State) (j : Nat) : List Byte :=
  if j = 0 then entryBytes 0x04 0 s.nv.journal.eseq (hlSeqNow s) (s.nv.epoch + 1) (List.replicate 12 0)
  else
    let f := 6 * (j - 1)
    entryBytes 0x05 (BitVec.ofNat 8 f) s.nv.journal.eseq (hlSeqNow s) 0
      ((upTo 6).flatMap fun i => [BitVec.ofNat 8 (eraseCount s (f + i)), BitVec.ofNat 8 (eraseCount s (f + i) / 256)])

def ckptWork (s : State) : List NvItem :=
  .eraseSector (1 - s.nv.journal.sector) false :: ((upTo 44).map .ckpt ++ [.ckptDone])

/-- The work of a new key-store copy, its log entry and what follows it (R402, R421). -/
def keyCopyWork (s : State) (slot : BitVec 4) (key : Option Key) (why : BitVec 8) : List NvItem :=
  let keys := if why = 3 then (upTo 16).map fun j => slotKey (slotOf s j) else slotsWith s slot.toNat key
  let (gen, work) := keyStoreWork s keys
  work ++ [.append .log 0x1D (slot.setWidth 8) (why.setWidth 32) 0] ++
    (if why = 3 then [.staleDone] else [.keyDone slot key, .reply 0 gen 0 0 0])

/-- One thing the Steward does next; none: it waits for a grant, for room in the journal, or has nothing to do. -/
def pumpOne (s : State) : Option State :=
  match s.nv.jobs with
  | [] => none
  | j :: _ =>
    match j.items with
    | [] => some (setHead s [])
    | .append a ty arg v d :: rest =>
      let p := areaPos s a
      if areaDead s p.sector then some (failWork s)
      else if p.word < 128 then
        askOp s cPROGRAM (.program (p.sector * 4096 + 32 * p.word) (entryBytes ty arg p.eseq (hlSeqNow s) v (dataBytes d)))
      else if a = .journal then none
      else match nextSector s a with
        | some q => some (setHead s (.eraseSector q false :: .areaMoved a q :: .append a ty arg v d :: rest))
        | none => some (failWork s)
    | .program addr b :: _ =>
      if areaDead s (addr / 4096) then some (failWork s) else askOp s cPROGRAM (.program addr b)
    | .eraseSector q again :: rest =>
      if areaDead s q then some (failWork s)
      else if journalFree s < 2 && !rest.contains .ckptDone then none
      else some (setHead s (.append .journal 0x01 (BitVec.ofNat 8 q) 0 0 :: .erase q again :: rest))
    | .erase q _ :: _ => askOp s cERASE (.erase q)
    | .ckpt k :: _ =>
      if s.nv.ckptPos < 128 then
        askOp s cPROGRAM (.program ((1 - s.nv.journal.sector) * 4096 + 32 * s.nv.ckptPos) (ckptBytes s k))
      else some (setHead s (ckptWork s))
    | .areaMoved a q :: rest =>
      if s.nv.retired.contains q then
        match nextSector (setAreaPos s a { areaPos s a with sector := q }) a with
        | some r => some (setHead s (.eraseSector r false :: .areaMoved a r :: rest))
        | none => some (failWork s)
      else some (setHead (doItem s (.areaMoved a q)) rest)
    | .gaspRecover :: rest => some (setHead s (gaspRecoverWork s ++ rest))
    | .keyCopy k key why :: rest => some (setHead s (keyCopyWork s k key why ++ rest))
    | .engine slot turns code d0 :: rest => engineWork s slot turns code d0 rest
    | it :: rest => some (doItem (setHead s rest) it)

def pumpN : Nat → State → State
  | 0, s => s
  | n + 1, s => if s.nv.op.isSome then s else match pumpOne s with | some t => pumpN n t | none => s

/-- The Steward works while it runs and the arbiter grants (R303, Table MD-5). -/
def pump (s : State) : State :=
  if stewardRuns s && arbGrants s then
    pumpN (32 + 4 * (s.nv.jobs.foldl (fun n j => n + j.items.length + 1) 0)) s
  else s

/-! ## Ends of operations (R368, R369, R371) -/

/-- The controller's part of a program's end: the word programmed and read back. -/
def programEnds (s : State) (addr : Nat) (b : List Byte) (ok : Bool) : State × Bool :=
  if !wordErased s addr then (nvEvt s 1 (addr / 4096), false)
  else if ok then (nvWrite s addr b, true)
  else (nvEvt (nvSpoilWord s addr) 2 (addr / 4096), false)

/-- The Steward's part: an entry that failed goes into the next word; other work fails. -/
def programNext (s : State) (good : Bool) : State :=
  match headItems s with
  | .append a _ _ _ _ :: rest =>
    let p := areaPos s a
    if good then setHead (setAreaPos s a { p with word := p.word + 1, eseq := p.eseq + 1 }) rest
    else setAreaPos s a { p with word := p.word + 1 }
  | .ckpt _ :: rest =>
    let s := { s with nv := { s.nv with ckptPos := s.nv.ckptPos + 1 } }
    if good then
      setHead { s with nv := { s.nv with journal := { s.nv.journal with eseq := s.nv.journal.eseq + 1 } } } rest
    else s
  | .program _ _ :: rest => if good then setHead s rest else failWork s
  | _ => s

/-- The controller is free, and so is the grant (Table AL-2). -/
def opFree (s : State) (client : Nat) : State :=
  arbSettle s (freeGrant { s with nv := { s.nv with op := none, orphan := false } } client)

/-- The modes in which the store controller is clocked (Table MD-1, R341). -/
def nvClocked (s : State) : Bool := hasCommit s || s.pw.mode = .lastGasp || s.pw.mode = .shutdown

/-- NV_PROGRAM_DONE. -/
def nvProgramDone (s : State) (ok : Bool) : State :=
  match nvClocked s, s.nv.op with
  | true, some (.program addr b) =>
    let orphan := s.nv.orphan
    let (s, good) := programEnds s addr b ok
    let s := opFree s cPROGRAM
    if orphan then s else pump (programNext s good)
  | _, _ => s
def execNvProgramDone (ok : Bool) (s : State) : Out := .next (settle s (nvProgramDone s ok))

/-- The Steward's part of an erase's end: ERASE_DONE, or once more, or RETIRE (R371, R373, R375). -/
def eraseNext (s : State) (q : Nat) (ok again : Bool) (rest : List NvItem) : State :=
  let sector : BitVec 8 := BitVec.ofNat 8 q
  if ok then
    let worn := 196 ≤ q && 20000 ≤ eraseCount s q
    let s := if q < 2 then { s with nv := { s.nv with ckptPos := 0 } } else s
    let done := NvItem.append .journal 0x02 sector (BitVec.ofNat 32 (eraseCount s q)) 0
    if worn then setHead (retireSector s q) (done :: .append .journal 0x03 sector 0 0 :: rest) else setHead s (done :: rest)
  else if !again then setHead s (.eraseSector q true :: rest)
  else
    let s := retireSector s q
    let mark := NvItem.append .journal 0x03 sector 0 0
    if 196 ≤ q then setHead s (mark :: rest)
    else
      let s := failWork (setHead s (mark :: rest))
      setJobs s ({ mailbox := false, items := [mark] } :: s.nv.jobs)

/-- NV_ERASE_DONE. -/
def nvEraseDone (s : State) (outcome : EraseOutcome) : State :=
  match nvClocked s, s.nv.op with
  | true, some (.erase q) =>
    let orphan := s.nv.orphan
    let ok := outcome = .ok
    let s := if ok then nvEraseSector s q else nvEvt (nvSpoil s q) 3 q
    let s := opFree s cERASE
    if orphan then s
    else match headItems s with
      | .erase _ again :: rest => pump (eraseNext s q ok again rest)
      | _ => s
  | _, _ => s
def execNvEraseDone (outcome : EraseOutcome) (s : State) : Out := .next (settle s (nvEraseDone s outcome))

/-- JOURNAL_CHECKPOINT (R374): fewer than eight erased words are left; the checkpoint goes before other work. -/
def journalCheckpoint (s : State) : State :=
  if s.stew.fw = .olumon && stewardRuns s && arbGrants s && journalFree s < 8 && !s.nv.ckpt && s.nv.op.isNone then
    pump (setJobs { s with nv := { s.nv with ckpt := true } } ({ mailbox := false, items := ckptWork s } :: s.nv.jobs))
  else s
def execJournalCheckpoint (s : State) : Out := .next (settle s (journalCheckpoint s))

/-- Other gasp sector. -/
def otherGasp (k : Nat) : Nat := if k < 16 then 7 else 6

/-- GASP_ARMING (R381): the armed slot is found erased; on entering a gasp sector the other one is erased first of all. -/
def gaspArming (s : State) : State :=
  let k := armedSlot s
  if s.nv.wantArm && stewardRuns s && slotErased s k && s.nv.op.isNone then
    let g := match lastGasp s with | some (_, g) => BitVec.ofNat 32 (g + 1) | none => 1
    let s := { s with nv := { s.nv with armed := true, wantArm := false, slot := k, gseq := g } }
    if k % 16 = 0 then
      pump (setJobs s ({ mailbox := false, items := [.eraseSector (otherGasp k) false] } :: s.nv.jobs))
    else s
  else s
def execGaspArming (s : State) : Out := .next (settle s (gaspArming s))

/-! ## Work cut off -/

/-- Work not begun is discarded; an erase is aborted, a program begun completes (R330, R382, R390). -/
def discardWork (s : State) : State :=
  let s := abortErase s
  { s with nv := { s.nv with jobs := [], orphan := s.nv.op.isSome, ckpt := false, wantArm := false } }

/-- Work cut off by a reset of the whole part: a word or a sector in hand is left with free content. -/
def cutWork (s : State) : State :=
  let s := abortErase s
  let s := match s.nv.op with
    | some (.program addr _) => nvSpoilWord s addr
    | _ => s
  let s := match s.nv.gasp with
    | some g => foldS (fun s w => if wordErased s (g.addr + 32 * w) then nvSpoilWord s (g.addr + 32 * w) else s) s (upTo 7)
    | none => s
  { s with nv := { s.nv with jobs := [], op := none, orphan := false, ckpt := false, wantArm := false, gasp := none } }

end Sys2Proof.Machine
end

