-- ==== Sys2Proof/Machine/Engine.lean ====
section
/-!
DEFINITION. Machine/Engine.lean: the authentication engine and its use by the management host (R394 to R402).
-/
namespace Sys2Proof.Machine

/-- STATE of an open context: RUN while it has work, READY while it waits for a feed (log 12). -/
def openState (x : Ctx) : Ctx := { x with st := if ctxReady x then .run else .ready }

def heldBy (s : State) (u : CtxUser) : Nat := ((upTo 4).filter fun c => (ctxOf s c).owner = some u).length

/-- A user may open a context (R395). -/
def ctxLimit : CtxUser → Nat
  | .loader => 1
  | .steward => 2
  | .host => 3

/-- The key an operation takes from a slot, or its refusal (R401, Table AU-2). -/
def openKey (s : State) (alg slot : Nat) : Except Nat (List Byte) :=
  if alg = 0 then .ok []
  else if alg = 3 || (alg = 2 && !feat s 7) then .error 4
  else
    let x := slotOf s slot
    if slotState x = 2 then .error 5
    else match x.key with
      | none => .error 4
      | some k => if k.kind.toNat = alg && k.use.getLsbD (alg - 1) then .ok k.bytes else .error 4

def hstatCode (s : State) (code : Nat) : State :=
  { s with au := { s.au with hstat := (s.au.hstat &&& 0x03) ||| BitVec.ofNat 8 (code * 16) } }

/-- AU_OPEN (R398). -/
def auOpen (s : State) (alg slot : Nat) : State :=
  match openKey s alg slot with
  | .error c => hstatCode s c
  | .ok key =>
    match freeCtx s with
    | none => hstatCode s 3
    | some c =>
      if ctxLimit .host ≤ heldBy s .host then hstatCode s 3
      else
        let x : Ctx := { owner := some .host, alg := BitVec.ofNat 2 alg, slot := BitVec.ofNat 4 slot, key := key,
                         hash := shaInit, todo := if alg = 1 then [hmacPad 0x36 key] else [] }
        let s := { s with au := { s.au with hstat := BitVec.ofNat 8 c } }
        engineNeed (setCtx s c (openState x))

def overrun (s : State) : State := sqSet s 0x72C 1

/-- The feed buffer (R398). -/
def auBuf (s : State) (n : Nat) : List Byte := ((upTo 16).flatMap fun i => leBytes (regImm s (0x740 + 4 * i))).take n

/-- AU_FEED (R398, R399). A short block without LAST, and a feed that the operation cannot use, are ignored in the same way
(log 12). -/
def auFeed (s : State) (c n : Nat) (last sig : Bool) : State :=
  let s := { s with au := { s.au with feedCtx := BitVec.ofNat 2 c } }
  let x := ctxOf s c
  if n = 0 || 64 < n || x.owner ≠ some .host || ctxReady x || x.st ≠ .ready then overrun s
  else if sig then
    if x.alg = 2 && !x.digest.isEmpty && n = 64 then
      engineNeed (setCtx s c (openState { x with sig := some (auBuf s 64), steps := 1024 }))
    else overrun s
  else if x.last || (n < 64 && !last) then overrun s
  else
    let total := x.bytes + n
    let blocks := if last then shaBlocks (auBuf s n ++ shaPad (total + (if x.alg = 1 then 64 else 0))) else [auBuf s 64]
    engineNeed (setCtx s c (openState { x with todo := blocks, bytes := total, last := last }))

/-- AU_CLOSE (R398): only the host's own contexts. -/
def auClose (s : State) (c : Nat) : State :=
  if (ctxOf s c).owner = some .host then engineNeed (settleSlots (setCtx s c {})) else s

/-- AU_KEY_ERASE.GO (R402): the slot is zeroised, and running firmware writes a copy without it. -/
def auKeyErase (s : State) (slot : Nat) : State :=
  let s := eraseSlot s slot
  let s := { s with au := { s.au with stale := true } }
  let s := if s.stew.fw = .olumon && !s.pw.stwDown then pushJob s [.keyCopy (BitVec.ofNat 4 slot) none 3] else s
  engineNeed s

/-- The context at the end of its work: a digest, a MAC, a verdict, or the next thing it waits for. -/
def ctxEnds (x : Ctx) : Ctx :=
  if x.alg = 0 || (x.alg = 1 && x.outer) then { x with st := .done, code := 0, res := shaBytes x.hash }
  else if x.alg = 1 then
    openState { x with hash := shaInit, outer := true, todo := [hmacPad 0x5C x.key, shaBytes x.hash ++ shaPad 96] }
  else openState { x with digest := shaBytes x.hash }

/-- One block or one step (R394, R396). -/
def ctxTurn (x : Ctx) : Ctx :=
  match x.todo with
  | b :: r =>
    let x := { x with hash := shaBlock x.hash b, todo := r }
    if r.isEmpty && x.last then ctxEnds x else openState x
  | [] =>
    if x.steps = 1 then
      let ok := match x.sig with | some g => ecdsa x.key x.digest g | none => false
      { x with steps := 0, st := .done, code := if x.owner = some .steward then x.code else if ok then 1 else 2 }
    else { x with steps := x.steps - 1 }

/-- The context served next (R396). -/
def nextCtx (s : State) : Option Nat :=
  ((upTo 4).map fun j => (s.au.last.toNat + 1 + j) % 4).find? fun c => ctxReady (ctxOf s c)

/-- ENGINE_TURN: under its grant; under revocation the engine pauses and asks again (R299, R397). -/
def engineTurn (s : State) : State :=
  if !arbGrants s then s
  else match s.allot.grants.find? fun g => g.client = cAUTH with
  | none => s
  | some g =>
    if g.revoking then
      let s := arbSettle s (freeGrant s cAUTH)
      engineNeed s
    else match nextCtx s with
      | none => s
      | some c =>
        let s := startGrant s cAUTH
        let x := ctxTurn (ctxOf s c)
        let s := setCtx { s with au := { s.au with last := BitVec.ofNat 2 c } } c x
        let s := if x.st = .done && x.owner = some .host then house s hAUTH else s
        pump (engineNeed s)
def execEngineTurn (s : State) : Out := .next (settle s (engineTurn s))

/-- AU_CONTEXT_TIMEOUT (R399): the context is freed, and its code stays to be read. -/
def auContextTimeout (s : State) (c : Nat) : State :=
  let x := ctxOf s c
  if x.owner = some .host && x.st ≠ .error && arbGrants s then
    let s := setCtx s c { st := .error, code := 7 }
    house (engineNeed (settleSlots s)) hAUTH
  else s
def execAuContextTimeout (ctx : BitVec 2) (s : State) : Out := .next (settle s (auContextTimeout s ctx.toNat))

/-! ## What the host reads (Table RG-10) -/

def ownerCode : Option CtxUser → Nat
  | none => 0
  | some .loader => 1
  | some .steward => 2
  | some .host => 3
def stateCode : CtxState → Nat
  | .free => 0
  | .ready => 1
  | .run => 2
  | .done => 3
  | .error => 4

def auCstat (x : Ctx) : Word := put (ownerCode x.owner) 0 ||| put (stateCode x.st) 4 ||| put x.code.toNat 8
def auSlotStat (s : State) : Word := (upTo 16).foldl (fun w k => w ||| put (slotState (slotOf s k)) (2 * k)) 0
def auRes (s : State) (i : Nat) : Word :=
  leWord (((ctxOf s s.au.feedCtx.toNat).res.drop (4 * i)).take 4)

/-- AU_BSTAT, word 0. -/
def auBstat (s : State) : Word :=
  putB s.bun.apply 0 ||| putB s.bun.holding 1 ||| putB s.bun.unconf 2 ||| putB s.bun.late 3 ||| put s.bun.slot.toNat 4 |||
  put s.bun.code.toNat 8

end Sys2Proof.Machine
end

