-- ==== Sys2Proof/Machine/Bundles.lean ====
section
/-!
DEFINITION. Machine/Bundles.lean: applying, confirming and rolling back sealed bundles, and the region barrier that follows a
transfer (R190, R411 to R420).
-/
namespace Sys2Proof.Machine

/-! ## The region barrier (R190, R191) -/

/-- A shadow of a REGION field, or of a tenant's COLOUR, differs from its live value. -/
def regionsDirty (s : State) : Bool :=
  ((upTo 32).any fun j => (upTo 5).any fun w => shadowAt s (tabKey 5 j 0 w) ≠ liveAt s (tabKey 5 j 0 w)) ||
  ((upTo 256).any fun n =>
    fld (shadowAt s (tabKey 4 n 0 0)) 8 6 ≠ fld (liveAt s (tabKey 4 n 0 0)) 8 6)

/-- A write of 1 to REGION_SYNC.REQ. -/
def regionSyncReq (s : State) : State :=
  setXl s { s.xl with rsDone := false, rsDirty := regionsDirty s, rsSeq := s.hl.seq, rsMark := s.xl.serial }

/-- Every shadow takes its live value, and DIRTY clears (R118). -/
def revertShadows (s : State) : State :=
  { s with cfg := { s.cfg with shadow := s.cfg.live }, hl := { s.hl with dirty := false } }

/-! ## The hold (R414, R415) -/

/-- The named headland has been reached, modulo 2^32 (R413). -/
def reached (seq n : Word) : Bool := (seq - n).toNat < 2 ^ 31

/-- The bundle hold ends with nothing applied. -/
def abandonApply (s : State) (code : BitVec 4) : State :=
  let s := if s.bun.holding then revertShadows s else s
  { s with bun := { s.bun with apply := false, holding := false, written := false, code := code },
           hl := { s.hl with bundleHold := false } }

/-- BUNDLE_HOLD_START: commit N − 16 has passed; the hold begins, the shadows are reset and take the records. -/
def bundleHoldStart (s : State) (e : Ecc) : State :=
  if s.bun.apply && !s.bun.holding && !s.bun.finishing && reached s.hl.seq (s.bun.n - 16) && hasCommit s &&
     stewardRuns s then
    let s := { s with bun := { s.bun with holding := true }, hl := { s.hl with bundleHold := true } }
    let s := shadowsReset s
    let a := bslotAddr s.bun.slot + 0x180
    let bad := eccBad e a (bLen s s.bun.slot)
    let s := eccTake s e a (bLen s s.bun.slot)
    if bad then abandonApply s 9
    else
      let s := writeRecords s (bodyRecords s s.bun.slot)
      { s with bun := { s.bun with written := true } }
  else s
def execBundleHoldStart (e : Ecc) (s : State) : Out := .next (settle s (bundleHoldStart s e))

/-- A Steward reset during the hold acts as R415 (R422); an apply not yet begun is given up as well (log 13). After the
transfer the fields stay for the reloaded firmware. -/
def bundleStewardReset (s : State) : State :=
  if s.bun.finishing then { s with bun := { s.bun with synced := false } }
  else if s.bun.apply then abandonApply s s.bun.code
  else s

/-! ## The transfer (R414 step 4, R416) -/

/-- The commit with this HL_SEQ ends the hold. -/
def bundleTransfers (s : State) (seq : Word) : Bool :=
  s.bun.holding && s.bun.written && reached seq s.bun.n && !bit (regImm s 0x114) 0

/-- The next free RESTORED word of a slot. -/
def freeRestored (s : State) (slot : BitVec 1) : Option Nat := [4, 5, 6, 7].find? fun w => !hasStatus s slot w

/-- The store's part of R416 and R418. -/
def transferWork (s : State) : List NvItem :=
  let k := s.bun.slot
  let applied := if hasStatus s k 1 then [] else [statusWork k 1 s.bun.bseq s.bun.tSeq]
  let back := match s.bun.kind with
    | .rollback cause left =>
      let was := bSeq s left
      [statusWork left 3 was 0] ++
      (match freeRestored s k with | some w => [statusWork k w s.bun.bseq was] | none => []) ++
      [.append .log 0x1C (cause.setWidth 8) was (s.bun.bseq.setWidth 96)]
    | _ => []
  let late := if s.bun.late then
      [NvItem.append .log 0x1E (k.setWidth 8) s.bun.bseq (s.bun.n.setWidth 96 ||| (s.bun.tSeq.setWidth 96 <<< 32))] else []
  applied ++ back ++ late

/-- The transferring commit and the CCLK after it. A restored bundle and a bundle applied at boot are not unconfirmed
(log 14). -/
def bundleTransferred (s : State) (seq : Word) : State :=
  let k := s.bun.slot
  let c := bConfirm s k
  let s := { s with
    hl := { s.hl with bundleHold := false },
    bun := { s.bun with holding := false, written := false, finishing := true, synced := false, late := seq ≠ s.bun.n,
                        tSlot := k, tSeq := seq, confirm := c, refMode := bRefMode s k, drift := false, noAuto := false,
                        unconf := s.bun.kind = .command && c ≠ 0 } }
  let s := regionSyncReq s
  let s := if s.bun.refMode = 1 then
      let s := setIm s (regKey 0x804) (bh s k 0x1C)
      setIm s (regKey 0x808) (regImm s 0x808 ||| 1)
    else if s.bun.refMode = 2 then { s with hl := { s.hl with snapPend := true } } else s
  pushJob s (transferWork s)

/-- Once the barrier has completed over a clean map, the apply ends in the log (R416); a dirty one is repeated (R192). -/
def bundleSync (s : State) : State :=
  if s.bun.apply && s.bun.finishing && !s.bun.synced && s.xl.rsDone && stewardRuns s then
    if s.xl.rsDirty then regionSyncReq s
    else
      let k := s.bun.slot
      let s := { s with bun := { s.bun with synced := true } }
      pushJob s [.append .log 0x1A (k.setWidth 8) s.bun.bseq (s.bun.tSeq.setWidth 96), .applyDone]
  else s

/-- Firmware reloaded after the transfer programs the APPLIED word that is missing (R416). -/
def bundleResume (s : State) : State :=
  if s.bun.finishing then
    if hasStatus s s.bun.slot 1 then s else pushJob s [statusWork s.bun.slot 1 s.bun.bseq s.bun.tSeq]
  else s

/-! ## Rollback (R417, R418) -/

/-- A rollback begins, or is refused: the answer none. A failed check leaves the bundle live and stops automatic rollback. -/
def startRollback (s : State) (cause : BitVec 2) : Option State × State :=
  match previousSlot s with
  | none => (none, s)
  | some k =>
    if s.bun.apply || (freeRestored s k).isNone then (none, s)
    else
      let c := bundleCheck s { corrected := 0, bad := [] } k none none
      if c ≠ 0 then (none, { s with bun := { s.bun with code := BitVec.ofNat 4 c, noAuto := true } })
      else (some (startApply s k (s.hl.seq + 17) (.rollback cause (k + 1))), s)

/-- The confirmation time has run out, or drift has been seen (R417). -/
def confirmOver (s : State) : Bool := s.bun.confirm.toNat ≤ (s.hl.seq - s.bun.tSeq).toNat

/-- CONFIRM_TIMEOUT: an automatic rollback, timeout 2 or drift 3; refused once, it is not attempted again (R418). -/
def confirmTimeout (s : State) : State :=
  if s.bun.unconf && !s.bun.noAuto && !s.bun.apply && stewardRuns s && hasCommit s then
    if confirmOver s || s.bun.drift then
      match startRollback s (if s.bun.drift then 3 else 2) with
      | (some t, _) => t
      | (none, t) => { t with bun := { t.bun with noAuto := true } }
    else s
  else s
def execConfirmTimeout (s : State) : Out := .next (settle s (confirmTimeout s))

end Sys2Proof.Machine
end

