-- ==== Sys2Proof/Machine/Mailbox.lean ====
section
/-!
DEFINITION. Machine/Mailbox.lean: the mailbox and the commands of Tables SW-8, NV-10 and AU-9 (R359 to R364, R392, R420). A
command row is the Steward's taking up the command at the head of Q-MBX; where another command stands there, the row's event
cannot occur and nothing happens (log 1).
-/
namespace Sys2Proof.Machine

/-! ## Q-MBX (R360 to R362) -/

def argOf (s : State) (n : Nat) : Word := regImm s (0x910 + 4 * n)

/-- A write of MBX_CMD: the command is queued, or rejected (R360). -/
def mbxCmdWrite (s : State) (op tag : BitVec 8) : State :=
  if 16 ≤ qMbx s || (op = 0x11 && s.mbx.bufBusy) then sqSet s 0x90C 1
  else
    let c : MbxCmd := { op := op, tag := tag, a0 := argOf s 0, a1 := argOf s 1, a2 := argOf s 2, a3 := argOf s 3 }
    { s with mbx := { s.mbx with q := s.mbx.q ++ [c], bufBusy := s.mbx.bufBusy || op = 0x11 } }

/-- A reply is posted; it is shown at once when no other is (R361). -/
def postReply (s : State) (r : Reply) : State :=
  let first := s.mbx.replies.isEmpty
  let s := { s with mbx := { s.mbx with replies := s.mbx.replies ++ [r], busy := none, done := none } }
  if first then house s hMBX else s

/-- Opcodes that the ROM monitor serves, and the others (Tables SW-8, NV-10, AU-9). -/
def romOps : List (BitVec 8) := [0x01, 0x02, 0x10, 0x11, 0x12, 0x13, 0x15, 0x20, 0x36, 0x39, 0x40, 0x44]
def olumonOps : List (BitVec 8) := [0x14, 0x30, 0x31, 0x32, 0x33, 0x34, 0x35, 0x37, 0x38, 0x41, 0x42, 0x43, 0x45]

/-- The Steward serves the mailbox now. -/
def mbxServes (s : State) : Bool := stewardRuns s && hasCommit s

/-- The code for a command that is not served: BAD_CMD, NOT_IN_MODE. -/
def unserved (s : State) (op : BitVec 8) : Option (BitVec 8) :=
  if romOps.contains op then none
  else if olumonOps.contains op then (if s.stew.fw = .olumon then none else some 8)
  else some 1

/-- The command in work waits for a context of the engine, and none is free (Table SW-9). -/
def waitsForContext (s : State) : Bool :=
  match s.nv.jobs with
  | j :: _ => match j.items with
    | .engine _ turns _ _ :: _ => j.mailbox && turns ≠ 0 && (stewardCtx s).isNone && (freeCtx s).isNone
    | _ => false
  | [] => false

/-- MBX_REPLY_POST: the reply is posted. Of a command not served it is BAD_CMD or NOT_IN_MODE; of one that has found no free
context for 100 ms, which is when this row's event then occurs, BUSY. -/
def mbxReplyPost (s : State) : State :=
  if !mbxServes s then s
  else match s.mbx.done, s.mbx.busy, s.mbx.q with
  | some r, _, _ => postReply s r
  | none, some c, _ =>
    if waitsForContext s then postReply (setJobs s (s.nv.jobs.drop 1)) { op := c.op, tag := c.tag, code := 3 } else s
  | none, none, c :: rest =>
    match unserved s c.op with
    | some code =>
      let buf := if c.op = 0x11 then false else s.mbx.bufBusy
      postReply { s with mbx := { s.mbx with q := rest, bufBusy := buf } }
        { op := c.op, tag := c.tag, code := code }
    | none => s
  | none, none, [] => s
def execMbxReplyPost (s : State) : Out := .next (settle s (pump (mbxReplyPost s)))

/-- A write of 1 to MBX_CTL.POP (R361, R442). -/
def mbxPop (s : State) : State :=
  match s.mbx.replies with
  | [] => s
  | _ :: rest =>
    let s := { s with mbx := { s.mbx with replies := rest } }
    if rest.isEmpty then s else house s hMBX

/-- MBX_RSP (Table RG-12). -/
def mbxRsp (s : State) : Word :=
  match s.mbx.replies with
  | r :: _ => put r.op.toNat 0 ||| put r.tag.toNat 8 ||| put r.code.toNat 16 ||| putB true 31
  | [] => 0

/-- The Steward takes up the command at the head, if it is `op` and is served, and works on it. -/
def takeCmd (s : State) (op : BitVec 8) (f : State → MbxCmd → State) : State :=
  match s.mbx.q, s.mbx.busy with
  | c :: rest, none =>
    if mbxServes s && c.op = op && unserved s op = none then
      pump (f { s with mbx := { s.mbx with q := rest, busy := some c } } c)
    else s
  | _, _ => s

/-- The command's work; its last item answers it. -/
def work (s : State) (items : List NvItem) : State :=
  setJobs s (s.nv.jobs ++ [{ mailbox := true, items := items }])

def ok0 : NvItem := .reply 0 0 0 0 0

/-! ## Steward commands (Table SW-8, R364) -/

def fwVerNow (s : State) : Word := s.stew.fwVer

def ping (s : State) : State := takeCmd s 0x01 fun s _ => replyNow s 0 (fwVerNow s) (put s.mbx.epoch.toNat 0) 0 0
def execPing (s : State) : Out := .next (settle s (ping s))

def getInfo (s : State) : State :=
  takeCmd s 0x02 fun s _ => replyNow s 0 s.stew.loadStat (fwVerNow s) s.stew.lmcVer (policyWord s.stew.mirror)
def execGetInfo (s : State) : Out := .next (settle s (getInfo s))

/-- Bank of the running firmware. -/
def runBank (s : State) : Option Bool :=
  if s.stew.fw = .olumon then
    match fld s.stew.loadStat 4 2 with
    | 0 => some false
    | 1 => some true
    | _ => none
  else none

/-- The image of a kind (1 firmware, 2 LMC) and bank is in force (R364). -/
def imgInUse (s : State) (kind : Nat) (bank : Bool) : Bool :=
  if kind = 1 then runBank s = some bank else s.stew.lmcBank = some bank

def imgBegin (s : State) : State :=
  takeCmd s 0x10 fun s c =>
    let kind := fld c.a0 0 2
    let bank := bit c.a0 8
    if kind ≠ 1 && kind ≠ 2 then replyNow s 2 0 0 0 0
    else if imgInUse s kind bank then replyNow s 4 0 0 0 0
    else
      let (f, n) := imgArea (kind = 2) bank
      let s := { s with stew := { s.stew with imgKind := BitVec.ofNat 2 kind, imgBank := bank, imgSet := [] } }
      work s (((upTo n).map fun j => .eraseSector (f + j) false) ++ [ok0])
def execImgBegin (s : State) : Out := .next (settle s (imgBegin s))

/-- The 128 bytes of MBX_BUF. -/
def mbxBuf (s : State) : List Byte := (upTo 32).flatMap fun i => leBytes (regImm s (0x980 + 4 * i))

/-- Four program words at an address. -/
def programWork (addr : Nat) (b : List Byte) : List NvItem :=
  (upTo 4).map fun i => .program (addr + 32 * i) ((b.drop (32 * i)).take 32)

/-- Bytes not yet programmed since the area was erased. -/
def stillErased (s : State) (addr : Nat) : Bool := (upTo 4).all fun i => wordErased s (addr + 32 * i)

/-- IMG_WRITE goes to the area last begun; with none begun it is refused BAD_ARG (log 15). -/
def imgWrite (s : State) : State :=
  takeCmd s 0x11 fun s c =>
    let b := mbxBuf s
    let s := { s with mbx := { s.mbx with bufBusy := false } }
    let off := c.a0.toNat
    let kind := s.stew.imgKind.toNat
    let (f, n) := imgArea (kind = 2) s.stew.imgBank
    let a := f * 4096 + off
    if kind = 0 then replyNow s 2 0 0 0 0
    else if imgInUse s kind s.stew.imgBank then replyNow s 4 0 0 0 0
    else if off % 128 ≠ 0 || n * 4096 < off + 128 then replyNow s 2 0 0 0 0
    else if areaDead s f then replyNow s 6 0 0 0 0
    else if !stillErased s a || s.stew.imgSet.contains (off / 128) then replyNow s 2 0 0 0 0
    else work { s with stew := { s.stew with imgSet := s.stew.imgSet ++ [off / 128] } } (programWork a b ++ [ok0])
def execImgWrite (s : State) : Out := .next (settle s (imgWrite s))

def noEcc : Ecc := { corrected := 0, bad := [] }

/-- The LMC source the loader would report for a firmware image (R355). -/
def verifyLmc (s : State) (e : Ecc) (bank : Bool) : Nat :=
  lmcSource s e s.stew.policy bank (imgPair s false bank)

/-- Blocks of a SHA-256 message of n bytes, and the turns of a verification after its hash (R394, R396). -/
def shaTurns (n : Nat) : Nat := (n + 72) / 64
def ecdsaTurns : Nat := 1024

/-- Engine turns of an image's check that ends with a code: the key's hash, the signature, the body's digest (R349). -/
def imgTurns (s : State) (lmc bank : Bool) (code : Nat) : Nat :=
  if code = 1 || code = 2 || code = 3 || code = 0xB then 0
  else shaTurns 64 + shaTurns 128 + ecdsaTurns + (if code = 4 then 0 else shaTurns (imgLen s lmc bank))

/-- The same for a firmware image, with the LMC images that its check examines (R355). -/
def fwTurns (s : State) (e : Ecc) (bank : Bool) : Nat :=
  let p := s.stew.policy
  let l := fun b => imgTurns s true b (checkImage s e p true b)
  imgTurns s false bank (checkFirmware s e p false bank).1 + l bank +
  (if lmcSource s e p bank (imgPair s false bank) = 0 then 0 else l (!bank))

/-- A verification by the Steward runs on the engine, and is answered at its end (R287, R395). -/
def verified (s : State) (turns : Nat) (rest : List NvItem) : State := work s (.engine none turns 0 0 :: rest)

/-- IMG_VERIFY: check code, outcome and LMC_SRC in the first three data words (log 16). -/
def imgVerify (s : State) (e : Ecc) : State :=
  takeCmd s 0x12 fun s c =>
    let kind := fld c.a0 0 2
    let bank := bit c.a0 8
    if kind ≠ 1 && kind ≠ 2 then replyNow s 2 0 0 0 0
    else
      let lmc := kind = 2
      let (f, n) := imgArea lmc bank
      let s := eccTake s e (f * 4096) (n * 4096)
      if lmc then
        let code := checkImage s e s.stew.policy true bank
        verified s (imgTurns s true bank code) [.reply (if code = 0 then 0 else 5) (BitVec.ofNat 32 code) 0 0 0]
      else
        match checkFirmware s e s.stew.policy false bank with
        | (0, r) =>
          verified s (fwTurns s e bank) [.reply 0 0 (if r then 1 else 0) (BitVec.ofNat 32 (verifyLmc s e bank)) 0]
        | (code, _) =>
          verified s (imgTurns s false bank code) [.reply 5 (BitVec.ofNat 32 code) (if code = 9 then 3 else 2) 3 0]
def execImgVerify (e : Ecc) (s : State) : Out := .next (settle s (imgVerify s e))

/-- The policy record is written, and logged by running firmware, before the reply (R352). -/
def policyItems (s : State) (p : Policy) (data : Bool) : List NvItem :=
  let log := if s.stew.fw = .olumon then [NvItem.append .log 0x14 0 (policyWord p) 0] else []
  [.append .policy 0x50 0 0 (policyData p)] ++ log ++ [.policyDone p, .reply 0 (if data then policyWord p else 0) 0 0 0]
def policyWork (s : State) (p : Policy) (data : Bool) : State := work s (policyItems s p data)

/-- A policy change that needs a bank's firmware to pass its checks: NOT_ALLOWED when it does not. -/
def policyOfBank (s : State) (bank : Bool) (p : Policy) : State :=
  let code := (checkFirmware s noEcc s.stew.policy false bank).1
  if code = 0 then verified s (fwTurns s noEcc bank) (policyItems s p false)
  else verified s (imgTurns s false bank code) [.reply 7 0 0 0 0]

def bootTrial (s : State) : State :=
  takeCmd s 0x13 fun s c =>
    if 1 < c.a0.toNat then replyNow s 2 0 0 0 0
    else
      let bank := bit c.a0 0
      if s.pw.straps.extractLsb' 1 2 ≠ 2 then replyNow s 7 0 0 0 0
      else policyOfBank s bank { s.stew.policy with trial := if bank then 2 else 1, attempted := false }
def execBootTrial (s : State) : Out := .next (settle s (bootTrial s))

def commitTrial (s : State) : State :=
  takeCmd s 0x14 fun s c =>
    match bit s.stew.loadStat 6, runBank s with
    | true, some bank =>
      let p := s.stew.policy
      let floor := if bit c.a0 0 || s.stew.rollback.toNat ≤ p.floor.toNat then p.floor else s.stew.rollback
      policyWork s { p with active := bank, trial := 0, attempted := false, floor := floor } true
    | _, _ => replyNow s 7 0 0 0 0
def execCommitTrial (s : State) : Out := .next (settle s (commitTrial s))

def switchBank (s : State) : State :=
  takeCmd s 0x15 fun s c =>
    if 1 < c.a0.toNat then replyNow s 2 0 0 0 0
    else policyOfBank s (bit c.a0 0) { s.stew.policy with active := bit c.a0 0 }
def execSwitch (s : State) : Out := .next (settle s (switchBank s))

def setPolicy (s : State) : State :=
  takeCmd s 0x20 fun s c =>
    let keys : BitVec 4 := c.a0.extractLsb' 4 4
    if s.stew.fw = .olumon && keys.getLsbD s.stew.keyId.toNat then replyNow s 7 0 0 0 0
    else policyWork s { s.stew.policy with allow := bit c.a0 0, revoke := s.stew.policy.revoke ||| keys } true
def execSetPolicy (s : State) : Out := .next (settle s (setPolicy s))

/-! ## Store commands (Table NV-10) -/

/-- NV_STAT (Table RG-9). -/
def nvStat (s : State) : Word :=
  putB s.nv.op.isSome 0 ||| put (qNvm s) 4 ||| putB s.nv.armed 12 ||| put s.nv.gaspResult.toNat 16 |||
  put s.nv.calSrc.toNat 20

/-- The highest erase count, and the lowest sector that has it. -/
def topCount (s : State) : Nat × Nat :=
  (upTo 256).foldl (fun m q => if m.1 < eraseCount s q then (eraseCount s q, q) else m) (0, 0)

/-- The log's entries: sequence and address, newest first. -/
def logEntries (s : State) : List (Nat × Nat) :=
  sortBy (fun a b => decide (b.1 ≤ a.1)) ((upTo 60).flatMap fun j =>
    (upTo (sectorEnd s (196 + j))).filterMap fun i =>
      (entryAt s ((196 + j) * 4096 + 32 * i)).map fun e => (e.eseq.toNat, (196 + j) * 4096 + 32 * i))

/-- NV_INFO; the count and its sector share a word (log 16). -/
def nvInfo (s : State) : State :=
  takeCmd s 0x40 fun s _ =>
    let t := topCount s
    replyNow s 0 (nvStat s) (put t.1 0 ||| put t.2 16) (BitVec.ofNat 32 s.nv.retired.length)
      (BitVec.ofNat 32 (logEntries s).length)
def execNvInfo (s : State) : Out := .next (settle s (nvInfo s))

/-- Sixteen bytes of the store as reply data. -/
def reply16 (s : State) (a : Nat) : State := replyNow s 0 (nv32 s a) (nv32 s (a + 4)) (nv32 s (a + 8)) (nv32 s (a + 12))

def logRead (s : State) (e : Ecc) : State :=
  takeCmd s 0x41 fun s c =>
    match (logEntries s)[c.a0.toNat]? with
    | none => replyNow s 2 0 0 0 0
    | some p => reply16 (eccTake s e p.2 32) (p.2 + (if bit c.a1 0 then 16 else 0))
def execLogRead (e : Ecc) (s : State) : Out := .next (settle s (logRead s e))

def gaspRead (s : State) (e : Ecc) : State :=
  takeCmd s 0x42 fun s c =>
    match (consumedSlots s)[c.a1.toNat]? with
    | some k =>
      if c.a0.toNat < 16 then
        let a := slotAddr k + 16 * c.a0.toNat
        reply16 (eccTake s e a 16) a
      else replyNow s 2 0 0 0 0
    | none => replyNow s 2 0 0 0 0
def execGaspRead (e : Ecc) (s : State) : Out := .next (settle s (gaspRead s e))

/-- CAL_SAVE (R379): the body is the Steward's own, free here, of the length of the copy in force or else of one word
(log 17). -/
def calSave (s : State) : State :=
  takeCmd s 0x43 fun s _ =>
    let (sec, gen) := copyTarget s 4 false
    let n := match copyInForce s 4 false with
      | some (k, _) => copyLen s (4 + k) false
      | none => 32
    let body := (upTo n).map (freeByte s.free)
    let s := { s with free := s.free + n }
    let head := leBytes 0x42434C41 ++ leBytes gen ++ leBytes (BitVec.ofNat 32 n) ++ List.replicate 16 0
    work s (copyWork sec head body ++ [.reply 0 gen 0 0 0])
def execCalSave (s : State) : Out := .next (settle s (calSave s))

def wearRead (s : State) : State :=
  takeCmd s 0x44 fun s c =>
    let q := c.a0.toNat
    if 255 < q then replyNow s 2 0 0 0 0
    else replyNow s 0 (put (eraseCount s q) 0 ||| putB (s.nv.retired.contains q) 16 ||| putB (incomplete s q) 17) 0 0 0
def execWearRead (s : State) : Out := .next (settle s (wearRead s))

def logMark (s : State) : State :=
  takeCmd s 0x45 fun s c =>
    work s [.append .log 0x15 (c.a0.setWidth 8) c.a1 (c.a2.setWidth 96 ||| (c.a3.setWidth 96 <<< 32)), .markDone]
def execLogMark (s : State) : Out := .next (settle s (logMark s))

/-! ## Bundle commands (Table AU-9) -/

/-- A bundle command: NOT_ALLOWED while sealed bundles or signatures are held off (R420). -/
def takeBundle (s : State) (op : BitVec 8) (f : State → MbxCmd → State) : State :=
  takeCmd s op fun s c => if feat s 4 && feat s 7 then f s c else replyNow s 7 0 0 0 0

def bundleBegin (s : State) : State :=
  takeBundle s 0x30 fun s c =>
    let n := c.a0.toNat
    if s.bun.apply || s.bun.unconf then replyNow s 7 0 0 0 0
    else if n < 128 || 130816 < n then replyNow s 2 0 0 0 0
    else
      let k := stagingSlot s
      let s := { s with bun := { s.bun with declared := n, wrote := [], stage := some k, floor := BitVec.ofNat 32 (seqFloor s) } }
      let sectors := (256 + n + 4095) / 4096
      work s (((upTo sectors).map fun j => .eraseSector (bslotAddr k / 4096 + j) false) ++
        [.reply 0 (k.setWidth 32) 0 0 0])
def execBundleBegin (s : State) : Out := .next (settle s (bundleBegin s))

def bundleWrite (s : State) : State :=
  takeBundle s 0x31 fun s c =>
    let off := c.a0.toNat
    match s.bun.stage with
    | none => replyNow s 2 0 0 0 0
    | some k =>
      let a := bslotAddr k + 0x100 + off
      if off % 128 ≠ 0 || 130816 < off + 128 then replyNow s 2 0 0 0 0
      else if areaDead s (bslotAddr k / 4096) then replyNow s 6 0 0 0 0
      else if !stillErased s a || s.bun.wrote.contains (off / 128) then replyNow s 2 0 0 0 0
      else work { s with bun := { s.bun with wrote := s.bun.wrote ++ [off / 128] } } (programWork a (mbxBuf s) ++ [ok0])
def execBundleWrite (s : State) : Out := .next (settle s (bundleWrite s))

/-- Engine turns of a bundle's check that ends with a code (R406, R410). -/
def bundleTurns (s : State) (k : BitVec 1) (code : Nat) : Nat :=
  if code = 1 || code = 2 || code = 3 then 0
  else shaTurns 64 + ecdsaTurns + (if code = 4 then 0 else shaTurns (bLen s k))

/-- BUNDLE_VERIFY of the slot last begun; without one, of the slot that BUNDLE_BEGIN would take. -/
def bundleVerify (s : State) (e : Ecc) : State :=
  takeBundle s 0x32 fun s _ =>
    let (k, declared, floor) := match s.bun.stage with
      | some k => (k, some s.bun.declared, s.bun.floor.toNat)
      | none => (stagingSlot s, none, seqFloor s)
    let code := bundleCheck s e k declared (some floor)
    let s := eccTake s e (bslotAddr k) 131072
    let q := bSeq s k
    let engine := NvItem.engine (some (BitVec.ofNat 4 (bKeySlot s k))) (bundleTurns s k code) 5 3
    if code ≠ 0 then
      work s [engine, .verdict (BitVec.ofNat 4 code), .append .log 0x19 (BitVec.ofNat 8 code) q 0, .reply 5 (BitVec.ofNat 32 code) 0 0 0]
    else
      work s [engine, statusWork k 0 q (BitVec.ofNat 32 floor), .append .log 0x18 (k.setWidth 8) q 0,
              .reply 0 q (bTarget s k) ((bFlags s k).setWidth 32) 0]
def execBundleVerify (e : Ecc) (s : State) : Out := .next (settle s (bundleVerify s e))

/-- The named headland lies ahead by 17 to 2^31 − 1 commits (R413). -/
def namedOk (h n : Word) : Bool := 17 ≤ (n - h).toNat && (n - h).toNat < 2 ^ 31

def bundleApply (s : State) : State :=
  takeBundle s 0x33 fun s c =>
    match stagedSlot s s.bun.stage with
    | none => replyNow s 7 0 0 0 0
    | some k =>
      if s.bun.apply then replyNow s 7 0 0 0 0
      else
        let t := bTarget s k
        let n := if t ≠ 0 then t else if c.a0 = 0 then s.hl.seq + 17 else c.a0
        if namedOk s.hl.seq n then replyNow (startApply s k n .command) 0 n 0 0 0 else replyNow s 2 0 0 0 0
def execBundleApply (s : State) : Out := .next (settle s (bundleApply s))

def bundleConfirm (s : State) : State :=
  takeBundle s 0x34 fun s _ =>
    if !s.bun.unconf || confirmOver s then replyNow s 7 0 0 0 0
    else
      let k := s.bun.tSlot
      let q := bSeq s k
      let s := { s with bun := { s.bun with unconf := false } }
      work s [statusWork k 2 q 0, .append .log 0x1B (k.setWidth 8) q 0, ok0]
def execBundleConfirm (s : State) : Out := .next (settle s (bundleConfirm s))

def bundleRollback (s : State) : State :=
  takeBundle s 0x35 fun s _ =>
    match startRollback s 1 with
    | (some t, _) => replyNow t 0 t.bun.n 0 0 0
    | (none, t) => replyNow t 7 0 0 0 0
def execBundleRollback (s : State) : Out := .next (settle s (bundleRollback s))

/-- Status words of a slot, one bit each. -/
def statusMask (s : State) (k : BitVec 1) : Nat :=
  (upTo 8).foldl (fun m w => if hasStatus s k w then m + 2 ^ w else m) 0

/-- BUNDLE_INFO; the status words of both slots share a word (log 16). -/
def bundleInfo (s : State) : State :=
  takeBundle s 0x36 fun s _ =>
    replyNow s 0 (put (statusMask s 0) 0 ||| put (statusMask s 1) 8) (bSeq s 0) (bSeq s 1) (auBstat s)
def execBundleInfo (s : State) : Out := .next (settle s (bundleInfo s))

/-- A signature over slot byte, use byte and key, by a key of use BUNDLE (R405, R420). -/
def putSigned (s : State) (c : MbxCmd) (slot : Nat) (use : BitVec 3) (b : List Byte) : Bool :=
  match p256Key s (fld c.a1 0 4) 2 with
  | some key => ecdsa key (sha256 ([BitVec.ofNat 8 slot, use.setWidth 8] ++ b.take 64)) (b.drop 64)
  | none => false

def keyPut (s : State) : State :=
  takeCmd s 0x37 fun s c =>
    let slot := fld c.a0 0 4
    let kind : BitVec 2 := c.a0.extractLsb' 4 2
    let use : BitVec 3 := c.a0.extractLsb' 8 3
    let len := fld c.a0 16 7
    let b := mbxBuf s
    if !keyOk kind use len then replyNow s 2 0 0 0 0
    else
      let copy := NvItem.keyCopy (BitVec.ofNat 4 slot) (some { kind := kind, use := use, bytes := b.take len }) 1
      if s.au.sealed && use.getLsbD 2 then
        let by_ := fld c.a1 0 4
        let turns := if (p256Key s by_ 2).isSome then shaTurns 66 + ecdsaTurns else 0
        work s [.engine (some (BitVec.ofNat 4 by_)) turns 7 0, if putSigned s c slot use b then copy else .reply 7 0 0 0 0]
      else work s [copy]
def execKeyPut (s : State) : Out := .next (settle s (keyPut s))

/-- Slots that hold, or will hold, a BUNDLE key. -/
def bundleKeys (s : State) : List Nat := (upTo 16).filter fun k => isBundleKey (slotKey (slotOf s k))

def keyDrop (s : State) : State :=
  takeCmd s 0x38 fun s c =>
    let slot := c.a0.toNat
    if 15 < slot then replyNow s 2 0 0 0 0
    else if s.au.sealed && bundleKeys s = [slot] then replyNow s 7 0 0 0 0
    else work s [.keyCopy (BitVec.ofNat 4 slot) none 2]
def execKeyDrop (s : State) : Out := .next (settle s (keyDrop s))

/-- KEY_INFO: eight bits a slot, type in [1:0], use in [4:2], state in [6:5]; SEALED in bit 7 of slot 0's (log 16). -/
def slotInfo (s : State) (k : Nat) : Nat :=
  let x := slotOf s k
  (match x.key with | some q => q.kind.toNat + 4 * q.use.toNat | none => 0) + 32 * slotState x +
  (if k = 0 && s.au.sealed then 128 else 0)
def infoWord (s : State) (w : Nat) : Word :=
  put (slotInfo s (4 * w)) 0 ||| put (slotInfo s (4 * w + 1)) 8 ||| put (slotInfo s (4 * w + 2)) 16 |||
  put (slotInfo s (4 * w + 3)) 24
def keyInfo (s : State) : State :=
  takeCmd s 0x39 fun s _ => replyNow s 0 (infoWord s 0) (infoWord s 1) (infoWord s 2) (infoWord s 3)
def execKeyInfo (s : State) : Out := .next (settle s (keyInfo s))

end Sys2Proof.Machine
end

