-- ==== Sys2Proof/Machine/Pins.lean ====
section
/-!
DEFINITION. Machine/Pins.lean: the level at each output pin in each mode (R346, Table MD-7, R486), where none is a
floating pin, and the data registers of the test access port (R487, R488).
-/
namespace Sys2Proof.Machine

/-- Outputs float while a supply is out of range (R486). -/
def pinsFloat (s : State) : Bool := s.pw.supplyOut

/-- A wired target's pin is asserted: from an offer's event X for as long as a current ticket is neither claimed nor
returned (R98). -/
def woutAsserted (s : State) (k : Nat) : Bool :=
  let t : Target := BitVec.ofNat 8 (240 + k)
  tgtBind s t && (tgtOf s t).wout && !(ticketsOf s t).isEmpty

/-- WOUT k as its rule drives it. -/
def woutRule (s : State) (k : Nat) : Option Bool :=
  if bit (regLive s 0x1280) k then
    let on := if s.pw.mode = .safe then woutSafe s k else woutAsserted s k
    some (on == bit (regLive s 0x1280) (16 + k))
  else none

/-- A ball in TEST: its output cell, while its enable cell, the next one, is 1 (R489, Table MD-7). -/
def scanPin (s : State) (cell : Nat) : Option Bool :=
  if s.pw.bsr.getLsbD (cell + 1) then some (s.pw.bsr.getLsbD cell) else none

def woutPin (s : State) (k : Nat) : Option Bool :=
  if pinsFloat s then none
  else match s.pw.mode with
  | .test => scanPin s (249 + 3 * k + 1)
  | .safe | .operating => woutRule s k
  | .fallow | .lastGasp => if s.pw.woutOe.getLsbD k then some (s.pw.woutLvl.getLsbD k) else none
  | _ => none

/-- The pins are captured on entry to FALLOW or LAST-GASP, where they hold. -/
def holdWout (s : State) : State :=
  if s.pw.mode = .fallow then s
  else
    let oe := (upTo 16).foldl (fun (m : BitVec 16) k => if (woutPin s k).isSome then m ||| (1#16 <<< k) else m) 0
    let lv := (upTo 16).foldl (fun (m : BitVec 16) k => if woutPin s k = some true then m ||| (1#16 <<< k) else m) 0
    let mq := (upTo 4).foldl (fun (m : BitVec 4) k => if mirqLevel s k then m ||| (1#4 <<< k) else m) 0
    { s with pw := { s.pw with woutOe := oe, woutLvl := lv, mirqHeld := mq } }

def mirqPin (s : State) (m : Nat) : Option Bool :=
  if pinsFloat s then none
  else match s.pw.mode with
  | .test => scanPin s (297 + 2 * m)
  | .safe | .operating | .lastGasp => some (mirqLevel s m)
  | .fallow => some (s.pw.mirqHeld.getLsbD m)
  | _ => none

def bgntPin (s : State) (n : Nat) : Option Bool :=
  if pinsFloat s then none
  else match s.pw.mode with
  | .test => scanPin s (if n < 4 then 309 + 2 * n else 321 + 2 * (n - 4))
  | .safe | .operating | .fallow => some (bgnt s n)
  | .lastGasp => some false
  | _ => none

/-- HBCLK (R124, R127): true while it runs, false while it is held low. -/
def hbclkPin (s : State) : Option Bool :=
  if pinsFloat s then none
  else match s.pw.mode with
  | .test => scanPin s 128
  | .reset | .shutdown => none
  | _ => some (s.pw.straps.getLsbD 0)

/-- The link's state has its lanes send something: a training pattern, traffic, or the beacon (Table LB-1, R306, R311). -/
def linkSends (r : LinkRec) : Bool :=
  match r.st with
  | .down | .detect | .rate | .fallow => false
  | .active => r.entry.isNone
  | .idle => decide (r.exitStep ≠ 0)
  | .wake => decide (r.exitStep = 1)
  | _ => true

/-- A lane transmitter: none while it is off, false while it sends electrical idle. -/
def laneTx (s : State) (l : Link) (p : Nat) : Option Bool :=
  if pinsFloat s then none
  else match s.pw.mode with
  | .test => some (s.pw.bsr.getLsbD (16 * l.toNat + 4 * p + 1))
  | .operating => some (linkSends (linkOf s l))
  | _ => some false

/-! ## The data registers of the test access port (R487, R488, R490) -/

/-- The data registers (Table PK-9). -/
inductive TapData where
  | boundary | idcode | bist | bypass
  deriving DecidableEq, Repr

/-- The register the current instruction places between TDI and TDO; an unlisted code acts as BYPASS. -/
def tapData (ir : BitVec 5) : TapData :=
  match ir.toNat with
  | 0 | 1 | 4 | 5 | 6 => .boundary
  | 2 => .idcode
  | 8 | 9 => .bist
  | _ => .bypass

/-- The value of IDCODE (R488). -/
def idcodeValue : Word := 0x162566B7

/-- What Capture-DR loads into the 32-bit and the 1-bit registers; the boundary cells capture the balls, which are outside. -/
def tapCapture (s : State) : Option Word :=
  match tapData s.pw.ir with
  | .idcode => some idcodeValue
  | .bist => some s.pw.bist
  | .bypass => some 0
  | .boundary => none

end Sys2Proof.Machine
end

