-- ==== Sys2Proof/Machine/Loader.lean ====
section
/-!
DEFINITION. Machine/Loader.lean: the start of the Steward: the loader's outcome, the ROM monitor, the boot work of Olumon
firmware (R330, R337, R355 to R358, R377, R404, R419).
-/
namespace Sys2Proof.Machine

/-- RST_STAT (Table RG-5). -/
def rstStat (s : State) : Word := put s.pw.cause.toNat 0 ||| putB s.pw.shut 4 ||| put s.pw.count.toNat 8

/-- The boot work of R377 in its order, then the BOOT entry, the trial's ATTEMPTED (R358), the keys and the boot apply. -/
def bootWork (s : State) : List NvItem :=
  let repair := ((replayJournal s).isOpen.reverse).flatMap fun q => [NvItem.eraseSector q false, .repaired q]
  let p := { s.stew.policy with attempted := true }
  let trial := if bit s.stew.loadStat 6 then
      [NvItem.append .policy 0x50 0 0 (policyData p), .append .log 0x14 0 (policyWord p) 0, .policyDone p] else []
  repair ++ [.locate, .gaspRecover, .armWanted, .append .log 0x10 0 (rstStat s) (s.stew.loadStat.setWidth 96)] ++ trial ++
    [.bootKeys, .bootApply]

/-- Olumon firmware starts after a warm or power-on reset. -/
def olumonBoots (s : State) : State :=
  let s := loadCal (learnStore s)
  setJobs s ({ mailbox := false, items := bootWork s } :: s.nv.jobs)

/-- Olumon firmware starts after a Steward reset: no repair; the slots are loaded again (log 18). -/
def olumonRestarts (s : State) : State := bundleResume (pushJob (learnStore s) [.bootKeys])

/-- What a firmware image in force sets (R356, R357). -/
def takeFirmware (s : State) (p : Policy) (bank restricted : Bool) : State :=
  let a := imgAddr false bank
  { s with stew := { s.stew with
      fw := .olumon, featEn := if restricted then idFeat &&& nv32 s (a + 0x18) else idFeat,
      fwVer := imgVersion s false bank, mirror := p, policy := p, rollback := imgRollback s false bank,
      keyId := BitVec.ofNat 8 (imgKeyId s false bank) } }

/-- The LMC of source 0 own bank, 1 other bank, 2 ROM default comes into force. -/
def takeLmc (s : State) (bank : Bool) (src : Nat) : State :=
  let b := if src = 0 then bank else !bank
  if src = 2 then
    { s with stew := { s.stew with lmcVer := 0, lmcPair := none, lmcBank := none, lmcRates := 3 } }
  else
    { s with stew := { s.stew with lmcVer := imgVersion s true b, lmcPair := some (imgPair s true b), lmcBank := some b,
                                   lmcRates := imgRates s b } }

def setLoadStat (s : State) (w : Word) : State := { s with stew := { s.stew with loadStat := w } }

/-- The ROM monitor starts. -/
def monitorStarts (s : State) (p : Policy) : State :=
  learnStore { s with stew := { s.stew with fw := .monitor, fwVer := 0, mirror := p, policy := p } }

def setMode (s : State) (m : Mode) : State := { s with pw := { s.pw with mode := m } }

def safeForce (s : State) : Bool := s.pw.straps.getLsbD 4

/-- The run in LOAD. -/
def loadOutcome (s : State) (e : Ecc) : State :=
  let p := readPolicy s
  let r := loaderDecide s e p false
  let s := eccTake s e 0 (2 ^ 20)
  match r.bank with
  | some b =>
    let src := lmcSource s e p b (imgPair s false b)
    let s := setLoadStat (takeLmc (takeFirmware s p b (r.outcome = 1)) b src) (loadStatWord r false src)
    let s := setMode s (if safeForce s then .safe else .operating)
    let s := if r.outcome = 1 || src = 2 then house s hPAIRING else s
    olumonBoots s
  | none =>
    let s := setLoadStat (monitorStarts s p) (loadStatWord r false 3)
    loadCal (setMode s .safe)

/-- Fields of a feature held off stand at their reset values (R351). -/
def holdTab (s : State) (t : Tab Word) : Tab Word :=
  t.filterMap fun p =>
    let w := mergeMask (featOff s p.1) p.2 (keyReset p.1)
    if w = keyReset p.1 then none else some (p.1, w)

def holdFeatures (s : State) : State :=
  { s with cfg := { s.cfg with shadow := holdTab s s.cfg.shadow, live := holdTab s s.cfg.live } }

/-- The run after a Steward reset (R330, R355, R356). -/
def reloadOutcome (s : State) (e : Ecc) : State :=
  let p := readPolicy s
  let r := loaderDecide s e p true
  let s := eccTake s e 0 (2 ^ 20)
  let src := fld s.stew.loadStat 8 2
  match r.bank, operating s || safeForce s with
  | some b, true =>
    let s := holdFeatures (setLoadStat (takeFirmware s p b (r.outcome = 1)) (loadStatWord r true src))
    let s := if r.outcome = 1 || s.stew.lmcBank.isNone then house s hPAIRING else s
    olumonRestarts s
  | _, _ =>
    let s := setLoadStat { s with stew := { s.stew with mirror := p, policy := p, fwVer := 0 } }
      (loadStatWord { r with bank := none, trial := false } true src)
    if operating s then { s with pw := { s.pw with stwDown := true } } else monitorStarts s p

/-- LOADER_OUTCOME. -/
def loaderOutcome (s : State) (e : Ecc) : State :=
  if s.pw.mode = .load then loadOutcome s e
  else if hasCommit s && s.stew.fw = .none && !s.pw.stwDown then reloadOutcome s e
  else s
def execLoaderOutcome (e : Ecc) (s : State) : Out := .next (settle s (pump (loaderOutcome s e)))

/-- LOAD_TIMEOUT (R337): SAFE, with the ROM monitor. -/
def loadTimeout (s : State) : State :=
  if s.pw.mode = .load then
    let s := setLoadStat (monitorStarts s (readPolicy s)) (loadStatWord { outcome := 5 } false 3)
    let s := setMode s .safe
    loadCal { s with pw := { s.pw with loadTmo := true } }
  else s
def execLoadTimeout (s : State) : Out := .next (settle s (loadTimeout s))

/-- A Steward reset (R330, R362, Table MD-3). Once STW_DOWN stands, only a warm reset brings the Steward back: DESIGN CHOICE
(log 91). -/
def stewardReset (s : State) : State :=
  if hasCommit s then
    let s := bundleStewardReset (discardWork s)
    let s := { s with
      mbx := { epoch := s.mbx.epoch + 1 },
      au := { s.au with ctxs := [], slots := [], sealed := false },
      stew := { s.stew with fw := .none, imgKind := 0, imgSet := [] } }
    let drop := fun s c => freeGrant (dropReq s c) c
    arbSettle s (drop (drop (drop s cPROGRAM) cERASE) cAUTH)
  else s

/-- WATCHDOG_EXPIRY (R348). -/
def watchdogExpiry (s : State) : State :=
  if hasCommit s && s.stew.fw = .olumon && !s.pw.stwDown then
    stewardReset { s with stew := { s.stew with wdog := satInc8 s.stew.wdog } }
  else s
def execWatchdogExpiry (s : State) : Out := .next (settle s (watchdogExpiry s))

end Sys2Proof.Machine
end

