-- ==== Sys2Proof/Machine/Modes.lean ====
section
/-!
DEFINITION. Machine/Modes.lean: resets, the modes and their transitions, the gasp record, temperature, device-level FALLOW
and the test access port (chapters 15, 17 and 22), with the pins that the arbiter samples.
-/
namespace Sys2Proof.Machine

/-! ## Resets (R327 to R331, Table MD-3) -/

/-- What every reset of the whole part leaves of the store: its contents. -/
def storeKept (s : State) : Store := { mem := s.nv.mem, indet := s.nv.indet }

/-- The part goes to RESET by a warm reset of a cause. The timebase keeps its phase and frame count, and, DESIGN CHOICE
(log 74), the length of the frame in progress; its state is FREE until the strap is sampled (R106, R111). RST_STAT, the
straps, the TAP and what the supplies show are kept too. -/
def warmReset (s : State) (cause : BitVec 4) (fromShutdown : Bool) : State :=
  let s := cutWork s
  { State.reset with
    pending := s.pending
    now := s.now
    free := s.free
    tb := { started := s.tb.started, phase := s.tb.phase, len := s.tb.len, frame := s.tb.frame }
    nv := storeKept s
    stew := { frames := s.stew.frames }
    pw := { mode := .reset, cause := s.pw.cause, shut := s.pw.shut, count := s.pw.count, straps := s.pw.straps,
            nextCause := if s.pw.mode = .reset && s.pw.nextCause = 1 then 1 else cause,
            endsShut := fromShutdown || (s.pw.mode = .reset && s.pw.endsShut),
            nporHigh := s.pw.nporHigh, pllLocked := s.pw.pllLocked, hbRange := s.pw.hbRange,
            supplyOut := s.pw.supplyOut, ir := s.pw.ir, bist := s.pw.bist, bsr := s.pw.bsr } }

/-- NPOR: asynchronous, in every mode; the timebase and RST_STAT are cleared and the TAP takes IDCODE. -/
def npor (s : State) : State :=
  let t := cutWork s
  { State.reset with
    pending := t.pending
    now := t.now
    free := t.free
    nv := storeKept t
    pw := { endsShut := s.pw.mode = .shutdown || (s.pw.mode = .reset && s.pw.endsShut), supplyOut := s.pw.supplyOut,
            bsr := s.pw.bsr } }
def execNpor (s : State) : Out := .next (npor s)

/-- NPOR_RISE (R325, R494): the root PLL is enabled and the bank takes its range. -/
def nporRise (s : State) (range : HbRange) : State :=
  if s.pw.mode = .reset && !s.pw.nporHigh then { s with pw := { s.pw with nporHigh := true, hbRange := range } } else s
def execNporRise (range : HbRange) (s : State) : Out := .next (nporRise s range)

/-- ROOT_PLL_LOCK (R105, R325, R326). -/
def rootPllLock (s : State) : State :=
  if s.pw.mode = .reset && s.pw.nporHigh && !s.pw.pllLocked then
    { s with pw := { s.pw with pllLocked := true }, tb := { s.tb with started := true } }
  else s
def execRootPllLock (s : State) : Out := .next (rootPllLock s)

/-- PLL_LOSS (R326): in every mode but SHUTDOWN; the part waits for relock. -/
def pllLoss (s : State) : State :=
  if s.pw.mode = .shutdown || !s.pw.pllLocked then s
  else
    let s := warmReset s 4 false
    { s with pw := { s.pw with pllLocked := false } }
def execPllLoss (s : State) : Out := .next (pllLoss s)

/-- A reading as a signed number of 0.125 degrees. -/
def temp (t : BitVec 12) : Int := t.toInt

def temps (s : State) : List (BitVec 12) := [s.pw.t0, s.pw.t1, s.pw.t2, s.pw.t3]

/-- Every sensor reads below 105 degrees. -/
def allCool (s : State) : Bool := (temps s).all fun t => decide (temp t < 840)

/-- A warm reset by nRESET or by software, under Table MD-6; in LAST-GASP it waits for the record (R340). -/
def askWarm (s : State) (cause : BitVec 4) : State :=
  match s.pw.mode with
  | .shutdown => if cause = 2 && allCool s then warmReset s cause true else s
  | .test => s
  | .lastGasp => if s.pw.gaspWriting then { s with pw := { s.pw with deferred := some cause } } else warmReset s cause false
  | _ => warmReset s cause false

/-- NRESET: adopted low. -/
def nreset (s : State) : State :=
  let s := askWarm s 2
  { s with pw := { s.pw with nresetLow := true } }
def execNreset (s : State) : Out := .next (nreset s)

/-- RESET_RELEASE (R328, R331): straps sampled, RST_STAT set, LEVEL adopted, LOAD begins. -/
def resetRelease (s : State) (straps : BitVec 5) (level : BitVec 4) : State :=
  if s.pw.mode = .reset && s.pw.nporHigh && s.pw.pllLocked then
    let pin := straps.getLsbD 3
    let warm := s.pw.nextCause ≠ 1
    let s := { s with
      pw := { s.pw with mode := .load, straps := straps, cause := s.pw.nextCause, shut := s.pw.endsShut,
                        count := if warm then satInc8 s.pw.count else 0, nresetLow := false, endsShut := false },
      allot := { s.allot with level := level },
      tb := { s.tb with mode := if pin then .acquire else .free, nextLen := 77760 } }
    let s := setIm s (regKey 0x100) (regReset 0x100 ||| putB pin 0)
    setLive (setShadow s (regKey 0x1280) (woutReset s)) (regKey 0x1280) (woutReset s)
  else s
def execResetRelease (straps : BitVec 5) (level : BitVec 4) (s : State) : Out := .next (resetRelease s straps level)

/-! ## The gasp record (R382, R383, Table NV-5) -/

def le16 (n : Nat) : List Byte := [BitVec.ofNat 8 n, BitVec.ofNat 8 (n / 256)]

/-- Sixteen bits of a reading, sign-extended. -/
def temp16 (t : BitVec 12) : BitVec 16 := t.signExtend 16

/-- LK_STAT.STATE code. -/
def linkCode : LinkState → Nat
  | .down => 0x0
  | .detect => 0x1
  | .clock => 0x2
  | .align => 0x3
  | .order => 0x4
  | .caps => 0x5
  | .rate => 0x6
  | .clockAtRate => 0x7
  | .alignAtRate => 0x8
  | .active => 0x9
  | .regroup => 0xA
  | .idle => 0xB
  | .fallow => 0xC
  | .wake => 0xD

def linkByte (r : LinkRec) : Byte := BitVec.ofNat 8 (linkCode r.st + 16 * r.width.toNat + 64 * r.rate.toNat)

def ticketCount (s : State) : Nat := (s.irq.ints.filter fun p => p.2.offer.isSome).length

/-- Offsets 0x00 to 0x27. DEDUCED (log 93): the mode left for LAST-GASP from FALLOW is the one that FALLOW was entered from (R343). -/
def gaspHead (s : State) (nvop : Byte) : List Byte :=
  let cond := (if runEn s then 1 else 0) + (if bit (regLive s 0x200) 1 then 2 else 0) + (if s.pw.driftHold then 4 else 0) +
    (if s.allot.lean then 8 else 0) + (if s.pw.thr then 16 else 0)
  let bg := (upTo 8).foldl (fun m n => if bgnt s n then m + 2 ^ n else m) 0
  leBytes 0x50534147 ++ leBytes s.nv.gseq ++ leBytes s.hl.seq ++ leBytes s.tb.frame ++ leBytes (BitVec.ofNat 32 s.tb.phase) ++
  [BitVec.ofNat 8 (modeCode (if s.pw.mode = .fallow then setMode s .operating else s)), BitVec.ofNat 8 cond,
   BitVec.ofNat 8 (s.allot.level.toNat + (if bit (regLive s 0x400) 0 then 128 else 0)), nvop] ++
  le16 (budget s) ++ le16 (BitVec.ofInt 16 (freeAllot s)).toNat ++ le16 (saffHeld s) ++
  [BitVec.ofNat 8 s.allot.breq.toNat, BitVec.ofNat 8 bg] ++
  ((temps s).flatMap fun t => le16 (temp16 t).toNat)

def gaspMid (s : State) : List Byte :=
  let hs := sqOf s 0x300
  let cnts := [cntLOST, cntDISCARD, cntSTRAY, cntPOOLDROP, cntFAULTLOST, cntWALKTMO, cntACCESS]
  leBytes (put hs.flags.toNat 0 ||| put hs.seq.toNat 24) ++ leBytes s.hl.crc ++ leBytes (regImm s 0x804) ++
  leBytes s.stew.fwVer ++ ((upTo 8).map fun l => linkByte (linkOf s (BitVec.ofNat 3 l))) ++
  (cnts.flatMap fun c => leBytes (cntOf s c)) ++ leBytes s.allot.cntRevoke ++
  le16 s.xl.qIn.length ++ le16 (qWalk s) ++ le16 (qDlvAll s) ++ le16 s.xl.qCmp.length ++ le16 s.xl.qFlt.length ++
  le16 s.xl.qEvt.length ++ le16 (qNvm s) ++ le16 (qMbx s) ++ le16 (poolUsed s) ++ le16 (ticketCount s) ++
  leBytes (BitVec.ofNat 32 (min 0xFFFFFFFF (s.stew.frames / 8000))) ++ List.replicate 8 0

def gaspTrail (s : State) : List Byte :=
  ((s.nv.trail.flatMap fun (p : Word × BitVec 16) => leBytes p.1 ++ leBytes (p.2.setWidth 32)) ++ List.replicate 64 0).take 64

/-- The record; its Steward part is free (log 19). -/
def gaspRecord (s : State) (nvop : Byte) : List Byte :=
  let b := gaspHead s nvop ++ gaspMid s ++ gaspTrail s ++ (upTo 60).map (freeByte s.free)
  b ++ leBytes (crc32c (leWords b))

/-- NVOP: what the store did at the capture. -/
def nvopCode (s : State) : Byte :=
  match s.nv.op with
  | some (.program _ _) => 1
  | some (.erase _) => 2
  | none => 0

/-- Entry to LAST-GASP (R285, R340, R382). -/
def enterGasp (s : State) : State :=
  let rec' := gaspRecord s (nvopCode s)
  let writes := s.stew.fw = .olumon && !s.pw.stwDown && s.nv.armed
  let moved := budget s ≠ 0
  let s := emptyCaches (discardWork (holdWout s))
  let s := { s with
    free := s.free + 15
    nv := { s.nv with gasp := if writes then some { addr := slotAddr s.nv.slot, bytes := rec' } else none }
    allot := { s.allot with pfail := true, reqs := [], grants := [], overdraft := false }
    pw := { s.pw with mode := .lastGasp, gaspWriting := writes } }
  let s := if moved then house s hBUDGET else s
  { s with allot := { s.allot with lean := 0 < fld (regLive s 0x410) 0 12 } }

/-- PFAIL passes its filter (Table MD-6, rank 2). -/
def pfail (s : State) : State :=
  match s.pw.mode with
  | .load | .safe | .operating | .fallow => enterGasp s
  | _ => s
def execPfail (s : State) : Out := .next (settle s (pfail s))

/-- GASP_RECORD_COMPLETE (R382, R390): the words are programmed and read back. A deferred reset then acts. -/
def gaspRecordComplete (s : State) (ok : Bool) : State :=
  match s.nv.gasp, s.nv.op, s.pw.mode with
  | some g, none, .lastGasp | some g, none, .shutdown =>
    let s := if ok then nvWrite s g.addr g.bytes
      else foldS (fun s w => nvSpoilWord s (g.addr + 32 * w)) s (upTo 8)
    let s := { s with nv := { s.nv with gasp := none, armed := false }, pw := { s.pw with gaspWriting := false } }
    match s.pw.mode, s.pw.deferred with
    | .lastGasp, some c => warmReset s c false
    | _, _ => s
  | _, _, _ => s
def execGaspRecordComplete (ok : Bool) (s : State) : Out := .next (settle s (gaspRecordComplete s ok))

/-- GASP_RECOVERY (R340). -/
def gaspRecovery (s : State) : State :=
  if s.pw.mode = .lastGasp && !s.pw.gaspWriting then warmReset s 6 false else s
def execGaspRecovery (s : State) : Out := .next (gaspRecovery s)

/-! ## Shutdown (R341, R390) -/

/-- SHUTDOWN_TRIP: every mode but RESET and SHUTDOWN. A record goes on only once the store is free to write it. -/
def shutdownTrip (s : State) : State :=
  match s.pw.mode with
  | .reset | .shutdown => s
  | _ =>
    let begun := s.nv.op.isNone
    let s := emptyCaches (discardWork s)
    { s with
      nv := { s.nv with gasp := if begun then s.nv.gasp else none }
      allot := { s.allot with reqs := [], grants := [] }
      pw := { s.pw with mode := .shutdown, gaspWriting := s.pw.gaspWriting && begun } }
def execShutdownTrip (s : State) : Out := .next (shutdownTrip s)

/-! ## Temperature (R386 to R389) -/

/-- Whole degrees of a threshold: below 60 act as 60, above 120 as 120. -/
def degrees (n : Nat) : Int := 8 * (max 60 (min 120 n) : Nat)
def thrThrottle (s : State) : Int := degrees (fld (regImm s 0x514) 0 8)
def thrWarn (s : State) : Int := degrees (fld (regImm s 0x514) 8 8)
def thrHyst (s : State) : Int := 8 * (atLeastOne (fld (regImm s 0x514) 16 4) : Nat)

/-- The middle of three readings. -/
def median (a b c : Int) : Int := max (min a b) (min (max a b) c)

/-- Reading i, and the median of the other three. -/
def others (t : List Int) (i : Nat) : Int × Int :=
  let o := (t.zipIdx.filter fun p => p.2 ≠ i).map (·.1)
  (t.getD i 0, median (o.getD 0 0) (o.getD 1 0) (o.getD 2 0))

/-- Rounds in a row out of step, for each sensor. -/
def nextDev (s : State) (t : List Int) : Tab Nat :=
  (upTo 4).foldl (fun d i =>
    let (x, m) := others t i
    tabSet d 0 i (if 120 < (x - m).natAbs then tabGet d 0 i + 1 else 0)) s.pw.tDev

/-- Sensors failed after a round: out of range, or eight rounds out of step; a failed one stays so (R389). -/
def nextFail (s : State) (t : List Int) (dev : Tab Nat) : BitVec 4 :=
  (upTo 4).foldl (fun (m : BitVec 4) i =>
    let x := t.getD i 0
    if x < -400 || 1200 < x || 8 ≤ tabGet dev 0 i then m ||| (1#4 <<< i) else m) s.pw.tFail

def thermalData (s : State) : BitVec 96 :=
  (temps s).zipIdx.foldl (fun (d : BitVec 96) p => d ||| ((temp16 p.1).setWidth 96 <<< (16 * p.2))) 0

def logThermal (s : State) (k : BitVec 8) : State := logEntry s 0x12 k 0 (thermalData s)

/-- The highest reading of a round. -/
def maxTemp (l : List (BitVec 12)) : BitVec 12 := l.foldl (fun m t => if temp m < temp t then t else m) (l.headD 0)

/-- The modes in which the thermal monitor runs. -/
def thermalRuns (s : State) : Bool :=
  match s.pw.mode with
  | .reset | .test => false
  | _ => true

/-- THERMAL_ROUND. -/
def thermalRound (s0 : State) (a b c d : BitVec 12) : State :=
  if !thermalRuns s0 then s0
  else
    let t := [temp a, temp b, temp c, temp d]
    let dev := nextDev s0 t
    let fail := nextFail s0 t dev
    let newly := fail &&& ~~~s0.pw.tFail
    let good := (t.zipIdx.filter fun p => !fail.getLsbD p.2).map (·.1)
    let nfail := 4 - good.length
    let hot := good.any fun x => decide (thrThrottle s0 ≤ x)
    let cool := good.all fun x => decide (x ≤ thrThrottle s0 - thrHyst s0)
    let thr := if 2 ≤ nfail then true else if hot then true else if cool then false else s0.pw.thr
    let top := good.foldl max (-2048)
    let warns := decide (thrWarn s0 ≤ top) && !good.isEmpty
    let wasWarn := s0.pw.tWarn
    let s := { s0 with pw := { s0.pw with
      t0 := a, t1 := b, t2 := c, t3 := d, tMax := maxTemp [a, b, c, d], tDev := dev, tFail := fail, thr := thr,
      tWarn := if warns then true else if top < thrWarn s0 - thrHyst s0 then false else wasWarn } }
    let s := if thr ≠ s0.pw.thr then logThermal s (if thr then 1 else 2) else s
    let s := if warns && !wasWarn then logThermal (house s hTHERM) 3 else s
    let s := if newly ≠ 0 then logThermal (house s hTHERM) 4 else s
    if hasCommit s then arbSettle s0 s else s
def execThermalRound (t0 t1 t2 t3 : BitVec 12) (s : State) : Out := .next (settle s (thermalRound s t0 t1 t2 t3))

/-! ## Device-level FALLOW (R319 to R322, R343) -/

/-- The Steward and the engine have nothing in hand. -/
def stewardIdle (s : State) : Bool :=
  s.nv.jobs.isEmpty && s.nv.op.isNone && !s.bun.apply && s.mbx.busy.isNone && s.stew.fw ≠ .none

def queuesEmpty (s : State) : Bool :=
  s.xl.qIn.isEmpty && s.xl.walks.isEmpty && qDlvAll s = 0 && s.xl.qCmp.isEmpty && s.xl.qFlt.isEmpty && s.xl.qEvt.isEmpty &&
  qNvm s = 0 && qMbx s = 0 && s.xl.inv.isEmpty && s.xl.pend.isEmpty && s.xl.blocked.isEmpty

def linksAsleep (s : State) : Bool :=
  (upTo 8).all fun n =>
    let l : Link := BitVec.ofNat 3 n
    (linkOf s l).st = .fallow || !bit (lkCtl s l) 0

def intsQuiet (s : State) : Bool :=
  s.irq.ints.all fun p => p.2.st ≠ .pending && p.2.st ≠ .offeredP && p.2.st ≠ .completed

def internalIdle (s : State) : Bool :=
  s.allot.reqs.all (fun r => 267 ≤ r.client) && s.allot.grants.all (fun g => 267 ≤ g.client)

/-- The conditions of R319 at one commit CCLK. -/
def fallowConds (s : State) : Bool :=
  (modeCode s = 4 || modeCode s = 5) && bit (regLive s 0x214) 0 && linksAsleep s && intsQuiet s && queuesEmpty s &&
  internalIdle s && stewardIdle s

/-- The count of commits at which they have held; at DEV_T the part enters FALLOW, its caches emptied (R164, R319). -/
def fallowCommit (s : State) : State :=
  if fallowConds s then
    let n := s.pw.fallowRun + 1
    if atLeastOne (fld (regLive s 0x214) 8 8) ≤ n then
      let s := emptyCaches (holdWout s)
      { s with pw := { s.pw with mode := .fallow, fallowRun := 0 } }
    else { s with pw := { s.pw with fallowRun := n } }
  else { s with pw := { s.pw with fallowRun := 0 } }

/-- BREQ n adopted, while CCLK runs; its request is raised once the arbiter raises any (R296, R297, R303). -/
def breqAdopt (s : State) (n : Nat) (level : Bool) : State :=
  if !cclkRuns s then s
  else
    let m : BitVec 8 := 1#8 <<< n
    let c := extClient n
    if level then
      let s := { s with allot := { s.allot with breq := s.allot.breq ||| m } }
      if arbGrants s then breqRequest s n else s
    else
      arbSettle s (dropReq (freeGrant
        { s with allot := { s.allot with breq := s.allot.breq &&& ~~~m, barred := s.allot.barred &&& ~~~m } } c) c)
def execBreqAdopt (n : BitVec 3) (level : Bool) (s : State) : Out := .next (settle s (breqAdopt s n.toNat level))

def wakeCode : WakeSource → BitVec 3
  | .wired => 1
  | .bus => 2
  | .breq => 3
  | .pfail => 4
  | .thermal => 5
  | .beacon => 0

/-- The source can wake the part: an input not masked; a beacon cannot (R321). -/
def canWake (s : State) (src : WakeSource) (num : BitVec 7) : Bool :=
  match src with
  | .wired => num.toNat < 96 && !wMasked s (BitVec.ofNat 24 (32 + num.toNat))
  | .beacon => false
  | .breq => num.toNat < 8
  | .bus => true
  | .thermal => true
  | .pfail => true

/-- DEVICE_WAKE: the mode left, or LAST-GASP for PFAIL (R321, R322, R343). The budget that a throttle found in FALLOW trims
is taken now (R283, R286, R343). An edge latched counts as filtered. -/
def deviceWake (s : State) (src : WakeSource) (num : BitVec 7) : State :=
  if s.pw.mode = .fallow && canWake s src num then
    let n : BitVec 7 := match src with | .wired | .breq => num | _ => 0
    let s := { s with pw := { s.pw with wakeSrc := wakeCode src, wakeNum := n } }
    let wake := fun s => arbSettle s (setMode s .operating)
    match src with
    | .pfail => enterGasp s
    | .wired =>
      let i : Intid := BitVec.ofNat 24 (32 + num.toNat)
      if srcEdge s 0 i then evT (wake s) (ikey 0 i) none else wake s
    | .breq => breqAdopt (wake s) num.toNat true
    | _ => wake s
  else s
def execDeviceWake (src : WakeSource) (num : BitVec 7) (s : State) : Out := .next (settle s (deviceWake s src num))

/-! ## The arbiter's own events (R284, R289, R293, R297) -/

/-- BUDGET_LEVEL_ADOPT, while CCLK runs (R284, R286). -/
def budgetLevelAdopt (s : State) (level : BitVec 4) : State :=
  if cclkRuns s then arbSettle s { s with allot := { s.allot with level := level } } else s
def execBudgetLevelAdopt (level : BitVec 4) (s : State) : Out := .next (settle s (budgetLevelAdopt s level))

/-- ALLOT_GRANT: one grant at most, of a request that an earlier CCLK raised; then the store's work goes on (R293). -/
def allotGrant (s : State) : State :=
  if !arbGrants s then s
  else
    match nextGrant s with
    | none => pump s
    | some (r, saff) => pump (arbSettle s (makeGrant s r saff))
def execAllotGrant (s : State) : Out := .next (settle s (allotGrant s))

/-- WAKE_GRANT_TIMEOUT (Table AL-2). -/
def wakeGrantTimeout (s : State) (t : Target) : State :=
  if arbGrants s && s.allot.grants.any fun g => g.client = t.toNat && g.started then arbSettle s (freeGrant s t.toNat) else s
def execWakeGrantTimeout (t : Target) (s : State) : Out := .next (settle s (wakeGrantTimeout s t))

/-- TREVOKE_EXPIRY (R297). -/
def trevokeExpiry (s : State) (n : Nat) : State :=
  if arbGrants s && s.allot.breq.getLsbD n && s.allot.grants.any fun g => g.client = extClient n && g.revoking then
    let t := freeGrant s (extClient n)
    arbSettle s { t with allot := { t.allot with cntViol := t.allot.cntViol + 1, barred := t.allot.barred ||| (1#8 <<< n) } }
  else s
def execTrevokeExpiry (n : BitVec 3) (s : State) : Out := .next (settle s (trevokeExpiry s n.toNat))

/-! ## Test access port (R342, R487, R490) -/

def isTestIr (ir : BitVec 5) : Bool := ir = 0 || ir = 4 || ir = 5 || ir = 6 || ir = 8 || ir = 9
def isBistIr (ir : BitVec 5) : Bool := ir = 8 || ir = 9

/-- The TAP makes an instruction current; a BIST instruction clears the result register. -/
def takeIr (s : State) (ir : BitVec 5) : State :=
  { s with pw := { s.pw with ir := ir, bist := if isBistIr ir then 0 else s.pw.bist } }

/-- TEST_ENTRY: a test instruction takes the part to TEST from the modes of Table MD-6; other instructions change no mode. -/
def testEntry (s : State) (ir : BitVec 5) : State :=
  if isTestIr ir then
    match s.pw.mode with
    | .reset | .load | .safe | .operating | .fallow =>
      let s := emptyCaches (takeIr s ir)
      { s with allot := { s.allot with reqs := [], grants := [] }, pw := { s.pw with mode := .test } }
    | .test => takeIr s ir
    | _ => takeIr s ir
  else if s.pw.mode = .test then s
  else takeIr s ir
def execTestEntry (ir : BitVec 5) (s : State) : Out := .next (testEntry s ir)

/-- TEST_EXIT: the test-exit warm reset; the TAP stands at IDCODE. -/
def testExit (s : State) : State :=
  if s.pw.mode = .test then warmReset (takeIr s 2) 5 false else s
def execTestExit (s : State) : Out := .next (testExit s)

/-- The BIST result register (Table PK-10). -/
def bistWord (test : Nat) (pass : Bool) (nfail : BitVec 8) (first : BitVec 16) : Word :=
  putB true 0 ||| putB pass 1 ||| put test 4 ||| (if pass then 0 else put nfail.toNat 8 ||| put first.toNat 16)

def bist (s : State) (ir : BitVec 5) (test : Nat) (pass : Bool) (nfail : BitVec 8) (first : BitVec 16) : State :=
  if s.pw.mode = .test && s.pw.ir = ir then { s with pw := { s.pw with bist := bistWord test pass nfail first } } else s
def execBistMem (pass : Bool) (nfail : BitVec 8) (first : BitVec 16) (s : State) : Out :=
  .next (bist s 8 1 pass nfail first)
def execBistLogic (pass : Bool) (nfail : BitVec 8) (first : BitVec 16) (s : State) : Out :=
  .next (bist s 9 2 pass nfail first)

/-- SUPPLY_OUT_OF_RANGE (R486): outputs float, or the state ends. -/
def execSupplyOutOfRange (outside : Bool) (s : State) : Out :=
  .next { s with pw := { s.pw with supplyOut := outside } }

end Sys2Proof.Machine
end

