-- ==== Sys2Proof/Machine/Headland.lean ====
section
/-!
DEFINITION. Machine/Headland.lean: the headland and its commit (R113 to R123), the integrity scan (R141 to R145) and the
end of a region barrier (R191).
-/
namespace Sys2Proof.Machine

/-! ## What a commit changes -/

/-- A configuration word by its place. -/
inductive Place where
  | reg (off : Nat)
  | tab (t idx tgt w : Nat)
  | page (n off : Nat)
  deriving DecidableEq, Repr

/-- The place of a key. -/
def keyPlace (k : Nat) : Place :=
  if k < 2 ^ 16 then .reg k
  else if k < 2 ^ 50 then
    let j := k - 2 ^ 16
    .tab (j / (8 * 256 * 2 ^ 24)) (j / (8 * 256) % 2 ^ 24) (j / 8 % 256) (j % 8)
  else .page ((k - 2 ^ 50) / 4096) ((k - 2 ^ 50) % 4096)

/-- One word that the transfer changes. -/
structure Change where
  at_  : Place
  old : Word
  new : Word
  deriving DecidableEq, Repr

/-- The words whose shadow differs from the live value. -/
def changes (s : State) : List Change :=
  let keys := s.cfg.live.map (·.1) ++ (s.cfg.shadow.map (·.1)).filter fun k => !(s.cfg.live.any fun p => p.1 = k)
  (keys.filter fun k => shadowAt s k ≠ liveAt s k).map fun k => ⟨keyPlace k, liveAt s k, shadowAt s k⟩

/-- Bits that differ under a mask. -/
def Change.moved (c : Change) (mask : Word) : Bool := (c.old ^^^ c.new) &&& mask ≠ 0

/-- Every shadow becomes live (R115, R439). -/
def transfer (s : State) : State :=
  { s with cfg := { s.cfg with live := s.cfg.shadow }, hl := { s.hl with dirty := false, held := 0 } }

/-! ## Step 3.1: targets whose binding or link changes (R103, R104) -/

/-- The reclaim of R103 and R104, after the transfer; `old` is the word before it. A target that is bound before and after
is left alone by a change of LINK (R98). DESIGN CHOICE (log 72): a target that loses its binding shows the mask and the
split point that its endpoint reported last. -/
def commitTarget (s : State) (t : Target) (old new : Word) : State :=
  let bind := bit old 16 ≠ bit new 16
  let link := (old ^^^ new) &&& 0x70 ≠ 0 && !(bit old 16 && bit new 16)
  if bind || link then
    let s := foldS (fun s p => revertInt s t p.1) s s.irq.ints
    let s := if bind then setTgt s t { tgtOf s t with record := 0, rpr := 0xFF, wout := false } else s
    if link then
      let s := dropLevels s t
      setTgt s t (viewDown (tgtOf s t))
    else s
  else s

def commitTargets (s : State) (ch : List Change) : State :=
  foldS (fun s c => match c.at_ with
    | .tab 2 idx _ 0 => commitTarget s (BitVec.ofNat 8 idx) c.old c.new
    | _ => s) s ch

/-! ## Step 3.3: staged words of extended INTIDs (R171) -/

/-- MODE and DEST of two configuration words of an extended INTID differ. -/
def xRouteMoved (a b : Word) : Bool := (a ^^^ b) &&& 0x0000FF0C ≠ 0

/-- Keys whose staged word changes the route. -/
def stagedRoutes (s : State) : List Nat :=
  s.irq.ints.filterMap fun p => match p.2.copy with
    | some c => match c.staged with
      | some (w, _) => if xRouteMoved c.word w then some p.1 else none
      | none => none
    | none => none

def takeStaged (c : XCopy) : XCopy :=
  match c.staged with
  | some (w, st) => { c with word := w, stamp := st, staged := none, kept := false }
  | none => c

def commitStaged (s : State) : State :=
  foldS (fun s p => match (intOf s p.1).copy with
    | some c => if c.staged.isSome then setInt s p.1 { intOf s p.1 with copy := some (takeStaged c) } else s
    | none => s) s s.irq.ints

/-! ## Step 3.4: tenants (R199, R201, R203, R207) -/

/-- Effects of a commit on one tenant; `s0` is the machine before it. -/
def commitTenant (s0 s : State) (n : Tenant) : State :=
  let s := if tenMe s0 n && !tenMe s n then abandonAll s n else s
  let s := if tenEn s0 n && !tenEn s n then disableTenant s n else s
  let s := if tenMe s n then quiesceCheck s n else s
  if (tenOf s n).resetPend && (tenOf s n).stepDue then defaultStep s n else s

def commitTenants (s0 s : State) : State := foldS (fun s n => commitTenant s0 s (BitVec.ofNat 8 n)) s (upTo 256)

/-! ## Step 3.5: routes (R63, R72, R99) -/

/-- INTIDs whose MODE or DEST the transfer changes. -/
def movedRoutes (ch : List Change) : List Nat :=
  ch.filterMap fun c => match c.at_ with
    | .tab 0 idx _ 0 => if c.moved 0x03FF0000 then some (8192 + idx) else none
    | .tab 8 idx _ 0 => if c.moved 0x03FF0000 then some (8192 + 32 + idx) else none
    | _ => none

/-- Withdrawal of an Offered-P INTID, a recall of an Offered-E one whose target has left the route. -/
def commitRoute (s : State) (k : Nat) : State :=
  let r := intOf s k
  match r.st, r.offer with
  | .offeredP, _ => evW s k
  | .offeredE, some o => if inRoute s k o.target then s else updOffer s k flagRecall
  | _, _ => s

/-- A wired target's held offers that its new mask or split point makes ineligible (R99). -/
def wiredBelow (s : State) (t : Target) : State :=
  foldS (fun s p =>
    if isE s p.1 && !eligible s t p.2.prio.toNat then bump (evN s p.1) cntRETBELOW else s) s (ticketsOf s t)

def commitRoutes (s : State) (ch : List Change) (staged : List Nat) : State :=
  let s := wiredRecalls (foldS commitRoute s (movedRoutes ch ++ staged))
  foldS (fun s c => match c.at_ with
    | .tab 2 idx _ 0 =>
      let t : Target := BitVec.ofNat 8 idx
      if tgtBind s t && c.moved 0xFF700000 then wiredBelow s t else s
    | _ => s) s ch

/-! ## Step 3.6: invalidations (R167, R189) and rings (R211) -/

/-- Colours of the regions that change, before and after. -/
def movedColours (s0 s : State) (ch : List Change) : List Nat :=
  ch.flatMap fun c => match c.at_ with
    | .tab 5 j _ _ => [regionColour s0 j, regionColour s j]
    | _ => []

/-- Tenant n takes a TENANT_ALL for its colour or a region of its colour (R189). -/
def takesRegion (s0 s : State) (ch : List Change) (n : Nat) : Bool :=
  let t : Tenant := BitVec.ofNat 8 n
  let cols := movedColours s0 s ch
  cols.contains (tenColour s0 t) || cols.contains (tenColour s t) ||
  ch.any fun c => match c.at_ with
    | .tab 4 m _ 0 => m = n && c.moved 0x3F00
    | _ => false

/-- Tenant n takes a TENANT_ALL for its Device Table (R167). -/
def takesTable (ch : List Change) (n : Nat) : Bool :=
  ch.any fun c => match c.at_ with
    | .page m off => m = n && (off = 0x10 || off = 0x14)
    | _ => false

/-- Its extended range, or the address of its words, changes. -/
def takesXcfg (ch : List Change) (n : Nat) : Bool :=
  ch.any fun c => match c.at_ with
    | .tab 4 m _ w => m = n && 1 ≤ w && w ≤ 4
    | _ => false

def commitInvalidations (s0 s : State) (ch : List Change) : State :=
  foldS (fun s n =>
    let t : Tenant := BitVec.ofNat 8 n
    let region := takesRegion s0 s ch n
    let s := if region || takesTable ch n then pendInvalidate s t false [] region else s
    if takesXcfg ch n then
      pendInvalidate s t true [(tenXBase s0 t, tenXCount s0 t), (tenXBase s t, tenXCount s t)] false
    else s) s (upTo 256)

/-- A record of the ring whose turn has come enters the replay buffer in the commit CCLK, and is counted lost (R211). -/
def recordAtCommit (s : State) (n : Tenant) (evt : Bool) : State :=
  if evt then
    match s.xl.evtVc with
    | some v => if n = 0 && nextClass s v.link = some .evt then bump (sendEvt s) cntEVTLOST else s
    | none => s
  else
    match s.xl.qFlt, s.xl.fltVc with
    | f :: _, some v => if f.tenant = n && nextClass s v.link = some .flt then loseFault (sendFlt s) n f.link else s
    | _, _ => s

/-- HEAD and TAIL of a ring whose BASE or LOG2 changes become 0 (R211). -/
def commitRing (s : State) (n : Tenant) (evt : Bool) : State := setRing (recordAtCommit s n evt) n evt {}

def commitRings (s : State) (ch : List Change) : State :=
  foldS (fun s c => match c.at_ with
    | .page n off =>
      if off = 0x20 || off = 0x24 then commitRing s (BitVec.ofNat 8 n) false
      else if off = 0x80 || off = 0x84 then commitRing s (BitVec.ofNat 8 n) true
      else s
    | _ => s) s ch

/-! ## Step 3.7 and step 4: links, lanes, wired inputs, private and house sources -/

def commitLinks (s0 s : State) : State :=
  foldS (fun s n => linkCommit s (BitVec.ofNat 3 n) (lkCtl s0 (BitVec.ofNat 3 n))) s (upTo 8)

/-- Edge to level of a private source (R525). -/
def commitPrivate (s : State) (t : Target) (idx : Nat) (old new : Word) : State :=
  if operating s && 16 ≤ idx && bit old 29 && !bit new 29 && (tgtOf s t).levels.getLsbD (idx - 16) then
    evT s (ikey t (BitVec.ofNat 24 idx)) none
  else s

/-- The wired inputs that the transfer touches, each once. -/
def movedWired (ch : List Change) : List Nat :=
  (ch.filterMap fun c => match c.at_ with
    | .tab 8 idx _ _ => some idx
    | _ => none).eraseDups

def commitSources (s0 s : State) (ch : List Change) : State :=
  let s := foldS (fun s c => match c.at_ with
    | .tab 1 idx tgt 0 => commitPrivate s (BitVec.ofNat 8 tgt) idx c.old c.new
    | .tab 9 idx _ 0 => laneCommit s idx c.old
    | _ => s) s ch
  let s := foldS (fun s n => wiredCommit s n (wiredW0 s0 n) (tabLive s0 8 n 0 1)) s (movedWired ch)
  houseEdges (houseLevels s0) s

/-! ## Ages, timeouts and expiry (R47, R73, R75, R162) -/

/-- Ages advance in RUN, LEAN and HOLD. -/
def ageRuns (s : State) : Bool := modeCode s = 4 || modeCode s = 5 || modeCode s = 6

/-- The counts of one INTID at a commit; `r0` is its record before it. DESIGN CHOICE (log 77): the age saturates (R46,
Table TP-11), so where (P − C) × RIPEN_HL exceeds 255 the effective priority stays above the bound of R65. -/
def countInt (s : State) (k : Nat) (r0 r : IntRec) : IntRec :=
  let r := if ageRuns s && r0.st = .pending && r.st = .pending && !masked s (keyTarget k) (keyIntid k) then
      { r with age := satInc8 r.age } else r
  if r.st = .offeredE then
    { r with offer := r.offer.map fun o =>
        { o with cnt := o.cnt + 1, rcnt := if o.rcl = .sent then o.rcnt + 1 else o.rcnt } }
  else r

def commitCounts (s0 s : State) : State :=
  foldS (fun t p => setInt t p.1 (countInt s p.1 (intOf s0 p.1) (intOf s p.1))) s s.irq.ints

/-- Cache entries and copies expire at the commit (R162). -/
def commitExpiry (s : State) : State :=
  let s := setXl s { s.xl with
    tcache := s.xl.tcache.filter fun t => !stampExpired s t.stamp,
    xcache := s.xl.xcache.filter fun x => !stampExpired s x.stamp }
  foldS (fun s p => match (intOf s p.1).copy with
    | some c =>
      if !c.kept && !c.expired && stampExpired s c.stamp then
        setInt s p.1 { intOf s p.1 with copy := some { c with expired := true } }
      else s
    | none => s) s s.irq.ints

/-! ## The scan (R142, R143) -/

/-- The scan at a commit whose transfer changed a live value or not: the next segment, the result of a pass that ends, or a
new epoch. DESIGN CHOICE (log 76): after a pass that ends with no epoch, the next pass begins at that same commit. -/
def commitScan (s0 s : State) : State :=
  let h := s.hl
  let ends := !h.epoch && h.seg = 63
  let moved := decide (s0.cfg.live ≠ s.cfg.live)
  { s with hl := { h with
      done := if ends then some (scanCrc s0.cfg.live) else h.done
      seg := if moved || h.epoch || ends then 0 else h.seg + 1
      epoch := false } }

/-! ## The commit CCLK (R114, R115, R117, R120) -/

/-- The transfer happens at this commit: not under SHADOW_HOLD, and under a bundle's hold only at its end (R117, R414). -/
def transfers (s : State) (seq : Word) : Bool :=
  if s.hl.bundleHold then bundleTransfers s seq else !bit (regImm s 0x114) 0

/-- The count of commits, and the transfer or the count of held ones. -/
def commitTransfer (s : State) : State :=
  let seq := s.hl.seq + 1
  let s1 := { s with hl := { s.hl with seq := seq } }
  if transfers s seq then transfer s1
  else { s1 with hl := { s1.hl with held := if s.hl.dirty then satInc8 s.hl.held else s.hl.held } }

/-- Sub-steps 3.1 to 3.6 of R120. -/
def commitEffects (s0 s : State) (ch : List Change) : State :=
  let s := commitTargets s ch
  let s := settlePermit s0 s
  let staged := stagedRoutes s
  let s := commitTenants s0 (commitStaged s)
  let s := commitRoutes s ch staged
  commitRings (commitInvalidations s0 s ch) ch

/-- One commit CCLK. -/
def commit (s0 : State) : State :=
  let moves := transfers s0 (s0.hl.seq + 1)
  let ch := if moves then changes s0 else []
  let s := commitTransfer s0
  let s := commitEffects s0 s ch
  let s := commitSources s0 (commitLinks s0 s) ch
  let s := commitExpiry (commitCounts s0 s)
  let s := arbSettle s0 { s with allot := { s.allot with wakes := 0 } }
  let s := commitScan s0 s
  let s := if moves && s0.hl.bundleHold then bundleTransferred s s.hl.seq else s
  fallowCommit (pump (bundleSync s))

/-- Frames per headland (R113). -/
def hlDiv (s : State) : Nat := let d := fld (regLive s 0x110) 0 6; if d = 0 then 64 else d

/-- HEADLAND: due when the countdown has reached zero; it is reloaded from the live HL_DIV. -/
def headland (s : State) : State :=
  if s.hl.left = 0 then
    let s := if hasCommit s then commit s else s
    { s with hl := { s.hl with left := hlDiv s } }
  else s
def execHeadland (s : State) : Out := .next (settle s (headland s))

/-! ## The end of a pass (R143 to R145) -/

/-- A pass is compared with the reference: CFG_DRIFT, the drift hold, and a bundle's drift (R144, R417). -/
def scanCompare (s : State) (c : Word) : State :=
  if bit (regImm s 0x808) 0 && c ≠ regImm s 0x804 then
    let s := house s hDRIFT
    let s := if bit (regImm s 0x808) 1 then { s with pw := { s.pw with driftHold := true } } else s
    if s.bun.unconf && s.bun.refMode = 1 then { s with bun := { s.bun with drift := true } } else s
  else s

/-- SCAN_PASS_COMPLETE: the CCLK after the commit that ends the pass. -/
def scanPassComplete (s : State) : State :=
  match s.hl.done with
  | none => s
  | some c =>
    let snap := s.hl.snapPend
    let s := { s with hl := { s.hl with done := none, crc := c, passes := s.hl.passes + 1, snapPend := false } }
    if snap then setIm s (regKey 0x804) c else scanCompare s c
def execScanPassComplete (s : State) : Out := .next (settle s (scanPassComplete s))

/-- REGION_SYNC_DONE (R191): the barrier completes; a bundle's apply goes on. -/
def regionSyncDone (s : State) : State :=
  if !s.xl.rsDone && regionReady s then pump (bundleSync (setXl s { s.xl with rsDone := true })) else s
def execRegionSyncDone (s : State) : Out := .next (settle s (regionSyncDone s))

end Sys2Proof.Machine
end

