-- ==== Sys2Proof/Machine/Bus.lean ====
section
/-!
DEFINITION. Machine/Bus.lean: the management bus: what is refused, what a read returns, what a write does, the aliases, the
table window (chapters 06, 20 and 21).
-/
namespace Sys2Proof.Machine

/-! ## Addresses (Table RG-1) -/

/-- How a write acts (Table MB-4). -/
inductive BusOp where
  | plain | set | clr | tgl
  deriving DecidableEq, Repr

def busOp (addr : Nat) : BusOp :=
  match addr / 0x4000 % 4 with
  | 0 => .plain
  | 1 => .set
  | 2 => .clr
  | _ => .tgl
def isLiveView (addr : Nat) : Bool := 0x2000 ≤ addr % 0x4000
/-- The base offset, in whole words. -/
def baseOff (addr : Nat) : Nat := addr % 0x2000 / 4 * 4

/-- The code an access is refused with (R130); in FALLOW every access is refused (R321). -/
def refusal (s : State) (write : Bool) (addr : Nat) (be : BE) : Option (BitVec 4) :=
  let off := baseOff addr
  if s.pw.mode = .fallow then some 5
  else if write && isLiveView addr then some 1
  else if busOp addr ≠ .plain && isSq off then some 2
  else if !regExists off then some 4
  else if !groupServed s off then some 5
  else if write && isSq off && be ≠ 15 then some 3
  else none

/-- A refused access is recorded, and wakes the part from FALLOW (R131, R321). -/
def refuse (s : State) (code : BitVec 4) (rd : Bool) (addr : Nat) : State :=
  let s1 := mbRefuse s code rd (BitVec.ofNat 14 (addr / 4))
  if s.pw.mode = .fallow then deviceWake s1 .bus 0 else s1

/-! ## What registers read (chapter 20) -/

def sqWord (s : State) (off : Nat) : Word := put (sqOf s off).flags.toNat 0 ||| put (sqOf s off).seq.toNat 24

def tbCode : TbMode → Nat
  | .free => 0
  | .acquire => 1
  | .locked => 2
  | .flywheel => 3
def tbStat (s : State) : Word :=
  put (tbCode s.tb.mode) 0 ||| put s.tb.cause.toNat 4 ||| put s.tb.miss.toNat 8 ||| put s.tb.err.toNat 16

/-- HL_STAT; while a headland is due, LEFT shows what it will load (log 20). -/
def hlStat (s : State) : Word :=
  put (if s.hl.left = 0 then hlDiv s else s.hl.left) 0 ||| putB s.hl.dirty 8 ||| put s.hl.held.toNat 16

def modeStat (s : State) : Word :=
  put (modeCode s) 0 ||| putB (runEn s) 8 ||| putB (bit (regLive s 0x200) 1) 9 ||| putB s.pw.driftHold 10 |||
  putB s.allot.lean 11 ||| putB s.pw.thr 12 ||| putB s.pw.stwDown 16 ||| putB s.pw.loadTmo 17

def mbErr (s : State) : Word :=
  sqWord s 0x20 ||| put s.bus.errCode.toNat 2 ||| putB s.bus.errRd 6 ||| put s.bus.errAddr.toNat 7

def allotStat (s : State) : Word :=
  put (budget s) 0 ||| put s.allot.level.toNat 12 ||| putB s.allot.pfail 16 ||| putB s.allot.overdraft 17 |||
  putB s.allot.lean 18
def allotFree (s : State) (w : Nat) : Word :=
  if w = 0 then put ((BitVec.ofInt 13 (freeAllot s)).toNat) 0 ||| put (heldSum s) 16 else put (saffHeld s) 0
def bgntMask (s : State) : Nat := (upTo 8).foldl (fun m n => if bgnt s n then m + 2 ^ n else m) 0

def mbxStat (s : State) : Word := putB s.mbx.bufBusy 0 ||| put (qMbx s) 4 ||| put s.mbx.epoch.toNat 12
def mbxData (s : State) (n : Nat) : Word :=
  match s.mbx.replies with
  | r :: _ => if n = 0 then r.d0 else if n = 1 then r.d1 else if n = 2 then r.d2 else r.d3
  | [] => 0

def qOcc (s : State) (n : Nat) : Word :=
  put ((occupancies s).getD (2 * n) 0) 0 ||| put ((occupancies s).getD (2 * n + 1) 0) 16
def qHwm (s : State) (n : Nat) : Word := put (tabGet s.xl.hwm 0 (2 * n)) 0 ||| put (tabGet s.xl.hwm 0 (2 * n + 1)) 16
def poolStat (s : State) (w : Nat) : Word :=
  if w = 0 then put (poolUsed s) 0 ||| put (tabGet s.xl.hwm 0 8) 16 else put s.xl.blocked.length 0

/-- LK_STAT, LK_FAR and LK_FARCR (R444). -/
def lkStat (r : LinkRec) (w : Nat) : Word :=
  if w = 0 then
    put (linkCode r.st) 0 ||| put r.width.toNat 4 ||| put r.rate.toNat 6 ||| put r.txGroup.toNat 8 |||
    put r.rxGroup.toNat 12 ||| put r.rxMask.toNat 16 ||| put r.farMask.toNat 20 ||| putB r.reversed 24 |||
    put r.rateCap.toNat 26
  else put r.fails.toNat 0
def lkFar (r : LinkRec) (w : Nat) : Word :=
  if w = 0 then
    put (r.far0.extractLsb' 8 8).toNat 0 ||| put (r.far0.extractLsb' 16 2).toNat 8 |||
    put (r.far0.extractLsb' 18 3).toNat 10 ||| putB (r.far2.getLsbD 12) 13 ||| putB (r.far2.getLsbD 13) 14 |||
    put (r.far0.extractLsb' 48 8).toNat 16
  else put (r.far0.extractLsb' 32 16).toNat 0
def lkFarcr (r : LinkRec) (w : Nat) : Word :=
  if w = 0 then put (r.far1.extractLsb' 8 12).toNat 0 ||| put (r.far1.extractLsb' 20 12).toNat 16
  else put (r.far1.extractLsb' 32 12).toNat 0 ||| put (r.far1.extractLsb' 44 12).toNat 16

/-- LK_CRED0 and LK_CRED1 read zero while the link is not ACTIVE, IDLE or FALLOW. -/
def lkCred (r : LinkRec) (n : Nat) : Word :=
  match r.st with
  | .active | .idle | .fallow =>
    if n = 0 then put (avail r.ll.p % 4096) 0 ||| put (avail r.ll.n % 4096) 16 else put (avail r.ll.i % 4096) 0
  | _ => 0

def linkRead (s : State) (l : Link) (o : Nat) : Word :=
  let r := linkOf s l
  if o = 0x8 then lkStat r 0 else if o = 0xC then lkStat r 1
  else if o = 0x10 then lkFar r 0 else if o = 0x14 then lkFar r 1
  else if o = 0x18 then lkFarcr r 0 else if o = 0x1C then lkFarcr r 1
  else if o = 0x20 then sqWord s (lkEvtOff l)
  else if o = 0x24 then put r.failCause.toNat 0 ||| put r.ll.replay.length 8
  else if o = 0x28 then put r.crcErr.toNat 0 ||| put r.nakCnt.toNat 16
  else if o = 0x2C then put r.replays.toNat 0 ||| put r.malformed.toNat 16
  else if o = 0x30 then put (r.idleEnt.toNat % 256) 0 ||| put (r.fallEnt.toNat % 256) 8 ||| put (r.entFail.toNat % 256) 16 |||
    put (r.exitFail.toNat % 256) 24
  else if o = 0x34 then lkCred r 0 else if o = 0x38 then lkCred r 1
  else 0

/-- The wired INTID of bit n of the registers with a suffix (R445). -/
def wiredIntid (suffix n : Nat) : Nat := (if suffix = 0 then 96 else if suffix = 1 then 32 else 64) + n
def wPendWord (s : State) (m : Nat) : Word :=
  (upTo 32).foldl (fun w n => w ||| putB (pendBit s (ikey 0 (BitVec.ofNat 24 (wiredIntid m n)))) n) 0
def wLevelWord (s : State) (m : Nat) : Word :=
  (upTo 32).foldl (fun w n => w ||| putB (s.irq.wFilt.getLsbD (wiredIntid m n - 32)) n) 0

/-- Registers without an RW field, by group. -/
def roGlobal (s : State) (off : Nat) : Word :=
  match off with
  | 0x00 => 0x6256
  | 0x04 => 0xB0
  | 0x08 => idFeat
  | 0x0C => s.stew.featEn
  | 0x10 => s.stew.fwVer
  | 0x14 => s.stew.lmcVer
  | 0x18 => s.stew.loadStat
  | 0x1C => policyWord s.stew.mirror
  | 0x20 => mbErr s
  | _ => 0
def roHeadland (s : State) (off : Nat) : Word :=
  match off with
  | 0x104 => tbStat s
  | 0x108 => BitVec.ofNat 32 s.tb.phase
  | 0x10C => s.tb.frame
  | 0x118 => hlStat s
  | 0x11C => s.hl.seq
  | 0x120 => cntOf s cntFSYNCOOW
  | 0x204 => modeStat s
  | 0x20C => rstStat s
  | 0x210 => s.pw.straps.setWidth 32
  | 0x218 => put s.pw.wakeSrc.toNat 0 ||| put s.pw.wakeNum.toNat 8
  | 0x300 => sqWord s 0x300
  | 0x308 => s.quiesceLast.setWidth 32
  | _ => 0
def roAllot (s : State) (off : Nat) : Word :=
  match off with
  | 0x440 => allotStat s
  | 0x444 => allotFree s 0
  | 0x448 => allotFree s 1
  | 0x44C => put s.allot.breq.toNat 0 ||| put (bgntMask s) 8
  | 0x450 => s.allot.cntUnfit
  | 0x454 => s.allot.cntRevoke
  | 0x458 => s.allot.cntViol
  | 0x500 => (temp16 s.pw.t0).setWidth 32
  | 0x504 => (temp16 s.pw.t1).setWidth 32
  | 0x508 => (temp16 s.pw.t2).setWidth 32
  | 0x50C => (temp16 s.pw.t3).setWidth 32
  | 0x510 => (temp16 s.pw.tMax).setWidth 32
  | 0x518 => putB s.pw.thr 0 ||| put s.pw.tFail.toNat 4
  | _ => 0
def roEngine (s : State) (off : Nat) : Word :=
  match off with
  | 0x600 => nvStat s
  | 0x604 => sqWord s 0x604
  | 0x608 => s.nv.corrected.setWidth 32
  | 0x704 => s.au.hstat.setWidth 32
  | 0x710 => auCstat (ctxOf s 0)
  | 0x714 => auCstat (ctxOf s 1)
  | 0x718 => auCstat (ctxOf s 2)
  | 0x71C => auCstat (ctxOf s 3)
  | 0x724 => auSlotStat s
  | 0x728 => putB s.au.stale 0
  | 0x72C => sqWord s 0x72C
  | 0x730 => auBstat s
  | 0x734 => s.bun.bseq
  | 0x738 => s.bun.n
  | 0x800 => s.hl.crc
  | 0x810 => put s.hl.seg 0 ||| putB s.hl.snapPend 8 ||| put s.hl.passes.toNat 16
  | 0x908 => mbxStat s
  | 0x90C => sqWord s 0x90C
  | 0x920 => mbxRsp s
  | 0x934 => s.stew.wdog.setWidth 32
  | _ => 0
def roTables (s : State) (off : Nat) : Word :=
  match off with
  | 0xA20 => poolStat s 0
  | 0xA24 => poolStat s 1
  | 0x102C => put s.bus.twErr.toNat 0 ||| put s.bus.twCount.toNat 8
  | 0x1300 => putB s.xl.rsDone 1 ||| putB s.xl.rsDirty 2
  | 0x1304 => s.xl.rsSeq
  | _ => 0

/-- The read-only and SQ bits of a register. -/
def regRo (s : State) (off : Nat) : Word :=
  if isLinkOff off then linkRead s (BitVec.ofNat 3 ((off - 0xC00) / 0x40)) (linkOff off)
  else if inWords off 0x780 0x79C then auRes s ((off - 0x780) / 4)
  else if inWords off 0x924 0x930 then mbxData s ((off - 0x924) / 4)
  else if inWords off 0xA00 0xA0C then qOcc s ((off - 0xA00) / 4)
  else if inWords off 0xA10 0xA1C then qHwm s ((off - 0xA10) / 4)
  else if inWords off 0xA40 0xA98 then cntOf s off
  else if inWords off 0x1100 0x1108 then wPendWord s ((off - 0x1100) / 4)
  else if inWords off 0x1120 0x1128 then wLevelWord s ((off - 0x1120) / 4)
  else if off < 0x100 then roGlobal s off
  else if off < 0x400 then roHeadland s off
  else if off < 0x600 then roAllot s off
  else if off < 0xA00 then roEngine s off
  else roTables s off

/-- A register as a read returns it now (R119, Table HL-2). -/
def regRead (s : State) (live : Bool) (off : Nat) : Word :=
  let hl := if live then regLive s off else shadowAt s (regKey off)
  (hl &&& regHl off) ||| (regImm s off &&& regIm off) ||| regRo s off

/-! ## Reads (R126, R128, R438) -/

def setRdata (s : State) (w : Word) : State := { s with bus := { s.bus with rdata := w } }

/-- Later words of a multi-word register, captured for one view. -/
def capture (s : State) (live : Bool) (first words : Nat) : State :=
  let take := fun (t : Tab Word) => (upTo (words - 1)).foldl (fun t i =>
    tabSet t 0 (first + 4 * (i + 1)) (regRead s live (first + 4 * (i + 1)))) t
  if live then { s with bus := { s.bus with capLive := take s.bus.capLive } }
  else { s with bus := { s.bus with capBase := take s.bus.capBase } }

def captured (s : State) (live : Bool) (off : Nat) : Word := tabGet (if live then s.bus.capLive else s.bus.capBase) 0 off

/-- The offset is a WT_ACK register. -/
def isWtAck (off : Nat) : Bool := 0x1200 ≤ off && off < 0x1280 && off % 8 = 0
def wtNumber (off : Nat) : BitVec 4 := BitVec.ofNat 4 ((off - 0x1200) / 8)

/-- A read that is not refused. -/
def servedRead (s : State) (live : Bool) (off : Nat) : State :=
  if isWtAck off then
    let (w, t) := wtClaim s (wiredTarget (wtNumber off))
    setRdata t w
  else match multiWord off with
    | some (first, words) =>
      if off = first then setRdata (capture s live first words) (regRead s live off)
      else setRdata s (captured s live off)
    | none => setRdata s (regRead s live off)

/-- A read cycle. With the bus unserved nothing is driven: the data is free (R128, log 3). -/
def busRead (s : State) (addr : Nat) : State :=
  if !busServed s then
    let f := takeFree s
    setRdata f.2 f.1
  else match refusal s false addr 15 with
    | some c => setRdata (refuse s c true addr) 0
    | none => servedRead s (isLiveView addr) (baseOff addr)

/-! ## Field writes (Table MB-4) -/

/-- The bits a write acts on, and what they become. -/
def writeMask (op : BusOp) (be : BE) (data : Word) : Word := if op = .plain then beMask be else data &&& beMask be
def writeBits (op : BusOp) (old data : Word) : Word :=
  match op with
  | .plain => data
  | .set => 0xFFFFFFFF
  | .clr => 0
  | .tgl => ~~~old

/-- One-bits for W1P and WO fields; disabled bytes read 0. -/
def writeOnes (op : BusOp) (be : BE) (data : Word) : Word := if op = .clr then 0 else data &&& beMask be

/-- A write acts on the WO fields `mask`: a plain one, or an alias write of some one bit of theirs (Table MB-4, R2). -/
def woActs (op : BusOp) (be : BE) (data mask : Word) : Bool := op = .plain || writeOnes op be data &&& mask ≠ 0

/-- HL-class bits of a register take the write in their shadow. -/
def writeHl (s : State) (op : BusOp) (off : Nat) (be : BE) (data : Word) : State :=
  shadowMerge s (regKey off) (regHl off) (writeMask op be data) (writeBits op (shadowAt s (regKey off)) data)

/-- Immediate-class RW bits of a register take the write. -/
def writeIm (s : State) (op : BusOp) (off : Nat) (be : BE) (data : Word) : State :=
  let old := imAt s (regKey off)
  let mask := regIm off &&& writeMask op be data
  if mask = 0 then s else setIm s (regKey off) (mergeMask mask old (writeBits op old data))

/-- A write of W_PEND: each bit written is a set or a clear (R26, R135). -/
def writePend (s : State) (op : BusOp) (m : Nat) (be : BE) (data : Word) : State :=
  if !operating s then s
  else
    let mask := writeMask op be data
    let v := writeBits op (wPendWord s m) data
    foldS (fun s n => softPend s (ikey 0 (BitVec.ofNat 24 (wiredIntid m n))) (bit v n)) s
      ((upTo 32).filter fun n => bit mask n)

/-- A clear of an SQ register; `hw` is what hardware sets in the same CCLK (R133). -/
def writeSq (s : State) (off : Nat) (data : Word) (hw : BitVec 24) : State :=
  let hw := hw &&& sqMask off
  if off = 0x300 then
    if hw ≠ 0 then house s (hw.setWidth 16)
    else
      let old := houseLevels s
      houseEdges old (setSq s off (sqClear (sqOf s off) data 0))
  else setSq s off (sqClear (sqOf s off) data hw)

/-! ## The table window (R137 to R140, R448 to R460) -/

def twSel (s : State) : Nat := fld (regImm s 0x1000) 0 4
def twIndex (s : State) : Nat := fld (regImm s 0x1004) 0 24
def twTarget (s : State) : Nat := fld (regImm s 0x1004) 24 8
def twData (s : State) (n : Nat) : Word := regImm s (0x1008 + 4 * n)

/-- The record key of the INTID that an entry of SOURCE, PRIVATE, WIRED or STATE stands for. -/
def entryInt (t idx tgt : Nat) : Nat :=
  if t = 8 then ikey 0 (BitVec.ofNat 24 (32 + idx)) else ikey (BitVec.ofNat 8 tgt) (BitVec.ofNat 24 idx)

/-- Word 1's LOST and PEND fields. -/
def stateBits (s : State) (k : Nat) : Word := put (intOf s k).lost.toNat 16 ||| putB (pendBit s k) 24

/-- TARGET word 1. -/
def targetView (s : State) (t : Target) : Word :=
  put (viewPmr s t) 0 ||| put (viewBpr s t) 8 ||| put (viewRpr s t) 16 ||| put (tgtOf s t).sleep.toNat 24 |||
  put (ticketsOf s t).length 28

/-- ALLOT_CLIENT word 2 (R457). -/
def clientStat (s : State) (c : Nat) : Word :=
  match s.allot.grants.find? fun g => g.client = c with
  | some g => put g.held 0 ||| put (if g.revoking then 3 else 2) 16
  | none => if s.allot.reqs.any fun r => r.client = c || r.exit.map exitClient = some c then put 1 16 else 0

/-- LANE_EQ word 1. -/
def laneStat (a : LaneRec) : Word :=
  put a.peakNow.toNat 0 ||| putB a.polInv 8 ||| put a.lfield.toNat 9 ||| putB a.lock 12 ||| put a.errCnt.toNat 16

/-- STATE codes (Table IS-6). -/
def intCode : IntState → Nat
  | .inactive => 0
  | .pending => 1
  | .offeredP => 2
  | .offeredE => 3
  | .active => 4
  | .completed => 5

/-- The STATE view (R37, R459). DESIGN CHOICE (log 67): NOTIFY_WAIT is set in Completed, where the notification is what the INTID waits for; R37 does not say
whether a notification still on Q-CMP shows after its INTID has been triggered again. -/
def stateView (s : State) (k w : Nat) : Word :=
  let r := intOf s k
  let t := keyTarget k
  let i := keyIntid k
  if !usable i || (isExt i && r.st = .inactive) then 0
  else if w = 0 then
    put (intCode r.st) 0 ||| putB (isLevel s t i && levelHigh s t i) 8 ||| putB (r.st = .completed && r.noteId.isSome) 9 |||
    putB (masked s t i) 10 |||
    put (match r.st, r.offer with
      | .offeredP, some o | .offeredE, some o => o.target.toNat
      | .active, _ => r.holder.toNat
      | _, _ => 0) 16
  else
    put (match r.st, r.offer with | .offeredE, some o => o.ticket.toNat | _, _ => 0) 0 ||| put r.lost.toNat 8 |||
    put r.age.toNat 16

def counterWord (r : TenRec) (w : Nat) : Word :=
  match w with
  | 0 => r.c0
  | 1 => r.c1
  | 2 => r.c2
  | 3 => r.c3
  | 4 => r.c4
  | 5 => r.c5
  | _ => 0

/-- The fields of an entry word without a shadow. -/
def entryRo (s : State) (t idx tgt w : Nat) : Word :=
  match t, w with
  | 0, 1 => stateBits s (entryInt 0 idx 0)
  | 1, 1 => stateBits s (entryInt 1 idx tgt) |||
      putB (16 ≤ idx && (tgtOf s (BitVec.ofNat 8 tgt)).levels.getLsbD (idx - 16)) 25
  | 2, 1 => targetView s (BitVec.ofNat 8 idx)
  | 3, 0 => if 64 ≤ idx then (ptrOf s (idx - 64)).setWidth 32 else 0
  | 4, 5 => fnStat s (BitVec.ofNat 8 idx)
  | 7, 2 => clientStat s idx
  | 8, 1 => stateBits s (entryInt 8 idx 0)
  | 9, 1 => laneStat (laneOf s (BitVec.ofNat 3 (idx / 4)) (idx % 4))
  | 10, w => stateView s (entryInt 10 idx tgt) w
  | 11, w => counterWord (tenOf s (BitVec.ofNat 8 idx)) w
  | _, _ => 0

def entryWord (s : State) (live : Bool) (t idx tgt w : Nat) : Word :=
  let k := tabKey t idx tgt w
  ((if live then liveAt s k else shadowAt s k) &&& tabHl t idx w) ||| entryRo s t idx tgt w

/-- READ and READ_LIVE: the eight data words are loaded at once (R139). -/
def windowLoad (s : State) (live : Bool) (t idx tgt : Nat) : State :=
  foldS (fun s2 n => setIm s2 (regKey (0x1008 + 4 * n)) (if n < tabWords t idx then entryWord s live t idx tgt n else 0)) s
    (upTo 8)

/-- HL-class fields of an entry take the data words (R118). -/
def windowShadow (s : State) (t idx tgt : Nat) : State :=
  foldS (fun s n => shadowMerge s (tabKey t idx tgt n) (tabHl t idx n) 0xFFFFFFFF (twData s n)) s (upTo (tabWords t idx))

/-- W1P fields of an entry act on ones. -/
def windowPulse (s : State) (t idx : Nat) : State :=
  if t = 2 && bit (twData s 0) 17 then doReclaim s (BitVec.ofNat 8 idx)
  else if t = 4 && bit (twData s 0) 1 then tenantReset s (BitVec.ofNat 8 idx)
  else s

/-- Pending and LOST fields of a WRITE (R26, R32): a LOST write of zero clears it, and a loss counted in that CCLK leaves 1. -/
def windowState (s : State) (t idx tgt : Nat) : State :=
  if tabHasPend t && operating s then
    let k := entryInt t idx tgt
    softPend (if fld (twData s 1) 16 8 = 0 then clearLost s k else s) k (bit (twData s 1) 24)
  else s

/-- TW_STAT.ERR of a command (Table MB-8, R140). -/
def windowErr (s : State) (op : Nat) : BitVec 4 :=
  let t := twSel s
  let idx := twIndex s
  if 11 < t then 2
  else if !tabHolds t idx || (twTarget s ≠ 0 && !tabBanked t idx) then 1
  else if op = 1 || op = 2 then 0
  else if op = 3 || op = 4 then (if tabHasHl t idx then 0 else 3)
  else if op = 5 || op = 6 || op = 7 then (if tabHasPend t then 0 else 3)
  else 3

/-- The command on the entry selected. -/
def windowEffect (s : State) (op : Nat) : State :=
  let t := twSel s
  let idx := twIndex s
  let tgt := twTarget s
  let k := entryInt t idx tgt
  match op with
  | 1 => windowLoad s false t idx tgt
  | 2 => windowLoad s true t idx tgt
  | 3 => windowPulse (windowState (windowShadow s t idx tgt) t idx tgt) t idx
  | 4 => windowPulse (windowShadow s t idx tgt) t idx
  | 5 => if operating s then softPend s k true else s
  | 6 => if operating s then softPend s k false else s
  | 7 => clearLost s k
  | _ => s

/-- A write of TW_CMD that starts a command. -/
def windowCommand (s : State) (op : Nat) : State :=
  let e := windowErr s op
  let s1 := { s with bus := { s.bus with twErr := e, twCount := s.bus.twCount + 1 } }
  if e = 0 then windowEffect s1 op else s1

/-! ## Writes that start something -/

/-- RST_CTL: keyed (R440). -/
def rstCtl (s : State) (ones : Word) : State :=
  if fld ones 8 8 = 0xA5 then
    if bit ones 0 then askWarm s 3 else if bit ones 1 then stewardReset s else s
  else s

/-- TB_CTL: the RW fields, then the source (R106). -/
def tbCtl (s : State) (op : BusOp) (be : BE) (data : Word) : State :=
  let old := bit (regImm s 0x100) 0
  let s := writeIm s op 0x100 be data
  tbSource s old (bit (regImm s 0x100) 0)

/-- HL_CTL.REVERT; the bundle hold keeps its shadows (R414). -/
def revert (s : State) : State := if s.hl.bundleHold then s else revertShadows s

/-- MBX_BUF: ignored while the Steward owns it (R360). -/
def mbxBufWrite (s : State) (op : BusOp) (off : Nat) (be : BE) (data : Word) : State :=
  if s.mbx.bufBusy then (if writeMask op be data = 0 then s else sqSet s 0x90C 2) else writeIm s op off be data

/-- Every high-water mark takes the occupancy (R423, Table CQ-7). -/
def clearHwm (s : State) : State := { s with xl := { s.xl with hwm := [] } }

/-- What a write does beyond its RW fields, by register. -/
def writeAct (s : State) (op : BusOp) (off : Nat) (be : BE) (data : Word) : State :=
  let ones := writeOnes op be data
  let acts := woActs op be data
  let go := fun mask : Word => be.getLsbD 0 && acts mask
  if off = 0x114 then (if bit ones 8 then revert s else s)
  else if off = 0x200 then (if bit ones 8 then { s with pw := { s.pw with driftHold := false } } else s)
  else if off = 0x208 then rstCtl s ones
  else if off = 0x700 then (if go 0xF03 then auOpen s (fld ones 0 2) (fld ones 8 4) else s)
  else if off = 0x708 then
    (if acts 0x37F03 then auFeed s (fld ones 0 2) (fld ones 8 7) (bit ones 16) (bit ones 17) else s)
  else if off = 0x70C then (if go 0x3 then auClose s (fld ones 0 2) else s)
  else if off = 0x720 then (if bit ones 8 then auKeyErase s (fld (regImm s 0x720) 0 4) else s)
  else if off = 0x80C then (if bit ones 0 then { s with hl := { s.hl with snapPend := true } } else s)
  else if off = 0x900 then (if go 0xFFFF then mbxCmdWrite s (ones.extractLsb' 0 8) (ones.extractLsb' 8 8) else s)
  else if off = 0x904 then (if bit ones 0 then mbxPop s else s)
  else if off = 0xA28 then (if bit ones 0 then clearHwm s else s)
  else if off = 0x1028 then (if go 0xF then windowCommand s (fld ones 0 4) else s)
  else if off = 0x1300 then (if bit ones 0 then regionSyncReq s else s)
  else if isLinkOff off && linkOff off = 0 then
    (if bit ones 16 then doRetrain s (BitVec.ofNat 3 ((off - 0xC00) / 0x40)) else s)
  else if 0x1200 ≤ off && off < 0x1280 && off % 8 = 4 then
    (if acts 0xFFFFFF then wtEoi s (wiredTarget (wtNumber off)) be (ones.setWidth 24) else s)
  else s

/-- A write that is not refused. -/
def servedWrite (s : State) (op : BusOp) (off : Nat) (be : BE) (data : Word) (hw : BitVec 24) : State :=
  if isSq off then writeSq s off data hw
  else if off = 0x100 then tbCtl s op be data
  else if inWords off 0x980 0x9FC then mbxBufWrite s op off be data
  else if inWords off 0x1100 0x1108 then writePend s op ((off - 0x1100) / 4) be data
  else writeAct (writeIm (writeHl s op off be data) op off be data) op off be data

/-- A write cycle; with no byte enabled it is not a write (R128). -/
def busWrite (s : State) (addr : Nat) (be : BE) (data : Word) (hw : BitVec 24) : State :=
  if be = 0 || !busServed s then s
  else match refusal s true addr be with
    | some c => refuse s c false addr
    | none => servedWrite s (busOp addr) (baseOff addr) be data hw

/-! ## The commands -/

/-- A cycle's outcome: undefined while VDDHB stood outside both ranges (R511). A reset ends it without more. -/
def busDo (s : State) (f : State → State) : Out :=
  if s.pw.hbRange = .outside then .fault .hostBankUndefined
  else
    let t := f s
    if t.pw.mode = .reset then .next t else .next (settle s t)

def busPut (addr : Nat) (be : BE) (data : Word) (s : State) : Out := busDo s fun s => busWrite s addr be data 0
def busGet (addr : Nat) (s : State) : Out := busDo s fun s => busRead s addr

def execTbCtlWrite (be : BE) (data : Word) (s : State) : Out := busPut 0x100 be data s
def execDlvHoldWrite (v : Bool) (s : State) : Out := busPut 0x40 1 (putB v 0) s
def execWtAckRead (k : BitVec 4) (s : State) : Out := busGet (0x1200 + 8 * k.toNat) s
def execWtEoiWrite (k : BitVec 4) (be : BE) (data : Word) (s : State) : Out := busPut (0x1204 + 8 * k.toNat) be data s
def execRegisterWrite (off : BitVec 14) (be : BE) (data : Word) (s : State) : Out := busPut off.toNat be data s
def execSequenceClear (off : BitVec 14) (be : BE) (data : Word) (hwSet : BitVec 24) (s : State) : Out :=
  busDo s fun s => busWrite s off.toNat be data hwSet
def execAliasSetWrite (off : BitVec 14) (be : BE) (data : Word) (s : State) : Out := busPut (0x4000 + off.toNat) be data s
def execAliasClrWrite (off : BitVec 14) (be : BE) (data : Word) (s : State) : Out := busPut (0x8000 + off.toNat) be data s
def execAliasTglWrite (off : BitVec 14) (be : BE) (data : Word) (s : State) : Out := busPut (0xC000 + off.toNat) be data s
/-- W_PEND_WRITE: the register with suffix m; there are three. -/
def execWPendWrite (m : BitVec 2) (be : BE) (data : Word) (s : State) : Out :=
  if m = 3 then .next s else busPut (0x1100 + 4 * m.toNat) be data s
/-- MULTIWORD_CAPTURE: a read of the window at any address (log 21). -/
def execMultiwordCapture (addr : BitVec 16) (s : State) : Out := busGet addr.toNat s
def execShadowHoldWrite (v : Bool) (s : State) : Out := busPut 0x114 1 (putB v 0) s
def execHlRevert (s : State) : Out := busPut 0x114 2 0x100 s
def execTwRead (s : State) : Out := busPut 0x1028 1 1 s
def execTwReadLive (s : State) : Out := busPut 0x1028 1 2 s
def execTwWrite (s : State) : Out := busPut 0x1028 1 3 s
def execTwWriteCfg (s : State) : Out := busPut 0x1028 1 4 s
def execPendSet (s : State) : Out := busPut 0x1028 1 5 s
def execPendClr (s : State) : Out := busPut 0x1028 1 6 s
def execLostClr (s : State) : Out := busPut 0x1028 1 7 s
def execCfgSnap (s : State) : Out := busPut 0x80C 1 1 s
def execDriftRel (s : State) : Out := busPut 0x200 2 0x100 s
def execHwmClr (s : State) : Out := busPut 0xA28 1 1 s
def execRegionSyncReq (s : State) : Out := busPut 0x1300 1 1 s

/-- RECLAIM: a WRITE_CFG of a TARGET entry whose data carries the pulse; where the window holds another entry or no pulse,
the row's event cannot occur (log 1). -/
def execReclaim (t : Target) (s : State) : Out :=
  if twSel s = 2 && twIndex s = t.toNat && bit (twData s 0) 17 then busPut 0x1028 1 4 s else .next s
/-- FRESET: the same of a TENANT entry. -/
def execFreset (n : Tenant) (s : State) : Out :=
  if twSel s = 4 && twIndex s = n.toNat && bit (twData s 0) 1 then busPut 0x1028 1 4 s else .next s

def execRetrain (l : Link) (s : State) : Out := busPut (0xC00 + 0x40 * l.toNat) 4 0x10000 s
def execSoftwareWarmReset (key : BitVec 8) (alsoSteward : Bool) (s : State) : Out :=
  busPut 0x208 3 (putB true 0 ||| putB alsoSteward 1 ||| put key.toNat 8) s
def execStewardReset (key : BitVec 8) (s : State) : Out := busPut 0x208 3 (putB true 1 ||| put key.toNat 8) s
def execMbxCmdWrite (be : BE) (data : Word) (s : State) : Out := busPut 0x900 be data s
def execMbxPop (s : State) : Out := busPut 0x904 1 1 s
def execAuOpen (be : BE) (data : Word) (s : State) : Out := busPut 0x700 be data s
def execAuFeed (be : BE) (data : Word) (s : State) : Out := busPut 0x708 be data s
def execAuClose (be : BE) (data : Word) (s : State) : Out := busPut 0x70C be data s
def execAuKeyErase (be : BE) (data : Word) (s : State) : Out := busPut 0x720 be data s

end Sys2Proof.Machine
end

