-- ==== Sys2Proof/Machine/Dispatch.lean ====
section
/-!
DEFINITION. Machine/Dispatch.lean: one arm per command, each a direct call of its meaning.
-/
namespace Sys2Proof.Machine

/-- The effect of a command on everything but the queue. -/
def exec (i : Instr) (s : State) : Host.Outcome State Fault Refusal :=
  match i with
  | .wirqTransition n level => Sys2Proof.Machine.execWirqTransition n level s
  | .wirqFilterPass n => Sys2Proof.Machine.execWirqFilterPass n s
  | .frameBoundary => Sys2Proof.Machine.execFrameBoundary s
  | .fsyncEdgeInWindow d => Sys2Proof.Machine.execFsyncEdgeInWindow d s
  | .fsyncEdgeOutOfWindow p gap => Sys2Proof.Machine.execFsyncEdgeOutOfWindow p gap s
  | .tbCtlWrite be data => Sys2Proof.Machine.execTbCtlWrite be data s
  | .headland => Sys2Proof.Machine.execHeadland s
  | .scanPassComplete => Sys2Proof.Machine.execScanPassComplete s
  | .furrowRefresh bank => Sys2Proof.Machine.execFurrowRefresh bank s
  | .routeSelect t => Sys2Proof.Machine.execRouteSelect t s
  | .offerReplayEntry link => Sys2Proof.Machine.execOfferReplayEntry link s
  | .wiredOfferAssert k => Sys2Proof.Machine.execWiredOfferAssert k s
  | .recallSend link => Sys2Proof.Machine.execRecallSend link s
  | .offerTimeout t ticket => Sys2Proof.Machine.execOfferTimeout t ticket s
  | .recallTimeout t ticket => Sys2Proof.Machine.execRecallTimeout t ticket s
  | .dlvHoldWrite v => Sys2Proof.Machine.execDlvHoldWrite v s
  | .claimed link t intid ticket => Sys2Proof.Machine.execClaimed link t intid ticket s
  | .returned link t intid ticket => Sys2Proof.Machine.execReturned link t intid ticket s
  | .returnedBelow link t intid ticket => Sys2Proof.Machine.execReturnedBelow link t intid ticket s
  | .eoi link t intid => Sys2Proof.Machine.execEoi link t intid s
  | .completedExit t intid => Sys2Proof.Machine.execCompletedExit t intid s
  | .prio link t pmr bpr rpr => Sys2Proof.Machine.execPrio link t pmr bpr rpr s
  | .stateReport link t code => Sys2Proof.Machine.execState link t code s
  | .signal link sender form dest num => Sys2Proof.Machine.execSignal link sender form dest num s
  | .priv link t src level => Sys2Proof.Machine.execPriv link t src level s
  | .wtAckRead k => Sys2Proof.Machine.execWtAckRead k s
  | .wtEoiWrite k be data => Sys2Proof.Machine.execWtEoiWrite k be data s
  | .reclaim t => Sys2Proof.Machine.execReclaim t s
  | .registerWrite off be data => Sys2Proof.Machine.execRegisterWrite off be data s
  | .sequenceClear off be data hwSet => Sys2Proof.Machine.execSequenceClear off be data hwSet s
  | .aliasSetWrite off be data => Sys2Proof.Machine.execAliasSetWrite off be data s
  | .aliasClrWrite off be data => Sys2Proof.Machine.execAliasClrWrite off be data s
  | .aliasTglWrite off be data => Sys2Proof.Machine.execAliasTglWrite off be data s
  | .wPendWrite m be data => Sys2Proof.Machine.execWPendWrite m be data s
  | .multiwordCapture addr => Sys2Proof.Machine.execMultiwordCapture addr s
  | .shadowHoldWrite v => Sys2Proof.Machine.execShadowHoldWrite v s
  | .hlRevert => Sys2Proof.Machine.execHlRevert s
  | .twRead => Sys2Proof.Machine.execTwRead s
  | .twReadLive => Sys2Proof.Machine.execTwReadLive s
  | .twWrite => Sys2Proof.Machine.execTwWrite s
  | .twWriteCfg => Sys2Proof.Machine.execTwWriteCfg s
  | .pendSet => Sys2Proof.Machine.execPendSet s
  | .pendClr => Sys2Proof.Machine.execPendClr s
  | .lostClr => Sys2Proof.Machine.execLostClr s
  | .cfgSnap => Sys2Proof.Machine.execCfgSnap s
  | .driftRel => Sys2Proof.Machine.execDriftRel s
  | .hwmClr => Sys2Proof.Machine.execHwmClr s
  | .regionSyncReq => Sys2Proof.Machine.execRegionSyncReq s
  | .regionSyncDone => Sys2Proof.Machine.execRegionSyncDone s
  | .sowWrite link fn be data => Sys2Proof.Machine.execSowWrite link fn be data s
  | .sowAdmit link => Sys2Proof.Machine.execSowAdmit link s
  | .invWrite link fn be data => Sys2Proof.Machine.execInvWrite link fn be data s
  | .invalidationServe => Sys2Proof.Machine.execInvalidationServe s
  | .syncWrite link fn be data => Sys2Proof.Machine.execSyncWrite link fn be data s
  | .syncDone fn => Sys2Proof.Machine.execSyncDone fn s
  | .rrd link fn off rtag malformed => Sys2Proof.Machine.execRrd link fn off rtag malformed s
  | .rwr link fn off be data malformed => Sys2Proof.Machine.execRwr link fn off be data malformed s
  | .flr link fn => Sys2Proof.Machine.execFlr link fn s
  | .freset n => Sys2Proof.Machine.execFreset n s
  | .resetForced n => Sys2Proof.Machine.execResetForced n s
  | .tenantQuiesced n => Sys2Proof.Machine.execTenantQuiesced n s
  | .ringHeadWrite link fn evt be data => Sys2Proof.Machine.execRingHeadWrite link fn evt be data s
  | .ringTailWrite link fn evt be data => Sys2Proof.Machine.execRingTailWrite link fn evt be data s
  | .walkerTake => Sys2Proof.Machine.execWalkerTake s
  | .walkBlockedRelease n => Sys2Proof.Machine.execWalkBlockedRelease n s
  | .walkReadIssue tag => Sys2Proof.Machine.execWalkReadIssue tag s
  | .walkCompletion link tag gen status last data => Sys2Proof.Machine.execWalkCompletion link tag gen status last data s
  | .cplTimeout tag => Sys2Proof.Machine.execCplTimeout tag s
  | .spillSweep n block access => Sys2Proof.Machine.execSpillSweep n block access s
  | .xcfgRefetch intid => Sys2Proof.Machine.execXcfgRefetch intid s
  | .noteSend link => Sys2Proof.Machine.execNoteSend link s
  | .cmpTimeoutDrop link => Sys2Proof.Machine.execCmpTimeoutDrop link s
  | .faultRecordWrite => Sys2Proof.Machine.execFaultRecordWrite s
  | .eventRecordWrite => Sys2Proof.Machine.execEventRecordWrite s
  | .tlpReceive link lines => Sys2Proof.Machine.execTlpReceive link lines s
  | .ackReceive link seq => Sys2Proof.Machine.execAckReceive link seq s
  | .nakReceive link seq => Sys2Proof.Machine.execNakReceive link seq s
  | .creditReceive link vc cum => Sys2Proof.Machine.execCreditReceive link vc cum s
  | .replayTimeout link => Sys2Proof.Machine.execReplayTimeout link s
  | .creditRepeat link => Sys2Proof.Machine.execCreditRepeat link s
  | .grainLock link lane peak lead c1 c2 => Sys2Proof.Machine.execGrainLock link lane peak lead c1 c2 s
  | .laneLockLoss link lane cause => Sys2Proof.Machine.execLaneLockLoss link lane cause s
  | .laneReadmit link lane => Sys2Proof.Machine.execLaneReadmit link lane s
  | .detectPoll link mask => Sys2Proof.Machine.execDetectPoll link mask s
  | .trainingStepExit link info => Sys2Proof.Machine.execTrainingStepExit link info s
  | .trainingStepTimeout link => Sys2Proof.Machine.execTrainingStepTimeout link s
  | .trainHoldoffEnd link => Sys2Proof.Machine.execTrainHoldoffEnd link s
  | .electricalIdleSeen link => Sys2Proof.Machine.execElectricalIdleSeen link s
  | .regroupStart link => Sys2Proof.Machine.execRegroupStart link s
  | .regroupGrainReceived link lines => Sys2Proof.Machine.execRegroupGrainReceived link lines s
  | .regroupTimeout link => Sys2Proof.Machine.execRegroupTimeout link s
  | .linkDown link lines => Sys2Proof.Machine.execLinkDown link lines s
  | .retrain link => Sys2Proof.Machine.execRetrain link s
  | .linkPwrEntry link => Sys2Proof.Machine.execLinkPwrEntry link s
  | .entryMarkAnswer link => Sys2Proof.Machine.execEntryMarkAnswer link s
  | .entryTimeout link => Sys2Proof.Machine.execEntryTimeout link s
  | .idleExit link byEndpoint => Sys2Proof.Machine.execIdleExit link byEndpoint s
  | .fallowExitStep link step => Sys2Proof.Machine.execFallowExitStep link step s
  | .powerExitFail link => Sys2Proof.Machine.execPowerExitFail link s
  | .deviceWake src num => Sys2Proof.Machine.execDeviceWake src num s
  | .budgetLevelAdopt level => Sys2Proof.Machine.execBudgetLevelAdopt level s
  | .breqAdopt n level => Sys2Proof.Machine.execBreqAdopt n level s
  | .allotGrant => Sys2Proof.Machine.execAllotGrant s
  | .wakeGrantTimeout t => Sys2Proof.Machine.execWakeGrantTimeout t s
  | .trevokeExpiry n => Sys2Proof.Machine.execTrevokeExpiry n s
  | .pfail => Sys2Proof.Machine.execPfail s
  | .gaspRecordComplete ok => Sys2Proof.Machine.execGaspRecordComplete ok s
  | .gaspRecovery => Sys2Proof.Machine.execGaspRecovery s
  | .npor => Sys2Proof.Machine.execNpor s
  | .nreset => Sys2Proof.Machine.execNreset s
  | .softwareWarmReset key alsoSteward => Sys2Proof.Machine.execSoftwareWarmReset key alsoSteward s
  | .stewardReset key => Sys2Proof.Machine.execStewardReset key s
  | .pllLoss => Sys2Proof.Machine.execPllLoss s
  | .resetRelease straps level => Sys2Proof.Machine.execResetRelease straps level s
  | .loaderOutcome ecc => Sys2Proof.Machine.execLoaderOutcome ecc s
  | .loadTimeout => Sys2Proof.Machine.execLoadTimeout s
  | .watchdogExpiry => Sys2Proof.Machine.execWatchdogExpiry s
  | .gaspArming => Sys2Proof.Machine.execGaspArming s
  | .thermalRound t0 t1 t2 t3 => Sys2Proof.Machine.execThermalRound t0 t1 t2 t3 s
  | .shutdownTrip => Sys2Proof.Machine.execShutdownTrip s
  | .testEntry ir => Sys2Proof.Machine.execTestEntry ir s
  | .testExit => Sys2Proof.Machine.execTestExit s
  | .bistMem pass nfail first => Sys2Proof.Machine.execBistMem pass nfail first s
  | .bistLogic pass nfail first => Sys2Proof.Machine.execBistLogic pass nfail first s
  | .nvProgramDone ok => Sys2Proof.Machine.execNvProgramDone ok s
  | .nvEraseDone outcome => Sys2Proof.Machine.execNvEraseDone outcome s
  | .journalCheckpoint => Sys2Proof.Machine.execJournalCheckpoint s
  | .mbxCmdWrite be data => Sys2Proof.Machine.execMbxCmdWrite be data s
  | .mbxReplyPost => Sys2Proof.Machine.execMbxReplyPost s
  | .mbxPop => Sys2Proof.Machine.execMbxPop s
  | .ping => Sys2Proof.Machine.execPing s
  | .getInfo => Sys2Proof.Machine.execGetInfo s
  | .imgBegin => Sys2Proof.Machine.execImgBegin s
  | .imgWrite => Sys2Proof.Machine.execImgWrite s
  | .imgVerify ecc => Sys2Proof.Machine.execImgVerify ecc s
  | .bootTrial => Sys2Proof.Machine.execBootTrial s
  | .commitTrial => Sys2Proof.Machine.execCommitTrial s
  | .switch => Sys2Proof.Machine.execSwitch s
  | .setPolicy => Sys2Proof.Machine.execSetPolicy s
  | .nvInfo => Sys2Proof.Machine.execNvInfo s
  | .logRead ecc => Sys2Proof.Machine.execLogRead ecc s
  | .gaspRead ecc => Sys2Proof.Machine.execGaspRead ecc s
  | .calSave => Sys2Proof.Machine.execCalSave s
  | .wearRead => Sys2Proof.Machine.execWearRead s
  | .logMark => Sys2Proof.Machine.execLogMark s
  | .bundleBegin => Sys2Proof.Machine.execBundleBegin s
  | .bundleWrite => Sys2Proof.Machine.execBundleWrite s
  | .bundleVerify ecc => Sys2Proof.Machine.execBundleVerify ecc s
  | .bundleApply => Sys2Proof.Machine.execBundleApply s
  | .bundleHoldStart ecc => Sys2Proof.Machine.execBundleHoldStart ecc s
  | .bundleConfirm => Sys2Proof.Machine.execBundleConfirm s
  | .bundleRollback => Sys2Proof.Machine.execBundleRollback s
  | .confirmTimeout => Sys2Proof.Machine.execConfirmTimeout s
  | .bundleInfo => Sys2Proof.Machine.execBundleInfo s
  | .keyPut => Sys2Proof.Machine.execKeyPut s
  | .keyDrop => Sys2Proof.Machine.execKeyDrop s
  | .keyInfo => Sys2Proof.Machine.execKeyInfo s
  | .auOpen be data => Sys2Proof.Machine.execAuOpen be data s
  | .auFeed be data => Sys2Proof.Machine.execAuFeed be data s
  | .auClose be data => Sys2Proof.Machine.execAuClose be data s
  | .auKeyErase be data => Sys2Proof.Machine.execAuKeyErase be data s
  | .engineTurn => Sys2Proof.Machine.execEngineTurn s
  | .auContextTimeout ctx => Sys2Proof.Machine.execAuContextTimeout ctx s
  | .nporRise range => Sys2Proof.Machine.execNporRise range s
  | .rootPllLock => Sys2Proof.Machine.execRootPllLock s
  | .supplyOutOfRange outside => Sys2Proof.Machine.execSupplyOutOfRange outside s
  | .equaliserTracking link lane up => Sys2Proof.Machine.execEqualiserTracking link lane up s

end Sys2Proof.Machine
end

