-- ==== Sys2Proof/Machine/Tick.lean ====
section
/-!
DEFINITION. Machine/Tick.lean: one CCLK of an idle step, with what the part does in it of itself (log 2).
-/
namespace Sys2Proof.Machine

/-- The frame phase advances, short of the boundary that FRAME_BOUNDARY makes (R105). -/
def tbCclk (s : State) : State :=
  if tbRuns s && s.tb.phase + 1 < s.tb.len then setTb s { s.tb with phase := s.tb.phase + 1 } else s

/-- One CCLK of a link: its lanes send, grains enter the transmit FIFOs, the link layer takes its next packet where that waits for
no command, and the handshake of a step goes on (R217, R244, R262, R282). -/
def linkCclk (s : State) (l : Link) : State :=
  let s := fillOut (lanesTick s l) l
  let s := setLl s l fun ll => { ll with dueAge := if lcpDue ll then ll.dueAge + 1 else 0 }
  shake (sendWalker (sendOwn s l) l) l false

/-- The link does something in this CCLK. -/
def linkLives (s : State) (l : Link) : Bool := (linkOf s l).st ≠ .down

/-- What moves in every CCLK while CCLK runs: the fan-outs of R96, the retirements of R99, the links. -/
def coreCclk (s : State) : State :=
  if cclkRuns s then foldS (fun s l => if linkLives s l then linkCclk s l else s) (fanStep (wiredRetire s)) allLinks else s

/-- One CCLK with no command. -/
def tick (s : State) : State := settle s (coreCclk (tbCclk { s with now := s.now + 1 }))

end Sys2Proof.Machine
end

