-- ==== Sys2Proof/Safety.lean ====
section
/-!
DEFINITION. Safety.lean: what a safe run is, and the terms in which the statements say what a command leaves as it was.
-/
namespace Sys2Proof.Safety

open Sys2Proof.Machine

/-! ## Invariants -/

/-- The management bus is defined (R511). -/
def BusDefined (s : State) : Prop := s.pw.hbRange ≠ .outside

/-- Frame lengths (R112): the current frame, the next one, and the phase within the frame. -/
structure FrameInv (s : State) : Prop where
  lenLow   : 38880 ≤ s.tb.len
  lenHigh  : s.tb.len ≤ 116639
  nextLow  : 77758 ≤ s.tb.nextLen
  nextHigh : s.tb.nextLen ≤ 77762
  phase    : s.tb.phase ≤ s.tb.len

/-- No house flag waits to be set, and no SEQ has advanced in the CCLK at hand: the model's own accumulators are empty
between commands (log 7). -/
def Quiet (s : State) : Prop := s.hsAcc = 0 ∧ s.sqAcc = []

/-- The bytes of the store are in their canonical form: addresses rising, no erased byte listed. -/
def StoreWf (s : State) : Prop := Memory.wf s.nv.mem = true

/-! ## Runs -/

/-- A run of steps that answers next states only. -/
def Runs : Nat → State → State → Prop
  | 0, s, t => s = t
  | n + 1, s, t => ∃ u, step s = .next u ∧ Runs n u t

/-- A state some run from reset reaches, whatever commands come in. -/
def Reached (s : State) : Prop := ∃ n q, Runs n (State.reset.withPending q) s

/-! ## What a command leaves as it was -/

/-- `t` is `e` but for the high-water marks, which every command may raise (R443), and for what the arbiter does of itself
in the CCLK of every command (`arbFollow`: R62, R289, R296, R298, R304). -/
def UpToMarks (e t : State) : Prop :=
  ∃ h, t = { e with allot := (arbFollow e).allot, xl := { e.xl with hwm := h }, sqAcc := [] }

/-- The key of a house source's record. -/
def houseKey (k : Nat) : Bool := decide (8192 + 128 ≤ k) && decide (k < 8192 + 144)

/-- `t` is `s` but for what the closing of a command may touch: HS_STAT, the records of the house sources, Offered-P
INTIDs that R335 withdraws, a notification that a house source places, the allotments, the Steward's log work, the trail and
the high-water marks. With `w` false no offer is withdrawn. -/
structure Aside (w : Bool) (s t : State) : Prop where
  pending : t.pending = s.pending
  shadow : t.cfg.shadow = s.cfg.shadow
  live : t.cfg.live = s.cfg.live
  im : t.cfg.im = s.cfg.im
  sq : ∀ off, off ≠ 0x300 → sqOf t off = sqOf s off
  cnt : ∀ off, off ≠ cntCMPDROP → cntOf t off = cntOf s off
  bus : t.bus = s.bus
  tb : t.tb = s.tb
  hl : t.hl = s.hl
  tgts : t.irq.tgts = s.irq.tgts
  ptrs : t.irq.ptrs = s.irq.ptrs
  choices : t.irq.choices = s.irq.choices
  serial : t.irq.serial = s.irq.serial
  wPin : t.irq.wPin = s.irq.wPin
  wFilt : t.irq.wFilt = s.irq.wFilt
  wTran : t.irq.wTran = s.irq.wTran
  wSince : t.irq.wSince = s.irq.wSince
  bankPos : t.irq.bankPos = s.irq.bankPos
  fans : t.irq.fans = s.irq.fans
  ints : ∀ k, houseKey k = false → (w = false ∨ (intOf s k).st ≠ .offeredP) → intOf t k = intOf s k
  xl : t.xl = { s.xl with qCmp := t.xl.qCmp, noteSerial := t.xl.noteSerial, hwm := t.xl.hwm }
  cmp : ∃ l, t.xl.qCmp = s.xl.qCmp ++ l
  tens : t.tens = s.tens
  quiesceLast : t.quiesceLast = s.quiesceLast
  links : t.links = s.links
  lanes : t.lanes = s.lanes
  pw : t.pw = s.pw
  mbx : t.mbx = s.mbx
  nv : t.nv = { s.nv with trail := t.nv.trail, jobs := t.nv.jobs }
  jobs : ∃ l, t.nv.jobs = s.nv.jobs ++ l
  stew : t.stew = s.stew
  au : t.au = s.au
  bun : t.bun = s.bun
  now : t.now = s.now
  free : t.free = s.free

/-- `t` is `e` once the house flags `f` of the command's CCLK have been set: HS_STAT takes them as one set (R132), the
house sources follow (Table IS-2), the arbiter follows, and nothing else changes but the trail of the gasp record and the
high-water marks. -/
def FlagsSet (f : BitVec 16) (e t : State) : Prop :=
  Aside false e t ∧ sqOf t 0x300 = sqRaise (sqOf e 0x300) (f.setWidth 24) ∧ t.nv.jobs = e.nv.jobs ∧
  t.allot = (arbFollow e).allot

/-- `t` is `e` once the house flags that `e` has gathered, if any, have been set. -/
def Closed (e t : State) : Prop :=
  if e.hsAcc = 0 then UpToMarks e t else FlagsSet e.hsAcc { e with hsAcc := 0 } t

/-- `t` is `e` once the house flags `f` have been set, and the offers that no endpoint holds have been withdrawn where the
command has ended the permission of event S (R335), before the arbiter follows. -/
def FlagsSetW (f : BitVec 16) (e t : State) : Prop :=
  Aside true e t ∧ sqOf t 0x300 = sqRaise (sqOf e 0x300) (f.setWidth 24) ∧
  ∃ x, Aside true e x ∧ x.allot = e.allot ∧ t.allot = (arbFollow x).allot

end Sys2Proof.Safety
end

