-- ==== Sys2Proof/Certificates/Slice0/Obligations.lean ====
section
/-!
DEFINITION. Certificates/Slice0/Obligations.lean: the statements for the provers.
-/
namespace Sys2Proof.Claims
end Sys2Proof.Claims

open Sys2Proof Sys2Proof.Machine Sys2Proof.Safety Sys2Proof.Claims

/-! ## The block: one step, the queue, what stops -/

/-- A step takes the command at the front of the queue and runs it on the rest. -/
def Sys2Proof.Claims.StepRunsFront : Prop :=
  ∀ (s : State) (c : Instr) (rest : List Instr),
    step (s.withPending (c :: rest)) = exec c (s.withPending rest)

/-- With an empty queue one CCLK passes (the model's choice, log 2): the clock counts, the frame phase of a timebase that
counts advances short of the end of the frame (R105); every fan-out in progress has triggered one destination more, in the
operating modes (R96); the lanes and link layers of the links move, and no link changes its state. While CCLK stands still nothing
but the clock and the phase moves. -/
def Sys2Proof.Claims.IdleStepTicks : Prop :=
  ∀ s : State, s.pending = [] → Quiet s →
    let e := { s with
      now := s.now + 1
      tb := if tbRuns s = true ∧ s.tb.phase + 1 < s.tb.len then { s.tb with phase := s.tb.phase + 1 } else s.tb }
    ∃ t, step s = .next t ∧ t.pending = [] ∧ t.now = e.now ∧ t.tb = e.tb ∧
      t.cfg.live = s.cfg.live ∧ t.cfg.shadow = s.cfg.shadow ∧ t.cfg.im = s.cfg.im ∧ t.hl = s.hl ∧ t.bus = s.bus ∧
      t.pw = s.pw ∧ t.mbx = s.mbx ∧ t.stew = s.stew ∧ t.au = s.au ∧ t.bun = s.bun ∧ t.nv.mem = s.nv.mem ∧
      (∀ l, (linkOf t l).st = (linkOf s l).st) ∧
      (s.pw.mode = .operating →
        t.irq.fans = (s.irq.fans.map fun f => { f with rest := f.rest.tail }).filter fun f => !f.rest.isEmpty) ∧
      (cclkRuns s = false → UpToMarks e t)

/-- No command puts one in the queue or takes one out of it. -/
def Obligations.CommandsLeaveTheQueue : Prop :=
  ∀ (c : Instr) (s t : State), exec c s = .next t → t.pending = s.pending

/-- The commands that are a cycle of the management bus. -/
def Sys2Proof.Claims.isBusCommand : Instr → Bool
  | .tbCtlWrite .. | .dlvHoldWrite .. | .wtAckRead .. | .wtEoiWrite .. | .registerWrite .. | .sequenceClear ..
  | .aliasSetWrite .. | .aliasClrWrite .. | .aliasTglWrite .. | .multiwordCapture .. | .shadowHoldWrite .. | .hlRevert
  | .twRead | .twReadLive | .twWrite | .twWriteCfg | .pendSet | .pendClr | .lostClr | .cfgSnap | .driftRel | .hwmClr
  | .regionSyncReq | .retrain .. | .softwareWarmReset .. | .stewardReset .. | .mbxCmdWrite .. | .mbxPop
  | .auOpen .. | .auFeed .. | .auClose .. | .auKeyErase .. => true
  | _ => false

/-- R511: with VDDHB inside one of its ranges at the last rise of nPOR every command completes; with VDDHB outside both the
cycles of the management bus are undefined, and the model stops. -/
def Obligations.OnlyAnUndefinedBusStops : Prop :=
  (∀ (c : Instr) (s : State), BusDefined s → ∃ t, exec c s = .next t) ∧
  ∀ (c : Instr) (s : State), isBusCommand c = true → ¬ BusDefined s → exec c s = .fault .hostBankUndefined

/-! ## Invariants -/

/-- R112: a frame is never shorter than 38,880 CCLK nor longer than 116,639, whatever happens on FSYNC. -/
def Obligations.FrameLengthsStayBounded : Prop :=
  ∀ s t : State, FrameInv s → step s = .next t → FrameInv t

/-- Between commands no house flag waits to be set: HS_STAT takes them in the CCLK of the command (R132; the accumulator is
the model's own, log 7). -/
def Obligations.HouseFlagsAreSpent : Prop :=
  ∀ s t : State, Quiet s → step s = .next t → Quiet t

/-- The store's bytes keep their canonical form, so that equal contents are equal data. -/
def Obligations.StoreStaysCanonical : Prop :=
  ∀ s t : State, StoreWf s → step s = .next t → StoreWf t

/-- What the machine holds right after power is applied, with nPOR low: RESET, no INTID but Inactive, every link DOWN,
every window register at the reset value that chapter 20 gives, and the invariants. -/
def Obligations.ResetState : Prop :=
  FrameInv State.reset ∧ Quiet State.reset ∧ StoreWf State.reset ∧ State.reset.pending = [] ∧
  State.reset.pw.mode = .reset ∧ modeCode State.reset = 0 ∧ State.reset.tb.frame = 0 ∧ State.reset.hl.seq = 0 ∧
  (∀ k, (intOf State.reset k).st = .inactive ∧ (intOf State.reset k).lost = 0) ∧
  (∀ l, (linkOf State.reset l).st = .down) ∧
  (∀ t, (tgtOf State.reset t).rpr = 0xFF ∧ (tgtOf State.reset t).pmr = 0 ∧ (tgtOf State.reset t).sleep = 0) ∧
  (∀ off, sqOf State.reset off = {}) ∧ (∀ off, cntOf State.reset off = 0) ∧
  regLive State.reset 0x44 = 8 ∧ regLive State.reset 0x48 = 16 ∧ regLive State.reset 0x4C = 8 ∧
  regImm State.reset 0x100 = 0x00040800 ∧ regLive State.reset 0x110 = 1 ∧ regImm State.reset 0x1110 = 0xFFFFFFFF ∧
  State.reset.pw.cause = 1

/-! ## Timebase (chapter 05) -/

/-- The end of a frame (R105, R108, R109, R111, R113, Table HL-1): the next frame takes the length set for it, TB_FRAME
counts, the headland countdown goes down; a frame without an accepted edge moves the timebase as Table HL-1 says, and the
loss is flagged once, when MISS reaches LOST_N (with LOST_N lowered below MISS at the next such frame: the model's choice, log 75);
one that a step has cut short only counts in MISS (the model's choice, log 73). While a headland is due, or with the timebase stopped, nothing happens. -/
def Obligations.FrameBoundary : Prop :=
  ∀ s : State, Quiet s →
    let ends := fun b : Timebase => { s with
      tb := { b with phase := 0, len := b.nextLen, frame := s.tb.frame + 1, accepted := false, stepEnd := false }
      hl := { s.hl with left := s.hl.left - 1 }
      stew := { s.stew with frames := s.stew.frames + 1 } }
    ∃ t, exec .frameBoundary s = .next t ∧
      if tbRuns s = false ∨ s.hl.left = 0 then UpToMarks s t
      else if s.tb.accepted = true then UpToMarks (ends s.tb) t
      else if s.tb.stepEnd = true then UpToMarks (ends { s.tb with miss := satInc8 s.tb.miss }) t
      else match s.tb.mode with
        | .free => UpToMarks (ends s.tb) t
        | .acquire => UpToMarks (ends { s.tb with miss := satInc8 s.tb.miss, nextLen := 77760 }) t
        | .locked =>
          if lostN s ≤ 1 then
            FlagsSet hFSYNC (ends { s.tb with mode := .flywheel, miss := 1, lossFlagged := true, cause := 1 }) t
          else UpToMarks (ends { s.tb with mode := .flywheel, miss := 1, lossFlagged := false }) t
        | .flywheel =>
          if lostN s ≤ (satInc8 s.tb.miss).toNat ∧ s.tb.lossFlagged = false then
            FlagsSet hFSYNC (ends { s.tb with miss := satInc8 s.tb.miss, lossFlagged := true, cause := 1 }) t
          else UpToMarks (ends { s.tb with miss := satInc8 s.tb.miss }) t

/-- FSYNC is acted on (R105, R320, R486): the timebase counts, its source is the pin, and the mode is one that acts on it. -/
abbrev Sys2Proof.Claims.fsyncTaken (s : State) : Prop :=
  tbRuns s = true ∧ s.tb.mode ≠ .free ∧ s.pw.mode ≠ .reset ∧ s.pw.mode ≠ .shutdown ∧ s.pw.mode ≠ .test

/-- An edge in the window (R107, R108, Table HL-1): LOCKED, ERR records the offset, MISS is cleared, and the next frame is
slewed by at most 2 CCLK. Only the first edge of a frame is taken. -/
def Sys2Proof.Claims.FsyncEdgeInWindow : Prop :=
  ∀ (s : State) (d : Int), Quiet s →
    ∃ t, exec (.fsyncEdgeInWindow d) s = .next t ∧
      (fsyncTaken s ∧ s.tb.accepted = false ∧ -128 ≤ d ∧ d ≤ 128 →
        UpToMarks { s with tb := { s.tb with
          mode := .locked, accepted := true, nextLen := (77760 + max (-2) (min 2 d)).toNat, err := BitVec.ofInt 9 d,
          miss := 0, run := 0, lossFlagged := false } } t) ∧
      (¬ (fsyncTaken s ∧ s.tb.accepted = false ∧ -128 ≤ d ∧ d ≤ 128) → UpToMarks s t)

/-- An edge out of the window (R109, R110): it is counted in CNT_FSYNC_OOW; one that follows its predecessor by 77,632 to
77,888 CCLK continues a run, another begins one; the edge that brings the run to RESYNC_N steps the timebase: a frame in its
second half ends there, one in its first half is lengthened by a whole frame, and TB_STAT records the step unless the timebase was
acquiring. The edge that completes the run is no accepted edge of its frame (the model's reading, log 73). -/
def Sys2Proof.Claims.FsyncEdgeOutOfWindow : Prop :=
  ∀ (s : State) (p gap : Nat), Quiet s →
    ∃ t, exec (.fsyncEdgeOutOfWindow p gap) s = .next t ∧
      let run := if 0 < s.tb.run ∧ 77632 ≤ gap ∧ gap ≤ 77888 then s.tb.run + 1 else 1
      let stepped : Timebase := { s.tb with
        mode := .locked, run := 0, nextLen := 77760, lossFlagged := false,
        len := if 38880 ≤ p then p else p + 77760, phase := p, stepEnd := if 38880 ≤ p then true else s.tb.stepEnd }
      let counted := fun b : Timebase => bump { s with tb := b } cntFSYNCOOW
      if fsyncTaken s ∧ 128 < p ∧ p + 128 < s.tb.len then
        if run < resyncN s then UpToMarks (counted { s.tb with run := run }) t
        else if s.tb.mode = .acquire then UpToMarks (counted stepped) t
        else FlagsSet hFSYNC (counted { stepped with cause := 2 }) t
      else UpToMarks s t

/-- A step takes the command at the front of the queue and runs it on the rest; on an empty queue one CCLK passes (log 2). -/
def Obligations.StepsOfTheBlock : Prop := StepRunsFront ∧ IdleStepTicks

/-- FSYNC edges (R105, R107 to R110, Table HL-1): the first of a frame in the window slews it, and a run of edges out of the window steps it. -/
def Obligations.FsyncEdges : Prop := FsyncEdgeInWindow ∧ FsyncEdgeOutOfWindow

/-! ## INTIDs, the furrow and offers (chapters 02 to 04) -/

/-- The states of one INTID under the events of Table IS-5 (R19 to R21, R23, R26, R31, R199), and that an event on one INTID
leaves every other INTID and every target's view as they were. A software set of the pending bit is lost on any Active INTID, a
level's rise on an Active level source is not. -/
def Obligations.EventsOnAnIntid : Prop :=
  ∀ (s : State) (k : Nat) (n : Option NoteKey) (tg : Target),
    let r := intOf s k
    let level := isLevel s (keyTarget k) (keyIntid k)
    let high := levelHigh s (keyTarget k) (keyIntid k)
    (intOf (evT s k n) k).st = (match r.st with
      | .inactive | .completed => .pending
      | x => x) ∧
    (r.st = .active → (intOf (evT s k n) k).lost = (if level = true then r.lost else satInc8 r.lost) ∧
      cntOf (evT s k n) cntLOST = (if level = true then cntOf s cntLOST else cntOf s cntLOST + 1)) ∧
    (r.st = .active → (intOf (evSet s k) k).st = .active ∧ (intOf (evSet s k) k).lost = satInc8 r.lost ∧
      cntOf (evSet s k) cntLOST = cntOf s cntLOST + 1) ∧
    (r.st ≠ .active → evSet s k = evT s k none) ∧
    (intOf (evF s k) k).st = (match r.st with
      | .pending | .offeredP => .inactive
      | x => x) ∧
    (intOf (evW s k) k).st = (match r.st with
      | .offeredP => .pending
      | x => x) ∧
    (intOf (evC s k tg) k).st = (match r.st with
      | .offeredE => .active
      | x => x) ∧
    (r.st = .offeredE → (intOf (evC s k tg) k).holder = tg) ∧
    (intOf (evN s k) k).st = (match r.st with
      | .offeredE => if r.discard = true ∨ (level = true ∧ high = false) then .inactive else .pending
      | x => x) ∧
    (r.st = .offeredE → r.discard = true → cntOf (evN s k) cntDISCARD = cntOf s cntDISCARD + 1) ∧
    (intOf (evE s k) k).st = (match r.st with
      | .active => .completed
      | x => x) ∧
    (intOf (evK s k) k).st = (match r.st with
      | .pending => if level = true ∧ high = true then .pending else .inactive
      | .offeredP => if level = true ∧ high = true then .offeredP else .inactive
      | x => x) ∧
    (intOf (evD s k) k).st = (match r.st with
      | .pending | .offeredP => .inactive
      | x => x) ∧
    (r.st = .pending ∨ r.st = .offeredP → cntOf (evD s k) cntDISCARD = cntOf s cntDISCARD + 1) ∧
    (r.st = .offeredE → (intOf (evD s k) k).discard = true) ∧
    ∀ t, t = evT s k n ∨ t = evSet s k ∨ t = evF s k ∨ t = evW s k ∨ t = evC s k tg ∨ t = evN s k ∨ t = evE s k ∨ t = evK s k ∨
        t = evD s k →
      (∀ j, j ≠ k → intOf t j = intOf s j) ∧ t.irq.tgts = s.irq.tgts ∧ t.cfg.live = s.cfg.live

/-- A wired input (R523): its level at the pin, read under the live POL, that equals the filtered level cancels a transition
that is being filtered; one that differs begins a filtering, or passes at once where F is 0. A transition that passes moves
the filtered level, and in the operating modes the input's INTID takes event T on a rise; on a fall a level source takes
event F and an edge source nothing. -/
def Sys2Proof.Claims.wiredPassed (s : State) (n : Nat) (v : Bool) : State :=
  let k := ikey 0 (BitVec.ofNat 24 (32 + n))
  let u := { s with irq := { s.irq with
    wFilt := putBit96 s.irq.wFilt n v, wTran := putBit96 s.irq.wTran n false } }
  if s.pw.mode ≠ .operating then u
  else if v = true then evT u k none
  else if srcEdge u 0 (BitVec.ofNat 24 (32 + n)) = true then u else evF u k

def Obligations.WiredInputs : Prop :=
  ∀ (s : State) (n : BitVec 7) (level : Bool), Quiet s →
    let runs := n.toNat < 96 ∧ (s.pw.mode = .operating ∨ s.pw.mode = .safe ∨ s.pw.mode = .lastGasp)
    let p := { s with irq := { s.irq with wPin := putBit96 s.irq.wPin n.toNat level } }
    let v := xor level (wiredPol s n.toNat)
    (runs → v = s.irq.wFilt.getLsbD n.toNat → ∃ t, exec (.wirqTransition n level) s = .next t ∧
      UpToMarks { p with irq := { p.irq with wTran := putBit96 s.irq.wTran n.toNat false } } t) ∧
    (runs → v ≠ s.irq.wFilt.getLsbD n.toNat → wiredFilt s n.toNat ≠ 0 →
      ∃ t, exec (.wirqTransition n level) s = .next t ∧
        UpToMarks { p with irq := { p.irq with
          wTran := putBit96 s.irq.wTran n.toNat true, wSince := tabSet s.irq.wSince 0 n.toNat s.now } } t) ∧
    (runs → v ≠ s.irq.wFilt.getLsbD n.toNat → wiredFilt s n.toNat = 0 →
      ∃ t, exec (.wirqTransition n level) s = .next t ∧
        Closed (wiredPassed { p with irq := { p.irq with
          wTran := putBit96 s.irq.wTran n.toNat true, wSince := tabSet s.irq.wSince 0 n.toNat s.now } } n.toNat v) t) ∧
    (runs → s.irq.wTran.getLsbD n.toNat = true → ∃ t, exec (.wirqFilterPass n) s = .next t ∧
      Closed (wiredPassed s n.toNat (xor (s.irq.wPin.getLsbD n.toNat) (wiredPol s n.toNat))) t) ∧
    (¬ runs → ∃ t, exec (.wirqTransition n level) s = .next t ∧ UpToMarks s t) ∧
    (¬ runs ∨ s.irq.wTran.getLsbD n.toNat = false → ∃ t, exec (.wirqFilterPass n) s = .next t ∧ UpToMarks s t)

/-- The effective priority (R46): base priority and ceiling swap nothing below the ceiling, and an age lifts the priority by
one for every RIPEN headlands until the ceiling is reached. -/
def Sys2Proof.Claims.EffectivePriority : Prop :=
  ∀ ripen base ceil age : Nat,
    (ripen = 0 ∨ base ≤ ceil → effFormula ripen base ceil age = base) ∧
    (0 < ripen → ceil < base →
      ceil ≤ effFormula ripen base ceil age ∧ effFormula ripen base ceil age ≤ base ∧
      (ripen * (base - ceil) ≤ age → effFormula ripen base ceil age = ceil) ∧
      (age < ripen → effFormula ripen base ceil age = base) ∧
      (effFormula ripen base ceil (age + ripen) = max ceil (effFormula ripen base ceil age - 1)))

/-- The best candidate of a target (R51, R52): it is a candidate, and no other candidate comes before it by effective
priority, then age, then INTID; a target without one has no candidate at all. -/
def Sys2Proof.Claims.BestCandidate : Prop :=
  ∀ (s : State) (t : Target),
    (∀ k, bestOf s t = some k →
      candidate s k t = true ∧ ∀ j, candidate s j t = true → before (rankKey s j) (rankKey s k) = false) ∧
    (bestOf s t = none → ∀ j, candidate s j t = false)

/-- A furrow bank refreshes one target (R53, R55, R61), one of the sixteen of the bank, and steps on to its next: the target's
entry takes its best candidate, at most one choice is added to those that wait to be placed, and it is of that candidate;
INTIDs, tickets, links and the translation path stay as they are. Only the requests and grants of the arbiter may move beside
them (R62, R289). While CCLK stands still nothing changes. -/
def Obligations.FurrowRefresh : Prop :=
  ∀ (s : State) (b : BitVec 4), Quiet s →
    let t := bankTarget s b
    t.toNat % 16 = b.toNat ∧
    (cclkRuns s = true → ∃ u, exec (.furrowRefresh b) s = .next u ∧
      tabGet u.irq.bankPos 0 b.toNat = (tabGet s.irq.bankPos 0 b.toNat + 1) % 16 ∧
      (∀ c, c ≠ b.toNat → tabGet u.irq.bankPos 0 c = tabGet s.irq.bankPos 0 c) ∧
      (tgtOf u t).best = (bestOf s t).map keyIntid ∧
      (∀ x, x ≠ t → tgtOf u x = tgtOf s x) ∧
      (tgtOf u t).pmr = (tgtOf s t).pmr ∧ (tgtOf u t).rpr = (tgtOf s t).rpr ∧
      (tgtOf u t).lastTicket = (tgtOf s t).lastTicket ∧
      (u.irq.choices = s.irq.choices ∨
        permitS s = true ∧ ∃ m k, bestOf s t = some k ∧ u.irq.choices = s.irq.choices ++ [(m, keyIntid k)]) ∧
      u.irq.ints = s.irq.ints ∧ u.irq.ptrs = s.irq.ptrs ∧ u.links = s.links ∧ u.tens = s.tens ∧ u.cfg = s.cfg ∧
      u.pw = s.pw ∧ u.nv = s.nv ∧ u.tb = s.tb ∧ u.hl = s.hl ∧ u.xl = { s.xl with hwm := u.xl.hwm }) ∧
    (cclkRuns s = false → ∃ u, exec (.furrowRefresh b) s = .next u ∧ UpToMarks s u)

/-- A choice is placed (R50, R54, R59, R61, R69), once it is the first of its link: if it still holds, its INTID becomes Offered-P at the target with the next
ticket and the effective priority it has now, a set's pointer moves past the target, and the choice is gone; a choice that
no longer holds is dropped, and nothing else happens. -/
def Sys2Proof.Claims.RouteSelect : Prop :=
  ∀ (s : State) (t : Target) (i : Intid), Quiet s → (s.irq.choices.find? fun c => c.1 = t) = some (t, i) →
    let d := { s with irq := { s.irq with choices := s.irq.choices.filter fun c => c.1 ≠ t } }
    let k := ikey t i
    let o : Offer := { target := t, ticket := nextTicket d t, prio := BitVec.ofNat 8 (effPrio d k),
                       supersede := !(ticketsOf d t).isEmpty, granted := hasGrant d t.toNat, born := s.irq.serial }
    let m := if isRotate d (keyIntid k) = true then setPtr d (srcDest d 0 (keyIntid k)) (t + 1) else d
    let p := setTgt (setInt m k { intOf d k with st := .offeredP, offer := some o }) t
      { tgtOf d t with lastTicket := nextTicket d t, wout := !(ticketsOf d t).isEmpty && (tgtOf d t).wout }
    ∃ u, exec (.routeSelect t) s = .next u ∧
      if firstChoice s t = false then UpToMarks s u
      else if choiceHolds d t k = true then UpToMarks { p with irq := { p.irq with serial := s.irq.serial + 1 } } u
      else UpToMarks d u

/-- Tickets (R69): the next ticket of a target is never 0, and while at most two of its tickets are current, as R70 has it,
never one of them. -/
def Sys2Proof.Claims.NextTicketIsFresh : Prop :=
  ∀ (s : State) (t : Target), nextTicket s t ≠ 0 ∧
    ((ticketsOf s t).length ≤ 2 → ∀ p ∈ ticketsOf s t, p.2.ticket ≠ nextTicket s t)

/-- Events X over a link and at a wired target (R18, R73, R74, R98, R99, R282): when it is the turn of an offer, the oldest entry of
Q-DLV enters the replay buffer as OFFER or SUPERSEDE and its INTID becomes Offered-E; its wake grant has then started (R289). It
is never its turn while a recall is flagged on the link, a completion can go, or a replay or a NAK is due, and only with credit and
room for three grains. A wired target's Offered-P offer becomes Offered-E at once, and its WOUT pin is asserted. -/
def Obligations.OffersBecomeEndpointHeld : Prop :=
  (∀ (s : State) (l : Link) (k : Nat) (o : Offer) (rest : List (Nat × Offer)), Quiet s →
    qDlv s l = (k, o) :: rest → nextClass s l = some .offer →
    ∃ u, exec (.offerReplayEntry l) s = .next u ∧
      let p := pushTlp s l (if o.supersede = true then tySUPERSEDE else tyOFFER) 3 3 0 (offerBody (keyIntid k) o) none
      let e := setInt p k { intOf s k with st := .offeredE, offer := some { o with cnt := 0 } }
      let started := s.allot.grants.map fun g => if g.client = o.target.toNat then { g with started := true } else g
      UpToMarks { e with allot := { s.allot with grants := started } } u) ∧
  (∀ (s : State) (l : Link), nextClass s l = some .offer →
    s.pw.mode = .operating ∧ (linkOf s l).st = .active ∧ (linkOf s l).entry = none ∧ (linkOf s l).ll.nakDue = none ∧
    (linkOf s l).ll.rpl = [] ∧ (linkOf s l).ll.cplQ = [] ∧ flaggedOn s l = [] ∧ hasRoom (linkOf s l).ll 3 3 = true) ∧
  (∀ (s : State) (n : BitVec 4), Quiet s → s.pw.mode = .operating → tgtBind s (wiredTarget n) = true →
    (∀ k o, (ticketsOf s (wiredTarget n)).find? (fun p => !isE s p.1) = some (k, o) →
      ∃ u, exec (.wiredOfferAssert n) s = .next u ∧
        UpToMarks (setTgt (setInt s k { intOf s k with st := .offeredE, offer := some { o with cnt := 0 } }) (wiredTarget n)
          { tgtOf s (wiredTarget n) with wout := true }) u) ∧
    ((∀ p ∈ ticketsOf s (wiredTarget n), isE s p.1 = true) →
      ∃ u, exec (.wiredOfferAssert n) s = .next u ∧ UpToMarks s u))

/-- Recalls (R73 to R75, R282): in its turn the flagged recall of the lowest-numbered target of the link (of two of one target the
lower INTID's: the model's choice, log 70) is sent, once; an offer held for
OFFER_TMO commits is flagged; a recall unanswered for as long is counted once, and the INTID stays with the endpoint. -/
def Obligations.Recalls : Prop :=
  ∀ (s : State) (l : Link) (t : Target) (tk : BitVec 8) (k : Nat) (o : Offer), Quiet s → s.pw.mode = .operating →
    (∀ rest, flaggedOn s l = (k, o) :: rest → nextClass s l = some .recall →
      ∃ u, exec (.recallSend l) s = .next u ∧
        UpToMarks (setInt (pushTlp s l tyRECALL 3 2 0 [put o.target.toNat 0 ||| put o.ticket.toNat 8] none) k
          { intOf s k with offer := (intOf s k).offer.map (fun o => { o with rcl := .sent, rcnt := 0 }) }) u) ∧
    (ticketE s t tk = some (k, o) → tgtBind s t = false → 0 < offerTmo s → offerTmo s ≤ o.cnt → o.rcl = .none →
      (∀ p ∈ s.irq.ints, ∀ q, p.2.offer = some q → q.rcl = .flagged → tgtBind s q.target = false) →
      ∃ u, exec (.offerTimeout t tk) s = .next u ∧
        UpToMarks (setInt s k { intOf s k with offer := (intOf s k).offer.map flagRecall }) u) ∧
    (ticketE s t tk = some (k, o) → 0 < offerTmo s → offerTmo s ≤ o.rcnt → o.rcl = .sent → o.tmoCounted = false →
      ∃ u, exec (.recallTimeout t tk) s = .next u ∧
        UpToMarks (bump (setInt s k
          { intOf s k with offer := (intOf s k).offer.map (fun o => { o with tmoCounted := true }) }) cntRECALLTMO) u)

/-- The effective priority of an INTID, and the best candidate of a target. -/
def Obligations.PriorityAndBestCandidate : Prop := EffectivePriority ∧ BestCandidate

/-- The placing of a choice, and the tickets it takes. -/
def Obligations.RoutingAndTickets : Prop := NextTicketIsFresh ∧ RouteSelect

/-! ## What an endpoint says (chapters 02 to 04) -/

/-- A message of an endpoint can arrive: an operating mode and an ACTIVE link; its target is of that link and has no wired
binding (R68). -/
abbrev Sys2Proof.Claims.arrives (s : State) (l : Link) : Prop := s.pw.mode = .operating ∧ (linkOf s l).st = .active
/-- A message of g grains has come in on VC-I and taken effect: its grains have entered and left the receive buffer (R278). -/
abbrev Sys2Proof.Claims.taken (s : State) (l : Link) (g : Nat) : State := freeRx (arrive s l 3 g) l 3 g
abbrev Sys2Proof.Claims.ofLink (s : State) (l : Link) (t : Target) : Prop := tgtLink s t = l ∧ tgtBind s t = false

/-- CLAIMED, RETURNED and RETURNED-BELOW (R22, R44, R71): one that names the INTID of a current endpoint-held ticket of the
target, by its number, makes it Active and held by the target, VIEW_RPR taking the lesser value, or takes event N,
RETURNED-BELOW counted; any other is stray and counted, and changes no INTID. The grains of the message are freed. -/
def Obligations.ClaimsAndReturns : Prop :=
  ∀ (s : State) (l : Link) (t : Target) (i : Intid) (tk : BitVec 8), Quiet s → arrives s l →
    let b := taken s l 3
    let k := ikey t i
    (∀ o, ofLink s l t → usable i = true → (intOf s k).st = .offeredE → (intOf s k).offer = some o →
      o.target = t → o.ticket = tk →
      (∃ u, exec (.claimed l t i tk) s = .next u ∧
        UpToMarks (setTgt (setInt b k { intOf s k with st := .active, offer := none, holder := t, discard := false }) t
          { tgtOf s t with rpr := if o.prio.toNat < (tgtOf s t).rpr.toNat then o.prio else (tgtOf s t).rpr }) u) ∧
      (∃ u, exec (.returned l t i tk) s = .next u ∧ UpToMarks (evN b k) u) ∧
      (∃ u, exec (.returnedBelow l t i tk) s = .next u ∧ UpToMarks (bump (evN b k) cntRETBELOW) u)) ∧
    (¬ (ofLink s l t ∧ usable i = true ∧ (intOf s k).st = .offeredE ∧
        ∃ o, (intOf s k).offer = some o ∧ o.target = t ∧ o.ticket = tk) →
      (∃ u, exec (.claimed l t i tk) s = .next u ∧ UpToMarks (bump b cntSTRAY) u) ∧
      (∃ u, exec (.returned l t i tk) s = .next u ∧ UpToMarks (bump b cntSTRAY) u) ∧
      (∃ u, exec (.returnedBelow l t i tk) s = .next u ∧ UpToMarks (bump b cntSTRAY) u))

/-- EOI and the end of Completed (R22, R28, R29): an EOI from the target that holds the INTID Active makes it Completed, any
other is stray; a Completed INTID without a notification goes back to Pending with age 0 if its level is high, else to
Inactive; one with a notification places it in Q-CMP and waits there, or, with Q-CMP full, drops it and is Inactive. -/
def Obligations.EndOfInterrupt : Prop :=
  ∀ (s : State) (l : Link) (t : Target) (i : Intid), Quiet s →
    let k := ikey t i
    let r := intOf s k
    (arrives s l → ofLink s l t → usable i = true → r.st = .active → r.holder = t →
      ∃ u, exec (.eoi l t i) s = .next u ∧
        UpToMarks (setInt (taken s l 2) k { r with st := .completed, holder := 0 }) u) ∧
    (arrives s l → ¬ (ofLink s l t ∧ usable i = true ∧ r.st = .active ∧ r.holder = t) →
      ∃ u, exec (.eoi l t i) s = .next u ∧ UpToMarks (bump (taken s l 2) cntSTRAY) u) ∧
    (s.pw.mode = .operating → r.st = .completed → r.note = none → isLevel s t i = true → levelHigh s t i = true →
      ∃ u, exec (.completedExit t i) s = .next u ∧
        UpToMarks (setInt s k { r with st := .pending, age := 0, note := none, noteId := none }) u) ∧
    (s.pw.mode = .operating → r.st = .completed → r.note = none → (isLevel s t i && levelHigh s t i) = false →
      ∃ u, exec (.completedExit t i) s = .next u ∧ UpToMarks (setInt s k (restRec k r)) u) ∧
    (∀ n, s.pw.mode = .operating → r.st = .completed → r.note = some n → r.noteId = none → s.xl.qCmp.length < 512 →
      ∃ u, exec (.completedExit t i) s = .next u ∧
        UpToMarks { setInt s k { r with noteId := some s.xl.noteSerial } with xl := { s.xl with
          qCmp := s.xl.qCmp ++ [{ key := n, intid := i, nak := false, code := 0, id := some s.xl.noteSerial }]
          noteSerial := s.xl.noteSerial + 1 } } u) ∧
    (∀ n, s.pw.mode = .operating → houseKey k = false → r.st = .completed → r.note = some n → r.noteId = none →
      512 ≤ s.xl.qCmp.length →
      ∃ u, exec (.completedExit t i) s = .next u ∧ (intOf u k).st = .inactive ∧ u.xl.qCmp = s.xl.qCmp ∧
        FlagsSet hQDROP (bump (setInt s k (restRec k r)) cntCMPDROP) u)

/-- PRIO and STATE (R44, R289, R316, R318): the target's view, or its sleep code, takes what the message says; a report of
sleep over an endpoint-held offer that was made without a wake grant is counted, a report of AWAKE or DOZE ends the target's wake
grant; a message of a target that the link does not serve is stray. -/
def Obligations.ViewMessages : Prop :=
  ∀ (s : State) (l : Link) (t : Target) (pmr rpr : BitVec 8) (bpr : BitVec 3) (code : BitVec 2), Quiet s → arrives s l →
    let b := taken s l 2
    (ofLink s l t →
      (∃ u, exec (.prio l t pmr bpr rpr) s = .next u ∧
        UpToMarks (setTgt b t { tgtOf s t with pmr := pmr, bpr := bpr, rpr := rpr }) u) ∧
      (2 ≤ code.toNat → ∃ u, exec (.stateReport l t code) s = .next u ∧
        let e := setTgt b t { tgtOf s t with sleep := code }
        if ∃ p ∈ ticketsOf s t, isE s p.1 = true ∧ p.2.granted = false then UpToMarks (bump e cntUNGRANTED) u
        else UpToMarks e u) ∧
      (code.toNat < 2 → ∃ u, exec (.stateReport l t code) s = .next u ∧
        (tgtOf u t) = { tgtOf s t with sleep := code } ∧ hasGrant u t.toNat = false ∧
        (∀ x, x ≠ t → tgtOf u x = tgtOf s x) ∧ u.links = b.links ∧ u.tens = s.tens ∧ u.cfg.live = s.cfg.live ∧
        u.cfg.shadow = s.cfg.shadow ∧ u.pw = s.pw ∧ u.tb = s.tb ∧ u.hl = s.hl ∧ u.nv.mem = s.nv.mem)) ∧
    (¬ ofLink s l t →
      (∃ u, exec (.prio l t pmr bpr rpr) s = .next u ∧ UpToMarks (bump b cntSTRAY) u) ∧
      (∃ u, exec (.stateReport l t code) s = .next u ∧ UpToMarks (bump b cntSTRAY) u))

/-- SIGNAL (R68, R95, R96): signal `num` is triggered at the one destination, or at every enabled member of the set but the
sender: they are judged at once, the first in ascending order is triggered with the command, and the others wait to be triggered
one in each CCLK. Where a destination's tenant is not the sender's, the set number is above 63 or the link does not serve the
sender, the denial is counted (of the members of a set at once: the model's choice, log 30) and nothing is triggered. -/
def Sys2Proof.Claims.Signals : Prop :=
  ∀ (s : State) (l : Link) (sender : Target) (dest : BitVec 8) (num : BitVec 4), Quiet s → arrives s l →
    let b := taken s l 2
    let mine := fun d : Target => decide (tgtTenant s d = tgtTenant s sender)
    let set := ((upTo 256).map (BitVec.ofNat 8)).filter fun d => enabledMember s dest.toNat d && d ≠ sender
    let c := bumpN b cntSIGDEN (set.filter fun d => !mine d).length
    (ofLink s l sender →
      (mine dest = true → ∃ u, exec (.signal l sender false dest num) s = .next u ∧
        Closed (evT b (ikey dest (num.setWidth 24)) none) u) ∧
      (mine dest = false → ∃ u, exec (.signal l sender false dest num) s = .next u ∧ UpToMarks (bump b cntSIGDEN) u) ∧
      (dest.toNat ≤ 63 → set.filter mine = [] → ∃ u, exec (.signal l sender true dest num) s = .next u ∧ UpToMarks c u) ∧
      (∀ d rest, dest.toNat ≤ 63 → set.filter mine = d :: rest →
        ∃ u, exec (.signal l sender true dest num) s = .next u ∧
          u.irq.fans = s.irq.fans ++ (if rest = [] then [] else [{ num := num, rest := rest }]) ∧
          Closed { evT c (ikey d (num.setWidth 24)) none with irq := { (evT c (ikey d (num.setWidth 24)) none).irq with
            fans := u.irq.fans } } u) ∧
      (63 < dest.toNat → ∃ u, exec (.signal l sender true dest num) s = .next u ∧ UpToMarks (bump b cntSIGDEN) u)) ∧
    (¬ ofLink s l sender → ∀ form, ∃ u, exec (.signal l sender form dest num) s = .next u ∧
      UpToMarks (bump b cntSIGDEN) u)

/-- PRIV (R97): the level of the private source is recorded; an edge source takes event T on a report of 1, a level source
event T on a rise and event F on a fall; a report for a target that the link does not serve is stray. -/
def Sys2Proof.Claims.PrivateLevels : Prop :=
  ∀ (s : State) (l : Link) (t : Target) (src : BitVec 4) (level : Bool), Quiet s → arrives s l →
    let b := taken s l 2
    let i : Intid := BitVec.ofNat 24 (16 + src.toNat)
    let was := (tgtOf s t).levels.getLsbD src.toNat
    let lv : BitVec 16 := (tgtOf s t).levels &&& ~~~(1#16 <<< src.toNat) ||| (if level = true then 1#16 <<< src.toNat else 0)
    let e := setTgt b t { tgtOf s t with levels := lv }
    (ofLink s l t → ∃ u, exec (.priv l t src level) s = .next u ∧
      if srcEdge s t i = true then
        if level = true then Closed (evT e (ikey t i) none) u else UpToMarks e u
      else if level = true ∧ was = false then Closed (evT e (ikey t i) none) u
      else if level = false ∧ was = true then UpToMarks (evF e (ikey t i)) u
      else UpToMarks e u) ∧
    (¬ ofLink s l t → ∃ u, exec (.priv l t src level) s = .next u ∧ UpToMarks (bump b cntSTRAY) u)

/-- No message takes effect outside the operating modes, or over a link that is not ACTIVE. -/
def Obligations.NoMessageWithoutALink : Prop :=
  ∀ (s : State) (l : Link) (t : Target) (i : Intid) (tk pmr rpr : BitVec 8) (bpr : BitVec 3) (code : BitVec 2)
    (form level : Bool) (num : BitVec 4), Quiet s → ¬ arrives s l →
    ∀ c ∈ [Instr.claimed l t i tk, .returned l t i tk, .returnedBelow l t i tk, .eoi l t i, .prio l t pmr bpr rpr,
        .stateReport l t code, .signal l t form tk num, .priv l t num level],
      ∃ u, exec c s = .next u ∧ UpToMarks s u

/-- SIGNAL and PRIV. -/
def Obligations.SignalsAndPrivateLevels : Prop := Signals ∧ PrivateLevels

/-! ## The management bus and its registers (chapters 06 and 20) -/

/-- A cycle is served: the bus is defined (R511), the mode serves it, and R130 refuses nothing of it. -/
abbrev Sys2Proof.Claims.served (s : State) (write : Bool) (addr : Nat) (be : BE) : Prop :=
  BusDefined s ∧ busServed s = true ∧ refusal s write addr be = none

/-- Refused cycles (R128, R130, R131): a write to the live view, an alias of a register with SQ fields, an offset without a register, a
group that the mode does not serve and an SQ write with a byte disabled are refused with the codes of Table MB-2, the first that
applies counting. MB_ERR keeps the first refusal, with VALID, and a later one sets OVF only; a refused read returns zero. Nothing
else changes. A write with no byte enabled does nothing and is not refused. -/
def Obligations.RefusedCycles : Prop :=
  ∀ (s : State) (off : BitVec 14) (be : BE) (data : Word) (addr : BitVec 16), Quiet s → BusDefined s → busServed s = true →
    s.pw.mode ≠ .fallow →
    let note := fun (x : State) (c : BitVec 4) (rd : Bool) (a : Nat) =>
      if (sqOf s 0x20).flags.getLsbD 0 = true then sqSet x 0x20 2
      else { sqSet x 0x20 1 with bus := { x.bus with errCode := c, errRd := rd, errAddr := BitVec.ofNat 14 (a / 4) } }
    (refusal s true addr.toNat be =
      (if 0x2000 ≤ addr.toNat % 0x4000 then some 1
       else if 0x4000 ≤ addr.toNat ∧ isSq (addr.toNat % 0x2000 / 4 * 4) = true then some 2
       else if regExists (addr.toNat % 0x2000 / 4 * 4) = false then some 4
       else if groupServed s (addr.toNat % 0x2000 / 4 * 4) = false then some 5
       else if isSq (addr.toNat % 0x2000 / 4 * 4) = true ∧ be ≠ 15 then some 3 else none)) ∧
    (refusal s false addr.toNat be =
      (if 0x4000 ≤ addr.toNat ∧ isSq (addr.toNat % 0x2000 / 4 * 4) = true then some 2
       else if regExists (addr.toNat % 0x2000 / 4 * 4) = false then some 4
       else if groupServed s (addr.toNat % 0x2000 / 4 * 4) = false then some 5 else none)) ∧
    (be = 0 → ∃ t, exec (.registerWrite off be data) s = .next t ∧ UpToMarks s t) ∧
    (∀ c, be ≠ 0 → refusal s true off.toNat be = some c →
      ∃ t, exec (.registerWrite off be data) s = .next t ∧ UpToMarks (note s c false off.toNat) t) ∧
    (∀ c, refusal s false addr.toNat 15 = some c →
      ∃ t, exec (.multiwordCapture addr) s = .next t ∧
        UpToMarks (note { s with bus := { s.bus with rdata := 0 } } c true addr.toNat) t)

/-- The registers whose fields a write sets and starts nothing with: those without SQ, W1P or WO fields, TB_CTL, DLV_HOLD,
W_PEND and MBX_BUF apart. -/
def Sys2Proof.Claims.plainRegister (off : Nat) : Bool :=
  regExists off && !isSq off && decide (off ≠ 0x40) && decide (off ≠ 0x100) && decide (off ≠ 0x114) && decide (off ≠ 0x200) &&
  decide (off ≠ 0x208) && decide (off ≠ 0x700) && decide (off ≠ 0x708) && decide (off ≠ 0x70C) && decide (off ≠ 0x720) &&
  decide (off ≠ 0x80C) && decide (off ≠ 0x900) && decide (off ≠ 0x904) && decide (off ≠ 0xA28) && decide (off ≠ 0x1028) &&
  decide (off ≠ 0x1300) && !inWords off 0x980 0x9FC && !inWords off 0x1100 0x1108 && !inWords off 0x1200 0x127C &&
  !(isLinkOff off && decide (linkOff off = 0))

/-- The state after a write of a plain register that sets the bits of `mask` to those of `v`: HL-class fields take it in
their shadow, with DIRTY (R116, R118), those of a feature held off excepted (R351); immediate-class fields at once (R121). -/
def Sys2Proof.Claims.fieldsWritten (s : State) (off : Nat) (mask vHl vIm : Word) : State :=
  let hl := regHl off &&& ~~~(featOff s off) &&& mask
  let im := regIm off &&& mask
  let u := if hl = 0 then s else { setShadow s off ((shadowAt s off &&& ~~~hl) ||| (vHl &&& hl)) with
    hl := { s.hl with dirty := true } }
  if im = 0 then u else setIm u off ((imAt s off &&& ~~~im) ||| (vIm &&& im))

/-- Writes of plain registers (R116, R128, R134, Table MB-4): a plain write replaces the fields of the enabled bytes; a write
at the SET, CLR or TGL alias acts on the written-one bits of the enabled bytes only, and sets, clears or inverts them as they
stand. Shadows and immediate fields of other registers, every live value and all the rest stay as they are. -/
def Obligations.RegisterWrites : Prop :=
  ∀ (s : State) (off : BitVec 14) (be : BE) (data : Word), Quiet s → be ≠ 0 → off.toNat < 0x2000 →
    plainRegister off.toNat = true →
    let ones := data &&& beMask be
    (served s true off.toNat be → ∃ t, exec (.registerWrite off be data) s = .next t ∧
      UpToMarks (fieldsWritten s off.toNat (beMask be) data data) t) ∧
    (served s true (0x4000 + off.toNat) be → ∃ t, exec (.aliasSetWrite off be data) s = .next t ∧
      UpToMarks (fieldsWritten s off.toNat ones ones ones) t) ∧
    (served s true (0x8000 + off.toNat) be → ∃ t, exec (.aliasClrWrite off be data) s = .next t ∧
      UpToMarks (fieldsWritten s off.toNat ones 0 0) t) ∧
    (served s true (0xC000 + off.toNat) be → ∃ t, exec (.aliasTglWrite off be data) s = .next t ∧
      UpToMarks (fieldsWritten s off.toNat ones (~~~ shadowAt s off.toNat) (~~~ imAt s off.toNat)) t)

/-- Sequence-clear registers (R132, R133): a write clears the flags written 1 if its [31:24] equals SEQ as it stands, and is
ignored as a whole otherwise; where hardware sets a flag of the register in the same CCLK, the flags are set, SEQ advances
once and nothing is cleared. HS_STAT's clears let the house sources follow. -/
def Obligations.SequenceClear : Prop :=
  ∀ (s : State) (off : BitVec 14) (data : Word) (hw : BitVec 24), Quiet s → served s true off.toNat 15 →
    off.toNat < 0x2000 → off.toNat % 4 = 0 → isSq off.toNat = true →
    let r := sqOf s off.toNat
    let set := hw &&& sqMask off.toNat
    let after : SqReg :=
      if set ≠ 0 then { flags := r.flags ||| set, seq := r.seq + 1 }
      else if data.extractLsb' 24 8 = r.seq then { r with flags := r.flags &&& ~~~(data.extractLsb' 0 24) }
      else r
    ∃ t, exec (.sequenceClear off 15 data hw) s = .next t ∧ sqOf t off.toNat = after ∧
      (off.toNat ≠ 0x300 → UpToMarks (setSq s off.toNat after) t) ∧
      (off.toNat = 0x300 → Aside false s t ∧ t.nv.jobs = s.nv.jobs)

/-- Reads (R126, R128, R438): a single-word register returns what it reads as in the accepting CCLK, in the base view its
shadow and in the live view its live value, and nothing else changes; the first word of a multi-word register captures the
later ones for its view, and a later word returns the captured value. -/
def Obligations.Reads : Prop :=
  ∀ (s : State) (addr : BitVec 16), Quiet s → served s false addr.toNat 15 →
    let off := addr.toNat % 0x2000 / 4 * 4
    let live := decide (0x2000 ≤ addr.toNat % 0x4000)
    isWtAck off = false →
    (multiWord off = none → ∃ t, exec (.multiwordCapture addr) s = .next t ∧
      UpToMarks { s with bus := { s.bus with rdata := regRead s live off } } t) ∧
    (∀ words, multiWord off = some (off, words) → ∃ t, exec (.multiwordCapture addr) s = .next t ∧
      t.bus.rdata = regRead s live off ∧
      (∀ i, 1 ≤ i → i < words →
        tabGet (if live = true then t.bus.capLive else t.bus.capBase) 0 (off + 4 * i) = regRead s live (off + 4 * i)) ∧
      (if live = true then t.bus.capBase = s.bus.capBase else t.bus.capLive = s.bus.capLive) ∧
      UpToMarks { s with bus := t.bus } t) ∧
    (∀ first words, multiWord off = some (first, words) → off ≠ first → ∃ t, exec (.multiwordCapture addr) s = .next t ∧
      UpToMarks { s with bus := { s.bus with
        rdata := tabGet (if live = true then s.bus.capLive else s.bus.capBase) 0 off } } t)

/-- DLV_HOLD (R34, R335): the bit takes the value written. Setting it while event S was permitted withdraws every Offered-P
INTID: Pending, its ticket retired; no other INTID changes, and an endpoint-held offer stays. -/
def Sys2Proof.Claims.DeliveryHold : Prop :=
  ∀ (s : State) (v : Bool), Quiet s → served s true 0x40 1 →
    ∃ t, exec (.dlvHoldWrite v) s = .next t ∧
      FlagsSetW 0 (setIm s 0x40 ((imAt s 0x40 &&& ~~~1) ||| putB v 0)) t ∧
      (v = true → permitS s = true → ∀ k, (intOf s k).st = .offeredP →
        (intOf t k).st = .pending ∧ (intOf t k).offer = none) ∧
      (∀ k, (intOf s k).st ≠ .offeredP ∨ v = false ∨ permitS s = false → intOf t k = intOf s k)

/-- W_PEND (R26, R135): every bit of the enabled bytes is a set or a clear of its wired INTID's pending bit. -/
def Sys2Proof.Claims.WiredPendingWrites : Prop :=
  ∀ (s : State) (m : BitVec 2) (be : BE) (data : Word), Quiet s → m ≠ 3 → be ≠ 0 →
    served s true (0x1100 + 4 * m.toNat) be →
    (s.pw.mode = .operating → ∃ t, exec (.wPendWrite m be data) s = .next t ∧
      Closed (((upTo 32).filter fun n => bit (beMask be) n).foldl (fun x n =>
        softPend x (ikey 0 (BitVec.ofNat 24 (wiredIntid m.toNat n))) (bit data n)) s) t) ∧
    (s.pw.mode ≠ .operating → ∃ t, exec (.wPendWrite m be data) s = .next t ∧ UpToMarks s t)

/-- Wired targets (R98 to R102): a read of WT_ACK returns the INTID and the effective priority of the current, unclaimed offer of
the target and claims it, the record taking the priority; with none, or in other modes, it returns 0x00FFFFFF and changes
nothing. A write of WT_EOI with bytes 0 to 2 completes the INTID that the target holds Active and clears the lowest bit of its
record; any other is stray. -/
def Obligations.WiredTargets : Prop :=
  ∀ (s : State) (n : BitVec 4) (k : Nat) (o : Offer) (be : BE) (data : Word), Quiet s →
    let t := wiredTarget n
    let i : Intid := data.setWidth 24
    let rec1 := setBit256 (tgtOf s t).record o.prio.toNat
    let rec2 := clrBit256 (tgtOf s t).record (lowestSet (tgtOf s t).record).toNat
    (served s false (0x1200 + 8 * n.toNat) 15 → s.pw.mode = .operating → tgtBind s t = true →
      ticketsOf s t = [(k, o)] → (intOf s k).st = .offeredE →
      ∃ u, exec (.wtAckRead n) s = .next u ∧
        let c := setTgt (setInt s k { intOf s k with st := .active, offer := none, holder := t, discard := false }) t
          { tgtOf s t with record := rec1, rpr := lowestSet rec1 }
        UpToMarks { c with bus := { s.bus with rdata := put (keyIntid k).toNat 0 ||| put o.prio.toNat 24 } } u) ∧
    (served s false (0x1200 + 8 * n.toNat) 15 →
      (s.pw.mode ≠ .operating ∨ tgtBind s t = false ∨ ∀ p ∈ ticketsOf s t, isE s p.1 = false) →
      ∃ u, exec (.wtAckRead n) s = .next u ∧ UpToMarks { s with bus := { s.bus with rdata := 0x00FFFFFF } } u) ∧
    (served s true (0x1204 + 8 * n.toNat) be → be.extractLsb' 0 3 = 7 → tgtBind s t = true → usable i = true →
      (intOf s (ikey t i)).st = .active → (intOf s (ikey t i)).holder = t → (tgtOf s t).record ≠ 0 →
      ∃ u, exec (.wtEoiWrite n be data) s = .next u ∧
        UpToMarks (setTgt (setInt s (ikey t i) { intOf s (ikey t i) with st := .completed, holder := 0 }) t
          { tgtOf s t with record := rec2, rpr := lowestSet rec2 }) u) ∧
    (served s true (0x1204 + 8 * n.toNat) be → be ≠ 0 → be.extractLsb' 0 3 = 7 →
      ¬ (tgtBind s t = true ∧ usable i = true ∧ (intOf s (ikey t i)).st = .active ∧ (intOf s (ikey t i)).holder = t) →
      ∃ u, exec (.wtEoiWrite n be data) s = .next u ∧ UpToMarks (bump s cntSTRAY) u)

/-- DLV_HOLD and the pending bits of wired inputs. -/
def Obligations.HoldAndPendingWrites : Prop := DeliveryHold ∧ WiredPendingWrites

/-- TB_CTL (R106, Table HL-1): its fields take the write at once; SRC going to the pin puts the timebase in ACQUIRE, SRC going to
the internal divider in FREE with frames of 77,760 CCLK from the next; otherwise the timebase goes on as it was. -/
def Obligations.TimebaseSource : Prop :=
  ∀ (s : State) (be : BE) (data : Word), Quiet s → be ≠ 0 → served s true 0x100 be →
    let w := fieldsWritten s 0x100 (beMask be) data data
    ∃ t, exec (.tbCtlWrite be data) s = .next t ∧
      if bit (imAt s 0x100) 0 = bit (imAt w 0x100) 0 then UpToMarks w t
      else if bit (imAt w 0x100) 0 = true then UpToMarks { w with tb := { s.tb with mode := .acquire, run := 0 } } t
      else UpToMarks { w with tb := { s.tb with
        mode := .free, nextLen := 77760, run := 0, accepted := false, lossFlagged := false } } t

/-- The pulses and small fields of the window: SHADOW_HOLD takes its value (R117), REVERT gives every shadow its live value and
clears DIRTY unless a bundle's hold keeps them (R118, R414), SNAP asks for a snap (R145), DRIFT_REL ends the drift hold (R144), and
HWM_CLR lets every high-water mark take the occupancy of its queue (Table CQ-7). -/
def Obligations.WindowPulses : Prop :=
  ∀ (s : State) (v : Bool), Quiet s →
    (served s true 0x114 1 → ∃ t, exec (.shadowHoldWrite v) s = .next t ∧
      UpToMarks (setIm s 0x114 ((imAt s 0x114 &&& ~~~1) ||| putB v 0)) t) ∧
    (served s true 0x114 2 → ∃ t, exec .hlRevert s = .next t ∧
      UpToMarks (if s.hl.bundleHold = true then s
        else { s with cfg := { s.cfg with shadow := s.cfg.live }, hl := { s.hl with dirty := false } }) t) ∧
    (served s true 0x80C 1 → ∃ t, exec .cfgSnap s = .next t ∧
      UpToMarks { s with hl := { s.hl with snapPend := true } } t) ∧
    (served s true 0x200 2 → ∃ t, exec .driftRel s = .next t ∧
      Aside false { s with pw := { s.pw with driftHold := false } } t ∧ sqOf t 0x300 = sqOf s 0x300) ∧
    (served s true 0xA28 1 → ∃ t, exec .hwmClr s = .next t ∧ UpToMarks s t ∧
      ∀ j, j < 9 → tabGet t.xl.hwm 0 j = (occupancies s).getD j 0)

/-- TW_STAT after a window command: its error and one more command counted (R140). -/
def Sys2Proof.Claims.commandDone (s : State) (err : BitVec 4) : State :=
  { s with bus := { s.bus with twErr := err, twCount := s.bus.twCount + 1 } }

/-- Window commands that meet an error (R138, R140): TW_STAT reports the first of TABLE, INDEX and OP, COUNT advances, and
nothing else changes; one without an error reports 0. -/
def Sys2Proof.Claims.WindowErrors : Prop :=
  ∀ (s : State), Quiet s → served s true 0x1028 1 →
    let badTable := 11 < twSel s
    let badIndex := tabHolds (twSel s) (twIndex s) = false ∨ twTarget s ≠ 0 ∧ tabBanked (twSel s) (twIndex s) = false
    ∀ (c : Instr) (op : Nat), (c, op) ∈ [(Instr.twRead, 1), (.twReadLive, 2), (.twWrite, 3), (.twWriteCfg, 4), (.pendSet, 5),
        (.pendClr, 6), (.lostClr, 7)] →
      let badOp := (op = 3 ∨ op = 4) ∧ tabHasHl (twSel s) (twIndex s) = false ∨ 5 ≤ op ∧ tabHasPend (twSel s) = false
      ∃ t, exec c s = .next t ∧ t.bus.twCount = s.bus.twCount + 1 ∧
        (badTable → UpToMarks (commandDone s 2) t) ∧
        (¬ badTable → badIndex → UpToMarks (commandDone s 1) t) ∧
        (¬ badTable → ¬ badIndex → badOp → UpToMarks (commandDone s 3) t) ∧
        (¬ badTable → ¬ badIndex → ¬ badOp → t.bus.twErr = 0)

/-- READ and READ_LIVE (R137 to R139): the data words take the whole entry at once, its shadow or its live words, zero beyond
the entry's words; no other word of the configuration, and nothing else, changes. -/
def Sys2Proof.Claims.WindowReads : Prop :=
  ∀ (s : State), Quiet s → served s true 0x1028 1 →
    ∀ (c : Instr) (live : Bool), (c, live) = (Instr.twRead, false) ∨ (c, live) = (Instr.twReadLive, true) →
      windowErr s (if live = true then 2 else 1) = 0 →
      ∃ t, exec c s = .next t ∧
        (∀ n, n < 8 → imAt t (0x1008 + 4 * n) =
          if n < tabWords (twSel s) (twIndex s) then entryWord s live (twSel s) (twIndex s) (twTarget s) n else 0) ∧
        (∀ k, (∀ n, n < 8 → k ≠ 0x1008 + 4 * n) → imAt t k = imAt s k) ∧
        UpToMarks { commandDone s 0 with cfg := { s.cfg with im := t.cfg.im } } t

/-- WRITE and WRITE_CFG of an entry (R118, R138, R139, R351), but for the pulses of TARGET and TENANT: the HL-class fields of the
entry take the data words in their shadows, WRITE_CFG leaves the pending and LOST fields alone, and no live value changes. -/
def Obligations.WindowWrites : Prop :=
  ∀ (s : State), Quiet s → served s true 0x1028 1 → ∀ (c : Instr), c = .twWrite ∨ c = .twWriteCfg →
    windowErr s (if c = .twWrite then 3 else 4) = 0 →
    ¬ (twSel s = 2 ∧ bit (twData s 0) 17 = true) → ¬ (twSel s = 4 ∧ bit (twData s 0) 1 = true) →
    let key := tabKey (twSel s) (twIndex s) (twTarget s)
    let hl := fun n => tabHl (twSel s) (twIndex s) n &&& ~~~(featOff s (key n))
    ∃ t, exec c s = .next t ∧
      (∀ n, n < tabWords (twSel s) (twIndex s) →
        shadowAt t (key n) = (shadowAt s (key n) &&& ~~~(hl n)) ||| (twData s n &&& hl n)) ∧
      (∀ k, (∀ n, n < tabWords (twSel s) (twIndex s) → k ≠ key n) → shadowAt t k = shadowAt s k) ∧
      t.cfg.live = s.cfg.live ∧ t.cfg.im = s.cfg.im ∧
      (c = .twWriteCfg ∨ tabHasPend (twSel s) = false →
        UpToMarks { commandDone s 0 with cfg := { s.cfg with shadow := t.cfg.shadow }, hl := { s.hl with dirty := t.hl.dirty } } t) ∧
      (c = .twWrite → tabHasPend (twSel s) = true → s.pw.mode = .operating → fld (twData s 1) 16 8 = 0 →
        (intOf t (entryInt (twSel s) (twIndex s) (twTarget s))).lost = 0)

/-- PEND_SET, PEND_CLR and LOST_CLR (R26, R32, R136, R139): the pending bit of the entry's INTID is set or cleared, or its LOST
count goes to zero, and no field of the entry is written. INTIDs change only in the operating modes. -/
def Obligations.WindowPending : Prop :=
  ∀ (s : State), Quiet s → served s true 0x1028 1 → windowErr s 5 = 0 →
    let k := entryInt (twSel s) (twIndex s) (twTarget s)
    let b := commandDone s 0
    (∃ t, exec .lostClr s = .next t ∧ UpToMarks (setInt b k { intOf s k with lost := 0 }) t) ∧
    (s.pw.mode = .operating →
      (∃ t, exec .pendSet s = .next t ∧ Closed (softPend b k true) t) ∧
      (∃ t, exec .pendClr s = .next t ∧ UpToMarks (evK b k) t)) ∧
    (s.pw.mode ≠ .operating →
      (∃ t, exec .pendSet s = .next t ∧ UpToMarks b t) ∧ (∃ t, exec .pendClr s = .next t ∧ UpToMarks b t))

/-- RECLAIM (R76, R77, R102): with the window on the target's entry and its pulse set, every offer and claim of the target reverts:
an Offered-P INTID is Pending, an endpoint-held one takes event N, one that the target holds Active is Completed; INTIDs of other
targets stay as they are, and a wired target's record is emptied. -/
def Obligations.Reclaim : Prop :=
  ∀ (s : State) (t : Target), Quiet s → served s true 0x1028 1 → s.pw.mode = .operating →
    twSel s = 2 → twIndex s = t.toNat → bit (twData s 0) 17 = true → twTarget s = 0 →
    ∃ u, exec (.reclaim t) s = .next u ∧
      (∀ k, let r := intOf s k
        let mine := r.offer.map (·.target) = some t
        (intOf u k).st = (match r.st with
          | .offeredP => if mine then .pending else .offeredP
          | .offeredE => if mine then (intOf (evN s k) k).st else .offeredE
          | .active => if r.holder = t then .completed else .active
          | x => x) ∧
        (¬ mine → (r.st = .active → r.holder ≠ t) → intOf u k = r)) ∧
      (tgtBind s t = true → (tgtOf u t).record = 0 ∧ (tgtOf u t).rpr = 0xFF) ∧
      (∀ x, x ≠ t → tgtOf u x = tgtOf s x) ∧
      u.cfg.live = s.cfg.live ∧ u.links = s.links ∧ u.tens = s.tens ∧ u.tb = s.tb ∧ u.pw = s.pw ∧
      u.allot.level = s.allot.level ∧ u.allot.lean = s.allot.lean ∧ u.allot.breq = s.allot.breq

/-- A headland that is due (R113 to R115, R117): in the modes with a commit CCLK HL_SEQ counts it, and unless SHADOW_HOLD stands
every HL-class field of the part takes its shadow, DIRTY and HELD going to 0; under the hold the shadows keep their values and
HELD counts a dirty commit. The countdown is reloaded from HL_DIV as the commit leaves it. In the other modes only the countdown
is reloaded; with none due nothing happens. A tenant reset whose default step is due, and a bundle's own hold, are left to
their own statements. -/
def Obligations.Headland : Prop :=
  ∀ s : State, Quiet s →
    (s.hl.left ≠ 0 → ∃ t, exec .headland s = .next t ∧ UpToMarks s t) ∧
    (s.hl.left = 0 → hasCommit s = false → ∃ t, exec .headland s = .next t ∧
      UpToMarks { s with hl := { s.hl with left := hlDiv s } } t) ∧
    (s.hl.left = 0 → hasCommit s = true → s.hl.bundleHold = false →
      (∀ n, (tenOf s n).resetPend = false ∨ (tenOf s n).stepDue = false) →
      ∃ t, exec .headland s = .next t ∧ t.hl.seq = s.hl.seq + 1 ∧ t.hl.left = hlDiv t ∧ 1 ≤ t.hl.left ∧ t.hl.left ≤ 64 ∧
        t.tb = s.tb ∧ t.cfg.im = s.cfg.im ∧ t.cfg.shadow = s.cfg.shadow ∧
        (if bit (imAt s 0x114) 0 = true then
          t.cfg.live = s.cfg.live ∧ t.hl.dirty = s.hl.dirty ∧
          t.hl.held = (if s.hl.dirty = true then satInc8 s.hl.held else s.hl.held)
        else t.cfg.live = s.cfg.shadow ∧ t.hl.dirty = false ∧ t.hl.held = 0))

/-- The end of a scan pass (R143 to R145): CFG_CRC takes the result and PASSES counts; a snap takes it as CFG_REF too and
compares nothing; otherwise, with CHECK set and a result other than CFG_REF, CFG_DRIFT is set, with HOLD_ON_DRIFT the drift hold
begins, and an unconfirmed bundle under the first mode of comparison notes the drift. -/
def Obligations.ScanPass : Prop :=
  ∀ s : State, Quiet s →
    (s.hl.done = none → ∃ t, exec .scanPassComplete s = .next t ∧ UpToMarks s t) ∧
    ∀ c, s.hl.done = some c →
      let e := { s with hl := { s.hl with done := none, crc := c, passes := s.hl.passes + 1, snapPend := false } }
      let differs := bit (imAt s 0x808) 0 = true ∧ c ≠ imAt s 0x804
      ∃ t, exec .scanPassComplete s = .next t ∧
        (s.hl.snapPend = true → UpToMarks (setIm e 0x804 c) t) ∧
        (s.hl.snapPend = false → ¬ differs → UpToMarks e t) ∧
        (s.hl.snapPend = false → differs →
          FlagsSetW hDRIFT { e with
            pw := { s.pw with driftHold := s.pw.driftHold || bit (imAt s 0x808) 1 }
            bun := { s.bun with drift := s.bun.drift || (s.bun.unconf && decide (s.bun.refMode = 1)) } } t)

/-- The region barrier (R190, R191): a request clears DONE, and notes HL_SEQ and whether any region or colour has a shadow that
differs; once no access checked under the map of that moment, ring writes that wait in a VC queue among them, and no invalidation that
the region map of that moment called for is unfinished, DONE reads 1. -/
def Obligations.RegionBarrier : Prop :=
  ∀ s : State, Quiet s →
    (served s true 0x1300 1 → ∃ t, exec .regionSyncReq s = .next t ∧
      UpToMarks { s with xl := { s.xl with
        rsDone := false, rsDirty := regionsDirty s, rsSeq := s.hl.seq, rsMark := s.xl.serial } } t) ∧
    (s.bun.finishing = false → s.nv.jobs = [] → s.xl.rsDone = false →
      (∀ w ∈ s.xl.walks, ∀ b, w.firstChk = some b → s.xl.rsMark ≤ b) →
      (∀ v, s.xl.fltVc = some v ∨ s.xl.evtVc = some v → s.xl.rsMark ≤ v.born) →
      (∀ p ∈ s.xl.pend, ∀ b, p.region = some b → s.xl.rsMark ≤ b) →
      ∃ t, exec .regionSyncDone s = .next t ∧ UpToMarks { s with xl := { s.xl with rsDone := true } } t) ∧
    ((∃ w ∈ s.xl.walks, ∃ b, w.firstChk = some b ∧ b < s.xl.rsMark) ∨
        (∃ v, (s.xl.fltVc = some v ∨ s.xl.evtVc = some v) ∧ v.born < s.xl.rsMark) ∨
        (∃ p ∈ s.xl.pend, ∃ b, p.region = some b ∧ b < s.xl.rsMark) →
      ∃ t, exec .regionSyncDone s = .next t ∧ UpToMarks s t)

/-- The window: commands that meet an error, and reads. -/
def Obligations.WindowReadsAndErrors : Prop := WindowErrors ∧ WindowReads

/-! ## Sowing, translation and tenants (chapters 07 to 09) -/

/-- A posted write that has taken effect: its three grains leave the VC-P receive buffer (R278). -/
abbrev Sys2Proof.Claims.lands (l : Link) (u : State) : State := freeRx u l 0 3

/-- Tenant pages over a link (R148, R149, R197, R275, R278, R280, R461): a sow write of an enabled tenant joins Q-IN, or waits in its
receive buffer while Q-IN is full or another link has the turn, and is admitted from there in turn; one of a tenant that is not enabled
is counted and dropped, one with a byte disabled is refused; a page word takes its enabled bytes in its shadow; behind a write that
waits every other one waits; a read is completed with the word, as soon as its completion has the turn; an access of a tenant that is not
bound to the link is counted and recorded, and a malformed packet is counted. -/
def Obligations.PageAccesses : Prop :=
  ∀ (s : State) (l : Link) (fn : Tenant) (data : Word), Quiet s → arrives s l →
    let ev : SowEvent := { tenant := fn, link := l, dev := data.extractLsb' 16 16, ev := data.setWidth 16 }
    let a := arrive s l 0 3
    let r := linkOf a l
    let sow : PWrite := { fn := fn, off := 0, be := 15, data := data }
    (r.ll.vpWait = [] → bound s l fn = true →
      (tenEnabled s fn = true → s.xl.qIn.length < 2048 → admitTurn s = none → ∃ t, exec (.sowWrite l fn 15 data) s = .next t ∧
        UpToMarks (lands l { a with xl := { s.xl with qIn := s.xl.qIn ++ [ev] } }) t) ∧
      (tenEnabled s fn = true → 2048 ≤ s.xl.qIn.length ∨ (admitTurn s).isSome = true →
        ∃ t, exec (.sowWrite l fn 15 data) s = .next t ∧ UpToMarks (setLink a l { r with ll := { r.ll with vpWait := [sow] } }) t) ∧
      (tenEnabled s fn = false → ∃ t, exec (.sowWrite l fn 15 data) s = .next t ∧
        UpToMarks (lands l (setTen (bump a cntSOWDIS) fn { tenOf s fn with c0 := (tenOf s fn).c0 + 1 })) t) ∧
      (∀ be, be ≠ 15 → ∃ t, exec (.sowWrite l fn be data) s = .next t ∧
        Closed (lands l (accessError (bump (bump a cntSOWBAD) cntACCESS) l fn 0 false)) t) ∧
      (∀ off be, off ∈ [(0x10 : BitVec 12), 0x14, 0x18, 0x1C, 0x20, 0x24] →
        let k := pageKey fn.toNat off.toNat
        let hl := pageHl fn.toNat off.toNat &&& ~~~(featOff s k) &&& beMask be
        ∃ t, exec (.rwr l fn off be data false) s = .next t ∧
          UpToMarks (lands l (if hl = 0 then a else { setShadow a k ((shadowAt s k &&& ~~~hl) ||| (data &&& hl)) with
            hl := { s.hl with dirty := true } })) t)) ∧
    (r.ll.vpWait ≠ [] → ∀ off be m, ∃ t, exec (.rwr l fn off be data m) s = .next t ∧
      UpToMarks (setLink a l { r with ll := { r.ll with
        vpWait := r.ll.vpWait ++ [{ fn := fn, off := off, be := be, data := data, malformed := m }] } }) t) ∧
    (bound s l fn = true → ∀ off rtag, pageExists fn.toNat off.toNat = true →
      let b := freeRx (arrive s l 1 2) l 1 2
      let q := setLink b l { linkOf b l with ll := { (linkOf b l).ll with
        cplQ := r.ll.cplQ ++ [put fn.toNat 0 :: cplBody rtag 0 (some (pageRead s fn off.toNat))] } }
      ∃ t, exec (.rrd l fn off rtag false) s = .next t ∧
        (nextClass q l ≠ some .cpl → UpToMarks q t) ∧
        (nextClass q l = some .cpl → r.ll.cplQ = [] → (linkOf t l).ll.cplQ = [] ∧ ∃ p, (linkOf t l).ll.replay = r.ll.replay ++ [p] ∧
          p.words = buildTlp (linkOf b l).ll tyCPL 2 3 fn (cplBody rtag 0 (some (pageRead s fn off.toNat))))) ∧
    (bound s l fn = false → r.ll.vpWait = [] → ∀ off be, ∃ t, exec (.rwr l fn off be data false) s = .next t ∧
      Closed (lands l (accessError (bump a cntACCESS) l fn off false)) t) ∧
    (r.ll.vpWait = [] → ∀ off be, ∃ t, exec (.rwr l fn off be data true) s = .next t ∧
      UpToMarks (lands l (setLink a l { r with malformed := r.malformed + 1 })) t) ∧
    (∀ rest, (linkOf s l).ll.vpWait = sow :: rest → admitTurn s = some l → bound s l fn = true → tenEnabled s fn = true →
      s.xl.qIn.length < 2048 → ∃ t, exec (.sowAdmit l) s = .next t ∧
        t.xl.qIn = s.xl.qIn ++ [ev] ∧ t.xl.lastAdmit = l ∧
        (rest = [] → UpToMarks (lands l (setLink { s with xl := { s.xl with qIn := s.xl.qIn ++ [ev], lastAdmit := l } } l
          { linkOf s l with ll := { (linkOf s l).ll with vpWait := [] } })) t))

/-- Invalidations and SYNC (R165, R166, R168, R426): a good request joins the queue, a bad one is counted; the head of the queue, with
nothing pending before it, removes the entries in its scope from both caches, keeps walks in scope from filling them (one whose INTID is not
known yet is judged when it is) and expires pool copies in scope; SYNC takes its token, and DONE reads 1 once nothing earlier of the tenant is unfinished. -/
def Obligations.Invalidations : Prop :=
  ∀ (s : State) (l : Link) (fn : Tenant) (be : BE) (data : Word), Quiet s →
    let a := arrive s l 0 3
    (arrives s l → (linkOf s l).ll.vpWait = [] → bound s l fn = true →
      (∀ q, invRequest s fn be data = some q → s.xl.inv.length < 32 →
        q.tenant = (if fn = 0 then data.extractLsb' 8 8 else fn) ∧ q.scope = data.setWidth 4 ∧ q.scope.toNat ≤ 4 ∧
        ∃ t, exec (.invWrite l fn be data) s = .next t ∧
          UpToMarks (lands l { a with xl := { s.xl with inv := s.xl.inv ++ [q], serial := s.xl.serial + 1 } }) t) ∧
      (invRequest s fn be data = none → ∃ t, exec (.invWrite l fn be data) s = .next t ∧
        UpToMarks (lands l (bump a cntINVBAD)) t) ∧
      (be.extractLsb' 0 2 = 3 → ∃ t, exec (.syncWrite l fn be data) s = .next t ∧
        UpToMarks (lands l (setTen a fn { tenOf s fn with
          token := data.setWidth 16, syncMark := s.xl.serial, syncDone := syncReady s fn s.xl.serial })) t) ∧
      (be.extractLsb' 0 2 ≠ 3 → ∃ t, exec (.syncWrite l fn be data) s = .next t ∧ UpToMarks (lands l a) t)) ∧
    (∃ t, exec (.syncDone fn) s = .next t ∧
      UpToMarks (if (tenOf s fn).syncDone = false ∧ syncReady s fn (tenOf s fn).syncMark = true
        then setTen s fn { tenOf s fn with syncDone := true } else s) t) ∧
    (∀ q rest, (s.pw.mode = .operating ∨ s.pw.mode = .safe) → s.xl.pend = [] → s.xl.inv = q :: rest →
      (∀ m : Link, (linkOf s m).ll.vpWait = []) →
      let c := reqScope s q
      ∃ t, exec .invalidationServe s = .next t ∧ t.xl.inv = rest ∧
        t.xl.tcache = (s.xl.tcache.filter fun x => !c.key x.e) ∧
        t.xl.xcache = (s.xl.xcache.filter fun x => !inRanges c.ext x.intid) ∧
        t.xl.walks = (s.xl.walks.map fun w =>
          if (w.kind = .event ∧ c.key w.e = true) ∨ inRanges c.ext w.intid = true then { w with noFill := true }
          else if w.kind = .event ∧ w.intid = 0 then { w with invs := w.invs ++ c.ext } else w) ∧
        (∀ k, (intOf t k).st = (intOf s k).st ∧ (intOf t k).offer = (intOf s k).offer ∧
          (8192 + 16384 ≤ k → inRanges c.ext (keyIntid k) = true → ∀ x, (intOf t k).copy = some x → x.expired = true) ∧
          (inRanges c.ext (keyIntid k) = false → intOf t k = intOf s k)) ∧
        t.tens = s.tens ∧ t.links = s.links ∧ t.cfg = s.cfg ∧ t.irq.tgts = s.irq.tgts)

/-- What the reset of a tenant does at once (R199, R201, R206): it is pending, the tenant neither enabled nor master-enabled, none
of its events is walk-blocked any more and its walks are abandoned, a spill that a VC queue holds apart; other tenants, INTIDs and live values stay as they are. -/
def Sys2Proof.Claims.resetBegun (s t : State) (n : Tenant) : Prop :=
  (tenOf t n).resetPend = true ∧ (tenOf t n).stepDue = (tenOf s n).quiesced ∧ tenMe t n = false ∧ tenEnabled t n = false ∧
  (∀ b ∈ t.xl.blocked, b.e.tenant ≠ n) ∧
  (∀ w ∈ t.xl.walks, w.e.tenant = n → w.dead = true ∨ (w.kind = .spill ∧ w.issued.isSome = true)) ∧
  (∀ m, m ≠ n → tenOf t m = tenOf s m) ∧ (∀ k, houseKey k = false → intOf t k = intOf s k) ∧
  t.cfg.live = s.cfg.live ∧ t.irq.tgts = s.irq.tgts ∧ t.pw = s.pw

/-- Tenant resets (R204 to R207): FLR over the tenant's page and FRESET through the window begin a reset, unless one is pending; the
2 ms limit makes the default step due, is counted, and leaves no posted write of the tenant in a VC queue; a tenant with the master
enable 0 and nothing outstanding becomes QUIESCED, and every other such tenant with it, in one CCLK with one flag, the highest-numbered standing
in QUIESCE_LAST; the default step,
at a commit, ends the reset with the tenant disabled and its page at 0. -/
def Obligations.TenantResets : Prop :=
  ∀ (s : State) (l : Link) (n : Tenant), Quiet s →
    let due := fun m : Tenant => tenMe s m = false ∧ (tenOf s m).outstanding = 0 ∧ (tenOf s m).quiesced = false
    let rested := fun m : Tenant => { tenOf s m with
      quiesced := true, stepDue := (tenOf s m).stepDue || (tenOf s m).resetPend }
    (arrives s l → (linkOf s l).ll.vpWait = [] → bound s l n = true → (tenOf s n).resetPend = false →
      ∃ t, exec (.flr l n) s = .next t ∧ resetBegun s t n) ∧
    (arrives s l → (linkOf s l).ll.vpWait = [] → bound s l n = true → (tenOf s n).resetPend = true →
      ∃ t, exec (.flr l n) s = .next t ∧ UpToMarks (lands l (arrive s l 0 3)) t) ∧
    (served s true 0x1028 1 → twSel s = 4 → twIndex s = n.toNat → bit (twData s 0) 1 = true → twTarget s = 0 →
      (tenOf s n).resetPend = false → ∃ t, exec (.freset n) s = .next t ∧ resetBegun s t n) ∧
    ((tenOf s n).resetPend = true → (tenOf s n).stepDue = false → ∃ t, exec (.resetForced n) s = .next t ∧
      (tenOf t n).outstanding = 0 ∧ (tenOf t n).stepDue = true ∧ (tenOf t n).resetPend = true ∧
      cntOf t cntRSTFORCED = cntOf s cntRSTFORCED + 1 ∧ (∀ m, ∀ q ∈ (linkOf t m).ll.vpQ, q.fn ≠ n) ∧
      (∀ m, (linkOf t m).ll.vnQ = (linkOf s m).ll.vnQ ∧ (linkOf t m).ll.replay = (linkOf s m).ll.replay) ∧
      (∀ k, houseKey k = false → intOf t k = intOf s k) ∧ t.cfg.live = s.cfg.live ∧ t.irq.tgts = s.irq.tgts) ∧
    ((tenOf s n).resetPend = false ∨ (tenOf s n).stepDue = true → ∃ t, exec (.resetForced n) s = .next t ∧ UpToMarks s t) ∧
    (due n → ∃ t, exec (.tenantQuiesced n) s = .next t ∧
      (∀ m, (due m → tenOf t m = rested m) ∧ (¬ due m → tenMe s m = false → tenOf t m = tenOf s m)) ∧
      ((∀ m, m ≠ n → ¬ due m ∧ (tenMe s m = true → (tenOf s m).quiesced = false)) →
        FlagsSet hQUIESCED { setTen s n (rested n) with quiesceLast := n } t) ∧
      ((∀ m, due m → m.toNat ≤ n.toNat) → tabWf (fun _ => {}) s.tens = true → (∀ p ∈ s.tens, p.1 < 256) →
        t.quiesceLast = n ∧ sqOf t 0x300 = sqRaise (sqOf s 0x300) 0x4000)) ∧
    (¬ due n → ∃ t, exec (.tenantQuiesced n) s = .next t ∧ UpToMarks s t) ∧
    (s.hl.left = 0 → hasCommit s = true → (tenOf s n).resetPend = true → (tenOf s n).stepDue = true →
      ∃ t, exec .headland s = .next t ∧ (tenOf t n).resetPend = false ∧ (tenOf t n).stepDue = false ∧
        tenEn t n = false ∧ tenMe t n = false ∧
        ∀ off ∈ [0x10, 0x14, 0x18, 0x1C, 0x20, 0x24], pageLive t n.toNat off = 0)

/-- Rings (R208, R209, R211, R282): a write of HEAD that leaves no more records than the ring holds moves it, a write of TAIL moves it while
the tenant is quiesced, and any other is ignored and counted; the oldest fault or event record passes the region check and stands in the VC-P
queue of its link, counted as outstanding, or waits for that link to be ACTIVE, or is lost and counted where the check fails, the ring is full
or the tenant's master enable 0; in its turn it is written to its slot, TAIL advancing. -/
def Sys2Proof.Claims.Rings : Prop :=
  ∀ (s : State) (l : Link) (n : Tenant) (evt : Bool) (be : BE) (data : Word), Quiet s →
    let a := arrive s l 0 3
    let g := ringOf s n evt
    let bad := setTen a n { tenOf s n with c3 := (tenOf s n).c3 + 1 }
    (arrives s l → (linkOf s l).ll.vpWait = [] → bound s l n = true → (evt = true → n = 0) → be.extractLsb' 0 2 ≠ 0 →
      (∃ t, exec (.ringHeadWrite l n evt be data) s = .next t ∧
        UpToMarks (lands l (if (g.tail - merge16 be g.head data).toNat ≤ 2 ^ ringLog2 s n evt
          then setRing a n evt { g with head := merge16 be g.head data } else bad)) t) ∧
      (∃ t, exec (.ringTailWrite l n evt be data) s = .next t ∧
        UpToMarks (lands l (if (tenOf s n).quiesced = true
          then setRing a n evt { g with tail := merge16 be g.tail data } else bad)) t)) ∧
    (∀ f rest, s.pw.mode = .operating → s.xl.qFlt = f :: rest →
      let written := fun (x : State) (v : RingVc) =>
        let p := ringWrite { x with xl := { x.xl with qFlt := rest, fltVc := none } } v f.tenant false
          (fltWords f (tenOf s f.tenant).loss)
        setTen p f.tenant { tenOf p f.tenant with loss := 0 }
      (s.xl.fltVc = none → tenMe s f.tenant = false ∨ ringFull s f.tenant false = true ∨
          (∃ c j, regionCheck s f.tenant (ringSlot s f.tenant false) = .fail c j) → ∃ t, exec .faultRecordWrite s = .next t ∧
        t.xl.qFlt = rest ∧ cntOf t cntFAULTLOST = cntOf s cntFAULTLOST + 1 ∧
        tenOf t f.tenant = { tenOf s f.tenant with loss := satInc8 (tenOf s f.tenant).loss } ∧ t.links = s.links) ∧
      (∀ lk j, s.xl.fltVc = none → tenMe s f.tenant = true → ringFull s f.tenant false = false →
        regionCheck s f.tenant (ringSlot s f.tenant false) = .pass lk j →
        let v : RingVc := ⟨lk, ringSlot s f.tenant false, s.xl.serial⟩
        let q := setTen { s with xl := { s.xl with fltVc := some v, serial := s.xl.serial + 1 } } f.tenant
          { tenOf s f.tenant with outstanding := (tenOf s f.tenant).outstanding + 1 }
        ∃ t, exec .faultRecordWrite s = .next t ∧
          ((linkOf s lk).st ≠ .active → t.xl.qFlt = s.xl.qFlt ∧ t.xl.fltVc = none ∧ t.links = s.links ∧ t.tens = s.tens) ∧
          ((linkOf s lk).st = .active → nextClass q lk ≠ some .flt → UpToMarks q t) ∧
          ((linkOf s lk).st = .active → nextClass q lk = some .flt → UpToMarks (written q v) t ∧
            (ringOf t f.tenant false).tail = (ringOf s f.tenant false).tail + 1)) ∧
      (∀ v, s.xl.fltVc = some v → ∃ t, exec .faultRecordWrite s = .next t ∧
        (nextClass s v.link ≠ some .flt → UpToMarks s t) ∧
        (nextClass s v.link = some .flt → UpToMarks (written s v) t ∧
          (ringOf t f.tenant false).tail = (ringOf s f.tenant false).tail + 1))) ∧
    (∀ e rest, s.pw.mode = .operating → s.xl.qEvt = e :: rest →
      let written := fun (x : State) (v : RingVc) =>
        ringWrite { x with xl := { x.xl with qEvt := rest, evtVc := none } } v 0 true (evtWords e)
      (s.xl.evtVc = none → tenMe s 0 = false ∨ ringFull s 0 true = true ∨
          (∃ c j, regionCheck s 0 (ringSlot s 0 true) = .fail c j) → ∃ t, exec .eventRecordWrite s = .next t ∧
        UpToMarks (bump { s with xl := { s.xl with qEvt := rest, evtVc := none } } cntEVTLOST) t) ∧
      (∀ lk j, s.xl.evtVc = none → tenMe s 0 = true → ringFull s 0 true = false →
        regionCheck s 0 (ringSlot s 0 true) = .pass lk j → (linkOf s lk).st = .active →
        let v : RingVc := ⟨lk, ringSlot s 0 true, s.xl.serial⟩
        let q := setTen { s with xl := { s.xl with evtVc := some v, serial := s.xl.serial + 1 } } 0
          { tenOf s 0 with outstanding := (tenOf s 0).outstanding + 1 }
        ∃ t, exec .eventRecordWrite s = .next t ∧
          (nextClass q lk ≠ some .evt → UpToMarks q t) ∧ (nextClass q lk = some .evt → UpToMarks (written q v) t)) ∧
      (∀ v, s.xl.evtVc = some v → ∃ t, exec .eventRecordWrite s = .next t ∧
        (nextClass s v.link ≠ some .evt → UpToMarks s t) ∧ (nextClass s v.link = some .evt → UpToMarks (written s v) t)))

/-- Notes (R178, R282, R425): in its turn the first entry of Q-CMP for a link is sent as a NOTE; it is dropped and counted at its timeout; an INTID that
waits Completed for it becomes Inactive. -/
def Sys2Proof.Claims.Notes : Prop :=
  ∀ (s : State) (l : Link) (n : Note), Quiet s → s.pw.mode = .operating →
    (s.xl.qCmp.find? fun x => x.key.link = l) = some n →
    let left := fun u : State => { u with xl := { u.xl with qCmp := cmpRest l s.xl.qCmp } }
    let ends := fun u : State => match n.id with
      | none => left u
      | some id => if (intOf s (ikey 0 n.intid)).st = .completed ∧ (intOf s (ikey 0 n.intid)).noteId = some id
          then setInt (left u) (ikey 0 n.intid) (restRec (ikey 0 n.intid) (intOf s (ikey 0 n.intid))) else left u
    (nextClass s l = some .note → ∃ t, exec (.noteSend l) s = .next t ∧
      UpToMarks (ends (tookSource (pushTlp s l tyNOTE 0 3 n.key.tenant
        [put n.key.ev.toNat 0 ||| put n.key.dev.toNat 16, put n.intid.toNat 0 ||| putB n.nak 24, put n.code.toNat 0]
        none) l 0)) t) ∧
    (nextClass s l ≠ some .note → ∃ t, exec (.noteSend l) s = .next t ∧ UpToMarks s t) ∧
    (∃ t, exec (.cmpTimeoutDrop l) s = .next t ∧ FlagsSet hQDROP (ends (bump s cntCMPDROP)) t ∧
      ((∀ j, j < 16 → (intOf s (8192 + 128 + j)).note = none) → cntOf t cntCMPDROP = cntOf s cntCMPDROP + 1))

/-- The walker (R150, R151, R155, R197, R202, R203): the head of Q-IN leaves it once it is dealt with. While walk-blocked events are to be
released, only one that matches one of them leaves Q-IN, and joins it. Otherwise an event of a tenant that is not enabled is dropped and counted; one
whose translation is cached triggers its INTID; one that needs a walk is parked while the master enable is 0, joins the walk of its key that is
under way, or begins a walk at its device-table entry. -/
def Obligations.WalkerTakes : Prop :=
  ∀ (s : State) (e : SowEvent) (rest : List SowEvent), Quiet s → s.pw.mode = .operating → s.xl.qIn = e :: rest →
    let gone := fun u : State => { u with xl := { u.xl with qIn := rest } }
    ((∃ b ∈ s.xl.blocked, releasable s b = true ∧ sameKey b.e e = true) → ∃ t, exec .walkerTake s = .next t ∧
      UpToMarks { s with xl := { s.xl with
        qIn := rest, blocked := s.xl.blocked.map fun b => if sameKey b.e e = true then mergeBlocked b else b } } t) ∧
    ((∃ b ∈ s.xl.blocked, releasable s b = true) → (∀ b ∈ s.xl.blocked, releasable s b = true → sameKey b.e e = false) →
      ∃ t, exec .walkerTake s = .next t ∧ UpToMarks s t) ∧
    ((∀ b ∈ s.xl.blocked, tenMe s b.e.tenant = false ∨ tenEnabled s b.e.tenant = false) →
      (tenEnabled s e.tenant = false → ∃ t, exec .walkerTake s = .next t ∧
        UpToMarks (gone (setTen (bump s cntSOWDIS) e.tenant { tenOf s e.tenant with c0 := (tenOf s e.tenant).c0 + 1 })) t) ∧
      (∀ x, tenEnabled s e.tenant = true → lookupT s e = some x → isExt x.intid = false → ∃ t, exec .walkerTake s = .next t ∧
        Closed (gone (trigger (touchHit s e x.intid) (ikey 0 x.intid) (if x.notify = true
          then some { link := e.link, tenant := e.tenant, dev := e.dev, ev := e.ev } else none))) t) ∧
      (tenEnabled s e.tenant = true → lookupT s e = none → tenMe s e.tenant = false →
        (∀ b ∈ s.xl.blocked, sameKey b.e e = false) → poolUsed s < 8192 → ∃ t, exec .walkerTake s = .next t ∧
          UpToMarks { s with xl := { s.xl with qIn := rest, blocked := s.xl.blocked ++ [{ e := e, merged := 1 }] } } t) ∧
      (tenEnabled s e.tenant = true → lookupT s e = none → tenMe s e.tenant = true →
        (∃ w ∈ s.xl.walks, w.kind = .event ∧ w.dead = false ∧ sameKey w.e e = true) → ∃ t, exec .walkerTake s = .next t ∧
          UpToMarks { s with xl := { s.xl with
            qIn := rest
            walks := s.xl.walks.map fun w =>
              if w.kind = .event ∧ w.dead = false ∧ sameKey w.e e = true then { w with joined := w.joined ++ [e.link] }
              else w } } t) ∧
      (∀ tag, tenEnabled s e.tenant = true → lookupT s e = none → tenMe s e.tenant = true → freeTag s = some tag →
        (∀ w ∈ s.xl.walks, w.kind = .event → w.dead = false → sameKey w.e e = false) →
        bit (pageLive s e.tenant.toNat 0x10) 0 = true → fld (pageLive s e.tenant.toNat 0x10) 4 5 ≤ 16 →
        e.dev.toNat < 2 ^ fld (pageLive s e.tenant.toNat 0x10) 4 5 → ∃ t, exec .walkerTake s = .next t ∧
          t.xl.qIn = rest ∧ ∃ w ∈ t.xl.walks, w.tag = tag ∧ w.e = e ∧ w.stage = .dt ∧ w.gen = genOf s tag + 1 ∧
            w.addr = (pageLive s e.tenant.toNat 0x14).toNat * 2 ^ 32 +
              (pageLive s e.tenant.toNat 0x10).toNat / 4096 * 4096 + 8 * e.dev.toNat ∧ w.stamp = s.hl.seq))

/-- A sweep (R174, R427): with none under way and 1,024 pool entries free, the next tenant that has spilled begins one, FN_STAT.SPILL is
cleared, and the read of its first block is issued; a tenant without an extended range has no block. A set bit of a block that was read, whose INTID
is the tenant's and whose word is cached, triggers it, and the bits so re-injected are to be cleared in memory. -/
def Sys2Proof.Claims.Sweeps : Prop :=
  ∀ (s : State) (n : Tenant) (tag : BitVec 6), Quiet s → s.pw.mode = .operating →
    (sweepNow s = none → sweepTurn s = some n → freeTag s = some tag → 1024 ≤ poolFree s → heldBack s < 16 →
      (blockCount s n = 0 → ∃ t, exec (.spillSweep n 0 .read) s = .next t ∧ UpToMarks
        { setTen s n { tenOf s n with spill := false } with xl := { s.xl with swept := n } } t) ∧
      (∀ l j, blockCount s n ≠ 0 → regionCheck s n (spillBase s n) = .pass l j → (linkOf s l).st = .active →
        (linkOf s l).ll.vpQ = [] → ∃ t, exec (.spillSweep n 0 .read) s = .next t ∧ (tenOf t n).spill = false ∧
          (tenOf t n).outstanding = (tenOf s n).outstanding + 1 ∧ t.irq.ints = s.irq.ints ∧
          ∃ w ∈ t.xl.walks, w.tag = tag ∧ w.kind = .sweep ∧ w.e.tenant = n ∧ w.stage = .block ∧ w.block = 0 ∧
            w.addr = spillBase s n ∧ w.issued = some l)) ∧
    (∀ block access, (sweepNow s = none ∧ (sweepTurn s ≠ some n ∨ block ≠ 0 ∨ access ≠ .read)) ∨
      (∃ w, sweepNow s = some w ∧ (w.e.tenant ≠ n ∨ w.block ≠ block ∨ sweepAccess w ≠ access)) →
      ∃ t, exec (.spillSweep n block access) s = .next t ∧ UpToMarks s t) ∧
    (∀ w l j x, (linkOf s l).st = .active → (s.xl.walks.find? fun v => v.tag = tag) = some w → w.kind = .sweep → w.stage = .block →
      w.dead = false → w.issued.isSome = true → w.e.tenant = n → w.got = [] → w.did = [] → w.extra = [] → j < 512 →
      let i := sweptIntid s w j
      tenEnabled s n = true → inXRange s n i = true → ownerOf s i = some n → lookupX s i = some x → 64 ≤ poolFree s →
      (intOf s (ikey 0 i)).st = .inactive →
      ∃ t, exec (.walkCompletion l tag w.gen 0 true
          ⟨0, (upTo 16).map fun k => if k = j / 32 then (1#32 <<< (j % 32)) else 0⟩) s = .next t ∧
        (intOf t (ikey 0 i)).st = .pending ∧ (∀ k, houseKey k = false → k ≠ ikey 0 i → intOf t k = intOf s k) ∧
        ∃ v ∈ t.xl.walks, v.tag = tag ∧ v.stage = .clear ∧ v.did = [j])

/-- Refetches of expired copies (R155, R169, R171, R427, R527): a due refetch takes its word from the configuration cache, or a tag and the word's
address; where the tenant no longer owns the INTID it faults, and the copy stays in use. -/
def Sys2Proof.Claims.Refetches : Prop :=
  ∀ (s : State) (i : Intid) (c : XCopy), Quiet s → s.pw.mode = .operating → (intOf s (ikey 0 i)).copy = some c →
    refetchDue s i c = true →
    (∀ tag, ownerOf s i = some c.owner → lookupX s i = none → heldBack s < 16 → freeTag s = some tag →
      ∃ t, exec (.xcfgRefetch i) s = .next t ∧ ∃ w ∈ t.xl.walks, w.tag = tag ∧ w.kind = .refetch ∧ w.intid = i ∧ w.e.tenant = c.owner ∧
        w.addr = (tenXAddr s c.owner + 8 * i.toNat + (2 ^ 49 - 8 * tenXBase s c.owner)) % 2 ^ 49) ∧
    (∀ x, ownerOf s i = some c.owner → lookupX s i = some x → (∀ b, c.invBorn = some b → b ≤ s.xl.serial) →
      ∃ t, exec (.xcfgRefetch i) s = .next t ∧ ∃ d, (intOf t (ikey 0 i)).copy = some d ∧
        d.expired = false ∧ d.invBorn = none ∧ d.word = c.word ∧ d.owner = c.owner ∧
        (c.word = x.word → d.stamp = x.stamp) ∧ (c.word ≠ x.word → d.staged = some (x.word, x.stamp))) ∧
    (ownerOf s i ≠ some c.owner → ∃ t, exec (.xcfgRefetch i) s = .next t ∧
      (intOf t (ikey 0 i)).copy = some { c with expired := false, kept := true, invBorn := none } ∧
      (s.xl.qFlt.length < 256 → ∃ f, t.xl.qFlt = s.xl.qFlt ++ [f] ∧ f.code = 7 ∧ f.tenant = c.owner ∧ f.stage = 6))

/-- Work that the walker takes up again (R171, R174, R203, R527): a walk-blocked event whose tenant is master-enabled leaves the pool and begins its
walk, or triggers its INTID where its translation is cached by then; expired copies are refetched; spilled bitmaps are swept. -/
def Obligations.WalkerResumes : Prop :=
  (∀ (s : State) (n : Tenant) (b : Blocked), Quiet s → s.pw.mode = .operating → tenMe s n = true → tenEnabled s n = true →
    (s.xl.blocked.find? fun b => b.e.tenant = n) = some b →
    let out := { s with xl := { s.xl with blocked := s.xl.blocked.filter fun c => !sameKey c.e b.e } }
    (∀ tag, lookupT s b.e = none → freeTag s = some tag → (∀ w ∈ s.xl.walks, w.kind = .event → w.dead = false → sameKey w.e b.e = false) →
      bit (pageLive s n.toNat 0x10) 0 = true → fld (pageLive s n.toNat 0x10) 4 5 ≤ 16 →
      b.e.dev.toNat < 2 ^ fld (pageLive s n.toNat 0x10) 4 5 → ∃ t, exec (.walkBlockedRelease n) s = .next t ∧
        t.xl.blocked = out.xl.blocked ∧ ∃ w ∈ t.xl.walks, w.tag = tag ∧ w.e = b.e ∧ w.stage = .dt) ∧
    (∀ x, lookupT s b.e = some x → isExt x.intid = false → ∃ t, exec (.walkBlockedRelease n) s = .next t ∧
      Closed (trigger (touchHit out b.e x.intid) (ikey 0 x.intid) (if x.notify = true
        then some { link := b.e.link, tenant := b.e.tenant, dev := b.e.dev, ev := b.e.ev } else none)) t)) ∧
  Refetches ∧ Sweeps

/-- The check of every access to host memory (R179 to R186, Table RC-2): the lowest-numbered valid region over the address's page
decides. An access outside the 48-bit space or every region fails with 0x10, a device region with 0x12, one of another colour than the
tenant's with 0x11, one whose link is down with 0x13, in this order, and any other passes on the region's link. -/
def Obligations.RegionChecks : Prop :=
  ∀ (s : State) (n : Tenant) (addr : Nat),
    (2 ^ 48 ≤ addr → regionCheck s n addr = .fail 0x10 none) ∧
    (addr < 2 ^ 48 → (∀ j, j < 32 → bit (regionW s j 0) 0 = false ∨ addr / 4096 < regionBase s j ∨ regionLimit s j < addr / 4096) →
      regionCheck s n addr = .fail 0x10 none) ∧
    (∀ j, j < 32 → addr < 2 ^ 48 → bit (regionW s j 0) 0 = true → regionBase s j ≤ addr / 4096 → addr / 4096 ≤ regionLimit s j →
      (∀ i, i < j → bit (regionW s i 0) 0 = false ∨ addr / 4096 < regionBase s i ∨ regionLimit s i < addr / 4096) →
      regionCheck s n addr =
        if regionDevice s j = true then .fail 0x12 (some j)
        else if regionColour s j ≠ tenColour s n then .fail 0x11 (some j)
        else if linkIsDown (linkOf s (regionLink s j)) = true then .fail 0x13 (some j)
        else .pass (regionLink s j) j)

/-- The reads of a walk (R155 to R158, R163, R176, R201): an access that passes its check is issued as an MRD under the walk's tag and counts as
outstanding, or waits for its link to be ACTIVE; one that fails, a completion with a status and a timeout end the walk with a fault record and
WALK_FAULT; a device-table entry leads to the event's entry of the event table, an event entry with an owned shared INTID triggers it; a completion
that no outstanding read of its tag and generation waits for is counted as late, whichever link it comes on. -/
def Obligations.WalkReads : Prop :=
  ∀ (s : State) (tag : BitVec 6) (w : Walk) (l : Link), Quiet s → arrives s l →
    (s.xl.walks.find? fun v => v.tag = tag) = some w → w.kind = .event → w.joined = [] → w.nak = false →
    w.dead = false → w.forced = false → w.got = [] → (w.stage = .dt ∨ w.stage = .et ∨ w.stage = .xcfg) →
    let gone := fun u : State => { u with xl := { u.xl with walks := u.xl.walks.filter fun v => v.tag ≠ tag } }
    let faulted := fun (u : State) (code stage : Nat) (j : Option Nat) (t : State) =>
      s.xl.qFlt.length < 256 → FlagsSet hWALKFAULT { gone u with
        tens := (setTen u w.e.tenant { tenOf u w.e.tenant with c4 := (tenOf u w.e.tenant).c4 + 1 }).tens
        xl := { (gone u).xl with qFlt := s.xl.qFlt ++ [faultRec s w.e code stage false w.addr j true] } } t
    let less := setTen s w.e.tenant { tenOf s w.e.tenant with outstanding := (tenOf s w.e.tenant).outstanding - 1 }
    let stage := if w.stage = .dt then 1 else if w.stage = .et then 2 else 3
    (w.issued = none → tenMe s w.e.tenant = true →
      (∀ m j, regionCheck s w.e.tenant w.addr = .pass m j → (linkOf s m).st = .active → (linkOf s m).ll.vpQ = [] →
        ∃ t, exec (.walkReadIssue tag) s = .next t ∧
          (linkOf t m).ll.vnQ.length + (linkOf t m).ll.replay.length =
            (linkOf s m).ll.vnQ.length + (linkOf s m).ll.replay.length + 1 ∧
          (∀ v ∈ t.xl.walks, v.tag = tag → v.issued = some m ∧ v.waits = none) ∧
          (tenOf t w.e.tenant).outstanding = (tenOf s w.e.tenant).outstanding + 1 ∧
          t.irq.ints = s.irq.ints ∧ t.cfg = s.cfg ∧ ∀ x, x ≠ m → linkOf t x = linkOf s x) ∧
      (∀ m j, regionCheck s w.e.tenant w.addr = .pass m j → (linkOf s m).st ≠ .active →
        ∃ t, exec (.walkReadIssue tag) s = .next t ∧
          (∀ v ∈ t.xl.walks, v.tag = tag → v.issued = none ∧ v.waits = some m) ∧
          t.tens = s.tens ∧ t.links = s.links ∧ t.irq.ints = s.irq.ints ∧ t.cfg = s.cfg) ∧
      (∀ code j, regionCheck s w.e.tenant w.addr = .fail code j →
        ∃ t, exec (.walkReadIssue tag) s = .next t ∧ faulted s code stage j t)) ∧
    (∀ (status : BitVec 3) last data, w.issued.isSome = true → status ≠ 0 →
      ∃ t, exec (.walkCompletion l tag w.gen status last data) s = .next t ∧ faulted less 0x18 stage none t) ∧
    (w.issued.isSome = true → ∃ t, exec (.cplTimeout tag) s = .next t ∧ faulted (bump less cntWALKTMO) 0x19 stage none t) ∧
    (∀ gen status last data, w.gen ≠ gen ∨ w.issued = none →
      ∃ t, exec (.walkCompletion l tag gen status last data) s = .next t ∧ UpToMarks (bump s cntLATECPL) t) ∧
    (∀ lo hi : Word, w.issued.isSome = true → w.stage = .dt → lo.getLsbD 0 = true →
      fld hi 16 5 ≤ 16 → w.e.ev.toNat < 2 ^ fld hi 16 5 →
      ∃ t, exec (.walkCompletion l tag w.gen 0 true ⟨0, [lo, hi]⟩) s = .next t ∧
        ∀ v ∈ t.xl.walks, v.tag = tag → v.stage = .et ∧ v.issued = none ∧ v.nak = lo.getLsbD 1 ∧
          v.addr = fld hi 0 16 * 2 ^ 32 + lo.toNat / 64 * 64 + 8 * w.e.ev.toNat) ∧
    (∀ lo hi : Word, w.issued.isSome = true → w.stage = .et → stampExpired s w.stamp = false → lo.getLsbD 0 = true →
      let i : Intid := BitVec.ofNat 24 (fld lo 8 24)
      isShared i = true → ownerOf s i = some w.e.tenant → tenEnabled s w.e.tenant = true →
      (intOf s (ikey 0 i)).st = .inactive →
      ∃ t, exec (.walkCompletion l tag w.gen 0 true ⟨0, [lo, hi]⟩) s = .next t ∧ (intOf t (ikey 0 i)).st = .pending ∧
        (∀ v ∈ t.xl.walks, v.tag ≠ tag) ∧ (tenOf t w.e.tenant).outstanding = (tenOf s w.e.tenant).outstanding - 1)

/-- The rings of the tenants, and the notes. -/
def Obligations.RingsAndNotes : Prop := Rings ∧ Notes

/-! ## Link layer (chapter 12) -/

/-- The command that an accepted, well-formed packet brings (Table LP-4, LP-5): the fields of its header and body words. -/
def Sys2Proof.Claims.messageOf (l : Link) (ws : List Word) : Option Instr :=
  let w0 := ws.getD 0 0
  let b1 := ws.getD 2 0
  let b2 := ws.getD 3 0
  let fn : Tenant := w0.extractLsb' 23 8
  match (w0.extractLsb' 0 6).toNat with
  | 0x11 => some (.rrd l fn (b1.extractLsb' 0 12) (b1.extractLsb' 12 8) false)
  | 0x18 => some (.rwr l fn (b1.extractLsb' 0 12) (b1.extractLsb' 12 4) b2 false)
  | 0x20 => some (.walkCompletion l (b1.extractLsb' 0 6) (b1.extractLsb' 6 4) (b1.extractLsb' 10 3) (b1.getLsbD 13)
      ⟨b1.extractLsb' 14 6, (ws.drop 3).take (b1.extractLsb' 20 4).toNat⟩)
  | 0x38 => some (.claimed l (b1.extractLsb' 24 8) (b1.extractLsb' 0 24) (b2.extractLsb' 8 8))
  | 0x39 => some (.returned l (b1.extractLsb' 24 8) (b1.extractLsb' 0 24) (b2.extractLsb' 8 8))
  | 0x3A => some (.returnedBelow l (b1.extractLsb' 24 8) (b1.extractLsb' 0 24) (b2.extractLsb' 8 8))
  | 0x3B => some (.eoi l (b1.extractLsb' 24 8) (b1.extractLsb' 0 24))
  | 0x3C => some (.prio l (b1.extractLsb' 0 8) (b1.extractLsb' 8 8) (b1.extractLsb' 16 3) (b1.extractLsb' 24 8))
  | 0x3D => some (.stateReport l (b1.extractLsb' 0 8) (b1.extractLsb' 8 2))
  | 0x3E => some (.signal l (b1.extractLsb' 0 8) (b1.getLsbD 20) (b1.extractLsb' 8 8) (b1.extractLsb' 16 4))
  | 0x3F => some (.priv l (b1.extractLsb' 0 8) (b1.extractLsb' 8 4) (b1.getLsbD 12))
  | _ => none

/-- A packet of whole grains whose length is that of its header and whose CRC is right (R263, R264). -/
abbrev Sys2Proof.Claims.goodPacket (ws : List Word) : Prop :=
  ws.length = 2 * (fld (ws.headD 0) 8 3 + 1) ∧
  ws.getLastD 0 = crc32c (ws.take (2 * (fld (ws.headD 0) 8 3 + 1) - 1))

/-- A packet is judged (R269, R270, R274, R280): a bad one is counted and refused with one NAK for the expected sequence, and the part hunts. A
link control packet is acted on. A TLP of the expected sequence is to be acknowledged, takes its place in the receive buffer, and is the
command its words spell; a malformed one is counted and its grains freed; one already accepted is acknowledged again, and one ahead of its turn
is refused without a hunt; one that overruns its buffer, and a completion that is too long, fail the link. -/
def Sys2Proof.Claims.PacketsJudged : Prop :=
  ∀ (s : State) (l : Link) (ws : List Word), arrives s l →
    let r := linkOf s l
    let w0 := ws.headD 0
    let g := fld w0 8 3 + 1
    let vc := fld w0 6 2
    let seq : BitVec 12 := w0.extractLsb' 11 12
    let exp := r.ll.rxExp
    let nak := fun (b : LinkRec) => if r.ll.nakSent = true then b
      else { b with nakCnt := b.nakCnt + 1, ll := { b.ll with nakSent := true, nakDue := some (exp - 1) } }
    let b := nak { r with crcErr := r.crcErr + 1 }
    let q := setLink s l { r with ll := { r.ll with rxExp := exp + 1, rxAny := true, nakSent := false, ackDue := true } }
    let plain := bit (ws.getD 1 0) 12 = false ∧ bit (ws.getD 1 0) 15 = false
    let fits := vc = 2 ∨ (rxOf r.ll vc).held + g ≤ rxLimit vc
    (ws.getLastD 0 ≠ crc32c (ws.take (ws.length - 1)) →
      judge s l ws = setLink s l { b with ll := { b.ll with hunt := true } }) ∧
    (goodPacket ws → g = 1 →
      (fld w0 0 6 = 1 → exec (.ackReceive l seq) s = .next (settle s (cancelEntry (judge s l ws) l))) ∧
      (fld w0 0 6 = 2 → exec (.nakReceive l seq) s = .next (settle s (cancelEntry (judge s l ws) l))) ∧
      (fld w0 0 6 = 3 → exec (.creditReceive l (w0.extractLsb' 6 2) seq) s = .next (settle s (cancelEntry (judge s l ws) l)))) ∧
    (goodPacket ws → 1 < g → seq ≠ exp → judge s l ws = setLink s l (if (exp - seq).toNat ≤ 2048
      then { r with ll := { r.ll with ackDue := true } } else nak r)) ∧
    (∀ c, goodPacket ws → 1 < g → seq = exp → wellFormedTlp w0 = true → messageOf l ws = some c → plain → fits →
      exec c q = .next (settle q (judge s l ws))) ∧
    (goodPacket ws → 1 < g → seq = exp → wellFormedTlp w0 = false → plain → fits → vc ≠ 0 → fld w0 0 6 ≠ 0x11 →
      ¬ (fld w0 0 6 = 0x20 ∧ vc = 2 ∧ 6 < g) →
      judge s l ws = countMalformed (if vc = 2 then q else freeRx (arrive q l vc g) l vc g) l) ∧
    (goodPacket ws → 1 < g → seq = exp → plain → ¬ fits → judge s l ws = linkFail (arrive q l vc g) l 2) ∧
    (goodPacket ws → seq = exp → plain → fld w0 0 6 = 0x20 → vc = 2 → 6 < g → judge s l ws = linkFail q l 3)

/-- Packets are framed from the grains of the stream (R246, R262, R269, R271, R309): the first grain tells the length; a complete
packet is judged, and a good one ends an entry to IDLE or FALLOW; in hunt a grain that begins no framable and good packet is passed over. -/
def Sys2Proof.Claims.PacketsFramed : Prop :=
  ∀ (s : State) (l : Link) (g : Grain) (rest : List Grain), arrives s l → (linkOf s l).ll.frame = g :: rest →
    let ll := (linkOf s l).ll
    let w0 : Word := g.extractLsb' 0 32
    let n := fld w0 8 3 + 1
    let ws := wordsOf (ll.frame.take n)
    (rest.length + 1 < n → (ll.hunt = false ∨ framable w0 = true) → frameStep s l = none) ∧
    (n ≤ rest.length + 1 → (ll.hunt = false ∨ framable w0 = true ∧ goodPacket ws) →
      let u := judge (setLl s l fun b => { b with frame := ll.frame.drop n, hunt := false }) l ws
      frameStep s l = some (if goodPacket ws ∧ (linkOf u l).st = .active then cancelEntry u l else u)) ∧
    (ll.hunt = true → (framable w0 = false ∨ n ≤ rest.length + 1 ∧ ¬ goodPacket ws) →
      frameStep s l = some (setLl s l fun b => { b with frame := rest }))

/-- Packets received (R246, R262, R269 to R271): how packets are framed and judged; and with what the lines bring, no whole grain of the
stream leaves the packets as they are, a packet of one grain with a bad CRC is counted and refused, and a credit packet adds to the credit. -/
def Obligations.PacketsReceived : Prop :=
  PacketsJudged ∧ PacketsFramed ∧
  (∀ (s : State) (l : Link) (lines : Lines), Quiet s → arrives (lineIn s l lines) l →
    let u := lineIn s l lines
    (nextGrain u l = none → ∃ t, exec (.tlpReceive l lines) s = .next t ∧ UpToMarks u t) ∧
    (∀ v g, nextGrain u l = some (v, g) → heldGrains u l = 1 → (linkOf u l).ll.frame = [] → (linkOf u l).ll.hunt = false →
      (linkOf u l).entry = none →
      let w0 : Word := g.extractLsb' 0 32
      let r := linkOf v l
      let got := fun (q : LinkRec) => ∃ t, exec (.tlpReceive l lines) s = .next t ∧ linkOf t l = q ∧
        (∀ m, m ≠ l → linkOf t m = linkOf s m) ∧ UpToMarks { v with links := t.links } t
      fld w0 8 3 = 0 →
      (g.extractLsb' 32 32 ≠ crc32c [w0] → r.ll.nakSent = false →
        got { r with crcErr := r.crcErr + 1, nakCnt := r.nakCnt + 1
                     ll := { r.ll with nakSent := true, nakDue := some (r.ll.rxExp - 1), hunt := true } }) ∧
      (g.extractLsb' 32 32 = crc32c [w0] → fld w0 0 6 = 3 →
        got { r with ll := takeCreditVc r.ll (fld w0 6 2) (w0.extractLsb' 11 12) })))

/-- A link has gone down (R258, R76, R97, R44, R316): DOWN with the hold-off and a fresh link layer, LK_EVT.DOWN and LINK_DOWN set, no
lane locked; its targets' views, sleep codes and levels at their link-down values, and nothing offered or claimed over it;
every other link and every other target as it was. -/
def Sys2Proof.Claims.linkLost (s t : State) (l : Link) : Prop :=
  let r := linkOf t l
  r.st = .down ∧ r.holdoff = true ∧ r.ll = {} ∧ r.rxMask = 0 ∧ r.entry = none ∧ r.exitStep = 0 ∧
  sqOf t (lkEvtOff l) = sqRaise (sqOf s (lkEvtOff l)) 8 ∧ (sqOf t 0x300).flags.getLsbD 2 = true ∧
  (∀ p, p < 4 → (laneOf t l p).lock = false) ∧
  (∀ n, ofLink s l n → (tgtOf t n).pmr = 0 ∧ (tgtOf t n).bpr = 0 ∧ (tgtOf t n).rpr = 0xFF ∧ (tgtOf t n).sleep = 0 ∧
    (tgtOf t n).levels = 0) ∧
  (∀ n, ¬ ofLink s l n → tgtOf t n = tgtOf s n) ∧
  (∀ k o, houseKey k = false → (intOf s k).st = .offeredP ∨ (intOf s k).st = .offeredE → (intOf s k).offer = some o →
    ofLink s l o.target → (intOf t k).offer = none ∧ ((intOf t k).st = .pending ∨ (intOf t k).st = .inactive)) ∧
  (∀ k, houseKey k = false → (intOf s k).st = .active → ofLink s l (intOf s k).holder →
    (intOf t k).st = .completed ∨ (intOf t k).st = .inactive ∨ (intOf t k).st = .pending) ∧
  (∀ m, m ≠ l → linkOf t m = linkOf s m) ∧ t.cfg.live = s.cfg.live ∧ t.cfg.shadow = s.cfg.shadow ∧ t.tb = s.tb ∧
  t.pw = s.pw ∧ t.mbx = s.mbx

/-- Acknowledgement, replay and credit (R273, R274, R277): an acknowledgement frees what it covers, and a value after the last
TLP sent fails the link; a NAK of the TLP after the oldest held, or of a later one, frees as well and replays what is left, and an older one is
ignored (log 88); the replay timer replays too, and the fourth replay in a row without progress fails the link; a cumulative count that is ahead
of the last adds its difference to the credit, and the part's own counts are due again, VC-P's going out first. -/
def Obligations.AckReplayCredit : Prop :=
  ∀ (s : State) (l : Link) (q cum : BitVec 12), Quiet s → arrives s l → (linkOf s l).entry = none → (linkOf s l).ll.cplQ = [] →
    let r := linkOf s l
    let covered := fun x : Tlp => decide ((q - x.seq).toNat < 2048)
    let kept := r.ll.replay.filter fun x => !covered x
    let b := if kept.length = r.ll.replay.length then r.ll
      else { r.ll with replay := kept, rpl := r.ll.rpl.filter fun x => !covered x, noProg := 0 }
    let replayed := fun (b : LinkLayer) => { r with
      replays := r.replays + 1, ll := { b with noProg := b.noProg + 1, rpl := b.replay } }
    ((r.ll.txSeq - 1 - q).toNat < 2048 →
      (∃ t, exec (.ackReceive l q) s = .next t ∧ UpToMarks (setLink s l { r with ll := b }) t) ∧
      (∀ x rest, r.ll.replay = x :: rest →
        (q + 1 = x.seq ∨ covered x = true →
          (kept = [] → ∃ t, exec (.nakReceive l q) s = .next t ∧ UpToMarks (setLink s l { r with ll := b }) t) ∧
          (kept ≠ [] → b.noProg < 3 → ∃ t, exec (.nakReceive l q) s = .next t ∧ UpToMarks (setLink s l (replayed b)) t) ∧
          (kept ≠ [] → 3 ≤ b.noProg → ∃ t, exec (.nakReceive l q) s = .next t ∧ linkLost s t l ∧ (linkOf t l).failCause = 1)) ∧
        (¬ (q + 1 = x.seq ∨ covered x = true) → ∃ t, exec (.nakReceive l q) s = .next t ∧ UpToMarks (setLink s l r) t))) ∧
    (2048 ≤ (r.ll.txSeq - 1 - q).toNat → ∀ c, c = Instr.ackReceive l q ∨ c = Instr.nakReceive l q →
      ∃ t, exec c s = .next t ∧ linkLost s t l ∧ (linkOf t l).failCause = 3) ∧
    ((r.ll.txSeq - 1 - q).toNat < 2048 → r.ll.replay = [] → ∃ t, exec (.nakReceive l q) s = .next t ∧ UpToMarks (setLink s l r) t) ∧
    (r.ll.replay = [] → ∃ t, exec (.replayTimeout l) s = .next t ∧ UpToMarks s t) ∧
    (r.ll.replay ≠ [] → r.ll.noProg < 3 → ∃ t, exec (.replayTimeout l) s = .next t ∧
      UpToMarks (setLink s l (replayed r.ll)) t) ∧
    (r.ll.replay ≠ [] → 3 ≤ r.ll.noProg → ∃ t, exec (.replayTimeout l) s = .next t ∧ linkLost s t l ∧
      (linkOf t l).failCause = 1) ∧
    (let add := fun c : Credit => if (cum - c.last).toNat < 2048
        then { c with freed := c.freed + (cum - c.last).toNat, last := cum } else c
     (∃ t, exec (.creditReceive l 0 cum) s = .next t ∧ UpToMarks (setLink s l { r with ll := { r.ll with p := add r.ll.p } }) t) ∧
     (∃ t, exec (.creditReceive l 1 cum) s = .next t ∧ UpToMarks (setLink s l { r with ll := { r.ll with n := add r.ll.n } }) t) ∧
     (∃ t, exec (.creditReceive l 3 cum) s = .next t ∧ UpToMarks (setLink s l { r with ll := { r.ll with i := add r.ll.i } }) t)) ∧
    (let u := setLink s l { r with ll := { r.ll with crDue := 0xB } }
     (nextClass u l ≠ some .nak → nextClass u l ≠ some .replay → nextClass u l ≠ some .lcp →
       ∃ t, exec (.creditRepeat l) s = .next t ∧ UpToMarks u t) ∧
     (nextClass u l = some .lcp → r.ll.ackDue = false → ∃ t, exec (.creditRepeat l) s = .next t ∧ (linkOf t l).ll.crDue = 0xA ∧
       ∃ p, stripe r.txGroup r.ll.txK = some p ∧
         (laneOf t l p).tx.fifo = (laneOf s l p).tx.fifo ++ [buildLcp 3 0 r.ll.rxP.freed]))

/-! ## Line code and lanes (chapters 10 and 11) -/

/-- The line code (R216, R218, R221 to R227, R229): the receiver gets back the data bits that were sent, and every data grain, with no lane
error; no more than 24 bits alike stand in a row on the line; scrambling twice gives the data back; every MARK passes the receiver's
checks and carries its lane and sequence number; a guard bit ends the run before a MARK or an IDLE; and what stands at a grain boundary is told
apart: a MARK, an IDLE, a guard bit before either, data. -/
def Sys2Proof.Claims.LineCodeIsSound : Prop :=
  (∀ (r : Run) (bs rest : List Bool),
    destuff true bs.length r [] 0 (stuff r bs ++ rest) = some ⟨bs, 0, r.after (stuff r bs), rest⟩) ∧
  (∀ (r : Run) (key rest : List Bool) (g : Grain), ∃ d, destuff true 64 r [] 0 (dataLine r key g ++ rest) = some d ∧
    d.errs = 0 ∧ d.rest = rest ∧ grainOf (scramble (keyFrom 64 key) d.bits) = g) ∧
  (∀ (r : Run) (bs : List Bool) (v : Bool), r.n ≤ 24 →
    ¬ List.replicate 25 v <:+: (List.replicate r.n r.v ++ stuff r bs)) ∧
  (∀ key data : List Bool, data.length ≤ key.length → scramble key (scramble key data) = data) ∧
  (∀ (lane : BitVec 2) (seq : BitVec 8), markValid (mark lane seq) = true ∧ markLane (mark lane seq) = lane ∧
    markSeq (mark lane seq) = seq) ∧
  (∀ (r : Run) (v : Bool), r.n ≠ 0 → (r.after (guardBit r v)).v = !v) ∧
  (∀ (lane : BitVec 2) (seq : BitVec 8) (rest : List Bool),
    startOf (grainBits (mark lane seq) ++ rest) = .mark ∧ startOf (false :: (grainBits (mark lane seq) ++ rest)) = .guard ∧
    startOf (grainBits idleGrain ++ rest) = .idle ∧ startOf (true :: (grainBits idleGrain ++ rest)) = .guard) ∧
  ∀ (r : Run) (key rest : List Bool) (g : Grain), r.n ≤ 24 → startOf (dataLine r key g ++ rest) = .data

/-- A receiver (R227, R228, R231, R232): the search finds a MARK of either polarity; lane errors are counted; eight within 256 grains, or two bad
MARKs in a row, lose the lock. -/
def Sys2Proof.Claims.Receivers : Prop :=
  (∀ (a : LaneRec) (inv : Bool) (lane : BitVec 2) (seq : BitVec 8) (rest : List Bool), a.lock = false →
    a.buf = inv :: (grainBits (polarity inv (mark lane seq)) ++ rest) →
    ∃ b, searchStep a = some b ∧ b.sync = .found ∧ b.inv = inv ∧ b.field = lane ∧ b.seq = seq ∧ b.lock = false ∧
      b.buf = rest.map (xor inv)) ∧
  (∀ (a : LaneRec) (n : Nat), a.sync = .on → (laneErrors n a).errCnt = a.errCnt + BitVec.ofNat 16 n) ∧
  (∀ a : LaneRec, a.sync = .on → (8 ≤ a.errAt.length ∧ a.gno < a.errAt.getD 7 0 + 256 ∨ 2 ≤ a.bad) →
    (judgeLock a).lock = false ∧ (judgeLock a).sync = .search ∧ (judgeLock a).errCnt = a.errCnt) ∧
  ∀ a : LaneRec, (a.errAt.length < 8 ∨ a.errAt.getD 7 0 + 256 ≤ a.gno) → a.bad < 2 → judgeLock a = a

/-- Lanes (R228, R231, R232, R236, R237, R238, R245, R256): a second MARK at its place, with the next sequence number and no lane error between, locks
a lane, whose adaptation then shows in PEAK_NOW; a loss of lock takes the lane from the receive mask; a lane with 64 good MARKs since it
locked again is admitted; the equaliser tracks by one step within its range, once for a good MARK, where LANE_EQ and the feature let it. -/
def Sys2Proof.Claims.Lanes : Prop :=
  ∀ (s : State) (l : Link) (p : BitVec 2), Quiet s → s.pw.mode = .operating →
    let r := linkOf s l
    let a := laneOf s l p.toNat
    let j := if r.reversed = true then 3 - p.toNat else p.toNat
    let w := tabLive s 9 (l.toNat * 4 + p.toNat) 0 0
    let silent := { toSearch a with buf := [] }
    let out := { r with rxMask := r.rxMask &&& ~~~(1#4 <<< j) }
    (∀ peak lead c1 c2, lead ++ c1 ++ c2 = (guardBit a.run true ++ grainBits (mark a.field (a.seq + 1))).map (xor a.inv) → r.st = .align → r.detected.getLsbD p.toNat = true → a.lock = false → a.sync = .found → a.since = 15 → a.wide = false →
      a.odd = false → a.buf = [] → (∀ m, m < 4 → m ≠ p.toNat → (laneOf s l m).buf.length < 34) →
      ∃ t, exec (.grainLock l p peak lead c1 c2) s = .next t ∧
        (laneOf t l p.toNat).lock = true ∧ (laneOf t l p.toNat).polInv = a.inv ∧ (laneOf t l p.toNat).lfield = a.field ∧
        (laneOf t l p.toNat).errCnt = a.errCnt ∧ (laneOf t l p.toNat).peakNow =
          (if a.fixed = true ∨ s.stew.lmcPair = none then BitVec.ofNat 4 (fld w 8 4) else peak) ∧ (linkOf t l).st = .align ∧
        (∀ m, m ≠ l → linkOf t m = linkOf s m) ∧ t.irq.ints = s.irq.ints ∧ t.cfg = s.cfg) ∧
    (a.lock = true →
      ((r.st = .order ∨ r.st = .caps ∨ r.st = .alignAtRate ∨ r.st = .regroup) → ∃ t, exec (.laneLockLoss l p .cdrLoss) s = .next t ∧
        UpToMarks (setLink (setLane s l p.toNat silent) l out) t) ∧
      (r.st = .active → ∃ t, exec (.laneLockLoss l p .cdrLoss) s = .next t ∧ linkOf t l = out ∧
        laneOf t l p.toNat = { silent with fixed := bit w 0 } ∧ UpToMarks { s with links := t.links, lanes := t.lanes } t)) ∧
    (a.lock = false → ∃ t, exec (.laneLockLoss l p .cdrLoss) s = .next t ∧ UpToMarks s t) ∧
    (∀ bits, ∃ t, exec (.laneLockLoss l p (.line bits)) s = .next t ∧ UpToMarks (laneIn s l p.toNat bits) t) ∧
    (r.st = .active → a.lock = true → 64 ≤ a.good → r.detected.getLsbD p.toNat = true → a.lfield.toNat = j →
      ∃ t, exec (.laneReadmit l p) s = .next t ∧ UpToMarks (setLink s l { r with rxMask := r.rxMask ||| (1#4 <<< j) }) t) ∧
    (r.st ≠ .active ∨ a.lock = false ∨ a.good < 64 → ∃ t, exec (.laneReadmit l p) s = .next t ∧ UpToMarks s t) ∧
    (r.st = .active → a.lock = true → a.track = true → a.fixed = false → bit w 1 = true → feat s 6 = true →
      s.stew.lmcPair.isSome = true → ∀ up, ∃ t, exec (.equaliserTracking l p up) s = .next t ∧
        UpToMarks (setLane s l p.toNat { a with track := false, peakNow :=
          if up = true then (if a.peakNow = 15 then 15 else a.peakNow + 1) else (if a.peakNow = 0 then 0 else a.peakNow - 1) }) t) ∧
    (∀ up, r.st ≠ .active ∨ a.lock = false ∨ a.track = false ∨ a.fixed = true ∨ bit w 1 = false →
      ∃ t, exec (.equaliserTracking l p up) s = .next t ∧ UpToMarks s t)

/-- The line code, the receivers, and the lanes. -/
def Obligations.LineCodeAndLanes : Prop := LineCodeIsSound ∧ Receivers ∧ Lanes

/-! ## Training, regroups and power states of links (chapters 11 and 14) -/

/-- The state after a training pass of a link has failed (R250): DOWN with the hold-off, FAILS counted, PASS_FAIL set, no lane locked; two
failures in a row at the rate agreed lower the rate cap. -/
def Sys2Proof.Claims.passFailed (s : State) (l : Link) (late : Bool) : State :=
  let r := linkOf s l
  let low := max 1 (r.agreedRate.toNat - 1)
  dropLanes (setLink (lkEvt s l 16) l { r with
    st := .down, holdoff := true, fails := satInc8 r.fails, rxMask := 0, lastPoll := 0, ll := {}, hs := {}
    rgRate := none, entry := none, exitStep := 0
    rateFails := if late = true then (if r.rateFails = 1 then 0 else r.rateFails + 1) else 0
    rateCap := if late = true ∧ r.rateFails = 1 ∧ low < r.rateCap.toNat then BitVec.ofNat 2 low else r.rateCap }) l

/-- What the part says in training (R241, R242, R248, Table LB-6, Table LP-6): its training grains are ones that a receiver accepts, with its
receive mask and ROLE 0; its capability grains carry their codes, its mask, GO, the rates of the LMC and its credits. -/
def Sys2Proof.Claims.OwnGrains : Prop :=
  (∀ (s : State) (l : Link), let g := ownGrain s l
    (inTp2 (linkOf s l) = true ∨ (linkOf s l).st = .active) → trainingGrainOk g = true ∧ g.getLsbD 6 = false ∧
      g.extractLsb' 8 4 = if (linkOf s l).hs.ready = true ∧ (linkOf s l).st ≠ .active then (linkOf s l).hs.frozen else (linkOf s l).rxMask) ∧
  (∀ (s : State) (r : LinkRec), let g := ownCap0 s r
    g.extractLsb' 0 4 = 5 ∧ g.extractLsb' 16 2 = 2 ∧ (g.extractLsb' 18 3).toNat = s.stew.lmcRates.toNat % 8 ∧
    g.getLsbD 23 = r.hs.go ∧ g.extractLsb' 24 4 = sentMask r ∧ g.extractLsb' 48 8 = 0xB0) ∧
  (ownCap1.extractLsb' 0 4 = 6 ∧ ownCap1.extractLsb' 8 12 = 512 ∧ ownCap1.extractLsb' 20 12 = 128 ∧
    ownCap1.extractLsb' 32 12 = 0xFFF ∧ ownCap1.extractLsb' 44 12 = 256)

/-- The handshakes (R244, R248): READY freezes the receive mask, and comes only after a grain of the step; GO comes only once the far end is
READY and an interval with READY has been sent whole; in CAPS, GO comes with the highest rate and the widest group that both ends can hold. -/
def Sys2Proof.Claims.Handshakes : Prop :=
  ∀ (s : State) (l : Link) (late : Bool),
    let r := linkOf s l
    let q := linkOf (shake s l late) l
    (inTp2 r = true →
      (r.hs.ready = true → q.hs.ready = true ∧ q.hs.frozen = r.hs.frozen ∧ q.rxMask = r.rxMask) ∧
      (r.hs.ready = false → q.hs.ready = true → r.hs.got = true ∧ q.hs.frozen = q.rxMask) ∧
      (r.hs.go = false → q.hs.go = true → q.hs.ready = true ∧ r.hs.farReady = true ∧ r.hs.sentReady = true)) ∧
    (r.st = .caps → r.hs.capHeld = true → r.hs.farReady = true → r.hs.go = false →
      let far := { r with far0 := r.hs.cap0 }
      ∀ c w, 1 ≤ c → c ≤ 3 → c ≤ rateLimit s l far → r.hs.cap0.getLsbD (17 + c) = true →
        (∀ d, c < d → d ≤ 3 → d ≤ rateLimit s l far → r.hs.cap0.getLsbD (17 + d) = false) →
        w ≤ 2 → w ≤ capWidth s l far → hasGroup w r.rxMask = true → hasGroup w r.farMask = true →
        (∀ v, w < v → v ≤ 2 → v ≤ capWidth s l far → hasGroup v r.rxMask = false ∨ hasGroup v r.farMask = false) →
        shake s l late = setLink s l { r with
          agreedRate := BitVec.ofNat 2 c, agreedWidth := BitVec.ofNat 2 w, hs := { r.hs with go := true } }) ∧
    (r.st = .caps → r.hs.capHeld = false ∨ r.hs.farReady = false → shake s l late = s)

/-- Steps of a training pass (R243 to R249, R276, Table LB-4): each step ends once its handshake, or what its lines show, allows it; ALIGN takes the
orientation of the vote, CAPS loads the far end's capabilities, and the last step reaches ACTIVE with the groups of the frozen
mask and the far end's credit, or fails the pass for want of a group, or the link for bad credits. -/
def Sys2Proof.Claims.TrainingSteps : Prop :=
  ∀ (s : State) (l : Link) (info : TrainInfo), Quiet s → s.pw.mode = .operating → linkEn s l = true →
    let r := linkOf s l
    let u := shake (lineIn s l info.lines) l info.late
    let q := linkOf u l
    let next := fun (t : State) => exec (.trainingStepExit l info) s = .next t
    let peaked := fun (t : State) => ∀ p, p < 4 → (laneOf t l p).lock = false ∧ (laneOf t l p).tx.force = true ∧ (laneOf t l p).peakNow =
      if (laneOf s l p).fixed = true ∨ s.stew.lmcPair = none
        then BitVec.ofNat 4 (fld (tabLive s 9 (l.toNat * 4 + p) 0 0) 8 4) else info.peaks.extractLsb' (4 * p) 4
    (r.st = .clock → r.detected &&& ~~~info.good = 0 → ∃ t, next t ∧ linkOf t l = { r with st := .align, hs := {} } ∧ peaked t) ∧
    (r.st = .clock → r.detected &&& ~~~info.good ≠ 0 → ∃ t, next t ∧ UpToMarks s t) ∧
    (q.st = .align → q.hs.sentGo = true → ∃ t, next t ∧ UpToMarks (setLink u l { q with
      st := .order, hs := { latch := q.hs.latch }, reversed := decide ((voters u l false).length < (voters u l true).length) }) t) ∧
    (q.st = .order → q.hs.sentGo = true → ∃ t, next t ∧
      UpToMarks (setLink u l { q with st := .caps, hs := { latch := q.hs.latch } }) t) ∧
    (q.st = .caps → q.hs.go = true → q.hs.farGo = true → ∃ t, next t ∧ linkOf t l = { q with
      st := .rate, hs := { latch := q.hs.latch }, far0 := q.hs.cap0, far1 := q.hs.cap1, far2 := q.hs.cap2 } ∧
      ∀ p, p < 4 → (laneOf t l p).lock = false) ∧
    ((q.st = .align ∨ q.st = .order ∨ q.st = .alignAtRate ∨ q.st = .regroup) → q.hs.sentGo = false → ∃ t, next t ∧ UpToMarks u t) ∧
    (q.st = .caps → q.hs.go = false ∨ q.hs.farGo = false → ∃ t, next t ∧ UpToMarks u t) ∧
    (r.st = .rate → ∃ t, next t ∧ linkOf t l = { r with st := .clockAtRate } ∧
      ∀ p, p < 4 → (laneOf t l p).fixed = bit (tabLive s 9 (l.toNat * 4 + p) 0 0) 0) ∧
    (r.st = .clockAtRate → r.exitStep = 0 → toLogical r.reversed r.rxMask &&& ~~~info.good = 0 →
      ∃ t, next t ∧ linkOf t l = { r with st := .alignAtRate, hs := {} } ∧ peaked t) ∧
    (r.st = .clockAtRate → r.exitStep = 0 → toLogical r.reversed r.rxMask &&& ~~~info.good ≠ 0 → ∃ t, next t ∧ UpToMarks s t) ∧
    (q.st = .alignAtRate → q.exitStep = 0 → q.rgRate = none → q.hs.sentGo = true →
      (∀ w, widthIn q.agreedWidth.toNat q.hs.frozen q.farMask = some w →
        (creditsOk q.far1 = true → groupIn w q.hs.frozen &&& ~~~q.rxMask = 0 →
          ∃ t, next t ∧ linkOf t l = { q with
            st := .active, rate := q.agreedRate, width := BitVec.ofNat 2 w, txGroup := groupIn w q.farMask
            rxGroup := groupIn w q.hs.frozen, fails := 0, rateFails := 0, hs := {}
            ll := { p := { init := (q.far1.extractLsb' 8 12).toNat }, n := { init := (q.far1.extractLsb' 20 12).toNat },
                    i := { init := (q.far1.extractLsb' 44 12).toNat } } } ∧
          (capWidth u l q ≤ w → (∀ c, chosenRate u l q = some c → c ≤ q.agreedRate.toNat) → w ≤ 2 →
            sqOf t (lkEvtOff l) = sqOf s (lkEvtOff l) ∧ sqOf t 0x300 = sqOf s 0x300)) ∧
        (creditsOk q.far1 = false → ∃ t, next t ∧ (linkOf t l).st = .down ∧ (linkOf t l).holdoff = true ∧
          (linkOf t l).failCause = 4)) ∧
      (widthIn q.agreedWidth.toNat q.hs.frozen q.farMask = none → ∃ t, next t ∧ UpToMarks (passFailed u l true) t))

/-- Training (R240 to R251, R257, R330, Table LB-4): after the hold-off an enabled link begins to poll, two polls alike detect its lanes, and
the steps follow in order with their handshakes. A step that times out, and the far end's electrical idle before ACTIVE, fail the pass, in a
rate change the link. -/
def Obligations.Training : Prop :=
  OwnGrains ∧ Handshakes ∧ TrainingSteps ∧
  ∀ (s : State) (l : Link), Quiet s → s.pw.mode = .operating →
    let r := linkOf s l
    let fails := fun (late : Bool) (t : State) => UpToMarks (passFailed s l late) t
    let low := r.st = .clock ∨ r.st = .align ∨ r.st = .order ∨ r.st = .caps
    let high := r.st = .rate ∨ r.st = .clockAtRate ∨ r.st = .alignAtRate
    (r.st = .down → r.holdoff = true →
      (linkEn s l = true → stewardRuns s = true → ∃ t, exec (.trainHoldoffEnd l) s = .next t ∧
        UpToMarks (setLink s l { r with holdoff := false, st := .detect, detected := 0, lastPoll := 0 }) t) ∧
      (linkEn s l = false → ∃ t, exec (.trainHoldoffEnd l) s = .next t ∧ UpToMarks (setLink s l { r with holdoff := false }) t) ∧
      (linkEn s l = true → stewardRuns s = false → ∃ t, exec (.trainHoldoffEnd l) s = .next t ∧ UpToMarks s t)) ∧
    (linkEn s l = true → r.st = .detect → ∀ m,
      (m ≠ 0 → m = r.lastPoll → ∃ t, exec (.detectPoll l m) s = .next t ∧
        linkOf t l = { r with st := .clock, detected := m, lastPoll := 0 } ∧
        ∀ p, p < 4 → (laneOf t l p).fixed = bit (tabLive s 9 (l.toNat * 4 + p) 0 0) 0) ∧
      (m = 0 ∨ m ≠ r.lastPoll → ∃ t, exec (.detectPoll l m) s = .next t ∧
        UpToMarks (setLink s l { r with lastPoll := m, detected := if m = 0 then r.detected else m }) t)) ∧
    (low ∨ r.st = .detect ∧ r.detected ≠ 0 → ∃ t, exec (.trainingStepTimeout l) s = .next t ∧ fails false t) ∧
    (r.st = .detect → r.detected = 0 → ∃ t, exec (.trainingStepTimeout l) s = .next t ∧ UpToMarks s t) ∧
    (high → r.rgRate = none → r.exitStep = 0 → ∃ t, exec (.trainingStepTimeout l) s = .next t ∧ fails true t) ∧
    (∀ x, high → r.rgRate = some x → ∃ t, exec (.trainingStepTimeout l) s = .next t ∧ linkLost s t l ∧
      (linkOf t l).rateCap.toNat = min (min x.toNat r.rgRate0.toNat) r.rateCap.toNat) ∧
    (low → ∃ t, exec (.electricalIdleSeen l) s = .next t ∧ fails false t) ∧
    (r.st = .clockAtRate ∨ r.st = .alignAtRate → r.exitStep ≠ 0 → ∃ t, exec (.electricalIdleSeen l) s = .next t ∧ linkLost s t l ∧
      (linkOf t l).exitFail = 1) ∧
    (r.st = .active ∨ r.st = .regroup → ∃ t, exec (.electricalIdleSeen l) s = .next t ∧ linkLost s t l) ∧
    (r.st = .down ∨ r.st = .detect ∨ r.st = .rate ∨ r.st = .idle ∨ r.st = .fallow ∨ r.st = .wake →
      ∃ t, exec (.electricalIdleSeen l) s = .next t ∧ UpToMarks s t)

/-- The far end's training grains (R242, R244, R252): one that is accepted gives its receive mask; one of step REGROUP or RATE begins a regroup on an
ACTIVE link and is the first of its handshake, and goes on with it during a regroup; any other grain is nothing to the link. -/
def Sys2Proof.Claims.FarGrains : Prop :=
  ∀ (s : State) (l : Link) (g : Grain),
    let r := linkOf s l
    let t := trainingGrainIn s l g
    let heard := fun h : Shake => { h with got := true, farReady := h.farReady || g.getLsbD 4, farGo := h.farGo || g.getLsbD 5 }
    (g.extractLsb' 16 48 ≠ 0 → t = s) ∧
    (g.extractLsb' 16 48 = 0 → (g.extractLsb' 0 4 = 10 ∨ g.extractLsb' 0 4 = 11) →
      (r.st = .active → linkOf t l = { r with
        st := .regroup, rgCap := r.width, rgRate := none, rgWidth0 := r.width, rgRate0 := r.rate, entry := none
        farMask := g.extractLsb' 8 4, hs := heard {}, ll := { r.ll with out := [], frame := [] } }) ∧
      (r.st = .regroup → linkOf t l = { r with farMask := g.extractLsb' 8 4, hs := heard r.hs })) ∧
    (g.extractLsb' 16 48 = 0 → g.extractLsb' 0 4 = 12 → (r.st = .active ∨ r.st = .regroup) →
      linkOf t l = { r with farMask := g.extractLsb' 8 4 })

/-- A regroup ends (R249, R255, R257, R259): ACTIVE at the widest width its masks hold, replaying what the far end has not
acknowledged, with the events of R259, or with the link down; a rate change goes on to RATE. -/
def Sys2Proof.Claims.RegroupEnds : Prop :=
  ∀ (s : State) (l : Link) (info : TrainInfo), Quiet s → s.pw.mode = .operating → linkEn s l = true →
    let u := shake (lineIn s l info.lines) l info.late
    let q := linkOf u l
    q.st = .regroup → q.hs.sentGo = true →
    (q.rgRate = none →
      (∀ w, widthIn q.rgCap.toNat q.hs.frozen q.farMask = some w → groupIn w q.hs.frozen &&& ~~~q.rxMask = 0 →
        ∃ t, exec (.trainingStepExit l info) s = .next t ∧
          let narrow := w < capWidth u l q ∨ ∃ c, chosenRate u l q = some c ∧ q.rate.toNat < c
          linkOf t l = { q with
            st := .active, width := BitVec.ofNat 2 w, txGroup := groupIn w q.farMask, rxGroup := groupIn w q.hs.frozen, hs := {}
            ll := { q.ll with hunt := false, rpl := q.ll.replay, out := [], frame := [], txK := 0, rxK := 0 }
            replays := if q.ll.replay = [] then q.replays else q.replays + 1 } ∧
          ((sqOf t (lkEvtOff l)).flags.getLsbD 0 = true ↔ (sqOf s (lkEvtOff l)).flags.getLsbD 0 = true ∨ narrow) ∧
          ((sqOf t (lkEvtOff l)).flags.getLsbD 1 = true ↔
            (sqOf s (lkEvtOff l)).flags.getLsbD 1 = true ∨ q.rgWidth0.toNat < w) ∧
          ((sqOf t (lkEvtOff l)).flags.getLsbD 2 = true ↔
            (sqOf s (lkEvtOff l)).flags.getLsbD 2 = true ∨ q.rgRate0 ≠ q.rate) ∧
          ((sqOf t 0x300).flags.getLsbD 1 = true ↔ (sqOf s 0x300).flags.getLsbD 1 = true ∨ narrow)) ∧
      (widthIn q.rgCap.toNat q.hs.frozen q.farMask = none → ∃ t, exec (.trainingStepExit l info) s = .next t ∧ linkLost u t l)) ∧
    (∀ x, q.rgRate = some x → ∃ t, exec (.trainingStepExit l info) s = .next t ∧
      linkOf t l = { q with st := .rate, hs := { latch := q.hs.latch } } ∧ ∀ p, p < 4 → (laneOf t l p).lock = false)

/-- Regroups and the ways down (R242, R252 to R260): a broken receive group or a grain of the far end starts a regroup that keeps the
width as its cap, discards what waits to be sent and has every lane begin TP2; a timeout, a link without a group, without a rate, disabled or told
to retrain goes down. -/
def Obligations.Regroups : Prop :=
  FarGrains ∧ RegroupEnds ∧
  ∀ (s : State) (l : Link), Quiet s → s.pw.mode = .operating →
    let r := linkOf s l
    (r.st = .active → r.rxGroup &&& ~~~r.rxMask ≠ 0 → ∃ t, exec (.regroupStart l) s = .next t ∧
      linkOf t l = { r with
        st := .regroup, rgCap := r.width, rgRate := none, rgWidth0 := r.width, rgRate0 := r.rate, entry := none, hs := {}
        ll := { r.ll with out := [], frame := [] } } ∧
      (∀ p, p < 4 → (laneOf t l p).tx.force = true ∧ (laneOf t l p).tx.fifo = []) ∧
      (∀ m, m ≠ l → linkOf t m = linkOf s m) ∧ UpToMarks { s with links := t.links, lanes := t.lanes } t) ∧
    (r.st ≠ .active ∨ r.rxGroup &&& ~~~r.rxMask = 0 → ∃ t, exec (.regroupStart l) s = .next t ∧ UpToMarks s t) ∧
    (∀ lines, ∃ t, exec (.regroupGrainReceived l lines) s = .next t ∧ UpToMarks (shake (lineIn s l lines) l false) t) ∧
    (r.st = .regroup → ∃ t, exec (.regroupTimeout l) s = .next t ∧ linkLost s t l) ∧
    (r.st ≠ .regroup → ∃ t, exec (.regroupTimeout l) s = .next t ∧ UpToMarks s t) ∧
    (∀ lines, let u := lineIn s l lines
      let q := linkOf u l
      ((q.st = .active ∨ q.st = .regroup) → widthIn 2 q.rxMask q.farMask = none →
        ∃ t, exec (.linkDown l lines) s = .next t ∧ linkLost u t l) ∧
      ((q.st ≠ .active ∧ q.st ≠ .regroup) ∨ (widthIn 2 q.rxMask q.farMask).isSome = true →
        ∃ t, exec (.linkDown l lines) s = .next t ∧ UpToMarks u t)) ∧
    (∀ old, linkIsDown r = false → (linkEn s l = false ∨ (linkEn s l = true ∧ (r.st = .active ∨ r.st = .regroup) ∧
        fld old 8 2 = fld (lkCtl s l) 8 2 ∧ chosenRate s l r = none)) →
      (linkOf (linkCommit s l old) l).st = .down ∧ (linkOf (linkCommit s l old) l).holdoff = true ∧
        (sqOf (linkCommit s l old) (lkEvtOff l)).flags.getLsbD 3 = true) ∧
    (linkIsDown r = false → served s true (0xC00 + 0x40 * l.toNat) 4 → ∃ t, exec (.retrain l) s = .next t ∧ linkLost s t l ∧
      (linkOf t l).rateCap = 3 ∧ (linkOf t l).crcErr = 0 ∧ (linkOf t l).replays = 0) ∧
    (r.st = .down → served s true (0xC00 + 0x40 * l.toNat) 4 → ∃ t, exec (.retrain l) s = .next t ∧
      UpToMarks (setLink s l { clearCounts r with rateCap := 3 }) t)

/-- Power states of links (R307 to R313, Table PW-1A): with the conditions of R307 the entry MARK is due, to FALLOW where both ends allow it and
every target sleeps deep; once it has been sent, its answer enters the state, and a packet, a timeout or an exit of the far end in place of the answer ends the entry, so
that the link leaves again; an exit of the part needs its grant, which ends with it, and from FALLOW ends by its handshake; an exit that fails takes the link down. -/
def Obligations.PowerStatesOfLinks : Prop :=
  ∀ (s : State) (l : Link) (byEndpoint : Bool) (lines : Lines), Quiet s → s.pw.mode = .operating →
    let r := linkOf s l
    let ready := r.st = .active ∧ r.entry = none ∧ bit (regLive s (0xC04 + 0x40 * l.toNat)) 0 = true ∧
      r.far2.getLsbD 12 = true ∧ r.ll.replay = [] ∧ r.ll.ackDue = false ∧ r.ll.crDue = 0 ∧ qDlv s l = [] ∧ flaggedOn s l = [] ∧
      ∀ w ∈ s.xl.walks, w.issued = some l → isPost w = true
    let deep := bit (regLive s (0xC04 + 0x40 * l.toNat)) 1 = true ∧ r.far2.getLsbD 13 = true ∧
      ∀ n : Target, tgtEn s n = true → tgtLink s n = l → (tgtOf s n).sleep = 3
    let may := byEndpoint = true ∨ hasGrant s (exitClient l) = true
    let freed := fun (t : State) => hasGrant t (exitClient l) = false ∧ hasReq t (exitClient l) = false ∧ t.irq.tgts = s.irq.tgts ∧
      ∀ m, m ≠ l → linkOf t m = linkOf s m
    (ready → ∃ t, exec (.linkPwrEntry l) s = .next t ∧ ∃ d, (d = true ↔ deep) ∧
      UpToMarks (setLink s l { r with entry := some d }) t) ∧
    (¬ ready → ∃ t, exec (.linkPwrEntry l) s = .next t ∧ UpToMarks s t) ∧
    (r.st = .active → entrySent s l = true →
      (r.entry = some true → ∃ t, exec (.entryMarkAnswer l) s = .next t ∧
        linkOf t l = { r with st := .fallow, entry := none, exitStep := 0, fallEnt := r.fallEnt + 1 } ∧
        t.irq = s.irq ∧ t.cfg = s.cfg) ∧
      (r.entry = some false → ∃ t, exec (.entryMarkAnswer l) s = .next t ∧
        linkOf t l = { r with st := .idle, entry := none, exitStep := 0, idleEnt := r.idleEnt + 1 } ∧
        t.irq = s.irq ∧ t.cfg = s.cfg)) ∧
    (∀ d, r.entry = some d → entrySent s l = true →
      let leaves := fun (t : State) => linkOf t l = { r with
        entry := none, st := if d = true then .wake else .idle, exitStep := 1, entFail := r.entFail + 1 } ∧
        ∀ m, m ≠ l → linkOf t m = linkOf s m
      (∃ t, exec (.entryTimeout l) s = .next t ∧ leaves t) ∧
      (r.st = .active → ∃ t, exec (.creditReceive l 2 0) s = .next t ∧ leaves t)) ∧
    (entrySent s l = false →
      (∃ t, exec (.entryTimeout l) s = .next t ∧ UpToMarks s t) ∧ (∃ t, exec (.entryMarkAnswer l) s = .next t ∧ UpToMarks s t) ∧
      (r.st = .active → ∃ t, exec (.creditReceive l 2 0) s = .next t ∧ linkOf t l = { r with entry := none })) ∧
    (r.st = .idle → 0 < r.exitStep ∨ may → ∃ t, exec (.idleExit l byEndpoint) s = .next t ∧ freed t ∧
      linkOf t l = { r with st := .active, exitStep := 0, ll := { r.ll with txK := 0, rxK := 0 } }) ∧
    (r.st = .active → entrySent s l = true → byEndpoint = true →
      (r.entry = some false → ∃ t, exec (.idleExit l byEndpoint) s = .next t ∧ freed t ∧
        linkOf t l = { r with entry := none, exitStep := 0, ll := { r.ll with txK := 0, rxK := 0 } }) ∧
      (r.entry = some true → ∃ t, exec (.fallowExitStep l ⟨byEndpoint, lines⟩) s = .next t ∧
        linkOf t l = { r with st := .wake, entry := none, exitStep := 1 })) ∧
    ((r.st ≠ .idle ∧ r.st ≠ .active) ∨ (r.st = .idle ∧ r.exitStep = 0 ∧ ¬ may) ∨
        (r.st = .active ∧ (byEndpoint = false ∨ entrySent s l = false ∨ r.entry ≠ some false)) →
      ∃ t, exec (.idleExit l byEndpoint) s = .next t ∧ UpToMarks s t) ∧
    (r.st = .fallow → may → ∃ t, exec (.fallowExitStep l ⟨byEndpoint, lines⟩) s = .next t ∧
      linkOf t l = { r with st := .wake, exitStep := 1 } ∧ ∀ g ∈ t.allot.grants, g.client = exitClient l → g.started = true) ∧
    (r.st = .fallow → ¬ may → ∃ t, exec (.fallowExitStep l ⟨byEndpoint, lines⟩) s = .next t ∧ UpToMarks s t) ∧
    (r.st = .wake → ∃ t, exec (.fallowExitStep l ⟨byEndpoint, lines⟩) s = .next t ∧ UpToMarks (setLink s l
      (if r.exitStep = 1 then { r with exitStep := 2 } else { r with st := .clockAtRate, exitStep := 3 })) t) ∧
    (r.st = .clockAtRate → r.exitStep = 3 → ∃ t, exec (.fallowExitStep l ⟨byEndpoint, lines⟩) s = .next t ∧
      linkOf t l = { r with st := .alignAtRate, exitStep := 4, hs := {} } ∧ ∀ p, p < 4 → (laneOf t l p).lock = false) ∧
    (r.st = .alignAtRate → r.exitStep = 4 →
      let u := shake (lineIn s l lines) l false
      let q := linkOf u l
      (q.hs.sentGo = false → ∃ t, exec (.fallowExitStep l ⟨byEndpoint, lines⟩) s = .next t ∧ UpToMarks u t) ∧
      (q.hs.sentGo = true →
        (∀ w, widthIn q.width.toNat q.hs.frozen q.farMask = some w → groupIn w q.hs.frozen &&& ~~~q.rxMask = 0 →
          ∃ t, exec (.fallowExitStep l ⟨byEndpoint, lines⟩) s = .next t ∧ freed t ∧ linkOf t l = { q with
            st := .active, exitStep := 0, hs := {}, width := BitVec.ofNat 2 w, txGroup := groupIn w q.farMask
            rxGroup := groupIn w q.hs.frozen, ll := { q.ll with txK := 0, rxK := 0 } }) ∧
        (widthIn q.width.toNat q.hs.frozen q.farMask = none → ∃ t, exec (.fallowExitStep l ⟨byEndpoint, lines⟩) s = .next t ∧
          linkLost s t l ∧ (linkOf t l).exitFail = 1))) ∧
    (r.st = .idle ∨ r.st = .wake ∨ 0 < r.exitStep → ∃ t, exec (.powerExitFail l) s = .next t ∧ linkLost s t l ∧
      (linkOf t l).exitFail = 1) ∧
    (r.st = .fallow → r.exitStep = 0 → ∃ t, exec (.powerExitFail l) s = .next t ∧ UpToMarks s t)

/-! ## Allotments (chapter 13) -/

/-- While CCLK runs and the arbiter does not grant (R284, R296, Table MD-5): a budget level and BREQ are adopted, and no request is raised. -/
def Sys2Proof.Claims.AdoptedLater : Prop :=
  ∀ s : State, Quiet s → (s.pw.mode = .load ∨ s.pw.mode = .lastGasp) →
    (∀ level, ∃ t, exec (.budgetLevelAdopt level) s = .next t ∧ t.allot.level = level ∧ t.allot.reqs.length = s.allot.reqs.length ∧
      t.links = s.links ∧ t.cfg.live = s.cfg.live) ∧
    (∀ n : BitVec 3, ∃ t, exec (.breqAdopt n true) s = .next t ∧
      UpToMarks { s with allot := { s.allot with breq := s.allot.breq ||| (1#8 <<< n.toNat) } } t)

/-- The arbiter (R283, R284, R289 to R293, R296 to R298, R302): a budget level adopted sets the budget, with the flag of a change, the overdraft of
a negative FREE and LEAN between its two thresholds, and takes nothing from saffron grants; at most one request a grant, one of cost 0
first, then the first of the saffron tier if it fits, else the first of the normal tier if it fits beside the reserve; BREQ raises and
ends the request of its client; a wake grant that its target does not end and a client that overstays TREVOKE lose their grants. -/
def Obligations.ArbiterEvents : Prop :=
  AdoptedLater ∧ ∀ s : State, Quiet s → (s.pw.mode = .operating ∨ s.pw.mode = .safe) →
    let arb := regLive s 0x410
    (∀ level, ∃ t, exec (.budgetLevelAdopt level) s = .next t ∧ t.allot.level = level ∧
      ((sqOf t 0x300).flags.getLsbD 5 = true ↔ (sqOf s 0x300).flags.getLsbD 5 = true ∨ budget t ≠ budget s) ∧
      (t.allot.overdraft = true ↔ freeAllot t < 0) ∧
      (t.allot.lean = true ↔ budget t < (if s.allot.lean = true then max (fld arb 0 12) (fld arb 12 12) else fld arb 0 12)) ∧
      ((s.allot.grants.map (·.client)).Nodup → ∀ g ∈ s.allot.grants, g.saff = true → (g.started = true ∨ 264 ≤ g.client) →
        g ∈ t.allot.grants) ∧
      t.irq.tgts = s.irq.tgts ∧ t.links = s.links ∧ t.cfg.live = s.cfg.live) ∧
    (∀ (n : BitVec 3),
      let low := (s.allot.breq.getLsbD n.toNat || s.allot.barred.getLsbD n.toNat) = false
      (low → hasReq s (267 + n.toNat) = false → hasGrant s (267 + n.toNat) = false →
        ∃ t, exec (.breqAdopt n true) s = .next t ∧ t.allot.breq = s.allot.breq ||| (1#8 <<< n.toNat) ∧
          hasGrant t (267 + n.toNat) = false ∧
          ∃ q ∈ t.allot.reqs, q.client = 267 + n.toNat ∧ q.order = s.allot.serial ∧ q.exit = none) ∧
      (s.allot.barred.getLsbD n.toNat = true → ∃ t, exec (.breqAdopt n true) s = .next t ∧
        UpToMarks { s with allot := { s.allot with breq := s.allot.breq ||| (1#8 <<< n.toNat) } } t) ∧
      (∃ t, exec (.breqAdopt n false) s = .next t ∧ hasGrant t (267 + n.toNat) = false ∧ hasReq t (267 + n.toNat) = false ∧
        t.allot.breq = s.allot.breq &&& ~~~(1#8 <<< n.toNat) ∧ t.allot.barred = s.allot.barred &&& ~~~(1#8 <<< n.toNat)) ∧
      (s.allot.breq.getLsbD n.toNat = true → (∃ g ∈ s.allot.grants, g.client = 267 + n.toNat ∧ g.revoking = true) →
        ∃ t, exec (.trevokeExpiry n) s = .next t ∧ hasGrant t (267 + n.toNat) = false ∧
          t.allot.cntViol = s.allot.cntViol + 1 ∧ t.allot.barred = s.allot.barred ||| (1#8 <<< n.toNat)) ∧
      (s.allot.breq.getLsbD n.toNat = false → ∃ t, exec (.trevokeExpiry n) s = .next t ∧ UpToMarks s t)) ∧
    (∀ n : Target, ((∃ g ∈ s.allot.grants, g.client = n.toNat ∧ g.started = true) →
        ∃ t, exec (.wakeGrantTimeout n) s = .next t ∧ hasGrant t n.toNat = false) ∧
      ((∀ g ∈ s.allot.grants, g.client = n.toNat → g.started = false) →
        ∃ t, exec (.wakeGrantTimeout n) s = .next t ∧ UpToMarks s t)) ∧
    (s.nv.jobs = [] →
      (nextGrant s = none → ∃ t, exec .allotGrant s = .next t ∧ UpToMarks s t) ∧
      (∀ q saff, nextGrant s = some (q, saff) → ∃ t, exec .allotGrant s = .next t ∧ t.irq.tgts = s.irq.tgts ∧
        (aimMet (makeGrant s q saff) = true → hasReq t q.client = false ∧
          (264 ≤ q.client → ∃ g ∈ t.allot.grants, g.client = q.client ∧
            g.held = clientCost s q.client ∧ g.saff = saff ∧ g.order = s.allot.serial ∧ (g.started = true ↔ 267 ≤ q.client))))) ∧
    (∀ q saff, nextGrant s = some (q, saff) → q ∈ s.allot.reqs ∧ isSaffron s q = saff ∧
      (reqCost s q ≠ 0 → isUnfit s q = false ∧ (∀ p ∈ s.allot.reqs, reqCost s p ≠ 0) ∧
        (∀ p ∈ s.allot.reqs, isSaffron s p = saff → isUnfit s p = false → rankPrio s q ≤ rankPrio s p) ∧
        (saff = true → (reqCost s q : Int) ≤ freeAllot s) ∧
        (saff = false → (reqCost s q : Int) ≤ freeAllot s - (saffRes s : Int) ∧
          ∀ p ∈ s.allot.reqs, isSaffron s p = true → isUnfit s p = false → ∃ h ∈ s.allot.reqs, isSaffron s h = true ∧
            rankPrio s h ≤ rankPrio s p ∧ freeAllot s < (reqCost s h : Int))))

/-! ## Resets, release and test (chapters 15 and 22) -/

/-- What every reset of the whole part leaves (R327 to R329, Table MD-3): RESET; nothing of the configuration, the interrupt path, the
queues, the tenants, the links, the allotments, the mailbox, the engine or a bundle; the straps' and RST_STAT's registers and the store are
kept. -/
def Sys2Proof.Claims.wiped (s t : State) : Prop :=
  t.pw.mode = .reset ∧ t.cfg = {} ∧ t.bus = {} ∧ t.hl = {} ∧ t.irq = {} ∧ t.xl = {} ∧ t.tens = [] ∧ t.links = [] ∧
  t.lanes = [] ∧ t.allot = {} ∧ t.mbx = {} ∧ t.au = {} ∧ t.bun = {} ∧ t.stew.fw = .none ∧ t.pending = s.pending ∧
  (s.nv.op = none → s.nv.gasp = none → t.nv = { mem := s.nv.mem, indet := s.nv.indet })

/-- A warm reset of a cause (R326, R327, Table MD-8): besides, the timebase keeps its phase, its frame count and the length
of the frame in progress (log 74), and RST_STAT is kept until
the release, which records the cause, a power-on that has not been released yet standing before it. -/
def Sys2Proof.Claims.warm (s t : State) (cause : BitVec 4) : Prop :=
  wiped s t ∧ t.tb = { started := s.tb.started, phase := s.tb.phase, len := s.tb.len, frame := s.tb.frame } ∧ t.stew.frames = s.stew.frames ∧
  t.pw.cause = s.pw.cause ∧ t.pw.count = s.pw.count ∧ t.pw.straps = s.pw.straps ∧ t.pw.nporHigh = s.pw.nporHigh ∧
  t.pw.nextCause = (if s.pw.mode = .reset ∧ s.pw.nextCause = 1 then 1 else cause)

/-- Resets and the release (R105, R325 to R328, R330, R331, R340, R486, Tables MD-3, MD-6, MD-8): nPOR in every mode; nRESET and the software warm reset
but in TEST, in SHUTDOWN before the part is cool, and while a gasp record is written, which they wait for; loss of the root PLL; the
end of TEST and of LAST-GASP. nPOR high and a locked PLL let the release sample the straps, record the cause and begin LOAD. -/
def Sys2Proof.Claims.ResetsAndRelease : Prop :=
  ∀ s : State, Quiet s →
    (∃ t, exec .npor s = .next t ∧ wiped s t ∧ t.tb = {} ∧ t.stew = {} ∧ t.pw.nextCause = 1 ∧ t.pw.nporHigh = false ∧
      t.pw.pllLocked = false ∧ t.pw.ir = 2) ∧
    (s.pw.mode ∉ [Mode.shutdown, .test, .lastGasp] → ∃ t, exec .nreset s = .next t ∧ warm s t 2 ∧ t.pw.nresetLow = true) ∧
    (s.pw.mode = .test ∨ (s.pw.mode = .shutdown ∧ allCool s = false) →
      exec .nreset s = .next { s with pw := { s.pw with nresetLow := true } }) ∧
    (s.pw.mode = .shutdown → allCool s = true → ∃ t, exec .nreset s = .next t ∧ warm s t 2 ∧ t.pw.endsShut = true) ∧
    (s.pw.mode = .lastGasp → s.pw.gaspWriting = true →
      exec .nreset s = .next { s with pw := { s.pw with nresetLow := true, deferred := some 2 } }) ∧
    (∀ also, (s.pw.mode = .operating ∨ s.pw.mode = .safe ∨ s.pw.mode = .load) → served s true 0x208 3 →
      (∃ t, exec (.softwareWarmReset 0xA5 also) s = .next t ∧ warm s t 3) ∧
      (∀ key, key ≠ 0xA5 → ∃ t, exec (.softwareWarmReset key also) s = .next t ∧ UpToMarks s t)) ∧
    (served s true 0x208 3 → (s.pw.mode = .operating ∨ s.pw.mode = .safe) → s.pw.stwDown = false →
      ∃ t, exec (.stewardReset 0xA5) s = .next t ∧ t.stew.fw = .none ∧ t.mbx = { epoch := s.mbx.epoch + 1 } ∧
        t.au.ctxs = [] ∧ t.au.slots = [] ∧ t.pw = s.pw ∧ t.cfg.live = s.cfg.live ∧ t.irq.tgts = s.irq.tgts ∧ t.links = s.links ∧
        t.tb = s.tb ∧ t.nv.jobs = [] ∧ hasGrant t cPROGRAM = false ∧ hasGrant t cERASE = false ∧ hasGrant t cAUTH = false) ∧
    (served s true 0x208 3 → ∀ key, key ≠ 0xA5 → ∃ t, exec (.stewardReset key) s = .next t ∧ UpToMarks s t) ∧
    (s.pw.mode ≠ .shutdown → s.pw.pllLocked = true → ∃ t, exec .pllLoss s = .next t ∧ wiped s t ∧ t.pw.pllLocked = false ∧
      t.tb.frame = s.tb.frame) ∧
    (s.pw.mode = .shutdown ∨ s.pw.pllLocked = false → exec .pllLoss s = .next s) ∧
    (s.pw.mode = .test → ∃ t, exec .testExit s = .next t ∧ warm s t 5 ∧ t.pw.ir = 2) ∧
    (s.pw.mode ≠ .test → exec .testExit s = .next s) ∧
    (s.pw.mode = .lastGasp → s.pw.gaspWriting = false → ∃ t, exec .gaspRecovery s = .next t ∧ warm s t 6) ∧
    (s.pw.mode ≠ .lastGasp ∨ s.pw.gaspWriting = true → exec .gaspRecovery s = .next s) ∧
    (s.pw.mode = .reset → s.pw.nporHigh = false → ∀ range,
      exec (.nporRise range) s = .next { s with pw := { s.pw with nporHigh := true, hbRange := range } }) ∧
    (s.pw.mode = .reset → s.pw.nporHigh = true → s.pw.pllLocked = false →
      exec .rootPllLock s = .next { s with pw := { s.pw with pllLocked := true }, tb := { s.tb with started := true } }) ∧
    (∀ (straps : BitVec 5) (level : BitVec 4), s.pw.mode = .reset → s.pw.nporHigh = true → s.pw.pllLocked = true →
      ∃ t, exec (.resetRelease straps level) s = .next t ∧ t.pw.mode = .load ∧ t.pw.straps = straps ∧
        t.pw.cause = s.pw.nextCause ∧ t.pw.shut = s.pw.endsShut ∧
        t.pw.count = (if s.pw.nextCause = 1 then 0 else satInc8 s.pw.count) ∧ t.allot.level = level ∧
        t.tb.mode = (if straps.getLsbD 3 = true then .acquire else .free) ∧ t.irq = s.irq ∧ t.nv = s.nv ∧
        (regLive t 0x1280).extractLsb' 16 5 = ~~~straps) ∧
    (∀ straps level, s.pw.mode ≠ .reset → exec (.resetRelease straps level) s = .next s)

/-- The test access port and the supplies (R342, R486, R487, R490, Table PK-10): a test instruction takes the part to TEST from the modes
that allow it, another changes no mode; a self test ends with its result in the register, in TEST and under its own instruction only; a
supply out of its range makes the outputs float. -/
def Sys2Proof.Claims.TestPort : Prop :=
  ∀ s : State, Quiet s →
    (∀ ir ∈ [(0 : BitVec 5), 4, 5, 6, 8, 9], s.pw.mode ∈ [Mode.reset, .load, .safe, .operating, .fallow] →
      exec (.testEntry ir) s = .next { s with
        allot := { s.allot with reqs := [], grants := [] }
        xl := { s.xl with tcache := [], xcache := [] }
        pw := { s.pw with mode := .test, ir := ir, bist := if ir = 8 ∨ ir = 9 then 0 else s.pw.bist } }) ∧
    (∀ ir, ir ∉ [(0 : BitVec 5), 4, 5, 6, 8, 9] → s.pw.mode ≠ .test →
      exec (.testEntry ir) s = .next { s with pw := { s.pw with ir := ir } }) ∧
    (∀ pass nfail first, s.pw.mode = .test →
      let word := fun test : Nat => (1 : Word) ||| (if pass = true then 2 else 0) ||| BitVec.ofNat 32 (16 * test) |||
        (if pass = true then 0 else BitVec.ofNat 32 (256 * nfail.toNat) ||| BitVec.ofNat 32 (65536 * first.toNat))
      (s.pw.ir = 8 → exec (.bistMem pass nfail first) s = .next { s with pw := { s.pw with bist := word 1 } }) ∧
      (s.pw.ir = 9 → exec (.bistLogic pass nfail first) s = .next { s with pw := { s.pw with bist := word 2 } }) ∧
      (s.pw.ir ≠ 8 → exec (.bistMem pass nfail first) s = .next s) ∧
      (s.pw.ir ≠ 9 → exec (.bistLogic pass nfail first) s = .next s)) ∧
    (∀ out, exec (.supplyOutOfRange out) s = .next { s with pw := { s.pw with supplyOut := out } }) ∧
    (∀ k m n, s.pw.supplyOut = true → woutPin s k = none ∧ mirqPin s m = none ∧ bgntPin s n = none)

/-! ## Emergencies (chapters 15 and 17) -/

/-- Power fail, the gasp record and shutdown (R285, R340, R341, R381 to R383, R390): PFAIL takes the part to LAST-GASP, with a budget of 0,
no grant, and a 256-byte record whose CRC covers it on its way to the armed slot; the record once programmed stands in the store, and a
reset that waited for it acts; a shutdown ends every grant; the armed slot is taken once it is found erased. -/
def Obligations.LastGaspAndShutdown : Prop :=
  ∀ s : State, Quiet s →
    let writes := s.stew.fw = .olumon ∧ s.pw.stwDown = false ∧ s.nv.armed = true
    (s.pw.mode ∈ [Mode.load, .safe, .operating, .fallow] → ∃ t, exec .pfail s = .next t ∧
      t.pw.mode = .lastGasp ∧ t.allot.grants = [] ∧ t.allot.reqs = [] ∧ budget t = 0 ∧
      (t.pw.gaspWriting = true ↔ writes) ∧
      ((sqOf t 0x300).flags.getLsbD 5 = true ↔ (sqOf s 0x300).flags.getLsbD 5 = true ∨ budget s ≠ 0) ∧
      (writes → ∃ g b, t.nv.gasp = some g ∧ g.addr = slotAddr s.nv.slot ∧ g.bytes = b ++ leBytes (crc32c (leWords b)) ∧
        b.length = 252 ∧ b.take 4 = [0x47, 0x41, 0x53, 0x50] ∧ (b.drop 4).take 4 = leBytes s.nv.gseq) ∧
      t.xl.tcache = [] ∧ t.xl.xcache = [] ∧ (t.allot.lean = true ↔ 0 < fld (regLive s 0x410) 0 12) ∧
      t.irq = s.irq ∧ t.links = s.links ∧ t.cfg.live = s.cfg.live ∧ t.tb = s.tb) ∧
    (s.pw.mode ∈ [Mode.reset, .shutdown, .test, .lastGasp] → ∃ t, exec .pfail s = .next t ∧ UpToMarks s t) ∧
    (∀ g, s.nv.gasp = some g → s.nv.op = none → s.pw.mode = .lastGasp →
      (s.pw.deferred = none → ∃ t, exec (.gaspRecordComplete true) s = .next t ∧
        t.nv.gasp = none ∧ t.nv.armed = false ∧ t.pw.gaspWriting = false ∧ t.pw.mode = .lastGasp ∧
        ∀ i, i < g.bytes.length → indetSector s ((g.addr + i) / 4096) = false → nvByte t (g.addr + i) = g.bytes.getD i 0) ∧
      (∀ c, s.pw.deferred = some c → ∃ t, exec (.gaspRecordComplete true) s = .next t ∧ t.pw.mode = .reset ∧
        t.pw.nextCause = c ∧ t.irq = {})) ∧
    (s.nv.gasp = none → ∀ ok, ∃ t, exec (.gaspRecordComplete ok) s = .next t ∧ UpToMarks s t) ∧
    (s.pw.mode ≠ .reset → s.pw.mode ≠ .shutdown → ∃ t, exec .shutdownTrip s = .next t ∧ t.pw.mode = .shutdown ∧
      t.allot.reqs = [] ∧ t.allot.grants = [] ∧ t.xl.tcache = [] ∧ t.xl.xcache = [] ∧ t.irq = s.irq ∧ t.cfg = s.cfg ∧
      t.nv.mem = s.nv.mem) ∧
    (s.pw.mode = .reset ∨ s.pw.mode = .shutdown → exec .shutdownTrip s = .next s) ∧
    (let k := armedSlot s
     (s.nv.wantArm = true → stewardRuns s = true → slotErased s k = true → s.nv.op = none → k % 16 ≠ 0 →
       ∃ t, exec .gaspArming s = .next t ∧ UpToMarks { s with nv := { s.nv with
         armed := true, wantArm := false, slot := k
         gseq := match lastGasp s with | some (_, g) => BitVec.ofNat 32 (g + 1) | none => 1 } } t) ∧
     (s.nv.wantArm = false ∨ slotErased s k = false → ∃ t, exec .gaspArming s = .next t ∧ UpToMarks s t))

/-- Temperature and the wakes of the part (R321, R322, R343, R386 to R389): a round sets the readings, counts the rounds in which a sensor stands
out from the median of the others, fails those out of range or eight rounds out of step, and throttles by the hottest good reading
with its hysteresis, or with two sensors failed; FALLOW ends for an unmasked input, the bus, a BREQ or the temperature, and for PFAIL in
LAST-GASP, but for no beacon. -/
def Obligations.TemperatureAndWakes : Prop :=
  ∀ s : State, Quiet s →
    (∀ a b c d : BitVec 12, s.pw.mode ≠ .reset → s.pw.mode ≠ .test → ∃ t, exec (.thermalRound a b c d) s = .next t ∧
      let x := fun i : Nat => if i = 0 then a.toInt else if i = 1 then b.toInt else if i = 2 then c.toInt else d.toInt
      let o := fun i : Nat => if i = 0 then median (x 1) (x 2) (x 3) else if i = 1 then median (x 0) (x 2) (x 3)
        else if i = 2 then median (x 0) (x 1) (x 3) else median (x 0) (x 1) (x 2)
      let dev := fun i : Nat => if 120 < (x i - o i).natAbs then tabGet s.pw.tDev 0 i + 1 else 0
      let failed := fun i : Nat => t.pw.tFail.getLsbD i = true
      t.pw.t0 = a ∧ t.pw.t1 = b ∧ t.pw.t2 = c ∧ t.pw.t3 = d ∧
      (∀ i, i < 4 → tabGet t.pw.tDev 0 i = dev i ∧
        (failed i ↔ s.pw.tFail.getLsbD i = true ∨ x i < -400 ∨ 1200 < x i ∨ 8 ≤ dev i)) ∧
      ((∃ i j, i < j ∧ j < 4 ∧ failed i ∧ failed j) → t.pw.thr = true) ∧
      ((∀ i j, i < j → j < 4 → ¬ failed i ∨ ¬ failed j) →
        ((∃ i, i < 4 ∧ ¬ failed i ∧ thrThrottle s ≤ x i) → t.pw.thr = true) ∧
        ((∀ i, i < 4 → ¬ failed i → x i < thrThrottle s ∧ x i ≤ thrThrottle s - thrHyst s) → t.pw.thr = false) ∧
        ((∀ i, i < 4 → ¬ failed i → x i < thrThrottle s) →
          (∃ i, i < 4 ∧ ¬ failed i ∧ thrThrottle s - thrHyst s < x i) → t.pw.thr = s.pw.thr)) ∧
      ((∃ i, i < 4 ∧ failed i ∧ s.pw.tFail.getLsbD i = false) → (sqOf t 0x300).flags.getLsbD 6 = true) ∧
      t.pw.mode = s.pw.mode ∧ t.links = s.links ∧ t.irq.tgts = s.irq.tgts ∧ t.cfg.live = s.cfg.live) ∧
    (s.pw.mode = .reset ∨ s.pw.mode = .test → ∀ a b c d, ∃ t, exec (.thermalRound a b c d) s = .next t ∧ UpToMarks s t) ∧
    (s.pw.mode = .fallow →
      (∀ num : BitVec 7, num.toNat < 96 → wMasked s (BitVec.ofNat 24 (32 + num.toNat)) = false →
        ∃ t, exec (.deviceWake .wired num) s = .next t ∧ t.pw = { s.pw with mode := .operating, wakeSrc := 1, wakeNum := num } ∧
          (srcEdge s 0 (BitVec.ofNat 24 (32 + num.toNat)) = true → (intOf s (8192 + 32 + num.toNat)).st = .inactive →
            (intOf t (8192 + 32 + num.toNat)).st = .pending)) ∧
      (∀ num, ∃ t, exec (.deviceWake .bus num) s = .next t ∧ t.pw = { s.pw with mode := .operating, wakeSrc := 2, wakeNum := 0 }) ∧
      (∀ num : BitVec 7, num.toNat < 8 → ∃ t, exec (.deviceWake .breq num) s = .next t ∧
        t.pw = { s.pw with mode := .operating, wakeSrc := 3, wakeNum := num } ∧ t.allot.breq.getLsbD num.toNat = true) ∧
      (∀ num, ∃ t, exec (.deviceWake .pfail num) s = .next t ∧ t.pw.mode = .lastGasp ∧ t.pw.wakeSrc = 4) ∧
      (∀ num, ∃ t, exec (.deviceWake .thermal num) s = .next t ∧
        t.pw = { s.pw with mode := .operating, wakeSrc := 5, wakeNum := 0 }) ∧
      (∀ num, ∃ t, exec (.deviceWake .beacon num) s = .next t ∧ UpToMarks s t)) ∧
    (s.pw.mode ≠ .fallow → ∀ src num, ∃ t, exec (.deviceWake src num) s = .next t ∧ UpToMarks s t)

/-- Resets and the release, and the test access port. -/
def Obligations.ResetsReleaseAndTest : Prop := ResetsAndRelease ∧ TestPort

/-! ## The loader and the Steward's resets (chapter 16) -/

/-- The loader (R330, R337, R348, R353 to R358, Tables SW-5 to SW-7): it tries the banks in the order that BOOTSEL and a trial give, runs the first whose
checks pass, goes on after any failure but UNSUPPORTED_REV, and records its outcome; in LOAD the part then goes to its operating modes or to SAFE
with the ROM monitor, and after a Steward reset it takes the Steward up again or leaves it down; a timeout ends in SAFE; the watchdog
resets the Steward. -/
def Obligations.LoaderRuns : Prop :=
  ∀ (s : State) (e : Ecc), Quiet s → s.nv.jobs = [] →
    let p := readPolicy s
    let force := s.pw.straps.getLsbD 4 = true
    (∀ again b rest, bankOrder s p again = b :: rest →
      let r := loaderDecide s e p again
      let code := fun b => checkFirmware s e p again b
      ((code b).1 = 0 → r.bank = some b ∧ r.outcome = if (code b).2 = true then 1 else 0) ∧
      ((code b).1 = 9 → r.bank = none ∧ r.outcome = 3) ∧
      (∀ c, (code b).1 ≠ 0 → (code b).1 ≠ 9 → rest = [c] →
        ((code c).1 = 0 → r.bank = some c ∧ r.outcome = if (code c).2 = true then 1 else 0) ∧
        ((code c).1 = 9 → r.bank = none ∧ r.outcome = 3) ∧
        ((code c).1 ≠ 0 → (code c).1 ≠ 9 → r.bank = none ∧ r.outcome = 2))) ∧
    (∀ again, (s.pw.straps.extractLsb' 1 2 = 0 → bankOrder s p again = [false, true]) ∧
      (s.pw.straps.extractLsb' 1 2 = 1 → bankOrder s p again = [true, false]) ∧
      (s.pw.straps.extractLsb' 1 2 = 3 → bankOrder s p again = [] ∧ (loaderDecide s e p again).outcome = 4)) ∧
    (s.pw.mode = .load →
      let r := loaderDecide s e p false
      (∀ b, r.bank = some b →
        let src := lmcSource s e p b (imgPair s false b)
        ∃ t, exec (.loaderOutcome e) s = .next t ∧ (force → t.pw.mode = .safe) ∧ (¬ force → t.pw.mode = .operating) ∧
          t.stew.fw = .olumon ∧ t.stew.loadStat = loadStatWord r false src ∧ t.stew.mirror = p ∧
          t.stew.featEn = (if r.outcome = 1 then 0xFF &&& nv32 s (imgAddr false b + 0x18) else 0xFF) ∧
          t.stew.fwVer = nv32 s (imgAddr false b + 8) ∧
          t.stew.lmcPair = (if src = 2 then none else some (imgPair s true (if src = 0 then b else !b))) ∧
          ((sqOf t 0x300).flags.getLsbD 12 = true ↔ (sqOf s 0x300).flags.getLsbD 12 = true ∨ r.outcome = 1 ∨ src = 2) ∧
          t.nv.mem = s.nv.mem) ∧
      (r.bank = none → ∃ t, exec (.loaderOutcome e) s = .next t ∧ t.pw.mode = .safe ∧ t.stew.fw = .monitor ∧
        t.stew.fwVer = 0 ∧ t.stew.loadStat = loadStatWord r false 3 ∧ t.stew.featEn = s.stew.featEn) ∧
      (∃ t, exec .loadTimeout s = .next t ∧ t.pw.mode = .safe ∧ t.pw.loadTmo = true ∧ t.stew.fw = .monitor ∧
        fld t.stew.loadStat 0 4 = 5)) ∧
    (s.pw.mode ≠ .load → ∃ t, exec .loadTimeout s = .next t ∧ UpToMarks s t) ∧
    ((s.pw.mode = .operating ∨ s.pw.mode = .safe) → s.stew.fw = .none → s.pw.stwDown = false →
      let r := loaderDecide s e p true
      (∀ b, r.bank = some b → s.pw.mode = .operating ∨ force → ∃ t, exec (.loaderOutcome e) s = .next t ∧
        t.stew.fw = .olumon ∧ t.pw = s.pw ∧ t.stew.loadStat = loadStatWord r true (fld s.stew.loadStat 8 2)) ∧
      (r.bank = none → s.pw.mode = .operating → ∃ t, exec (.loaderOutcome e) s = .next t ∧ t.stew.fw = .none ∧
        t.pw = { s.pw with stwDown := true }) ∧
      (s.pw.mode = .safe → r.bank = none ∨ ¬ force → ∃ t, exec (.loaderOutcome e) s = .next t ∧ t.stew.fw = .monitor ∧
        t.pw = s.pw)) ∧
    (s.pw.mode ≠ .load → s.stew.fw ≠ .none → ∃ t, exec (.loaderOutcome e) s = .next t ∧ UpToMarks s t) ∧
    ((s.pw.mode = .operating ∨ s.pw.mode = .safe) → s.stew.fw = .olumon → s.pw.stwDown = false →
      ∃ t, exec .watchdogExpiry s = .next t ∧ t.stew.wdog = satInc8 s.stew.wdog ∧ t.stew.fw = .none ∧
        t.mbx = { epoch := s.mbx.epoch + 1 } ∧ t.au.ctxs = [] ∧ t.au.slots = [] ∧ t.pw = s.pw ∧ t.links = s.links) ∧
    (s.stew.fw ≠ .olumon → ∃ t, exec .watchdogExpiry s = .next t ∧ UpToMarks s t)

/-! ## The non-volatile store (chapter 17) -/

/-- The store (R366 to R369, R371, R374, R393): a program of an erased word is what the word then reads, one of a word that is not
erased changes nothing and is flagged, as is one that fails; an erase returns every byte of its sector to 0xFF, and a second failing
one retires the sector; bytes elsewhere stay. An entry that has been appended moves its area on, and the last piece of work done sets
NV_DONE. A journal with fewer than eight erased words is checkpointed into its other sector before other work. -/
def Obligations.StoreOperations : Prop :=
  ∀ s : State, Quiet s → (s.pw.mode = .operating ∨ s.pw.mode = .safe) →
    let flagged := fun (t : State) (k : Nat) => (sqOf t 0x604).flags.getLsbD k = true ∧ (sqOf t 0x300).flags.getLsbD 8 = true
    (∀ addr b, s.nv.op = some (.program addr b) →
      (wordErased s addr = true →
        (∃ t, exec (.nvProgramDone true) s = .next t ∧
          (∀ i, i < b.length → indetSector s ((addr + i) / 4096) = false → nvByte t (addr + i) = b.getD i 0) ∧
          (∀ a, a < addr ∨ addr + b.length ≤ a → nvByte t a = nvByte s a) ∧
          (∀ m ar ty arg v d, s.nv.orphan = false → s.nv.jobs = [⟨m, [.append ar ty arg v d]⟩] →
            areaPos t ar = { areaPos s ar with word := (areaPos s ar).word + 1, eseq := (areaPos s ar).eseq + 1 } ∧
            (sqOf t 0x300).flags.getLsbD 7 = true)) ∧
        (∃ t, exec (.nvProgramDone false) s = .next t ∧ flagged t 2 ∧
          ∀ a, a < addr ∨ addr + 32 ≤ a → nvByte t a = nvByte s a)) ∧
      (wordErased s addr = false → ∀ ok, ∃ t, exec (.nvProgramDone ok) s = .next t ∧ flagged t 1 ∧ t.nv.mem = s.nv.mem ∧
        t.nv.indet = s.nv.indet)) ∧
    (∀ q, s.nv.op = some (.erase q) →
      (∃ t, exec (.nvEraseDone .ok) s = .next t ∧ (∀ i, i < 4096 → nvByte t (4096 * q + i) = 0xFF) ∧
        ∀ a, a / 4096 ≠ q → nvByte t a = nvByte s a) ∧
      (∃ t, exec (.nvEraseDone .fail) s = .next t ∧ flagged t 3 ∧ indetSector t q = true ∧
        (∀ a, a / 4096 ≠ q → nvByte t a = nvByte s a) ∧
        (∀ r rest, s.nv.orphan = false → headItems s = .erase r true :: rest → flagged t 4 ∧ q ∈ t.nv.retired))) ∧
    (s.nv.op = none → (∀ ok, ∃ t, exec (.nvProgramDone ok) s = .next t ∧ UpToMarks s t) ∧
      ∀ o, ∃ t, exec (.nvEraseDone o) s = .next t ∧ UpToMarks s t) ∧
    (s.stew.fw = .olumon → s.pw.stwDown = false → s.nv.op = none → s.nv.ckpt = false → s.nv.journal.sector ≤ 1 →
      (120 < s.nv.journal.word → areaDead s (1 - s.nv.journal.sector) = false → ∃ t, exec .journalCheckpoint s = .next t ∧
        t.nv.ckpt = true ∧ t.nv.jobs = ⟨false,
          .append .journal 1 (BitVec.ofNat 8 (1 - s.nv.journal.sector)) 0 0 :: .erase (1 - s.nv.journal.sector) false ::
            ((upTo 44).map .ckpt ++ [.ckptDone])⟩ :: s.nv.jobs) ∧
      (s.nv.journal.word ≤ 120 → ∃ t, exec .journalCheckpoint s = .next t ∧ UpToMarks s t))

/-! ## The mailbox (chapters 16 to 18) -/

/-- The queue of the mailbox (R360, R361, R392, R442): a command joins it with its arguments, or is rejected when sixteen are in hand or
the buffer is the Steward's; a reply is shown, in the order posted, with MBX set when it comes to the front; a command that the running
Steward does not serve is answered BAD_CMD or NOT_IN_MODE. -/
def Sys2Proof.Claims.MailboxQueue : Prop :=
  ∀ (s : State) (data : Word), Quiet s →
    let op : BitVec 8 := data.extractLsb' 0 8
    let m := s.mbx
    (served s true 0x900 15 →
      (qMbx s < 16 → op ≠ 0x11 ∨ m.bufBusy = false → ∃ t, exec (.mbxCmdWrite 15 data) s = .next t ∧
        UpToMarks { s with mbx := { m with
          bufBusy := m.bufBusy || decide (op = 0x11)
          q := m.q ++ [{ op := op, tag := data.extractLsb' 8 8, a0 := regImm s 0x910, a1 := regImm s 0x914,
                         a2 := regImm s 0x918, a3 := regImm s 0x91C }] } } t) ∧
      (16 ≤ qMbx s ∨ (op = 0x11 ∧ m.bufBusy = true) → ∃ t, exec (.mbxCmdWrite 15 data) s = .next t ∧
        UpToMarks (sqSet s 0x90C 1) t)) ∧
    (stewardRuns s = true → (s.pw.mode = .operating ∨ s.pw.mode = .safe) → s.nv.jobs = [] →
      let posts := fun (m : Mailbox) (r : Reply) (t : State) =>
        let u := { s with mbx := { m with replies := m.replies ++ [r], busy := none, done := none } }
        if m.replies = [] then FlagsSet hMBX u t else UpToMarks u t
      (∀ r, m.done = some r → ∃ t, exec .mbxReplyPost s = .next t ∧ posts m r t) ∧
      (∀ c rest, m.done = none → m.busy = none → m.q = c :: rest →
        (romOps.contains c.op = false → ∃ t, exec .mbxReplyPost s = .next t ∧
          (olumonOps.contains c.op = false → posts { m with q := rest } { op := c.op, tag := c.tag, code := 1 } t) ∧
          (olumonOps.contains c.op = true → s.stew.fw ≠ .olumon →
            posts { m with q := rest } { op := c.op, tag := c.tag, code := 8 } t)) ∧
        (romOps.contains c.op = true → ∃ t, exec .mbxReplyPost s = .next t ∧ UpToMarks s t)) ∧
      (m.done = none → m.busy.isSome = true ∨ m.q = [] → ∃ t, exec .mbxReplyPost s = .next t ∧ UpToMarks s t)) ∧
    (stewardRuns s = true → (s.pw.mode = .operating ∨ s.pw.mode = .safe) → m.done = none →
      ∀ c slot turns code d0 items, m.busy = some c → s.nv.jobs = [⟨true, .engine slot turns code d0 :: items⟩] → 0 < turns →
        (∀ k, k < 4 → (ctxOf s k).owner.isSome = true ∧ (ctxOf s k).owner ≠ some .steward) → ∃ t, exec .mbxReplyPost s = .next t ∧
          t.mbx.replies = m.replies ++ [{ op := c.op, tag := c.tag, code := 3 }] ∧ t.mbx.busy = none ∧ t.nv.jobs = []) ∧
    (served s true 0x904 1 →
      (m.replies = [] → ∃ t, exec .mbxPop s = .next t ∧ UpToMarks s t) ∧
      (∀ r rest, m.replies = r :: rest → ∃ t, exec .mbxPop s = .next t ∧
        let u := { s with mbx := { m with replies := rest } }
        if rest = [] then UpToMarks u t else FlagsSet hMBX u t))

/-- The command `c` stands at the head of the queue of a Steward that serves it and has nothing else in hand. -/
def Sys2Proof.Claims.atHead (s : State) (op : BitVec 8) (c : MbxCmd) (rest : List MbxCmd) : Prop :=
  s.mbx.q = c :: rest ∧ s.mbx.busy = none ∧ c.op = op ∧ stewardRuns s = true ∧ (s.pw.mode = .operating ∨ s.pw.mode = .safe) ∧
  (romOps.contains op = true ∨ (olumonOps.contains op = true ∧ s.stew.fw = .olumon)) ∧ s.nv.jobs = [] ∧ s.nv.op = none ∧
  s.nv.orphan = false

/-- The state once the command has been taken up, and once its answer is at hand. -/
def Sys2Proof.Claims.takenUp (s : State) (c : MbxCmd) (rest : List MbxCmd) : State :=
  { s with mbx := { s.mbx with q := rest, busy := some c } }
def Sys2Proof.Claims.answered (s : State) (c : MbxCmd) (rest : List MbxCmd) (code : BitVec 8) (d0 d1 d2 d3 : Word) : State :=
  { s with mbx := { s.mbx with
      q := rest, busy := some c
      done := some { op := c.op, tag := c.tag, code := code, d0 := d0, d1 := d1, d2 := d2, d3 := d3 } } }

/-- The rows of Tables SW-8, NV-10 and AU-9, with their opcodes. -/
def Sys2Proof.Claims.mailboxRows : List (BitVec 8 × Instr) :=
  [(0x01, .ping), (0x02, .getInfo), (0x10, .imgBegin), (0x11, .imgWrite), (0x12, .imgVerify noEcc), (0x13, .bootTrial),
   (0x14, .commitTrial), (0x15, .switch), (0x20, .setPolicy), (0x30, .bundleBegin), (0x31, .bundleWrite),
   (0x32, .bundleVerify noEcc), (0x33, .bundleApply), (0x34, .bundleConfirm), (0x35, .bundleRollback), (0x36, .bundleInfo),
   (0x37, .keyPut), (0x38, .keyDrop), (0x39, .keyInfo), (0x40, .nvInfo), (0x41, .logRead noEcc), (0x42, .gaspRead noEcc),
   (0x43, .calSave), (0x44, .wearRead), (0x45, .logMark)]

/-- Commands answered at once (R363, R364, R392, R420, Tables SW-8, NV-10, AU-9): what each answers; a verification by the Steward first runs on
the engine, in a context of its own (R395). The packing of the data words of
IMG_VERIFY, NV_INFO, BUNDLE_INFO and KEY_INFO is the model's choice (log 16). A row whose command does not stand at the head does nothing. -/
def Sys2Proof.Claims.MailboxAnswers : Prop :=
  ∀ (s : State) (c : MbxCmd) (rest : List MbxCmd), Quiet s →
    let gives := fun (i : Instr) (code : BitVec 8) (d0 d1 d2 d3 : Word) =>
      ∃ t, exec i s = .next t ∧ UpToMarks (answered s c rest code d0 d1 d2 d3) t
    let a := c.a0.toNat
    let bytes := fun (i : Instr) (x : Nat) => gives i 0 (nv32 s x) (nv32 s (x + 4)) (nv32 s (x + 8)) (nv32 s (x + 12))
    (atHead s 0x01 c rest → gives .ping 0 s.stew.fwVer (s.mbx.epoch.setWidth 32) 0 0) ∧
    (atHead s 0x02 c rest → gives .getInfo 0 s.stew.loadStat s.stew.fwVer s.stew.lmcVer (policyWord s.stew.mirror)) ∧
    (atHead s 0x44 c rest → (255 < a → gives .wearRead 2 0 0 0 0) ∧ (a ≤ 255 → gives .wearRead 0
      (put (eraseCount s a) 0 ||| putB (s.nv.retired.contains a) 16 ||| putB (incomplete s a) 17) 0 0 0)) ∧
    (atHead s 0x40 c rest → gives .nvInfo 0 (nvStat s) (put (topCount s).1 0 ||| put (topCount s).2 16)
      (BitVec.ofNat 32 s.nv.retired.length) (BitVec.ofNat 32 (logEntries s).length)) ∧
    (∀ q, q < 256 → eraseCount s q ≤ (topCount s).1) ∧
    (atHead s 0x41 c rest → (∀ n x, (logEntries s)[a]? = some (n, x) → bytes (.logRead noEcc) (x + if bit c.a1 0 = true then 16 else 0)) ∧
      ((logEntries s).length ≤ a → gives (.logRead noEcc) 2 0 0 0 0)) ∧
    (atHead s 0x42 c rest → (∀ k, (consumedSlots s)[c.a1.toNat]? = some k → a < 16 → bytes (.gaspRead noEcc) (slotAddr k + 16 * a)) ∧
      ((consumedSlots s).length ≤ c.a1.toNat ∨ 16 ≤ a → gives (.gaspRead noEcc) 2 0 0 0 0)) ∧
    (atHead s 0x39 c rest → gives .keyInfo 0 (infoWord s 0) (infoWord s 1) (infoWord s 2) (infoWord s 3)) ∧
    (atHead s 0x36 c rest → if feat s 4 = true ∧ feat s 7 = true
      then gives .bundleInfo 0 (put (statusMask s 0) 0 ||| put (statusMask s 1) 8) (bSeq s 0) (bSeq s 1) (auBstat s)
      else gives .bundleInfo 7 0 0 0 0) ∧
    (atHead s 0x12 c rest →
      let kind := c.a0.extractLsb' 0 2
      let b := bit c.a0 8
      let checks := fun (turns : Nat) (reply : NvItem) => ∃ t, exec (.imgVerify noEcc) s = .next t ∧
        Closed (pump { takenUp s c rest with nv := { s.nv with jobs := [⟨true, [.engine none turns 0 0, reply]⟩] } }) t
      (kind ≠ 1 → kind ≠ 2 → gives (.imgVerify noEcc) 2 0 0 0 0) ∧
      (kind = 2 → let k := checkImage s noEcc s.stew.policy true b
        checks (imgTurns s true b k) (.reply (if k = 0 then 0 else 5) (BitVec.ofNat 32 k) 0 0 0)) ∧
      (kind = 1 → let k := checkFirmware s noEcc s.stew.policy false b
        if k.1 = 0 then checks (fwTurns s noEcc b) (.reply 0 0 (if k.2 = true then 1 else 0)
          (BitVec.ofNat 32 (lmcSource s noEcc s.stew.policy b (imgPair s false b))) 0)
        else checks (imgTurns s false b k.1) (.reply 5 (BitVec.ofNat 32 k.1) (if k.1 = 9 then 3 else 2) 3 0))) ∧
    (∀ m turns code d0 d1 d2 d3, s.nv.jobs = [⟨m, [.engine none turns 0 0, .reply code d0 d1 d2 d3]⟩] → s.mbx.busy = some c →
      stewardRuns s = true → (s.pw.mode = .operating ∨ s.pw.mode = .safe) → s.nv.op = none →
      (∀ k, stewardCtx s = none → freeCtx s = some k → 0 < turns → (pump s).nv.jobs = s.nv.jobs ∧
        ctxOf (pump s) k = { owner := some .steward, st := .run, code := 1, steps := turns } ∧
        (hasReq (pump s) cAUTH = true ∨ hasGrant (pump s) cAUTH = true)) ∧
      (∀ k, stewardCtx s = some k → ctxReady (ctxOf s k) = true → pump s = s) ∧
      (∀ k, stewardCtx s = some k → ctxReady (ctxOf s k) = false → (ctxOf s k).st ≠ .error → (pump s).nv.jobs = [] ∧
        ctxOf (pump s) k = {} ∧ (pump s).mbx.done = some {
          op := c.op, tag := c.tag, code := code, d0 := d0, d1 := d1, d2 := d2, d3 := d3 })) ∧
    (∀ p ∈ mailboxRows, s.mbx.q = [] ∨ s.mbx.busy.isSome = true ∨ (∃ c rest, s.mbx.q = c :: rest ∧ c.op ≠ p.1) →
      ∃ t, exec p.2 s = .next t ∧ UpToMarks s t)

/-- Commands of images, policy, calibration and the log (R352, R364, R376, R379, R392): each is refused with the code the tables give, or
its work of erases, programs and entries is put in hand, in order, with the answer last. -/
def Obligations.ImageAndStoreCommands : Prop :=
  ∀ (s : State) (c : MbxCmd) (rest : List MbxCmd), Quiet s →
    let gives := fun (i : Instr) (code : BitVec 8) => ∃ t, exec i s = .next t ∧ UpToMarks (answered s c rest code 0 0 0 0) t
    let u := takenUp s c rest
    let works := fun (i : Instr) (u : State) (items : List NvItem) =>
      ∃ t, exec i s = .next t ∧ Closed (pump { u with nv := { u.nv with jobs := [⟨true, items⟩] } }) t
    let kind := fld c.a0 0 2
    let bank := bit c.a0 8
    let erases := fun (f n : Nat) => (upTo n).map fun j => NvItem.eraseSector (f + j) false
    let ok : NvItem := .reply 0 0 0 0 0
    let writes := fun (p : Policy) (d : Word) => [NvItem.append .policy 0x50 0 0 (policyData p)] ++
      (if s.stew.fw = .olumon then [NvItem.append .log 0x14 0 (policyWord p) 0] else []) ++ [.policyDone p, .reply 0 d 0 0 0]
    let runs := fun b : Bool => (checkFirmware s noEcc s.stew.policy false b).1 = 0
    let refused := fun b : Bool => [NvItem.engine none (imgTurns s false b (checkFirmware s noEcc s.stew.policy false b).1) 0 0,
      .reply 7 0 0 0 0]
    let proved := fun (b : Bool) (p : Policy) => .engine none (fwTurns s noEcc b) 0 0 :: writes p 0
    (atHead s 0x10 c rest → (kind ≠ 1 → kind ≠ 2 → gives .imgBegin 2) ∧ ((kind = 1 ∨ kind = 2) →
      (imgInUse s kind bank = true → gives .imgBegin 4) ∧
      (imgInUse s kind bank = false →
        let f := if kind = 1 then (if bank = true then 68 else 8) else (if bank = true then 118 else 58)
        works .imgBegin { u with stew := { u.stew with imgKind := BitVec.ofNat 2 kind, imgBank := bank, imgSet := [] } }
          (erases f (if kind = 1 then 50 else 10) ++ [ok])))) ∧
    (atHead s 0x11 c rest →
      let v := { u with mbx := { u.mbx with bufBusy := false } }
      let tells := fun (code : BitVec 8) => ∃ t, exec .imgWrite s = .next t ∧
        UpToMarks { answered s c rest code 0 0 0 0 with mbx := { (answered s c rest code 0 0 0 0).mbx with bufBusy := false } } t
      let k := s.stew.imgKind.toNat
      let f := (imgArea (decide (k = 2)) s.stew.imgBank).1
      let n := (imgArea (decide (k = 2)) s.stew.imgBank).2
      let a := f * 4096 + c.a0.toNat
      (k = 0 → tells 2) ∧
      (k ≠ 0 → imgInUse s k s.stew.imgBank = true → tells 4) ∧
      (k ≠ 0 → imgInUse s k s.stew.imgBank = false →
        (c.a0.toNat % 128 ≠ 0 ∨ n * 4096 < c.a0.toNat + 128 → tells 2) ∧
        (c.a0.toNat % 128 = 0 → c.a0.toNat + 128 ≤ n * 4096 →
          (areaDead s f = true → tells 6) ∧
          (areaDead s f = false → (∃ i, i < 4 ∧ wordErased s (a + 32 * i) = false) ∨ c.a0.toNat / 128 ∈ s.stew.imgSet → tells 2) ∧
          (areaDead s f = false → (∀ i, i < 4 → wordErased s (a + 32 * i) = true) → c.a0.toNat / 128 ∉ s.stew.imgSet →
            works .imgWrite { v with stew := { v.stew with imgSet := s.stew.imgSet ++ [c.a0.toNat / 128] } } (((upTo 4).map fun i => .program (a + 32 * i) (((mbxBuf s).drop (32 * i)).take 32)) ++ [ok]))))) ∧
    (atHead s 0x13 c rest → (1 < c.a0.toNat → gives .bootTrial 2) ∧ (c.a0.toNat ≤ 1 →
      (s.pw.straps.extractLsb' 1 2 ≠ 2 → gives .bootTrial 7) ∧
      (s.pw.straps.extractLsb' 1 2 = 2 → ¬ runs (bit c.a0 0) → works .bootTrial u (refused (bit c.a0 0))) ∧
      (s.pw.straps.extractLsb' 1 2 = 2 → runs (bit c.a0 0) → works .bootTrial u (proved (bit c.a0 0) { s.stew.policy with
        trial := if bit c.a0 0 = true then 2 else 1, attempted := false })))) ∧
    (atHead s 0x14 c rest →
      (bit s.stew.loadStat 6 = false ∨ runBank s = none → gives .commitTrial 7) ∧
      (∀ b, bit s.stew.loadStat 6 = true → runBank s = some b →
        let p := { s.stew.policy with
          active := b, trial := 0, attempted := false
          floor := if bit c.a0 0 = true ∨ s.stew.rollback.toNat ≤ s.stew.policy.floor.toNat then s.stew.policy.floor
            else s.stew.rollback }
        works .commitTrial u (writes p (policyWord p)))) ∧
    (atHead s 0x15 c rest → (1 < c.a0.toNat → gives .switch 2) ∧ (c.a0.toNat ≤ 1 →
      (¬ runs (bit c.a0 0) → works .switch u (refused (bit c.a0 0))) ∧
      (runs (bit c.a0 0) → works .switch u (proved (bit c.a0 0) { s.stew.policy with active := bit c.a0 0 })))) ∧
    (atHead s 0x20 c rest →
      let keys : BitVec 4 := c.a0.extractLsb' 4 4
      (s.stew.fw = .olumon → keys.getLsbD s.stew.keyId.toNat = true → gives .setPolicy 7) ∧
      (s.stew.fw ≠ .olumon ∨ keys.getLsbD s.stew.keyId.toNat = false →
        let p := { s.stew.policy with allow := bit c.a0 0, revoke := s.stew.policy.revoke ||| keys }
        works .setPolicy u (writes p (policyWord p)))) ∧
    (atHead s 0x43 c rest → ∃ n body, body.length = n ∧
      let copy := copyTarget s 4 false
      works .calSave { u with free := u.free + n } (copyWork copy.1 (leBytes 0x42434C41 ++ leBytes copy.2 ++
        leBytes (BitVec.ofNat 32 n) ++ List.replicate 16 0) body ++ [.reply 0 copy.2 0 0 0])) ∧
    (atHead s 0x45 c rest → works .logMark u [.append .log 0x15 (c.a0.setWidth 8) c.a1
      (c.a2.setWidth 96 ||| (c.a3.setWidth 96 <<< 32)), .markDone]) ∧
    (∀ m, s.nv.jobs = [⟨m, [.markDone]⟩] → s.mbx.busy = some c → stewardRuns s = true → (s.pw.mode = .operating ∨ s.pw.mode = .safe) →
      s.nv.op = none → (pump s).nv.jobs = [] ∧ (pump s).mbx.done = some {
        op := c.op, tag := c.tag, code := 0, d0 := s.nv.log.eseq - 1, d1 := 0, d2 := 0, d3 := 0 }) ∧
    (∀ m p x, s.nv.jobs = [⟨m, [.policyDone p, .reply 0 x 0 0 0]⟩] → s.mbx.busy = some c → stewardRuns s = true →
      (s.pw.mode = .operating ∨ s.pw.mode = .safe) → s.nv.op = none → (pump s).nv.jobs = [] ∧ (pump s).stew.policy = p ∧
        (pump s).mbx.done = some { op := c.op, tag := c.tag, code := 0, d0 := x, d1 := 0, d2 := 0, d3 := 0 })

/-- The queue of the mailbox, and the commands that are answered at once. -/
def Obligations.MailboxQueueAndAnswers : Prop := MailboxQueue ∧ MailboxAnswers

/-- Commands of bundles and keys (R400, R401, R405, R409 to R413, R417, R418, R420, Table AU-9): each is refused with the code the table gives, or
its work is put in hand with the answer last; a bundle command is NOT_ALLOWED while sealed bundles are held off; an apply is set
for the bundle's own headland, the one the command names, or 17 commits on. -/
def Obligations.BundleAndKeyCommands : Prop :=
  ∀ (s : State) (c : MbxCmd) (rest : List MbxCmd), Quiet s →
    let a := c.a0.toNat
    let gives := fun (i : Instr) (code : BitVec 8) => ∃ t, exec i s = .next t ∧ UpToMarks (answered s c rest code 0 0 0 0) t
    let u := takenUp s c rest
    let works := fun (i : Instr) (u : State) (items : List NvItem) =>
      ∃ t, exec i s = .next t ∧ Closed (pump { u with nv := { u.nv with jobs := [⟨true, items⟩] } }) t
    let onb := feat s 4 = true ∧ feat s 7 = true
    (∀ p ∈ mailboxRows, 0x30 ≤ p.1 → p.1 ≤ 0x36 → atHead s p.1 c rest → ¬ onb → gives p.2 7) ∧
    (onb → atHead s 0x30 c rest →
      (s.bun.apply = true ∨ s.bun.unconf = true → gives .bundleBegin 7) ∧
      (s.bun.apply = false → s.bun.unconf = false → (a < 128 ∨ 130816 < a → gives .bundleBegin 2) ∧
        (128 ≤ a → a ≤ 130816 →
          let k := stagingSlot s
          works .bundleBegin { u with bun := { u.bun with
              declared := a, wrote := [], stage := some k, floor := BitVec.ofNat 32 (seqFloor s) } }
            (((upTo ((256 + a + 4095) / 4096)).map fun j => .eraseSector ((if k = 0 then 128 else 160) + j) false) ++
              [.reply 0 (k.setWidth 32) 0 0 0])))) ∧
    (onb → atHead s 0x31 c rest → (s.bun.stage = none → gives .bundleWrite 2) ∧
      (∀ k, s.bun.stage = some k →
        let x := bslotAddr k + 256 + a
        (a % 128 ≠ 0 ∨ 130816 < a + 128 → gives .bundleWrite 2) ∧
        (a % 128 = 0 → a + 128 ≤ 130816 →
          (areaDead s (bslotAddr k / 4096) = true → gives .bundleWrite 6) ∧
          (areaDead s (bslotAddr k / 4096) = false → (∃ i, i < 4 ∧ wordErased s (x + 32 * i) = false) ∨ a / 128 ∈ s.bun.wrote →
            gives .bundleWrite 2) ∧
          (areaDead s (bslotAddr k / 4096) = false → (∀ i, i < 4 → wordErased s (x + 32 * i) = true) → a / 128 ∉ s.bun.wrote →
            works .bundleWrite { u with bun := { u.bun with wrote := s.bun.wrote ++ [a / 128] } } (((upTo 4).map fun i => .program (x + 32 * i) (((mbxBuf s).drop (32 * i)).take 32)) ++
              [.reply 0 0 0 0 0]))))) ∧
    (onb → atHead s 0x32 c rest → ∀ k, s.bun.stage = some k →
      let code := bundleCheck s noEcc k (some s.bun.declared) (some s.bun.floor.toNat)
      let engine := NvItem.engine (some (BitVec.ofNat 4 (bKeySlot s k))) (bundleTurns s k code) 5 3
      (code ≠ 0 → works (.bundleVerify noEcc) { u with bun := { u.bun with code := BitVec.ofNat 4 code } }
        [engine, .append .log 0x19 (BitVec.ofNat 8 code) (bSeq s k) 0, .reply 5 (BitVec.ofNat 32 code) 0 0 0]) ∧
      (code = 0 → works (.bundleVerify noEcc) u
        [engine, .program (bslotAddr k) (statusBytes 0 (bSeq s k) (BitVec.ofNat 32 s.bun.floor.toNat)),
         .append .log 0x18 (k.setWidth 8) (bSeq s k) 0,
         .reply 0 (bSeq s k) (bTarget s k) ((bFlags s k).setWidth 32) 0])) ∧
    (onb → atHead s 0x33 c rest →
      (stagedSlot s s.bun.stage = none ∨ s.bun.apply = true → gives .bundleApply 7) ∧
      (∀ k, stagedSlot s s.bun.stage = some k → s.bun.apply = false →
        hasStatus s k 0 = true ∧ hasStatus s k 1 = false ∧
        let n := if bTarget s k ≠ 0 then bTarget s k else if c.a0 = 0 then s.hl.seq + 17 else c.a0
        ((n - s.hl.seq).toNat < 17 ∨ 2 ^ 31 ≤ (n - s.hl.seq).toNat → gives .bundleApply 2) ∧
        (17 ≤ (n - s.hl.seq).toNat → (n - s.hl.seq).toNat < 2 ^ 31 → ∃ t, exec .bundleApply s = .next t ∧
          UpToMarks { answered s c rest 0 n 0 0 0 with bun := { s.bun with
            apply := true, holding := false, late := false, slot := k, bseq := bSeq s k, n := n, kind := .command
            written := false, finishing := false, synced := false } } t))) ∧
    (onb → atHead s 0x34 c rest →
      (s.bun.unconf = false ∨ s.bun.confirm.toNat ≤ (s.hl.seq - s.bun.tSeq).toNat → gives .bundleConfirm 7) ∧
      (s.bun.unconf = true → (s.hl.seq - s.bun.tSeq).toNat < s.bun.confirm.toNat →
        works .bundleConfirm { u with bun := { u.bun with unconf := false } }
          [.program (bslotAddr s.bun.tSlot + 64) (statusBytes 2 (bSeq s s.bun.tSlot) 0),
           .append .log 0x1B (s.bun.tSlot.setWidth 8) (bSeq s s.bun.tSlot) 0, .reply 0 0 0 0 0])) ∧
    (onb → atHead s 0x35 c rest →
      (previousSlot s = none ∨ s.bun.apply = true → gives .bundleRollback 7) ∧
      (∀ k, previousSlot s = some k → s.bun.apply = false → (freeRestored s k).isSome = true →
        (bundleCheck s noEcc k none none = 0 → ∃ t, exec .bundleRollback s = .next t ∧
          t.mbx = (answered s c rest 0 (s.hl.seq + 17) 0 0 0).mbx ∧ t.bun.apply = true ∧ t.bun.slot = k ∧
          t.bun.n = s.hl.seq + 17 ∧ t.bun.kind = .rollback 1 (k + 1)) ∧
        (bundleCheck s noEcc k none none ≠ 0 → ∃ t, exec .bundleRollback s = .next t ∧
          t.mbx = (answered s c rest 7 0 0 0 0).mbx ∧ t.bun.apply = false ∧ t.bun.noAuto = true))) ∧
    (atHead s 0x37 c rest →
      let slot := fld c.a0 0 4
      let kind : BitVec 2 := c.a0.extractLsb' 4 2
      let use : BitVec 3 := c.a0.extractLsb' 8 3
      let len := fld c.a0 16 7
      let form := (kind = 1 ∧ use = 1 ∧ 1 ≤ len ∧ len ≤ 64) ∨ (kind = 2 ∧ use ≠ 0 ∧ use.getLsbD 0 = false ∧ len = 64)
      (¬ form → gives .keyPut 2) ∧
      let copy := NvItem.keyCopy (BitVec.ofNat 4 slot) (some { kind := kind, use := use, bytes := (mbxBuf s).take len }) 1
      (form → s.au.sealed = true → use.getLsbD 2 = true → ∃ turns, (p256Key s (fld c.a1 0 4) 2 = none → turns = 0) ∧
        works .keyPut u [.engine (some (BitVec.ofNat 4 (fld c.a1 0 4))) turns 7 0,
          if putSigned s c slot use (mbxBuf s) = true then copy else .reply 7 0 0 0 0]) ∧
      (form → s.au.sealed = false ∨ use.getLsbD 2 = false → works .keyPut u [copy])) ∧
    (atHead s 0x38 c rest → (15 < a → gives .keyDrop 2) ∧
      (a ≤ 15 → s.au.sealed = true → bundleKeys s = [a] → gives .keyDrop 7) ∧
      (a ≤ 15 → s.au.sealed = false ∨ bundleKeys s ≠ [a] →
        works .keyDrop u [.keyCopy (BitVec.ofNat 4 a) none 2])) ∧
    (∀ m k q gen, s.nv.jobs = [⟨m, [.keyDone k (some q), .reply 0 gen 0 0 0]⟩] → s.mbx.busy = some c → stewardRuns s = true →
      (s.pw.mode = .operating ∨ s.pw.mode = .safe) → s.nv.op = none →
      (pump s).mbx.done = some { op := c.op, tag := c.tag, code := 0, d0 := gen, d1 := 0, d2 := 0, d3 := 0 } ∧
      slotOf (pump s) k.toNat = (if slotInUse s k.toNat = true then { slotOf s k.toNat with next := some q } else { key := some q }) ∧
      (pump s).au.sealed = (s.au.sealed || q.use.getLsbD 2))

/-! ## The authentication engine and bundles (chapter 18) -/

/-- The engine (R394 to R402): a context opens with a key of the right type and use, if one is free and the host holds fewer than three; a
feed is taken while the context waits for one, and ignored with OVERRUN otherwise; under the grant the ready context after the one
served last has one block compressed or one step run, and the last gives the digest, the tag or the verdict, with AUTH; a close or a
timeout frees the context; an erased slot takes its operations to ERROR. -/
def Sys2Proof.Claims.EngineEvents : Prop :=
  ∀ s : State, Quiet s →
    (∀ (alg : BitVec 2) (k : BitVec 4), served s true 0x700 15 →
      let data : Word := alg.setWidth 32 ||| (k.setWidth 32 <<< 8)
      let x := slotOf s k.toNat
      let refuses := fun code : Nat => ∃ t, exec (.auOpen 15 data) s = .next t ∧
        UpToMarks { s with au := { s.au with hstat := (s.au.hstat &&& 3) ||| BitVec.ofNat 8 (16 * code) } } t
      let opens := fun key : List Byte =>
        (freeCtx s = none ∨ 3 ≤ heldBy s .host → refuses 3) ∧
        (∀ c, freeCtx s = some c → heldBy s .host < 3 → ∃ t, exec (.auOpen 15 data) s = .next t ∧
          ctxOf t c = { owner := some .host, alg := alg, slot := k, key := key, hash := shaInit
                        st := if alg = 1 then .run else .ready, todo := if alg = 1 then [hmacPad 0x36 key] else [] } ∧
          t.au.hstat = BitVec.ofNat 8 c ∧ ∀ d, d ≠ c → ctxOf t d = ctxOf s d)
      (alg = 0 → opens []) ∧
      (alg = 3 ∨ (alg = 2 ∧ feat s 7 = false) → refuses 4) ∧
      (alg = 1 ∨ (alg = 2 ∧ feat s 7 = true) →
        (x.next.isSome = true → refuses 5) ∧
        (x.next = none → x.key = none → refuses 4) ∧
        (∀ q, x.next = none → x.key = some q → (q.kind ≠ alg ∨ q.use.getLsbD (alg.toNat - 1) = false → refuses 4) ∧
          (q.kind = alg → q.use.getLsbD (alg.toNat - 1) = true → opens q.bytes)))) ∧
    (∀ (c : BitVec 2) (n : BitVec 7) (last : Bool), served s true 0x708 15 →
      let data : Word := c.setWidth 32 ||| (n.setWidth 32 <<< 8) ||| (if last = true then 0x10000 else 0)
      let x := ctxOf s c.toNat
      let fits := x.owner = some .host ∧ x.st = .ready ∧ x.todo = [] ∧ x.steps = 0 ∧ x.last = false ∧ 1 ≤ n.toNat ∧
        n.toNat ≤ 64 ∧ (n = 64 ∨ last = true)
      (fits → ∃ t, exec (.auFeed 15 data) s = .next t ∧
        (ctxOf t c.toNat).todo = (if last = true
          then shaBlocks (auBuf s n.toNat ++ shaPad (x.bytes + n.toNat + (if x.alg = 1 then 64 else 0))) else [auBuf s 64]) ∧
        (ctxOf t c.toNat).bytes = x.bytes + n.toNat ∧ (ctxOf t c.toNat).last = last ∧ (ctxOf t c.toNat).hash = x.hash ∧
        ∀ d, d ≠ c.toNat → ctxOf t d = ctxOf s d) ∧
      (¬ fits → ∃ t, exec (.auFeed 15 data) s = .next t ∧
        UpToMarks (sqSet { s with au := { s.au with feedCtx := c } } 0x72C 1) t)) ∧
    (∀ c : BitVec 2, served s true 0x70C 15 →
      ((ctxOf s c.toNat).owner = some .host → ∃ t, exec (.auClose 15 (c.setWidth 32)) s = .next t ∧ ctxOf t c.toNat = {} ∧
        ∀ d, d ≠ c.toNat → ctxOf t d = ctxOf s d) ∧
      ((ctxOf s c.toNat).owner ≠ some .host → ∃ t, exec (.auClose 15 (c.setWidth 32)) s = .next t ∧ UpToMarks s t)) ∧
    (∀ k : BitVec 4, served s true 0x720 15 → ∃ t, exec (.auKeyErase 15 (k.setWidth 32 ||| 0x100)) s = .next t ∧
      slotOf t k.toNat = {} ∧ t.au.stale = true ∧ (∀ j, j ≠ k.toNat → slotOf t j = slotOf s j) ∧
      (∀ c, c < 4 → (ctxUses (ctxOf s c) k.toNat = true → (ctxOf t c).st = .error ∧ (ctxOf t c).code = 6 ∧ (ctxOf t c).key = []) ∧
        (ctxUses (ctxOf s c) k.toNat = false → ctxOf t c = ctxOf s c)) ∧
      ((∃ c, c < 4 ∧ ctxUses (ctxOf s c) k.toNat = true ∧ (ctxOf s c).owner = some .host) →
        (sqOf t 0x300).flags.getLsbD 9 = true)) ∧
    ((s.pw.mode = .operating ∨ s.pw.mode = .safe) →
      ((∀ g ∈ s.allot.grants, g.client ≠ cAUTH) → ∃ t, exec .engineTurn s = .next t ∧ UpToMarks s t) ∧
      (∀ g c, (s.allot.grants.find? fun g => g.client = cAUTH) = some g → g.revoking = false → nextCtx s = some c → s.nv.jobs = [] →
        ∃ t, exec .engineTurn s = .next t ∧ t.au.last = BitVec.ofNat 2 c ∧
          let x := ctxOf s c
          (∀ d, d ≠ c → ctxOf t d = ctxOf s d) ∧
          (∀ b r, x.todo = b :: r → (r ≠ [] ∨ x.last = false) →
            (ctxOf t c).hash = shaBlock x.hash b ∧ (ctxOf t c).todo = r ∧ (ctxOf t c).owner = x.owner) ∧
          (∀ b, x.todo = [b] → x.last = true → (x.alg = 0 ∨ (x.alg = 1 ∧ x.outer = true)) →
            (ctxOf t c).st = .done ∧ (ctxOf t c).code = 0 ∧ (ctxOf t c).res = shaBytes (shaBlock x.hash b) ∧
            (x.owner = some .host → (sqOf t 0x300).flags.getLsbD 9 = true)) ∧
          (∀ b, x.todo = [b] → x.last = true → x.alg = 1 → x.outer = false →
            (ctxOf t c).hash = shaInit ∧ (ctxOf t c).outer = true ∧
            (ctxOf t c).todo = [hmacPad 0x5C x.key, shaBytes (shaBlock x.hash b) ++ shaPad 96]) ∧
          (x.todo = [] → x.steps = 1 → x.owner = some .steward → (ctxOf t c).st = .done ∧ (ctxOf t c).code = x.code) ∧
          (∀ g, x.todo = [] → x.steps = 1 → x.owner = some .host → x.sig = some g → (ctxOf t c).st = .done ∧ (ctxOf t c).steps = 0 ∧
            (ctxOf t c).code = (if ecdsa x.key x.digest g = true then 1 else 2)) ∧
          (x.todo = [] → 1 < x.steps → (ctxOf t c).steps = x.steps - 1)) ∧
      (∀ c : BitVec 2,
        ((ctxOf s c.toNat).owner = some .host → (ctxOf s c.toNat).st ≠ .error →
          ∃ t, exec (.auContextTimeout c) s = .next t ∧ ctxOf t c.toNat = { st := .error, code := 7 } ∧
            (sqOf t 0x300).flags.getLsbD 9 = true ∧ ∀ d, d ≠ c.toNat → ctxOf t d = ctxOf s d) ∧
        ((ctxOf s c.toNat).owner ≠ some .host → ∃ t, exec (.auContextTimeout c) s = .next t ∧ UpToMarks s t)))

/-- Bundles in time (R413 to R415, R417, R418): sixteen commits before its headland the hold begins and the shadows take the records, with
every live value as it was; an unconfirmed bundle whose time has run out, or that drift has been seen under, is rolled back to the
one before, or, where that is refused, not rolled back again by itself. -/
def Sys2Proof.Claims.BundleEvents : Prop :=
  ∀ s : State, Quiet s → (s.pw.mode = .operating ∨ s.pw.mode = .safe) → stewardRuns s = true →
    let b := s.bun
    (b.apply = true → b.holding = false → b.finishing = false → (s.hl.seq - (b.n - 16)).toNat < 2 ^ 31 →
      ∃ t, exec (.bundleHoldStart noEcc) s = .next t ∧
        t.bun = { b with holding := true, written := true } ∧ t.hl = { s.hl with bundleHold := true, dirty := true } ∧
        t.cfg.live = s.cfg.live ∧ t.irq = s.irq ∧ t.links = s.links ∧ t.nv.mem = s.nv.mem ∧
        (formatOk s b.slot = true → ∀ r ∈ bodyRecords s b.slot, featOff s r.key = 0 →
          shadowAt t r.key &&& r.hl = r.value &&& r.hl)) ∧
    (b.apply = false ∨ b.holding = true ∨ b.finishing = true ∨ 2 ^ 31 ≤ (s.hl.seq - (b.n - 16)).toNat →
      ∃ t, exec (.bundleHoldStart noEcc) s = .next t ∧ UpToMarks s t) ∧
    (b.unconf = true → b.noAuto = false → b.apply = false →
      (b.confirm.toNat ≤ (s.hl.seq - b.tSeq).toNat ∨ b.drift = true →
        (∀ k, previousSlot s = some k → (freeRestored s k).isSome = true → bundleCheck s noEcc k none none = 0 →
          ∃ t, exec .confirmTimeout s = .next t ∧ UpToMarks { s with bun := { b with
            apply := true, holding := false, late := false, slot := k, bseq := bSeq s k, n := s.hl.seq + 17
            kind := .rollback (if b.drift = true then 3 else 2) (k + 1), written := false, finishing := false
            synced := false } } t) ∧
        (previousSlot s = none → ∃ t, exec .confirmTimeout s = .next t ∧
          UpToMarks { s with bun := { b with noAuto := true } } t)) ∧
      ((s.hl.seq - b.tSeq).toNat < b.confirm.toNat → b.drift = false →
        ∃ t, exec .confirmTimeout s = .next t ∧ UpToMarks s t)) ∧
    (b.unconf = false ∨ b.noAuto = true ∨ b.apply = true → ∃ t, exec .confirmTimeout s = .next t ∧ UpToMarks s t)

/-- The authentication engine, and bundles in time. -/
def Obligations.EngineAndBundleEvents : Prop := EngineEvents ∧ BundleEvents
end

