-- ==== Sys2Proof/Laws/Tables.lean ====
section
/-!
SUPPORT. Laws/Tables.lean: the laws of the sparse tables: what a read after a write gives, and that writes keep the canonical
form; with them the laws of `foldS`.
-/
namespace Sys2Proof.Machine

variable {α : Type}

@[simp] theorem tabGet_nil (d : α) (k : Nat) : tabGet ([] : Tab α) d k = d := rfl

theorem tabGet_cons (d : α) (k j : Nat) (v : α) (t : Tab α) :
    tabGet ((j, v) :: t) d k = if j = k then v else tabGet t d k := rfl

/-- A read after `tabPut`. -/
theorem tabGet_tabPut (t : Tab α) (d : α) (k j : Nat) (v : α) :
    tabGet (tabPut t k v) d j = if j = k then v else tabGet t d j := by
  induction t with
  | nil => simp only [tabPut, tabGet_cons, eq_comm (a := k)]
  | cons p r ih =>
    obtain ⟨i, w⟩ := p
    by_cases h1 : i = k
    · subst h1; by_cases h : j = i <;> simp [tabPut, tabGet_cons, h, eq_comm (a := i)]
    · by_cases h2 : k < i
      · by_cases h : j = k <;> simp [tabPut, tabGet_cons, h1, h2, h, eq_comm (a := k)]
      · by_cases h : j = k
        · subst h; simp [tabPut, tabGet_cons, h1, h2, ih]
        · simp [tabPut, tabGet_cons, h1, h2, h, ih]

/-- A read after `tabErase`. -/
theorem tabGet_tabErase (t : Tab α) (d : α) (k j : Nat) :
    tabGet (tabErase t k) d j = if j = k then d else tabGet t d j := by
  induction t with
  | nil => simp [tabErase]
  | cons p r ih =>
    obtain ⟨i, w⟩ := p
    unfold tabErase at ih ⊢
    by_cases h : i = k
    · subst h; simp only [ne_eq, not_true_eq_false, decide_false, Bool.false_eq_true, not_false_eq_true,
        List.filter_cons_of_neg, ih, tabGet_cons, eq_comm (a := i)]
      split_ifs <;> rfl
    · rw [List.filter_cons_of_pos (by simpa using h)]
      simp only [tabGet_cons, ih]
      split_ifs <;> first | rfl | omega

/-- A read after a write, of the same key or of another. -/
theorem tabGet_tabSet [DecidableEq α] (t : Tab α) (d : α) (k j : Nat) (v : α) :
    tabGet (tabSet t d k v) d j = if j = k then v else tabGet t d j := by
  by_cases h : v = d
  · subst h; rw [tabSet, if_pos rfl]; exact tabGet_tabErase t v k j
  · rw [tabSet, if_neg h]; exact tabGet_tabPut t d k j v

@[simp] theorem tabGet_tabSet_self [DecidableEq α] (t : Tab α) (d : α) (k : Nat) (v : α) :
    tabGet (tabSet t d k v) d k = v := by simp [tabGet_tabSet]

theorem tabGet_tabSet_ne [DecidableEq α] (t : Tab α) (d : α) (k j : Nat) (v : α) (h : j ≠ k) :
    tabGet (tabSet t d k v) d j = tabGet t d j := by simp [tabGet_tabSet, h]

/-- Reads of a table written under one default, taken under another. -/
theorem tabGet_tabSet_ne' [DecidableEq α] (t : Tab α) (d e : α) (k j : Nat) (v : α) (h : j ≠ k) :
    tabGet (tabSet t d k v) e j = tabGet t e j := by
  by_cases e' : v = d
  · rw [tabSet, if_pos e', tabGet_tabErase, if_neg h]
  · rw [tabSet, if_neg e', tabGet_tabPut, if_neg h]

/-! ## The canonical form -/

/-- The canonical form by its two halves: no default listed, keys rising. -/
theorem tabWf_iff [DecidableEq α] (d : Nat → α) (t : Tab α) :
    tabWf d t = true ↔ (∀ p ∈ t, p.2 ≠ d p.1) ∧ t.Pairwise (fun a b => a.1 < b.1) := by
  induction t with
  | nil => simp [tabWf]
  | cons p r ih =>
    obtain ⟨k, v⟩ := p
    cases r with
    | nil => simp [tabWf]
    | cons q r =>
      obtain ⟨j, w⟩ := q
      simp only [tabWf, Bool.and_eq_true, decide_eq_true_eq, ih]
      constructor
      · rintro ⟨⟨hv, hkj⟩, hd, hp⟩
        refine ⟨by simpa using ⟨hv, by simpa using hd⟩, ?_⟩
        refine List.pairwise_cons.2 ⟨?_, hp⟩
        intro b hb
        rcases List.mem_cons.1 hb with rfl | hb
        · exact hkj
        · exact lt_trans hkj ((List.pairwise_cons.1 hp).1 b hb)
      · rintro ⟨hd, hp⟩
        have h1 := List.pairwise_cons.1 hp
        exact ⟨⟨hd (k, v) (by simp), h1.1 (j, w) (by simp)⟩, fun q hq => hd q (by simp [hq]), h1.2⟩

theorem tabErase_wf [DecidableEq α] (d : Nat → α) (t : Tab α) (k : Nat) (h : tabWf d t = true) :
    tabWf d (tabErase t k) = true := by
  rw [tabWf_iff] at h ⊢
  exact ⟨fun p hp => h.1 p (List.mem_of_mem_filter hp), h.2.sublist List.filter_sublist⟩

/-- Any filter keeps the canonical form. -/
theorem filter_wf [DecidableEq α] (d : Nat → α) (t : Tab α) (f : Nat × α → Bool) (h : tabWf d t = true) :
    tabWf d (t.filter f) = true := by
  rw [tabWf_iff] at h ⊢
  exact ⟨fun p hp => h.1 p (List.mem_of_mem_filter hp), h.2.sublist List.filter_sublist⟩

theorem mem_tabPut (t : Tab α) (k : Nat) (v : α) (p : Nat × α) (h : p ∈ tabPut t k v) : p = (k, v) ∨ p ∈ t := by
  induction t with
  | nil => simpa [tabPut] using h
  | cons q r ih =>
    obtain ⟨j, w⟩ := q
    unfold tabPut at h
    split_ifs at h
    · rcases List.mem_cons.1 h with h | h
      · exact .inl h
      · exact .inr (List.mem_cons_of_mem _ h)
    · rcases List.mem_cons.1 h with h | h
      · exact .inl h
      · exact .inr h
    · rcases List.mem_cons.1 h with h | h
      · exact .inr (h ▸ List.mem_cons_self)
      · exact (ih h).imp_right (List.mem_cons_of_mem _)

theorem tabPut_wf [DecidableEq α] (d : Nat → α) (t : Tab α) (k : Nat) (v : α) (hv : v ≠ d k) (h : tabWf d t = true) :
    tabWf d (tabPut t k v) = true := by
  rw [tabWf_iff] at h ⊢
  refine ⟨fun p hp => ?_, ?_⟩
  · rcases mem_tabPut t k v p hp with rfl | hp
    · exact hv
    · exact h.1 p hp
  · replace h := h.2
    induction t with
    | nil => simp [tabPut]
    | cons q r ih =>
      obtain ⟨j, w⟩ := q
      have h1 := List.pairwise_cons.1 h
      unfold tabPut
      split_ifs with e1 e2
      · subst e1; exact List.pairwise_cons.2 ⟨h1.1, h1.2⟩
      · refine List.pairwise_cons.2 ⟨?_, h⟩
        intro b hb
        rcases List.mem_cons.1 hb with rfl | hb
        · exact e2
        · exact lt_trans e2 (h1.1 b hb)
      · refine List.pairwise_cons.2 ⟨?_, ih h1.2⟩
        intro b hb
        rcases mem_tabPut r k v b hb with rfl | hb
        · simp only; omega
        · exact h1.1 b hb

/-- A write keeps the canonical form. -/
theorem tabSet_wf [DecidableEq α] (d : Nat → α) (t : Tab α) (k : Nat) (v : α) (h : tabWf d t = true) :
    tabWf d (tabSet t (d k) k v) = true := by
  unfold tabSet
  split_ifs with e
  · exact tabErase_wf d t k h
  · exact tabPut_wf d t k v e h

/-! ## Folds -/

/-- What one step of a fold keeps, the fold keeps. -/
theorem foldS_keeps {σ β : Type} (P : σ → β) (f : σ → α → σ) (l : List α) (s : σ)
    (h : ∀ s a, P (f s a) = P s) : P (foldS f s l) = P s := by
  unfold foldS
  induction l generalizing s with
  | nil => rfl
  | cons a l ih => simp [ih, h]

/-- What one step of a fold preserves, the fold preserves. -/
theorem foldS_inv {σ : Type} (P : σ → Prop) (f : σ → α → σ) (l : List α) (s : σ) (h0 : P s)
    (h : ∀ s a, P s → P (f s a)) : P (foldS f s l) := by
  unfold foldS
  induction l generalizing s with
  | nil => exact h0
  | cons a l ih => exact ih _ (h _ _ h0)

@[simp] theorem foldS_nil {σ : Type} (f : σ → α → σ) (s : σ) : foldS f s [] = s := rfl
@[simp] theorem foldS_cons {σ : Type} (f : σ → α → σ) (s : σ) (a : α) (l : List α) :
    foldS f s (a :: l) = foldS f (f s a) l := rfl

end Sys2Proof.Machine
end

