-- ==== Sys2Proof/Laws/State.lean ====
section
/-!
SUPPORT. Laws/State.lean: what each update of the state leaves as it was, one lemma per field and update, and what a record
reads after it has been written. No proof needs to unfold an update.
-/
namespace Sys2Proof.Machine

variable (s : State)


/-! ## setShadow -/

@[simp] theorem setShadow_pending (k : Nat) (v : Word) : (setShadow s k v).pending = s.pending := (rfl)
@[simp] theorem setShadow_bus (k : Nat) (v : Word) : (setShadow s k v).bus = s.bus := (rfl)
@[simp] theorem setShadow_tb (k : Nat) (v : Word) : (setShadow s k v).tb = s.tb := (rfl)
@[simp] theorem setShadow_hl (k : Nat) (v : Word) : (setShadow s k v).hl = s.hl := (rfl)
@[simp] theorem setShadow_irq (k : Nat) (v : Word) : (setShadow s k v).irq = s.irq := (rfl)
@[simp] theorem setShadow_xl (k : Nat) (v : Word) : (setShadow s k v).xl = s.xl := (rfl)
@[simp] theorem setShadow_tens (k : Nat) (v : Word) : (setShadow s k v).tens = s.tens := (rfl)
@[simp] theorem setShadow_quiesceLast (k : Nat) (v : Word) : (setShadow s k v).quiesceLast = s.quiesceLast := (rfl)
@[simp] theorem setShadow_links (k : Nat) (v : Word) : (setShadow s k v).links = s.links := (rfl)
@[simp] theorem setShadow_lanes (k : Nat) (v : Word) : (setShadow s k v).lanes = s.lanes := (rfl)
@[simp] theorem setShadow_allot (k : Nat) (v : Word) : (setShadow s k v).allot = s.allot := (rfl)
@[simp] theorem setShadow_pw (k : Nat) (v : Word) : (setShadow s k v).pw = s.pw := (rfl)
@[simp] theorem setShadow_mbx (k : Nat) (v : Word) : (setShadow s k v).mbx = s.mbx := (rfl)
@[simp] theorem setShadow_nv (k : Nat) (v : Word) : (setShadow s k v).nv = s.nv := (rfl)
@[simp] theorem setShadow_stew (k : Nat) (v : Word) : (setShadow s k v).stew = s.stew := (rfl)
@[simp] theorem setShadow_au (k : Nat) (v : Word) : (setShadow s k v).au = s.au := (rfl)
@[simp] theorem setShadow_bun (k : Nat) (v : Word) : (setShadow s k v).bun = s.bun := (rfl)
@[simp] theorem setShadow_now (k : Nat) (v : Word) : (setShadow s k v).now = s.now := (rfl)
@[simp] theorem setShadow_hsAcc (k : Nat) (v : Word) : (setShadow s k v).hsAcc = s.hsAcc := (rfl)
@[simp] theorem setShadow_sqAcc (k : Nat) (v : Word) : (setShadow s k v).sqAcc = s.sqAcc := (rfl)
@[simp] theorem setShadow_free (k : Nat) (v : Word) : (setShadow s k v).free = s.free := (rfl)
@[simp] theorem setShadow_cfg_live (k : Nat) (v : Word) : (setShadow s k v).cfg.live = s.cfg.live := (rfl)
@[simp] theorem setShadow_cfg_im (k : Nat) (v : Word) : (setShadow s k v).cfg.im = s.cfg.im := (rfl)
@[simp] theorem setShadow_cfg_sq (k : Nat) (v : Word) : (setShadow s k v).cfg.sq = s.cfg.sq := (rfl)
@[simp] theorem setShadow_cfg_cnt (k : Nat) (v : Word) : (setShadow s k v).cfg.cnt = s.cfg.cnt := (rfl)
@[simp] theorem liveAt_setShadow (k : Nat) (v : Word) (j : Nat) : liveAt (setShadow s k v) j = liveAt s j := (rfl)
@[simp] theorem imAt_setShadow (k : Nat) (v : Word) (j : Nat) : imAt (setShadow s k v) j = imAt s j := (rfl)
@[simp] theorem sqOf_setShadow (k : Nat) (v : Word) (j : Nat) : sqOf (setShadow s k v) j = sqOf s j := (rfl)
@[simp] theorem cntOf_setShadow (k : Nat) (v : Word) (j : Nat) : cntOf (setShadow s k v) j = cntOf s j := (rfl)
@[simp] theorem tgtOf_setShadow (k : Nat) (v : Word) (u : Target) : tgtOf (setShadow s k v) u = tgtOf s u := (rfl)
@[simp] theorem ptrOf_setShadow (k : Nat) (v : Word) (j : Nat) : ptrOf (setShadow s k v) j = ptrOf s j := (rfl)
@[simp] theorem intOf_setShadow (k : Nat) (v : Word) (j : Nat) : intOf (setShadow s k v) j = intOf s j := (rfl)
@[simp] theorem tenOf_setShadow (k : Nat) (v : Word) (m : Tenant) : tenOf (setShadow s k v) m = tenOf s m := (rfl)
@[simp] theorem linkOf_setShadow (k : Nat) (v : Word) (q : Link) : linkOf (setShadow s k v) q = linkOf s q := (rfl)
@[simp] theorem laneOf_setShadow (k : Nat) (v : Word) (q : Link) (j : Nat) : laneOf (setShadow s k v) q j = laneOf s q j := (rfl)
@[simp] theorem ctxOf_setShadow (k : Nat) (v : Word) (j : Nat) : ctxOf (setShadow s k v) j = ctxOf s j := (rfl)
@[simp] theorem slotOf_setShadow (k : Nat) (v : Word) (j : Nat) : slotOf (setShadow s k v) j = slotOf s j := (rfl)
@[simp] theorem operating_setShadow (k : Nat) (v : Word) : operating (setShadow s k v) = operating s := (rfl)

/-! ## setLive -/

@[simp] theorem setLive_pending (k : Nat) (v : Word) : (setLive s k v).pending = s.pending := (rfl)
@[simp] theorem setLive_bus (k : Nat) (v : Word) : (setLive s k v).bus = s.bus := (rfl)
@[simp] theorem setLive_tb (k : Nat) (v : Word) : (setLive s k v).tb = s.tb := (rfl)
@[simp] theorem setLive_hl (k : Nat) (v : Word) : (setLive s k v).hl = s.hl := (rfl)
@[simp] theorem setLive_irq (k : Nat) (v : Word) : (setLive s k v).irq = s.irq := (rfl)
@[simp] theorem setLive_xl (k : Nat) (v : Word) : (setLive s k v).xl = s.xl := (rfl)
@[simp] theorem setLive_tens (k : Nat) (v : Word) : (setLive s k v).tens = s.tens := (rfl)
@[simp] theorem setLive_quiesceLast (k : Nat) (v : Word) : (setLive s k v).quiesceLast = s.quiesceLast := (rfl)
@[simp] theorem setLive_links (k : Nat) (v : Word) : (setLive s k v).links = s.links := (rfl)
@[simp] theorem setLive_lanes (k : Nat) (v : Word) : (setLive s k v).lanes = s.lanes := (rfl)
@[simp] theorem setLive_allot (k : Nat) (v : Word) : (setLive s k v).allot = s.allot := (rfl)
@[simp] theorem setLive_pw (k : Nat) (v : Word) : (setLive s k v).pw = s.pw := (rfl)
@[simp] theorem setLive_mbx (k : Nat) (v : Word) : (setLive s k v).mbx = s.mbx := (rfl)
@[simp] theorem setLive_nv (k : Nat) (v : Word) : (setLive s k v).nv = s.nv := (rfl)
@[simp] theorem setLive_stew (k : Nat) (v : Word) : (setLive s k v).stew = s.stew := (rfl)
@[simp] theorem setLive_au (k : Nat) (v : Word) : (setLive s k v).au = s.au := (rfl)
@[simp] theorem setLive_bun (k : Nat) (v : Word) : (setLive s k v).bun = s.bun := (rfl)
@[simp] theorem setLive_now (k : Nat) (v : Word) : (setLive s k v).now = s.now := (rfl)
@[simp] theorem setLive_hsAcc (k : Nat) (v : Word) : (setLive s k v).hsAcc = s.hsAcc := (rfl)
@[simp] theorem setLive_sqAcc (k : Nat) (v : Word) : (setLive s k v).sqAcc = s.sqAcc := (rfl)
@[simp] theorem setLive_free (k : Nat) (v : Word) : (setLive s k v).free = s.free := (rfl)
@[simp] theorem setLive_cfg_shadow (k : Nat) (v : Word) : (setLive s k v).cfg.shadow = s.cfg.shadow := (rfl)
@[simp] theorem setLive_cfg_im (k : Nat) (v : Word) : (setLive s k v).cfg.im = s.cfg.im := (rfl)
@[simp] theorem setLive_cfg_sq (k : Nat) (v : Word) : (setLive s k v).cfg.sq = s.cfg.sq := (rfl)
@[simp] theorem setLive_cfg_cnt (k : Nat) (v : Word) : (setLive s k v).cfg.cnt = s.cfg.cnt := (rfl)
@[simp] theorem shadowAt_setLive (k : Nat) (v : Word) (j : Nat) : shadowAt (setLive s k v) j = shadowAt s j := (rfl)
@[simp] theorem imAt_setLive (k : Nat) (v : Word) (j : Nat) : imAt (setLive s k v) j = imAt s j := (rfl)
@[simp] theorem sqOf_setLive (k : Nat) (v : Word) (j : Nat) : sqOf (setLive s k v) j = sqOf s j := (rfl)
@[simp] theorem cntOf_setLive (k : Nat) (v : Word) (j : Nat) : cntOf (setLive s k v) j = cntOf s j := (rfl)
@[simp] theorem tgtOf_setLive (k : Nat) (v : Word) (u : Target) : tgtOf (setLive s k v) u = tgtOf s u := (rfl)
@[simp] theorem ptrOf_setLive (k : Nat) (v : Word) (j : Nat) : ptrOf (setLive s k v) j = ptrOf s j := (rfl)
@[simp] theorem intOf_setLive (k : Nat) (v : Word) (j : Nat) : intOf (setLive s k v) j = intOf s j := (rfl)
@[simp] theorem tenOf_setLive (k : Nat) (v : Word) (m : Tenant) : tenOf (setLive s k v) m = tenOf s m := (rfl)
@[simp] theorem linkOf_setLive (k : Nat) (v : Word) (q : Link) : linkOf (setLive s k v) q = linkOf s q := (rfl)
@[simp] theorem laneOf_setLive (k : Nat) (v : Word) (q : Link) (j : Nat) : laneOf (setLive s k v) q j = laneOf s q j := (rfl)
@[simp] theorem ctxOf_setLive (k : Nat) (v : Word) (j : Nat) : ctxOf (setLive s k v) j = ctxOf s j := (rfl)
@[simp] theorem slotOf_setLive (k : Nat) (v : Word) (j : Nat) : slotOf (setLive s k v) j = slotOf s j := (rfl)
@[simp] theorem operating_setLive (k : Nat) (v : Word) : operating (setLive s k v) = operating s := (rfl)

/-! ## setIm -/

@[simp] theorem setIm_pending (k : Nat) (v : Word) : (setIm s k v).pending = s.pending := (rfl)
@[simp] theorem setIm_bus (k : Nat) (v : Word) : (setIm s k v).bus = s.bus := (rfl)
@[simp] theorem setIm_tb (k : Nat) (v : Word) : (setIm s k v).tb = s.tb := (rfl)
@[simp] theorem setIm_hl (k : Nat) (v : Word) : (setIm s k v).hl = s.hl := (rfl)
@[simp] theorem setIm_irq (k : Nat) (v : Word) : (setIm s k v).irq = s.irq := (rfl)
@[simp] theorem setIm_xl (k : Nat) (v : Word) : (setIm s k v).xl = s.xl := (rfl)
@[simp] theorem setIm_tens (k : Nat) (v : Word) : (setIm s k v).tens = s.tens := (rfl)
@[simp] theorem setIm_quiesceLast (k : Nat) (v : Word) : (setIm s k v).quiesceLast = s.quiesceLast := (rfl)
@[simp] theorem setIm_links (k : Nat) (v : Word) : (setIm s k v).links = s.links := (rfl)
@[simp] theorem setIm_lanes (k : Nat) (v : Word) : (setIm s k v).lanes = s.lanes := (rfl)
@[simp] theorem setIm_allot (k : Nat) (v : Word) : (setIm s k v).allot = s.allot := (rfl)
@[simp] theorem setIm_pw (k : Nat) (v : Word) : (setIm s k v).pw = s.pw := (rfl)
@[simp] theorem setIm_mbx (k : Nat) (v : Word) : (setIm s k v).mbx = s.mbx := (rfl)
@[simp] theorem setIm_nv (k : Nat) (v : Word) : (setIm s k v).nv = s.nv := (rfl)
@[simp] theorem setIm_stew (k : Nat) (v : Word) : (setIm s k v).stew = s.stew := (rfl)
@[simp] theorem setIm_au (k : Nat) (v : Word) : (setIm s k v).au = s.au := (rfl)
@[simp] theorem setIm_bun (k : Nat) (v : Word) : (setIm s k v).bun = s.bun := (rfl)
@[simp] theorem setIm_now (k : Nat) (v : Word) : (setIm s k v).now = s.now := (rfl)
@[simp] theorem setIm_hsAcc (k : Nat) (v : Word) : (setIm s k v).hsAcc = s.hsAcc := (rfl)
@[simp] theorem setIm_sqAcc (k : Nat) (v : Word) : (setIm s k v).sqAcc = s.sqAcc := (rfl)
@[simp] theorem setIm_free (k : Nat) (v : Word) : (setIm s k v).free = s.free := (rfl)
@[simp] theorem setIm_cfg_shadow (k : Nat) (v : Word) : (setIm s k v).cfg.shadow = s.cfg.shadow := (rfl)
@[simp] theorem setIm_cfg_live (k : Nat) (v : Word) : (setIm s k v).cfg.live = s.cfg.live := (rfl)
@[simp] theorem setIm_cfg_sq (k : Nat) (v : Word) : (setIm s k v).cfg.sq = s.cfg.sq := (rfl)
@[simp] theorem setIm_cfg_cnt (k : Nat) (v : Word) : (setIm s k v).cfg.cnt = s.cfg.cnt := (rfl)
@[simp] theorem shadowAt_setIm (k : Nat) (v : Word) (j : Nat) : shadowAt (setIm s k v) j = shadowAt s j := (rfl)
@[simp] theorem liveAt_setIm (k : Nat) (v : Word) (j : Nat) : liveAt (setIm s k v) j = liveAt s j := (rfl)
@[simp] theorem sqOf_setIm (k : Nat) (v : Word) (j : Nat) : sqOf (setIm s k v) j = sqOf s j := (rfl)
@[simp] theorem cntOf_setIm (k : Nat) (v : Word) (j : Nat) : cntOf (setIm s k v) j = cntOf s j := (rfl)
@[simp] theorem tgtOf_setIm (k : Nat) (v : Word) (u : Target) : tgtOf (setIm s k v) u = tgtOf s u := (rfl)
@[simp] theorem ptrOf_setIm (k : Nat) (v : Word) (j : Nat) : ptrOf (setIm s k v) j = ptrOf s j := (rfl)
@[simp] theorem intOf_setIm (k : Nat) (v : Word) (j : Nat) : intOf (setIm s k v) j = intOf s j := (rfl)
@[simp] theorem tenOf_setIm (k : Nat) (v : Word) (m : Tenant) : tenOf (setIm s k v) m = tenOf s m := (rfl)
@[simp] theorem linkOf_setIm (k : Nat) (v : Word) (q : Link) : linkOf (setIm s k v) q = linkOf s q := (rfl)
@[simp] theorem laneOf_setIm (k : Nat) (v : Word) (q : Link) (j : Nat) : laneOf (setIm s k v) q j = laneOf s q j := (rfl)
@[simp] theorem ctxOf_setIm (k : Nat) (v : Word) (j : Nat) : ctxOf (setIm s k v) j = ctxOf s j := (rfl)
@[simp] theorem slotOf_setIm (k : Nat) (v : Word) (j : Nat) : slotOf (setIm s k v) j = slotOf s j := (rfl)
@[simp] theorem operating_setIm (k : Nat) (v : Word) : operating (setIm s k v) = operating s := (rfl)

/-! ## setSq -/

@[simp] theorem setSq_pending (off : Nat) (r : SqReg) : (setSq s off r).pending = s.pending := (rfl)
@[simp] theorem setSq_bus (off : Nat) (r : SqReg) : (setSq s off r).bus = s.bus := (rfl)
@[simp] theorem setSq_tb (off : Nat) (r : SqReg) : (setSq s off r).tb = s.tb := (rfl)
@[simp] theorem setSq_hl (off : Nat) (r : SqReg) : (setSq s off r).hl = s.hl := (rfl)
@[simp] theorem setSq_irq (off : Nat) (r : SqReg) : (setSq s off r).irq = s.irq := (rfl)
@[simp] theorem setSq_xl (off : Nat) (r : SqReg) : (setSq s off r).xl = s.xl := (rfl)
@[simp] theorem setSq_tens (off : Nat) (r : SqReg) : (setSq s off r).tens = s.tens := (rfl)
@[simp] theorem setSq_quiesceLast (off : Nat) (r : SqReg) : (setSq s off r).quiesceLast = s.quiesceLast := (rfl)
@[simp] theorem setSq_links (off : Nat) (r : SqReg) : (setSq s off r).links = s.links := (rfl)
@[simp] theorem setSq_lanes (off : Nat) (r : SqReg) : (setSq s off r).lanes = s.lanes := (rfl)
@[simp] theorem setSq_allot (off : Nat) (r : SqReg) : (setSq s off r).allot = s.allot := (rfl)
@[simp] theorem setSq_pw (off : Nat) (r : SqReg) : (setSq s off r).pw = s.pw := (rfl)
@[simp] theorem setSq_mbx (off : Nat) (r : SqReg) : (setSq s off r).mbx = s.mbx := (rfl)
@[simp] theorem setSq_nv (off : Nat) (r : SqReg) : (setSq s off r).nv = s.nv := (rfl)
@[simp] theorem setSq_stew (off : Nat) (r : SqReg) : (setSq s off r).stew = s.stew := (rfl)
@[simp] theorem setSq_au (off : Nat) (r : SqReg) : (setSq s off r).au = s.au := (rfl)
@[simp] theorem setSq_bun (off : Nat) (r : SqReg) : (setSq s off r).bun = s.bun := (rfl)
@[simp] theorem setSq_now (off : Nat) (r : SqReg) : (setSq s off r).now = s.now := (rfl)
@[simp] theorem setSq_hsAcc (off : Nat) (r : SqReg) : (setSq s off r).hsAcc = s.hsAcc := (rfl)
@[simp] theorem setSq_sqAcc (off : Nat) (r : SqReg) : (setSq s off r).sqAcc = s.sqAcc := (rfl)
@[simp] theorem setSq_free (off : Nat) (r : SqReg) : (setSq s off r).free = s.free := (rfl)
@[simp] theorem setSq_cfg_shadow (off : Nat) (r : SqReg) : (setSq s off r).cfg.shadow = s.cfg.shadow := (rfl)
@[simp] theorem setSq_cfg_live (off : Nat) (r : SqReg) : (setSq s off r).cfg.live = s.cfg.live := (rfl)
@[simp] theorem setSq_cfg_im (off : Nat) (r : SqReg) : (setSq s off r).cfg.im = s.cfg.im := (rfl)
@[simp] theorem setSq_cfg_cnt (off : Nat) (r : SqReg) : (setSq s off r).cfg.cnt = s.cfg.cnt := (rfl)
@[simp] theorem shadowAt_setSq (off : Nat) (r : SqReg) (j : Nat) : shadowAt (setSq s off r) j = shadowAt s j := (rfl)
@[simp] theorem liveAt_setSq (off : Nat) (r : SqReg) (j : Nat) : liveAt (setSq s off r) j = liveAt s j := (rfl)
@[simp] theorem imAt_setSq (off : Nat) (r : SqReg) (j : Nat) : imAt (setSq s off r) j = imAt s j := (rfl)
@[simp] theorem cntOf_setSq (off : Nat) (r : SqReg) (j : Nat) : cntOf (setSq s off r) j = cntOf s j := (rfl)
@[simp] theorem tgtOf_setSq (off : Nat) (r : SqReg) (u : Target) : tgtOf (setSq s off r) u = tgtOf s u := (rfl)
@[simp] theorem ptrOf_setSq (off : Nat) (r : SqReg) (j : Nat) : ptrOf (setSq s off r) j = ptrOf s j := (rfl)
@[simp] theorem intOf_setSq (off : Nat) (r : SqReg) (j : Nat) : intOf (setSq s off r) j = intOf s j := (rfl)
@[simp] theorem tenOf_setSq (off : Nat) (r : SqReg) (m : Tenant) : tenOf (setSq s off r) m = tenOf s m := (rfl)
@[simp] theorem linkOf_setSq (off : Nat) (r : SqReg) (q : Link) : linkOf (setSq s off r) q = linkOf s q := (rfl)
@[simp] theorem laneOf_setSq (off : Nat) (r : SqReg) (q : Link) (j : Nat) : laneOf (setSq s off r) q j = laneOf s q j := (rfl)
@[simp] theorem ctxOf_setSq (off : Nat) (r : SqReg) (j : Nat) : ctxOf (setSq s off r) j = ctxOf s j := (rfl)
@[simp] theorem slotOf_setSq (off : Nat) (r : SqReg) (j : Nat) : slotOf (setSq s off r) j = slotOf s j := (rfl)
@[simp] theorem operating_setSq (off : Nat) (r : SqReg) : operating (setSq s off r) = operating s := (rfl)

/-! ## sqSet -/

@[simp] theorem sqSet_pending (off : Nat) (f : BitVec 24) : (sqSet s off f).pending = s.pending := (rfl)
@[simp] theorem sqSet_bus (off : Nat) (f : BitVec 24) : (sqSet s off f).bus = s.bus := (rfl)
@[simp] theorem sqSet_tb (off : Nat) (f : BitVec 24) : (sqSet s off f).tb = s.tb := (rfl)
@[simp] theorem sqSet_hl (off : Nat) (f : BitVec 24) : (sqSet s off f).hl = s.hl := (rfl)
@[simp] theorem sqSet_irq (off : Nat) (f : BitVec 24) : (sqSet s off f).irq = s.irq := (rfl)
@[simp] theorem sqSet_xl (off : Nat) (f : BitVec 24) : (sqSet s off f).xl = s.xl := (rfl)
@[simp] theorem sqSet_tens (off : Nat) (f : BitVec 24) : (sqSet s off f).tens = s.tens := (rfl)
@[simp] theorem sqSet_quiesceLast (off : Nat) (f : BitVec 24) : (sqSet s off f).quiesceLast = s.quiesceLast := (rfl)
@[simp] theorem sqSet_links (off : Nat) (f : BitVec 24) : (sqSet s off f).links = s.links := (rfl)
@[simp] theorem sqSet_lanes (off : Nat) (f : BitVec 24) : (sqSet s off f).lanes = s.lanes := (rfl)
@[simp] theorem sqSet_allot (off : Nat) (f : BitVec 24) : (sqSet s off f).allot = s.allot := (rfl)
@[simp] theorem sqSet_pw (off : Nat) (f : BitVec 24) : (sqSet s off f).pw = s.pw := (rfl)
@[simp] theorem sqSet_mbx (off : Nat) (f : BitVec 24) : (sqSet s off f).mbx = s.mbx := (rfl)
@[simp] theorem sqSet_nv (off : Nat) (f : BitVec 24) : (sqSet s off f).nv = s.nv := (rfl)
@[simp] theorem sqSet_stew (off : Nat) (f : BitVec 24) : (sqSet s off f).stew = s.stew := (rfl)
@[simp] theorem sqSet_au (off : Nat) (f : BitVec 24) : (sqSet s off f).au = s.au := (rfl)
@[simp] theorem sqSet_bun (off : Nat) (f : BitVec 24) : (sqSet s off f).bun = s.bun := (rfl)
@[simp] theorem sqSet_now (off : Nat) (f : BitVec 24) : (sqSet s off f).now = s.now := (rfl)
@[simp] theorem sqSet_hsAcc (off : Nat) (f : BitVec 24) : (sqSet s off f).hsAcc = s.hsAcc := (rfl)
@[simp] theorem sqSet_free (off : Nat) (f : BitVec 24) : (sqSet s off f).free = s.free := (rfl)
@[simp] theorem sqSet_cfg_shadow (off : Nat) (f : BitVec 24) : (sqSet s off f).cfg.shadow = s.cfg.shadow := (rfl)
@[simp] theorem sqSet_cfg_live (off : Nat) (f : BitVec 24) : (sqSet s off f).cfg.live = s.cfg.live := (rfl)
@[simp] theorem sqSet_cfg_im (off : Nat) (f : BitVec 24) : (sqSet s off f).cfg.im = s.cfg.im := (rfl)
@[simp] theorem sqSet_cfg_cnt (off : Nat) (f : BitVec 24) : (sqSet s off f).cfg.cnt = s.cfg.cnt := (rfl)
@[simp] theorem shadowAt_sqSet (off : Nat) (f : BitVec 24) (j : Nat) : shadowAt (sqSet s off f) j = shadowAt s j := (rfl)
@[simp] theorem liveAt_sqSet (off : Nat) (f : BitVec 24) (j : Nat) : liveAt (sqSet s off f) j = liveAt s j := (rfl)
@[simp] theorem imAt_sqSet (off : Nat) (f : BitVec 24) (j : Nat) : imAt (sqSet s off f) j = imAt s j := (rfl)
@[simp] theorem cntOf_sqSet (off : Nat) (f : BitVec 24) (j : Nat) : cntOf (sqSet s off f) j = cntOf s j := (rfl)
@[simp] theorem tgtOf_sqSet (off : Nat) (f : BitVec 24) (u : Target) : tgtOf (sqSet s off f) u = tgtOf s u := (rfl)
@[simp] theorem ptrOf_sqSet (off : Nat) (f : BitVec 24) (j : Nat) : ptrOf (sqSet s off f) j = ptrOf s j := (rfl)
@[simp] theorem intOf_sqSet (off : Nat) (f : BitVec 24) (j : Nat) : intOf (sqSet s off f) j = intOf s j := (rfl)
@[simp] theorem tenOf_sqSet (off : Nat) (f : BitVec 24) (m : Tenant) : tenOf (sqSet s off f) m = tenOf s m := (rfl)
@[simp] theorem linkOf_sqSet (off : Nat) (f : BitVec 24) (q : Link) : linkOf (sqSet s off f) q = linkOf s q := (rfl)
@[simp] theorem laneOf_sqSet (off : Nat) (f : BitVec 24) (q : Link) (j : Nat) : laneOf (sqSet s off f) q j = laneOf s q j := (rfl)
@[simp] theorem ctxOf_sqSet (off : Nat) (f : BitVec 24) (j : Nat) : ctxOf (sqSet s off f) j = ctxOf s j := (rfl)
@[simp] theorem slotOf_sqSet (off : Nat) (f : BitVec 24) (j : Nat) : slotOf (sqSet s off f) j = slotOf s j := (rfl)
@[simp] theorem operating_sqSet (off : Nat) (f : BitVec 24) : operating (sqSet s off f) = operating s := (rfl)

/-! ## bump -/

@[simp] theorem bump_pending (off : Nat) : (bump s off).pending = s.pending := (rfl)
@[simp] theorem bump_bus (off : Nat) : (bump s off).bus = s.bus := (rfl)
@[simp] theorem bump_tb (off : Nat) : (bump s off).tb = s.tb := (rfl)
@[simp] theorem bump_hl (off : Nat) : (bump s off).hl = s.hl := (rfl)
@[simp] theorem bump_irq (off : Nat) : (bump s off).irq = s.irq := (rfl)
@[simp] theorem bump_xl (off : Nat) : (bump s off).xl = s.xl := (rfl)
@[simp] theorem bump_tens (off : Nat) : (bump s off).tens = s.tens := (rfl)
@[simp] theorem bump_quiesceLast (off : Nat) : (bump s off).quiesceLast = s.quiesceLast := (rfl)
@[simp] theorem bump_links (off : Nat) : (bump s off).links = s.links := (rfl)
@[simp] theorem bump_lanes (off : Nat) : (bump s off).lanes = s.lanes := (rfl)
@[simp] theorem bump_allot (off : Nat) : (bump s off).allot = s.allot := (rfl)
@[simp] theorem bump_pw (off : Nat) : (bump s off).pw = s.pw := (rfl)
@[simp] theorem bump_mbx (off : Nat) : (bump s off).mbx = s.mbx := (rfl)
@[simp] theorem bump_nv (off : Nat) : (bump s off).nv = s.nv := (rfl)
@[simp] theorem bump_stew (off : Nat) : (bump s off).stew = s.stew := (rfl)
@[simp] theorem bump_au (off : Nat) : (bump s off).au = s.au := (rfl)
@[simp] theorem bump_bun (off : Nat) : (bump s off).bun = s.bun := (rfl)
@[simp] theorem bump_now (off : Nat) : (bump s off).now = s.now := (rfl)
@[simp] theorem bump_hsAcc (off : Nat) : (bump s off).hsAcc = s.hsAcc := (rfl)
@[simp] theorem bump_sqAcc (off : Nat) : (bump s off).sqAcc = s.sqAcc := (rfl)
@[simp] theorem bump_free (off : Nat) : (bump s off).free = s.free := (rfl)
@[simp] theorem bump_cfg_shadow (off : Nat) : (bump s off).cfg.shadow = s.cfg.shadow := (rfl)
@[simp] theorem bump_cfg_live (off : Nat) : (bump s off).cfg.live = s.cfg.live := (rfl)
@[simp] theorem bump_cfg_im (off : Nat) : (bump s off).cfg.im = s.cfg.im := (rfl)
@[simp] theorem bump_cfg_sq (off : Nat) : (bump s off).cfg.sq = s.cfg.sq := (rfl)
@[simp] theorem shadowAt_bump (off : Nat) (j : Nat) : shadowAt (bump s off) j = shadowAt s j := (rfl)
@[simp] theorem liveAt_bump (off : Nat) (j : Nat) : liveAt (bump s off) j = liveAt s j := (rfl)
@[simp] theorem imAt_bump (off : Nat) (j : Nat) : imAt (bump s off) j = imAt s j := (rfl)
@[simp] theorem sqOf_bump (off : Nat) (j : Nat) : sqOf (bump s off) j = sqOf s j := (rfl)
@[simp] theorem tgtOf_bump (off : Nat) (u : Target) : tgtOf (bump s off) u = tgtOf s u := (rfl)
@[simp] theorem ptrOf_bump (off : Nat) (j : Nat) : ptrOf (bump s off) j = ptrOf s j := (rfl)
@[simp] theorem intOf_bump (off : Nat) (j : Nat) : intOf (bump s off) j = intOf s j := (rfl)
@[simp] theorem tenOf_bump (off : Nat) (m : Tenant) : tenOf (bump s off) m = tenOf s m := (rfl)
@[simp] theorem linkOf_bump (off : Nat) (q : Link) : linkOf (bump s off) q = linkOf s q := (rfl)
@[simp] theorem laneOf_bump (off : Nat) (q : Link) (j : Nat) : laneOf (bump s off) q j = laneOf s q j := (rfl)
@[simp] theorem ctxOf_bump (off : Nat) (j : Nat) : ctxOf (bump s off) j = ctxOf s j := (rfl)
@[simp] theorem slotOf_bump (off : Nat) (j : Nat) : slotOf (bump s off) j = slotOf s j := (rfl)
@[simp] theorem operating_bump (off : Nat) : operating (bump s off) = operating s := (rfl)

/-! ## bumpN -/

@[simp] theorem bumpN_pending (off n : Nat) : (bumpN s off n).pending = s.pending := (rfl)
@[simp] theorem bumpN_bus (off n : Nat) : (bumpN s off n).bus = s.bus := (rfl)
@[simp] theorem bumpN_tb (off n : Nat) : (bumpN s off n).tb = s.tb := (rfl)
@[simp] theorem bumpN_hl (off n : Nat) : (bumpN s off n).hl = s.hl := (rfl)
@[simp] theorem bumpN_irq (off n : Nat) : (bumpN s off n).irq = s.irq := (rfl)
@[simp] theorem bumpN_xl (off n : Nat) : (bumpN s off n).xl = s.xl := (rfl)
@[simp] theorem bumpN_tens (off n : Nat) : (bumpN s off n).tens = s.tens := (rfl)
@[simp] theorem bumpN_quiesceLast (off n : Nat) : (bumpN s off n).quiesceLast = s.quiesceLast := (rfl)
@[simp] theorem bumpN_links (off n : Nat) : (bumpN s off n).links = s.links := (rfl)
@[simp] theorem bumpN_lanes (off n : Nat) : (bumpN s off n).lanes = s.lanes := (rfl)
@[simp] theorem bumpN_allot (off n : Nat) : (bumpN s off n).allot = s.allot := (rfl)
@[simp] theorem bumpN_pw (off n : Nat) : (bumpN s off n).pw = s.pw := (rfl)
@[simp] theorem bumpN_mbx (off n : Nat) : (bumpN s off n).mbx = s.mbx := (rfl)
@[simp] theorem bumpN_nv (off n : Nat) : (bumpN s off n).nv = s.nv := (rfl)
@[simp] theorem bumpN_stew (off n : Nat) : (bumpN s off n).stew = s.stew := (rfl)
@[simp] theorem bumpN_au (off n : Nat) : (bumpN s off n).au = s.au := (rfl)
@[simp] theorem bumpN_bun (off n : Nat) : (bumpN s off n).bun = s.bun := (rfl)
@[simp] theorem bumpN_now (off n : Nat) : (bumpN s off n).now = s.now := (rfl)
@[simp] theorem bumpN_hsAcc (off n : Nat) : (bumpN s off n).hsAcc = s.hsAcc := (rfl)
@[simp] theorem bumpN_sqAcc (off n : Nat) : (bumpN s off n).sqAcc = s.sqAcc := (rfl)
@[simp] theorem bumpN_free (off n : Nat) : (bumpN s off n).free = s.free := (rfl)
@[simp] theorem bumpN_cfg_shadow (off n : Nat) : (bumpN s off n).cfg.shadow = s.cfg.shadow := (rfl)
@[simp] theorem bumpN_cfg_live (off n : Nat) : (bumpN s off n).cfg.live = s.cfg.live := (rfl)
@[simp] theorem bumpN_cfg_im (off n : Nat) : (bumpN s off n).cfg.im = s.cfg.im := (rfl)
@[simp] theorem bumpN_cfg_sq (off n : Nat) : (bumpN s off n).cfg.sq = s.cfg.sq := (rfl)
@[simp] theorem shadowAt_bumpN (off n : Nat) (j : Nat) : shadowAt (bumpN s off n) j = shadowAt s j := (rfl)
@[simp] theorem liveAt_bumpN (off n : Nat) (j : Nat) : liveAt (bumpN s off n) j = liveAt s j := (rfl)
@[simp] theorem imAt_bumpN (off n : Nat) (j : Nat) : imAt (bumpN s off n) j = imAt s j := (rfl)
@[simp] theorem sqOf_bumpN (off n : Nat) (j : Nat) : sqOf (bumpN s off n) j = sqOf s j := (rfl)
@[simp] theorem tgtOf_bumpN (off n : Nat) (u : Target) : tgtOf (bumpN s off n) u = tgtOf s u := (rfl)
@[simp] theorem ptrOf_bumpN (off n : Nat) (j : Nat) : ptrOf (bumpN s off n) j = ptrOf s j := (rfl)
@[simp] theorem intOf_bumpN (off n : Nat) (j : Nat) : intOf (bumpN s off n) j = intOf s j := (rfl)
@[simp] theorem tenOf_bumpN (off n : Nat) (m : Tenant) : tenOf (bumpN s off n) m = tenOf s m := (rfl)
@[simp] theorem linkOf_bumpN (off n : Nat) (q : Link) : linkOf (bumpN s off n) q = linkOf s q := (rfl)
@[simp] theorem laneOf_bumpN (off n : Nat) (q : Link) (j : Nat) : laneOf (bumpN s off n) q j = laneOf s q j := (rfl)
@[simp] theorem ctxOf_bumpN (off n : Nat) (j : Nat) : ctxOf (bumpN s off n) j = ctxOf s j := (rfl)
@[simp] theorem slotOf_bumpN (off n : Nat) (j : Nat) : slotOf (bumpN s off n) j = slotOf s j := (rfl)
@[simp] theorem operating_bumpN (off n : Nat) : operating (bumpN s off n) = operating s := (rfl)

/-! ## setTgt -/

@[simp] theorem setTgt_pending (t : Target) (r : TgtRec) : (setTgt s t r).pending = s.pending := (rfl)
@[simp] theorem setTgt_cfg (t : Target) (r : TgtRec) : (setTgt s t r).cfg = s.cfg := (rfl)
@[simp] theorem setTgt_bus (t : Target) (r : TgtRec) : (setTgt s t r).bus = s.bus := (rfl)
@[simp] theorem setTgt_tb (t : Target) (r : TgtRec) : (setTgt s t r).tb = s.tb := (rfl)
@[simp] theorem setTgt_hl (t : Target) (r : TgtRec) : (setTgt s t r).hl = s.hl := (rfl)
@[simp] theorem setTgt_xl (t : Target) (r : TgtRec) : (setTgt s t r).xl = s.xl := (rfl)
@[simp] theorem setTgt_tens (t : Target) (r : TgtRec) : (setTgt s t r).tens = s.tens := (rfl)
@[simp] theorem setTgt_quiesceLast (t : Target) (r : TgtRec) : (setTgt s t r).quiesceLast = s.quiesceLast := (rfl)
@[simp] theorem setTgt_links (t : Target) (r : TgtRec) : (setTgt s t r).links = s.links := (rfl)
@[simp] theorem setTgt_lanes (t : Target) (r : TgtRec) : (setTgt s t r).lanes = s.lanes := (rfl)
@[simp] theorem setTgt_allot (t : Target) (r : TgtRec) : (setTgt s t r).allot = s.allot := (rfl)
@[simp] theorem setTgt_pw (t : Target) (r : TgtRec) : (setTgt s t r).pw = s.pw := (rfl)
@[simp] theorem setTgt_mbx (t : Target) (r : TgtRec) : (setTgt s t r).mbx = s.mbx := (rfl)
@[simp] theorem setTgt_nv (t : Target) (r : TgtRec) : (setTgt s t r).nv = s.nv := (rfl)
@[simp] theorem setTgt_stew (t : Target) (r : TgtRec) : (setTgt s t r).stew = s.stew := (rfl)
@[simp] theorem setTgt_au (t : Target) (r : TgtRec) : (setTgt s t r).au = s.au := (rfl)
@[simp] theorem setTgt_bun (t : Target) (r : TgtRec) : (setTgt s t r).bun = s.bun := (rfl)
@[simp] theorem setTgt_now (t : Target) (r : TgtRec) : (setTgt s t r).now = s.now := (rfl)
@[simp] theorem setTgt_hsAcc (t : Target) (r : TgtRec) : (setTgt s t r).hsAcc = s.hsAcc := (rfl)
@[simp] theorem setTgt_sqAcc (t : Target) (r : TgtRec) : (setTgt s t r).sqAcc = s.sqAcc := (rfl)
@[simp] theorem setTgt_free (t : Target) (r : TgtRec) : (setTgt s t r).free = s.free := (rfl)
@[simp] theorem setTgt_irq_ints (t : Target) (r : TgtRec) : (setTgt s t r).irq.ints = s.irq.ints := (rfl)
@[simp] theorem setTgt_irq_ptrs (t : Target) (r : TgtRec) : (setTgt s t r).irq.ptrs = s.irq.ptrs := (rfl)
@[simp] theorem setTgt_irq_choices (t : Target) (r : TgtRec) : (setTgt s t r).irq.choices = s.irq.choices := (rfl)
@[simp] theorem setTgt_irq_serial (t : Target) (r : TgtRec) : (setTgt s t r).irq.serial = s.irq.serial := (rfl)
@[simp] theorem setTgt_irq_wPin (t : Target) (r : TgtRec) : (setTgt s t r).irq.wPin = s.irq.wPin := (rfl)
@[simp] theorem setTgt_irq_wFilt (t : Target) (r : TgtRec) : (setTgt s t r).irq.wFilt = s.irq.wFilt := (rfl)
@[simp] theorem setTgt_irq_wTran (t : Target) (r : TgtRec) : (setTgt s t r).irq.wTran = s.irq.wTran := (rfl)
@[simp] theorem setTgt_irq_wSince (t : Target) (r : TgtRec) : (setTgt s t r).irq.wSince = s.irq.wSince := (rfl)
@[simp] theorem setTgt_irq_bankPos (t : Target) (r : TgtRec) : (setTgt s t r).irq.bankPos = s.irq.bankPos := (rfl)
@[simp] theorem setTgt_irq_fans (t : Target) (r : TgtRec) : (setTgt s t r).irq.fans = s.irq.fans := (rfl)
@[simp] theorem shadowAt_setTgt (t : Target) (r : TgtRec) (j : Nat) : shadowAt (setTgt s t r) j = shadowAt s j := (rfl)
@[simp] theorem liveAt_setTgt (t : Target) (r : TgtRec) (j : Nat) : liveAt (setTgt s t r) j = liveAt s j := (rfl)
@[simp] theorem imAt_setTgt (t : Target) (r : TgtRec) (j : Nat) : imAt (setTgt s t r) j = imAt s j := (rfl)
@[simp] theorem sqOf_setTgt (t : Target) (r : TgtRec) (j : Nat) : sqOf (setTgt s t r) j = sqOf s j := (rfl)
@[simp] theorem cntOf_setTgt (t : Target) (r : TgtRec) (j : Nat) : cntOf (setTgt s t r) j = cntOf s j := (rfl)
@[simp] theorem ptrOf_setTgt (t : Target) (r : TgtRec) (j : Nat) : ptrOf (setTgt s t r) j = ptrOf s j := (rfl)
@[simp] theorem intOf_setTgt (t : Target) (r : TgtRec) (j : Nat) : intOf (setTgt s t r) j = intOf s j := (rfl)
@[simp] theorem tenOf_setTgt (t : Target) (r : TgtRec) (m : Tenant) : tenOf (setTgt s t r) m = tenOf s m := (rfl)
@[simp] theorem linkOf_setTgt (t : Target) (r : TgtRec) (q : Link) : linkOf (setTgt s t r) q = linkOf s q := (rfl)
@[simp] theorem laneOf_setTgt (t : Target) (r : TgtRec) (q : Link) (j : Nat) : laneOf (setTgt s t r) q j = laneOf s q j := (rfl)
@[simp] theorem ctxOf_setTgt (t : Target) (r : TgtRec) (j : Nat) : ctxOf (setTgt s t r) j = ctxOf s j := (rfl)
@[simp] theorem slotOf_setTgt (t : Target) (r : TgtRec) (j : Nat) : slotOf (setTgt s t r) j = slotOf s j := (rfl)
@[simp] theorem operating_setTgt (t : Target) (r : TgtRec) : operating (setTgt s t r) = operating s := (rfl)

/-! ## setPtr -/

@[simp] theorem setPtr_pending (g : Nat) (v : BitVec 8) : (setPtr s g v).pending = s.pending := (rfl)
@[simp] theorem setPtr_cfg (g : Nat) (v : BitVec 8) : (setPtr s g v).cfg = s.cfg := (rfl)
@[simp] theorem setPtr_bus (g : Nat) (v : BitVec 8) : (setPtr s g v).bus = s.bus := (rfl)
@[simp] theorem setPtr_tb (g : Nat) (v : BitVec 8) : (setPtr s g v).tb = s.tb := (rfl)
@[simp] theorem setPtr_hl (g : Nat) (v : BitVec 8) : (setPtr s g v).hl = s.hl := (rfl)
@[simp] theorem setPtr_xl (g : Nat) (v : BitVec 8) : (setPtr s g v).xl = s.xl := (rfl)
@[simp] theorem setPtr_tens (g : Nat) (v : BitVec 8) : (setPtr s g v).tens = s.tens := (rfl)
@[simp] theorem setPtr_quiesceLast (g : Nat) (v : BitVec 8) : (setPtr s g v).quiesceLast = s.quiesceLast := (rfl)
@[simp] theorem setPtr_links (g : Nat) (v : BitVec 8) : (setPtr s g v).links = s.links := (rfl)
@[simp] theorem setPtr_lanes (g : Nat) (v : BitVec 8) : (setPtr s g v).lanes = s.lanes := (rfl)
@[simp] theorem setPtr_allot (g : Nat) (v : BitVec 8) : (setPtr s g v).allot = s.allot := (rfl)
@[simp] theorem setPtr_pw (g : Nat) (v : BitVec 8) : (setPtr s g v).pw = s.pw := (rfl)
@[simp] theorem setPtr_mbx (g : Nat) (v : BitVec 8) : (setPtr s g v).mbx = s.mbx := (rfl)
@[simp] theorem setPtr_nv (g : Nat) (v : BitVec 8) : (setPtr s g v).nv = s.nv := (rfl)
@[simp] theorem setPtr_stew (g : Nat) (v : BitVec 8) : (setPtr s g v).stew = s.stew := (rfl)
@[simp] theorem setPtr_au (g : Nat) (v : BitVec 8) : (setPtr s g v).au = s.au := (rfl)
@[simp] theorem setPtr_bun (g : Nat) (v : BitVec 8) : (setPtr s g v).bun = s.bun := (rfl)
@[simp] theorem setPtr_now (g : Nat) (v : BitVec 8) : (setPtr s g v).now = s.now := (rfl)
@[simp] theorem setPtr_hsAcc (g : Nat) (v : BitVec 8) : (setPtr s g v).hsAcc = s.hsAcc := (rfl)
@[simp] theorem setPtr_sqAcc (g : Nat) (v : BitVec 8) : (setPtr s g v).sqAcc = s.sqAcc := (rfl)
@[simp] theorem setPtr_free (g : Nat) (v : BitVec 8) : (setPtr s g v).free = s.free := (rfl)
@[simp] theorem setPtr_irq_ints (g : Nat) (v : BitVec 8) : (setPtr s g v).irq.ints = s.irq.ints := (rfl)
@[simp] theorem setPtr_irq_tgts (g : Nat) (v : BitVec 8) : (setPtr s g v).irq.tgts = s.irq.tgts := (rfl)
@[simp] theorem setPtr_irq_choices (g : Nat) (v : BitVec 8) : (setPtr s g v).irq.choices = s.irq.choices := (rfl)
@[simp] theorem setPtr_irq_serial (g : Nat) (v : BitVec 8) : (setPtr s g v).irq.serial = s.irq.serial := (rfl)
@[simp] theorem setPtr_irq_wPin (g : Nat) (v : BitVec 8) : (setPtr s g v).irq.wPin = s.irq.wPin := (rfl)
@[simp] theorem setPtr_irq_wFilt (g : Nat) (v : BitVec 8) : (setPtr s g v).irq.wFilt = s.irq.wFilt := (rfl)
@[simp] theorem setPtr_irq_wTran (g : Nat) (v : BitVec 8) : (setPtr s g v).irq.wTran = s.irq.wTran := (rfl)
@[simp] theorem setPtr_irq_wSince (g : Nat) (v : BitVec 8) : (setPtr s g v).irq.wSince = s.irq.wSince := (rfl)
@[simp] theorem setPtr_irq_bankPos (g : Nat) (v : BitVec 8) : (setPtr s g v).irq.bankPos = s.irq.bankPos := (rfl)
@[simp] theorem setPtr_irq_fans (g : Nat) (v : BitVec 8) : (setPtr s g v).irq.fans = s.irq.fans := (rfl)
@[simp] theorem shadowAt_setPtr (g : Nat) (v : BitVec 8) (j : Nat) : shadowAt (setPtr s g v) j = shadowAt s j := (rfl)
@[simp] theorem liveAt_setPtr (g : Nat) (v : BitVec 8) (j : Nat) : liveAt (setPtr s g v) j = liveAt s j := (rfl)
@[simp] theorem imAt_setPtr (g : Nat) (v : BitVec 8) (j : Nat) : imAt (setPtr s g v) j = imAt s j := (rfl)
@[simp] theorem sqOf_setPtr (g : Nat) (v : BitVec 8) (j : Nat) : sqOf (setPtr s g v) j = sqOf s j := (rfl)
@[simp] theorem cntOf_setPtr (g : Nat) (v : BitVec 8) (j : Nat) : cntOf (setPtr s g v) j = cntOf s j := (rfl)
@[simp] theorem tgtOf_setPtr (g : Nat) (v : BitVec 8) (u : Target) : tgtOf (setPtr s g v) u = tgtOf s u := (rfl)
@[simp] theorem intOf_setPtr (g : Nat) (v : BitVec 8) (j : Nat) : intOf (setPtr s g v) j = intOf s j := (rfl)
@[simp] theorem tenOf_setPtr (g : Nat) (v : BitVec 8) (m : Tenant) : tenOf (setPtr s g v) m = tenOf s m := (rfl)
@[simp] theorem linkOf_setPtr (g : Nat) (v : BitVec 8) (q : Link) : linkOf (setPtr s g v) q = linkOf s q := (rfl)
@[simp] theorem laneOf_setPtr (g : Nat) (v : BitVec 8) (q : Link) (j : Nat) : laneOf (setPtr s g v) q j = laneOf s q j := (rfl)
@[simp] theorem ctxOf_setPtr (g : Nat) (v : BitVec 8) (j : Nat) : ctxOf (setPtr s g v) j = ctxOf s j := (rfl)
@[simp] theorem slotOf_setPtr (g : Nat) (v : BitVec 8) (j : Nat) : slotOf (setPtr s g v) j = slotOf s j := (rfl)
@[simp] theorem operating_setPtr (g : Nat) (v : BitVec 8) : operating (setPtr s g v) = operating s := (rfl)

/-! ## setInt -/

@[simp] theorem setInt_pending (k : Nat) (r : IntRec) : (setInt s k r).pending = s.pending := (rfl)
@[simp] theorem setInt_cfg (k : Nat) (r : IntRec) : (setInt s k r).cfg = s.cfg := (rfl)
@[simp] theorem setInt_bus (k : Nat) (r : IntRec) : (setInt s k r).bus = s.bus := (rfl)
@[simp] theorem setInt_tb (k : Nat) (r : IntRec) : (setInt s k r).tb = s.tb := (rfl)
@[simp] theorem setInt_hl (k : Nat) (r : IntRec) : (setInt s k r).hl = s.hl := (rfl)
@[simp] theorem setInt_xl (k : Nat) (r : IntRec) : (setInt s k r).xl = s.xl := (rfl)
@[simp] theorem setInt_tens (k : Nat) (r : IntRec) : (setInt s k r).tens = s.tens := (rfl)
@[simp] theorem setInt_quiesceLast (k : Nat) (r : IntRec) : (setInt s k r).quiesceLast = s.quiesceLast := (rfl)
@[simp] theorem setInt_links (k : Nat) (r : IntRec) : (setInt s k r).links = s.links := (rfl)
@[simp] theorem setInt_lanes (k : Nat) (r : IntRec) : (setInt s k r).lanes = s.lanes := (rfl)
@[simp] theorem setInt_allot (k : Nat) (r : IntRec) : (setInt s k r).allot = s.allot := (rfl)
@[simp] theorem setInt_pw (k : Nat) (r : IntRec) : (setInt s k r).pw = s.pw := (rfl)
@[simp] theorem setInt_mbx (k : Nat) (r : IntRec) : (setInt s k r).mbx = s.mbx := (rfl)
@[simp] theorem setInt_nv (k : Nat) (r : IntRec) : (setInt s k r).nv = s.nv := (rfl)
@[simp] theorem setInt_stew (k : Nat) (r : IntRec) : (setInt s k r).stew = s.stew := (rfl)
@[simp] theorem setInt_au (k : Nat) (r : IntRec) : (setInt s k r).au = s.au := (rfl)
@[simp] theorem setInt_bun (k : Nat) (r : IntRec) : (setInt s k r).bun = s.bun := (rfl)
@[simp] theorem setInt_now (k : Nat) (r : IntRec) : (setInt s k r).now = s.now := (rfl)
@[simp] theorem setInt_hsAcc (k : Nat) (r : IntRec) : (setInt s k r).hsAcc = s.hsAcc := (rfl)
@[simp] theorem setInt_sqAcc (k : Nat) (r : IntRec) : (setInt s k r).sqAcc = s.sqAcc := (rfl)
@[simp] theorem setInt_free (k : Nat) (r : IntRec) : (setInt s k r).free = s.free := (rfl)
@[simp] theorem setInt_irq_tgts (k : Nat) (r : IntRec) : (setInt s k r).irq.tgts = s.irq.tgts := (rfl)
@[simp] theorem setInt_irq_ptrs (k : Nat) (r : IntRec) : (setInt s k r).irq.ptrs = s.irq.ptrs := (rfl)
@[simp] theorem setInt_irq_choices (k : Nat) (r : IntRec) : (setInt s k r).irq.choices = s.irq.choices := (rfl)
@[simp] theorem setInt_irq_serial (k : Nat) (r : IntRec) : (setInt s k r).irq.serial = s.irq.serial := (rfl)
@[simp] theorem setInt_irq_wPin (k : Nat) (r : IntRec) : (setInt s k r).irq.wPin = s.irq.wPin := (rfl)
@[simp] theorem setInt_irq_wFilt (k : Nat) (r : IntRec) : (setInt s k r).irq.wFilt = s.irq.wFilt := (rfl)
@[simp] theorem setInt_irq_wTran (k : Nat) (r : IntRec) : (setInt s k r).irq.wTran = s.irq.wTran := (rfl)
@[simp] theorem setInt_irq_wSince (k : Nat) (r : IntRec) : (setInt s k r).irq.wSince = s.irq.wSince := (rfl)
@[simp] theorem setInt_irq_bankPos (k : Nat) (r : IntRec) : (setInt s k r).irq.bankPos = s.irq.bankPos := (rfl)
@[simp] theorem setInt_irq_fans (k : Nat) (r : IntRec) : (setInt s k r).irq.fans = s.irq.fans := (rfl)
@[simp] theorem shadowAt_setInt (k : Nat) (r : IntRec) (j : Nat) : shadowAt (setInt s k r) j = shadowAt s j := (rfl)
@[simp] theorem liveAt_setInt (k : Nat) (r : IntRec) (j : Nat) : liveAt (setInt s k r) j = liveAt s j := (rfl)
@[simp] theorem imAt_setInt (k : Nat) (r : IntRec) (j : Nat) : imAt (setInt s k r) j = imAt s j := (rfl)
@[simp] theorem sqOf_setInt (k : Nat) (r : IntRec) (j : Nat) : sqOf (setInt s k r) j = sqOf s j := (rfl)
@[simp] theorem cntOf_setInt (k : Nat) (r : IntRec) (j : Nat) : cntOf (setInt s k r) j = cntOf s j := (rfl)
@[simp] theorem tgtOf_setInt (k : Nat) (r : IntRec) (u : Target) : tgtOf (setInt s k r) u = tgtOf s u := (rfl)
@[simp] theorem ptrOf_setInt (k : Nat) (r : IntRec) (j : Nat) : ptrOf (setInt s k r) j = ptrOf s j := (rfl)
@[simp] theorem tenOf_setInt (k : Nat) (r : IntRec) (m : Tenant) : tenOf (setInt s k r) m = tenOf s m := (rfl)
@[simp] theorem linkOf_setInt (k : Nat) (r : IntRec) (q : Link) : linkOf (setInt s k r) q = linkOf s q := (rfl)
@[simp] theorem laneOf_setInt (k : Nat) (r : IntRec) (q : Link) (j : Nat) : laneOf (setInt s k r) q j = laneOf s q j := (rfl)
@[simp] theorem ctxOf_setInt (k : Nat) (r : IntRec) (j : Nat) : ctxOf (setInt s k r) j = ctxOf s j := (rfl)
@[simp] theorem slotOf_setInt (k : Nat) (r : IntRec) (j : Nat) : slotOf (setInt s k r) j = slotOf s j := (rfl)
@[simp] theorem operating_setInt (k : Nat) (r : IntRec) : operating (setInt s k r) = operating s := (rfl)

/-! ## setTen -/

@[simp] theorem setTen_pending (n : Tenant) (r : TenRec) : (setTen s n r).pending = s.pending := (rfl)
@[simp] theorem setTen_cfg (n : Tenant) (r : TenRec) : (setTen s n r).cfg = s.cfg := (rfl)
@[simp] theorem setTen_bus (n : Tenant) (r : TenRec) : (setTen s n r).bus = s.bus := (rfl)
@[simp] theorem setTen_tb (n : Tenant) (r : TenRec) : (setTen s n r).tb = s.tb := (rfl)
@[simp] theorem setTen_hl (n : Tenant) (r : TenRec) : (setTen s n r).hl = s.hl := (rfl)
@[simp] theorem setTen_irq (n : Tenant) (r : TenRec) : (setTen s n r).irq = s.irq := (rfl)
@[simp] theorem setTen_xl (n : Tenant) (r : TenRec) : (setTen s n r).xl = s.xl := (rfl)
@[simp] theorem setTen_quiesceLast (n : Tenant) (r : TenRec) : (setTen s n r).quiesceLast = s.quiesceLast := (rfl)
@[simp] theorem setTen_links (n : Tenant) (r : TenRec) : (setTen s n r).links = s.links := (rfl)
@[simp] theorem setTen_lanes (n : Tenant) (r : TenRec) : (setTen s n r).lanes = s.lanes := (rfl)
@[simp] theorem setTen_allot (n : Tenant) (r : TenRec) : (setTen s n r).allot = s.allot := (rfl)
@[simp] theorem setTen_pw (n : Tenant) (r : TenRec) : (setTen s n r).pw = s.pw := (rfl)
@[simp] theorem setTen_mbx (n : Tenant) (r : TenRec) : (setTen s n r).mbx = s.mbx := (rfl)
@[simp] theorem setTen_nv (n : Tenant) (r : TenRec) : (setTen s n r).nv = s.nv := (rfl)
@[simp] theorem setTen_stew (n : Tenant) (r : TenRec) : (setTen s n r).stew = s.stew := (rfl)
@[simp] theorem setTen_au (n : Tenant) (r : TenRec) : (setTen s n r).au = s.au := (rfl)
@[simp] theorem setTen_bun (n : Tenant) (r : TenRec) : (setTen s n r).bun = s.bun := (rfl)
@[simp] theorem setTen_now (n : Tenant) (r : TenRec) : (setTen s n r).now = s.now := (rfl)
@[simp] theorem setTen_hsAcc (n : Tenant) (r : TenRec) : (setTen s n r).hsAcc = s.hsAcc := (rfl)
@[simp] theorem setTen_sqAcc (n : Tenant) (r : TenRec) : (setTen s n r).sqAcc = s.sqAcc := (rfl)
@[simp] theorem setTen_free (n : Tenant) (r : TenRec) : (setTen s n r).free = s.free := (rfl)
@[simp] theorem shadowAt_setTen (n : Tenant) (r : TenRec) (j : Nat) : shadowAt (setTen s n r) j = shadowAt s j := (rfl)
@[simp] theorem liveAt_setTen (n : Tenant) (r : TenRec) (j : Nat) : liveAt (setTen s n r) j = liveAt s j := (rfl)
@[simp] theorem imAt_setTen (n : Tenant) (r : TenRec) (j : Nat) : imAt (setTen s n r) j = imAt s j := (rfl)
@[simp] theorem sqOf_setTen (n : Tenant) (r : TenRec) (j : Nat) : sqOf (setTen s n r) j = sqOf s j := (rfl)
@[simp] theorem cntOf_setTen (n : Tenant) (r : TenRec) (j : Nat) : cntOf (setTen s n r) j = cntOf s j := (rfl)
@[simp] theorem tgtOf_setTen (n : Tenant) (r : TenRec) (u : Target) : tgtOf (setTen s n r) u = tgtOf s u := (rfl)
@[simp] theorem ptrOf_setTen (n : Tenant) (r : TenRec) (j : Nat) : ptrOf (setTen s n r) j = ptrOf s j := (rfl)
@[simp] theorem intOf_setTen (n : Tenant) (r : TenRec) (j : Nat) : intOf (setTen s n r) j = intOf s j := (rfl)
@[simp] theorem linkOf_setTen (n : Tenant) (r : TenRec) (q : Link) : linkOf (setTen s n r) q = linkOf s q := (rfl)
@[simp] theorem laneOf_setTen (n : Tenant) (r : TenRec) (q : Link) (j : Nat) : laneOf (setTen s n r) q j = laneOf s q j := (rfl)
@[simp] theorem ctxOf_setTen (n : Tenant) (r : TenRec) (j : Nat) : ctxOf (setTen s n r) j = ctxOf s j := (rfl)
@[simp] theorem slotOf_setTen (n : Tenant) (r : TenRec) (j : Nat) : slotOf (setTen s n r) j = slotOf s j := (rfl)
@[simp] theorem operating_setTen (n : Tenant) (r : TenRec) : operating (setTen s n r) = operating s := (rfl)

/-! ## setLink -/

@[simp] theorem setLink_pending (l : Link) (r : LinkRec) : (setLink s l r).pending = s.pending := (rfl)
@[simp] theorem setLink_cfg (l : Link) (r : LinkRec) : (setLink s l r).cfg = s.cfg := (rfl)
@[simp] theorem setLink_bus (l : Link) (r : LinkRec) : (setLink s l r).bus = s.bus := (rfl)
@[simp] theorem setLink_tb (l : Link) (r : LinkRec) : (setLink s l r).tb = s.tb := (rfl)
@[simp] theorem setLink_hl (l : Link) (r : LinkRec) : (setLink s l r).hl = s.hl := (rfl)
@[simp] theorem setLink_irq (l : Link) (r : LinkRec) : (setLink s l r).irq = s.irq := (rfl)
@[simp] theorem setLink_xl (l : Link) (r : LinkRec) : (setLink s l r).xl = s.xl := (rfl)
@[simp] theorem setLink_tens (l : Link) (r : LinkRec) : (setLink s l r).tens = s.tens := (rfl)
@[simp] theorem setLink_quiesceLast (l : Link) (r : LinkRec) : (setLink s l r).quiesceLast = s.quiesceLast := (rfl)
@[simp] theorem setLink_lanes (l : Link) (r : LinkRec) : (setLink s l r).lanes = s.lanes := (rfl)
@[simp] theorem setLink_allot (l : Link) (r : LinkRec) : (setLink s l r).allot = s.allot := (rfl)
@[simp] theorem setLink_pw (l : Link) (r : LinkRec) : (setLink s l r).pw = s.pw := (rfl)
@[simp] theorem setLink_mbx (l : Link) (r : LinkRec) : (setLink s l r).mbx = s.mbx := (rfl)
@[simp] theorem setLink_nv (l : Link) (r : LinkRec) : (setLink s l r).nv = s.nv := (rfl)
@[simp] theorem setLink_stew (l : Link) (r : LinkRec) : (setLink s l r).stew = s.stew := (rfl)
@[simp] theorem setLink_au (l : Link) (r : LinkRec) : (setLink s l r).au = s.au := (rfl)
@[simp] theorem setLink_bun (l : Link) (r : LinkRec) : (setLink s l r).bun = s.bun := (rfl)
@[simp] theorem setLink_now (l : Link) (r : LinkRec) : (setLink s l r).now = s.now := (rfl)
@[simp] theorem setLink_hsAcc (l : Link) (r : LinkRec) : (setLink s l r).hsAcc = s.hsAcc := (rfl)
@[simp] theorem setLink_sqAcc (l : Link) (r : LinkRec) : (setLink s l r).sqAcc = s.sqAcc := (rfl)
@[simp] theorem setLink_free (l : Link) (r : LinkRec) : (setLink s l r).free = s.free := (rfl)
@[simp] theorem shadowAt_setLink (l : Link) (r : LinkRec) (j : Nat) : shadowAt (setLink s l r) j = shadowAt s j := (rfl)
@[simp] theorem liveAt_setLink (l : Link) (r : LinkRec) (j : Nat) : liveAt (setLink s l r) j = liveAt s j := (rfl)
@[simp] theorem imAt_setLink (l : Link) (r : LinkRec) (j : Nat) : imAt (setLink s l r) j = imAt s j := (rfl)
@[simp] theorem sqOf_setLink (l : Link) (r : LinkRec) (j : Nat) : sqOf (setLink s l r) j = sqOf s j := (rfl)
@[simp] theorem cntOf_setLink (l : Link) (r : LinkRec) (j : Nat) : cntOf (setLink s l r) j = cntOf s j := (rfl)
@[simp] theorem tgtOf_setLink (l : Link) (r : LinkRec) (u : Target) : tgtOf (setLink s l r) u = tgtOf s u := (rfl)
@[simp] theorem ptrOf_setLink (l : Link) (r : LinkRec) (j : Nat) : ptrOf (setLink s l r) j = ptrOf s j := (rfl)
@[simp] theorem intOf_setLink (l : Link) (r : LinkRec) (j : Nat) : intOf (setLink s l r) j = intOf s j := (rfl)
@[simp] theorem tenOf_setLink (l : Link) (r : LinkRec) (m : Tenant) : tenOf (setLink s l r) m = tenOf s m := (rfl)
@[simp] theorem laneOf_setLink (l : Link) (r : LinkRec) (q : Link) (j : Nat) : laneOf (setLink s l r) q j = laneOf s q j := (rfl)
@[simp] theorem ctxOf_setLink (l : Link) (r : LinkRec) (j : Nat) : ctxOf (setLink s l r) j = ctxOf s j := (rfl)
@[simp] theorem slotOf_setLink (l : Link) (r : LinkRec) (j : Nat) : slotOf (setLink s l r) j = slotOf s j := (rfl)
@[simp] theorem operating_setLink (l : Link) (r : LinkRec) : operating (setLink s l r) = operating s := (rfl)

/-! ## setLane -/

@[simp] theorem setLane_pending (l : Link) (p : Nat) (r : LaneRec) : (setLane s l p r).pending = s.pending := (rfl)
@[simp] theorem setLane_cfg (l : Link) (p : Nat) (r : LaneRec) : (setLane s l p r).cfg = s.cfg := (rfl)
@[simp] theorem setLane_bus (l : Link) (p : Nat) (r : LaneRec) : (setLane s l p r).bus = s.bus := (rfl)
@[simp] theorem setLane_tb (l : Link) (p : Nat) (r : LaneRec) : (setLane s l p r).tb = s.tb := (rfl)
@[simp] theorem setLane_hl (l : Link) (p : Nat) (r : LaneRec) : (setLane s l p r).hl = s.hl := (rfl)
@[simp] theorem setLane_irq (l : Link) (p : Nat) (r : LaneRec) : (setLane s l p r).irq = s.irq := (rfl)
@[simp] theorem setLane_xl (l : Link) (p : Nat) (r : LaneRec) : (setLane s l p r).xl = s.xl := (rfl)
@[simp] theorem setLane_tens (l : Link) (p : Nat) (r : LaneRec) : (setLane s l p r).tens = s.tens := (rfl)
@[simp] theorem setLane_quiesceLast (l : Link) (p : Nat) (r : LaneRec) : (setLane s l p r).quiesceLast = s.quiesceLast := (rfl)
@[simp] theorem setLane_links (l : Link) (p : Nat) (r : LaneRec) : (setLane s l p r).links = s.links := (rfl)
@[simp] theorem setLane_allot (l : Link) (p : Nat) (r : LaneRec) : (setLane s l p r).allot = s.allot := (rfl)
@[simp] theorem setLane_pw (l : Link) (p : Nat) (r : LaneRec) : (setLane s l p r).pw = s.pw := (rfl)
@[simp] theorem setLane_mbx (l : Link) (p : Nat) (r : LaneRec) : (setLane s l p r).mbx = s.mbx := (rfl)
@[simp] theorem setLane_nv (l : Link) (p : Nat) (r : LaneRec) : (setLane s l p r).nv = s.nv := (rfl)
@[simp] theorem setLane_stew (l : Link) (p : Nat) (r : LaneRec) : (setLane s l p r).stew = s.stew := (rfl)
@[simp] theorem setLane_au (l : Link) (p : Nat) (r : LaneRec) : (setLane s l p r).au = s.au := (rfl)
@[simp] theorem setLane_bun (l : Link) (p : Nat) (r : LaneRec) : (setLane s l p r).bun = s.bun := (rfl)
@[simp] theorem setLane_now (l : Link) (p : Nat) (r : LaneRec) : (setLane s l p r).now = s.now := (rfl)
@[simp] theorem setLane_hsAcc (l : Link) (p : Nat) (r : LaneRec) : (setLane s l p r).hsAcc = s.hsAcc := (rfl)
@[simp] theorem setLane_sqAcc (l : Link) (p : Nat) (r : LaneRec) : (setLane s l p r).sqAcc = s.sqAcc := (rfl)
@[simp] theorem setLane_free (l : Link) (p : Nat) (r : LaneRec) : (setLane s l p r).free = s.free := (rfl)
@[simp] theorem shadowAt_setLane (l : Link) (p : Nat) (r : LaneRec) (j : Nat) : shadowAt (setLane s l p r) j = shadowAt s j := (rfl)
@[simp] theorem liveAt_setLane (l : Link) (p : Nat) (r : LaneRec) (j : Nat) : liveAt (setLane s l p r) j = liveAt s j := (rfl)
@[simp] theorem imAt_setLane (l : Link) (p : Nat) (r : LaneRec) (j : Nat) : imAt (setLane s l p r) j = imAt s j := (rfl)
@[simp] theorem sqOf_setLane (l : Link) (p : Nat) (r : LaneRec) (j : Nat) : sqOf (setLane s l p r) j = sqOf s j := (rfl)
@[simp] theorem cntOf_setLane (l : Link) (p : Nat) (r : LaneRec) (j : Nat) : cntOf (setLane s l p r) j = cntOf s j := (rfl)
@[simp] theorem tgtOf_setLane (l : Link) (p : Nat) (r : LaneRec) (u : Target) : tgtOf (setLane s l p r) u = tgtOf s u := (rfl)
@[simp] theorem ptrOf_setLane (l : Link) (p : Nat) (r : LaneRec) (j : Nat) : ptrOf (setLane s l p r) j = ptrOf s j := (rfl)
@[simp] theorem intOf_setLane (l : Link) (p : Nat) (r : LaneRec) (j : Nat) : intOf (setLane s l p r) j = intOf s j := (rfl)
@[simp] theorem tenOf_setLane (l : Link) (p : Nat) (r : LaneRec) (m : Tenant) : tenOf (setLane s l p r) m = tenOf s m := (rfl)
@[simp] theorem linkOf_setLane (l : Link) (p : Nat) (r : LaneRec) (q : Link) : linkOf (setLane s l p r) q = linkOf s q := (rfl)
@[simp] theorem ctxOf_setLane (l : Link) (p : Nat) (r : LaneRec) (j : Nat) : ctxOf (setLane s l p r) j = ctxOf s j := (rfl)
@[simp] theorem slotOf_setLane (l : Link) (p : Nat) (r : LaneRec) (j : Nat) : slotOf (setLane s l p r) j = slotOf s j := (rfl)
@[simp] theorem operating_setLane (l : Link) (p : Nat) (r : LaneRec) : operating (setLane s l p r) = operating s := (rfl)

/-! ## setXl -/

@[simp] theorem setXl_pending (x : Xlate) : (setXl s x).pending = s.pending := (rfl)
@[simp] theorem setXl_cfg (x : Xlate) : (setXl s x).cfg = s.cfg := (rfl)
@[simp] theorem setXl_bus (x : Xlate) : (setXl s x).bus = s.bus := (rfl)
@[simp] theorem setXl_tb (x : Xlate) : (setXl s x).tb = s.tb := (rfl)
@[simp] theorem setXl_hl (x : Xlate) : (setXl s x).hl = s.hl := (rfl)
@[simp] theorem setXl_irq (x : Xlate) : (setXl s x).irq = s.irq := (rfl)
@[simp] theorem setXl_tens (x : Xlate) : (setXl s x).tens = s.tens := (rfl)
@[simp] theorem setXl_quiesceLast (x : Xlate) : (setXl s x).quiesceLast = s.quiesceLast := (rfl)
@[simp] theorem setXl_links (x : Xlate) : (setXl s x).links = s.links := (rfl)
@[simp] theorem setXl_lanes (x : Xlate) : (setXl s x).lanes = s.lanes := (rfl)
@[simp] theorem setXl_allot (x : Xlate) : (setXl s x).allot = s.allot := (rfl)
@[simp] theorem setXl_pw (x : Xlate) : (setXl s x).pw = s.pw := (rfl)
@[simp] theorem setXl_mbx (x : Xlate) : (setXl s x).mbx = s.mbx := (rfl)
@[simp] theorem setXl_nv (x : Xlate) : (setXl s x).nv = s.nv := (rfl)
@[simp] theorem setXl_stew (x : Xlate) : (setXl s x).stew = s.stew := (rfl)
@[simp] theorem setXl_au (x : Xlate) : (setXl s x).au = s.au := (rfl)
@[simp] theorem setXl_bun (x : Xlate) : (setXl s x).bun = s.bun := (rfl)
@[simp] theorem setXl_now (x : Xlate) : (setXl s x).now = s.now := (rfl)
@[simp] theorem setXl_hsAcc (x : Xlate) : (setXl s x).hsAcc = s.hsAcc := (rfl)
@[simp] theorem setXl_sqAcc (x : Xlate) : (setXl s x).sqAcc = s.sqAcc := (rfl)
@[simp] theorem setXl_free (x : Xlate) : (setXl s x).free = s.free := (rfl)
@[simp] theorem shadowAt_setXl (x : Xlate) (j : Nat) : shadowAt (setXl s x) j = shadowAt s j := (rfl)
@[simp] theorem liveAt_setXl (x : Xlate) (j : Nat) : liveAt (setXl s x) j = liveAt s j := (rfl)
@[simp] theorem imAt_setXl (x : Xlate) (j : Nat) : imAt (setXl s x) j = imAt s j := (rfl)
@[simp] theorem sqOf_setXl (x : Xlate) (j : Nat) : sqOf (setXl s x) j = sqOf s j := (rfl)
@[simp] theorem cntOf_setXl (x : Xlate) (j : Nat) : cntOf (setXl s x) j = cntOf s j := (rfl)
@[simp] theorem tgtOf_setXl (x : Xlate) (u : Target) : tgtOf (setXl s x) u = tgtOf s u := (rfl)
@[simp] theorem ptrOf_setXl (x : Xlate) (j : Nat) : ptrOf (setXl s x) j = ptrOf s j := (rfl)
@[simp] theorem intOf_setXl (x : Xlate) (j : Nat) : intOf (setXl s x) j = intOf s j := (rfl)
@[simp] theorem tenOf_setXl (x : Xlate) (m : Tenant) : tenOf (setXl s x) m = tenOf s m := (rfl)
@[simp] theorem linkOf_setXl (x : Xlate) (q : Link) : linkOf (setXl s x) q = linkOf s q := (rfl)
@[simp] theorem laneOf_setXl (x : Xlate) (q : Link) (j : Nat) : laneOf (setXl s x) q j = laneOf s q j := (rfl)
@[simp] theorem ctxOf_setXl (x : Xlate) (j : Nat) : ctxOf (setXl s x) j = ctxOf s j := (rfl)
@[simp] theorem slotOf_setXl (x : Xlate) (j : Nat) : slotOf (setXl s x) j = slotOf s j := (rfl)
@[simp] theorem operating_setXl (x : Xlate) : operating (setXl s x) = operating s := (rfl)

/-! ## setTb -/

@[simp] theorem setTb_pending (t : Timebase) : (setTb s t).pending = s.pending := (rfl)
@[simp] theorem setTb_cfg (t : Timebase) : (setTb s t).cfg = s.cfg := (rfl)
@[simp] theorem setTb_bus (t : Timebase) : (setTb s t).bus = s.bus := (rfl)
@[simp] theorem setTb_hl (t : Timebase) : (setTb s t).hl = s.hl := (rfl)
@[simp] theorem setTb_irq (t : Timebase) : (setTb s t).irq = s.irq := (rfl)
@[simp] theorem setTb_xl (t : Timebase) : (setTb s t).xl = s.xl := (rfl)
@[simp] theorem setTb_tens (t : Timebase) : (setTb s t).tens = s.tens := (rfl)
@[simp] theorem setTb_quiesceLast (t : Timebase) : (setTb s t).quiesceLast = s.quiesceLast := (rfl)
@[simp] theorem setTb_links (t : Timebase) : (setTb s t).links = s.links := (rfl)
@[simp] theorem setTb_lanes (t : Timebase) : (setTb s t).lanes = s.lanes := (rfl)
@[simp] theorem setTb_allot (t : Timebase) : (setTb s t).allot = s.allot := (rfl)
@[simp] theorem setTb_pw (t : Timebase) : (setTb s t).pw = s.pw := (rfl)
@[simp] theorem setTb_mbx (t : Timebase) : (setTb s t).mbx = s.mbx := (rfl)
@[simp] theorem setTb_nv (t : Timebase) : (setTb s t).nv = s.nv := (rfl)
@[simp] theorem setTb_stew (t : Timebase) : (setTb s t).stew = s.stew := (rfl)
@[simp] theorem setTb_au (t : Timebase) : (setTb s t).au = s.au := (rfl)
@[simp] theorem setTb_bun (t : Timebase) : (setTb s t).bun = s.bun := (rfl)
@[simp] theorem setTb_now (t : Timebase) : (setTb s t).now = s.now := (rfl)
@[simp] theorem setTb_hsAcc (t : Timebase) : (setTb s t).hsAcc = s.hsAcc := (rfl)
@[simp] theorem setTb_sqAcc (t : Timebase) : (setTb s t).sqAcc = s.sqAcc := (rfl)
@[simp] theorem setTb_free (t : Timebase) : (setTb s t).free = s.free := (rfl)
@[simp] theorem shadowAt_setTb (t : Timebase) (j : Nat) : shadowAt (setTb s t) j = shadowAt s j := (rfl)
@[simp] theorem liveAt_setTb (t : Timebase) (j : Nat) : liveAt (setTb s t) j = liveAt s j := (rfl)
@[simp] theorem imAt_setTb (t : Timebase) (j : Nat) : imAt (setTb s t) j = imAt s j := (rfl)
@[simp] theorem sqOf_setTb (t : Timebase) (j : Nat) : sqOf (setTb s t) j = sqOf s j := (rfl)
@[simp] theorem cntOf_setTb (t : Timebase) (j : Nat) : cntOf (setTb s t) j = cntOf s j := (rfl)
@[simp] theorem tgtOf_setTb (t : Timebase) (u : Target) : tgtOf (setTb s t) u = tgtOf s u := (rfl)
@[simp] theorem ptrOf_setTb (t : Timebase) (j : Nat) : ptrOf (setTb s t) j = ptrOf s j := (rfl)
@[simp] theorem intOf_setTb (t : Timebase) (j : Nat) : intOf (setTb s t) j = intOf s j := (rfl)
@[simp] theorem tenOf_setTb (t : Timebase) (m : Tenant) : tenOf (setTb s t) m = tenOf s m := (rfl)
@[simp] theorem linkOf_setTb (t : Timebase) (q : Link) : linkOf (setTb s t) q = linkOf s q := (rfl)
@[simp] theorem laneOf_setTb (t : Timebase) (q : Link) (j : Nat) : laneOf (setTb s t) q j = laneOf s q j := (rfl)
@[simp] theorem ctxOf_setTb (t : Timebase) (j : Nat) : ctxOf (setTb s t) j = ctxOf s j := (rfl)
@[simp] theorem slotOf_setTb (t : Timebase) (j : Nat) : slotOf (setTb s t) j = slotOf s j := (rfl)
@[simp] theorem operating_setTb (t : Timebase) : operating (setTb s t) = operating s := (rfl)

/-! ## setJobs -/

@[simp] theorem setJobs_pending (js : List NvJob) : (setJobs s js).pending = s.pending := (rfl)
@[simp] theorem setJobs_cfg (js : List NvJob) : (setJobs s js).cfg = s.cfg := (rfl)
@[simp] theorem setJobs_bus (js : List NvJob) : (setJobs s js).bus = s.bus := (rfl)
@[simp] theorem setJobs_tb (js : List NvJob) : (setJobs s js).tb = s.tb := (rfl)
@[simp] theorem setJobs_hl (js : List NvJob) : (setJobs s js).hl = s.hl := (rfl)
@[simp] theorem setJobs_irq (js : List NvJob) : (setJobs s js).irq = s.irq := (rfl)
@[simp] theorem setJobs_xl (js : List NvJob) : (setJobs s js).xl = s.xl := (rfl)
@[simp] theorem setJobs_tens (js : List NvJob) : (setJobs s js).tens = s.tens := (rfl)
@[simp] theorem setJobs_quiesceLast (js : List NvJob) : (setJobs s js).quiesceLast = s.quiesceLast := (rfl)
@[simp] theorem setJobs_links (js : List NvJob) : (setJobs s js).links = s.links := (rfl)
@[simp] theorem setJobs_lanes (js : List NvJob) : (setJobs s js).lanes = s.lanes := (rfl)
@[simp] theorem setJobs_allot (js : List NvJob) : (setJobs s js).allot = s.allot := (rfl)
@[simp] theorem setJobs_pw (js : List NvJob) : (setJobs s js).pw = s.pw := (rfl)
@[simp] theorem setJobs_mbx (js : List NvJob) : (setJobs s js).mbx = s.mbx := (rfl)
@[simp] theorem setJobs_stew (js : List NvJob) : (setJobs s js).stew = s.stew := (rfl)
@[simp] theorem setJobs_au (js : List NvJob) : (setJobs s js).au = s.au := (rfl)
@[simp] theorem setJobs_bun (js : List NvJob) : (setJobs s js).bun = s.bun := (rfl)
@[simp] theorem setJobs_now (js : List NvJob) : (setJobs s js).now = s.now := (rfl)
@[simp] theorem setJobs_hsAcc (js : List NvJob) : (setJobs s js).hsAcc = s.hsAcc := (rfl)
@[simp] theorem setJobs_sqAcc (js : List NvJob) : (setJobs s js).sqAcc = s.sqAcc := (rfl)
@[simp] theorem setJobs_free (js : List NvJob) : (setJobs s js).free = s.free := (rfl)
@[simp] theorem setJobs_nv_mem (js : List NvJob) : (setJobs s js).nv.mem = s.nv.mem := (rfl)
@[simp] theorem setJobs_nv_indet (js : List NvJob) : (setJobs s js).nv.indet = s.nv.indet := (rfl)
@[simp] theorem setJobs_nv_op (js : List NvJob) : (setJobs s js).nv.op = s.nv.op := (rfl)
@[simp] theorem setJobs_nv_orphan (js : List NvJob) : (setJobs s js).nv.orphan = s.nv.orphan := (rfl)
@[simp] theorem setJobs_nv_armed (js : List NvJob) : (setJobs s js).nv.armed = s.nv.armed := (rfl)
@[simp] theorem setJobs_nv_wantArm (js : List NvJob) : (setJobs s js).nv.wantArm = s.nv.wantArm := (rfl)
@[simp] theorem setJobs_nv_gaspResult (js : List NvJob) : (setJobs s js).nv.gaspResult = s.nv.gaspResult := (rfl)
@[simp] theorem setJobs_nv_calSrc (js : List NvJob) : (setJobs s js).nv.calSrc = s.nv.calSrc := (rfl)
@[simp] theorem setJobs_nv_corrected (js : List NvJob) : (setJobs s js).nv.corrected = s.nv.corrected := (rfl)
@[simp] theorem setJobs_nv_journal (js : List NvJob) : (setJobs s js).nv.journal = s.nv.journal := (rfl)
@[simp] theorem setJobs_nv_policy (js : List NvJob) : (setJobs s js).nv.policy = s.nv.policy := (rfl)
@[simp] theorem setJobs_nv_log (js : List NvJob) : (setJobs s js).nv.log = s.nv.log := (rfl)
@[simp] theorem setJobs_nv_epoch (js : List NvJob) : (setJobs s js).nv.epoch = s.nv.epoch := (rfl)
@[simp] theorem setJobs_nv_counts (js : List NvJob) : (setJobs s js).nv.counts = s.nv.counts := (rfl)
@[simp] theorem setJobs_nv_retired (js : List NvJob) : (setJobs s js).nv.retired = s.nv.retired := (rfl)
@[simp] theorem setJobs_nv_ckpt (js : List NvJob) : (setJobs s js).nv.ckpt = s.nv.ckpt := (rfl)
@[simp] theorem setJobs_nv_ckptPos (js : List NvJob) : (setJobs s js).nv.ckptPos = s.nv.ckptPos := (rfl)
@[simp] theorem setJobs_nv_slot (js : List NvJob) : (setJobs s js).nv.slot = s.nv.slot := (rfl)
@[simp] theorem setJobs_nv_gseq (js : List NvJob) : (setJobs s js).nv.gseq = s.nv.gseq := (rfl)
@[simp] theorem setJobs_nv_gasp (js : List NvJob) : (setJobs s js).nv.gasp = s.nv.gasp := (rfl)
@[simp] theorem setJobs_nv_trail (js : List NvJob) : (setJobs s js).nv.trail = s.nv.trail := (rfl)
@[simp] theorem shadowAt_setJobs (js : List NvJob) (j : Nat) : shadowAt (setJobs s js) j = shadowAt s j := (rfl)
@[simp] theorem liveAt_setJobs (js : List NvJob) (j : Nat) : liveAt (setJobs s js) j = liveAt s j := (rfl)
@[simp] theorem imAt_setJobs (js : List NvJob) (j : Nat) : imAt (setJobs s js) j = imAt s j := (rfl)
@[simp] theorem sqOf_setJobs (js : List NvJob) (j : Nat) : sqOf (setJobs s js) j = sqOf s j := (rfl)
@[simp] theorem cntOf_setJobs (js : List NvJob) (j : Nat) : cntOf (setJobs s js) j = cntOf s j := (rfl)
@[simp] theorem tgtOf_setJobs (js : List NvJob) (u : Target) : tgtOf (setJobs s js) u = tgtOf s u := (rfl)
@[simp] theorem ptrOf_setJobs (js : List NvJob) (j : Nat) : ptrOf (setJobs s js) j = ptrOf s j := (rfl)
@[simp] theorem intOf_setJobs (js : List NvJob) (j : Nat) : intOf (setJobs s js) j = intOf s j := (rfl)
@[simp] theorem tenOf_setJobs (js : List NvJob) (m : Tenant) : tenOf (setJobs s js) m = tenOf s m := (rfl)
@[simp] theorem linkOf_setJobs (js : List NvJob) (q : Link) : linkOf (setJobs s js) q = linkOf s q := (rfl)
@[simp] theorem laneOf_setJobs (js : List NvJob) (q : Link) (j : Nat) : laneOf (setJobs s js) q j = laneOf s q j := (rfl)
@[simp] theorem ctxOf_setJobs (js : List NvJob) (j : Nat) : ctxOf (setJobs s js) j = ctxOf s j := (rfl)
@[simp] theorem slotOf_setJobs (js : List NvJob) (j : Nat) : slotOf (setJobs s js) j = slotOf s j := (rfl)
@[simp] theorem operating_setJobs (js : List NvJob) : operating (setJobs s js) = operating s := (rfl)

/-! ## setCtx -/

@[simp] theorem setCtx_pending (c : Nat) (x : Ctx) : (setCtx s c x).pending = s.pending := (rfl)
@[simp] theorem setCtx_cfg (c : Nat) (x : Ctx) : (setCtx s c x).cfg = s.cfg := (rfl)
@[simp] theorem setCtx_bus (c : Nat) (x : Ctx) : (setCtx s c x).bus = s.bus := (rfl)
@[simp] theorem setCtx_tb (c : Nat) (x : Ctx) : (setCtx s c x).tb = s.tb := (rfl)
@[simp] theorem setCtx_hl (c : Nat) (x : Ctx) : (setCtx s c x).hl = s.hl := (rfl)
@[simp] theorem setCtx_irq (c : Nat) (x : Ctx) : (setCtx s c x).irq = s.irq := (rfl)
@[simp] theorem setCtx_xl (c : Nat) (x : Ctx) : (setCtx s c x).xl = s.xl := (rfl)
@[simp] theorem setCtx_tens (c : Nat) (x : Ctx) : (setCtx s c x).tens = s.tens := (rfl)
@[simp] theorem setCtx_quiesceLast (c : Nat) (x : Ctx) : (setCtx s c x).quiesceLast = s.quiesceLast := (rfl)
@[simp] theorem setCtx_links (c : Nat) (x : Ctx) : (setCtx s c x).links = s.links := (rfl)
@[simp] theorem setCtx_lanes (c : Nat) (x : Ctx) : (setCtx s c x).lanes = s.lanes := (rfl)
@[simp] theorem setCtx_allot (c : Nat) (x : Ctx) : (setCtx s c x).allot = s.allot := (rfl)
@[simp] theorem setCtx_pw (c : Nat) (x : Ctx) : (setCtx s c x).pw = s.pw := (rfl)
@[simp] theorem setCtx_mbx (c : Nat) (x : Ctx) : (setCtx s c x).mbx = s.mbx := (rfl)
@[simp] theorem setCtx_nv (c : Nat) (x : Ctx) : (setCtx s c x).nv = s.nv := (rfl)
@[simp] theorem setCtx_stew (c : Nat) (x : Ctx) : (setCtx s c x).stew = s.stew := (rfl)
@[simp] theorem setCtx_bun (c : Nat) (x : Ctx) : (setCtx s c x).bun = s.bun := (rfl)
@[simp] theorem setCtx_now (c : Nat) (x : Ctx) : (setCtx s c x).now = s.now := (rfl)
@[simp] theorem setCtx_hsAcc (c : Nat) (x : Ctx) : (setCtx s c x).hsAcc = s.hsAcc := (rfl)
@[simp] theorem setCtx_sqAcc (c : Nat) (x : Ctx) : (setCtx s c x).sqAcc = s.sqAcc := (rfl)
@[simp] theorem setCtx_free (c : Nat) (x : Ctx) : (setCtx s c x).free = s.free := (rfl)
@[simp] theorem setCtx_au_slots (c : Nat) (x : Ctx) : (setCtx s c x).au.slots = s.au.slots := (rfl)
@[simp] theorem setCtx_au_last (c : Nat) (x : Ctx) : (setCtx s c x).au.last = s.au.last := (rfl)
@[simp] theorem setCtx_au_hstat (c : Nat) (x : Ctx) : (setCtx s c x).au.hstat = s.au.hstat := (rfl)
@[simp] theorem setCtx_au_feedCtx (c : Nat) (x : Ctx) : (setCtx s c x).au.feedCtx = s.au.feedCtx := (rfl)
@[simp] theorem setCtx_au_stale (c : Nat) (x : Ctx) : (setCtx s c x).au.stale = s.au.stale := (rfl)
@[simp] theorem setCtx_au_sealed (c : Nat) (x : Ctx) : (setCtx s c x).au.sealed = s.au.sealed := (rfl)
@[simp] theorem shadowAt_setCtx (c : Nat) (x : Ctx) (j : Nat) : shadowAt (setCtx s c x) j = shadowAt s j := (rfl)
@[simp] theorem liveAt_setCtx (c : Nat) (x : Ctx) (j : Nat) : liveAt (setCtx s c x) j = liveAt s j := (rfl)
@[simp] theorem imAt_setCtx (c : Nat) (x : Ctx) (j : Nat) : imAt (setCtx s c x) j = imAt s j := (rfl)
@[simp] theorem sqOf_setCtx (c : Nat) (x : Ctx) (j : Nat) : sqOf (setCtx s c x) j = sqOf s j := (rfl)
@[simp] theorem cntOf_setCtx (c : Nat) (x : Ctx) (j : Nat) : cntOf (setCtx s c x) j = cntOf s j := (rfl)
@[simp] theorem tgtOf_setCtx (c : Nat) (x : Ctx) (u : Target) : tgtOf (setCtx s c x) u = tgtOf s u := (rfl)
@[simp] theorem ptrOf_setCtx (c : Nat) (x : Ctx) (j : Nat) : ptrOf (setCtx s c x) j = ptrOf s j := (rfl)
@[simp] theorem intOf_setCtx (c : Nat) (x : Ctx) (j : Nat) : intOf (setCtx s c x) j = intOf s j := (rfl)
@[simp] theorem tenOf_setCtx (c : Nat) (x : Ctx) (m : Tenant) : tenOf (setCtx s c x) m = tenOf s m := (rfl)
@[simp] theorem linkOf_setCtx (c : Nat) (x : Ctx) (q : Link) : linkOf (setCtx s c x) q = linkOf s q := (rfl)
@[simp] theorem laneOf_setCtx (c : Nat) (x : Ctx) (q : Link) (j : Nat) : laneOf (setCtx s c x) q j = laneOf s q j := (rfl)
@[simp] theorem slotOf_setCtx (c : Nat) (x : Ctx) (j : Nat) : slotOf (setCtx s c x) j = slotOf s j := (rfl)
@[simp] theorem operating_setCtx (c : Nat) (x : Ctx) : operating (setCtx s c x) = operating s := (rfl)

/-! ## setSlot -/

@[simp] theorem setSlot_pending (k : Nat) (x : KeySlot) : (setSlot s k x).pending = s.pending := (rfl)
@[simp] theorem setSlot_cfg (k : Nat) (x : KeySlot) : (setSlot s k x).cfg = s.cfg := (rfl)
@[simp] theorem setSlot_bus (k : Nat) (x : KeySlot) : (setSlot s k x).bus = s.bus := (rfl)
@[simp] theorem setSlot_tb (k : Nat) (x : KeySlot) : (setSlot s k x).tb = s.tb := (rfl)
@[simp] theorem setSlot_hl (k : Nat) (x : KeySlot) : (setSlot s k x).hl = s.hl := (rfl)
@[simp] theorem setSlot_irq (k : Nat) (x : KeySlot) : (setSlot s k x).irq = s.irq := (rfl)
@[simp] theorem setSlot_xl (k : Nat) (x : KeySlot) : (setSlot s k x).xl = s.xl := (rfl)
@[simp] theorem setSlot_tens (k : Nat) (x : KeySlot) : (setSlot s k x).tens = s.tens := (rfl)
@[simp] theorem setSlot_quiesceLast (k : Nat) (x : KeySlot) : (setSlot s k x).quiesceLast = s.quiesceLast := (rfl)
@[simp] theorem setSlot_links (k : Nat) (x : KeySlot) : (setSlot s k x).links = s.links := (rfl)
@[simp] theorem setSlot_lanes (k : Nat) (x : KeySlot) : (setSlot s k x).lanes = s.lanes := (rfl)
@[simp] theorem setSlot_allot (k : Nat) (x : KeySlot) : (setSlot s k x).allot = s.allot := (rfl)
@[simp] theorem setSlot_pw (k : Nat) (x : KeySlot) : (setSlot s k x).pw = s.pw := (rfl)
@[simp] theorem setSlot_mbx (k : Nat) (x : KeySlot) : (setSlot s k x).mbx = s.mbx := (rfl)
@[simp] theorem setSlot_nv (k : Nat) (x : KeySlot) : (setSlot s k x).nv = s.nv := (rfl)
@[simp] theorem setSlot_stew (k : Nat) (x : KeySlot) : (setSlot s k x).stew = s.stew := (rfl)
@[simp] theorem setSlot_bun (k : Nat) (x : KeySlot) : (setSlot s k x).bun = s.bun := (rfl)
@[simp] theorem setSlot_now (k : Nat) (x : KeySlot) : (setSlot s k x).now = s.now := (rfl)
@[simp] theorem setSlot_hsAcc (k : Nat) (x : KeySlot) : (setSlot s k x).hsAcc = s.hsAcc := (rfl)
@[simp] theorem setSlot_sqAcc (k : Nat) (x : KeySlot) : (setSlot s k x).sqAcc = s.sqAcc := (rfl)
@[simp] theorem setSlot_free (k : Nat) (x : KeySlot) : (setSlot s k x).free = s.free := (rfl)
@[simp] theorem setSlot_au_ctxs (k : Nat) (x : KeySlot) : (setSlot s k x).au.ctxs = s.au.ctxs := (rfl)
@[simp] theorem setSlot_au_last (k : Nat) (x : KeySlot) : (setSlot s k x).au.last = s.au.last := (rfl)
@[simp] theorem setSlot_au_hstat (k : Nat) (x : KeySlot) : (setSlot s k x).au.hstat = s.au.hstat := (rfl)
@[simp] theorem setSlot_au_feedCtx (k : Nat) (x : KeySlot) : (setSlot s k x).au.feedCtx = s.au.feedCtx := (rfl)
@[simp] theorem setSlot_au_stale (k : Nat) (x : KeySlot) : (setSlot s k x).au.stale = s.au.stale := (rfl)
@[simp] theorem setSlot_au_sealed (k : Nat) (x : KeySlot) : (setSlot s k x).au.sealed = s.au.sealed := (rfl)
@[simp] theorem shadowAt_setSlot (k : Nat) (x : KeySlot) (j : Nat) : shadowAt (setSlot s k x) j = shadowAt s j := (rfl)
@[simp] theorem liveAt_setSlot (k : Nat) (x : KeySlot) (j : Nat) : liveAt (setSlot s k x) j = liveAt s j := (rfl)
@[simp] theorem imAt_setSlot (k : Nat) (x : KeySlot) (j : Nat) : imAt (setSlot s k x) j = imAt s j := (rfl)
@[simp] theorem sqOf_setSlot (k : Nat) (x : KeySlot) (j : Nat) : sqOf (setSlot s k x) j = sqOf s j := (rfl)
@[simp] theorem cntOf_setSlot (k : Nat) (x : KeySlot) (j : Nat) : cntOf (setSlot s k x) j = cntOf s j := (rfl)
@[simp] theorem tgtOf_setSlot (k : Nat) (x : KeySlot) (u : Target) : tgtOf (setSlot s k x) u = tgtOf s u := (rfl)
@[simp] theorem ptrOf_setSlot (k : Nat) (x : KeySlot) (j : Nat) : ptrOf (setSlot s k x) j = ptrOf s j := (rfl)
@[simp] theorem intOf_setSlot (k : Nat) (x : KeySlot) (j : Nat) : intOf (setSlot s k x) j = intOf s j := (rfl)
@[simp] theorem tenOf_setSlot (k : Nat) (x : KeySlot) (m : Tenant) : tenOf (setSlot s k x) m = tenOf s m := (rfl)
@[simp] theorem linkOf_setSlot (k : Nat) (x : KeySlot) (q : Link) : linkOf (setSlot s k x) q = linkOf s q := (rfl)
@[simp] theorem laneOf_setSlot (k : Nat) (x : KeySlot) (q : Link) (j : Nat) : laneOf (setSlot s k x) q j = laneOf s q j := (rfl)
@[simp] theorem ctxOf_setSlot (k : Nat) (x : KeySlot) (j : Nat) : ctxOf (setSlot s k x) j = ctxOf s j := (rfl)
@[simp] theorem operating_setSlot (k : Nat) (x : KeySlot) : operating (setSlot s k x) = operating s := (rfl)

/-! ## setMode -/

@[simp] theorem setMode_pending (md : Mode) : (setMode s md).pending = s.pending := (rfl)
@[simp] theorem setMode_cfg (md : Mode) : (setMode s md).cfg = s.cfg := (rfl)
@[simp] theorem setMode_bus (md : Mode) : (setMode s md).bus = s.bus := (rfl)
@[simp] theorem setMode_tb (md : Mode) : (setMode s md).tb = s.tb := (rfl)
@[simp] theorem setMode_hl (md : Mode) : (setMode s md).hl = s.hl := (rfl)
@[simp] theorem setMode_irq (md : Mode) : (setMode s md).irq = s.irq := (rfl)
@[simp] theorem setMode_xl (md : Mode) : (setMode s md).xl = s.xl := (rfl)
@[simp] theorem setMode_tens (md : Mode) : (setMode s md).tens = s.tens := (rfl)
@[simp] theorem setMode_quiesceLast (md : Mode) : (setMode s md).quiesceLast = s.quiesceLast := (rfl)
@[simp] theorem setMode_links (md : Mode) : (setMode s md).links = s.links := (rfl)
@[simp] theorem setMode_lanes (md : Mode) : (setMode s md).lanes = s.lanes := (rfl)
@[simp] theorem setMode_allot (md : Mode) : (setMode s md).allot = s.allot := (rfl)
@[simp] theorem setMode_mbx (md : Mode) : (setMode s md).mbx = s.mbx := (rfl)
@[simp] theorem setMode_nv (md : Mode) : (setMode s md).nv = s.nv := (rfl)
@[simp] theorem setMode_stew (md : Mode) : (setMode s md).stew = s.stew := (rfl)
@[simp] theorem setMode_au (md : Mode) : (setMode s md).au = s.au := (rfl)
@[simp] theorem setMode_bun (md : Mode) : (setMode s md).bun = s.bun := (rfl)
@[simp] theorem setMode_now (md : Mode) : (setMode s md).now = s.now := (rfl)
@[simp] theorem setMode_hsAcc (md : Mode) : (setMode s md).hsAcc = s.hsAcc := (rfl)
@[simp] theorem setMode_sqAcc (md : Mode) : (setMode s md).sqAcc = s.sqAcc := (rfl)
@[simp] theorem setMode_free (md : Mode) : (setMode s md).free = s.free := (rfl)
@[simp] theorem setMode_pw_driftHold (md : Mode) : (setMode s md).pw.driftHold = s.pw.driftHold := (rfl)
@[simp] theorem setMode_pw_thr (md : Mode) : (setMode s md).pw.thr = s.pw.thr := (rfl)
@[simp] theorem setMode_pw_stwDown (md : Mode) : (setMode s md).pw.stwDown = s.pw.stwDown := (rfl)
@[simp] theorem setMode_pw_cause (md : Mode) : (setMode s md).pw.cause = s.pw.cause := (rfl)
@[simp] theorem setMode_pw_straps (md : Mode) : (setMode s md).pw.straps = s.pw.straps := (rfl)
@[simp] theorem setMode_pw_nporHigh (md : Mode) : (setMode s md).pw.nporHigh = s.pw.nporHigh := (rfl)
@[simp] theorem setMode_pw_pllLocked (md : Mode) : (setMode s md).pw.pllLocked = s.pw.pllLocked := (rfl)
@[simp] theorem setMode_pw_hbRange (md : Mode) : (setMode s md).pw.hbRange = s.pw.hbRange := (rfl)
@[simp] theorem shadowAt_setMode (md : Mode) (j : Nat) : shadowAt (setMode s md) j = shadowAt s j := (rfl)
@[simp] theorem liveAt_setMode (md : Mode) (j : Nat) : liveAt (setMode s md) j = liveAt s j := (rfl)
@[simp] theorem imAt_setMode (md : Mode) (j : Nat) : imAt (setMode s md) j = imAt s j := (rfl)
@[simp] theorem sqOf_setMode (md : Mode) (j : Nat) : sqOf (setMode s md) j = sqOf s j := (rfl)
@[simp] theorem cntOf_setMode (md : Mode) (j : Nat) : cntOf (setMode s md) j = cntOf s j := (rfl)
@[simp] theorem tgtOf_setMode (md : Mode) (u : Target) : tgtOf (setMode s md) u = tgtOf s u := (rfl)
@[simp] theorem ptrOf_setMode (md : Mode) (j : Nat) : ptrOf (setMode s md) j = ptrOf s j := (rfl)
@[simp] theorem intOf_setMode (md : Mode) (j : Nat) : intOf (setMode s md) j = intOf s j := (rfl)
@[simp] theorem tenOf_setMode (md : Mode) (m : Tenant) : tenOf (setMode s md) m = tenOf s m := (rfl)
@[simp] theorem linkOf_setMode (md : Mode) (q : Link) : linkOf (setMode s md) q = linkOf s q := (rfl)
@[simp] theorem laneOf_setMode (md : Mode) (q : Link) (j : Nat) : laneOf (setMode s md) q j = laneOf s q j := (rfl)
@[simp] theorem ctxOf_setMode (md : Mode) (j : Nat) : ctxOf (setMode s md) j = ctxOf s j := (rfl)
@[simp] theorem slotOf_setMode (md : Mode) (j : Nat) : slotOf (setMode s md) j = slotOf s j := (rfl)

/-! ## setRdata -/

@[simp] theorem setRdata_pending (w : Word) : (setRdata s w).pending = s.pending := (rfl)
@[simp] theorem setRdata_cfg (w : Word) : (setRdata s w).cfg = s.cfg := (rfl)
@[simp] theorem setRdata_tb (w : Word) : (setRdata s w).tb = s.tb := (rfl)
@[simp] theorem setRdata_hl (w : Word) : (setRdata s w).hl = s.hl := (rfl)
@[simp] theorem setRdata_irq (w : Word) : (setRdata s w).irq = s.irq := (rfl)
@[simp] theorem setRdata_xl (w : Word) : (setRdata s w).xl = s.xl := (rfl)
@[simp] theorem setRdata_tens (w : Word) : (setRdata s w).tens = s.tens := (rfl)
@[simp] theorem setRdata_quiesceLast (w : Word) : (setRdata s w).quiesceLast = s.quiesceLast := (rfl)
@[simp] theorem setRdata_links (w : Word) : (setRdata s w).links = s.links := (rfl)
@[simp] theorem setRdata_lanes (w : Word) : (setRdata s w).lanes = s.lanes := (rfl)
@[simp] theorem setRdata_allot (w : Word) : (setRdata s w).allot = s.allot := (rfl)
@[simp] theorem setRdata_pw (w : Word) : (setRdata s w).pw = s.pw := (rfl)
@[simp] theorem setRdata_mbx (w : Word) : (setRdata s w).mbx = s.mbx := (rfl)
@[simp] theorem setRdata_nv (w : Word) : (setRdata s w).nv = s.nv := (rfl)
@[simp] theorem setRdata_stew (w : Word) : (setRdata s w).stew = s.stew := (rfl)
@[simp] theorem setRdata_au (w : Word) : (setRdata s w).au = s.au := (rfl)
@[simp] theorem setRdata_bun (w : Word) : (setRdata s w).bun = s.bun := (rfl)
@[simp] theorem setRdata_now (w : Word) : (setRdata s w).now = s.now := (rfl)
@[simp] theorem setRdata_hsAcc (w : Word) : (setRdata s w).hsAcc = s.hsAcc := (rfl)
@[simp] theorem setRdata_sqAcc (w : Word) : (setRdata s w).sqAcc = s.sqAcc := (rfl)
@[simp] theorem setRdata_free (w : Word) : (setRdata s w).free = s.free := (rfl)
@[simp] theorem setRdata_bus_errCode (w : Word) : (setRdata s w).bus.errCode = s.bus.errCode := (rfl)
@[simp] theorem setRdata_bus_errRd (w : Word) : (setRdata s w).bus.errRd = s.bus.errRd := (rfl)
@[simp] theorem setRdata_bus_errAddr (w : Word) : (setRdata s w).bus.errAddr = s.bus.errAddr := (rfl)
@[simp] theorem setRdata_bus_capBase (w : Word) : (setRdata s w).bus.capBase = s.bus.capBase := (rfl)
@[simp] theorem setRdata_bus_capLive (w : Word) : (setRdata s w).bus.capLive = s.bus.capLive := (rfl)
@[simp] theorem setRdata_bus_twErr (w : Word) : (setRdata s w).bus.twErr = s.bus.twErr := (rfl)
@[simp] theorem setRdata_bus_twCount (w : Word) : (setRdata s w).bus.twCount = s.bus.twCount := (rfl)
@[simp] theorem shadowAt_setRdata (w : Word) (j : Nat) : shadowAt (setRdata s w) j = shadowAt s j := (rfl)
@[simp] theorem liveAt_setRdata (w : Word) (j : Nat) : liveAt (setRdata s w) j = liveAt s j := (rfl)
@[simp] theorem imAt_setRdata (w : Word) (j : Nat) : imAt (setRdata s w) j = imAt s j := (rfl)
@[simp] theorem sqOf_setRdata (w : Word) (j : Nat) : sqOf (setRdata s w) j = sqOf s j := (rfl)
@[simp] theorem cntOf_setRdata (w : Word) (j : Nat) : cntOf (setRdata s w) j = cntOf s j := (rfl)
@[simp] theorem tgtOf_setRdata (w : Word) (u : Target) : tgtOf (setRdata s w) u = tgtOf s u := (rfl)
@[simp] theorem ptrOf_setRdata (w : Word) (j : Nat) : ptrOf (setRdata s w) j = ptrOf s j := (rfl)
@[simp] theorem intOf_setRdata (w : Word) (j : Nat) : intOf (setRdata s w) j = intOf s j := (rfl)
@[simp] theorem tenOf_setRdata (w : Word) (m : Tenant) : tenOf (setRdata s w) m = tenOf s m := (rfl)
@[simp] theorem linkOf_setRdata (w : Word) (q : Link) : linkOf (setRdata s w) q = linkOf s q := (rfl)
@[simp] theorem laneOf_setRdata (w : Word) (q : Link) (j : Nat) : laneOf (setRdata s w) q j = laneOf s q j := (rfl)
@[simp] theorem ctxOf_setRdata (w : Word) (j : Nat) : ctxOf (setRdata s w) j = ctxOf s j := (rfl)
@[simp] theorem slotOf_setRdata (w : Word) (j : Nat) : slotOf (setRdata s w) j = slotOf s j := (rfl)
@[simp] theorem operating_setRdata (w : Word) : operating (setRdata s w) = operating s := (rfl)

/-! ## house -/

@[simp] theorem house_pending (f : BitVec 16) : (house s f).pending = s.pending := (rfl)
@[simp] theorem house_cfg (f : BitVec 16) : (house s f).cfg = s.cfg := (rfl)
@[simp] theorem house_bus (f : BitVec 16) : (house s f).bus = s.bus := (rfl)
@[simp] theorem house_tb (f : BitVec 16) : (house s f).tb = s.tb := (rfl)
@[simp] theorem house_hl (f : BitVec 16) : (house s f).hl = s.hl := (rfl)
@[simp] theorem house_irq (f : BitVec 16) : (house s f).irq = s.irq := (rfl)
@[simp] theorem house_xl (f : BitVec 16) : (house s f).xl = s.xl := (rfl)
@[simp] theorem house_tens (f : BitVec 16) : (house s f).tens = s.tens := (rfl)
@[simp] theorem house_quiesceLast (f : BitVec 16) : (house s f).quiesceLast = s.quiesceLast := (rfl)
@[simp] theorem house_links (f : BitVec 16) : (house s f).links = s.links := (rfl)
@[simp] theorem house_lanes (f : BitVec 16) : (house s f).lanes = s.lanes := (rfl)
@[simp] theorem house_allot (f : BitVec 16) : (house s f).allot = s.allot := (rfl)
@[simp] theorem house_pw (f : BitVec 16) : (house s f).pw = s.pw := (rfl)
@[simp] theorem house_mbx (f : BitVec 16) : (house s f).mbx = s.mbx := (rfl)
@[simp] theorem house_nv (f : BitVec 16) : (house s f).nv = s.nv := (rfl)
@[simp] theorem house_stew (f : BitVec 16) : (house s f).stew = s.stew := (rfl)
@[simp] theorem house_au (f : BitVec 16) : (house s f).au = s.au := (rfl)
@[simp] theorem house_bun (f : BitVec 16) : (house s f).bun = s.bun := (rfl)
@[simp] theorem house_now (f : BitVec 16) : (house s f).now = s.now := (rfl)
@[simp] theorem house_sqAcc (f : BitVec 16) : (house s f).sqAcc = s.sqAcc := (rfl)
@[simp] theorem house_free (f : BitVec 16) : (house s f).free = s.free := (rfl)
@[simp] theorem shadowAt_house (f : BitVec 16) (j : Nat) : shadowAt (house s f) j = shadowAt s j := (rfl)
@[simp] theorem liveAt_house (f : BitVec 16) (j : Nat) : liveAt (house s f) j = liveAt s j := (rfl)
@[simp] theorem imAt_house (f : BitVec 16) (j : Nat) : imAt (house s f) j = imAt s j := (rfl)
@[simp] theorem sqOf_house (f : BitVec 16) (j : Nat) : sqOf (house s f) j = sqOf s j := (rfl)
@[simp] theorem cntOf_house (f : BitVec 16) (j : Nat) : cntOf (house s f) j = cntOf s j := (rfl)
@[simp] theorem tgtOf_house (f : BitVec 16) (u : Target) : tgtOf (house s f) u = tgtOf s u := (rfl)
@[simp] theorem ptrOf_house (f : BitVec 16) (j : Nat) : ptrOf (house s f) j = ptrOf s j := (rfl)
@[simp] theorem intOf_house (f : BitVec 16) (j : Nat) : intOf (house s f) j = intOf s j := (rfl)
@[simp] theorem tenOf_house (f : BitVec 16) (m : Tenant) : tenOf (house s f) m = tenOf s m := (rfl)
@[simp] theorem linkOf_house (f : BitVec 16) (q : Link) : linkOf (house s f) q = linkOf s q := (rfl)
@[simp] theorem laneOf_house (f : BitVec 16) (q : Link) (j : Nat) : laneOf (house s f) q j = laneOf s q j := (rfl)
@[simp] theorem ctxOf_house (f : BitVec 16) (j : Nat) : ctxOf (house s f) j = ctxOf s j := (rfl)
@[simp] theorem slotOf_house (f : BitVec 16) (j : Nat) : slotOf (house s f) j = slotOf s j := (rfl)
@[simp] theorem operating_house (f : BitVec 16) : operating (house s f) = operating s := (rfl)

/-! ## withPending -/

@[simp] theorem withPending_cfg (q : List Instr) : (s.withPending q).cfg = s.cfg := (rfl)
@[simp] theorem withPending_bus (q : List Instr) : (s.withPending q).bus = s.bus := (rfl)
@[simp] theorem withPending_tb (q : List Instr) : (s.withPending q).tb = s.tb := (rfl)
@[simp] theorem withPending_hl (q : List Instr) : (s.withPending q).hl = s.hl := (rfl)
@[simp] theorem withPending_irq (q : List Instr) : (s.withPending q).irq = s.irq := (rfl)
@[simp] theorem withPending_xl (q : List Instr) : (s.withPending q).xl = s.xl := (rfl)
@[simp] theorem withPending_tens (q : List Instr) : (s.withPending q).tens = s.tens := (rfl)
@[simp] theorem withPending_quiesceLast (q : List Instr) : (s.withPending q).quiesceLast = s.quiesceLast := (rfl)
@[simp] theorem withPending_links (q : List Instr) : (s.withPending q).links = s.links := (rfl)
@[simp] theorem withPending_lanes (q : List Instr) : (s.withPending q).lanes = s.lanes := (rfl)
@[simp] theorem withPending_allot (q : List Instr) : (s.withPending q).allot = s.allot := (rfl)
@[simp] theorem withPending_pw (q : List Instr) : (s.withPending q).pw = s.pw := (rfl)
@[simp] theorem withPending_mbx (q : List Instr) : (s.withPending q).mbx = s.mbx := (rfl)
@[simp] theorem withPending_nv (q : List Instr) : (s.withPending q).nv = s.nv := (rfl)
@[simp] theorem withPending_stew (q : List Instr) : (s.withPending q).stew = s.stew := (rfl)
@[simp] theorem withPending_au (q : List Instr) : (s.withPending q).au = s.au := (rfl)
@[simp] theorem withPending_bun (q : List Instr) : (s.withPending q).bun = s.bun := (rfl)
@[simp] theorem withPending_now (q : List Instr) : (s.withPending q).now = s.now := (rfl)
@[simp] theorem withPending_hsAcc (q : List Instr) : (s.withPending q).hsAcc = s.hsAcc := (rfl)
@[simp] theorem withPending_sqAcc (q : List Instr) : (s.withPending q).sqAcc = s.sqAcc := (rfl)
@[simp] theorem withPending_free (q : List Instr) : (s.withPending q).free = s.free := (rfl)
@[simp] theorem withPending_pending (q : List Instr) : (s.withPending q).pending = q := (rfl)

/-! ## A record read after a write -/

@[simp] theorem setXl_xl (x : Xlate) : (setXl s x).xl = x := (rfl)
@[simp] theorem setTb_tb (t : Timebase) : (setTb s t).tb = t := (rfl)
@[simp] theorem setJobs_jobs (js : List NvJob) : (setJobs s js).nv.jobs = js := (rfl)
@[simp] theorem setMode_mode (m : Mode) : (setMode s m).pw.mode = m := (rfl)
@[simp] theorem setRdata_rdata (w : Word) : (setRdata s w).bus.rdata = w := (rfl)
@[simp] theorem house_hsAcc (f : BitVec 16) : (house s f).hsAcc = s.hsAcc ||| f := (rfl)

/-- Reads of `shadowAt` after `setShadow`. -/
theorem shadowAt_setShadow (k : Nat) (v : Word) (j : Nat) : shadowAt (setShadow s k v) j = if j = k then v else shadowAt s j := by
  by_cases h : j = k
  · subst h; simp [shadowAt, setShadow]
  · rw [if_neg h]; exact tabGet_tabSet_ne' _ _ _ _ _ _ h
@[simp] theorem shadowAt_setShadow_self (k : Nat) (v : Word) : shadowAt (setShadow s k v) k = v := by simp [shadowAt_setShadow]

/-- Reads of `liveAt` after `setLive`. -/
theorem liveAt_setLive (k : Nat) (v : Word) (j : Nat) : liveAt (setLive s k v) j = if j = k then v else liveAt s j := by
  by_cases h : j = k
  · subst h; simp [liveAt, setLive]
  · rw [if_neg h]; exact tabGet_tabSet_ne' _ _ _ _ _ _ h
@[simp] theorem liveAt_setLive_self (k : Nat) (v : Word) : liveAt (setLive s k v) k = v := by simp [liveAt_setLive]

/-- Reads of `imAt` after `setIm`. -/
theorem imAt_setIm (k : Nat) (v : Word) (j : Nat) : imAt (setIm s k v) j = if j = k then v else imAt s j := by
  by_cases h : j = k
  · subst h; simp [imAt, setIm]
  · rw [if_neg h]; exact tabGet_tabSet_ne' _ _ _ _ _ _ h
@[simp] theorem imAt_setIm_self (k : Nat) (v : Word) : imAt (setIm s k v) k = v := by simp [imAt_setIm]

/-- Reads of `sqOf` after `setSq`. -/
theorem sqOf_setSq (k : Nat) (v : SqReg) (j : Nat) : sqOf (setSq s k v) j = if j = k then v else sqOf s j := by
  by_cases h : j = k
  · subst h; simp [sqOf, setSq]
  · rw [if_neg h]; exact tabGet_tabSet_ne' _ _ _ _ _ _ h
@[simp] theorem sqOf_setSq_self (k : Nat) (v : SqReg) : sqOf (setSq s k v) k = v := by simp [sqOf_setSq]

/-- Reads of `ptrOf` after `setPtr`. -/
theorem ptrOf_setPtr (k : Nat) (v : BitVec 8) (j : Nat) : ptrOf (setPtr s k v) j = if j = k then v else ptrOf s j := by
  by_cases h : j = k
  · subst h; simp [ptrOf, setPtr]
  · rw [if_neg h]; exact tabGet_tabSet_ne' _ _ _ _ _ _ h
@[simp] theorem ptrOf_setPtr_self (k : Nat) (v : BitVec 8) : ptrOf (setPtr s k v) k = v := by simp [ptrOf_setPtr]

/-- Reads of `intOf` after `setInt`. -/
theorem intOf_setInt (k : Nat) (v : IntRec) (j : Nat) : intOf (setInt s k v) j = if j = k then v else intOf s j := by
  by_cases h : j = k
  · subst h; simp [intOf, setInt]
  · rw [if_neg h]; exact tabGet_tabSet_ne' _ _ _ _ _ _ h
@[simp] theorem intOf_setInt_self (k : Nat) (v : IntRec) : intOf (setInt s k v) k = v := by simp [intOf_setInt]

/-- Reads of `ctxOf` after `setCtx`. -/
theorem ctxOf_setCtx (k : Nat) (v : Ctx) (j : Nat) : ctxOf (setCtx s k v) j = if j = k then v else ctxOf s j := by
  by_cases h : j = k
  · subst h; simp [ctxOf, setCtx]
  · rw [if_neg h]; exact tabGet_tabSet_ne' _ _ _ _ _ _ h
@[simp] theorem ctxOf_setCtx_self (k : Nat) (v : Ctx) : ctxOf (setCtx s k v) k = v := by simp [ctxOf_setCtx]

/-- Reads of `slotOf` after `setSlot`. -/
theorem slotOf_setSlot (k : Nat) (v : KeySlot) (j : Nat) : slotOf (setSlot s k v) j = if j = k then v else slotOf s j := by
  by_cases h : j = k
  · subst h; simp [slotOf, setSlot]
  · rw [if_neg h]; exact tabGet_tabSet_ne' _ _ _ _ _ _ h
@[simp] theorem slotOf_setSlot_self (k : Nat) (v : KeySlot) : slotOf (setSlot s k v) k = v := by simp [slotOf_setSlot]

/-- Reads of `tgtOf` after `setTgt`. -/
theorem tgtOf_setTgt (k j : Target) (v : TgtRec) : tgtOf (setTgt s k v) j = if j = k then v else tgtOf s j := by
  by_cases h : j = k
  · subst h; simp [tgtOf, setTgt]
  · rw [if_neg h]; exact tabGet_tabSet_ne _ _ _ _ _ fun e => h (BitVec.eq_of_toNat_eq e)
@[simp] theorem tgtOf_setTgt_self (k : Target) (v : TgtRec) : tgtOf (setTgt s k v) k = v := by simp [tgtOf_setTgt]

/-- Reads of `tenOf` after `setTen`. -/
theorem tenOf_setTen (k j : Tenant) (v : TenRec) : tenOf (setTen s k v) j = if j = k then v else tenOf s j := by
  by_cases h : j = k
  · subst h; simp [tenOf, setTen]
  · rw [if_neg h]; exact tabGet_tabSet_ne _ _ _ _ _ fun e => h (BitVec.eq_of_toNat_eq e)
@[simp] theorem tenOf_setTen_self (k : Tenant) (v : TenRec) : tenOf (setTen s k v) k = v := by simp [tenOf_setTen]

/-- Reads of `linkOf` after `setLink`. -/
theorem linkOf_setLink (k j : Link) (v : LinkRec) : linkOf (setLink s k v) j = if j = k then v else linkOf s j := by
  by_cases h : j = k
  · subst h; simp [linkOf, setLink]
  · rw [if_neg h]; exact tabGet_tabSet_ne _ _ _ _ _ fun e => h (BitVec.eq_of_toNat_eq e)
@[simp] theorem linkOf_setLink_self (k : Link) (v : LinkRec) : linkOf (setLink s k v) k = v := by simp [linkOf_setLink]

@[simp] theorem laneOf_setLane_self (l : Link) (p : Nat) (v : LaneRec) : laneOf (setLane s l p v) l p = v := by
  simp [laneOf, setLane]

theorem cntOf_bump (k j : Nat) : cntOf (bump s k) j = if j = k then cntOf s k + 1 else cntOf s j := by
  simp only [cntOf, bump, tabGet_tabSet]
@[simp] theorem cntOf_bump_self (k : Nat) : cntOf (bump s k) k = cntOf s k + 1 := by simp [cntOf_bump]
theorem cntOf_bumpN (k j n : Nat) : cntOf (bumpN s k n) j = if j = k then cntOf s k + BitVec.ofNat 32 n else cntOf s j := by
  simp only [cntOf, bumpN, tabGet_tabSet]

theorem sqOf_sqSet_self (k : Nat) (f : BitVec 24) (h : s.sqAcc.contains k = false) :
    sqOf (sqSet s k f) k = sqRaise (sqOf s k) f := by
  unfold sqSet
  rw [h, sqOf_setSq_self]; rfl
theorem sqOf_sqSet_again (k : Nat) (f : BitVec 24) (h : s.sqAcc.contains k = true) :
    sqOf (sqSet s k f) k = sqJoin (sqOf s k) f := by
  unfold sqSet
  rw [h, sqOf_setSq_self]; rfl
theorem sqOf_sqSet_ne (k j : Nat) (f : BitVec 24) (h : j ≠ k) : sqOf (sqSet s k f) j = sqOf s j := by
  unfold sqSet
  rw [sqOf_setSq, if_neg h]; rfl

end Sys2Proof.Machine
end

