-- ==== Sys2Proof/Laws/KeepsA.lean ====
section
/-!
SUPPORT. Laws/KeepsA.lean: what the operations of the flags, the arbiter, the lanes, the offer path, the walker, the tenants and the timebase leave alone: the
queue of waiting commands and, but for the operations of the timebase itself, the timebase.
-/
set_option linter.unusedTactic false
set_option linter.unreachableTactic false

namespace Sys2Proof.Machine

@[simp] theorem foldS_pending {α : Type} (f : State → α → State) (l : List α) (s : State) (h : ∀ s a, (f s a).pending = s.pending) : (foldS f s l).pending = s.pending := foldS_keeps (·.pending) f l s h
@[simp] theorem foldS_tb {α : Type} (f : State → α → State) (l : List α) (s : State) (h : ∀ s a, (f s a).tb = s.tb) : (foldS f s l).tb = s.tb := foldS_keeps (·.tb) f l s h
@[simp] theorem ite_pending (c : Prop) [Decidable c] (a b : State) : (if c then a else b).pending = if c then a.pending else b.pending := by split <;> rfl
@[simp] theorem ite_tb (c : Prop) [Decidable c] (a b : State) : (if c then a else b).tb = if c then a.tb else b.tb := by split <;> rfl

@[simp] theorem setSq_keeps (s : State) (off : Nat) (r : SqReg) : (setSq s off r).pending = s.pending ∧ (setSq s off r).tb = s.tb := by
  constructor <;> (unfold setSq; try dsimp only) <;> repeat' (first | with_reducible rfl | split | simp)

@[simp] theorem sqSet_keeps (s : State) (off : Nat) (f : BitVec 24) : (sqSet s off f).pending = s.pending ∧ (sqSet s off f).tb = s.tb := by
  constructor <;> (unfold sqSet; try dsimp only) <;> repeat' (first | with_reducible rfl | split | simp)

@[simp] theorem mbRefuse_keeps (s : State) (code : BitVec 4) (rd : Bool) (addr : BitVec 14) : (mbRefuse s code rd addr).pending = s.pending ∧ (mbRefuse s code rd addr).tb = s.tb := by
  constructor <;> (unfold mbRefuse; try dsimp only) <;> repeat' (first | with_reducible rfl | split | simp)

@[simp] theorem bump_keeps (s : State) (off : Nat) : (bump s off).pending = s.pending ∧ (bump s off).tb = s.tb := by
  constructor <;> (unfold bump; try dsimp only) <;> repeat' (first | with_reducible rfl | split | simp)

@[simp] theorem bumpN_keeps (s : State) (off n : Nat) : (bumpN s off n).pending = s.pending ∧ (bumpN s off n).tb = s.tb := by
  constructor <;> (unfold bumpN; try dsimp only) <;> repeat' (first | with_reducible rfl | split | simp)

@[simp] theorem house_keeps (s : State) (f : BitVec 16) : (house s f).pending = s.pending ∧ (house s f).tb = s.tb := by
  constructor <;> (unfold house; try dsimp only) <;> repeat' (first | with_reducible rfl | split | simp)

@[simp] theorem dropCount_keeps (s : State) (off : Nat) : (dropCount s off).pending = s.pending ∧ (dropCount s off).tb = s.tb := by
  constructor <;> (unfold dropCount; try dsimp only) <;> repeat' (first | with_reducible rfl | split | simp)

@[simp] theorem loseTrigger_keeps (s : State) (k : Nat) : (loseTrigger s k).pending = s.pending ∧ (loseTrigger s k).tb = s.tb := by
  constructor <;> (unfold loseTrigger; try dsimp only) <;> repeat' (first | with_reducible rfl | split | simp)

@[simp] theorem placeNote_keeps (s : State) (n : NoteKey) (i : Intid) :
    (placeNote s n i).1.pending = s.pending ∧ (placeNote s n i).1.tb = s.tb := by
  unfold placeNote; split <;> simp

@[simp] theorem takeFree_keeps (s : State) : (takeFree s).2.pending = s.pending ∧ (takeFree s).2.tb = s.tb := ⟨rfl, rfl⟩

@[simp] theorem evT_keeps (s : State) (k : Nat) (note : Option NoteKey) :
    (evT s k note).pending = s.pending ∧ (evT s k note).tb = s.tb := by
  unfold evT
  cases h : (intOf s k).st <;> constructor <;> simp only [] <;> repeat' (first | with_reducible rfl | split | (simp; done) | simp)

@[simp] theorem evSet_keeps (s : State) (k : Nat) : (evSet s k).pending = s.pending ∧ (evSet s k).tb = s.tb := by
  constructor <;> (unfold evSet; try dsimp only) <;> repeat' (first | with_reducible rfl | split | simp)

@[simp] theorem evF_keeps (s : State) (k : Nat) : (evF s k).pending = s.pending ∧ (evF s k).tb = s.tb := by
  constructor <;> (unfold evF; try dsimp only) <;> repeat' (first | with_reducible rfl | split | simp)

@[simp] theorem evW_keeps (s : State) (k : Nat) : (evW s k).pending = s.pending ∧ (evW s k).tb = s.tb := by
  constructor <;> (unfold evW; try dsimp only) <;> repeat' (first | with_reducible rfl | split | simp)

@[simp] theorem evC_keeps (s : State) (k : Nat) (t : Target) : (evC s k t).pending = s.pending ∧ (evC s k t).tb = s.tb := by
  constructor <;> (unfold evC; try dsimp only) <;> repeat' (first | with_reducible rfl | split | simp)

@[simp] theorem evN_keeps (s : State) (k : Nat) : (evN s k).pending = s.pending ∧ (evN s k).tb = s.tb := by
  constructor <;> (unfold evN; try dsimp only) <;> repeat' (first | with_reducible rfl | split | simp)

@[simp] theorem evE_keeps (s : State) (k : Nat) : (evE s k).pending = s.pending ∧ (evE s k).tb = s.tb := by
  constructor <;> (unfold evE; try dsimp only) <;> repeat' (first | with_reducible rfl | split | simp)

@[simp] theorem evK_keeps (s : State) (k : Nat) : (evK s k).pending = s.pending ∧ (evK s k).tb = s.tb := by
  constructor <;> (unfold evK; try dsimp only) <;> repeat' (first | with_reducible rfl | split | simp)

@[simp] theorem evD_keeps (s : State) (k : Nat) : (evD s k).pending = s.pending ∧ (evD s k).tb = s.tb := by
  constructor <;> (unfold evD; try dsimp only) <;> repeat' (first | with_reducible rfl | split | simp)

@[simp] theorem evQ_keeps (s : State) (i : Intid) (id : Nat) : (evQ s i id).pending = s.pending ∧ (evQ s i id).tb = s.tb := by
  constructor <;> (unfold evQ; try dsimp only) <;> repeat' (first | with_reducible rfl | split | simp)

theorem ifEnabled_keeps (s : State) (k : Nat) (f : State → State)
    (h : ∀ s, (f s).pending = s.pending ∧ (f s).tb = s.tb) :
    (ifEnabled s k f).pending = s.pending ∧ (ifEnabled s k f).tb = s.tb := by
  unfold ifEnabled; constructor <;> repeat' (first | split | simp [h])

@[simp] theorem trigger_keeps (s : State) (k : Nat) (note : Option NoteKey) :
    (trigger s k note).pending = s.pending ∧ (trigger s k note).tb = s.tb := ifEnabled_keeps _ _ _ fun _ => evT_keeps _ _ _

@[simp] theorem softPend_keeps (s : State) (k : Nat) (v : Bool) :
    (softPend s k v).pending = s.pending ∧ (softPend s k v).tb = s.tb := by
  unfold softPend; split
  · exact ifEnabled_keeps _ _ _ fun _ => evSet_keeps _ _
  · exact evK_keeps _ _

@[simp] theorem clearLost_keeps (s : State) (k : Nat) : (clearLost s k).pending = s.pending ∧ (clearLost s k).tb = s.tb := by
  constructor <;> (unfold clearLost; try dsimp only) <;> repeat' (first | with_reducible rfl | split | simp)

@[simp] theorem houseEdges_keeps (old : BitVec 16) (s : State) : (houseEdges old s).pending = s.pending ∧ (houseEdges old s).tb = s.tb := by
  constructor <;> (unfold houseEdges; try dsimp only) <;> repeat' (first | with_reducible rfl | split | (simp; done) | (refine (foldS_pending _ _ _ fun s a => ?_).trans ?_) | (refine (foldS_tb _ _ _ fun s a => ?_).trans ?_) | simp)

@[simp] theorem flushHouse_keeps (s : State) : (flushHouse s).pending = s.pending ∧ (flushHouse s).tb = s.tb := by
  constructor <;> (unfold flushHouse; try dsimp only) <;> repeat' (first | with_reducible rfl | split | simp)

@[simp] theorem withdrawAll_keeps (s : State) : (withdrawAll s).pending = s.pending ∧ (withdrawAll s).tb = s.tb := by
  constructor <;> (unfold withdrawAll; try dsimp only) <;> repeat' (first | with_reducible rfl | split | (simp; done) | (refine (foldS_pending _ _ _ fun s a => ?_).trans ?_) | (refine (foldS_tb _ _ _ fun s a => ?_).trans ?_) | simp)

@[simp] theorem settlePermit_keeps (before after : State) : (settlePermit before after).pending = after.pending ∧ (settlePermit before after).tb = after.tb := by
  constructor <;> (unfold settlePermit; try dsimp only) <;> repeat' (first | with_reducible rfl | split | simp)

@[simp] theorem pushJob_keeps (s : State) (items : List NvItem) : (pushJob s items).pending = s.pending ∧ (pushJob s items).tb = s.tb := by
  constructor <;> (unfold pushJob; try dsimp only) <;> repeat' (first | with_reducible rfl | split | simp)

@[simp] theorem logEntry_keeps (s : State) (type arg : BitVec 8) (value : Word) (data : BitVec 96) : (logEntry s type arg value data).pending = s.pending ∧ (logEntry s type arg value data).tb = s.tb := by
  constructor <;> (unfold logEntry; try dsimp only) <;> repeat' (first | with_reducible rfl | split | simp)

@[simp] theorem nvEvt_keeps (s : State) (k : Nat) (sector : Nat) : (nvEvt s k sector).pending = s.pending ∧ (nvEvt s k sector).tb = s.tb := by
  constructor <;> (unfold nvEvt; try dsimp only) <;> repeat' (first | with_reducible rfl | split | simp)

@[simp] theorem abortErase_keeps (s : State) : (abortErase s).pending = s.pending ∧ (abortErase s).tb = s.tb := by
  constructor <;> (unfold abortErase; try dsimp only) <;> repeat' (first | with_reducible rfl | split | simp)

@[simp] theorem logMode_keeps (before after : State) : (logMode before after).pending = after.pending ∧ (logMode before after).tb = after.tb := by
  constructor <;> (unfold logMode; try dsimp only) <;> repeat' (first | with_reducible rfl | split | simp)

@[simp] theorem nvDone_keeps (before after : State) : (nvDone before after).pending = after.pending ∧ (nvDone before after).tb = after.tb := by
  constructor <;> (unfold nvDone; try dsimp only) <;> repeat' (first | with_reducible rfl | split | simp)

@[simp] theorem noteHwm_keeps (s : State) : (noteHwm s).pending = s.pending ∧ (noteHwm s).tb = s.tb := by
  constructor <;> (unfold noteHwm; try dsimp only) <;> repeat' (first | with_reducible rfl | split | simp)

@[simp] theorem revertInt_keeps (s : State) (t : Target) (k : Nat) : (revertInt s t k).pending = s.pending ∧ (revertInt s t k).tb = s.tb := by
  constructor <;> (unfold revertInt; try dsimp only) <;> repeat' (first | with_reducible rfl | split | simp)

@[simp] theorem revertTarget_keeps (s : State) (t : Target) : (revertTarget s t).pending = s.pending ∧ (revertTarget s t).tb = s.tb := by
  constructor <;> (unfold revertTarget; try dsimp only) <;> repeat' (first | with_reducible rfl | split | (simp; done) | (refine (foldS_pending _ _ _ fun s a => ?_).trans ?_) | (refine (foldS_tb _ _ _ fun s a => ?_).trans ?_) | simp)

@[simp] theorem dropLevels_keeps (s : State) (t : Target) : (dropLevels s t).pending = s.pending ∧ (dropLevels s t).tb = s.tb := by
  constructor <;> (unfold dropLevels; try dsimp only) <;> repeat' (first | with_reducible rfl | split | (simp; done) | (refine (foldS_pending _ _ _ fun s a => ?_).trans ?_) | (refine (foldS_tb _ _ _ fun s a => ?_).trans ?_) | simp)

@[simp] theorem revertLink_keeps (s : State) (l : Link) : (revertLink s l).pending = s.pending ∧ (revertLink s l).tb = s.tb := by
  constructor <;> (unfold revertLink; try dsimp only) <;> repeat' (first | with_reducible rfl | split | (simp; done) | (refine (foldS_pending _ _ _ fun s a => ?_).trans ?_) | (refine (foldS_tb _ _ _ fun s a => ?_).trans ?_) | simp)

@[simp] theorem quiesceCheck_keeps (s : State) (n : Tenant) : (quiesceCheck s n).pending = s.pending ∧ (quiesceCheck s n).tb = s.tb := by
  constructor <;> (unfold quiesceCheck; try dsimp only) <;> repeat' (first | with_reducible rfl | split | simp)

@[simp] theorem outAdd_keeps (s : State) (n : Tenant) : (outAdd s n).pending = s.pending ∧ (outAdd s n).tb = s.tb := by
  constructor <;> (unfold outAdd; try dsimp only) <;> repeat' (first | with_reducible rfl | split | simp)

@[simp] theorem outSub_keeps (s : State) (n : Tenant) : (outSub s n).pending = s.pending ∧ (outSub s n).tb = s.tb := by
  constructor <;> (unfold outSub; try dsimp only) <;> repeat' (first | with_reducible rfl | split | simp)

@[simp] theorem quiesceAll_keeps (s : State) : (quiesceAll s).pending = s.pending ∧ (quiesceAll s).tb = s.tb := by
  constructor <;> (unfold quiesceAll; try dsimp only) <;> repeat' (first | with_reducible rfl | split | (simp; done) | (refine (foldS_pending _ _ _ fun s a => ?_).trans ?_) | (refine (foldS_tb _ _ _ fun s a => ?_).trans ?_) | simp)

@[simp] theorem queueEvt_keeps (s : State) (e : EvtRec) : (queueEvt s e).pending = s.pending ∧ (queueEvt s e).tb = s.tb := by
  constructor <;> (unfold queueEvt; try dsimp only) <;> repeat' (first | with_reducible rfl | split | simp)

@[simp] theorem queueFlt_keeps (s : State) (f : FltRec) : (queueFlt s f).pending = s.pending ∧ (queueFlt s f).tb = s.tb := by
  constructor <;> (unfold queueFlt; try dsimp only) <;> repeat' (first | with_reducible rfl | split | simp)

@[simp] theorem accessError_keeps (s : State) (l : Link) (n : Tenant) (off : BitVec 12) (rd : Bool) : (accessError s l n off rd).pending = s.pending ∧ (accessError s l n off rd).tb = s.tb := by
  constructor <;> (unfold accessError; try dsimp only) <;> repeat' (first | with_reducible rfl | split | simp)

@[simp] theorem poolDrop_keeps (s : State) (n : Tenant) (l : Link) (i : Intid) (record : Option (BitVec 8)) : (poolDrop s n l i record).pending = s.pending ∧ (poolDrop s n l i record).tb = s.tb := by
  constructor <;> (unfold poolDrop; try dsimp only) <;> repeat' (first | with_reducible rfl | split | simp)

@[simp] theorem queueNak_keeps (s : State) (e : SowEvent) (i : Intid) (code : Nat) : (queueNak s e i code).pending = s.pending ∧ (queueNak s e i code).tb = s.tb := by
  constructor <;> (unfold queueNak; try dsimp only) <;> repeat' (first | with_reducible rfl | split | simp)

@[simp] theorem setRing_keeps (s : State) (n : Tenant) (evt : Bool) (r : Ring) : (setRing s n evt r).pending = s.pending ∧ (setRing s n evt r).tb = s.tb := by
  constructor <;> (unfold setRing; try dsimp only) <;> repeat' (first | with_reducible rfl | split | simp)

@[simp] theorem markUnfit_keeps (s : State) : (markUnfit s).pending = s.pending ∧ (markUnfit s).tb = s.tb := by
  constructor <;> (unfold markUnfit; try dsimp only) <;> repeat' (first | with_reducible rfl | split | simp)

@[simp] theorem dropReq_keeps (s : State) (c : Nat) : (dropReq s c).pending = s.pending ∧ (dropReq s c).tb = s.tb := by
  constructor <;> (unfold dropReq; try dsimp only) <;> repeat' (first | with_reducible rfl | split | simp)

@[simp] theorem raiseReq_keeps (s : State) (c : Nat) (prio : BitVec 8) (exit : Option Link) (key : Option Nat) : (raiseReq s c prio exit key).pending = s.pending ∧ (raiseReq s c prio exit key).tb = s.tb := by
  constructor <;> (unfold raiseReq; try dsimp only) <;> repeat' (first | with_reducible rfl | split | simp)

@[simp] theorem freeGrant_keeps (s : State) (c : Nat) : (freeGrant s c).pending = s.pending ∧ (freeGrant s c).tb = s.tb := by
  constructor <;> (unfold freeGrant; try dsimp only) <;> repeat' (first | with_reducible rfl | split | simp)

@[simp] theorem startGrant_keeps (s : State) (c : Nat) : (startGrant s c).pending = s.pending ∧ (startGrant s c).tb = s.tb := by
  constructor <;> (unfold startGrant; try dsimp only) <;> repeat' (first | with_reducible rfl | split | simp)

@[simp] theorem revokeOne_keeps (s : State) (g : Grant) : (revokeOne s g).pending = s.pending ∧ (revokeOne s g).tb = s.tb := by
  constructor <;> (unfold revokeOne; try dsimp only) <;> repeat' (first | with_reducible rfl | split | simp)

@[simp] theorem revoke_keeps (s : State) : (revoke s).pending = s.pending ∧ (revoke s).tb = s.tb := by
  constructor <;> (unfold revoke; try dsimp only) <;> repeat' (first | with_reducible rfl | split | (simp; done) | (refine (foldS_pending _ _ _ fun s a => ?_).trans ?_) | (refine (foldS_tb _ _ _ fun s a => ?_).trans ?_) | simp)

@[simp] theorem arbSettle_keeps (before s : State) : (arbSettle before s).pending = s.pending ∧ (arbSettle before s).tb = s.tb := by
  constructor <;> (unfold arbSettle; try dsimp only) <;> repeat' (first | with_reducible rfl | split | simp)

@[simp] theorem cancelGrant_keeps (s : State) (c : Nat) : (cancelGrant s c).pending = s.pending ∧ (cancelGrant s c).tb = s.tb := by
  constructor <;> (unfold cancelGrant; try dsimp only) <;> repeat' (first | with_reducible rfl | split | simp)

@[simp] theorem exitRequest_keeps (s : State) (l : Link) : (exitRequest s l).pending = s.pending ∧ (exitRequest s l).tb = s.tb := by
  constructor <;> (unfold exitRequest; try dsimp only) <;> repeat' (first | with_reducible rfl | split | simp)

@[simp] theorem exitRequests_keeps (s : State) : (exitRequests s).pending = s.pending ∧ (exitRequests s).tb = s.tb := by
  constructor <;> (unfold exitRequests; try dsimp only) <;> repeat' (first | with_reducible rfl | split | (simp; done) | (refine (foldS_pending _ _ _ fun s a => ?_).trans ?_) | (refine (foldS_tb _ _ _ fun s a => ?_).trans ?_) | simp)

@[simp] theorem makeGrant_keeps (s : State) (r : Req) (saff : Bool) : (makeGrant s r saff).pending = s.pending ∧ (makeGrant s r saff).tb = s.tb := by
  constructor <;> (unfold makeGrant; try dsimp only) <;> repeat' (first | with_reducible rfl | split | simp)

@[simp] theorem setTx_keeps (s : State) (l : Link) (p : Nat) (t : LaneTx) : (setTx s l p t).pending = s.pending ∧ (setTx s l p t).tb = s.tb := by
  constructor <;> (unfold setTx; try dsimp only) <;> repeat' (first | with_reducible rfl | split | simp)

@[simp] theorem latchInterval_keeps (s : State) (l : Link) (n : Nat) : (latchInterval s l n).pending = s.pending ∧ (latchInterval s l n).tb = s.tb := by
  constructor <;> (unfold latchInterval; try dsimp only) <;> repeat' (first | with_reducible rfl | split | simp)

@[simp] theorem laneNext_keeps (s : State) (l : Link) (p : Nat) : (laneNext s l p).pending = s.pending ∧ (laneNext s l p).tb = s.tb := by
  constructor <;> (unfold laneNext; try dsimp only) <;> repeat' (first | with_reducible rfl | split | simp)

@[simp] theorem laneTick_keeps (l : Link) (s : State) (p : Nat) : (laneTick l s p).pending = s.pending ∧ (laneTick l s p).tb = s.tb := by
  constructor <;> (unfold laneTick; try dsimp only) <;> repeat' (first | with_reducible rfl | split | simp)

@[simp] theorem noteSent_keeps (s : State) (l : Link) : (noteSent s l).pending = s.pending ∧ (noteSent s l).tb = s.tb := by
  constructor <;> (unfold noteSent; try dsimp only) <;> repeat' (first | with_reducible rfl | split | simp)

@[simp] theorem lanesTick_keeps (s : State) (l : Link) : (lanesTick s l).pending = s.pending ∧ (lanesTick s l).tb = s.tb := by
  constructor <;> (unfold lanesTick; try dsimp only) <;> repeat' (first | with_reducible rfl | split | (simp; done) | (refine (foldS_pending _ _ _ fun s a => ?_).trans ?_) | (refine (foldS_tb _ _ _ fun s a => ?_).trans ?_) | simp)

@[simp] theorem beginIntervals_keeps (s : State) (l : Link) : (beginIntervals s l).pending = s.pending ∧ (beginIntervals s l).tb = s.tb := by
  constructor <;> (unfold beginIntervals; try dsimp only) <;> repeat' (first | with_reducible rfl | split | (simp; done) | (refine (foldS_pending _ _ _ fun s a => ?_).trans ?_) | (refine (foldS_tb _ _ _ fun s a => ?_).trans ?_) | simp)

@[simp] theorem activeMarks_keeps (s : State) (l : Link) (tp1 : Nat) : (activeMarks s l tp1).pending = s.pending ∧ (activeMarks s l tp1).tb = s.tb := by
  constructor <;> (unfold activeMarks; try dsimp only) <;> repeat' (first | with_reducible rfl | split | (simp; done) | (refine (foldS_pending _ _ _ fun s a => ?_).trans ?_) | (refine (foldS_tb _ _ _ fun s a => ?_).trans ?_) | simp)

@[simp] theorem fillFifos_keeps (l : Link) (n : Nat) (s : State) : (fillFifos l n s).pending = s.pending ∧ (fillFifos l n s).tb = s.tb := by
  induction n generalizing s with
  | zero => exact ⟨rfl, rfl⟩
  | succ n ih =>
    unfold fillFifos
    constructor <;> (try dsimp only) <;> repeat' (first | with_reducible rfl | split | (simp; done) | simp [ih])

@[simp] theorem fillOut_keeps (s : State) (l : Link) : (fillOut s l).pending = s.pending ∧ (fillOut s l).tb = s.tb := by
  constructor <;> (unfold fillOut; try dsimp only) <;> repeat' (first | with_reducible rfl | split | simp)

theorem nextGrain_keeps (s : State) (l : Link) (t : State × Grain) (h : nextGrain s l = some t) : t.1.pending = s.pending ∧ t.1.tb = s.tb := by
  unfold nextGrain at h
  try dsimp only at h
  repeat' (split at h)
  all_goals first
    | (exfalso; simpa using h)
    | (simp only [Option.some.injEq] at h; subst h; simp)

@[simp] theorem pushTlp_keeps (s : State) (l : Link) (type vc grains : Nat) (fn : BitVec 8) (body : List Word) (ring : Option (Bool × Tenant)) : (pushTlp s l type vc grains fn body ring).pending = s.pending ∧ (pushTlp s l type vc grains fn body ring).tb = s.tb := by
  constructor <;> (unfold pushTlp; try dsimp only) <;> repeat' (first | with_reducible rfl | split | simp)

@[simp] theorem freeRx_keeps (s : State) (l : Link) (vc g : Nat) : (freeRx s l vc g).pending = s.pending ∧ (freeRx s l vc g).tb = s.tb := by
  constructor <;> (unfold freeRx; try dsimp only) <;> repeat' (first | with_reducible rfl | split | simp)

@[simp] theorem arrive_keeps (s : State) (l : Link) (vc g : Nat) : (arrive s l vc g).pending = s.pending ∧ (arrive s l vc g).tb = s.tb := by
  constructor <;> (unfold arrive; try dsimp only) <;> repeat' (first | with_reducible rfl | split | simp)

@[simp] theorem tookRead_keeps (s : State) (l : Link) : (tookRead s l).pending = s.pending ∧ (tookRead s l).tb = s.tb := by
  constructor <;> (unfold tookRead; try dsimp only) <;> repeat' (first | with_reducible rfl | split | simp)

@[simp] theorem tookSource_keeps (s : State) (l : Link) (src : BitVec 2) : (tookSource s l src).pending = s.pending ∧ (tookSource s l src).tb = s.tb := by
  constructor <;> (unfold tookSource; try dsimp only) <;> repeat' (first | with_reducible rfl | split | simp)

@[simp] theorem sendGrains_keeps (s : State) (l : Link) (ll : LinkLayer) (gs : List Grain) : (sendGrains s l ll gs).pending = s.pending ∧ (sendGrains s l ll gs).tb = s.tb := by
  constructor <;> (unfold sendGrains; try dsimp only) <;> repeat' (first | with_reducible rfl | split | simp)

@[simp] theorem sendDue_keeps (s : State) (l : Link) : (sendDue s l).pending = s.pending ∧ (sendDue s l).tb = s.tb := by
  constructor <;> (unfold sendDue; try dsimp only) <;> repeat' (first | with_reducible rfl | split | simp)

@[simp] theorem sendWaitingCpl_keeps (s : State) (l : Link) : (sendWaitingCpl s l).pending = s.pending ∧ (sendWaitingCpl s l).tb = s.tb := by
  constructor <;> (unfold sendWaitingCpl; try dsimp only) <;> repeat' (first | with_reducible rfl | split | simp)

@[simp] theorem sendOwn_keeps (s : State) (l : Link) : (sendOwn s l).pending = s.pending ∧ (sendOwn s l).tb = s.tb := by
  constructor <;> (unfold sendOwn; try dsimp only) <;> repeat' (first | with_reducible rfl | split | simp)

@[simp] theorem wakeRequest_keeps (s : State) (t : Target) (best : Option Nat) : (wakeRequest s t best).pending = s.pending ∧ (wakeRequest s t best).tb = s.tb := by
  constructor <;> (unfold wakeRequest; try dsimp only) <;> repeat' (first | with_reducible rfl | split | simp)

@[simp] theorem refresh_keeps (s : State) (t : Target) : (refresh s t).pending = s.pending ∧ (refresh s t).tb = s.tb := by
  constructor <;> (unfold refresh; try dsimp only) <;> repeat' (first | with_reducible rfl | split | simp)

@[simp] theorem bankRefresh_keeps (s : State) (b : BitVec 4) : (bankRefresh s b).pending = s.pending ∧ (bankRefresh s b).tb = s.tb := by
  constructor <;> (unfold bankRefresh; try dsimp only) <;> repeat' (first | with_reducible rfl | split | simp)

@[simp] theorem placeOffer_keeps (s : State) (t : Target) (k : Nat) : (placeOffer s t k).pending = s.pending ∧ (placeOffer s t k).tb = s.tb := by
  constructor <;> (unfold placeOffer; try dsimp only) <;> repeat' (first | with_reducible rfl | split | simp)

@[simp] theorem dropChoice_keeps (s : State) (t : Target) : (dropChoice s t).pending = s.pending ∧ (dropChoice s t).tb = s.tb := by
  constructor <;> (unfold dropChoice; try dsimp only) <;> repeat' (first | with_reducible rfl | split | simp)

@[simp] theorem pruneWakes_keeps (s : State) : (pruneWakes s).pending = s.pending ∧ (pruneWakes s).tb = s.tb := by
  constructor <;> (unfold pruneWakes; try dsimp only) <;> repeat' (first | with_reducible rfl | split | simp)

@[simp] theorem breqRequest_keeps (s : State) (n : Nat) : (breqRequest s n).pending = s.pending ∧ (breqRequest s n).tb = s.tb := by
  constructor <;> (unfold breqRequest; try dsimp only) <;> repeat' (first | with_reducible rfl | split | simp)

@[simp] theorem engineRequest_keeps (s : State) : (engineRequest s).pending = s.pending ∧ (engineRequest s).tb = s.tb := by
  constructor <;> (unfold engineRequest; try dsimp only) <;> repeat' (first | with_reducible rfl | split | simp)

@[simp] theorem follow_keeps (s : State) : (follow s).pending = s.pending ∧ (follow s).tb = s.tb := by
  constructor <;> (unfold follow; try dsimp only) <;> repeat' (first | with_reducible rfl | split | (simp; done) | (refine (foldS_pending _ _ _ fun s a => ?_).trans ?_) | (refine (foldS_tb _ _ _ fun s a => ?_).trans ?_) | simp)

@[simp] theorem endCclk_keeps (s : State) : (endCclk s).pending = s.pending ∧ (endCclk s).tb = s.tb := by
  constructor <;> (unfold endCclk; try dsimp only) <;> repeat' (first | with_reducible rfl | split | simp)

@[simp] theorem arbFollow_keeps (s : State) : (arbFollow s).pending = s.pending ∧ (arbFollow s).tb = s.tb := by
  constructor <;> (unfold arbFollow; try dsimp only) <;> repeat' (first | with_reducible rfl | split | simp)

@[simp] theorem settle_keeps (before after : State) : (settle before after).pending = after.pending ∧ (settle before after).tb = after.tb := by
  constructor <;> (unfold settle; try dsimp only) <;> repeat' (first | with_reducible rfl | split | simp)

@[simp] theorem furrowRefresh_keeps (s : State) (b : BitVec 4) : (furrowRefresh s b).pending = s.pending ∧ (furrowRefresh s b).tb = s.tb := by
  constructor <;> (unfold furrowRefresh; try dsimp only) <;> repeat' (first | with_reducible rfl | split | simp)

@[simp] theorem routeSelect_keeps (s : State) (t : Target) : (routeSelect s t).pending = s.pending ∧ (routeSelect s t).tb = s.tb := by
  constructor <;> (unfold routeSelect; try dsimp only) <;> repeat' (first | with_reducible rfl | split | simp)

@[simp] theorem updOffer_keeps (s : State) (k : Nat) (f : Offer → Offer) : (updOffer s k f).pending = s.pending ∧ (updOffer s k f).tb = s.tb := by
  constructor <;> (unfold updOffer; try dsimp only) <;> repeat' (first | with_reducible rfl | split | simp)

@[simp] theorem offerReplayEntry_keeps (s : State) (l : Link) : (offerReplayEntry s l).pending = s.pending ∧ (offerReplayEntry s l).tb = s.tb := by
  constructor <;> (unfold offerReplayEntry; try dsimp only) <;> repeat' (first | with_reducible rfl | split | simp)

@[simp] theorem wiredRecalls_keeps (s : State) : (wiredRecalls s).pending = s.pending ∧ (wiredRecalls s).tb = s.tb := by
  constructor <;> (unfold wiredRecalls; try dsimp only) <;> repeat' (first | with_reducible rfl | split | (simp; done) | (refine (foldS_pending _ _ _ fun s a => ?_).trans ?_) | (refine (foldS_tb _ _ _ fun s a => ?_).trans ?_) | simp)

@[simp] theorem wiredOfferAssert_keeps (s : State) (t : Target) : (wiredOfferAssert s t).pending = s.pending ∧ (wiredOfferAssert s t).tb = s.tb := by
  constructor <;> (unfold wiredOfferAssert; try dsimp only) <;> repeat' (first | with_reducible rfl | split | simp)

@[simp] theorem wiredRetire_keeps (s : State) : (wiredRetire s).pending = s.pending ∧ (wiredRetire s).tb = s.tb := by
  constructor <;> (unfold wiredRetire; try dsimp only) <;> repeat' (first | with_reducible rfl | split | (simp; done) | (refine (foldS_pending _ _ _ fun s a => ?_).trans ?_) | (refine (foldS_tb _ _ _ fun s a => ?_).trans ?_) | simp)

@[simp] theorem recallSend_keeps (s : State) (l : Link) : (recallSend s l).pending = s.pending ∧ (recallSend s l).tb = s.tb := by
  constructor <;> (unfold recallSend; try dsimp only) <;> repeat' (first | with_reducible rfl | split | simp)

@[simp] theorem offerTimeout_keeps (s : State) (t : Target) (tk : BitVec 8) : (offerTimeout s t tk).pending = s.pending ∧ (offerTimeout s t tk).tb = s.tb := by
  constructor <;> (unfold offerTimeout; try dsimp only) <;> repeat' (first | with_reducible rfl | split | simp)

@[simp] theorem recallTimeout_keeps (s : State) (t : Target) (tk : BitVec 8) : (recallTimeout s t tk).pending = s.pending ∧ (recallTimeout s t tk).tb = s.tb := by
  constructor <;> (unfold recallTimeout; try dsimp only) <;> repeat' (first | with_reducible rfl | split | simp)

theorem viMsg_keeps (s : State) (l : Link) (g : Nat) (f : State → State)
    (h : ∀ s, (f s).pending = s.pending ∧ (f s).tb = s.tb) :
    (viMsg s l g f).pending = s.pending ∧ (viMsg s l g f).tb = s.tb := by
  unfold viMsg; split <;> simp [h]

@[simp] theorem claimed_keeps (s : State) (l : Link) (t : Target) (i : Intid) (tk : BitVec 8) : (claimed s l t i tk).pending = s.pending ∧ (claimed s l t i tk).tb = s.tb := by
  unfold claimed
  refine viMsg_keeps _ _ _ _ (fun s => ?_)
  constructor <;> (try dsimp only) <;> repeat' (first | with_reducible rfl | split | simp)

@[simp] theorem returned_keeps (s : State) (l : Link) (t : Target) (i : Intid) (tk : BitVec 8) : (returned s l t i tk).pending = s.pending ∧ (returned s l t i tk).tb = s.tb := by
  unfold returned
  refine viMsg_keeps _ _ _ _ (fun s => ?_)
  constructor <;> (try dsimp only) <;> repeat' (first | with_reducible rfl | split | simp)

@[simp] theorem returnedBelow_keeps (s : State) (l : Link) (t : Target) (i : Intid) (tk : BitVec 8) : (returnedBelow s l t i tk).pending = s.pending ∧ (returnedBelow s l t i tk).tb = s.tb := by
  unfold returnedBelow
  refine viMsg_keeps _ _ _ _ (fun s => ?_)
  constructor <;> (try dsimp only) <;> repeat' (first | with_reducible rfl | split | simp)

@[simp] theorem eoiMsg_keeps (s : State) (l : Link) (t : Target) (i : Intid) : (eoiMsg s l t i).pending = s.pending ∧ (eoiMsg s l t i).tb = s.tb := by
  unfold eoiMsg
  refine viMsg_keeps _ _ _ _ (fun s => ?_)
  constructor <;> (try dsimp only) <;> repeat' (first | with_reducible rfl | split | simp)

@[simp] theorem completedExit_keeps (s : State) (t : Target) (i : Intid) : (completedExit s t i).pending = s.pending ∧ (completedExit s t i).tb = s.tb := by
  constructor <;> (unfold completedExit; try dsimp only) <;> repeat' (first | with_reducible rfl | split | simp)

@[simp] theorem prioMsg_keeps (s : State) (l : Link) (t : Target) (pmr : BitVec 8) (bpr : BitVec 3) (rpr : BitVec 8) : (prioMsg s l t pmr bpr rpr).pending = s.pending ∧ (prioMsg s l t pmr bpr rpr).tb = s.tb := by
  unfold prioMsg
  refine viMsg_keeps _ _ _ _ (fun s => ?_)
  constructor <;> (try dsimp only) <;> repeat' (first | with_reducible rfl | split | simp)

@[simp] theorem stateMsg_keeps (s : State) (l : Link) (t : Target) (code : BitVec 2) : (stateMsg s l t code).pending = s.pending ∧ (stateMsg s l t code).tb = s.tb := by
  unfold stateMsg
  refine viMsg_keeps _ _ _ _ (fun s => ?_)
  constructor <;> (try dsimp only) <;> repeat' (first | with_reducible rfl | split | simp)

@[simp] theorem signalOne_keeps (sender : Target) (num : BitVec 4) (s : State) (d : Target) : (signalOne sender num s d).pending = s.pending ∧ (signalOne sender num s d).tb = s.tb := by
  constructor <;> (unfold signalOne; try dsimp only) <;> repeat' (first | with_reducible rfl | split | simp)

@[simp] theorem fanOut_keeps (s : State) (sender : Target) (num : BitVec 4) (ds : List Target) : (fanOut s sender num ds).pending = s.pending ∧ (fanOut s sender num ds).tb = s.tb := by
  constructor <;> (unfold fanOut; try dsimp only) <;> repeat' (first | with_reducible rfl | split | simp)

@[simp] theorem fanStep_keeps (s : State) : (fanStep s).pending = s.pending ∧ (fanStep s).tb = s.tb := by
  constructor <;> (unfold fanStep; try dsimp only) <;> repeat' (first | with_reducible rfl | split | (simp; done) | (refine (foldS_pending _ _ _ fun s a => ?_).trans ?_) | (refine (foldS_tb _ _ _ fun s a => ?_).trans ?_) | simp)

@[simp] theorem signalMsg_keeps (s : State) (l : Link) (sender : Target) (form : Bool) (dest : BitVec 8) (num : BitVec 4) : (signalMsg s l sender form dest num).pending = s.pending ∧ (signalMsg s l sender form dest num).tb = s.tb := by
  unfold signalMsg
  refine viMsg_keeps _ _ _ _ (fun s => ?_)
  constructor <;> (try dsimp only) <;> repeat' (first | with_reducible rfl | split | simp)

@[simp] theorem privMsg_keeps (s : State) (l : Link) (t : Target) (src : BitVec 4) (level : Bool) : (privMsg s l t src level).pending = s.pending ∧ (privMsg s l t src level).tb = s.tb := by
  unfold privMsg
  refine viMsg_keeps _ _ _ _ (fun s => ?_)
  constructor <;> (try dsimp only) <;> repeat' (first | with_reducible rfl | split | simp)

@[simp] theorem wtEoi_keeps (s : State) (t : Target) (be : BE) (i : Intid) : (wtEoi s t be i).pending = s.pending ∧ (wtEoi s t be i).tb = s.tb := by
  constructor <;> (unfold wtEoi; try dsimp only) <;> repeat' (first | with_reducible rfl | split | simp)

@[simp] theorem doReclaim_keeps (s : State) (t : Target) : (doReclaim s t).pending = s.pending ∧ (doReclaim s t).tb = s.tb := by
  constructor <;> (unfold doReclaim; try dsimp only) <;> repeat' (first | with_reducible rfl | split | simp)

@[simp] theorem setXl_keeps (s : State) (x : Xlate) : (setXl s x).pending = s.pending ∧ (setXl s x).tb = s.tb := by
  constructor <;> (unfold setXl; try dsimp only) <;> repeat' (first | with_reducible rfl | split | simp)

@[simp] theorem updWalks_keeps (s : State) (f : List Walk → List Walk) : (updWalks s f).pending = s.pending ∧ (updWalks s f).tb = s.tb := by
  constructor <;> (unfold updWalks; try dsimp only) <;> repeat' (first | with_reducible rfl | split | simp)

@[simp] theorem removeWalk_keeps (s : State) (tag : BitVec 6) : (removeWalk s tag).pending = s.pending ∧ (removeWalk s tag).tb = s.tb := by
  constructor <;> (unfold removeWalk; try dsimp only) <;> repeat' (first | with_reducible rfl | split | simp)

@[simp] theorem putWalk_keeps (s : State) (w : Walk) : (putWalk s w).pending = s.pending ∧ (putWalk s w).tb = s.tb := by
  constructor <;> (unfold putWalk; try dsimp only) <;> repeat' (first | with_reducible rfl | split | simp)

@[simp] theorem nextSerial_keeps (s : State) : (nextSerial s).pending = s.pending ∧ (nextSerial s).tb = s.tb := by
  constructor <;> (unfold nextSerial; try dsimp only) <;> repeat' (first | with_reducible rfl | split | simp)

@[simp] theorem allocWalk_keeps (s : State) (w : Walk) : (allocWalk s w).pending = s.pending ∧ (allocWalk s w).tb = s.tb := by
  constructor <;> (unfold allocWalk; try dsimp only) <;> repeat' (first | with_reducible rfl | split | simp)

@[simp] theorem outEnd_keeps (s : State) (w : Walk) : (outEnd s w).pending = s.pending ∧ (outEnd s w).tb = s.tb := by
  constructor <;> (unfold outEnd; try dsimp only) <;> repeat' (first | with_reducible rfl | split | simp)

@[simp] theorem touchT_keeps (s : State) (k way : Nat) : (touchT s k way).pending = s.pending ∧ (touchT s k way).tb = s.tb := by
  constructor <;> (unfold touchT; try dsimp only) <;> repeat' (first | with_reducible rfl | split | simp)

@[simp] theorem touchX_keeps (s : State) (k way : Nat) : (touchX s k way).pending = s.pending ∧ (touchX s k way).tb = s.tb := by
  constructor <;> (unfold touchX; try dsimp only) <;> repeat' (first | with_reducible rfl | split | simp)

@[simp] theorem pickWay_keeps (s : State) (ways : Nat) (used : List Nat) (victim : Nat) :
    (pickWay s ways used victim).1.pending = s.pending ∧ (pickWay s ways used victim).1.tb = s.tb := by
  unfold pickWay; split <;> simp

@[simp] theorem fillT_keeps (s : State) (t : TransEntry) : (fillT s t).pending = s.pending ∧ (fillT s t).tb = s.tb := by
  constructor <;> (unfold fillT; try dsimp only) <;> repeat' (first | with_reducible rfl | split | simp)

@[simp] theorem fillX_keeps (s : State) (x : XcfgEntry) : (fillX s x).pending = s.pending ∧ (fillX s x).tb = s.tb := by
  constructor <;> (unfold fillX; try dsimp only) <;> repeat' (first | with_reducible rfl | split | simp)

@[simp] theorem emptyCaches_keeps (s : State) : (emptyCaches s).pending = s.pending ∧ (emptyCaches s).tb = s.tb := by
  constructor <;> (unfold emptyCaches; try dsimp only) <;> repeat' (first | with_reducible rfl | split | simp)

@[simp] theorem placeSpill_keeps (s : State) (e : SowEvent) (i : Intid) : (placeSpill s e i).pending = s.pending ∧ (placeSpill s e i).tb = s.tb := by
  constructor <;> (unfold placeSpill; try dsimp only) <;> repeat' (first | with_reducible rfl | split | simp)

@[simp] theorem spillEvent_keeps (s : State) (e : SowEvent) (i : Intid) : (spillEvent s e i).pending = s.pending ∧ (spillEvent s e i).tb = s.tb := by
  constructor <;> (unfold spillEvent; try dsimp only) <;> repeat' (first | with_reducible rfl | split | simp)

@[simp] theorem triggerExt_keeps (s : State) (e : SowEvent) (i : Intid) (word stamp : Word) (note : Option NoteKey) : (triggerExt s e i word stamp note).pending = s.pending ∧ (triggerExt s e i word stamp note).tb = s.tb := by
  constructor <;> (unfold triggerExt; try dsimp only) <;> repeat' (first | with_reducible rfl | split | simp)

@[simp] theorem deliver_keeps (s : State) (e : SowEvent) (i : Intid) (notify : Bool) (word stamp : Word) : (deliver s e i notify word stamp).pending = s.pending ∧ (deliver s e i notify word stamp).tb = s.tb := by
  constructor <;> (unfold deliver; try dsimp only) <;> repeat' (first | with_reducible rfl | split | simp)

@[simp] theorem faultOne_keeps (w : Walk) (code stage addr : Nat) (region : Option Nat) (s : State) (e : SowEvent) : (faultOne w code stage addr region s e).pending = s.pending ∧ (faultOne w code stage addr region s e).tb = s.tb := by
  constructor <;> (unfold faultOne; try dsimp only) <;> repeat' (first | with_reducible rfl | split | simp)

@[simp] theorem keepCopy_keeps (s : State) (i : Intid) : (keepCopy s i).pending = s.pending ∧ (keepCopy s i).tb = s.tb := by
  constructor <;> (unfold keepCopy; try dsimp only) <;> repeat' (first | with_reducible rfl | split | simp)

@[simp] theorem dropSpilled_keeps (w : Walk) (code addr : Nat) (region : Option Nat) (s : State) (e : SowEvent) : (dropSpilled w code addr region s e).pending = s.pending ∧ (dropSpilled w code addr region s e).tb = s.tb := by
  constructor <;> (unfold dropSpilled; try dsimp only) <;> repeat' (first | with_reducible rfl | split | simp)

@[simp] theorem faultEffect_keeps (s : State) (w : Walk) (code stage addr : Nat) (region : Option Nat) : (faultEffect s w code stage addr region).pending = s.pending ∧ (faultEffect s w code stage addr region).tb = s.tb := by
  constructor <;> (unfold faultEffect; try dsimp only) <;> repeat' (first | with_reducible rfl | split | (simp; done) | (refine (foldS_pending _ _ _ fun s a => ?_).trans ?_) | (refine (foldS_tb _ _ _ fun s a => ?_).trans ?_) | simp)

@[simp] theorem beginWalk_keeps (s : State) (w : Walk) : (beginWalk s w).pending = s.pending ∧ (beginWalk s w).tb = s.tb := by
  constructor <;> (unfold beginWalk; try dsimp only) <;> repeat' (first | with_reducible rfl | split | simp)

@[simp] theorem repeatWalk_keeps (s : State) (w : Walk) : (repeatWalk s w).pending = s.pending ∧ (repeatWalk s w).tb = s.tb := by
  constructor <;> (unfold repeatWalk; try dsimp only) <;> repeat' (first | with_reducible rfl | split | simp)

@[simp] theorem walkFault_keeps (s : State) (w : Walk) (code stage addr : Nat) (region : Option Nat) : (walkFault s w code stage addr region).pending = s.pending ∧ (walkFault s w code stage addr region).tb = s.tb := by
  constructor <;> (unfold walkFault; try dsimp only) <;> repeat' (first | with_reducible rfl | split | simp)

@[simp] theorem fillEvent_keeps (w : Walk) (s : State) (e : SowEvent) : (fillEvent w s e).pending = s.pending ∧ (fillEvent w s e).tb = s.tb := by
  constructor <;> (unfold fillEvent; try dsimp only) <;> repeat' (first | with_reducible rfl | split | simp)

@[simp] theorem fillCaches_keeps (s : State) (w : Walk) (word : Option Word) : (fillCaches s w word).pending = s.pending ∧ (fillCaches s w word).tb = s.tb := by
  constructor <;> (unfold fillCaches; try dsimp only) <;> repeat' (first | with_reducible rfl | split | (simp; done) | (refine (foldS_pending _ _ _ fun s a => ?_).trans ?_) | (refine (foldS_tb _ _ _ fun s a => ?_).trans ?_) | simp)

@[simp] theorem refetchLost_keeps (s : State) (e : SowEvent) (i : Intid) : (refetchLost s e i).pending = s.pending ∧ (refetchLost s e i).tb = s.tb := by
  constructor <;> (unfold refetchLost; try dsimp only) <;> repeat' (first | with_reducible rfl | split | simp)

@[simp] theorem refetchDone_keeps (s : State) (e : SowEvent) (i : Intid) (born : Nat) (word stamp : Word) : (refetchDone s e i born word stamp).pending = s.pending ∧ (refetchDone s e i born word stamp).tb = s.tb := by
  constructor <;> (unfold refetchDone; try dsimp only) <;> repeat' (first | with_reducible rfl | split | simp)

@[simp] theorem retireEvent_keeps (s : State) (w : Walk) (fetched : Option Word) : (retireEvent s w fetched).pending = s.pending ∧ (retireEvent s w fetched).tb = s.tb := by
  constructor <;> (unfold retireEvent; try dsimp only) <;> repeat' (first | with_reducible rfl | split | (simp; done) | (refine (foldS_pending _ _ _ fun s a => ?_).trans ?_) | (refine (foldS_tb _ _ _ fun s a => ?_).trans ?_) | simp)

@[simp] theorem withIntid_keeps (s : State) (w0 : Walk) : (withIntid s w0).pending = s.pending ∧ (withIntid s w0).tb = s.tb := by
  constructor <;> (unfold withIntid; try dsimp only) <;> repeat' (first | with_reducible rfl | split | simp)

@[simp] theorem markSpill_keeps (s : State) (n : Tenant) : (markSpill s n).pending = s.pending ∧ (markSpill s n).tb = s.tb := by
  constructor <;> (unfold markSpill; try dsimp only) <;> repeat' (first | with_reducible rfl | split | simp)

@[simp] theorem sweepFault_keeps (s : State) (w : Walk) (code addr : Nat) (region : Option Nat) : (sweepFault s w code addr region).pending = s.pending ∧ (sweepFault s w code addr region).tb = s.tb := by
  constructor <;> (unfold sweepFault; try dsimp only) <;> repeat' (first | with_reducible rfl | split | simp)

@[simp] theorem sweepNext_keeps (s : State) (w : Walk) : (sweepNext s w).pending = s.pending ∧ (sweepNext s w).tb = s.tb := by
  constructor <;> (unfold sweepNext; try dsimp only) <;> repeat' (first | with_reducible rfl | split | simp)

@[simp] theorem sweepExtras_keeps (w : Walk) (js : List Nat) (s : State) :
    (sweepExtras s w js).1.pending = s.pending ∧ (sweepExtras s w js).1.tb = s.tb := by
  induction js generalizing s with
  | nil => exact ⟨rfl, rfl⟩
  | cons j rest ih =>
    unfold sweepExtras
    constructor <;> (try dsimp only) <;> repeat' (first | with_reducible rfl | split | simp [ih])

@[simp] theorem sweepClose_keeps (s : State) (w : Walk) :
    (sweepClose s w).pending = s.pending ∧ (sweepClose s w).tb = s.tb := by
  have h := sweepExtras_keeps w w.extra s
  unfold sweepClose
  constructor <;> (try dsimp only) <;> repeat' (first | with_reducible rfl | split | simp [h])

@[simp] theorem sweepBits_keeps (w : Walk) (n : Nat) (s : State) (a b : List Nat) :
    (sweepBits w n s a b).pending = s.pending ∧ (sweepBits w n s a b).tb = s.tb := by
  induction n generalizing s a b with
  | zero => exact ⟨rfl, rfl⟩
  | succ n ih =>
    unfold sweepBits
    constructor <;> (try dsimp only) <;> repeat' (first | with_reducible rfl | split | simp [ih])

@[simp] theorem sweepOn_keeps (s : State) (w : Walk) : (sweepOn s w).pending = s.pending ∧ (sweepOn s w).tb = s.tb := by
  constructor <;> (unfold sweepOn; try dsimp only) <;> repeat' (first | with_reducible rfl | split | simp)

@[simp] theorem sweepWord_keeps (s : State) (w : Walk) (word : Word) : (sweepWord s w word).pending = s.pending ∧ (sweepWord s w word).tb = s.tb := by
  constructor <;> (unfold sweepWord; try dsimp only) <;> repeat' (first | with_reducible rfl | split | simp)

@[simp] theorem sweepFail_keeps (s : State) (w : Walk) (code addr : Nat) (region : Option Nat) : (sweepFail s w code addr region).pending = s.pending ∧ (sweepFail s w code addr region).tb = s.tb := by
  constructor <;> (unfold sweepFail; try dsimp only) <;> repeat' (first | with_reducible rfl | split | simp)

@[simp] theorem accessFault_keeps (s : State) (w : Walk) (code : Nat) (region : Option Nat) : (accessFault s w code region).pending = s.pending ∧ (accessFault s w code region).tb = s.tb := by
  constructor <;> (unfold accessFault; try dsimp only) <;> repeat' (first | with_reducible rfl | split | simp)

@[simp] theorem readWord_keeps (s : State) (w : Walk) (n : Nat) :
    (readWord s w n).1.pending = s.pending ∧ (readWord s w n).1.tb = s.tb := by
  unfold readWord; split <;> simp

@[simp] theorem blockBits_keeps (s : State) (w : Walk) :
    (blockBits s w).1.pending = s.pending ∧ (blockBits s w).1.tb = s.tb := by
  have h : ∀ (ns : List Nat) (a : State × List Nat),
      (ns.foldl (fun a n =>
        let r := readWord a.1 w n
        (r.1, a.2 ++ ((upTo 32).filter r.2.getLsbD).map (32 * n + ·))) a).1.pending = a.1.pending ∧
      (ns.foldl (fun a n =>
        let r := readWord a.1 w n
        (r.1, a.2 ++ ((upTo 32).filter r.2.getLsbD).map (32 * n + ·))) a).1.tb = a.1.tb := by
    intro ns
    induction ns with
    | nil => exact fun _ => ⟨rfl, rfl⟩
    | cons n ns ih => intro a; simp only [List.foldl_cons]; rw [(ih _).1, (ih _).2]; simp
  exact h _ _

@[simp] theorem readResult_keeps (s0 : State) (w : Walk) : (readResult s0 w).pending = s0.pending ∧ (readResult s0 w).tb = s0.tb := by
  constructor <;> (unfold readResult; try dsimp only) <;> repeat' (first | with_reducible rfl | split | simp)

@[simp] theorem joinBlocked_keeps (s : State) (e : SowEvent) : (joinBlocked s e).pending = s.pending ∧ (joinBlocked s e).tb = s.tb := by
  constructor <;> (unfold joinBlocked; try dsimp only) <;> repeat' (first | with_reducible rfl | split | simp)

@[simp] theorem park_keeps (s : State) (e : SowEvent) : (park s e).pending = s.pending ∧ (park s e).tb = s.tb := by
  constructor <;> (unfold park; try dsimp only) <;> repeat' (first | with_reducible rfl | split | simp)

@[simp] theorem touchHit_keeps (s : State) (e : SowEvent) (i : Intid) : (touchHit s e i).pending = s.pending ∧ (touchHit s e i).tb = s.tb := by
  constructor <;> (unfold touchHit; try dsimp only) <;> repeat' (first | with_reducible rfl | split | simp)

@[simp] theorem newWalk_keeps (s : State) (e : SowEvent) (tag : BitVec 6) (start : WalkStage) (t : Option TransEntry) : (newWalk s e tag start t).pending = s.pending ∧ (newWalk s e tag start t).tb = s.tb := by
  constructor <;> (unfold newWalk; try dsimp only) <;> repeat' (first | with_reducible rfl | split | simp)

@[simp] theorem joinWalk_keeps (s : State) (e : SowEvent) : (joinWalk s e).pending = s.pending ∧ (joinWalk s e).tb = s.tb := by
  constructor <;> (unfold joinWalk; try dsimp only) <;> repeat' (first | with_reducible rfl | split | simp)

theorem needWalk_keeps (s : State) (e : SowEvent) (x : WalkStage) (c : Option TransEntry) (t : State)
    (h : needWalk s e x c = some t) : t.pending = s.pending ∧ t.tb = s.tb := by
  unfold needWalk at h
  repeat' (split at h)
  · cases h; simp
  · cases h; simp
  · cases hf : freeTag s with
    | none => simp [hf] at h
    | some tag => rw [hf] at h; cases h; simp

theorem handleEvent_keeps (s : State) (e : SowEvent) (t : State) (h : handleEvent s e = some t) :
    t.pending = s.pending ∧ t.tb = s.tb := by
  unfold handleEvent at h
  split at h
  · cases h; simp
  · split at h
    · cases h
    · cases h; simp
  · exact needWalk_keeps _ _ _ _ _ h
  · exact needWalk_keeps _ _ _ _ _ h

@[simp] theorem sowDisabled_keeps (s : State) (n : Tenant) : (sowDisabled s n).pending = s.pending ∧ (sowDisabled s n).tb = s.tb := by
  constructor <;> (unfold sowDisabled; try dsimp only) <;> repeat' (first | with_reducible rfl | split | simp)

@[simp] theorem walkerTake_keeps (s : State) : (walkerTake s).pending = s.pending ∧ (walkerTake s).tb = s.tb := by
  unfold walkerTake
  (try dsimp only)
  repeat' split
  all_goals first
    | (have h := handleEvent_keeps _ _ _ ‹handleEvent _ _ = some _›; simp [h])
    | simp

@[simp] theorem walkBlockedRelease_keeps (s : State) (n : Tenant) : (walkBlockedRelease s n).pending = s.pending ∧ (walkBlockedRelease s n).tb = s.tb := by
  unfold walkBlockedRelease
  (try dsimp only)
  repeat' split
  all_goals first
    | (have h := handleEvent_keeps _ _ _ ‹handleEvent _ _ = some _›; simp [h])
    | simp

@[simp] theorem postSent_keeps (s : State) (tag : BitVec 6) : (postSent s tag).pending = s.pending ∧ (postSent s tag).tb = s.tb := by
  constructor <;> (unfold postSent; try dsimp only) <;> repeat' (first | with_reducible rfl | split | simp)

@[simp] theorem sendWalker_keeps (s : State) (l : Link) : (sendWalker s l).pending = s.pending ∧ (sendWalker s l).tb = s.tb := by
  constructor <;> (unfold sendWalker; try dsimp only) <;> repeat' (first | with_reducible rfl | split | simp)

@[simp] theorem enterVc_keeps (s : State) (w : Walk) (l : Link) (chk : Option Nat) : (enterVc s w l chk).pending = s.pending ∧ (enterVc s w l chk).tb = s.tb := by
  constructor <;> (unfold enterVc; try dsimp only) <;> repeat' (first | with_reducible rfl | split | simp)

@[simp] theorem issueOn_keeps (s : State) (w : Walk) (l : Link) : (issueOn s w l).pending = s.pending ∧ (issueOn s w l).tb = s.tb := by
  constructor <;> (unfold issueOn; try dsimp only) <;> repeat' (first | with_reducible rfl | split | simp)

@[simp] theorem walkReadIssue_keeps (s : State) (tag : BitVec 6) : (walkReadIssue s tag).pending = s.pending ∧ (walkReadIssue s tag).tb = s.tb := by
  constructor <;> (unfold walkReadIssue; try dsimp only) <;> repeat' (first | with_reducible rfl | split | simp)

@[simp] theorem walkCompletion_keeps (s : State) (l : Link) (tag : BitVec 6) (gen : BitVec 4) (status : BitVec 3) (last : Bool) (data : CplData) : (walkCompletion s l tag gen status last data).pending = s.pending ∧ (walkCompletion s l tag gen status last data).tb = s.tb := by
  constructor <;> (unfold walkCompletion; try dsimp only) <;> repeat' (first | with_reducible rfl | split | simp)

@[simp] theorem cplTimeout_keeps (s : State) (tag : BitVec 6) : (cplTimeout s tag).pending = s.pending ∧ (cplTimeout s tag).tb = s.tb := by
  constructor <;> (unfold cplTimeout; try dsimp only) <;> repeat' (first | with_reducible rfl | split | simp)

@[simp] theorem xcfgRefetch_keeps (s : State) (i : Intid) : (xcfgRefetch s i).pending = s.pending ∧ (xcfgRefetch s i).tb = s.tb := by
  constructor <;> (unfold xcfgRefetch; try dsimp only) <;> repeat' (first | with_reducible rfl | split | simp)

@[simp] theorem sweepStart_keeps (s : State) (n : Tenant) (tag : BitVec 6) : (sweepStart s n tag).pending = s.pending ∧ (sweepStart s n tag).tb = s.tb := by
  constructor <;> (unfold sweepStart; try dsimp only) <;> repeat' (first | with_reducible rfl | split | simp)

@[simp] theorem spillSweep_keeps (s : State) (n : Tenant) (block : Nat) (access : SweepAccess) : (spillSweep s n block access).pending = s.pending ∧ (spillSweep s n block access).tb = s.tb := by
  constructor <;> (unfold spillSweep; try dsimp only) <;> repeat' (first | with_reducible rfl | split | simp)

@[simp] theorem cmpLeave_keeps (s : State) (l : Link) (n : Note) : (cmpLeave s l n).pending = s.pending ∧ (cmpLeave s l n).tb = s.tb := by
  constructor <;> (unfold cmpLeave; try dsimp only) <;> repeat' (first | with_reducible rfl | split | simp)

@[simp] theorem noteSend_keeps (s : State) (l : Link) : (noteSend s l).pending = s.pending ∧ (noteSend s l).tb = s.tb := by
  constructor <;> (unfold noteSend; try dsimp only) <;> repeat' (first | with_reducible rfl | split | simp)

@[simp] theorem cmpTimeoutDrop_keeps (s : State) (l : Link) : (cmpTimeoutDrop s l).pending = s.pending ∧ (cmpTimeoutDrop s l).tb = s.tb := by
  constructor <;> (unfold cmpTimeoutDrop; try dsimp only) <;> repeat' (first | with_reducible rfl | split | simp)

@[simp] theorem loseFault_keeps (s : State) (n : Tenant) (l : Link) : (loseFault s n l).pending = s.pending ∧ (loseFault s n l).tb = s.tb := by
  constructor <;> (unfold loseFault; try dsimp only) <;> repeat' (first | with_reducible rfl | split | simp)

@[simp] theorem ringWrite_keeps (s : State) (v : RingVc) (n : Tenant) (evt : Bool) (ws : List Word) : (ringWrite s v n evt ws).pending = s.pending ∧ (ringWrite s v n evt ws).tb = s.tb := by
  constructor <;> (unfold ringWrite; try dsimp only) <;> repeat' (first | with_reducible rfl | split | simp)

@[simp] theorem popFlt_keeps (s : State) : (popFlt s).pending = s.pending ∧ (popFlt s).tb = s.tb := by
  constructor <;> (unfold popFlt; try dsimp only) <;> repeat' (first | with_reducible rfl | split | simp)

@[simp] theorem popEvt_keeps (s : State) : (popEvt s).pending = s.pending ∧ (popEvt s).tb = s.tb := by
  constructor <;> (unfold popEvt; try dsimp only) <;> repeat' (first | with_reducible rfl | split | simp)

@[simp] theorem sendFlt_keeps (s : State) : (sendFlt s).pending = s.pending ∧ (sendFlt s).tb = s.tb := by
  constructor <;> (unfold sendFlt; try dsimp only) <;> repeat' (first | with_reducible rfl | split | simp)

@[simp] theorem sendEvt_keeps (s : State) : (sendEvt s).pending = s.pending ∧ (sendEvt s).tb = s.tb := by
  constructor <;> (unfold sendEvt; try dsimp only) <;> repeat' (first | with_reducible rfl | split | simp)

@[simp] theorem faultRecordWrite_keeps (s : State) : (faultRecordWrite s).pending = s.pending ∧ (faultRecordWrite s).tb = s.tb := by
  constructor <;> (unfold faultRecordWrite; try dsimp only) <;> repeat' (first | with_reducible rfl | split | simp)

@[simp] theorem eventRecordWrite_keeps (s : State) : (eventRecordWrite s).pending = s.pending ∧ (eventRecordWrite s).tb = s.tb := by
  constructor <;> (unfold eventRecordWrite; try dsimp only) <;> repeat' (first | with_reducible rfl | split | simp)

@[simp] theorem applyScope_keeps (s : State) (born : Nat) (c : Scope) : (applyScope s born c).pending = s.pending ∧ (applyScope s born c).tb = s.tb := by
  constructor <;> (unfold applyScope; try dsimp only) <;> repeat' (first | with_reducible rfl | split | (simp; done) | (refine (foldS_pending _ _ _ fun s a => ?_).trans ?_) | (refine (foldS_tb _ _ _ fun s a => ?_).trans ?_) | simp)

@[simp] theorem invalidationServe_keeps (s : State) : (invalidationServe s).pending = s.pending ∧ (invalidationServe s).tb = s.tb := by
  constructor <;> (unfold invalidationServe; try dsimp only) <;> repeat' (first | with_reducible rfl | split | simp)

@[simp] theorem pendInvalidate_keeps (s : State) (n : Tenant) (xcfg : Bool) (ranges : List (Nat × Nat)) (region : Bool) : (pendInvalidate s n xcfg ranges region).pending = s.pending ∧ (pendInvalidate s n xcfg ranges region).tb = s.tb := by
  constructor <;> (unfold pendInvalidate; try dsimp only) <;> repeat' (first | with_reducible rfl | split | simp)

@[simp] theorem syncDone_keeps (s : State) (n : Tenant) : (syncDone s n).pending = s.pending ∧ (syncDone s n).tb = s.tb := by
  constructor <;> (unfold syncDone; try dsimp only) <;> repeat' (first | with_reducible rfl | split | simp)

@[simp] theorem freeBlocked_keeps (s : State) (n : Tenant) : (freeBlocked s n).pending = s.pending ∧ (freeBlocked s n).tb = s.tb := by
  constructor <;> (unfold freeBlocked; try dsimp only) <;> repeat' (first | with_reducible rfl | split | simp)

@[simp] theorem leaveWalk_keeps (s : State) (w : Walk) : (leaveWalk s w).pending = s.pending ∧ (leaveWalk s w).tb = s.tb := by
  constructor <;> (unfold leaveWalk; try dsimp only) <;> repeat' (first | with_reducible rfl | split | simp)

@[simp] theorem abandonWalk_keeps (s : State) (w : Walk) : (abandonWalk s w).pending = s.pending ∧ (abandonWalk s w).tb = s.tb := by
  constructor <;> (unfold abandonWalk; try dsimp only) <;> repeat' (first | with_reducible rfl | split | (simp; done) | (refine (foldS_pending _ _ _ fun s a => ?_).trans ?_) | (refine (foldS_tb _ _ _ fun s a => ?_).trans ?_) | simp)

@[simp] theorem abandonAll_keeps (s : State) (n : Tenant) : (abandonAll s n).pending = s.pending ∧ (abandonAll s n).tb = s.tb := by
  constructor <;> (unfold abandonAll; try dsimp only) <;> repeat' (first | with_reducible rfl | split | (simp; done) | (refine (foldS_pending _ _ _ fun s a => ?_).trans ?_) | (refine (foldS_tb _ _ _ fun s a => ?_).trans ?_) | simp)

@[simp] theorem discardInts_keeps (s : State) (n : Tenant) : (discardInts s n).pending = s.pending ∧ (discardInts s n).tb = s.tb := by
  constructor <;> (unfold discardInts; try dsimp only) <;> repeat' (first | with_reducible rfl | split | (simp; done) | (refine (foldS_pending _ _ _ fun s a => ?_).trans ?_) | (refine (foldS_tb _ _ _ fun s a => ?_).trans ?_) | simp)

@[simp] theorem dropUnissued_keeps (s : State) (w : Walk) : (dropUnissued s w).pending = s.pending ∧ (dropUnissued s w).tb = s.tb := by
  constructor <;> (unfold dropUnissued; try dsimp only) <;> repeat' (first | with_reducible rfl | split | simp)

@[simp] theorem disableTenant_keeps (s : State) (n : Tenant) : (disableTenant s n).pending = s.pending ∧ (disableTenant s n).tb = s.tb := by
  constructor <;> (unfold disableTenant; try dsimp only) <;> repeat' (first | with_reducible rfl | split | (simp; done) | (refine (foldS_pending _ _ _ fun s a => ?_).trans ?_) | (refine (foldS_tb _ _ _ fun s a => ?_).trans ?_) | simp)

@[simp] theorem tenantReset_keeps (s : State) (n : Tenant) : (tenantReset s n).pending = s.pending ∧ (tenantReset s n).tb = s.tb := by
  constructor <;> (unfold tenantReset; try dsimp only) <;> repeat' (first | with_reducible rfl | split | simp)

@[simp] theorem dropQueued_keeps (n : Tenant) (s : State) (l : Link) : (dropQueued n s l).pending = s.pending ∧ (dropQueued n s l).tb = s.tb := by
  constructor <;> (unfold dropQueued; try dsimp only) <;> repeat' (first | with_reducible rfl | split | (simp; done) | (refine (foldS_pending _ _ _ fun s a => ?_).trans ?_) | (refine (foldS_tb _ _ _ fun s a => ?_).trans ?_) | simp)

@[simp] theorem dropRecords_keeps (s : State) (n : Tenant) : (dropRecords s n).pending = s.pending ∧ (dropRecords s n).tb = s.tb := by
  constructor <;> (unfold dropRecords; try dsimp only) <;> repeat' (first | with_reducible rfl | split | simp)

@[simp] theorem resetForced_keeps (s : State) (n : Tenant) : (resetForced s n).pending = s.pending ∧ (resetForced s n).tb = s.tb := by
  constructor <;> (unfold resetForced; try dsimp only) <;> repeat' (first | with_reducible rfl | split | (simp; done) | (refine (foldS_pending _ _ _ fun s a => ?_).trans ?_) | (refine (foldS_tb _ _ _ fun s a => ?_).trans ?_) | simp)

@[simp] theorem zeroBoth_keeps (s : State) (k : Nat) : (zeroBoth s k).pending = s.pending ∧ (zeroBoth s k).tb = s.tb := by
  constructor <;> (unfold zeroBoth; try dsimp only) <;> repeat' (first | with_reducible rfl | split | simp)

@[simp] theorem defaultStep_keeps (s : State) (n : Tenant) : (defaultStep s n).pending = s.pending ∧ (defaultStep s n).tb = s.tb := by
  constructor <;> (unfold defaultStep; try dsimp only) <;> repeat' (first | with_reducible rfl | split | (simp; done) | (refine (foldS_pending _ _ _ fun s a => ?_).trans ?_) | (refine (foldS_tb _ _ _ fun s a => ?_).trans ?_) | simp)

@[simp] theorem shadowMerge_keeps (s : State) (k : Nat) (hl0 : Word) (mask data : Word) : (shadowMerge s k hl0 mask data).pending = s.pending ∧ (shadowMerge s k hl0 mask data).tb = s.tb := by
  constructor <;> (unfold shadowMerge; try dsimp only) <;> repeat' (first | with_reducible rfl | split | simp)

@[simp] theorem ringBad_keeps (s : State) (n : Tenant) : (ringBad s n).pending = s.pending ∧ (ringBad s n).tb = s.tb := by
  constructor <;> (unfold ringBad; try dsimp only) <;> repeat' (first | with_reducible rfl | split | simp)

@[simp] theorem headWrite_keeps (s : State) (n : Tenant) (evt : Bool) (be : BE) (data : Word) : (headWrite s n evt be data).pending = s.pending ∧ (headWrite s n evt be data).tb = s.tb := by
  constructor <;> (unfold headWrite; try dsimp only) <;> repeat' (first | with_reducible rfl | split | simp)

@[simp] theorem tailWrite_keeps (s : State) (n : Tenant) (evt : Bool) (be : BE) (data : Word) : (tailWrite s n evt be data).pending = s.pending ∧ (tailWrite s n evt be data).tb = s.tb := by
  constructor <;> (unfold tailWrite; try dsimp only) <;> repeat' (first | with_reducible rfl | split | simp)

@[simp] theorem syncStore_keeps (s : State) (n : Tenant) (be : BE) (data : Word) : (syncStore s n be data).pending = s.pending ∧ (syncStore s n be data).tb = s.tb := by
  constructor <;> (unfold syncStore; try dsimp only) <;> repeat' (first | with_reducible rfl | split | simp)

@[simp] theorem accessRefused_keeps (s : State) (l : Link) (n : Tenant) (off : BitVec 12) (rd : Bool) : (accessRefused s l n off rd).pending = s.pending ∧ (accessRefused s l n off rd).tb = s.tb := by
  constructor <;> (unfold accessRefused; try dsimp only) <;> repeat' (first | with_reducible rfl | split | simp)

@[simp] theorem setWait_keeps (s : State) (l : Link) (ws : List PWrite) : (setWait s l ws).pending = s.pending ∧ (setWait s l ws).tb = s.tb := by
  constructor <;> (unfold setWait; try dsimp only) <;> repeat' (first | with_reducible rfl | split | simp)

@[simp] theorem countMalformed_keeps (s : State) (l : Link) : (countMalformed s l).pending = s.pending ∧ (countMalformed s l).tb = s.tb := by
  constructor <;> (unfold countMalformed; try dsimp only) <;> repeat' (first | with_reducible rfl | split | simp)

theorem applyWrite_keeps (s : State) (l : Link) (w : PWrite) (t : State) (h : applyWrite s l w = some t) : t.pending = s.pending ∧ t.tb = s.tb := by
  unfold applyWrite at h
  try dsimp only at h
  repeat' (split at h)
  all_goals first
    | (exfalso; simpa using h)
    | (simp only [Option.some.injEq] at h; subst h; constructor <;> repeat' (first | with_reducible rfl | split | (simp; done) | (refine (foldS_pending _ _ _ (fun s a => ?_)).trans ?_) | (refine (foldS_tb _ _ _ (fun s a => ?_)).trans ?_) | simp))

theorem decodeWrite_keeps (s : State) (l : Link) (w : PWrite) (t : State) (h : decodeWrite s l w = some t) :
    t.pending = s.pending ∧ t.tb = s.tb := by
  unfold decodeWrite at h
  repeat' (split at h)
  all_goals first
    | exact applyWrite_keeps _ _ _ _ h
    | (simp only [Option.some.injEq] at h; subst h; simp)

theorem takeWrite_keeps (s : State) (l : Link) (w : PWrite) (t : State) (h : takeWrite s l w = some t) :
    t.pending = s.pending ∧ t.tb = s.tb := by
  unfold takeWrite at h
  split at h
  · cases h; simp
  · exact decodeWrite_keeps _ _ _ _ h

@[simp] theorem postedWrite_keeps (s : State) (l : Link) (w : PWrite) :
    (postedWrite s l w).pending = s.pending ∧ (postedWrite s l w).tb = s.tb := by
  unfold postedWrite
  (try dsimp only)
  repeat' split
  all_goals first
    | (have h := takeWrite_keeps _ _ _ _ ‹takeWrite _ _ _ = some _›; simp [h])
    | simp

@[simp] theorem drainWait_keeps (l : Link) (n : Nat) (s : State) :
    (drainWait s l n).pending = s.pending ∧ (drainWait s l n).tb = s.tb := by
  induction n generalizing s with
  | zero => simp [drainWait]
  | succ n ih =>
    unfold drainWait
    repeat' split
    all_goals first
      | (have h := takeWrite_keeps _ _ _ _ ‹takeWrite _ _ _ = some _›; simp [ih, h])
      | simp

@[simp] theorem sowAdmit_keeps (s : State) (l : Link) : (sowAdmit s l).pending = s.pending ∧ (sowAdmit s l).tb = s.tb := by
  unfold sowAdmit
  (try dsimp only)
  repeat' split
  all_goals first
    | (have h := takeWrite_keeps _ _ _ _ ‹takeWrite _ _ _ = some _›; simp [h])
    | simp

@[simp] theorem drainInv_keeps (s : State) : (drainInv s).pending = s.pending ∧ (drainInv s).tb = s.tb := by
  constructor <;> (unfold drainInv; try dsimp only) <;> repeat' (first | with_reducible rfl | split | (simp; done) | (refine (foldS_pending _ _ _ fun s a => ?_).trans ?_) | (refine (foldS_tb _ _ _ fun s a => ?_).trans ?_) | simp)

@[simp] theorem hostWrite_keeps (s : State) (l : Link) (fn : Tenant) (off : BitVec 12) (be : BE) (data : Word) : (hostWrite s l fn off be data).pending = s.pending ∧ (hostWrite s l fn off be data).tb = s.tb := by
  constructor <;> (unfold hostWrite; try dsimp only) <;> repeat' (first | with_reducible rfl | split | simp)

@[simp] theorem malformedTlp_keeps (s : State) (l : Link) (vc g : Nat) : (malformedTlp s l vc g).pending = s.pending ∧ (malformedTlp s l vc g).tb = s.tb := by
  constructor <;> (unfold malformedTlp; try dsimp only) <;> repeat' (first | with_reducible rfl | split | simp)

@[simp] theorem rwr_keeps (s : State) (l : Link) (fn : Tenant) (off : BitVec 12) (be : BE) (data : Word) (malformed : Bool) : (rwr s l fn off be data malformed).pending = s.pending ∧ (rwr s l fn off be data malformed).tb = s.tb := by
  constructor <;> (unfold rwr; try dsimp only) <;> repeat' (first | with_reducible rfl | split | simp)

@[simp] theorem sendCpl_keeps (s : State) (l : Link) (fn : Tenant) (rtag : BitVec 8) (status : Nat) (data : Option Word) : (sendCpl s l fn rtag status data).pending = s.pending ∧ (sendCpl s l fn rtag status data).tb = s.tb := by
  constructor <;> (unfold sendCpl; try dsimp only) <;> repeat' (first | with_reducible rfl | split | simp)

@[simp] theorem rrd_keeps (s : State) (l : Link) (fn : Tenant) (off : BitVec 12) (rtag : BitVec 8) (malformed : Bool) : (rrd s l fn off rtag malformed).pending = s.pending ∧ (rrd s l fn off rtag malformed).tb = s.tb := by
  constructor <;> (unfold rrd; try dsimp only) <;> repeat' (first | with_reducible rfl | split | simp)

@[simp] theorem tbFlag_pending (s : State) (cause : BitVec 2) : (tbFlag s cause).pending = s.pending := by
  (unfold tbFlag; try dsimp only) <;> repeat' (first | with_reducible rfl | split | simp)

@[simp] theorem tbLoss_pending (s : State) : (tbLoss s).pending = s.pending := by
  (unfold tbLoss; try dsimp only) <;> repeat' (first | with_reducible rfl | split | simp)

@[simp] theorem tbMissed_pending (s : State) : (tbMissed s).pending = s.pending := by
  (unfold tbMissed; try dsimp only) <;> repeat' (first | with_reducible rfl | split | simp)

@[simp] theorem tbUnaccepted_pending (s : State) : (tbUnaccepted s).pending = s.pending := by
  (unfold tbUnaccepted; try dsimp only) <;> repeat' (first | with_reducible rfl | split | simp)

@[simp] theorem frameBoundary_pending (s : State) : (frameBoundary s).pending = s.pending := by
  (unfold frameBoundary; try dsimp only) <;> repeat' (first | with_reducible rfl | split | simp)

@[simp] theorem fsyncIn_pending (s : State) (d : Int) : (fsyncIn s d).pending = s.pending := by
  (unfold fsyncIn; try dsimp only) <;> repeat' (first | with_reducible rfl | split | simp)

@[simp] theorem tbStep_pending (s : State) (p : Nat) : (tbStep s p).pending = s.pending := by
  (unfold tbStep; try dsimp only) <;> repeat' (first | with_reducible rfl | split | simp)

@[simp] theorem fsyncOut_pending (s : State) (p gap : Nat) : (fsyncOut s p gap).pending = s.pending := by
  (unfold fsyncOut; try dsimp only) <;> repeat' (first | with_reducible rfl | split | simp)

@[simp] theorem tbSource_pending (s : State) (old new : Bool) : (tbSource s old new).pending = s.pending := by
  (unfold tbSource; try dsimp only) <;> repeat' (first | with_reducible rfl | split | simp)

@[simp] theorem wiredPass_keeps (s : State) (n : Nat) : (wiredPass s n).pending = s.pending ∧ (wiredPass s n).tb = s.tb := by
  constructor <;> (unfold wiredPass; try dsimp only) <;> repeat' (first | with_reducible rfl | split | simp)

@[simp] theorem wiredDetect_keeps (s : State) (n : Nat) : (wiredDetect s n).pending = s.pending ∧ (wiredDetect s n).tb = s.tb := by
  constructor <;> (unfold wiredDetect; try dsimp only) <;> repeat' (first | with_reducible rfl | split | simp)

@[simp] theorem wirqTransition_keeps (s : State) (n : Nat) (level : Bool) : (wirqTransition s n level).pending = s.pending ∧ (wirqTransition s n level).tb = s.tb := by
  constructor <;> (unfold wirqTransition; try dsimp only) <;> repeat' (first | with_reducible rfl | split | simp)

@[simp] theorem wirqFilterPass_keeps (s : State) (n : Nat) : (wirqFilterPass s n).pending = s.pending ∧ (wirqFilterPass s n).tb = s.tb := by
  constructor <;> (unfold wirqFilterPass; try dsimp only) <;> repeat' (first | with_reducible rfl | split | simp)

@[simp] theorem wiredCommit_keeps (s : State) (n : Nat) (w0 w1 : Word) : (wiredCommit s n w0 w1).pending = s.pending ∧ (wiredCommit s n w0 w1).tb = s.tb := by
  constructor <;> (unfold wiredCommit; try dsimp only) <;> repeat' (first | with_reducible rfl | split | simp)

end Sys2Proof.Machine
end

