-- ==== Sys2Proof/Laws/KeepsB.lean ====
section
/-!
SUPPORT. Laws/KeepsB.lean: what the operations of the links' training and packets, the store, the Steward, the engine and the bundles leave alone: the
queue of waiting commands and, but for the operations of the timebase itself, the timebase.
-/
set_option linter.unusedTactic false
set_option linter.unreachableTactic false

namespace Sys2Proof.Machine

@[simp] theorem setLl_keeps (s : State) (l : Link) (f : LinkLayer → LinkLayer) : (setLl s l f).pending = s.pending ∧ (setLl s l f).tb = s.tb := by
  constructor <;> (unfold setLl; try dsimp only) <;> repeat' (first | with_reducible rfl | split | simp)

@[simp] theorem lkEvt_keeps (s : State) (l : Link) (f : BitVec 24) : (lkEvt s l f).pending = s.pending ∧ (lkEvt s l f).tb = s.tb := by
  constructor <;> (unfold lkEvt; try dsimp only) <;> repeat' (first | with_reducible rfl | split | simp)

@[simp] theorem mapLanes_keeps (s : State) (l : Link) (f : LaneRec → LaneRec) : (mapLanes s l f).pending = s.pending ∧ (mapLanes s l f).tb = s.tb := by
  constructor <;> (unfold mapLanes; try dsimp only) <;> repeat' (first | with_reducible rfl | split | (simp; done) | (refine (foldS_pending _ _ _ fun s a => ?_).trans ?_) | (refine (foldS_tb _ _ _ fun s a => ?_).trans ?_) | simp)

@[simp] theorem refreshAlign_keeps (s : State) (l : Link) : (refreshAlign s l).pending = s.pending ∧ (refreshAlign s l).tb = s.tb := by
  constructor <;> (unfold refreshAlign; try dsimp only) <;> repeat' (first | with_reducible rfl | split | simp)

@[simp] theorem dropLanes_keeps (s : State) (l : Link) : (dropLanes s l).pending = s.pending ∧ (dropLanes s l).tb = s.tb := by
  constructor <;> (unfold dropLanes; try dsimp only) <;> repeat' (first | with_reducible rfl | split | simp)

@[simp] theorem searchLanes_keeps (s : State) (l : Link) : (searchLanes s l).pending = s.pending ∧ (searchLanes s l).tb = s.tb := by
  constructor <;> (unfold searchLanes; try dsimp only) <;> repeat' (first | with_reducible rfl | split | simp)

@[simp] theorem loseRing_keeps (l : Link) (s : State) (t : Tlp) : (loseRing l s t).pending = s.pending ∧ (loseRing l s t).tb = s.tb := by
  constructor <;> (unfold loseRing; try dsimp only) <;> repeat' (first | with_reducible rfl | split | simp)

@[simp] theorem faultReads_keeps (s : State) (l : Link) : (faultReads s l).pending = s.pending ∧ (faultReads s l).tb = s.tb := by
  constructor <;> (unfold faultReads; try dsimp only) <;> repeat' (first | with_reducible rfl | split | (simp; done) | (refine (foldS_pending _ _ _ fun s a => ?_).trans ?_) | (refine (foldS_tb _ _ _ fun s a => ?_).trans ?_) | simp)

@[simp] theorem dropPost_keeps (s : State) (w : Walk) : (dropPost s w).pending = s.pending ∧ (dropPost s w).tb = s.tb := by
  constructor <;> (unfold dropPost; try dsimp only) <;> repeat' (first | with_reducible rfl | split | (simp; done) | (refine (foldS_pending _ _ _ fun s a => ?_).trans ?_) | (refine (foldS_tb _ _ _ fun s a => ?_).trans ?_) | simp)

@[simp] theorem dropPosts_keeps (s : State) (l : Link) : (dropPosts s l).pending = s.pending ∧ (dropPosts s l).tb = s.tb := by
  constructor <;> (unfold dropPosts; try dsimp only) <;> repeat' (first | with_reducible rfl | split | (simp; done) | (refine (foldS_pending _ _ _ fun s a => ?_).trans ?_) | (refine (foldS_tb _ _ _ fun s a => ?_).trans ?_) | simp)

@[simp] theorem dropNotes_keeps (s : State) (l : Link) : (dropNotes s l).pending = s.pending ∧ (dropNotes s l).tb = s.tb := by
  constructor <;> (unfold dropNotes; try dsimp only) <;> repeat' (first | with_reducible rfl | split | (simp; done) | (refine (foldS_pending _ _ _ fun s a => ?_).trans ?_) | (refine (foldS_tb _ _ _ fun s a => ?_).trans ?_) | simp)

@[simp] theorem goDown_keeps (s : State) (l : Link) : (goDown s l).pending = s.pending ∧ (goDown s l).tb = s.tb := by
  constructor <;> (unfold goDown; try dsimp only) <;> repeat' (first | with_reducible rfl | split | (simp; done) | (refine (foldS_pending _ _ _ fun s a => ?_).trans ?_) | (refine (foldS_tb _ _ _ fun s a => ?_).trans ?_) | simp)

@[simp] theorem linkFail_keeps (s : State) (l : Link) (cause : BitVec 3) : (linkFail s l cause).pending = s.pending ∧ (linkFail s l cause).tb = s.tb := by
  constructor <;> (unfold linkFail; try dsimp only) <;> repeat' (first | with_reducible rfl | split | simp)

@[simp] theorem failPass_keeps (s : State) (l : Link) : (failPass s l).pending = s.pending ∧ (failPass s l).tb = s.tb := by
  constructor <;> (unfold failPass; try dsimp only) <;> repeat' (first | with_reducible rfl | split | simp)

@[simp] theorem failRate_keeps (s : State) (l : Link) : (failRate s l).pending = s.pending ∧ (failRate s l).tb = s.tb := by
  constructor <;> (unfold failRate; try dsimp only) <;> repeat' (first | with_reducible rfl | split | simp)

@[simp] theorem failExit_keeps (s : State) (l : Link) : (failExit s l).pending = s.pending ∧ (failExit s l).tb = s.tb := by
  constructor <;> (unfold failExit; try dsimp only) <;> repeat' (first | with_reducible rfl | split | simp)

@[simp] theorem reachEvents_keeps (s : State) (l : Link) (training : Bool) : (reachEvents s l training).pending = s.pending ∧ (reachEvents s l training).tb = s.tb := by
  constructor <;> (unfold reachEvents; try dsimp only) <;> repeat' (first | with_reducible rfl | split | simp)

@[simp] theorem startRegroup_keeps (s : State) (l : Link) (cap : Nat) (rate : Option (BitVec 2)) : (startRegroup s l cap rate).pending = s.pending ∧ (startRegroup s l cap rate).tb = s.tb := by
  constructor <;> (unfold startRegroup; try dsimp only) <;> repeat' (first | with_reducible rfl | split | simp)

@[simp] theorem regroupAgain_keeps (s : State) (l : Link) : (regroupAgain s l).pending = s.pending ∧ (regroupAgain s l).tb = s.tb := by
  constructor <;> (unfold regroupAgain; try dsimp only) <;> repeat' (first | with_reducible rfl | split | simp)

@[simp] theorem regroupEnds_keeps (s : State) (l : Link) : (regroupEnds s l).pending = s.pending ∧ (regroupEnds s l).tb = s.tb := by
  constructor <;> (unfold regroupEnds; try dsimp only) <;> repeat' (first | with_reducible rfl | split | simp)

@[simp] theorem enterActive_keeps (s : State) (l : Link) : (enterActive s l).pending = s.pending ∧ (enterActive s l).tb = s.tb := by
  constructor <;> (unfold enterActive; try dsimp only) <;> repeat' (first | with_reducible rfl | split | simp)

@[simp] theorem takeMode_keeps (s : State) (l : Link) (p : Nat) : (takeMode s l p).pending = s.pending ∧ (takeMode s l p).tb = s.tb := by
  constructor <;> (unfold takeMode; try dsimp only) <;> repeat' (first | with_reducible rfl | split | simp)

@[simp] theorem takeModes_keeps (s : State) (l : Link) : (takeModes s l).pending = s.pending ∧ (takeModes s l).tb = s.tb := by
  constructor <;> (unfold takeModes; try dsimp only) <;> repeat' (first | with_reducible rfl | split | (simp; done) | (refine (foldS_pending _ _ _ fun s a => ?_).trans ?_) | (refine (foldS_tb _ _ _ fun s a => ?_).trans ?_) | simp)

@[simp] theorem takePeak_keeps (s : State) (l : Link) (p : Nat) (found : BitVec 4) : (takePeak s l p found).pending = s.pending ∧ (takePeak s l p found).tb = s.tb := by
  constructor <;> (unfold takePeak; try dsimp only) <;> repeat' (first | with_reducible rfl | split | simp)

@[simp] theorem takePeaks_keeps (s : State) (l : Link) (peaks : BitVec 16) : (takePeaks s l peaks).pending = s.pending ∧ (takePeaks s l peaks).tb = s.tb := by
  constructor <;> (unfold takePeaks; try dsimp only) <;> repeat' (first | with_reducible rfl | split | (simp; done) | (refine (foldS_pending _ _ _ fun s a => ?_).trans ?_) | (refine (foldS_tb _ _ _ fun s a => ?_).trans ?_) | simp)

@[simp] theorem lockGone_keeps (s : State) (l : Link) (p : Nat) : (lockGone s l p).pending = s.pending ∧ (lockGone s l p).tb = s.tb := by
  constructor <;> (unfold lockGone; try dsimp only) <;> repeat' (first | with_reducible rfl | split | simp)

@[simp] theorem noteShake_keeps (s : State) (l : Link) (g : Grain) : (noteShake s l g).pending = s.pending ∧ (noteShake s l g).tb = s.tb := by
  constructor <;> (unfold noteShake; try dsimp only) <;> repeat' (first | with_reducible rfl | split | simp)

@[simp] theorem trainingGrainIn_keeps (s : State) (l : Link) (g : Grain) : (trainingGrainIn s l g).pending = s.pending ∧ (trainingGrainIn s l g).tb = s.tb := by
  constructor <;> (unfold trainingGrainIn; try dsimp only) <;> repeat' (first | with_reducible rfl | split | simp)

@[simp] theorem closeCaps_keeps (s : State) (l : Link) : (closeCaps s l).pending = s.pending ∧ (closeCaps s l).tb = s.tb := by
  constructor <;> (unfold closeCaps; try dsimp only) <;> repeat' (first | with_reducible rfl | split | simp)

@[simp] theorem grainEvent_keeps (l : Link) (p : Nat) (s : State) (ev : Option Grain) : (grainEvent l p s ev).pending = s.pending ∧ (grainEvent l p s ev).tb = s.tb := by
  constructor <;> (unfold grainEvent; try dsimp only) <;> repeat' (first | with_reducible rfl | split | simp)

@[simp] theorem laneStepped_keeps (l : Link) (p : Nat) (s : State) (b : LaneRec) (ev : List (Option Grain)) : (laneStepped l p s b ev).pending = s.pending ∧ (laneStepped l p s b ev).tb = s.tb := by
  constructor <;> (unfold laneStepped; try dsimp only) <;> repeat' (first | with_reducible rfl | split | (simp; done) | (refine (foldS_pending _ _ _ fun s a => ?_).trans ?_) | (refine (foldS_tb _ _ _ fun s a => ?_).trans ?_) | simp)

@[simp] theorem laneGo_keeps (l : Link) (p : Nat) (n : Nat) (s : State) :
    (laneGo l p n s).pending = s.pending ∧ (laneGo l p n s).tb = s.tb := by
  induction n generalizing s with
  | zero => exact ⟨rfl, rfl⟩
  | succ n ih =>
    unfold laneGo
    constructor <;> (try dsimp only) <;> repeat' (first | with_reducible rfl | split | (simp; done) | simp [ih])

@[simp] theorem laneFeed_keeps (s : State) (l : Link) (p : Nat) (bits : List Bool) : (laneFeed s l p bits).pending = s.pending ∧ (laneFeed s l p bits).tb = s.tb := by
  constructor <;> (unfold laneFeed; try dsimp only) <;> repeat' (first | with_reducible rfl | split | simp)

@[simp] theorem deskewGroup_keeps (s : State) (l : Link) : (deskewGroup s l).pending = s.pending ∧ (deskewGroup s l).tb = s.tb := by
  constructor <;> (unfold deskewGroup; try dsimp only) <;> repeat' (first | with_reducible rfl | split | (simp; done) | (refine (foldS_pending _ _ _ fun s a => ?_).trans ?_) | (refine (foldS_tb _ _ _ fun s a => ?_).trans ?_) | simp)

@[simp] theorem lineIn_keeps (s : State) (l : Link) (lines : Lines) : (lineIn s l lines).pending = s.pending ∧ (lineIn s l lines).tb = s.tb := by
  constructor <;> (unfold lineIn; try dsimp only) <;> repeat' (first | with_reducible rfl | split | (simp; done) | (refine (foldS_pending _ _ _ fun s a => ?_).trans ?_) | (refine (foldS_tb _ _ _ fun s a => ?_).trans ?_) | simp)

@[simp] theorem laneIn_keeps (s : State) (l : Link) (p : Nat) (bits : List Bool) : (laneIn s l p bits).pending = s.pending ∧ (laneIn s l p bits).tb = s.tb := by
  constructor <;> (unfold laneIn; try dsimp only) <;> repeat' (first | with_reducible rfl | split | simp)

@[simp] theorem shakeTp2_keeps (s : State) (l : Link) (late : Bool) : (shakeTp2 s l late).pending = s.pending ∧ (shakeTp2 s l late).tb = s.tb := by
  constructor <;> (unfold shakeTp2; try dsimp only) <;> repeat' (first | with_reducible rfl | split | simp)

@[simp] theorem shakeCaps_keeps (s : State) (l : Link) : (shakeCaps s l).pending = s.pending ∧ (shakeCaps s l).tb = s.tb := by
  constructor <;> (unfold shakeCaps; try dsimp only) <;> repeat' (first | with_reducible rfl | split | simp)

@[simp] theorem shake_keeps (s : State) (l : Link) (late : Bool) : (shake s l late).pending = s.pending ∧ (shake s l late).tb = s.tb := by
  constructor <;> (unfold shake; try dsimp only) <;> repeat' (first | with_reducible rfl | split | simp)

@[simp] theorem beginTp2_keeps (s : State) (l : Link) : (beginTp2 s l).pending = s.pending ∧ (beginTp2 s l).tb = s.tb := by
  constructor <;> (unfold beginTp2; try dsimp only) <;> repeat' (first | with_reducible rfl | split | simp)

@[simp] theorem alignExit_keeps (s : State) (l : Link) : (alignExit s l).pending = s.pending ∧ (alignExit s l).tb = s.tb := by
  constructor <;> (unfold alignExit; try dsimp only) <;> repeat' (first | with_reducible rfl | split | simp)

@[simp] theorem capsExit_keeps (s : State) (l : Link) : (capsExit s l).pending = s.pending ∧ (capsExit s l).tb = s.tb := by
  constructor <;> (unfold capsExit; try dsimp only) <;> repeat' (first | with_reducible rfl | split | simp)

@[simp] theorem alignRateExit_keeps (s : State) (l : Link) : (alignRateExit s l).pending = s.pending ∧ (alignRateExit s l).tb = s.tb := by
  constructor <;> (unfold alignRateExit; try dsimp only) <;> repeat' (first | with_reducible rfl | split | simp)

@[simp] theorem regroupExit_keeps (s : State) (l : Link) : (regroupExit s l).pending = s.pending ∧ (regroupExit s l).tb = s.tb := by
  constructor <;> (unfold regroupExit; try dsimp only) <;> repeat' (first | with_reducible rfl | split | simp)

@[simp] theorem stepExit_keeps (s : State) (l : Link) (info : TrainInfo) : (stepExit s l info).pending = s.pending ∧ (stepExit s l info).tb = s.tb := by
  constructor <;> (unfold stepExit; try dsimp only) <;> repeat' (first | with_reducible rfl | split | simp)

@[simp] theorem trainingStepExit_keeps (s : State) (l : Link) (info : TrainInfo) : (trainingStepExit s l info).pending = s.pending ∧ (trainingStepExit s l info).tb = s.tb := by
  constructor <;> (unfold trainingStepExit; try dsimp only) <;> repeat' (first | with_reducible rfl | split | simp)

@[simp] theorem trainingStepTimeout_keeps (s : State) (l : Link) : (trainingStepTimeout s l).pending = s.pending ∧ (trainingStepTimeout s l).tb = s.tb := by
  constructor <;> (unfold trainingStepTimeout; try dsimp only) <;> repeat' (first | with_reducible rfl | split | simp)

@[simp] theorem detectPoll_keeps (s : State) (l : Link) (mask : BitVec 4) : (detectPoll s l mask).pending = s.pending ∧ (detectPoll s l mask).tb = s.tb := by
  constructor <;> (unfold detectPoll; try dsimp only) <;> repeat' (first | with_reducible rfl | split | simp)

@[simp] theorem trainHoldoffEnd_keeps (s : State) (l : Link) : (trainHoldoffEnd s l).pending = s.pending ∧ (trainHoldoffEnd s l).tb = s.tb := by
  constructor <;> (unfold trainHoldoffEnd; try dsimp only) <;> repeat' (first | with_reducible rfl | split | simp)

@[simp] theorem electricalIdleSeen_keeps (s : State) (l : Link) : (electricalIdleSeen s l).pending = s.pending ∧ (electricalIdleSeen s l).tb = s.tb := by
  constructor <;> (unfold electricalIdleSeen; try dsimp only) <;> repeat' (first | with_reducible rfl | split | simp)

@[simp] theorem grainLock_keeps (s : State) (l : Link) (p : Nat) (peak : BitVec 4) (bits : List Bool) : (grainLock s l p peak bits).pending = s.pending ∧ (grainLock s l p peak bits).tb = s.tb := by
  constructor <;> (unfold grainLock; try dsimp only) <;> repeat' (first | with_reducible rfl | split | simp)

@[simp] theorem laneLockLoss_keeps (s : State) (l : Link) (p : Nat) (cause : LockLossCause) : (laneLockLoss s l p cause).pending = s.pending ∧ (laneLockLoss s l p cause).tb = s.tb := by
  constructor <;> (unfold laneLockLoss; try dsimp only) <;> repeat' (first | with_reducible rfl | split | simp)

@[simp] theorem laneReadmit_keeps (s : State) (l : Link) (p : Nat) : (laneReadmit s l p).pending = s.pending ∧ (laneReadmit s l p).tb = s.tb := by
  constructor <;> (unfold laneReadmit; try dsimp only) <;> repeat' (first | with_reducible rfl | split | simp)

@[simp] theorem equaliserTracking_keeps (s : State) (l : Link) (p : Nat) (up : Bool) : (equaliserTracking s l p up).pending = s.pending ∧ (equaliserTracking s l p up).tb = s.tb := by
  constructor <;> (unfold equaliserTracking; try dsimp only) <;> repeat' (first | with_reducible rfl | split | simp)

@[simp] theorem regroupStart_keeps (s : State) (l : Link) : (regroupStart s l).pending = s.pending ∧ (regroupStart s l).tb = s.tb := by
  constructor <;> (unfold regroupStart; try dsimp only) <;> repeat' (first | with_reducible rfl | split | simp)

@[simp] theorem regroupGrain_keeps (s : State) (l : Link) (lines : Lines) : (regroupGrain s l lines).pending = s.pending ∧ (regroupGrain s l lines).tb = s.tb := by
  constructor <;> (unfold regroupGrain; try dsimp only) <;> repeat' (first | with_reducible rfl | split | simp)

@[simp] theorem regroupTimeout_keeps (s : State) (l : Link) : (regroupTimeout s l).pending = s.pending ∧ (regroupTimeout s l).tb = s.tb := by
  constructor <;> (unfold regroupTimeout; try dsimp only) <;> repeat' (first | with_reducible rfl | split | simp)

@[simp] theorem linkDown_keeps (s : State) (l : Link) (lines : Lines) : (linkDown s l lines).pending = s.pending ∧ (linkDown s l lines).tb = s.tb := by
  constructor <;> (unfold linkDown; try dsimp only) <;> repeat' (first | with_reducible rfl | split | simp)

@[simp] theorem doRetrain_keeps (s : State) (l : Link) : (doRetrain s l).pending = s.pending ∧ (doRetrain s l).tb = s.tb := by
  constructor <;> (unfold doRetrain; try dsimp only) <;> repeat' (first | with_reducible rfl | split | simp)

@[simp] theorem commitActive_keeps (s : State) (l : Link) (r : LinkRec) : (commitActive s l r).pending = s.pending ∧ (commitActive s l r).tb = s.tb := by
  constructor <;> (unfold commitActive; try dsimp only) <;> repeat' (first | with_reducible rfl | split | simp)

@[simp] theorem commitRegroup_keeps (s : State) (l : Link) (r : LinkRec) : (commitRegroup s l r).pending = s.pending ∧ (commitRegroup s l r).tb = s.tb := by
  constructor <;> (unfold commitRegroup; try dsimp only) <;> repeat' (first | with_reducible rfl | split | simp)

@[simp] theorem linkCommit_keeps (s : State) (l : Link) (old : Word) : (linkCommit s l old).pending = s.pending ∧ (linkCommit s l old).tb = s.tb := by
  constructor <;> (unfold linkCommit; try dsimp only) <;> repeat' (first | with_reducible rfl | split | simp)

@[simp] theorem laneCommit_keeps (s : State) (idx : Nat) (old : Word) : (laneCommit s idx old).pending = s.pending ∧ (laneCommit s idx old).tb = s.tb := by
  constructor <;> (unfold laneCommit; try dsimp only) <;> repeat' (first | with_reducible rfl | split | simp)

@[simp] theorem setMem_keeps (s : State) (m : Tab Byte) : (setMem s m).pending = s.pending ∧ (setMem s m).tb = s.tb := by
  constructor <;> (unfold setMem; try dsimp only) <;> repeat' (first | with_reducible rfl | split | simp)

@[simp] theorem nvWrite_keeps (s : State) (a : Nat) (b : List Byte) : (nvWrite s a b).pending = s.pending ∧ (nvWrite s a b).tb = s.tb := by
  constructor <;> (unfold nvWrite; try dsimp only) <;> repeat' (first | with_reducible rfl | split | simp)

@[simp] theorem nvEraseSector_keeps (s : State) (sec : Nat) : (nvEraseSector s sec).pending = s.pending ∧ (nvEraseSector s sec).tb = s.tb := by
  constructor <;> (unfold nvEraseSector; try dsimp only) <;> repeat' (first | with_reducible rfl | split | simp)

@[simp] theorem nvSpoil_keeps (s : State) (sec : Nat) : (nvSpoil s sec).pending = s.pending ∧ (nvSpoil s sec).tb = s.tb := by
  constructor <;> (unfold nvSpoil; try dsimp only) <;> repeat' (first | with_reducible rfl | split | simp)

@[simp] theorem nvSpoilWord_keeps (s : State) (a : Nat) : (nvSpoilWord s a).pending = s.pending ∧ (nvSpoilWord s a).tb = s.tb := by
  constructor <;> (unfold nvSpoilWord; try dsimp only) <;> repeat' (first | with_reducible rfl | split | simp)

@[simp] theorem eccTake_keeps (s : State) (e : Ecc) (a n : Nat) : (eccTake s e a n).pending = s.pending ∧ (eccTake s e a n).tb = s.tb := by
  constructor <;> (unfold eccTake; try dsimp only) <;> repeat' (first | with_reducible rfl | split | simp)

@[simp] theorem setAreaPos_keeps (s : State) (a : Area) (p : AreaPos) : (setAreaPos s a p).pending = s.pending ∧ (setAreaPos s a p).tb = s.tb := by
  constructor <;> (unfold setAreaPos; try dsimp only) <;> repeat' (first | with_reducible rfl | split | simp)

@[simp] theorem learnStore_keeps (s : State) : (learnStore s).pending = s.pending ∧ (learnStore s).tb = s.tb := by
  constructor <;> (unfold learnStore; try dsimp only) <;> repeat' (first | with_reducible rfl | split | simp)

@[simp] theorem loadCal_keeps (s : State) : (loadCal s).pending = s.pending ∧ (loadCal s).tb = s.tb := by
  constructor <;> (unfold loadCal; try dsimp only) <;> repeat' (first | with_reducible rfl | split | simp)

@[simp] theorem setSlot_keeps (s : State) (k : Nat) (x : KeySlot) : (setSlot s k x).pending = s.pending ∧ (setSlot s k x).tb = s.tb := by
  constructor <;> (unfold setSlot; try dsimp only) <;> repeat' (first | with_reducible rfl | split | simp)

@[simp] theorem setCtx_keeps (s : State) (c : Nat) (x : Ctx) : (setCtx s c x).pending = s.pending ∧ (setCtx s c x).tb = s.tb := by
  constructor <;> (unfold setCtx; try dsimp only) <;> repeat' (first | with_reducible rfl | split | simp)

@[simp] theorem settleSlots_keeps (s : State) : (settleSlots s).pending = s.pending ∧ (settleSlots s).tb = s.tb := by
  constructor <;> (unfold settleSlots; try dsimp only) <;> repeat' (first | with_reducible rfl | split | (simp; done) | (refine (foldS_pending _ _ _ fun s a => ?_).trans ?_) | (refine (foldS_tb _ _ _ fun s a => ?_).trans ?_) | simp)

@[simp] theorem putKey_keeps (s : State) (k : Nat) (key : Key) : (putKey s k key).pending = s.pending ∧ (putKey s k key).tb = s.tb := by
  constructor <;> (unfold putKey; try dsimp only) <;> repeat' (first | with_reducible rfl | split | simp)

@[simp] theorem eraseSlot_keeps (s : State) (k : Nat) : (eraseSlot s k).pending = s.pending ∧ (eraseSlot s k).tb = s.tb := by
  constructor <;> (unfold eraseSlot; try dsimp only) <;> repeat' (first | with_reducible rfl | split | (simp; done) | (refine (foldS_pending _ _ _ fun s a => ?_).trans ?_) | (refine (foldS_tb _ _ _ fun s a => ?_).trans ?_) | simp)

@[simp] theorem loadKeys_keeps (s : State) : (loadKeys s).pending = s.pending ∧ (loadKeys s).tb = s.tb := by
  constructor <;> (unfold loadKeys; try dsimp only) <;> repeat' (first | with_reducible rfl | split | (simp; done) | (refine (foldS_pending _ _ _ fun s a => ?_).trans ?_) | (refine (foldS_tb _ _ _ fun s a => ?_).trans ?_) | simp)

@[simp] theorem shadowsReset_keeps (s : State) : (shadowsReset s).pending = s.pending ∧ (shadowsReset s).tb = s.tb := by
  constructor <;> (unfold shadowsReset; try dsimp only) <;> repeat' (first | with_reducible rfl | split | simp)

@[simp] theorem writeRecords_keeps (s : State) (rs : List Rec) : (writeRecords s rs).pending = s.pending ∧ (writeRecords s rs).tb = s.tb := by
  constructor <;> (unfold writeRecords; try dsimp only) <;> repeat' (first | with_reducible rfl | split | (simp; done) | (refine (foldS_pending _ _ _ fun s a => ?_).trans ?_) | (refine (foldS_tb _ _ _ fun s a => ?_).trans ?_) | simp)

@[simp] theorem linkPwrEntry_keeps (s : State) (l : Link) : (linkPwrEntry s l).pending = s.pending ∧ (linkPwrEntry s l).tb = s.tb := by
  constructor <;> (unfold linkPwrEntry; try dsimp only) <;> repeat' (first | with_reducible rfl | split | simp)

@[simp] theorem coastLanes_keeps (s : State) (l : Link) : (coastLanes s l).pending = s.pending ∧ (coastLanes s l).tb = s.tb := by
  constructor <;> (unfold coastLanes; try dsimp only) <;> repeat' (first | with_reducible rfl | split | simp)

@[simp] theorem enterIdle_keeps (s : State) (l : Link) (step : Nat) : (enterIdle s l step).pending = s.pending ∧ (enterIdle s l step).tb = s.tb := by
  constructor <;> (unfold enterIdle; try dsimp only) <;> repeat' (first | with_reducible rfl | split | simp)

@[simp] theorem enterFallow_keeps (s : State) (l : Link) (st : LinkState) (step : Nat) : (enterFallow s l st step).pending = s.pending ∧ (enterFallow s l st step).tb = s.tb := by
  constructor <;> (unfold enterFallow; try dsimp only) <;> repeat' (first | with_reducible rfl | split | simp)

@[simp] theorem entryMarkAnswer_keeps (s : State) (l : Link) : (entryMarkAnswer s l).pending = s.pending ∧ (entryMarkAnswer s l).tb = s.tb := by
  constructor <;> (unfold entryMarkAnswer; try dsimp only) <;> repeat' (first | with_reducible rfl | split | simp)

@[simp] theorem cancelEntry_keeps (s : State) (l : Link) : (cancelEntry s l).pending = s.pending ∧ (cancelEntry s l).tb = s.tb := by
  constructor <;> (unfold cancelEntry; try dsimp only) <;> repeat' (first | with_reducible rfl | split | simp)

@[simp] theorem entryTimeout_keeps (s : State) (l : Link) : (entryTimeout s l).pending = s.pending ∧ (entryTimeout s l).tb = s.tb := by
  constructor <;> (unfold entryTimeout; try dsimp only) <;> repeat' (first | with_reducible rfl | split | simp)

@[simp] theorem exitDone_keeps (s : State) (l : Link) : (exitDone s l).pending = s.pending ∧ (exitDone s l).tb = s.tb := by
  constructor <;> (unfold exitDone; try dsimp only) <;> repeat' (first | with_reducible rfl | split | simp)

@[simp] theorem idleExit_keeps (s : State) (l : Link) (byEndpoint : Bool) : (idleExit s l byEndpoint).pending = s.pending ∧ (idleExit s l byEndpoint).tb = s.tb := by
  constructor <;> (unfold idleExit; try dsimp only) <;> repeat' (first | with_reducible rfl | split | simp)

@[simp] theorem fallowActive_keeps (s : State) (l : Link) : (fallowActive s l).pending = s.pending ∧ (fallowActive s l).tb = s.tb := by
  constructor <;> (unfold fallowActive; try dsimp only) <;> repeat' (first | with_reducible rfl | split | simp)

@[simp] theorem fallowExitStep_keeps (s : State) (l : Link) (step : ExitStep) : (fallowExitStep s l step).pending = s.pending ∧ (fallowExitStep s l step).tb = s.tb := by
  constructor <;> (unfold fallowExitStep; try dsimp only) <;> repeat' (first | with_reducible rfl | split | simp)

@[simp] theorem powerExitFail_keeps (s : State) (l : Link) : (powerExitFail s l).pending = s.pending ∧ (powerExitFail s l).tb = s.tb := by
  constructor <;> (unfold powerExitFail; try dsimp only) <;> repeat' (first | with_reducible rfl | split | simp)

@[simp] theorem replayNow_keeps (s : State) (l : Link) : (replayNow s l).pending = s.pending ∧ (replayNow s l).tb = s.tb := by
  constructor <;> (unfold replayNow; try dsimp only) <;> repeat' (first | with_reducible rfl | split | simp)

@[simp] theorem freed_keeps (s : State) (l : Link) : (freed s l).pending = s.pending ∧ (freed s l).tb = s.tb := by
  constructor <;> (unfold freed; try dsimp only) <;> repeat' (first | with_reducible rfl | split | simp)

@[simp] theorem takeAck_keeps (s : State) (l : Link) (q : BitVec 12) : (takeAck s l q).pending = s.pending ∧ (takeAck s l q).tb = s.tb := by
  constructor <;> (unfold takeAck; try dsimp only) <;> repeat' (first | with_reducible rfl | split | simp)

@[simp] theorem ackReceive_keeps (s : State) (l : Link) (q : BitVec 12) : (ackReceive s l q).pending = s.pending ∧ (ackReceive s l q).tb = s.tb := by
  constructor <;> (unfold ackReceive; try dsimp only) <;> repeat' (first | with_reducible rfl | split | simp)

@[simp] theorem takeNak_keeps (s : State) (l : Link) (q : BitVec 12) : (takeNak s l q).pending = s.pending ∧ (takeNak s l q).tb = s.tb := by
  constructor <;> (unfold takeNak; try dsimp only) <;> repeat' (first | with_reducible rfl | split | simp)

@[simp] theorem nakReceive_keeps (s : State) (l : Link) (q : BitVec 12) : (nakReceive s l q).pending = s.pending ∧ (nakReceive s l q).tb = s.tb := by
  constructor <;> (unfold nakReceive; try dsimp only) <;> repeat' (first | with_reducible rfl | split | simp)

@[simp] theorem creditReceive_keeps (s : State) (l : Link) (vc : Nat) (cum : BitVec 12) : (creditReceive s l vc cum).pending = s.pending ∧ (creditReceive s l vc cum).tb = s.tb := by
  constructor <;> (unfold creditReceive; try dsimp only) <;> repeat' (first | with_reducible rfl | split | simp)

@[simp] theorem replayTimeout_keeps (s : State) (l : Link) : (replayTimeout s l).pending = s.pending ∧ (replayTimeout s l).tb = s.tb := by
  constructor <;> (unfold replayTimeout; try dsimp only) <;> repeat' (first | with_reducible rfl | split | simp)

@[simp] theorem creditRepeat_keeps (s : State) (l : Link) : (creditRepeat s l).pending = s.pending ∧ (creditRepeat s l).tb = s.tb := by
  constructor <;> (unfold creditRepeat; try dsimp only) <;> repeat' (first | with_reducible rfl | split | simp)

@[simp] theorem actLcp_keeps (s : State) (l : Link) (w0 : Word) : (actLcp s l w0).pending = s.pending ∧ (actLcp s l w0).tb = s.tb := by
  constructor <;> (unfold actLcp; try dsimp only) <;> repeat' (first | with_reducible rfl | split | simp)

@[simp] theorem actTlp_keeps (s : State) (l : Link) (ws : List Word) :
    (actTlp s l ws).pending = s.pending ∧ (actTlp s l ws).tb = s.tb := by
  unfold actTlp
  dsimp only
  constructor <;> simp only [ite_pending, ite_tb, rrd_keeps, postedWrite_keeps, walkCompletion_keeps, claimed_keeps,
    returned_keeps, returnedBelow_keeps, eoiMsg_keeps, prioMsg_keeps, stateMsg_keeps, signalMsg_keeps, privMsg_keeps, ite_self]

@[simp] theorem actMalformed_keeps (s : State) (l : Link) (ws : List Word) : (actMalformed s l ws).pending = s.pending ∧ (actMalformed s l ws).tb = s.tb := by
  constructor <;> (unfold actMalformed; try dsimp only) <;> repeat' (first | with_reducible rfl | split | simp)

@[simp] theorem acceptTlp_keeps (s : State) (l : Link) (ws : List Word) :
    (acceptTlp s l ws).pending = s.pending ∧ (acceptTlp s l ws).tb = s.tb := by
  unfold acceptTlp
  constructor <;> simp only [ite_pending, ite_tb, linkFail_keeps, actTlp_keeps, actMalformed_keeps, takeAck_keeps, setLl_keeps,
    setLink_pending, setLink_tb, ite_self]

@[simp] theorem judge_keeps (s : State) (l : Link) (ws : List Word) : (judge s l ws).pending = s.pending ∧ (judge s l ws).tb = s.tb := by
  constructor <;> (unfold judge; try dsimp only) <;> repeat' (first | with_reducible rfl | split | simp)

theorem frameStep_keeps (s : State) (l : Link) (t : State) (h : frameStep s l = some t) :
    t.pending = s.pending ∧ t.tb = s.tb := by
  unfold frameStep at h
  dsimp only at h
  split at h
  · cases h
  · split at h
    · cases h; simp
    · split at h
      · cases h
      · split at h
        · cases h; simp
        · cases h; split <;> simp

@[simp] theorem frameOn_keeps (l : Link) (n : Nat) (s : State) :
    (frameOn l n s).pending = s.pending ∧ (frameOn l n s).tb = s.tb := by
  induction n generalizing s with
  | zero => exact ⟨rfl, rfl⟩
  | succ n ih =>
    unfold frameOn
    split
    · have h := frameStep_keeps _ _ _ ‹frameStep _ _ = some _›; simp [ih, h]
    · simp

@[simp] theorem destripe_keeps (l : Link) (n : Nat) (s : State) :
    (destripe l n s).pending = s.pending ∧ (destripe l n s).tb = s.tb := by
  induction n generalizing s with
  | zero => exact ⟨rfl, rfl⟩
  | succ n ih =>
    unfold destripe
    split
    · split
      · simp
      · have h := nextGrain_keeps _ _ _ ‹nextGrain _ _ = some _›
        simp only [] at h
        simp [ih, h]
    · simp

@[simp] theorem tlpReceive_keeps (s : State) (l : Link) (lines : Lines) : (tlpReceive s l lines).pending = s.pending ∧ (tlpReceive s l lines).tb = s.tb := by
  constructor <;> (unfold tlpReceive; try dsimp only) <;> repeat' (first | with_reducible rfl | split | simp)

@[simp] theorem replyNow_keeps (s : State) (code : BitVec 8) (d0 d1 d2 d3 : Word) : (replyNow s code d0 d1 d2 d3).pending = s.pending ∧ (replyNow s code d0 d1 d2 d3).tb = s.tb := by
  constructor <;> (unfold replyNow; try dsimp only) <;> repeat' (first | with_reducible rfl | split | simp)

@[simp] theorem setJobs_keeps (s : State) (js : List NvJob) : (setJobs s js).pending = s.pending ∧ (setJobs s js).tb = s.tb := by
  constructor <;> (unfold setJobs; try dsimp only) <;> repeat' (first | with_reducible rfl | split | simp)

@[simp] theorem setHead_keeps (s : State) (its : List NvItem) : (setHead s its).pending = s.pending ∧ (setHead s its).tb = s.tb := by
  constructor <;> (unfold setHead; try dsimp only) <;> repeat' (first | with_reducible rfl | split | simp)

@[simp] theorem failWork_keeps (s : State) : (failWork s).pending = s.pending ∧ (failWork s).tb = s.tb := by
  constructor <;> (unfold failWork; try dsimp only) <;> repeat' (first | with_reducible rfl | split | simp)

@[simp] theorem startApply_keeps (s : State) (slot : BitVec 1) (n : Word) (kind : ApplyKind) : (startApply s slot n kind).pending = s.pending ∧ (startApply s slot n kind).tb = s.tb := by
  constructor <;> (unfold startApply; try dsimp only) <;> repeat' (first | with_reducible rfl | split | simp)

@[simp] theorem bootApply_keeps (s : State) : (bootApply s).pending = s.pending ∧ (bootApply s).tb = s.tb := by
  constructor <;> (unfold bootApply; try dsimp only) <;> repeat' (first | with_reducible rfl | split | simp)

@[simp] theorem retireSector_keeps (s : State) (q : Nat) : (retireSector s q).pending = s.pending ∧ (retireSector s q).tb = s.tb := by
  constructor <;> (unfold retireSector; try dsimp only) <;> repeat' (first | with_reducible rfl | split | simp)

@[simp] theorem ckptEnds_keeps (s : State) : (ckptEnds s).pending = s.pending ∧ (ckptEnds s).tb = s.tb := by
  constructor <;> (unfold ckptEnds; try dsimp only) <;> repeat' (first | with_reducible rfl | split | simp)

@[simp] theorem keyDone_keeps (s : State) (slot : Nat) (key : Option Key) : (keyDone s slot key).pending = s.pending ∧ (keyDone s slot key).tb = s.tb := by
  constructor <;> (unfold keyDone; try dsimp only) <;> repeat' (first | with_reducible rfl | split | simp)

@[simp] theorem engineNeed_keeps (s : State) : (engineNeed s).pending = s.pending ∧ (engineNeed s).tb = s.tb := by
  constructor <;> (unfold engineNeed; try dsimp only) <;> repeat' (first | with_reducible rfl | split | simp)

@[simp] theorem stewardOpens_keeps (s : State) (c : Nat) (slot : Option (BitVec 4)) (turns : Nat) : (stewardOpens s c slot turns).pending = s.pending ∧ (stewardOpens s c slot turns).tb = s.tb := by
  constructor <;> (unfold stewardOpens; try dsimp only) <;> repeat' (first | with_reducible rfl | split | simp)

@[simp] theorem stewardCloses_keeps (s : State) : (stewardCloses s).pending = s.pending ∧ (stewardCloses s).tb = s.tb := by
  constructor <;> (unfold stewardCloses; try dsimp only) <;> repeat' (first | with_reducible rfl | split | simp)

@[simp] theorem engineFails_keeps (s : State) (code : BitVec 8) (d0 : Word) : (engineFails s code d0).pending = s.pending ∧ (engineFails s code d0).tb = s.tb := by
  constructor <;> (unfold engineFails; try dsimp only) <;> repeat' (first | with_reducible rfl | split | simp)

theorem engineWork_keeps (s : State) (slot : Option (BitVec 4)) (turns : Nat) (code : BitVec 8) (d0 : Word)
    (rest : List NvItem) (t : State) (h : engineWork s slot turns code d0 rest = some t) :
    t.pending = s.pending ∧ t.tb = s.tb := by
  unfold engineWork at h
  split at h
  · split at h
    · cases h; simp
    · cases hf : freeCtx s with
      | none => simp [hf] at h
      | some c => rw [hf] at h; cases h; simp
  · dsimp only at h
    split at h
    · cases h
    · cases h; split <;> simp

@[simp] theorem doItem_keeps (s : State) (i : NvItem) : (doItem s i).pending = s.pending ∧ (doItem s i).tb = s.tb := by
  cases i <;> (unfold doItem; simp)

@[simp] theorem startOp_keeps (s : State) (c : Nat) (op : NvOp) :
    (startOp s c op).pending = s.pending ∧ (startOp s c op).tb = s.tb := by
  unfold startOp
  (try dsimp only)
  repeat' split
  all_goals simp

theorem askOp_keeps (s : State) (c : Nat) (op : NvOp) (t : State) (h : askOp s c op = some t) : t.pending = s.pending ∧ t.tb = s.tb := by
  unfold askOp at h
  try dsimp only at h
  repeat' (split at h)
  all_goals first
    | (exfalso; simpa using h)
    | (simp only [Option.some.injEq] at h; subst h; constructor <;> repeat' (first | with_reducible rfl | split | (simp; done) | (refine (foldS_pending _ _ _ (fun s a => ?_)).trans ?_) | (refine (foldS_tb _ _ _ (fun s a => ?_)).trans ?_) | simp))

theorem pumpOne_keeps (s : State) (t : State) (h : pumpOne s = some t) : t.pending = s.pending ∧ t.tb = s.tb := by
  unfold pumpOne at h
  (try dsimp only at h)
  repeat' (split at h)
  all_goals first
    | exact askOp_keeps _ _ _ _ h
    | exact engineWork_keeps _ _ _ _ _ _ _ h
    | (exfalso; simpa using h)
    | (simp only [Option.some.injEq] at h; subst h; simp)

@[simp] theorem pumpN_keeps (n : Nat) (s : State) : (pumpN n s).pending = s.pending ∧ (pumpN n s).tb = s.tb := by
  induction n generalizing s with
  | zero => exact ⟨rfl, rfl⟩
  | succ n ih =>
    unfold pumpN
    repeat' split
    all_goals first
      | (have h := pumpOne_keeps _ _ ‹pumpOne _ = some _›; simp [ih, h])
      | simp

@[simp] theorem pump_keeps (s : State) : (pump s).pending = s.pending ∧ (pump s).tb = s.tb := by
  unfold pump; split <;> simp

@[simp] theorem programNext_keeps (s : State) (good : Bool) : (programNext s good).pending = s.pending ∧ (programNext s good).tb = s.tb := by
  constructor <;> (unfold programNext; try dsimp only) <;> repeat' (first | with_reducible rfl | split | simp)

@[simp] theorem opFree_keeps (s : State) (client : Nat) : (opFree s client).pending = s.pending ∧ (opFree s client).tb = s.tb := by
  constructor <;> (unfold opFree; try dsimp only) <;> repeat' (first | with_reducible rfl | split | simp)

@[simp] theorem programEnds_keeps (s : State) (a : Nat) (b : List Byte) (ok : Bool) :
    (programEnds s a b ok).1.pending = s.pending ∧ (programEnds s a b ok).1.tb = s.tb := by
  unfold programEnds
  repeat' split
  all_goals simp

@[simp] theorem nvProgramDone_keeps (s : State) (ok : Bool) :
    (nvProgramDone s ok).pending = s.pending ∧ (nvProgramDone s ok).tb = s.tb := by
  unfold nvProgramDone
  (try dsimp only)
  repeat' split
  all_goals simp

@[simp] theorem eraseNext_keeps (s : State) (q : Nat) (ok again : Bool) (rest : List NvItem) : (eraseNext s q ok again rest).pending = s.pending ∧ (eraseNext s q ok again rest).tb = s.tb := by
  constructor <;> (unfold eraseNext; try dsimp only) <;> repeat' (first | with_reducible rfl | split | simp)

@[simp] theorem nvEraseDone_keeps (s : State) (outcome : EraseOutcome) : (nvEraseDone s outcome).pending = s.pending ∧ (nvEraseDone s outcome).tb = s.tb := by
  constructor <;> (unfold nvEraseDone; try dsimp only) <;> repeat' (first | with_reducible rfl | split | simp)

@[simp] theorem journalCheckpoint_keeps (s : State) : (journalCheckpoint s).pending = s.pending ∧ (journalCheckpoint s).tb = s.tb := by
  constructor <;> (unfold journalCheckpoint; try dsimp only) <;> repeat' (first | with_reducible rfl | split | simp)

@[simp] theorem gaspArming_keeps (s : State) : (gaspArming s).pending = s.pending ∧ (gaspArming s).tb = s.tb := by
  constructor <;> (unfold gaspArming; try dsimp only) <;> repeat' (first | with_reducible rfl | split | simp)

@[simp] theorem discardWork_keeps (s : State) : (discardWork s).pending = s.pending ∧ (discardWork s).tb = s.tb := by
  constructor <;> (unfold discardWork; try dsimp only) <;> repeat' (first | with_reducible rfl | split | simp)

@[simp] theorem cutWork_keeps (s : State) : (cutWork s).pending = s.pending ∧ (cutWork s).tb = s.tb := by
  constructor <;> (unfold cutWork; try dsimp only) <;> repeat' (first | with_reducible rfl | split | (simp; done) | (refine (foldS_pending _ _ _ fun s a => ?_).trans ?_) | (refine (foldS_tb _ _ _ fun s a => ?_).trans ?_) | simp)

@[simp] theorem hstatCode_keeps (s : State) (code : Nat) : (hstatCode s code).pending = s.pending ∧ (hstatCode s code).tb = s.tb := by
  constructor <;> (unfold hstatCode; try dsimp only) <;> repeat' (first | with_reducible rfl | split | simp)

@[simp] theorem auOpen_keeps (s : State) (alg slot : Nat) : (auOpen s alg slot).pending = s.pending ∧ (auOpen s alg slot).tb = s.tb := by
  constructor <;> (unfold auOpen; try dsimp only) <;> repeat' (first | with_reducible rfl | split | simp)

@[simp] theorem overrun_keeps (s : State) : (overrun s).pending = s.pending ∧ (overrun s).tb = s.tb := by
  constructor <;> (unfold overrun; try dsimp only) <;> repeat' (first | with_reducible rfl | split | simp)

@[simp] theorem auFeed_keeps (s : State) (c n : Nat) (last sig : Bool) : (auFeed s c n last sig).pending = s.pending ∧ (auFeed s c n last sig).tb = s.tb := by
  constructor <;> (unfold auFeed; try dsimp only) <;> repeat' (first | with_reducible rfl | split | simp)

@[simp] theorem auClose_keeps (s : State) (c : Nat) : (auClose s c).pending = s.pending ∧ (auClose s c).tb = s.tb := by
  constructor <;> (unfold auClose; try dsimp only) <;> repeat' (first | with_reducible rfl | split | simp)

@[simp] theorem auKeyErase_keeps (s : State) (slot : Nat) : (auKeyErase s slot).pending = s.pending ∧ (auKeyErase s slot).tb = s.tb := by
  constructor <;> (unfold auKeyErase; try dsimp only) <;> repeat' (first | with_reducible rfl | split | simp)

@[simp] theorem engineTurn_keeps (s : State) : (engineTurn s).pending = s.pending ∧ (engineTurn s).tb = s.tb := by
  constructor <;> (unfold engineTurn; try dsimp only) <;> repeat' (first | with_reducible rfl | split | simp)

@[simp] theorem auContextTimeout_keeps (s : State) (c : Nat) : (auContextTimeout s c).pending = s.pending ∧ (auContextTimeout s c).tb = s.tb := by
  constructor <;> (unfold auContextTimeout; try dsimp only) <;> repeat' (first | with_reducible rfl | split | simp)

@[simp] theorem regionSyncReq_keeps (s : State) : (regionSyncReq s).pending = s.pending ∧ (regionSyncReq s).tb = s.tb := by
  constructor <;> (unfold regionSyncReq; try dsimp only) <;> repeat' (first | with_reducible rfl | split | simp)

@[simp] theorem revertShadows_keeps (s : State) : (revertShadows s).pending = s.pending ∧ (revertShadows s).tb = s.tb := by
  constructor <;> (unfold revertShadows; try dsimp only) <;> repeat' (first | with_reducible rfl | split | simp)

@[simp] theorem abandonApply_keeps (s : State) (code : BitVec 4) : (abandonApply s code).pending = s.pending ∧ (abandonApply s code).tb = s.tb := by
  constructor <;> (unfold abandonApply; try dsimp only) <;> repeat' (first | with_reducible rfl | split | simp)

@[simp] theorem bundleHoldStart_keeps (s : State) (e : Ecc) : (bundleHoldStart s e).pending = s.pending ∧ (bundleHoldStart s e).tb = s.tb := by
  constructor <;> (unfold bundleHoldStart; try dsimp only) <;> repeat' (first | with_reducible rfl | split | simp)

@[simp] theorem bundleStewardReset_keeps (s : State) : (bundleStewardReset s).pending = s.pending ∧ (bundleStewardReset s).tb = s.tb := by
  constructor <;> (unfold bundleStewardReset; try dsimp only) <;> repeat' (first | with_reducible rfl | split | simp)

@[simp] theorem bundleTransferred_keeps (s : State) (seq : Word) : (bundleTransferred s seq).pending = s.pending ∧ (bundleTransferred s seq).tb = s.tb := by
  constructor <;> (unfold bundleTransferred; try dsimp only) <;> repeat' (first | with_reducible rfl | split | simp)

@[simp] theorem bundleSync_keeps (s : State) : (bundleSync s).pending = s.pending ∧ (bundleSync s).tb = s.tb := by
  constructor <;> (unfold bundleSync; try dsimp only) <;> repeat' (first | with_reducible rfl | split | simp)

@[simp] theorem bundleResume_keeps (s : State) : (bundleResume s).pending = s.pending ∧ (bundleResume s).tb = s.tb := by
  constructor <;> (unfold bundleResume; try dsimp only) <;> repeat' (first | with_reducible rfl | split | simp)

theorem startRollback_keeps (s : State) (c : BitVec 2) :
    ((startRollback s c).2.pending = s.pending ∧ (startRollback s c).2.tb = s.tb) ∧
    ∀ t, (startRollback s c).1 = some t → t.pending = s.pending ∧ t.tb = s.tb := by
  unfold startRollback
  (try dsimp only)
  repeat' split
  all_goals refine ⟨by simp, fun t h => ?_⟩
  all_goals first
    | (exfalso; simpa using h)
    | (simp only [Option.some.injEq] at h; subst h; simp)

@[simp] theorem confirmTimeout_keeps (s : State) :
    (confirmTimeout s).pending = s.pending ∧ (confirmTimeout s).tb = s.tb := by
  unfold confirmTimeout
  have h := startRollback_keeps s (if s.bun.drift then 3 else 2)
  repeat' split
  all_goals first
    | (simp; done)
    | (rename_i e; rw [e] at h; simpa using h.2 _ rfl)
    | (rename_i e; rw [e] at h; simpa using h.1)

end Sys2Proof.Machine
end

