-- ==== Sys2Proof/Laws/KeepsC.lean ====
section
/-!
SUPPORT. Laws/KeepsC.lean: what the operations of the mailbox, the modes, the headland, an idle CCLK and the management bus leave alone: the
queue of waiting commands and, but for the operations of the timebase itself, the timebase.
-/
set_option linter.unusedTactic false
set_option linter.unreachableTactic false

namespace Sys2Proof.Machine

@[simp] theorem mbxCmdWrite_keeps (s : State) (op tag : BitVec 8) : (mbxCmdWrite s op tag).pending = s.pending ∧ (mbxCmdWrite s op tag).tb = s.tb := by
  constructor <;> (unfold mbxCmdWrite; try dsimp only) <;> repeat' (first | with_reducible rfl | split | simp)

@[simp] theorem postReply_keeps (s : State) (r : Reply) : (postReply s r).pending = s.pending ∧ (postReply s r).tb = s.tb := by
  constructor <;> (unfold postReply; try dsimp only) <;> repeat' (first | with_reducible rfl | split | simp)

@[simp] theorem mbxReplyPost_keeps (s : State) : (mbxReplyPost s).pending = s.pending ∧ (mbxReplyPost s).tb = s.tb := by
  constructor <;> (unfold mbxReplyPost; try dsimp only) <;> repeat' (first | with_reducible rfl | split | simp)

@[simp] theorem mbxPop_keeps (s : State) : (mbxPop s).pending = s.pending ∧ (mbxPop s).tb = s.tb := by
  constructor <;> (unfold mbxPop; try dsimp only) <;> repeat' (first | with_reducible rfl | split | simp)

theorem takeCmd_keeps (s : State) (op : BitVec 8) (f : State → MbxCmd → State)
    (h : ∀ s c, (f s c).pending = s.pending ∧ (f s c).tb = s.tb) :
    (takeCmd s op f).pending = s.pending ∧ (takeCmd s op f).tb = s.tb := by
  unfold takeCmd
  repeat' split
  all_goals simp [h]

@[simp] theorem work_keeps (s : State) (items : List NvItem) : (work s items).pending = s.pending ∧ (work s items).tb = s.tb := by
  constructor <;> (unfold work; try dsimp only) <;> repeat' (first | with_reducible rfl | split | simp)

@[simp] theorem ping_keeps (s : State) : (ping s).pending = s.pending ∧ (ping s).tb = s.tb := by
  unfold ping
  refine takeCmd_keeps _ _ _ (fun s c => ?_)
  constructor <;> (try dsimp only) <;> repeat' (first | with_reducible rfl | split | simp)

@[simp] theorem getInfo_keeps (s : State) : (getInfo s).pending = s.pending ∧ (getInfo s).tb = s.tb := by
  unfold getInfo
  refine takeCmd_keeps _ _ _ (fun s c => ?_)
  constructor <;> (try dsimp only) <;> repeat' (first | with_reducible rfl | split | simp)

@[simp] theorem imgBegin_keeps (s : State) : (imgBegin s).pending = s.pending ∧ (imgBegin s).tb = s.tb := by
  unfold imgBegin
  refine takeCmd_keeps _ _ _ (fun s c => ?_)
  constructor <;> (try dsimp only) <;> repeat' (first | with_reducible rfl | split | simp)

@[simp] theorem imgWrite_keeps (s : State) : (imgWrite s).pending = s.pending ∧ (imgWrite s).tb = s.tb := by
  unfold imgWrite
  refine takeCmd_keeps _ _ _ (fun s c => ?_)
  constructor <;> (try dsimp only) <;> repeat' (first | with_reducible rfl | split | simp)

@[simp] theorem verified_keeps (s : State) (turns : Nat) (rest : List NvItem) : (verified s turns rest).pending = s.pending ∧ (verified s turns rest).tb = s.tb := by
  constructor <;> (unfold verified; try dsimp only) <;> repeat' (first | with_reducible rfl | split | simp)

@[simp] theorem imgVerify_keeps (s : State) (e : Ecc) : (imgVerify s e).pending = s.pending ∧ (imgVerify s e).tb = s.tb := by
  unfold imgVerify
  refine takeCmd_keeps _ _ _ (fun s c => ?_)
  constructor <;> (try dsimp only) <;> repeat' (first | with_reducible rfl | split | simp)

@[simp] theorem policyWork_keeps (s : State) (p : Policy) (data : Bool) : (policyWork s p data).pending = s.pending ∧ (policyWork s p data).tb = s.tb := by
  constructor <;> (unfold policyWork; try dsimp only) <;> repeat' (first | with_reducible rfl | split | simp)

@[simp] theorem policyOfBank_keeps (s : State) (bank : Bool) (p : Policy) : (policyOfBank s bank p).pending = s.pending ∧ (policyOfBank s bank p).tb = s.tb := by
  constructor <;> (unfold policyOfBank; try dsimp only) <;> repeat' (first | with_reducible rfl | split | simp)

@[simp] theorem bootTrial_keeps (s : State) : (bootTrial s).pending = s.pending ∧ (bootTrial s).tb = s.tb := by
  unfold bootTrial
  refine takeCmd_keeps _ _ _ (fun s c => ?_)
  constructor <;> (try dsimp only) <;> repeat' (first | with_reducible rfl | split | simp)

@[simp] theorem commitTrial_keeps (s : State) : (commitTrial s).pending = s.pending ∧ (commitTrial s).tb = s.tb := by
  unfold commitTrial
  refine takeCmd_keeps _ _ _ (fun s c => ?_)
  constructor <;> (try dsimp only) <;> repeat' (first | with_reducible rfl | split | simp)

@[simp] theorem switchBank_keeps (s : State) : (switchBank s).pending = s.pending ∧ (switchBank s).tb = s.tb := by
  unfold switchBank
  refine takeCmd_keeps _ _ _ (fun s c => ?_)
  constructor <;> (try dsimp only) <;> repeat' (first | with_reducible rfl | split | simp)

@[simp] theorem setPolicy_keeps (s : State) : (setPolicy s).pending = s.pending ∧ (setPolicy s).tb = s.tb := by
  unfold setPolicy
  refine takeCmd_keeps _ _ _ (fun s c => ?_)
  constructor <;> (try dsimp only) <;> repeat' (first | with_reducible rfl | split | simp)

@[simp] theorem nvInfo_keeps (s : State) : (nvInfo s).pending = s.pending ∧ (nvInfo s).tb = s.tb := by
  unfold nvInfo
  refine takeCmd_keeps _ _ _ (fun s c => ?_)
  constructor <;> (try dsimp only) <;> repeat' (first | with_reducible rfl | split | simp)

@[simp] theorem reply16_keeps (s : State) (a : Nat) : (reply16 s a).pending = s.pending ∧ (reply16 s a).tb = s.tb := by
  constructor <;> (unfold reply16; try dsimp only) <;> repeat' (first | with_reducible rfl | split | simp)

@[simp] theorem logRead_keeps (s : State) (e : Ecc) : (logRead s e).pending = s.pending ∧ (logRead s e).tb = s.tb := by
  unfold logRead
  refine takeCmd_keeps _ _ _ (fun s c => ?_)
  constructor <;> (try dsimp only) <;> repeat' (first | with_reducible rfl | split | simp)

@[simp] theorem gaspRead_keeps (s : State) (e : Ecc) : (gaspRead s e).pending = s.pending ∧ (gaspRead s e).tb = s.tb := by
  unfold gaspRead
  refine takeCmd_keeps _ _ _ (fun s c => ?_)
  constructor <;> (try dsimp only) <;> repeat' (first | with_reducible rfl | split | simp)

@[simp] theorem calSave_keeps (s : State) : (calSave s).pending = s.pending ∧ (calSave s).tb = s.tb := by
  unfold calSave
  refine takeCmd_keeps _ _ _ (fun s c => ?_)
  constructor <;> (try dsimp only) <;> repeat' (first | with_reducible rfl | split | simp)

@[simp] theorem wearRead_keeps (s : State) : (wearRead s).pending = s.pending ∧ (wearRead s).tb = s.tb := by
  unfold wearRead
  refine takeCmd_keeps _ _ _ (fun s c => ?_)
  constructor <;> (try dsimp only) <;> repeat' (first | with_reducible rfl | split | simp)

@[simp] theorem logMark_keeps (s : State) : (logMark s).pending = s.pending ∧ (logMark s).tb = s.tb := by
  unfold logMark
  refine takeCmd_keeps _ _ _ (fun s c => ?_)
  constructor <;> (try dsimp only) <;> repeat' (first | with_reducible rfl | split | simp)

theorem takeBundle_keeps (s : State) (op : BitVec 8) (f : State → MbxCmd → State)
    (h : ∀ s c, (f s c).pending = s.pending ∧ (f s c).tb = s.tb) :
    (takeBundle s op f).pending = s.pending ∧ (takeBundle s op f).tb = s.tb := by
  unfold takeBundle
  refine takeCmd_keeps _ _ _ (fun s c => ?_)
  split <;> simp [h]

@[simp] theorem bundleBegin_keeps (s : State) : (bundleBegin s).pending = s.pending ∧ (bundleBegin s).tb = s.tb := by
  unfold bundleBegin
  refine takeBundle_keeps _ _ _ (fun s c => ?_)
  constructor <;> (try dsimp only) <;> repeat' (first | with_reducible rfl | split | simp)

@[simp] theorem bundleWrite_keeps (s : State) : (bundleWrite s).pending = s.pending ∧ (bundleWrite s).tb = s.tb := by
  unfold bundleWrite
  refine takeBundle_keeps _ _ _ (fun s c => ?_)
  constructor <;> (try dsimp only) <;> repeat' (first | with_reducible rfl | split | simp)

@[simp] theorem bundleVerify_keeps (s : State) (e : Ecc) : (bundleVerify s e).pending = s.pending ∧ (bundleVerify s e).tb = s.tb := by
  unfold bundleVerify
  refine takeBundle_keeps _ _ _ (fun s c => ?_)
  constructor <;> (try dsimp only) <;> repeat' (first | with_reducible rfl | split | simp)

@[simp] theorem bundleApply_keeps (s : State) : (bundleApply s).pending = s.pending ∧ (bundleApply s).tb = s.tb := by
  unfold bundleApply
  refine takeBundle_keeps _ _ _ (fun s c => ?_)
  constructor <;> (try dsimp only) <;> repeat' (first | with_reducible rfl | split | simp)

@[simp] theorem bundleConfirm_keeps (s : State) : (bundleConfirm s).pending = s.pending ∧ (bundleConfirm s).tb = s.tb := by
  unfold bundleConfirm
  refine takeBundle_keeps _ _ _ (fun s c => ?_)
  constructor <;> (try dsimp only) <;> repeat' (first | with_reducible rfl | split | simp)

@[simp] theorem bundleRollback_keeps (s : State) :
    (bundleRollback s).pending = s.pending ∧ (bundleRollback s).tb = s.tb := by
  unfold bundleRollback
  refine takeBundle_keeps _ _ _ (fun s c => ?_)
  have h := startRollback_keeps s 1
  split
  · rename_i e; rw [e] at h; simpa using h.2 _ rfl
  · rename_i e; rw [e] at h; simpa using h.1

@[simp] theorem bundleInfo_keeps (s : State) : (bundleInfo s).pending = s.pending ∧ (bundleInfo s).tb = s.tb := by
  unfold bundleInfo
  refine takeBundle_keeps _ _ _ (fun s c => ?_)
  constructor <;> (try dsimp only) <;> repeat' (first | with_reducible rfl | split | simp)

@[simp] theorem keyPut_keeps (s : State) : (keyPut s).pending = s.pending ∧ (keyPut s).tb = s.tb := by
  unfold keyPut
  refine takeCmd_keeps _ _ _ (fun s c => ?_)
  constructor <;> (try dsimp only) <;> repeat' (first | with_reducible rfl | split | simp)

@[simp] theorem keyDrop_keeps (s : State) : (keyDrop s).pending = s.pending ∧ (keyDrop s).tb = s.tb := by
  unfold keyDrop
  refine takeCmd_keeps _ _ _ (fun s c => ?_)
  constructor <;> (try dsimp only) <;> repeat' (first | with_reducible rfl | split | simp)

@[simp] theorem keyInfo_keeps (s : State) : (keyInfo s).pending = s.pending ∧ (keyInfo s).tb = s.tb := by
  unfold keyInfo
  refine takeCmd_keeps _ _ _ (fun s c => ?_)
  constructor <;> (try dsimp only) <;> repeat' (first | with_reducible rfl | split | simp)

@[simp] theorem holdWout_keeps (s : State) : (holdWout s).pending = s.pending ∧ (holdWout s).tb = s.tb := by
  constructor <;> (unfold holdWout; try dsimp only) <;> repeat' (first | with_reducible rfl | split | simp)

@[simp] theorem olumonBoots_keeps (s : State) : (olumonBoots s).pending = s.pending ∧ (olumonBoots s).tb = s.tb := by
  constructor <;> (unfold olumonBoots; try dsimp only) <;> repeat' (first | with_reducible rfl | split | simp)

@[simp] theorem olumonRestarts_keeps (s : State) : (olumonRestarts s).pending = s.pending ∧ (olumonRestarts s).tb = s.tb := by
  constructor <;> (unfold olumonRestarts; try dsimp only) <;> repeat' (first | with_reducible rfl | split | simp)

@[simp] theorem takeFirmware_keeps (s : State) (p : Policy) (bank restricted : Bool) : (takeFirmware s p bank restricted).pending = s.pending ∧ (takeFirmware s p bank restricted).tb = s.tb := by
  constructor <;> (unfold takeFirmware; try dsimp only) <;> repeat' (first | with_reducible rfl | split | simp)

@[simp] theorem takeLmc_keeps (s : State) (bank : Bool) (src : Nat) : (takeLmc s bank src).pending = s.pending ∧ (takeLmc s bank src).tb = s.tb := by
  constructor <;> (unfold takeLmc; try dsimp only) <;> repeat' (first | with_reducible rfl | split | simp)

@[simp] theorem setLoadStat_keeps (s : State) (w : Word) : (setLoadStat s w).pending = s.pending ∧ (setLoadStat s w).tb = s.tb := by
  constructor <;> (unfold setLoadStat; try dsimp only) <;> repeat' (first | with_reducible rfl | split | simp)

@[simp] theorem monitorStarts_keeps (s : State) (p : Policy) : (monitorStarts s p).pending = s.pending ∧ (monitorStarts s p).tb = s.tb := by
  constructor <;> (unfold monitorStarts; try dsimp only) <;> repeat' (first | with_reducible rfl | split | simp)

@[simp] theorem setMode_keeps (s : State) (m : Mode) : (setMode s m).pending = s.pending ∧ (setMode s m).tb = s.tb := by
  constructor <;> (unfold setMode; try dsimp only) <;> repeat' (first | with_reducible rfl | split | simp)

@[simp] theorem loadOutcome_keeps (s : State) (e : Ecc) : (loadOutcome s e).pending = s.pending ∧ (loadOutcome s e).tb = s.tb := by
  constructor <;> (unfold loadOutcome; try dsimp only) <;> repeat' (first | with_reducible rfl | split | simp)

@[simp] theorem holdFeatures_keeps (s : State) : (holdFeatures s).pending = s.pending ∧ (holdFeatures s).tb = s.tb := by
  constructor <;> (unfold holdFeatures; try dsimp only) <;> repeat' (first | with_reducible rfl | split | simp)

@[simp] theorem reloadOutcome_keeps (s : State) (e : Ecc) : (reloadOutcome s e).pending = s.pending ∧ (reloadOutcome s e).tb = s.tb := by
  constructor <;> (unfold reloadOutcome; try dsimp only) <;> repeat' (first | with_reducible rfl | split | simp)

@[simp] theorem loaderOutcome_keeps (s : State) (e : Ecc) : (loaderOutcome s e).pending = s.pending ∧ (loaderOutcome s e).tb = s.tb := by
  constructor <;> (unfold loaderOutcome; try dsimp only) <;> repeat' (first | with_reducible rfl | split | simp)

@[simp] theorem loadTimeout_keeps (s : State) : (loadTimeout s).pending = s.pending ∧ (loadTimeout s).tb = s.tb := by
  constructor <;> (unfold loadTimeout; try dsimp only) <;> repeat' (first | with_reducible rfl | split | simp)

@[simp] theorem stewardReset_keeps (s : State) : (stewardReset s).pending = s.pending ∧ (stewardReset s).tb = s.tb := by
  constructor <;> (unfold stewardReset; try dsimp only) <;> repeat' (first | with_reducible rfl | split | simp)

@[simp] theorem watchdogExpiry_keeps (s : State) : (watchdogExpiry s).pending = s.pending ∧ (watchdogExpiry s).tb = s.tb := by
  constructor <;> (unfold watchdogExpiry; try dsimp only) <;> repeat' (first | with_reducible rfl | split | simp)

@[simp] theorem warmReset_pending (s : State) (cause : BitVec 4) (fromShutdown : Bool) : (warmReset s cause fromShutdown).pending = s.pending := by
  (unfold warmReset; try dsimp only) <;> repeat' (first | with_reducible rfl | split | simp)

@[simp] theorem npor_pending (s : State) : (npor s).pending = s.pending := by
  (unfold npor; try dsimp only) <;> repeat' (first | with_reducible rfl | split | simp)

@[simp] theorem nporRise_keeps (s : State) (range : HbRange) : (nporRise s range).pending = s.pending ∧ (nporRise s range).tb = s.tb := by
  constructor <;> (unfold nporRise; try dsimp only) <;> repeat' (first | with_reducible rfl | split | simp)

@[simp] theorem rootPllLock_pending (s : State) : (rootPllLock s).pending = s.pending := by
  (unfold rootPllLock; try dsimp only) <;> repeat' (first | with_reducible rfl | split | simp)

@[simp] theorem pllLoss_pending (s : State) : (pllLoss s).pending = s.pending := by
  (unfold pllLoss; try dsimp only) <;> repeat' (first | with_reducible rfl | split | simp)

@[simp] theorem askWarm_pending (s : State) (cause : BitVec 4) : (askWarm s cause).pending = s.pending := by
  (unfold askWarm; try dsimp only) <;> repeat' (first | with_reducible rfl | split | simp)

@[simp] theorem nreset_pending (s : State) : (nreset s).pending = s.pending := by
  (unfold nreset; try dsimp only) <;> repeat' (first | with_reducible rfl | split | simp)

@[simp] theorem resetRelease_pending (s : State) (straps : BitVec 5) (level : BitVec 4) : (resetRelease s straps level).pending = s.pending := by
  (unfold resetRelease; try dsimp only) <;> repeat' (first | with_reducible rfl | split | simp)

@[simp] theorem enterGasp_keeps (s : State) : (enterGasp s).pending = s.pending ∧ (enterGasp s).tb = s.tb := by
  constructor <;> (unfold enterGasp; try dsimp only) <;> repeat' (first | with_reducible rfl | split | simp)

@[simp] theorem pfail_keeps (s : State) : (pfail s).pending = s.pending ∧ (pfail s).tb = s.tb := by
  constructor <;> (unfold pfail; try dsimp only) <;> repeat' (first | with_reducible rfl | split | simp)

@[simp] theorem gaspRecordComplete_pending (s : State) (ok : Bool) : (gaspRecordComplete s ok).pending = s.pending := by
  (unfold gaspRecordComplete; try dsimp only) <;> repeat' (first | with_reducible rfl | split | (simp; done) | (refine (foldS_pending _ _ _ fun s a => ?_).trans ?_) | (refine (foldS_tb _ _ _ fun s a => ?_).trans ?_) | simp)

@[simp] theorem gaspRecovery_pending (s : State) : (gaspRecovery s).pending = s.pending := by
  (unfold gaspRecovery; try dsimp only) <;> repeat' (first | with_reducible rfl | split | simp)

@[simp] theorem shutdownTrip_keeps (s : State) : (shutdownTrip s).pending = s.pending ∧ (shutdownTrip s).tb = s.tb := by
  constructor <;> (unfold shutdownTrip; try dsimp only) <;> repeat' (first | with_reducible rfl | split | simp)

@[simp] theorem logThermal_keeps (s : State) (k : BitVec 8) : (logThermal s k).pending = s.pending ∧ (logThermal s k).tb = s.tb := by
  constructor <;> (unfold logThermal; try dsimp only) <;> repeat' (first | with_reducible rfl | split | simp)

@[simp] theorem thermalRound_keeps (s0 : State) (a b c d : BitVec 12) : (thermalRound s0 a b c d).pending = s0.pending ∧ (thermalRound s0 a b c d).tb = s0.tb := by
  constructor <;> (unfold thermalRound; try dsimp only) <;> repeat' (first | with_reducible rfl | split | simp)

@[simp] theorem fallowCommit_keeps (s : State) : (fallowCommit s).pending = s.pending ∧ (fallowCommit s).tb = s.tb := by
  constructor <;> (unfold fallowCommit; try dsimp only) <;> repeat' (first | with_reducible rfl | split | simp)

@[simp] theorem breqAdopt_keeps (s : State) (n : Nat) (level : Bool) : (breqAdopt s n level).pending = s.pending ∧ (breqAdopt s n level).tb = s.tb := by
  constructor <;> (unfold breqAdopt; try dsimp only) <;> repeat' (first | with_reducible rfl | split | simp)

@[simp] theorem deviceWake_keeps (s : State) (src : WakeSource) (num : BitVec 7) : (deviceWake s src num).pending = s.pending ∧ (deviceWake s src num).tb = s.tb := by
  constructor <;> (unfold deviceWake; try dsimp only) <;> repeat' (first | with_reducible rfl | split | simp)

@[simp] theorem budgetLevelAdopt_keeps (s : State) (level : BitVec 4) : (budgetLevelAdopt s level).pending = s.pending ∧ (budgetLevelAdopt s level).tb = s.tb := by
  constructor <;> (unfold budgetLevelAdopt; try dsimp only) <;> repeat' (first | with_reducible rfl | split | simp)

@[simp] theorem allotGrant_keeps (s : State) : (allotGrant s).pending = s.pending ∧ (allotGrant s).tb = s.tb := by
  constructor <;> (unfold allotGrant; try dsimp only) <;> repeat' (first | with_reducible rfl | split | simp)

@[simp] theorem wakeGrantTimeout_keeps (s : State) (t : Target) : (wakeGrantTimeout s t).pending = s.pending ∧ (wakeGrantTimeout s t).tb = s.tb := by
  constructor <;> (unfold wakeGrantTimeout; try dsimp only) <;> repeat' (first | with_reducible rfl | split | simp)

@[simp] theorem trevokeExpiry_keeps (s : State) (n : Nat) : (trevokeExpiry s n).pending = s.pending ∧ (trevokeExpiry s n).tb = s.tb := by
  constructor <;> (unfold trevokeExpiry; try dsimp only) <;> repeat' (first | with_reducible rfl | split | simp)

@[simp] theorem takeIr_keeps (s : State) (ir : BitVec 5) : (takeIr s ir).pending = s.pending ∧ (takeIr s ir).tb = s.tb := by
  constructor <;> (unfold takeIr; try dsimp only) <;> repeat' (first | with_reducible rfl | split | simp)

@[simp] theorem testEntry_keeps (s : State) (ir : BitVec 5) : (testEntry s ir).pending = s.pending ∧ (testEntry s ir).tb = s.tb := by
  constructor <;> (unfold testEntry; try dsimp only) <;> repeat' (first | with_reducible rfl | split | simp)

@[simp] theorem testExit_pending (s : State) : (testExit s).pending = s.pending := by
  (unfold testExit; try dsimp only) <;> repeat' (first | with_reducible rfl | split | simp)

@[simp] theorem bist_keeps (s : State) (ir : BitVec 5) (test : Nat) (pass : Bool) (nfail : BitVec 8) (first : BitVec 16) : (bist s ir test pass nfail first).pending = s.pending ∧ (bist s ir test pass nfail first).tb = s.tb := by
  constructor <;> (unfold bist; try dsimp only) <;> repeat' (first | with_reducible rfl | split | simp)

@[simp] theorem transfer_keeps (s : State) : (transfer s).pending = s.pending ∧ (transfer s).tb = s.tb := by
  constructor <;> (unfold transfer; try dsimp only) <;> repeat' (first | with_reducible rfl | split | simp)

@[simp] theorem commitTarget_keeps (s : State) (t : Target) (old new : Word) : (commitTarget s t old new).pending = s.pending ∧ (commitTarget s t old new).tb = s.tb := by
  constructor <;> (unfold commitTarget; try dsimp only) <;> repeat' (first | with_reducible rfl | split | (simp; done) | (refine (foldS_pending _ _ _ fun s a => ?_).trans ?_) | (refine (foldS_tb _ _ _ fun s a => ?_).trans ?_) | simp)

@[simp] theorem commitTargets_keeps (s : State) (ch : List Change) : (commitTargets s ch).pending = s.pending ∧ (commitTargets s ch).tb = s.tb := by
  constructor <;> (unfold commitTargets; try dsimp only) <;> repeat' (first | with_reducible rfl | split | (simp; done) | (refine (foldS_pending _ _ _ fun s a => ?_).trans ?_) | (refine (foldS_tb _ _ _ fun s a => ?_).trans ?_) | simp)

@[simp] theorem commitStaged_keeps (s : State) : (commitStaged s).pending = s.pending ∧ (commitStaged s).tb = s.tb := by
  constructor <;> (unfold commitStaged; try dsimp only) <;> repeat' (first | with_reducible rfl | split | (simp; done) | (refine (foldS_pending _ _ _ fun s a => ?_).trans ?_) | (refine (foldS_tb _ _ _ fun s a => ?_).trans ?_) | simp)

@[simp] theorem commitTenant_keeps (s0 s : State) (n : Tenant) : (commitTenant s0 s n).pending = s.pending ∧ (commitTenant s0 s n).tb = s.tb := by
  constructor <;> (unfold commitTenant; try dsimp only) <;> repeat' (first | with_reducible rfl | split | simp)

@[simp] theorem commitTenants_keeps (s0 s : State) : (commitTenants s0 s).pending = s.pending ∧ (commitTenants s0 s).tb = s.tb := by
  constructor <;> (unfold commitTenants; try dsimp only) <;> repeat' (first | with_reducible rfl | split | (simp; done) | (refine (foldS_pending _ _ _ fun s a => ?_).trans ?_) | (refine (foldS_tb _ _ _ fun s a => ?_).trans ?_) | simp)

@[simp] theorem commitRoute_keeps (s : State) (k : Nat) : (commitRoute s k).pending = s.pending ∧ (commitRoute s k).tb = s.tb := by
  constructor <;> (unfold commitRoute; try dsimp only) <;> repeat' (first | with_reducible rfl | split | simp)

@[simp] theorem wiredBelow_keeps (s : State) (t : Target) : (wiredBelow s t).pending = s.pending ∧ (wiredBelow s t).tb = s.tb := by
  constructor <;> (unfold wiredBelow; try dsimp only) <;> repeat' (first | with_reducible rfl | split | (simp; done) | (refine (foldS_pending _ _ _ fun s a => ?_).trans ?_) | (refine (foldS_tb _ _ _ fun s a => ?_).trans ?_) | simp)

@[simp] theorem commitRoutes_keeps (s : State) (ch : List Change) (staged : List Nat) : (commitRoutes s ch staged).pending = s.pending ∧ (commitRoutes s ch staged).tb = s.tb := by
  constructor <;> (unfold commitRoutes; try dsimp only) <;> repeat' (first | with_reducible rfl | split | (simp; done) | (refine (foldS_pending _ _ _ fun s a => ?_).trans ?_) | (refine (foldS_tb _ _ _ fun s a => ?_).trans ?_) | simp)

@[simp] theorem commitInvalidations_keeps (s0 s : State) (ch : List Change) : (commitInvalidations s0 s ch).pending = s.pending ∧ (commitInvalidations s0 s ch).tb = s.tb := by
  constructor <;> (unfold commitInvalidations; try dsimp only) <;> repeat' (first | with_reducible rfl | split | (simp; done) | (refine (foldS_pending _ _ _ fun s a => ?_).trans ?_) | (refine (foldS_tb _ _ _ fun s a => ?_).trans ?_) | simp)

@[simp] theorem recordAtCommit_keeps (s : State) (n : Tenant) (evt : Bool) : (recordAtCommit s n evt).pending = s.pending ∧ (recordAtCommit s n evt).tb = s.tb := by
  constructor <;> (unfold recordAtCommit; try dsimp only) <;> repeat' (first | with_reducible rfl | split | simp)

@[simp] theorem commitRing_keeps (s : State) (n : Tenant) (evt : Bool) : (commitRing s n evt).pending = s.pending ∧ (commitRing s n evt).tb = s.tb := by
  constructor <;> (unfold commitRing; try dsimp only) <;> repeat' (first | with_reducible rfl | split | simp)

@[simp] theorem commitRings_keeps (s : State) (ch : List Change) : (commitRings s ch).pending = s.pending ∧ (commitRings s ch).tb = s.tb := by
  constructor <;> (unfold commitRings; try dsimp only) <;> repeat' (first | with_reducible rfl | split | (simp; done) | (refine (foldS_pending _ _ _ fun s a => ?_).trans ?_) | (refine (foldS_tb _ _ _ fun s a => ?_).trans ?_) | simp)

@[simp] theorem commitLinks_keeps (s0 s : State) : (commitLinks s0 s).pending = s.pending ∧ (commitLinks s0 s).tb = s.tb := by
  constructor <;> (unfold commitLinks; try dsimp only) <;> repeat' (first | with_reducible rfl | split | (simp; done) | (refine (foldS_pending _ _ _ fun s a => ?_).trans ?_) | (refine (foldS_tb _ _ _ fun s a => ?_).trans ?_) | simp)

@[simp] theorem commitPrivate_keeps (s : State) (t : Target) (idx : Nat) (old new : Word) : (commitPrivate s t idx old new).pending = s.pending ∧ (commitPrivate s t idx old new).tb = s.tb := by
  constructor <;> (unfold commitPrivate; try dsimp only) <;> repeat' (first | with_reducible rfl | split | simp)

@[simp] theorem commitSources_keeps (s0 s : State) (ch : List Change) : (commitSources s0 s ch).pending = s.pending ∧ (commitSources s0 s ch).tb = s.tb := by
  constructor <;> (unfold commitSources; try dsimp only) <;> repeat' (first | with_reducible rfl | split | (simp; done) | (refine (foldS_pending _ _ _ fun s a => ?_).trans ?_) | (refine (foldS_tb _ _ _ fun s a => ?_).trans ?_) | simp)

@[simp] theorem commitCounts_keeps (s0 s : State) : (commitCounts s0 s).pending = s.pending ∧ (commitCounts s0 s).tb = s.tb := by
  constructor <;> (unfold commitCounts; try dsimp only) <;> repeat' (first | with_reducible rfl | split | (simp; done) | (refine (foldS_pending _ _ _ fun s a => ?_).trans ?_) | (refine (foldS_tb _ _ _ fun s a => ?_).trans ?_) | simp)

@[simp] theorem commitExpiry_keeps (s : State) : (commitExpiry s).pending = s.pending ∧ (commitExpiry s).tb = s.tb := by
  constructor <;> (unfold commitExpiry; try dsimp only) <;> repeat' (first | with_reducible rfl | split | (simp; done) | (refine (foldS_pending _ _ _ fun s a => ?_).trans ?_) | (refine (foldS_tb _ _ _ fun s a => ?_).trans ?_) | simp)

@[simp] theorem commitScan_keeps (s0 s : State) : (commitScan s0 s).pending = s.pending ∧ (commitScan s0 s).tb = s.tb := by
  constructor <;> (unfold commitScan; try dsimp only) <;> repeat' (first | with_reducible rfl | split | simp)

@[simp] theorem commitTransfer_keeps (s : State) : (commitTransfer s).pending = s.pending ∧ (commitTransfer s).tb = s.tb := by
  constructor <;> (unfold commitTransfer; try dsimp only) <;> repeat' (first | with_reducible rfl | split | simp)

@[simp] theorem commitEffects_keeps (s0 s : State) (ch : List Change) : (commitEffects s0 s ch).pending = s.pending ∧ (commitEffects s0 s ch).tb = s.tb := by
  constructor <;> (unfold commitEffects; try dsimp only) <;> repeat' (first | with_reducible rfl | split | simp)

@[simp] theorem commit_keeps (s0 : State) : (commit s0).pending = s0.pending ∧ (commit s0).tb = s0.tb := by
  constructor <;> (unfold commit; try dsimp only) <;> repeat' (first | with_reducible rfl | split | simp)

@[simp] theorem headland_keeps (s : State) : (headland s).pending = s.pending ∧ (headland s).tb = s.tb := by
  constructor <;> (unfold headland; try dsimp only) <;> repeat' (first | with_reducible rfl | split | simp)

@[simp] theorem scanCompare_keeps (s : State) (c : Word) : (scanCompare s c).pending = s.pending ∧ (scanCompare s c).tb = s.tb := by
  constructor <;> (unfold scanCompare; try dsimp only) <;> repeat' (first | with_reducible rfl | split | simp)

@[simp] theorem scanPassComplete_keeps (s : State) : (scanPassComplete s).pending = s.pending ∧ (scanPassComplete s).tb = s.tb := by
  constructor <;> (unfold scanPassComplete; try dsimp only) <;> repeat' (first | with_reducible rfl | split | simp)

@[simp] theorem regionSyncDone_keeps (s : State) : (regionSyncDone s).pending = s.pending ∧ (regionSyncDone s).tb = s.tb := by
  constructor <;> (unfold regionSyncDone; try dsimp only) <;> repeat' (first | with_reducible rfl | split | simp)

@[simp] theorem tbCclk_pending (s : State) : (tbCclk s).pending = s.pending := by
  (unfold tbCclk; try dsimp only) <;> repeat' (first | with_reducible rfl | split | simp)

@[simp] theorem linkCclk_keeps (s : State) (l : Link) : (linkCclk s l).pending = s.pending ∧ (linkCclk s l).tb = s.tb := by
  constructor <;> (unfold linkCclk; try dsimp only) <;> repeat' (first | with_reducible rfl | split | simp)

@[simp] theorem coreCclk_pending (s : State) : (coreCclk s).pending = s.pending := by
  (unfold coreCclk; try dsimp only) <;> repeat' (first | with_reducible rfl | split | (simp; done) | (refine (foldS_pending _ _ _ fun s a => ?_).trans ?_) | (refine (foldS_tb _ _ _ fun s a => ?_).trans ?_) | simp)

@[simp] theorem tick_pending (s : State) : (tick s).pending = s.pending := by
  (unfold tick; try dsimp only) <;> repeat' (first | with_reducible rfl | split | simp)

@[simp] theorem refuse_keeps (s : State) (code : BitVec 4) (rd : Bool) (addr : Nat) : (refuse s code rd addr).pending = s.pending ∧ (refuse s code rd addr).tb = s.tb := by
  constructor <;> (unfold refuse; try dsimp only) <;> repeat' (first | with_reducible rfl | split | simp)

@[simp] theorem setRdata_keeps (s : State) (w : Word) : (setRdata s w).pending = s.pending ∧ (setRdata s w).tb = s.tb := by
  constructor <;> (unfold setRdata; try dsimp only) <;> repeat' (first | with_reducible rfl | split | simp)

@[simp] theorem capture_keeps (s : State) (live : Bool) (first words : Nat) : (capture s live first words).pending = s.pending ∧ (capture s live first words).tb = s.tb := by
  constructor <;> (unfold capture; try dsimp only) <;> repeat' (first | with_reducible rfl | split | simp)

@[simp] theorem wtClaim_keeps (s : State) (t : Target) :
    (wtClaim s t).2.pending = s.pending ∧ (wtClaim s t).2.tb = s.tb := by
  unfold wtClaim
  repeat' split
  all_goals simp

@[simp] theorem servedRead_keeps (s : State) (live : Bool) (off : Nat) : (servedRead s live off).pending = s.pending ∧ (servedRead s live off).tb = s.tb := by
  constructor <;> (unfold servedRead; try dsimp only) <;> repeat' (first | with_reducible rfl | split | simp)

@[simp] theorem busRead_keeps (s : State) (addr : Nat) : (busRead s addr).pending = s.pending ∧ (busRead s addr).tb = s.tb := by
  constructor <;> (unfold busRead; try dsimp only) <;> repeat' (first | with_reducible rfl | split | simp)

@[simp] theorem writeHl_keeps (s : State) (op : BusOp) (off : Nat) (be : BE) (data : Word) : (writeHl s op off be data).pending = s.pending ∧ (writeHl s op off be data).tb = s.tb := by
  constructor <;> (unfold writeHl; try dsimp only) <;> repeat' (first | with_reducible rfl | split | simp)

@[simp] theorem writeIm_keeps (s : State) (op : BusOp) (off : Nat) (be : BE) (data : Word) : (writeIm s op off be data).pending = s.pending ∧ (writeIm s op off be data).tb = s.tb := by
  constructor <;> (unfold writeIm; try dsimp only) <;> repeat' (first | with_reducible rfl | split | simp)

@[simp] theorem writePend_keeps (s : State) (op : BusOp) (m : Nat) (be : BE) (data : Word) : (writePend s op m be data).pending = s.pending ∧ (writePend s op m be data).tb = s.tb := by
  constructor <;> (unfold writePend; try dsimp only) <;> repeat' (first | with_reducible rfl | split | (simp; done) | (refine (foldS_pending _ _ _ fun s a => ?_).trans ?_) | (refine (foldS_tb _ _ _ fun s a => ?_).trans ?_) | simp)

@[simp] theorem writeSq_keeps (s : State) (off : Nat) (data : Word) (hw : BitVec 24) : (writeSq s off data hw).pending = s.pending ∧ (writeSq s off data hw).tb = s.tb := by
  constructor <;> (unfold writeSq; try dsimp only) <;> repeat' (first | with_reducible rfl | split | simp)

@[simp] theorem windowLoad_keeps (s : State) (live : Bool) (t idx tgt : Nat) : (windowLoad s live t idx tgt).pending = s.pending ∧ (windowLoad s live t idx tgt).tb = s.tb := by
  constructor <;> (unfold windowLoad; try dsimp only) <;> repeat' (first | with_reducible rfl | split | (simp; done) | (refine (foldS_pending _ _ _ fun s a => ?_).trans ?_) | (refine (foldS_tb _ _ _ fun s a => ?_).trans ?_) | simp)

@[simp] theorem windowShadow_keeps (s : State) (t idx tgt : Nat) : (windowShadow s t idx tgt).pending = s.pending ∧ (windowShadow s t idx tgt).tb = s.tb := by
  constructor <;> (unfold windowShadow; try dsimp only) <;> repeat' (first | with_reducible rfl | split | (simp; done) | (refine (foldS_pending _ _ _ fun s a => ?_).trans ?_) | (refine (foldS_tb _ _ _ fun s a => ?_).trans ?_) | simp)

@[simp] theorem windowPulse_keeps (s : State) (t idx : Nat) : (windowPulse s t idx).pending = s.pending ∧ (windowPulse s t idx).tb = s.tb := by
  constructor <;> (unfold windowPulse; try dsimp only) <;> repeat' (first | with_reducible rfl | split | simp)

@[simp] theorem windowState_keeps (s : State) (t idx tgt : Nat) : (windowState s t idx tgt).pending = s.pending ∧ (windowState s t idx tgt).tb = s.tb := by
  constructor <;> (unfold windowState; try dsimp only) <;> repeat' (first | with_reducible rfl | split | simp)

@[simp] theorem windowEffect_keeps (s : State) (op : Nat) : (windowEffect s op).pending = s.pending ∧ (windowEffect s op).tb = s.tb := by
  constructor <;> (unfold windowEffect; try dsimp only) <;> repeat' (first | with_reducible rfl | split | simp)

@[simp] theorem windowCommand_keeps (s : State) (op : Nat) : (windowCommand s op).pending = s.pending ∧ (windowCommand s op).tb = s.tb := by
  constructor <;> (unfold windowCommand; try dsimp only) <;> repeat' (first | with_reducible rfl | split | simp)

@[simp] theorem rstCtl_pending (s : State) (ones : Word) : (rstCtl s ones).pending = s.pending := by
  (unfold rstCtl; try dsimp only) <;> repeat' (first | with_reducible rfl | split | simp)

@[simp] theorem tbCtl_pending (s : State) (op : BusOp) (be : BE) (data : Word) : (tbCtl s op be data).pending = s.pending := by
  (unfold tbCtl; try dsimp only) <;> repeat' (first | with_reducible rfl | split | simp)

@[simp] theorem revert_keeps (s : State) : (revert s).pending = s.pending ∧ (revert s).tb = s.tb := by
  constructor <;> (unfold revert; try dsimp only) <;> repeat' (first | with_reducible rfl | split | simp)

@[simp] theorem mbxBufWrite_keeps (s : State) (op : BusOp) (off : Nat) (be : BE) (data : Word) : (mbxBufWrite s op off be data).pending = s.pending ∧ (mbxBufWrite s op off be data).tb = s.tb := by
  constructor <;> (unfold mbxBufWrite; try dsimp only) <;> repeat' (first | with_reducible rfl | split | simp)

@[simp] theorem clearHwm_keeps (s : State) : (clearHwm s).pending = s.pending ∧ (clearHwm s).tb = s.tb := by
  constructor <;> (unfold clearHwm; try dsimp only) <;> repeat' (first | with_reducible rfl | split | simp)

@[simp] theorem writeAct_pending (s : State) (op : BusOp) (off : Nat) (be : BE) (data : Word) : (writeAct s op off be data).pending = s.pending := by
  (unfold writeAct; try dsimp only) <;> repeat' (first | with_reducible rfl | split | simp)

@[simp] theorem servedWrite_pending (s : State) (op : BusOp) (off : Nat) (be : BE) (data : Word) (hw : BitVec 24) : (servedWrite s op off be data hw).pending = s.pending := by
  (unfold servedWrite; try dsimp only) <;> repeat' (first | with_reducible rfl | split | simp)

@[simp] theorem busWrite_pending (s : State) (addr : Nat) (be : BE) (data : Word) (hw : BitVec 24) : (busWrite s addr be data hw).pending = s.pending := by
  (unfold busWrite; try dsimp only) <;> repeat' (first | with_reducible rfl | split | simp)

end Sys2Proof.Machine
end

