-- ==== Sys2Proof/Laws/Ops.lean ====
section
/-!
SUPPORT. Laws/Ops.lean: what the closing of a command (`settle`) leaves as it was, and the shared operations under it: the
flush of the house flags, the withdrawal of R335, the high-water marks.
-/
set_option linter.unusedTactic false
set_option linter.unreachableTactic false

/-! ## What stands aside: everything but what closes a command -/

namespace Sys2Proof.Safety

open Sys2Proof.Machine

theorem Aside.refl (w : Bool) (s : State) : Aside w s s := by constructor <;> simp

theorem Aside.trans {w : Bool} {s t u : State} (a : Aside w s t) (b : Aside w t u) : Aside w s u := by
  constructor
  case sq => intro off h; rw [b.sq off h, a.sq off h]
  case cnt => intro off h; rw [b.cnt off h, a.cnt off h]
  case ints =>
    intro k h e
    have h1 := a.ints k h e
    rw [b.ints k h (by rw [h1]; exact e), h1]
  case xl => rw [b.xl, a.xl]
  case nv => rw [b.nv, a.nv]
  case cmp =>
    obtain ⟨x, hx⟩ := a.cmp
    obtain ⟨y, hy⟩ := b.cmp
    exact ⟨x ++ y, by rw [hy, hx, List.append_assoc]⟩
  case jobs =>
    obtain ⟨x, hx⟩ := a.jobs
    obtain ⟨y, hy⟩ := b.jobs
    exact ⟨x ++ y, by rw [hy, hx, List.append_assoc]⟩
  all_goals first
    | rw [b.pending, a.pending] | rw [b.shadow, a.shadow] | rw [b.live, a.live] | rw [b.im, a.im] | rw [b.bus, a.bus]
    | rw [b.tb, a.tb] | rw [b.hl, a.hl] | rw [b.tgts, a.tgts] | rw [b.ptrs, a.ptrs] | rw [b.choices, a.choices]
    | rw [b.serial, a.serial] | rw [b.wPin, a.wPin] | rw [b.wFilt, a.wFilt] | rw [b.wTran, a.wTran]
    | rw [b.wSince, a.wSince] | rw [b.bankPos, a.bankPos] | rw [b.fans, a.fans]
    | rw [b.tens, a.tens] | rw [b.quiesceLast, a.quiesceLast] | rw [b.links, a.links] | rw [b.lanes, a.lanes]
    | rw [b.pw, a.pw] | rw [b.mbx, a.mbx] | rw [b.stew, a.stew] | rw [b.au, a.au]
    | rw [b.bun, a.bun] | rw [b.now, a.now] | rw [b.free, a.free]

/-- A fold of steps that stand aside. -/
theorem Aside.fold {w : Bool} {α : Type} (f : State → α → State) (l : List α) (s : State)
    (h : ∀ s, ∀ a ∈ l, Aside w s (f s a)) : Aside w s (foldS f s l) := by
  induction l generalizing s with
  | nil => exact Aside.refl _ s
  | cons a l ih => exact (h s a (by simp)).trans (ih _ fun s b hb => h s b (by simp [hb]))

end Sys2Proof.Safety

namespace Sys2Proof.Machine

open Sys2Proof.Safety

/-! ## noteHwm -/

theorem noteHwm_eq (s : State) : ∃ h, noteHwm s = { s with xl := { s.xl with hwm := h } } := ⟨_, rfl⟩

@[simp] theorem noteHwm_cfg (s : State) : (noteHwm s).cfg = s.cfg := by
  obtain ⟨h, e⟩ := noteHwm_eq s; rw [e]
@[simp] theorem noteHwm_nv (s : State) : (noteHwm s).nv = s.nv := by
  obtain ⟨h, e⟩ := noteHwm_eq s; rw [e]
@[simp] theorem noteHwm_allot (s : State) : (noteHwm s).allot = s.allot := by
  obtain ⟨h, e⟩ := noteHwm_eq s; rw [e]
@[simp] theorem endCclk_cfg (s : State) : (endCclk s).cfg = s.cfg := (rfl)
@[simp] theorem endCclk_nv (s : State) : (endCclk s).nv = s.nv := (rfl)
@[simp] theorem endCclk_allot (s : State) : (endCclk s).allot = s.allot := (rfl)
@[simp] theorem arbFollow_cfg (s : State) : (arbFollow s).cfg = s.cfg := (rfl)
@[simp] theorem arbFollow_nv (s : State) : (arbFollow s).nv = s.nv := (rfl)
@[simp] theorem arbFollow_hsAcc (s : State) : (arbFollow s).hsAcc = s.hsAcc := (rfl)
@[simp] theorem arbFollow_sqAcc (s : State) : (arbFollow s).sqAcc = s.sqAcc := (rfl)

/-! ## The pieces -/

theorem aside_hsAcc {w : Bool} (s : State) (x : BitVec 16) : Aside w s { s with hsAcc := x } := by constructor <;> simp [intOf, sqOf, cntOf]

theorem aside_endCclk {w : Bool} (s : State) : Aside w s (endCclk s) := by
  constructor <;> simp [intOf, sqOf, cntOf, endCclk]

theorem aside_allot {w : Bool} (s : State) (a : Allot) : Aside w s { s with allot := a } := by
  constructor <;> simp [intOf, sqOf, cntOf]

theorem aside_arbFollow {w : Bool} (s : State) : Aside w s (arbFollow s) := aside_allot s _

theorem aside_setInt {w : Bool} (s : State) (k : Nat) (r : IntRec)
    (h : houseKey k = true ∨ (w = true ∧ (intOf s k).st = .offeredP)) : Aside w s (setInt s k r) := by
  constructor <;> try simp
  intro j hj e
  rw [intOf_setInt, if_neg]
  rintro rfl
  rcases h with h | h
  · simp [h] at hj
  · rcases e with e | e
    · simp [h.1] at e
    · exact e h.2

theorem aside_bumpDrop {w : Bool} (s : State) : Aside w s (dropCount s cntCMPDROP) := by
  unfold dropCount
  refine Aside.trans ?_ (aside_hsAcc _ _)
  constructor <;> try simp
  intro off h; rw [cntOf_bump, if_neg h]

theorem aside_placeNote {w : Bool} (s : State) (n : NoteKey) (i : Intid) : Aside w s (placeNote s n i).1 := by
  unfold placeNote
  split
  · exact aside_bumpDrop s
  · constructor <;> simp [intOf, sqOf, cntOf]

theorem house_isLevel (s : State) (k : Nat) (t : Target) (h : houseKey k = true) : isLevel s t (keyIntid k) = true := by
  simp only [houseKey, Bool.and_eq_true, decide_eq_true_eq] at h
  have e : (keyIntid k).toNat = k - 8192 := by
    unfold keyIntid
    rw [if_neg (by omega), BitVec.toNat_ofNat]
    omega
  have h2 : isHouse (keyIntid k) = true := by
    unfold isHouse
    rw [e]
    simp only [Bool.and_eq_true, decide_eq_true_eq]
    omega
  simp [isLevel, h2]

theorem aside_evT_house {w : Bool} (s : State) (k : Nat) (n : Option NoteKey) (h : houseKey k = true) : Aside w s (evT s k n) := by
  unfold evT
  simp only []
  split
  · exact aside_setInt _ _ _ (.inl h)
  · refine Aside.trans ?_ (aside_setInt _ _ _ (.inl h))
    split
    · exact aside_placeNote _ _ _
    · exact Aside.refl _ _
  · rw [if_pos (house_isLevel s k _ h)]; exact Aside.refl _ _
  · exact Aside.refl _ _

theorem aside_evF_house {w : Bool} (s : State) (k : Nat) (h : houseKey k = true) : Aside w s (evF s k) := by
  unfold evF
  simp only []
  split
  · exact aside_setInt _ _ _ (.inl h)
  · exact aside_setInt _ _ _ (.inl h)
  · exact Aside.refl _ _

theorem mem_upTo (n j : Nat) : j ∈ upTo n ↔ j < n := by simp [upTo]

theorem aside_houseEdges (old : BitVec 16) {w : Bool} (s : State) : Aside w s (houseEdges old s) := by
  unfold houseEdges
  split
  · refine Aside.fold _ _ _ fun s j hj => ?_
    have hk : houseKey (8192 + 128 + j) = true := by
      have := (mem_upTo 16 j).1 hj
      simp only [houseKey, Bool.and_eq_true, decide_eq_true_eq]; omega
    simp only []
    split
    · exact aside_evT_house _ _ _ hk
    · split
      · exact aside_evF_house _ _ hk
      · exact Aside.refl _ _
  · exact Aside.refl _ _

theorem aside_flushHouse {w : Bool} (s : State) : Aside w s (flushHouse s) := by
  unfold flushHouse
  split
  · exact Aside.refl _ _
  · simp only []
    refine Aside.trans ?_ (aside_houseEdges _ _)
    constructor
    case sq => intro off h; rw [sqOf_sqSet_ne _ _ _ _ h]; rfl
    all_goals first | (intros; rfl) | exact ⟨[], (List.append_nil _).symm⟩

theorem aside_pushLog {w : Bool} (s : State) (ty arg : BitVec 8) (v : Word) (d : BitVec 96) : Aside w s (logEntry s ty arg v d) := by
  unfold logEntry pushJob
  split
  · constructor <;> first | (intros; rfl) | rfl | exact ⟨[], (List.append_nil _).symm⟩ | exact ⟨_, rfl⟩
  · exact Aside.refl _ _

theorem aside_logMode {w : Bool} (b s : State) : Aside w s (logMode b s) := by
  unfold logMode
  simp only []
  split
  · exact aside_pushLog _ _ _ _ _
  · exact Aside.refl _ _

theorem aside_nvDone {w : Bool} (b s : State) : Aside w s (nvDone b s) := by
  unfold nvDone
  split
  · exact aside_hsAcc _ _
  · exact Aside.refl _ _

theorem aside_evW (s : State) (k : Nat) : Aside true s (evW s k) := by
  unfold evW
  simp only []
  split
  · next h => exact aside_setInt _ _ _ (.inr ⟨rfl, h⟩)
  · exact Aside.refl _ _

theorem aside_settlePermit (b s : State) : Aside true s (settlePermit b s) := by
  unfold settlePermit withdrawAll
  split
  · exact Aside.fold _ _ _ fun s p _ => aside_evW s p.1
  · exact Aside.refl _ _

theorem aside_hwm {w : Bool} (s : State) (h : Tab Nat) : Aside w s { s with xl := { s.xl with hwm := h } } := by
  constructor <;> first | (intros; rfl) | rfl | exact ⟨[], (List.append_nil _).symm⟩ | exact ⟨_, rfl⟩

theorem aside_noteHwm {w : Bool} (s : State) : Aside w s (noteHwm s) := by
  obtain ⟨h, e⟩ := noteHwm_eq s
  rw [e]; exact aside_hwm s h

/-- The end of the closing, once the offers that lose their permission have been withdrawn. -/
theorem aside_close {w : Bool} (s : State) : Aside w s (endCclk (noteHwm (flushHouse (arbFollow s)))) :=
  (aside_arbFollow s).trans ((aside_flushHouse _).trans ((aside_noteHwm _).trans (aside_endCclk _)))

/-- What the closing of a command leaves as it was. -/
theorem settle_aside (b s : State) : Aside true s (settle b s) :=
  (aside_nvDone b s).trans ((aside_logMode b _).trans ((aside_settlePermit b _).trans (aside_close _)))

/-- While event S stays permitted, no offer is withdrawn either. -/
theorem settle_aside_permit (b s : State) (hp : permitS b = true → permitS s = true) : Aside false s (settle b s) := by
  have hx : ∀ x, Aside false s x → settlePermit b x = x := by
    intro x a
    unfold settlePermit
    rw [if_neg]
    intro h
    have e : permitS x = permitS s := by
      unfold permitS operating runEn holdCond regLive regImm liveAt imAt
      rw [a.pw, a.live, a.im]
    cases e1 : permitS b <;> simp_all
  have a : Aside false s _ := (aside_nvDone b s).trans (aside_logMode b _)
  unfold settle
  rw [hx _ a]
  exact a.trans (aside_close _)

@[simp] theorem settle_hsAcc (b s : State) : (settle b s).hsAcc = 0 := (rfl)
@[simp] theorem settle_sqAcc (b s : State) : (settle b s).sqAcc = [] := (rfl)
theorem settle_quiet (b s : State) : Quiet (settle b s) := ⟨rfl, rfl⟩

/-! ## The closing, field by field -/

@[simp] theorem settle_pending (b s : State) : (settle b s).pending = s.pending := (settle_aside b s).pending
@[simp] theorem settle_tb (b s : State) : (settle b s).tb = s.tb := (settle_aside b s).tb
@[simp] theorem settle_bus (b s : State) : (settle b s).bus = s.bus := (settle_aside b s).bus
@[simp] theorem settle_hl (b s : State) : (settle b s).hl = s.hl := (settle_aside b s).hl
@[simp] theorem settle_tens (b s : State) : (settle b s).tens = s.tens := (settle_aside b s).tens
@[simp] theorem settle_quiesceLast (b s : State) : (settle b s).quiesceLast = s.quiesceLast := (settle_aside b s).quiesceLast
@[simp] theorem settle_links (b s : State) : (settle b s).links = s.links := (settle_aside b s).links
@[simp] theorem settle_lanes (b s : State) : (settle b s).lanes = s.lanes := (settle_aside b s).lanes
@[simp] theorem settle_pw (b s : State) : (settle b s).pw = s.pw := (settle_aside b s).pw
@[simp] theorem settle_mbx (b s : State) : (settle b s).mbx = s.mbx := (settle_aside b s).mbx
@[simp] theorem settle_stew (b s : State) : (settle b s).stew = s.stew := (settle_aside b s).stew
@[simp] theorem settle_au (b s : State) : (settle b s).au = s.au := (settle_aside b s).au
@[simp] theorem settle_bun (b s : State) : (settle b s).bun = s.bun := (settle_aside b s).bun
@[simp] theorem settle_now (b s : State) : (settle b s).now = s.now := (settle_aside b s).now
@[simp] theorem settle_free (b s : State) : (settle b s).free = s.free := (settle_aside b s).free
@[simp] theorem settle_shadow (b s : State) : (settle b s).cfg.shadow = s.cfg.shadow := (settle_aside b s).shadow
@[simp] theorem settle_live (b s : State) : (settle b s).cfg.live = s.cfg.live := (settle_aside b s).live
@[simp] theorem settle_im (b s : State) : (settle b s).cfg.im = s.cfg.im := (settle_aside b s).im
@[simp] theorem settle_tgts (b s : State) : (settle b s).irq.tgts = s.irq.tgts := (settle_aside b s).tgts
@[simp] theorem settle_ptrs (b s : State) : (settle b s).irq.ptrs = s.irq.ptrs := (settle_aside b s).ptrs
@[simp] theorem settle_choices (b s : State) : (settle b s).irq.choices = s.irq.choices := (settle_aside b s).choices
@[simp] theorem settle_serial (b s : State) : (settle b s).irq.serial = s.irq.serial := (settle_aside b s).serial
@[simp] theorem settle_wPin (b s : State) : (settle b s).irq.wPin = s.irq.wPin := (settle_aside b s).wPin
@[simp] theorem settle_wFilt (b s : State) : (settle b s).irq.wFilt = s.irq.wFilt := (settle_aside b s).wFilt
@[simp] theorem settle_wSince (b s : State) : (settle b s).irq.wSince = s.irq.wSince := (settle_aside b s).wSince
@[simp] theorem settle_bankPos (b s : State) : (settle b s).irq.bankPos = s.irq.bankPos := (settle_aside b s).bankPos
@[simp] theorem settle_fans (b s : State) : (settle b s).irq.fans = s.irq.fans := (settle_aside b s).fans
@[simp] theorem settle_wTran (b s : State) : (settle b s).irq.wTran = s.irq.wTran := (settle_aside b s).wTran
@[simp] theorem settle_nv_mem (b s : State) : (settle b s).nv.mem = s.nv.mem := by rw [(settle_aside b s).nv]
@[simp] theorem settle_nv_indet (b s : State) : (settle b s).nv.indet = s.nv.indet := by rw [(settle_aside b s).nv]
@[simp] theorem settle_nv_op (b s : State) : (settle b s).nv.op = s.nv.op := by rw [(settle_aside b s).nv]
@[simp] theorem settle_nv_orphan (b s : State) : (settle b s).nv.orphan = s.nv.orphan := by rw [(settle_aside b s).nv]
@[simp] theorem settle_nv_armed (b s : State) : (settle b s).nv.armed = s.nv.armed := by rw [(settle_aside b s).nv]
@[simp] theorem settle_nv_wantArm (b s : State) : (settle b s).nv.wantArm = s.nv.wantArm := by rw [(settle_aside b s).nv]
@[simp] theorem settle_nv_gaspResult (b s : State) : (settle b s).nv.gaspResult = s.nv.gaspResult := by rw [(settle_aside b s).nv]
@[simp] theorem settle_nv_calSrc (b s : State) : (settle b s).nv.calSrc = s.nv.calSrc := by rw [(settle_aside b s).nv]
@[simp] theorem settle_nv_corrected (b s : State) : (settle b s).nv.corrected = s.nv.corrected := by rw [(settle_aside b s).nv]
@[simp] theorem settle_nv_journal (b s : State) : (settle b s).nv.journal = s.nv.journal := by rw [(settle_aside b s).nv]
@[simp] theorem settle_nv_policy (b s : State) : (settle b s).nv.policy = s.nv.policy := by rw [(settle_aside b s).nv]
@[simp] theorem settle_nv_log (b s : State) : (settle b s).nv.log = s.nv.log := by rw [(settle_aside b s).nv]
@[simp] theorem settle_nv_epoch (b s : State) : (settle b s).nv.epoch = s.nv.epoch := by rw [(settle_aside b s).nv]
@[simp] theorem settle_nv_counts (b s : State) : (settle b s).nv.counts = s.nv.counts := by rw [(settle_aside b s).nv]
@[simp] theorem settle_nv_retired (b s : State) : (settle b s).nv.retired = s.nv.retired := by rw [(settle_aside b s).nv]
@[simp] theorem settle_nv_ckpt (b s : State) : (settle b s).nv.ckpt = s.nv.ckpt := by rw [(settle_aside b s).nv]
@[simp] theorem settle_nv_slot (b s : State) : (settle b s).nv.slot = s.nv.slot := by rw [(settle_aside b s).nv]
@[simp] theorem settle_nv_gseq (b s : State) : (settle b s).nv.gseq = s.nv.gseq := by rw [(settle_aside b s).nv]
@[simp] theorem settle_nv_gasp (b s : State) : (settle b s).nv.gasp = s.nv.gasp := by rw [(settle_aside b s).nv]
@[simp] theorem settle_xl_qIn (b s : State) : (settle b s).xl.qIn = s.xl.qIn := by rw [(settle_aside b s).xl]
@[simp] theorem settle_xl_blocked (b s : State) : (settle b s).xl.blocked = s.xl.blocked := by rw [(settle_aside b s).xl]
@[simp] theorem settle_xl_walks (b s : State) : (settle b s).xl.walks = s.xl.walks := by rw [(settle_aside b s).xl]
@[simp] theorem settle_xl_gens (b s : State) : (settle b s).xl.gens = s.xl.gens := by rw [(settle_aside b s).xl]
@[simp] theorem settle_xl_tcache (b s : State) : (settle b s).xl.tcache = s.xl.tcache := by rw [(settle_aside b s).xl]
@[simp] theorem settle_xl_xcache (b s : State) : (settle b s).xl.xcache = s.xl.xcache := by rw [(settle_aside b s).xl]
@[simp] theorem settle_xl_qFlt (b s : State) : (settle b s).xl.qFlt = s.xl.qFlt := by rw [(settle_aside b s).xl]
@[simp] theorem settle_xl_qEvt (b s : State) : (settle b s).xl.qEvt = s.xl.qEvt := by rw [(settle_aside b s).xl]
@[simp] theorem settle_xl_inv (b s : State) : (settle b s).xl.inv = s.xl.inv := by rw [(settle_aside b s).xl]
@[simp] theorem settle_xl_pend (b s : State) : (settle b s).xl.pend = s.xl.pend := by rw [(settle_aside b s).xl]
@[simp] theorem settle_xl_lastAdmit (b s : State) : (settle b s).xl.lastAdmit = s.xl.lastAdmit := by rw [(settle_aside b s).xl]
@[simp] theorem settle_xl_serial (b s : State) : (settle b s).xl.serial = s.xl.serial := by rw [(settle_aside b s).xl]
@[simp] theorem settle_xl_rsDone (b s : State) : (settle b s).xl.rsDone = s.xl.rsDone := by rw [(settle_aside b s).xl]
@[simp] theorem settle_xl_rsDirty (b s : State) : (settle b s).xl.rsDirty = s.xl.rsDirty := by rw [(settle_aside b s).xl]
@[simp] theorem settle_xl_rsSeq (b s : State) : (settle b s).xl.rsSeq = s.xl.rsSeq := by rw [(settle_aside b s).xl]
@[simp] theorem settle_xl_rsMark (b s : State) : (settle b s).xl.rsMark = s.xl.rsMark := by rw [(settle_aside b s).xl]
@[simp] theorem shadowAt_settle (b s : State) (j : Nat) : shadowAt (settle b s) j = shadowAt s j := by simp only [shadowAt, settle_shadow]
@[simp] theorem liveAt_settle (b s : State) (j : Nat) : liveAt (settle b s) j = liveAt s j := by simp only [liveAt, settle_live]
@[simp] theorem imAt_settle (b s : State) (j : Nat) : imAt (settle b s) j = imAt s j := by simp only [imAt, settle_im]
@[simp] theorem tgtOf_settle (b s : State) (u : Target) : tgtOf (settle b s) u = tgtOf s u := by simp only [tgtOf, settle_tgts]
@[simp] theorem ptrOf_settle (b s : State) (j : Nat) : ptrOf (settle b s) j = ptrOf s j := by simp only [ptrOf, settle_ptrs]
@[simp] theorem tenOf_settle (b s : State) (m : Tenant) : tenOf (settle b s) m = tenOf s m := by simp only [tenOf, settle_tens]
@[simp] theorem linkOf_settle (b s : State) (q : Link) : linkOf (settle b s) q = linkOf s q := by simp only [linkOf, settle_links]
@[simp] theorem laneOf_settle (b s : State) (q : Link) (j : Nat) : laneOf (settle b s) q j = laneOf s q j := by simp only [laneOf, settle_lanes]
@[simp] theorem ctxOf_settle (b s : State) (j : Nat) : ctxOf (settle b s) j = ctxOf s j := by simp only [ctxOf, settle_au]
@[simp] theorem slotOf_settle (b s : State) (j : Nat) : slotOf (settle b s) j = slotOf s j := by simp only [slotOf, settle_au]

theorem sqOf_settle (b s : State) (off : Nat) (h : off ≠ 0x300) : sqOf (settle b s) off = sqOf s off :=
  (settle_aside b s).sq off h
theorem cntOf_settle (b s : State) (off : Nat) (h : off ≠ cntCMPDROP) : cntOf (settle b s) off = cntOf s off :=
  (settle_aside b s).cnt off h
theorem intOf_settle (b s : State) (k : Nat) (h : houseKey k = false) (e : (intOf s k).st ≠ .offeredP) :
    intOf (settle b s) k = intOf s k := (settle_aside b s).ints k h (.inr e)

/-! ## The closing of a command that raises no house flag and stops no offers -/

/-- The arbiter follows, and the high-water marks may rise; nothing else changes. -/
theorem settle_plain (b s : State) (h0 : s.hsAcc = 0) (hw : storeWork b = 0 ∨ storeWork s ≠ 0)
    (hm : modeCode b = modeCode s) (hp : permitS b = true → permitS s = true) : UpToMarks s (settle b s) := by
  have h1 : nvDone b s = s := by
    unfold nvDone; rw [if_neg]; intro h
    rcases hw with hw | hw <;> simp_all
  have h2 : logMode b s = s := by unfold logMode; simp [hm]
  have h3 : flushHouse (arbFollow s) = arbFollow s := by
    unfold flushHouse; rw [if_pos (by rw [arbFollow_hsAcc, h0])]
  have h4 : settlePermit b s = s := by
    unfold settlePermit; rw [if_neg]; intro h
    cases e : permitS b <;> simp_all
  unfold settle
  rw [h1, h2, h4, h3]
  obtain ⟨h, e⟩ := noteHwm_eq (arbFollow s)
  refine ⟨h, ?_⟩
  rw [e]
  unfold endCclk arbFollow
  cases s
  simp only at h0
  rw [h0]

/-- INTIDs stay as they are, those of the house sources apart, while event S stays permitted. -/
theorem intOf_settle_permit (b s : State) (k : Nat) (h : houseKey k = false) (hp : permitS b = true → permitS s = true) :
    intOf (settle b s) k = intOf s k := (settle_aside_permit b s hp).ints k h (.inl rfl)

/-! ## HS_STAT after a command -/

theorem evT_sq (s : State) (k : Nat) (n : Option NoteKey) : (evT s k n).cfg.sq = s.cfg.sq := by
  unfold evT loseTrigger
  simp only []
  split
  · simp
  · simp only [setInt_cfg]
    split
    · unfold placeNote dropCount; split <;> simp
    · rfl
  · split <;> simp
  · rfl

theorem evF_sq (s : State) (k : Nat) : (evF s k).cfg.sq = s.cfg.sq := by
  unfold evF; simp only []; split <;> simp

theorem evW_sq (s : State) (k : Nat) : (evW s k).cfg.sq = s.cfg.sq := by
  unfold evW; simp only []; split <;> simp

theorem houseEdges_sq (old : BitVec 16) (s : State) : (houseEdges old s).cfg.sq = s.cfg.sq := by
  unfold houseEdges
  split
  · refine foldS_keeps (fun x : State => x.cfg.sq) _ _ _ fun s j => ?_
    simp only []
    split
    · exact evT_sq _ _ _
    · split
      · exact evF_sq _ _
      · rfl
  · rfl

theorem settlePermit_sq (b s : State) : (settlePermit b s).cfg.sq = s.cfg.sq := by
  unfold settlePermit withdrawAll
  split
  · exact foldS_keeps (fun x : State => x.cfg.sq) _ _ _ fun s p => evW_sq _ _
  · rfl

/-- Withdrawals touch INTIDs only. -/
theorem settlePermit_accs (b s : State) :
    (settlePermit b s).hsAcc = s.hsAcc ∧ (settlePermit b s).sqAcc = s.sqAcc := by
  unfold settlePermit withdrawAll
  split
  · refine ⟨foldS_keeps (fun x : State => x.hsAcc) _ _ _ fun s p => ?_, foldS_keeps (fun x : State => x.sqAcc) _ _ _ fun s p => ?_⟩
    all_goals unfold evW; simp only []; split <;> simp
  · exact ⟨rfl, rfl⟩

/-- The flags gathered in the CCLK are set as one (R132). -/
theorem sqOf_flushHouse (x : State) (h : x.sqAcc.contains 0x300 = false) :
    sqOf (flushHouse x) 0x300 = sqRaise (sqOf x 0x300) (x.hsAcc.setWidth 24) := by
  unfold flushHouse
  split
  · next h0 => rw [h0]; rfl
  · simp only []
    unfold sqOf
    rw [houseEdges_sq]
    have := sqOf_sqSet_self { x with hsAcc := 0, nv := { x.nv with trail := (x.hl.seq, x.hsAcc &&& ~~~(hsFlags x)) ::
      (x.nv.trail.take 7) } } 0x300 (x.hsAcc.setWidth 24) h
    unfold sqOf at this
    rw [this]

/-- One set for the CCLK: the flags gathered, with NV_DONE if Q-NVM has run empty (R132, R393). -/
theorem sqOf_settle_house (b s : State) (h : s.sqAcc.contains 0x300 = false) :
    sqOf (settle b s) 0x300 = sqRaise (sqOf s 0x300) ((nvDone b s).hsAcc.setWidth 24) := by
  have e : ∀ x, x = logMode b (nvDone b s) → x.cfg.sq = s.cfg.sq ∧ x.hsAcc = (nvDone b s).hsAcc ∧ x.sqAcc = s.sqAcc := by
    rintro x rfl
    unfold logMode logEntry nvDone pushJob
    simp only []
    repeat' split
    all_goals exact ⟨rfl, rfl, rfl⟩
  obtain ⟨e1, e2, e3⟩ := e _ rfl
  unfold settle
  generalize logMode b (nvDone b s) = x at e1 e2 e3
  have hy : (arbFollow (settlePermit b x)).sqAcc.contains 0x300 = false := by
    rw [arbFollow_sqAcc, (settlePermit_accs b x).2, e3]; exact h
  have := sqOf_flushHouse _ hy
  rw [arbFollow_hsAcc, (settlePermit_accs b x).1, e2] at this
  unfold sqOf at *
  rw [endCclk_cfg, noteHwm_cfg, this, arbFollow_cfg, settlePermit_sq, e1]

/-! ## The two closings that the statements speak of -/

/-- What decides whether event S is permitted, whether the mode is logged and whether the store has ended its work. -/
structure SameModes (b e : State) : Prop where
  pw : e.pw = b.pw
  live : e.cfg.live = b.cfg.live
  im : e.cfg.im = b.cfg.im
  lean : e.allot.lean = b.allot.lean
  jobs : e.nv.jobs = b.nv.jobs
  orphan : e.nv.orphan = b.nv.orphan

theorem SameModes.permit {b e : State} (h : SameModes b e) : permitS e = permitS b := by
  unfold permitS operating runEn holdCond regLive regImm liveAt imAt
  rw [h.pw, h.live, h.im]

theorem SameModes.code {b e : State} (h : SameModes b e) : modeCode e = modeCode b := by
  unfold modeCode runEn holdCond regLive liveAt
  rw [h.pw, h.live, h.lean]

theorem SameModes.work {b e : State} (h : SameModes b e) : storeWork e = storeWork b := by
  simp only [storeWork, h.jobs, h.orphan]

/-- What a command that raises no house flag and leaves the modes alone changes in closing. -/
theorem settle_upToMarks {b e : State} (h0 : e.hsAcc = 0) (h : SameModes b e) : UpToMarks e (settle b e) :=
  settle_plain b e h0 (by rw [h.work]; by_cases x : storeWork b = 0 <;> simp [x]) h.code.symm (by rw [h.permit]; exact id)

theorem evT_jobs (s : State) (k : Nat) (n : Option NoteKey) : (evT s k n).nv = s.nv := by
  unfold evT loseTrigger
  simp only []
  split
  · simp
  · simp only [setInt_nv]
    split
    · unfold placeNote dropCount; split <;> simp
    · rfl
  · split <;> simp
  · rfl

theorem evF_jobs (s : State) (k : Nat) : (evF s k).nv = s.nv := by
  unfold evF; simp only []; split <;> simp

theorem evW_jobs (s : State) (k : Nat) : (evW s k).nv = s.nv := by
  unfold evW; simp only []; split <;> simp

theorem houseEdges_nv (old : BitVec 16) (s : State) : (houseEdges old s).nv = s.nv := by
  unfold houseEdges
  split
  · refine foldS_keeps (fun x : State => x.nv) _ _ _ fun s j => ?_
    simp only []
    split
    · exact evT_jobs _ _ _
    · split
      · exact evF_jobs _ _
      · rfl
  · rfl

theorem flushHouse_jobs (s : State) : (flushHouse s).nv.jobs = s.nv.jobs := by
  unfold flushHouse
  split
  · rfl
  · simp only []; rw [houseEdges_nv]; simp

theorem settlePermit_nv (b s : State) : (settlePermit b s).nv = s.nv := by
  unfold settlePermit withdrawAll
  split
  · exact foldS_keeps (fun x : State => x.nv) _ _ _ fun s p => evW_jobs _ _
  · rfl

/-! ### Flags raised -/

theorem houseEdges_allot (old : BitVec 16) (s : State) : (houseEdges old s).allot = s.allot := by
  have evTa : ∀ (s : State) k n, (evT s k n).allot = s.allot := by
    intro s k n
    unfold evT loseTrigger
    simp only []
    split
    · simp
    · simp only [setInt_allot]
      split
      · unfold placeNote dropCount; split <;> simp
      · rfl
    · split <;> simp
    · rfl
  unfold houseEdges
  split
  · refine foldS_keeps (fun x : State => x.allot) _ _ _ fun s j => ?_
    simp only []
    split
    · exact evTa _ _ _
    · split
      · unfold evF; simp only []; split <;> simp
      · rfl
  · rfl

theorem flushHouse_allot (s : State) : (flushHouse s).allot = s.allot := by
  unfold flushHouse
  split
  · rfl
  · simp only []; rw [houseEdges_allot]; rfl

/-- A command that raises house flags and leaves the modes alone: `x` is what it left, which is `e` but for what stands aside. -/
theorem settle_flagsSet {b e x : State} {f : BitVec 16} (hf : x.hsAcc = f) (h : SameModes b x)
    (hq : x.sqAcc.contains 0x300 = false) (he : Aside false e x) (hs : sqOf x 0x300 = sqOf e 0x300)
    (hj : x.nv.jobs = e.nv.jobs) (ha : (arbFollow x).allot = (arbFollow e).allot) : FlagsSet f e (settle b x) := by
  have h1 : nvDone b x = x := by
    unfold nvDone; rw [h.work]; by_cases e0 : storeWork b = 0 <;> simp [e0]
  have h2 : logMode b x = x := by unfold logMode; simp [h.code]
  have h3 : settlePermit b x = x := by
    unfold settlePermit; rw [h.permit]; cases permitS b <;> simp
  refine ⟨he.trans (settle_aside_permit b x (by rw [h.permit]; exact id)), ?_, ?_, ?_⟩
  · rw [sqOf_settle_house _ _ hq, hs, h1, hf]
  · unfold settle
    rw [h1, h2, h3, ← hj, endCclk_nv, noteHwm_nv, flushHouse_jobs, arbFollow_nv]
  · unfold settle
    rw [h1, h2, h3, ← ha, endCclk_allot, noteHwm_allot, flushHouse_allot]

/-- Whatever flags a command that leaves the modes alone has gathered. -/
theorem settle_closed {b e : State} (hq : e.sqAcc.contains 0x300 = false) (h : SameModes b e) : Closed e (settle b e) := by
  unfold Closed
  split
  · next h0 => exact settle_upToMarks h0 h
  · refine settle_flagsSet rfl h hq ?_ rfl rfl rfl
    constructor <;> first | (intros; rfl) | rfl | exact ⟨[], (List.append_nil _).symm⟩

end Sys2Proof.Machine
end

