-- ==== Sys2Proof/Laws/Store.lean ====
section
/-!
SUPPORT. Laws/Store.lean: the bytes of the non-volatile store: every operation over them keeps the canonical form, and what
a byte reads as after one.
-/
namespace Sys2Proof.Machine

/-! ## The canonical form -/

theorem putBytes_wf (t : Tab Byte) (a : Nat) (b : List Byte) (h : Memory.wf t = true) :
    Memory.wf (putBytes t a b) = true := by
  induction b generalizing t a with
  | nil => exact h
  | cons x r ih => exact ih _ _ (tabSet_wf (fun _ => 0xFF) t a x h)

theorem nvWrite_wf (s : State) (a : Nat) (b : List Byte) (h : Memory.wf s.nv.mem = true) :
    Memory.wf (nvWrite s a b).nv.mem = true := putBytes_wf _ _ _ h

theorem nvEraseSector_wf (s : State) (sec : Nat) (h : Memory.wf s.nv.mem = true) :
    Memory.wf (nvEraseSector s sec).nv.mem = true := filter_wf _ _ _ h

theorem nvSpoil_wf (s : State) (sec : Nat) (h : Memory.wf s.nv.mem = true) :
    Memory.wf (nvSpoil s sec).nv.mem = true := h

theorem nvSpoilWord_wf (s : State) (a : Nat) (h : Memory.wf s.nv.mem = true) :
    Memory.wf (nvSpoilWord s a).nv.mem = true := putBytes_wf _ _ _ h

theorem reset_store_wf : Memory.wf State.reset.nv.mem = true := rfl

/-! ## Reads after an operation -/

theorem tabGet_putBytes (t : Tab Byte) (a x : Nat) (b : List Byte) :
    tabGet (putBytes t a b) 0xFF x = if a ≤ x ∧ x < a + b.length then b.getD (x - a) 0 else tabGet t 0xFF x := by
  induction b generalizing t a with
  | nil => simp [putBytes]
  | cons y r ih =>
    rw [putBytes, ih, tabGet_tabSet]
    by_cases h : x = a
    · subst h; simp
    · by_cases h1 : a ≤ x ∧ x < a + (r.length + 1)
      · obtain ⟨h1, h2⟩ := h1
        have e : x - a = (x - (a + 1)) + 1 := by omega
        rw [if_pos ⟨by omega, by omega⟩, if_pos ⟨h1, by simpa using h2⟩, e, List.getD_cons_succ]
      · have : ¬ (a + 1 ≤ x ∧ x < a + 1 + r.length) := by omega
        rw [if_neg this, if_neg h, if_neg (by simpa using h1)]

/-- A write gives its bytes at its addresses, but in a sector of indeterminate content, and leaves every other byte. -/
theorem nvByte_nvWrite (s : State) (a x : Nat) (b : List Byte) :
    nvByte (nvWrite s a b) x =
      if indetSector s (x / 4096) = false ∧ a ≤ x ∧ x < a + b.length then b.getD (x - a) 0 else nvByte s x := by
  unfold nvByte indetSector nvWrite setMem
  by_cases h : tabGet s.nv.indet 0 (x / 4096) = 0
  · simpa [h] using tabGet_putBytes s.nv.mem a x b
  · simp [h]

theorem tabGet_filter_sector (t : Tab Byte) (sec x : Nat) :
    tabGet (t.filter fun p => p.1 / 4096 ≠ sec) 0xFF x = if x / 4096 = sec then 0xFF else tabGet t 0xFF x := by
  induction t with
  | nil => simp
  | cons p r ih =>
    obtain ⟨k, v⟩ := p
    by_cases h : k / 4096 = sec
    · rw [List.filter_cons_of_neg (by simpa using h), ih, tabGet_cons]
      by_cases e : k = x
      · subst e; simp [h]
      · simp [e]
    · rw [List.filter_cons_of_pos (by simpa using h), tabGet_cons, ih, tabGet_cons]
      by_cases e : k = x
      · subst e; simp [h]
      · simp [e]

/-- An erase returns every byte of its sector to 0xFF, and leaves every other byte. -/
theorem nvByte_nvEraseSector (s : State) (sec x : Nat) :
    nvByte (nvEraseSector s sec) x = if x / 4096 = sec then 0xFF else nvByte s x := by
  unfold nvByte nvEraseSector
  simp only [tabGet_tabSet, tabGet_filter_sector]
  by_cases h : x / 4096 = sec <;> simp [h]

end Sys2Proof.Machine
end

