-- ==== Sys2Proof/WellFormed.lean ====
section
/-!
DEFINITION. WellFormed.lean: the operands a command may carry: numbers that name something the part has, aligned offsets.
-/
namespace Sys2Proof

/-- The number of a wake source (R321): an input, a BREQ pin, or 0. -/
def wakeOk (src : WakeSource) (num : BitVec 7) : Bool :=
  match src with
  | .wired => num.toNat < 96
  | .breq => num.toNat < 8
  | .beacon | .bus | .thermal | .pfail => num = 0

/-- A command whose operands name something the part has. -/
def WellFormed : Instr → Bool
  | .wirqTransition n _ => n.toNat < 96
  | .wirqFilterPass n => n.toNat < 96
  | .fsyncEdgeInWindow d => -128 ≤ d && d ≤ 128
  | .fsyncEdgeOutOfWindow p gap => 128 < p && p < 116511 && 0 < gap
  | .registerWrite off _ _ => off.toNat % 4 = 0 && !Machine.isSq (off.toNat % 0x2000)
  | .sequenceClear off _ _ hw => off.toNat < 0x2000 && Machine.isSq off.toNat && hw &&& ~~~(Machine.sqMask off.toNat) = 0
  | .aliasSetWrite off _ _ => off.toNat % 4 = 0
  | .aliasClrWrite off _ _ => off.toNat % 4 = 0
  | .aliasTglWrite off _ _ => off.toNat % 4 = 0
  | .wPendWrite m _ _ => m ≠ 3
  | .multiwordCapture addr => addr.toNat % 4 = 0
  | .rrd _ _ off _ _ => off.toNat % 4 = 0
  | .rwr _ _ off _ _ _ => off.toNat % 4 = 0
  | .xcfgRefetch i => Machine.isExt i
  | .tlpReceive _ lines | .regroupGrainReceived _ lines | .linkDown _ lines => lines.length = 4
  | .fallowExitStep _ step => step.lines.length = 4
  | .trainingStepExit _ info => info.lines.length = 4
  | .walkCompletion _ _ _ _ _ data => data.words.length ≤ 8 && data.off.toNat % 4 = 0
  | .creditReceive _ vc _ => vc ≠ 2
  | .deviceWake src num => wakeOk src num
  | .frameBoundary | .tbCtlWrite _ _ | .headland | .scanPassComplete | .furrowRefresh _ | .routeSelect _
  | .offerReplayEntry _ | .wiredOfferAssert _ | .recallSend _ | .offerTimeout _ _ | .recallTimeout _ _
  | .dlvHoldWrite _ | .claimed _ _ _ _ | .returned _ _ _ _ | .returnedBelow _ _ _ _ | .eoi _ _ _ | .completedExit _ _
  | .prio _ _ _ _ _ | .stateReport _ _ _ | .signal _ _ _ _ _ | .priv _ _ _ _ | .wtAckRead _ | .wtEoiWrite _ _ _
  | .reclaim _ | .shadowHoldWrite _ | .hlRevert | .twRead | .twReadLive | .twWrite | .twWriteCfg | .pendSet
  | .pendClr | .lostClr | .cfgSnap | .driftRel | .hwmClr | .regionSyncReq | .regionSyncDone | .sowWrite _ _ _ _
  | .sowAdmit _ | .invWrite _ _ _ _ | .invalidationServe | .syncWrite _ _ _ _ | .syncDone _ | .flr _ _ | .freset _
  | .resetForced _ | .tenantQuiesced _ | .ringHeadWrite _ _ _ _ _ | .ringTailWrite _ _ _ _ _ | .walkerTake
  | .walkBlockedRelease _ | .walkReadIssue _ | .cplTimeout _ | .spillSweep _ _ _ | .noteSend _
  | .cmpTimeoutDrop _ | .faultRecordWrite | .eventRecordWrite | .ackReceive _ _ | .nakReceive _ _ | .replayTimeout _
  | .creditRepeat _ | .grainLock _ _ _ _ _ _ | .laneLockLoss _ _ _ | .laneReadmit _ _ | .detectPoll _ _
  | .trainingStepTimeout _ | .trainHoldoffEnd _ | .electricalIdleSeen _ | .regroupStart _
  | .regroupTimeout _ | .retrain _ | .linkPwrEntry _ | .entryMarkAnswer _
  | .entryTimeout _ | .idleExit _ _ | .powerExitFail _ | .budgetLevelAdopt _ | .breqAdopt _ _
  | .allotGrant | .wakeGrantTimeout _ | .trevokeExpiry _ | .pfail | .gaspRecordComplete _ | .gaspRecovery | .npor
  | .nreset | .softwareWarmReset _ _ | .stewardReset _ | .pllLoss | .resetRelease _ _ | .loaderOutcome _
  | .loadTimeout | .watchdogExpiry | .gaspArming | .thermalRound _ _ _ _ | .shutdownTrip | .testEntry _ | .testExit
  | .bistMem _ _ _ | .bistLogic _ _ _ | .nvProgramDone _ | .nvEraseDone _ | .journalCheckpoint | .mbxCmdWrite _ _
  | .mbxReplyPost | .mbxPop | .ping | .getInfo | .imgBegin | .imgWrite | .imgVerify _ | .bootTrial | .commitTrial
  | .switch | .setPolicy | .nvInfo | .logRead _ | .gaspRead _ | .calSave | .wearRead | .logMark | .bundleBegin
  | .bundleWrite | .bundleVerify _ | .bundleApply | .bundleHoldStart _ | .bundleConfirm | .bundleRollback
  | .confirmTimeout | .bundleInfo | .keyPut | .keyDrop | .keyInfo | .auOpen _ _ | .auFeed _ _ | .auClose _ _
  | .auKeyErase _ _ | .engineTurn | .auContextTimeout _ | .nporRise _ | .rootPllLock | .supplyOutOfRange _
  | .equaliserTracking _ _ _ => true

end Sys2Proof
end

