-- ==== Sys2Proof/Tests/Slice0.lean ====
section
/-!
SUPPORT. Tests/Slice0.lean: commands that WellFormed refuses, states that meet the hypotheses of the statements, and a few
steps whose results were worked out by hand from the rules named.
-/
namespace Sys2Proof.Tests
set_option Elab.async false

open Sys2Proof.Machine Sys2Proof.Safety Sys2Proof.Claims

/-- The state after a command. -/
def run (c : Instr) (s : State) : State := match exec c s with
  | .next t => t
  | _ => {}

/-- An operating part with its Steward up and every feature held on. -/
abbrev s0 : State := { pw := { mode := .operating, pllLocked := true }, stew := { fw := .olumon, featEn := 0xFF }, tb := { started := true } }
/-- A link record in ACTIVE, four lanes wide, with 64 grains of credit. -/
abbrev r0 : LinkRec :=
  { st := .active, width := 2, rate := 1, txGroup := 15, rxGroup := 15, rxMask := 15, farMask := 15, detected := 15
    far0 := 0x0F0E0005, far1 := 0x40FFF04004006, far2 := 0x3007
    ll := { p := { init := 64 }, n := { init := 64 }, i := { init := 64 } } }
/-- Link 3 is up; target 5 is enabled on it, target 241 is a wired one, tenant 2 is bound to the link and enabled. -/
abbrev s1 : State :=
  let s := setLink s0 3 r0
  let s := setLive s (tabKey 2 5 0 0) 0x31
  let s := setLive s (tabKey 2 241 0 0) 0x10001
  let s := setLive s (tabKey 6 2 0 0) 0x08
  let s := setLive s (tabKey 4 2 0 0) 0x1
  let s := setLive s (pageKey 2 4) 0x1
  setLive s (regKey 0x200) 1
/-- `s1` in another mode. -/
abbrev inMode (m : Mode) (s : State) : State := { s with pw := { s.pw with mode := m } }
abbrev onLink (r : LinkRec) : State := setLink s1 3 r
abbrev offer5 (n : BitVec 8) : Offer := { target := 5, ticket := n, prio := 9, supersede := false, born := 1 }
/-- INTID 1030 is endpoint-held at target 5 under ticket 7. -/
abbrev sE : State := setInt s1 (8192 + 1030) { st := .offeredE, offer := some (offer5 7) }

/-! ## Ill-formed commands are refused -/

theorem test_wf_wirq : WellFormed (.wirqTransition 96 true) = false ∧ WellFormed (.wirqFilterPass 96) = false := by decide
theorem test_wf_fsync_in : WellFormed (.fsyncEdgeInWindow 129) = false ∧ WellFormed (.fsyncEdgeInWindow (-129)) = false := by decide
theorem test_wf_fsync_out : WellFormed (.fsyncEdgeOutOfWindow 128 1) = false ∧
    WellFormed (.fsyncEdgeOutOfWindow 116511 1) = false ∧ WellFormed (.fsyncEdgeOutOfWindow 129 0) = false := by decide
theorem test_wf_register_write : WellFormed (.registerWrite 0x41 15 0) = false ∧
    WellFormed (.registerWrite 0x300 15 0) = false := by decide
theorem test_wf_sequence_clear : WellFormed (.sequenceClear 0x2300 15 0 0) = false ∧
    WellFormed (.sequenceClear 0x304 15 0 0) = false ∧ WellFormed (.sequenceClear 0x20 15 0 4) = false := by decide
theorem test_wf_aliases : WellFormed (.aliasSetWrite 2 15 0) = false ∧ WellFormed (.aliasClrWrite 2 15 0) = false ∧
    WellFormed (.aliasTglWrite 2 15 0) = false := by decide
theorem test_wf_w_pend : WellFormed (.wPendWrite 3 15 0) = false := by decide
theorem test_wf_capture : WellFormed (.multiwordCapture 3) = false := by decide
theorem test_wf_page : WellFormed (.rrd 0 0 2 0 false) = false ∧ WellFormed (.rwr 0 0 2 15 0 false) = false := by decide
theorem test_wf_completion : WellFormed (.walkCompletion 0 0 0 0 true ⟨3, []⟩) = false ∧
    WellFormed (.walkCompletion 0 0 0 0 true ⟨0, List.replicate 9 0⟩) = false := by decide
theorem test_wf_refetch : WellFormed (.xcfgRefetch 16383) = false ∧ WellFormed (.xcfgRefetch 1064960) = false := by decide
theorem test_wf_lines : WellFormed (.tlpReceive 0 []) = false ∧ WellFormed (.regroupGrainReceived 0 [[], [], []]) = false ∧
    WellFormed (.fallowExitStep 0 ⟨true, []⟩) = false ∧ WellFormed (.linkDown 0 []) = false ∧
    WellFormed (.trainingStepExit 0 ⟨[], 15, 0, false⟩) = false := by decide
theorem test_wf_credit : WellFormed (.creditReceive 0 2 0) = false := by decide
theorem test_wf_wake : WellFormed (.deviceWake .wired 96) = false ∧ WellFormed (.deviceWake .breq 8) = false ∧
    WellFormed (.deviceWake .bus 1) = false := by decide
/-- The table gives no row any bits, so no word spells a command. -/
theorem test_no_words : decodeTableWord 32 0 = none := by decide

/-! ## The block, its invariants, the timebase -/

theorem test_hyp_StepsOfTheBlock : s0.pending = [] ∧ Quiet s0 ∧ s0.pw.mode = .operating ∧
    (tbRuns s0 = true ∧ s0.tb.phase + 1 < s0.tb.len) ∧ tbRuns State.reset = false ∧ cclkRuns State.reset = false := by
  unfold Quiet; decide
theorem test_hyp_CommandsLeaveTheQueue : exec .testExit s0 = .next s0 := by rfl
theorem test_hyp_OnlyAnUndefinedBusStops : BusDefined s0 ∧ isBusCommand .twRead = true ∧
    ¬ BusDefined { s0 with pw := { s0.pw with hbRange := .outside } } := by unfold BusDefined; decide
theorem test_hyp_FrameLengthsStayBounded : FrameInv s0 ∧ ∃ t, step s0 = .next t ∧ t.tb.phase = 1 := by
  refine ⟨⟨?_, ?_, ?_, ?_, ?_⟩, ⟨_, rfl, ?_⟩⟩ <;> decide
theorem test_hyp_HouseFlagsAreSpent : Quiet s0 ∧ ∃ t, step s0 = .next t ∧ t.now = 1 := ⟨by unfold Quiet; decide, _, rfl, by decide⟩
abbrev sMem : State := { s0 with nv := { mem := [(4, 1)] } }
theorem test_hyp_StoreStaysCanonical : StoreWf sMem ∧ ∃ t, step sMem = .next t ∧ t.nv.mem = [(4, 1)] :=
  ⟨by unfold StoreWf; decide, _, rfl, by decide⟩
/-- Frames that end: an accepted edge, FREE, ACQUIRE, LOCKED with LOST_N above 1, FLYWHEEL at the loss; a stopped timebase, a
headland that is due. -/
theorem test_hyp_FrameBoundary : Quiet s1 ∧ tbRuns s1 = true ∧ s1.hl.left = 1 ∧ tbRuns State.reset = false ∧
    lostN s1 = 8 ∧ lostN s1 ≤ (satInc8 7).toNat ∧ ¬ lostN s1 ≤ (satInc8 6).toNat := by unfold Quiet; decide
theorem test_hyp_FsyncEdges :
    fsyncTaken { s1 with tb := { s1.tb with mode := .locked } } ∧ ¬ fsyncTaken s1 ∧
    resyncN s1 = 4 ∧ (38880 ≤ 77631 ∧ 77631 + 128 < s1.tb.len) ∧ 128 < 129 ∧ ¬ (77632 + 128 < s1.tb.len) := by decide

/-! ## INTIDs, the furrow and offers -/

theorem test_hyp_WiredInputs : Quiet s1 ∧ (s1.pw.mode = .operating ∧ (95 : BitVec 7).toNat < 96) ∧
    xor false (wiredPol s1 95) = s1.irq.wFilt.getLsbD 95 ∧ xor true (wiredPol s1 95) ≠ s1.irq.wFilt.getLsbD 95 ∧
    wiredFilt s1 95 = 0 ∧ wiredFilt (setLive s1 (tabKey 8 95 0 1) 3) 95 ≠ 0 ∧
    ({ s1 with irq := { s1.irq with wTran := 1 } }).irq.wTran.getLsbD 0 = true ∧
    ¬ ((96 : BitVec 7).toNat < 96) := by unfold Quiet; decide
theorem test_hyp_PriorityAndBestCandidate : (8 = 0 ∨ 5 ≤ 5) ∧ (0 < 8 ∧ 3 < 5 ∧ 8 * (5 - 3) ≤ 16 ∧ ¬ 8 * (5 - 3) ≤ 15 ∧ 7 < 8) ∧
    bestOf s1 5 = none := by decide
/-- INTID 1030 is Pending, enabled and routed to target 5, and event S is permitted: target 5 has a candidate. -/
abbrev sPend : State :=
  let s := setLive s1 (tabKey 0 1030 0 0) 0x10050009
  setInt (setTgt s 5 { pmr := 0xFF, rpr := 0xFF }) (8192 + 1030) { st := .pending }
theorem test_hyp_FurrowRefresh : Quiet sPend ∧ cclkRuns sPend = true ∧ bankTarget sPend 5 = 5 ∧ permitS sPend = true ∧
    bestOf sPend 5 = some (8192 + 1030) ∧ bestOf sPend 6 = none ∧ cclkRuns State.reset = false := by
  unfold Quiet; decide
abbrev sChosen : State := { sPend with irq := { sPend.irq with choices := [(5, 1030)] } }
theorem test_hyp_RoutingAndTickets : Quiet sChosen ∧ (sChosen.irq.choices.find? fun c => c.1 = (5 : Target)) = some (5, 1030) ∧
    firstChoice sChosen 5 = true ∧
    firstChoice { setLive sChosen (tabKey 2 4 0 0) 0x31 with irq := { sChosen.irq with choices := [(4, 1030), (5, 1030)] } } 5 = false ∧
    choiceHolds { sChosen with irq := { sChosen.irq with choices := [] } } 5 (ikey 5 1030) = true ∧
    choiceHolds s1 5 (ikey 5 1030) = false ∧ (ticketsOf s1 5).length ≤ 2 := by unfold Quiet; decide
/-- INTID 1030 waits in Q-DLV for target 5; INTID 1031 is Offered-P at the wired target 241. -/
abbrev sOffer : State := setInt s1 (8192 + 1030) { st := .offeredP, offer := some (offer5 7) }
abbrev sWired (st : IntState) : State :=
  setInt s1 (8192 + 1031) { st := st, offer := some { offer5 7 with target := 241 } }
theorem test_hyp_OffersBecomeEndpointHeld : Quiet sOffer ∧ qDlv sOffer 3 = [(8192 + 1030, offer5 7)] ∧
    sOffer.pw.mode = .operating ∧ nextClass sOffer 3 = some .offer ∧
    wiredTarget 1 = 241 ∧ tgtBind (sWired .offeredP) 241 = true ∧
    (ticketsOf (sWired .offeredP) 241).find? (fun p => !isE (sWired .offeredP) p.1) = some (8192 + 1031, { offer5 7 with target := 241 }) ∧
    (∀ p ∈ ticketsOf (sWired .offeredE) 241, isE (sWired .offeredE) p.1 = true) := by unfold Quiet; decide
abbrev sHeld (o : Offer) : State := setLive (setInt s1 (8192 + 1030) { st := .offeredE, offer := some o }) (regKey 0x48) 16
theorem test_hyp_Recalls : Quiet sE ∧
    (let o := { offer5 7 with rcl := .flagged }
     flaggedOn (sHeld o) 3 = [(8192 + 1030, o)] ∧ nextClass (sHeld o) 3 = some .recall) ∧
    (let o := { offer5 7 with cnt := 16 }
     ticketE (sHeld o) 5 7 = some (8192 + 1030, o) ∧ tgtBind (sHeld o) 5 = false ∧ 0 < offerTmo (sHeld o) ∧
      offerTmo (sHeld o) ≤ 16 ∧ ∀ p ∈ (sHeld o).irq.ints, p.2.offer = some o ∧ o.rcl ≠ .flagged) ∧
    (let o := { offer5 7 with rcl := .sent, rcnt := 16 }
     ticketE (sHeld o) 5 7 = some (8192 + 1030, o) ∧ offerTmo (sHeld o) ≤ o.rcnt ∧ o.tmoCounted = false) := by
  unfold Quiet; decide

/-! ## What an endpoint says -/

theorem test_hyp_ClaimsAndReturns : Quiet sE ∧ arrives sE 3 ∧ ofLink sE 3 5 ∧ usable 1030 = true ∧
    (intOf sE (ikey 5 1030)).st = .offeredE ∧ (intOf sE (ikey 5 1030)).offer = some (offer5 7) ∧
    ¬ (offer5 7).ticket = 8 ∧ ¬ ofLink sE 3 6 := by unfold Quiet; decide
abbrev sAct (st : IntState) (n : Option NoteKey) : State := setInt s1 (8192 + 1030) { st := st, holder := 5, note := n }
abbrev nkey : NoteKey := { link := 3, tenant := 2, dev := 1, ev := 2 }
theorem test_hyp_EndOfInterrupt : Quiet s1 ∧ arrives s1 3 ∧ ofLink s1 3 5 ∧
    ((intOf (sAct .active none) (ikey 5 1030)).st = .active ∧ (intOf (sAct .active none) (ikey 5 1030)).holder = 5) ∧
    (intOf s1 (ikey 5 1030)).st ≠ .active ∧
    ((intOf (sAct .completed none) (ikey 5 1030)).st = .completed ∧ isLevel (sAct .completed none) 5 1030 = false) ∧
    (let s := { setInt s1 (8192 + 32) { st := .completed } with irq := { (setInt s1 (8192 + 32) { st := .completed }).irq with
       wFilt := 1 } }
     (intOf s (ikey 0 32)).st = .completed ∧ isLevel s 0 32 = true ∧ levelHigh s 0 32 = true) ∧
    ((intOf (sAct .completed (some nkey)) (ikey 5 1030)).note = some nkey ∧ s1.xl.qCmp.length < 512 ∧
      houseKey (ikey 5 1030) = false) := by unfold Quiet; decide
theorem test_hyp_ViewMessages : Quiet s1 ∧ arrives s1 3 ∧ ofLink s1 3 5 ∧ ¬ ofLink s1 3 241 ∧ 2 ≤ (2 : BitVec 2).toNat ∧
    (1 : BitVec 2).toNat < 2 ∧ (∃ p ∈ ticketsOf sE 5, isE sE p.1 = true ∧ p.2.granted = false) := by unfold Quiet; decide
theorem test_hyp_SignalsAndPrivateLevels : Quiet s1 ∧ arrives s1 3 ∧ ofLink s1 3 5 ∧ ¬ ofLink s1 3 6 ∧ (63 : BitVec 8).toNat ≤ 63 ∧
    63 < (64 : BitVec 8).toNat ∧ tgtTenant s1 5 = tgtTenant s1 241 ∧ srcEdge s1 5 16 = false := by unfold Quiet; decide
theorem test_hyp_NoMessageWithoutALink : Quiet s1 ∧ ¬ arrives s1 2 ∧ ¬ arrives (inMode .load s1) 3 := by unfold Quiet; decide

/-! ## The management bus and its registers -/

theorem test_hyp_RefusedCycles : Quiet s1 ∧ BusDefined s1 ∧ busServed s1 = true ∧ s1.pw.mode ≠ .fallow ∧
    refusal s1 true 0x2100 15 = some 1 ∧ refusal s1 true 0x4300 15 = some 2 ∧ refusal s1 true 0x300 7 = some 3 ∧
    refusal s1 true 0x24 15 = some 4 ∧ refusal (inMode .load s1) true 0x100 15 = some 5 ∧
    refusal s1 false 0x4300 15 = some 2 ∧ refusal s1 false 0x2024 15 = some 4 := by unfold Quiet BusDefined; decide
theorem test_hyp_RegisterWrites : Quiet s1 ∧ plainRegister 0x44 = true ∧ plainRegister 0x310 = true ∧
    served s1 true 0x44 15 ∧ served s1 true 0x4044 15 ∧ served s1 true 0x8044 1 ∧ served s1 true 0xC310 15 := by
  unfold served Quiet BusDefined; decide
theorem test_hyp_SequenceClear : Quiet s1 ∧ served s1 true 0x300 15 ∧ isSq 0x300 = true ∧ served s1 true 0x20 15 ∧
    isSq 0x20 = true := by unfold served Quiet BusDefined; decide
theorem test_hyp_Reads : Quiet s1 ∧ served s1 false 0x44 15 ∧ served s1 false 0x2044 15 ∧ isWtAck 0x44 = false ∧
    multiWord 0x44 = none ∧ served s1 false 0x730 15 ∧ multiWord 0x730 = some (0x730, 3) ∧
    multiWord 0x738 = some (0x730, 3) := by unfold served Quiet BusDefined; decide
theorem test_hyp_HoldAndPendingWrites : Quiet sOffer ∧ served sOffer true 0x40 1 ∧ permitS sOffer = true ∧
    (intOf sOffer (8192 + 1030)).st = .offeredP ∧ permitS s0 = false ∧
    (2 : BitVec 2) ≠ 3 ∧ served s1 true 0x1108 15 ∧ served (inMode .safe s1) true 0x1100 1 := by
  unfold served Quiet BusDefined; decide
abbrev sWAct : State := setTgt (setInt s1 (8192 + 1031) { st := .active, holder := 241 }) 241 { record := 1#256 <<< 9, rpr := 9 }
theorem test_hyp_WiredTargets : Quiet s1 ∧ served s1 false 0x1208 15 ∧ served s1 true 0x120C 15 ∧
    tgtBind s1 241 = true ∧ ticketsOf (sWired .offeredE) 241 = [(8192 + 1031, { offer5 7 with target := 241 })] ∧
    (intOf (sWired .offeredE) (8192 + 1031)).st = .offeredE ∧ (∀ p ∈ ticketsOf s1 241, isE s1 p.1 = false) ∧
    BitVec.extractLsb' 0 3 (15 : BE) = 7 ∧ usable 1031 = true ∧ (intOf sWAct (ikey 241 1031)).st = .active ∧
    (intOf sWAct (ikey 241 1031)).holder = 241 ∧ (tgtOf sWAct 241).record ≠ 0 ∧ (intOf s1 (ikey 241 1031)).st ≠ .active := by
  unfold served Quiet BusDefined; decide
theorem test_hyp_TimebaseSource : Quiet s1 ∧ served s1 true 0x100 15 ∧
    bit (imAt s1 0x100) 0 ≠ bit (imAt (fieldsWritten s1 0x100 (beMask 15) 1 1) 0x100) 0 ∧
    bit (imAt (setIm s1 0x100 1) 0x100) 0 ≠ bit (imAt (fieldsWritten (setIm s1 0x100 1) 0x100 (beMask 15) 0 0) 0x100) 0 := by
  unfold served Quiet BusDefined; decide
theorem test_hyp_WindowPulses : Quiet s1 ∧ served s1 true 0x114 1 ∧ served s1 true 0x114 2 ∧ served s1 true 0x80C 1 ∧
    served s1 true 0x200 2 ∧ served s1 true 0xA28 1 := by unfold served Quiet BusDefined; decide
/-- The window selects an entry of a table; its data word 0 holds `d`. -/
abbrev window (sel idx d : Word) (s : State) : State := setIm (setIm (setIm s 0x1000 sel) 0x1004 idx) 0x1008 d
theorem test_hyp_WindowReadsAndErrors : Quiet (window 12 0 0 s1) ∧ served (window 12 0 0 s1) true 0x1028 1 ∧
    11 < twSel (window 12 0 0 s1) ∧ ¬ 11 < twSel (window 11 0 0 s1) ∧
    tabHolds (twSel (window 2 256 0 s1)) (twIndex (window 2 256 0 s1)) = false ∧
    windowErr (window 2 255 0 s1) 1 = 0 ∧ windowErr (window 2 255 0 s1) 2 = 0 ∧ windowErr (window 2 0x1000005 0 s1) 1 = 1 ∧
    tabHasHl (twSel (window 10 5 0 s1)) 5 = false ∧ tabHasPend (twSel (window 10 5 0 s1)) = false ∧
    windowErr (window 1 0xFF00001F 0 s1) 1 = 0 := by unfold served Quiet BusDefined; decide
theorem test_hyp_WindowWrites : Quiet (window 0 1030 0 s1) ∧ served (window 0 1030 0 s1) true 0x1028 1 ∧
    windowErr (window 0 1030 0 s1) 3 = 0 ∧ windowErr (window 0 1030 0 s1) 4 = 0 ∧ tabHasPend (twSel (window 0 1030 0 s1)) = true ∧
    fld (twData (window 0 1030 0 s1) 1) 16 8 = 0 ∧
    ¬ (twSel (window 0 1030 0 s1) = 2 ∧ bit (twData (window 0 1030 0 s1) 0) 17 = true) ∧
    ¬ (twSel (window 0 1030 0 s1) = 4 ∧ bit (twData (window 0 1030 0 s1) 0) 1 = true) ∧
    windowErr (window 9 31 0 s1) 3 = 0 ∧ tabHasPend (twSel (window 9 31 0 s1)) = false := by
  unfold served Quiet BusDefined; decide
theorem test_hyp_WindowPending : Quiet (window 0 1030 0 s1) ∧ served (window 0 1030 0 s1) true 0x1028 1 ∧
    windowErr (window 0 1030 0 s1) 5 = 0 ∧ served (window 0 1030 0 (inMode .safe s1)) true 0x1028 1 := by
  unfold served Quiet BusDefined; decide
theorem test_hyp_Reclaim : (let s := window 2 5 0x20000 sE
    Quiet s ∧ served s true 0x1028 1 ∧ s.pw.mode = .operating ∧ twSel s = 2 ∧ twIndex s = 5 ∧ bit (twData s 0) 17 = true ∧
    twTarget s = 0 ∧ (intOf s (8192 + 1030)).offer.map (·.target) = some 5) ∧
    (intOf (sAct .active none) (8192 + 1030)).holder = 5 ∧ tgtBind s1 241 = true := by
  unfold served Quiet BusDefined; decide

/-! ## Headland, scan, region barrier -/

abbrev sDue : State := { s1 with hl := { s1.hl with left := 0 } }
theorem test_hyp_Headland : Quiet s1 ∧ s1.hl.left ≠ 0 ∧ sDue.hl.left = 0 ∧ hasCommit (inMode .load sDue) = false ∧
    hasCommit sDue = true ∧ sDue.hl.bundleHold = false ∧ bit (imAt (setIm sDue 0x114 1) 0x114) 0 = true ∧
    sDue.tens = [] := by unfold Quiet; decide
theorem test_hyp_Headland_tenants (n : Tenant) : (tenOf sDue n).resetPend = false ∨ (tenOf sDue n).stepDue = false :=
  .inl rfl
abbrev sScan : State := { setIm s1 0x808 3 with hl := { s1.hl with done := some 5, snapPend := true } }
theorem test_hyp_ScanPass : Quiet sScan ∧ s1.hl.done = none ∧ sScan.hl.done = some 5 ∧ sScan.hl.snapPend = true ∧
    (let s := { sScan with hl := { s1.hl with done := some 5 } }
     s.hl.snapPend = false ∧ bit (imAt s 0x808) 0 = true ∧ 5 ≠ imAt s 0x804 ∧ bit (imAt s1 0x808) 0 = false) := by
  unfold Quiet; decide
/-- A walk that reads its device-table entry for tenant 2 under tag 4. -/
abbrev ev2 : SowEvent := { tenant := 2, link := 3, dev := 1, ev := 2 }
abbrev walk4 (stage : WalkStage) (issued : Option Link) : Walk :=
  { tag := 4, gen := 1, kind := .event, e := ev2, start := .dt, stage := stage, addr := 0x5000, stamp := 0, born := 0
    firstChk := some 0, issued := issued }
abbrev withWalk (w : Walk) (s : State) : State := { s with xl := { s.xl with walks := [w], qIn := [ev2] } }
theorem test_hyp_RegionBarrier : Quiet s1 ∧ served s1 true 0x1300 1 ∧
    (let s := { withWalk (walk4 .dt none) s1 with xl := { (withWalk (walk4 .dt none) s1).xl with
        rsDone := false, fltVc := some ⟨3, 0, 5⟩, pend := [{ tenant := 2, xcfg := false, ranges := [], born := 0, region := some 2 }] } }
     s.bun.finishing = false ∧ s.nv.jobs = [] ∧ s.xl.rsDone = false ∧
     (∀ w ∈ s.xl.walks, w.firstChk = some 0 ∧ s.xl.rsMark ≤ 0) ∧ (∀ v, s.xl.fltVc = some v → v.born = 5) ∧
     ∀ p ∈ s.xl.pend, p.region = some 2 ∧ s.xl.rsMark ≤ 2) ∧
    (let s := { withWalk (walk4 .dt none) s1 with xl := { (withWalk (walk4 .dt none) s1).xl with rsMark := 6 } }
     ∃ w ∈ s.xl.walks, w.firstChk = some 0 ∧ 0 < s.xl.rsMark) ∧
    (let s := { s1 with xl := { s1.xl with evtVc := some ⟨3, 0, 5⟩, rsMark := 6 } }
     s.xl.evtVc = some ⟨3, 0, 5⟩ ∧ 5 < s.xl.rsMark) ∧
    (let s := { s1 with xl := { s1.xl with pend := [{ tenant := 2, xcfg := false, ranges := [], born := 0, region := some 5 }], rsMark := 6 } }
     ∃ p ∈ s.xl.pend, p.region = some 5 ∧ 5 < s.xl.rsMark) := by unfold served Quiet BusDefined; decide

/-! ## Sowing, translation and tenants -/

theorem test_hyp_PageAccesses : Quiet s1 ∧ arrives s1 3 ∧ (linkOf (arrive s1 3 0 3) 3).ll.vpWait = [] ∧ bound s1 3 2 = true ∧
    tenEnabled s1 2 = true ∧ s1.xl.qIn.length < 2048 ∧ admitTurn s1 = none ∧ tenEnabled s0 2 = false ∧ bound s1 3 7 = false ∧
    pageExists 2 0x10 = true ∧ (linkOf s1 3).ll.cplQ = [] ∧
    (let q := setLink s1 3 { r0 with ll := { r0.ll with cplQ := [[2, 0, 0]] } }; nextClass q 3 = some .cpl) ∧
    (let q := setLink s1 3 { r0 with ll := { r0.ll with cplQ := [[2, 0, 0]], out := [0] } }; nextClass q 3 ≠ some .cpl) ∧
    (let s := onLink { r0 with ll := { r0.ll with vpWait := [⟨2, 0, 15, 0x10002, false, 3⟩] } }
     (linkOf s 3).ll.vpWait = ⟨2, 0, 15, 0x10002, false, 3⟩ :: [] ∧ admitTurn s = some 3 ∧ (admitTurn s).isSome = true ∧ bound s 3 2 = true) := by
  unfold Quiet; decide
/-- A full Q-IN. -/
theorem test_hyp_PageAccesses_full : 2048 ≤ { s1 with xl := { s1.xl with qIn := List.replicate 2048 ev2 } }.xl.qIn.length :=
  List.length_replicate.ge
theorem test_hyp_Invalidations : Quiet s1 ∧ arrives s1 3 ∧ (linkOf s1 3).ll.vpWait = [] ∧ bound s1 3 2 = true ∧
    (invRequest s1 2 1 2).isSome = true ∧ s1.xl.inv.length < 32 ∧ invRequest s1 2 1 5 = none ∧ invRequest s1 2 2 2 = none ∧
    BitVec.extractLsb' 0 2 (3 : BE) = 3 ∧ BitVec.extractLsb' 0 2 (1 : BE) ≠ 3 ∧
    s1.xl.pend = [] ∧ ({ s1 with xl := { s1.xl with inv := [⟨2, 2, 0, 0, 0, 0⟩] } }).xl.inv = ⟨2, 2, 0, 0, 0, 0⟩ :: [] ∧
    ∀ m : Link, (linkOf s1 m).ll.vpWait = [] := by unfold Quiet; decide
abbrev sReset (due : Bool) : State := setTen s1 2 { resetPend := true, stepDue := due }
theorem test_hyp_TenantResets : Quiet s1 ∧ arrives s1 3 ∧ (linkOf s1 3).ll.vpWait = [] ∧ bound s1 3 2 = true ∧
    (tenOf s1 2).resetPend = false ∧
    (tenOf (sReset false) 2).resetPend = true ∧ (tenOf (sReset false) 2).stepDue = false ∧
    (let s := window 4 2 2 s1
     served s true 0x1028 1 ∧ twSel s = 4 ∧ twIndex s = 2 ∧ bit (twData s 0) 1 = true ∧ twTarget s = 0) ∧
    (let s := setTen s0 2 { quiesced := false }
     tenMe s 2 = false ∧ (tenOf s 2).outstanding = 0 ∧ (tenOf s 2).quiesced = false ∧
     (∀ m : Tenant, m ≠ 2 → ¬ (tenMe s m = false ∧ (tenOf s m).outstanding = 0 ∧ (tenOf s m).quiesced = false) ∧
       (tenMe s m = true → (tenOf s m).quiesced = false)) ∧
     tabWf (fun _ => {}) s.tens = true ∧ ∀ p ∈ s.tens, p.1 < 256) ∧ tenMe s1 2 = true ∧
    (let s := { sReset true with hl := { s1.hl with left := 0 } }
     s.hl.left = 0 ∧ hasCommit s = true ∧ (tenOf s 2).stepDue = true) := by unfold served Quiet BusDefined; decide +kernel
/-- Region 0 covers the page 0 of colour 0 over link 3. -/
abbrev sReg : State :=
  let s := setLive s1 (tabKey 5 0 0 0) 0x31
  setLive s (tabKey 5 0 0 3) 0x7F000
abbrev flt2 : FltRec :=
  { code := 7, tenant := 2, link := 3, nak := false, stage := 1, dev := 1, ev := 2, addr := 0, region := 0, rhit := false, hlseq := 0 }
abbrev evt0 : EvtRec := { kind := 1, tenant := 2, link := 3, hlseq := 0, data := 0 }
abbrev sRing : State :=
  let s := setLive (setLive sReg (pageKey 2 0x20) 0x10009) (pageKey 0 0x80) 0x20009
  let s := setLive s (pageKey 0 4) 1
  { s with xl := { s.xl with qFlt := [flt2], qEvt := [evt0], qCmp := [⟨nkey, 1030, false, 0, none⟩] } }
/-- The fault record stands in the VC-P queue of its link. -/
abbrev inVc (s : State) : State := { s with xl := { s.xl with qCmp := [], fltVc := some ⟨3, 0, 0⟩ } }
theorem test_hyp_RingsAndNotes : Quiet s1 ∧ arrives s1 3 ∧ (linkOf s1 3).ll.vpWait = [] ∧ bound s1 3 2 = true ∧
    BitVec.extractLsb' 0 2 (3 : BE) ≠ 0 ∧
    sRing.pw.mode = .operating ∧ sRing.xl.qFlt = flt2 :: [] ∧ sRing.xl.fltVc = none ∧ tenMe sRing 2 = true ∧
    ringFull sRing 2 false = false ∧ regionCheck sRing 2 (ringSlot sRing 2 false) = .pass 3 0 ∧
    nextClass (inVc sRing) 3 = some .flt ∧ nextClass (setLink (inVc sRing) 3 { r0 with ll := { r0.ll with out := [0] } }) 3 ≠ some .flt ∧
    (linkOf (setLink sRing 3 { r0 with st := .idle }) 3).st ≠ .active ∧
    sRing.xl.qEvt = evt0 :: [] ∧ sRing.xl.evtVc = none ∧ tenMe sRing 0 = true ∧ ringFull sRing 0 true = false ∧
    regionCheck sRing 0 (ringSlot sRing 0 true) = .pass 3 0 ∧ tenMe s0 2 = false ∧
    nextClass { sRing with xl := { sRing.xl with qCmp := [], evtVc := some ⟨3, 0, 0⟩ } } 3 = some .evt ∧
    (sRing.xl.qCmp.find? fun x => x.key.link = (3 : Link)) = some ⟨nkey, 1030, false, 0, none⟩ ∧
    nextClass sRing 3 = some .note ∧ nextClass (inVc sRing) 3 ≠ some .note ∧
    (∀ j, j < 16 → (intOf sRing (8192 + 128 + j)).note = none) := by unfold Quiet; decide
abbrev sWalk : State :=
  let s := setLive s1 (pageKey 2 0x10) 0x101
  { s with xl := { s.xl with qIn := [ev2] } }
abbrev hit2 (i : Intid) : TransEntry := { part := 3, e := ev2, intid := i, notify := false, nak := false, stamp := 0 }
theorem test_hyp_WalkerTakes : Quiet sWalk ∧ sWalk.pw.mode = .operating ∧ sWalk.xl.qIn = ev2 :: [] ∧ sWalk.xl.blocked = [] ∧
    tenEnabled s0 2 = false ∧ tenEnabled sWalk 2 = true ∧ lookupT sWalk ev2 = none ∧ tenMe sWalk 2 = true ∧
    freeTag sWalk = some 0 ∧ bit (pageLive sWalk 2 0x10) 0 = true ∧ fld (pageLive sWalk 2 0x10) 4 5 ≤ 16 ∧
    (1 : BitVec 16).toNat < 2 ^ fld (pageLive sWalk 2 0x10) 4 5 ∧
    lookupT { sWalk with xl := { sWalk.xl with tcache := [hit2 1030] } } ev2 = some (hit2 1030) ∧ isExt 1030 = false ∧
    tenMe (setLive sWalk (pageKey 2 4) 0) 2 = false ∧ poolUsed sWalk < 8192 ∧
    (∃ w ∈ (withWalk (walk4 .dt none) s1).xl.walks, w.kind = .event ∧ w.dead = false ∧ sameKey w.e ev2 = true) ∧
    (let s := { sWalk with xl := { sWalk.xl with blocked := [{ e := ev2, merged := 2 }] } }
     ∃ b ∈ s.xl.blocked, releasable s b = true ∧ sameKey b.e ev2 = true) ∧
    (let s := { sWalk with xl := { sWalk.xl with blocked := [{ e := { ev2 with ev := 9 }, merged := 2 }] } }
     (∃ b ∈ s.xl.blocked, releasable s b = true) ∧ ∀ b ∈ s.xl.blocked, releasable s b = true → sameKey b.e ev2 = false) := by
  unfold Quiet; decide
abbrev sBlk : State := { sWalk with xl := { sWalk.xl with qIn := [], blocked := [{ e := ev2, merged := 2 }] } }
/-- Tenant 2 owns the extended INTIDs from 16384 on; INTID 16390 has an expired copy. -/
abbrev sOwn : State :=
  let s := setLive (setLive sReg (tabKey 4 2 0 1) 0x4000) (tabKey 4 2 0 2) 0x40
  let s := setLive s (pageKey 2 0x18) 0x10001
  setLive s (regKey 0x44) 8
abbrev copy2 (o : Tenant) : XCopy := { word := 2, stamp := 0, owner := o, expired := true }
abbrev sCopy (o : Tenant) : State := setInt sOwn (8192 + 16390) { st := .pending, copy := some (copy2 o) }
theorem test_hyp_WalkerResumes : Quiet sBlk ∧ sBlk.pw.mode = .operating ∧ tenMe sBlk 2 = true ∧ tenEnabled sBlk 2 = true ∧
    (sBlk.xl.blocked.find? fun b => b.e.tenant = (2 : Tenant)) = some { e := ev2, merged := 2 } ∧
    lookupT sBlk ev2 = none ∧ freeTag sBlk = some 0 ∧ sBlk.xl.walks = [] ∧ bit (pageLive sBlk 2 0x10) 0 = true ∧
    (1 : BitVec 16).toNat < 2 ^ fld (pageLive sBlk 2 0x10) 4 5 ∧
    lookupT { sBlk with xl := { sBlk.xl with tcache := [hit2 1030] } } ev2 = some (hit2 1030) := by
  unfold Quiet; decide
theorem test_hyp_WalkerResumes_refetch : Quiet (sCopy 2) ∧ (intOf (sCopy 2) (ikey 0 16390)).copy = some (copy2 2) ∧
    refetchDue (sCopy 2) 16390 (copy2 2) = true ∧ ownerOf (sCopy 2) 16390 = some 2 ∧ lookupX (sCopy 2) 16390 = none ∧
    heldBack (sCopy 2) < 16 ∧ freeTag (sCopy 2) = some 0 ∧
    lookupX { sCopy 2 with xl := { (sCopy 2).xl with xcache := [⟨0, 16390, 2, 0⟩] } } 16390 = some ⟨0, 16390, 2, 0⟩ ∧
    (let s := setLive (sCopy 2) (tabKey 4 2 0 1) 0x8000; ownerOf s 16390 ≠ some 2 ∧ refetchDue s 16390 (copy2 2) = true) := by
  unfold Quiet; decide
/-- Tenant 2 has spilled. -/
abbrev sSpill : State := setTen sOwn 2 { spill := true }
abbrev walkB : Walk :=
  { tag := 0, gen := 1, kind := .sweep, e := { tenant := 2, link := 0, dev := 0, ev := 0 }, start := .block, stage := .block
    addr := 0x10000, stamp := 0, born := 0, issued := some 3 }
theorem test_hyp_WalkerResumes_sweep :
    (Quiet sSpill ∧ sweepNow sSpill = none ∧ sweepTurn sSpill = some 2 ∧ freeTag sSpill = some 0 ∧ 1024 ≤ poolFree sSpill ∧
     heldBack sSpill < 16 ∧ blockCount sSpill 2 ≠ 0 ∧ regionCheck sSpill 2 (spillBase sSpill 2) = .pass 3 0 ∧
     (linkOf sSpill 3).st = .active ∧ (linkOf sSpill 3).ll.vpQ = []) ∧
    (let s := setLive sSpill (tabKey 4 2 0 2) 0; sweepTurn s = some 2 ∧ blockCount s 2 = 0) ∧ sweepTurn sSpill ≠ some 3 ∧
    (let s := { sSpill with xl := { sSpill.xl with walks := [walkB] } }
     sweepNow s = some walkB ∧ walkB.e.tenant = 2 ∧ walkB.block = 0 ∧ sweepAccess walkB ≠ .clear) ∧
    (let s := { sSpill with xl := { sSpill.xl with walks := [walkB], xcache := [⟨0, 16390, 2, 0⟩] } }
     (s.xl.walks.find? fun v => v.tag = (0 : BitVec 6)) = some walkB ∧ sweptIntid s walkB 6 = 16390 ∧ tenEnabled s 2 = true ∧
     inXRange s 2 16390 = true ∧ ownerOf s 16390 = some 2 ∧ lookupX s 16390 = some ⟨0, 16390, 2, 0⟩ ∧ 64 ≤ poolFree s ∧
     (intOf s (ikey 0 16390)).st = .inactive) := by unfold Quiet; decide +kernel
/-- Each way a check ends: no region, a device region, another colour, a link that is down, a pass, outside the space. -/
theorem test_hyp_RegionChecks : regionCheck s1 2 0 = .fail 0x10 none ∧
    regionCheck (setLive sReg (tabKey 5 0 0 0) 0x33) 2 0 = .fail 0x12 (some 0) ∧
    regionCheck (setLive sReg (tabKey 5 0 0 0) 0x131) 2 0 = .fail 0x11 (some 0) ∧
    regionCheck (setLive sReg (tabKey 5 0 0 0) 0x21) 2 0 = .fail 0x13 (some 0) ∧
    regionCheck sReg 2 0x7FFFF = .pass 3 0 ∧ regionCheck sReg 2 0x80000 = .fail 0x10 none ∧
    2 ^ 48 - 1 < 2 ^ 48 ∧ bit (regionW sReg 0 0) 0 = true := by decide
abbrev sRead (stage : WalkStage) (issued : Option Link) : State :=
  withWalk (walk4 stage issued) (setLive (setLive sReg (tabKey 0 1030 0 1) 2) (regKey 0x4C) 8)
theorem test_hyp_WalkReads : Quiet (sRead .dt none) ∧ arrives (sRead .dt none) 3 ∧
    ((sRead .dt none).xl.walks.find? fun v => v.tag = (4 : BitVec 6)) = some (walk4 .dt none) ∧
    tenMe (sRead .dt none) 2 = true ∧ regionCheck (sRead .dt none) 2 0x5000 = .pass 3 0 ∧
    (linkOf (sRead .dt none) 3).st = .active ∧ (linkOf (sRead .dt none) 3).ll.vpQ = [] ∧
    regionCheck (withWalk (walk4 .dt none) s1) 2 0x5000 = .fail 0x10 none ∧
    (let s := setLink (withWalk (walk4 .dt none) (setLink (setLive sReg (tabKey 5 0 0 0) 0x21) 2 { r0 with st := .idle })) 3 r0
     regionCheck s 2 0x5000 = .pass 2 0 ∧ (linkOf s 2).st ≠ .active ∧ arrives s 3) ∧
    (sRead .dt none).xl.qFlt.length < 256 ∧
    (let lo : Word := 1; let hi : Word := 0x40000
     lo.getLsbD 0 = true ∧ fld hi 16 5 ≤ 16 ∧ 2 < 2 ^ fld hi 16 5) ∧
    stampExpired (sRead .et (some 3)) 0 = false ∧
    (let lo : Word := 0x40601
     lo.getLsbD 0 = true ∧ BitVec.ofNat 24 (fld lo 8 24) = (1030 : Intid) ∧ isShared 1030 = true) ∧
    ownerOf (sRead .et (some 3)) 1030 = some 2 ∧ tenEnabled (sRead .et (some 3)) 2 = true ∧
    (intOf (sRead .et (some 3)) (ikey 0 1030)).st = .inactive := by unfold Quiet; decide

/-! ## Links -/

/-- A packet with its CRC. -/
def packet (ty vc g : Nat) (seq : BitVec 12) (fn : BitVec 8) (body : List Word) : List Word :=
  let ws := hdr ty vc g seq fn :: (body ++ List.replicate 16 0).take (2 * g - 2)
  ws ++ [crc32c ws]
/-- CLAIMED for INTID 1030 of target 5 under ticket 7, in sequence, and a link control packet. -/
theorem test_hyp_PacketsReceived : Quiet sE ∧ arrives sE 3 ∧ (linkOf sE 3).ll.hunt = false ∧
    (let ws := packet 0x38 3 3 0 0 [0, 0x05000406, 0x700]
     goodPacket ws ∧ 1 < fld (ws.headD 0) 8 3 + 1 ∧ (ws.headD 0).extractLsb' 11 12 = (linkOf sE 3).ll.rxExp ∧
     wellFormedTlp (ws.headD 0) = true ∧ framable (ws.headD 0) = true ∧ messageOf 3 ws = some (.claimed 3 5 1030 7) ∧
     bit (ws.getD 1 0) 12 = false ∧ bit (ws.getD 1 0) 15 = false ∧ (rxOf (linkOf sE 3).ll 3).held + 3 ≤ rxLimit 3) ∧
    (∀ ty : Nat, ty ∈ [1, 2, 3] → (let ws := packet ty 0 1 9 0 []
     goodPacket ws ∧ fld (ws.headD 0) 8 3 + 1 = 1 ∧ fld (ws.headD 0) 0 6 = ty ∧ framable (ws.headD 0) = true)) ∧
    ([0, 0] : List Word).getLastD 0 ≠ crc32c [0] ∧ ¬ goodPacket [0, 0] ∧
    (let ws := packet 0x38 3 3 1 0 []; goodPacket ws ∧ (ws.headD 0).extractLsb' 11 12 ≠ (linkOf sE 3).ll.rxExp) ∧
    (let ws := packet 0x38 3 2 0 0 []; goodPacket ws ∧ wellFormedTlp (ws.headD 0) = false ∧ framable (ws.headD 0) = false) ∧
    (let ws := packet 0x20 2 7 0 0 []; goodPacket ws ∧ fld (ws.headD 0) 0 6 = 0x20 ∧ fld (ws.headD 0) 6 2 = 2 ∧
      6 < fld (ws.headD 0) 8 3 + 1) ∧
    (let q := { r0 with ll := { r0.ll with rxI := { held := 254 } } }
     ¬ ((rxOf q.ll 3).held + 3 ≤ rxLimit 3)) := by
  unfold Quiet; decide +kernel
/-- A CREDIT packet of VC-P, and a link whose framing holds some grains. -/
abbrev lcp5 : Grain := buildLcp 3 0 5
abbrev sFrame (gs : List Grain) (h : Bool) : State := onLink { r0 with ll := { r0.ll with frame := gs, hunt := h } }
/-- A link of width x1 whose lane 0 has lock and stands after an ACTIVE MARK, and what brings it a data grain. -/
abbrev sLane : State :=
  setLane (onLink { r0 with width := 0, txGroup := 1, rxGroup := 1 }) 3 0
    { lock := true, sync := .on, traffic := true, wide := true, key := keyStart (seed 0 0) }
abbrev linesOf (g : Grain) : Lines := [dataLine {} (keyStart (seed 0 0)) g, [], [], []]
theorem test_hyp_PacketsReceived_framed : arrives (sFrame [lcp5] false) 3 ∧ (linkOf (sFrame [lcp5] false) 3).ll.frame = lcp5 :: [] ∧
    (let w0 : Word := BitVec.extractLsb' 0 32 lcp5; fld w0 8 3 + 1 = 1 ∧ framable w0 = true ∧ goodPacket (wordsOf ([lcp5].take 1))) ∧
    (let w0 : Word := BitVec.extractLsb' 0 32 (0x238#64); [0x238#64].length < fld w0 8 3 + 1 ∧ framable w0 = true) ∧
    (linkOf (sFrame [0] true) 3).ll.hunt = true ∧ framable (BitVec.extractLsb' 0 32 (0#64)) = false := by decide +kernel
theorem test_hyp_PacketsReceived_lines :
    (let u := lineIn sLane 3 (linesOf lcp5)
     Quiet sLane ∧ arrives u 3 ∧ (nextGrain u 3).map (·.2) = some lcp5 ∧ heldGrains u 3 = 1 ∧ (linkOf u 3).ll.frame = [] ∧
     (linkOf u 3).ll.hunt = false ∧ (linkOf u 3).entry = none) ∧
    (let w0 : Word := BitVec.extractLsb' 0 32 lcp5
     fld w0 8 3 = 0 ∧ BitVec.extractLsb' 32 32 lcp5 = crc32c [w0] ∧ fld w0 0 6 = 3) ∧
    BitVec.extractLsb' 32 32 (0#64) ≠ crc32c [BitVec.extractLsb' 0 32 (0#64)] ∧
    nextGrain (lineIn sLane 3 [[], [], [], []]) 3 = none := by unfold Quiet; decide +kernel
abbrev tlp0 (q : BitVec 12) : Tlp := { seq := q, words := [] }
abbrev rRep (n : Nat) : LinkRec := { r0 with ll := { r0.ll with txSeq := 3, replay := [tlp0 1, tlp0 2], noProg := n } }
theorem test_hyp_AckReplayCredit : Quiet (onLink (rRep 3)) ∧ arrives (onLink (rRep 3)) 3 ∧
    (linkOf (onLink (rRep 3)) 3).entry = none ∧ (linkOf (onLink (rRep 3)) 3).ll.cplQ = [] ∧
    (rRep 3).ll.replay = tlp0 1 :: [tlp0 2] ∧
    ((3 : BitVec 12) - 1 - 2).toNat < 2048 ∧ ((3 : BitVec 12) - 1 - 0).toNat < 2048 ∧ 2048 ≤ ((3 : BitVec 12) - 1 - 3).toNat ∧
    ((2 : BitVec 12) - 1).toNat < 2048 ∧ (0 : BitVec 12) + 1 = (tlp0 1).seq ∧
    (rRep 3).ll.replay.filter (fun x => !decide (((2 : BitVec 12) - x.seq).toNat < 2048)) = [] ∧
    ¬ ((4095 : BitVec 12) + 1 = (tlp0 1).seq ∨ decide (((4095 : BitVec 12) - (tlp0 1).seq).toNat < 2048) = true) ∧
    ((3 : BitVec 12) - 1 - 4095).toNat < 2048 ∧
    (rRep 3).ll.replay ≠ [] ∧ (rRep 2).ll.noProg < 3 ∧ 3 ≤ (rRep 3).ll.noProg ∧ r0.ll.replay = [] ∧
    (let u := onLink { r0 with ll := { r0.ll with crDue := 0xB } }; nextClass u 3 = some .lcp ∧ r0.ll.ackDue = false) ∧
    (let u := onLink { r0 with ll := { r0.ll with crDue := 0xB, out := [0] } }
     nextClass u 3 ≠ some .nak ∧ nextClass u 3 ≠ some .replay ∧ nextClass u 3 ≠ some .lcp) := by unfold Quiet; decide
abbrev onLane (a : LaneRec) (s : State) : State := setLane s 3 1 a
theorem test_hyp_LineCodeAndLanes : Quiet s1 ∧ s1.pw.mode = .operating ∧ (laneOf s1 3 1).lock = false ∧ (linkOf s1 3).st = .active ∧
    (24 : Nat) ≤ 24 ∧ ([true] : List Bool).length ≤ [false].length ∧ (⟨true, 24⟩ : Run).n ≠ 0 ∧
    (let a : LaneRec := { buf := true :: grainBits (polarity true (mark 2 0xFF)) }
     a.lock = false ∧ a.buf = true :: (grainBits (polarity true (mark 2 0xFF)) ++ [])) ∧
    (let a : LaneRec := { sync := .on, errAt := [255, 0, 0, 0, 0, 0, 0, 0], gno := 255 }
     8 ≤ a.errAt.length ∧ a.gno < a.errAt.getD 7 0 + 256) ∧
    (let a : LaneRec := { sync := .on, errAt := [256, 0, 0, 0, 0, 0, 0, 0], gno := 256, bad := 1 }
     a.errAt.getD 7 0 + 256 ≤ a.gno ∧ a.bad < 2) ∧
    (let s := onLane { sync := .found, since := 15, field := 1 } (onLink { r0 with st := .align })
     (linkOf s 3).st = .align ∧ (linkOf s 3).detected.getLsbD 1 = true ∧ (laneOf s 3 1).lock = false ∧ (laneOf s 3 1).sync = .found ∧
     (laneOf s 3 1).since = 15 ∧ (laneOf s 3 1).wide = false ∧ (laneOf s 3 1).odd = false ∧ (laneOf s 3 1).buf = [] ∧
     guardBit (laneOf s 3 1).run true ++ [] ++ grainBits (mark 1 1) =
       (guardBit (laneOf s 3 1).run true ++ grainBits (mark (laneOf s 3 1).field ((laneOf s 3 1).seq + 1))).map (xor (laneOf s 3 1).inv) ∧
     ∀ m, m < 4 → m ≠ 1 → (laneOf s 3 m).buf.length < 34) ∧
    (let s := onLane { lock := true, lfield := 1, good := 64 } s1
     (laneOf s 3 1).lock = true ∧ 64 ≤ (laneOf s 3 1).good ∧ (linkOf s 3).detected.getLsbD 1 = true ∧
     (laneOf s 3 1).lfield.toNat = 1 ∧ (linkOf s 3).reversed = false) ∧
    (laneOf (onLane { lock := true, good := 63 } s1) 3 1).good < 64 ∧
    (let s := { setLive (onLane { peakNow := 15, lock := true, track := true } s1) (tabKey 9 13 0 0) 0x602 with
        stew := { s1.stew with lmcPair := some 1 } }
     bit (tabLive s 9 13 0 0) 1 = true ∧ feat s 6 = true ∧ s.stew.lmcPair.isSome = true ∧ (laneOf s 3 1).lock = true ∧
     (laneOf s 3 1).track = true ∧ (laneOf s 3 1).fixed = false ∧ (laneOf s 3 1).peakNow = 15) ∧
    bit (tabLive s1 9 13 0 0) 1 = false := by unfold Quiet; decide +kernel
abbrev quietLines : Lines := [[], [], [], []]
abbrev info0 : TrainInfo := { lines := quietLines, good := 15, peaks := 0x4321, late := false }
abbrev sTrain (r : LinkRec) : State := setLive (onLink r) (regKey 0xCC0) 0x321
/-- A link in a step whose handshake is done with all four lanes; in CAPS with the far end's capabilities held. -/
abbrev rStep (st : LinkState) : LinkRec :=
  { r0 with st := st, agreedRate := 2, agreedWidth := 2
            hs := { got := true, farReady := true, farGo := true, ready := true, go := true, sentReady := true, sentGo := true
                    frozen := 15, capHeld := true, cap0 := 0x0F0E0005, cap1 := 0x40FFF04004006, cap2 := 7 } }
/-- What the lines bring and the handshake leave of a link. -/
abbrev shaken (s : State) : LinkRec := linkOf (shake (lineIn s 3 quietLines) 3 false) 3
theorem test_hyp_Training : Quiet (sTrain { r0 with st := .down, holdoff := true }) ∧
    linkEn (sTrain r0) 3 = true ∧ stewardRuns (sTrain r0) = true ∧
    linkEn s1 3 = false ∧ stewardRuns { s1 with stew := {} } = false ∧
    (linkOf (sTrain (rStep .clock)) 3).detected &&& ~~~info0.good = 0 ∧
    (linkOf (sTrain (rStep .clock)) 3).detected &&& ~~~(7#4) ≠ 0 ∧
    (∀ st ∈ [LinkState.align, .order, .alignAtRate],
      (shaken (sTrain (rStep st))).st = st ∧ (shaken (sTrain (rStep st))).hs.sentGo = true ∧
      (shaken (sTrain { rStep st with hs := {} })).hs.sentGo = false) ∧
    (shaken (sTrain (rStep .caps))).hs.go = true ∧ (shaken (sTrain (rStep .caps))).hs.farGo = true ∧
    (shaken (sTrain { rStep .caps with hs := {} })).hs.go = false ∧
    (let r := rStep .clockAtRate
     r.exitStep = 0 ∧ toLogical r.reversed r.rxMask &&& ~~~info0.good = 0 ∧ toLogical r.reversed r.rxMask &&& ~~~(7#4) ≠ 0) ∧
    (let q := shaken (sTrain (rStep .alignAtRate))
     q.exitStep = 0 ∧ q.rgRate = none ∧ widthIn q.agreedWidth.toNat q.hs.frozen q.farMask = some 2 ∧ creditsOk q.far1 = true ∧
     groupIn 2 q.hs.frozen &&& ~~~q.rxMask = 0) ∧
    creditsOk (shaken (sTrain { rStep .alignAtRate with far1 := 0 })).far1 = false ∧
    widthIn 2 (shaken (sTrain { rStep .alignAtRate with farMask := 0 })).hs.frozen 0 = none ∧
    (let r := { r0 with st := .detect, lastPoll := 15 }; (15 : BitVec 4) ≠ 0 ∧ 15 = r.lastPoll ∧ r.detected ≠ 0) ∧
    (let r := { r0 with st := .alignAtRate, rgRate := some 2, exitStep := 0 }; r.rgRate = some 2) := by unfold Quiet; decide +kernel
theorem test_hyp_Training_handshakes :
    (let r := { rStep .align with hs := { got := true, farReady := true, sentReady := true } }
     inTp2 r = true ∧ r.hs.ready = false ∧ r.hs.go = false) ∧
    (let s := sTrain { rStep .caps with hs := { (rStep .caps).hs with go := false } }
     let r := linkOf s 3
     r.st = .caps ∧ r.hs.capHeld = true ∧ r.hs.farReady = true ∧ r.hs.go = false ∧
     (let far := { r with far0 := r.hs.cap0 }
      2 ≤ rateLimit s 3 far ∧ r.hs.cap0.getLsbD 19 = true ∧
      (∀ d, 2 < d → d ≤ 3 → d ≤ rateLimit s 3 far → r.hs.cap0.getLsbD (17 + d) = false) ∧ 2 ≤ capWidth s 3 far ∧
      hasGroup 2 r.rxMask = true ∧ hasGroup 2 r.farMask = true)) := by
  refine ⟨by decide, by decide, by decide, by decide, by decide, by decide, by decide, ?_, by decide, by decide, by decide⟩
  intro d h1 h2 h3
  obtain rfl : d = 3 := by omega
  exact absurd h3 (by decide)
theorem test_hyp_Regroups : Quiet s1 ∧
    (let r := { r0 with rxMask := 3 }; r.st = .active ∧ r.rxGroup &&& ~~~r.rxMask ≠ 0) ∧ r0.rxGroup &&& ~~~r0.rxMask = 0 ∧
    (let g : Grain := 0x30A; g.extractLsb' 16 48 = 0 ∧ g.extractLsb' 0 4 = 10) ∧
    (let g : Grain := 0x30C; g.extractLsb' 16 48 = 0 ∧ g.extractLsb' 0 4 = 12) ∧ (0x10000#64).extractLsb' 16 48 ≠ 0 ∧
    (let s := sTrain { rStep .regroup with rgCap := 2 }
     let q := shaken s
     linkEn s 3 = true ∧ q.st = .regroup ∧ q.hs.sentGo = true ∧ q.rgRate = none ∧
     widthIn q.rgCap.toNat q.hs.frozen q.farMask = some 2 ∧ groupIn 2 q.hs.frozen &&& ~~~q.rxMask = 0) ∧
    (let q := shaken (sTrain { rStep .regroup with farMask := 0 }); widthIn q.rgCap.toNat q.hs.frozen q.farMask = none) ∧
    (shaken (sTrain { rStep .regroup with rgRate := some 2 })).rgRate = some 2 ∧
    linkIsDown r0 = false ∧ widthIn 2 r0.rxMask 0 = none ∧ chosenRate (sTrain r0) 3 { r0 with rateCap := 0 } = none ∧ linkEn s1 3 = false ∧
    (let u := lineIn s1 3 [[], [], [], []]
     (linkOf u 3).st = .active ∧ (widthIn 2 (linkOf u 3).rxMask (linkOf u 3).farMask).isSome = true) ∧
    (let u := lineIn (onLink { r0 with farMask := 0 }) 3 [[], [], [], []]
     (linkOf u 3).st = .active ∧ widthIn 2 (linkOf u 3).rxMask (linkOf u 3).farMask = none) ∧ served s1 true 0xCC0 4 := by unfold served Quiet BusDefined; decide +kernel
abbrev sPow (r : LinkRec) : State := setLive (onLink { r with far2 := 0x3007 }) (regKey 0xCC4) 3
/-- The entry MARK has been sent on lane 0. -/
abbrev sEntry (deep : Bool) : State := setLane (sPow { r0 with entry := some deep }) 3 0 { tx := { tail := some 1 } }
theorem test_hyp_PowerStatesOfLinks : Quiet (sPow r0) ∧
    ((linkOf (sPow r0) 3).st = .active ∧ (linkOf (sPow r0) 3).entry = none ∧ bit (regLive (sPow r0) 0xCC4) 0 = true ∧
     (linkOf (sPow r0) 3).far2.getLsbD 12 = true ∧ (linkOf (sPow r0) 3).far2.getLsbD 13 = true ∧
     (linkOf (sPow r0) 3).ll.replay = [] ∧ (linkOf (sPow r0) 3).ll.ackDue = false ∧ (linkOf (sPow r0) 3).ll.crDue = 0 ∧
     qDlv (sPow r0) 3 = [] ∧ flaggedOn (sPow r0) 3 = [] ∧ (sPow r0).xl.walks = []) ∧
    (∀ deep : Bool, entrySent (sEntry deep) 3 = true ∧ (linkOf (sEntry deep) 3).entry = some deep) ∧
    (sEntry false).pw.mode = .operating ∧ (linkOf (sEntry false) 3).st = .active ∧
    entrySent (sPow { r0 with entry := some true }) 3 = false ∧
    hasGrant s1 (exitClient 3) = false ∧
    hasGrant { s1 with allot := { grants := [⟨exitClient 3, 0, 0, false, 0, none, false, false⟩] } } (exitClient 3) = true ∧
    (let q := shaken (sTrain { rStep .alignAtRate with exitStep := 4 })
     q.hs.sentGo = true ∧ widthIn q.width.toNat q.hs.frozen q.farMask = some 2 ∧ groupIn 2 q.hs.frozen &&& ~~~q.rxMask = 0) ∧
    (shaken (sTrain { rStep .alignAtRate with exitStep := 4, hs := {} })).hs.sentGo = false ∧
    (let q := shaken (sTrain { rStep .alignAtRate with exitStep := 4, farMask := 0 })
     q.hs.sentGo = true ∧ widthIn q.width.toNat q.hs.frozen q.farMask = none) := by unfold Quiet; decide +kernel

/-! ## Allotments, resets, emergencies -/

/-- Level 0 carries 80 allotments, level 1 carries 16; the reserve of the saffron tier is 0. -/
abbrev sArb (gs : List Grant) (rs : List Req) : State :=
  let s := setLive (setLive s1 (regKey 0x420) 80) (regKey 0x424) 16
  { s with allot := { grants := gs, reqs := rs, serial := 9 } }
theorem test_hyp_ArbiterEvents : Quiet (sArb [] []) ∧ (sArb [] []).pw.mode = .operating ∧ (sArb [] []).nv.jobs = [] ∧
    (sArb [] []).allot.breq.getLsbD 2 = false ∧ (sArb [] []).allot.barred.getLsbD 2 = false ∧
    hasReq (sArb [] []) 269 = false ∧ hasGrant (sArb [] []) 269 = false ∧
    nextGrant (exitRequests (sArb [] [])) = none ∧
    (let s := sArb [] [{ client := 269, prio := 9, order := 1 }]
     (nextGrant (exitRequests s)).isSome = true ∧ (nextGrant s).isSome = true) ∧
    (let s := sArb [⟨269, 4, 9, false, 1, none, true, true⟩] []
     let t := { s with allot := { s.allot with breq := 4 } }
     t.allot.breq.getLsbD 2 = true ∧ (∃ g ∈ t.allot.grants, g.client = 269 ∧ g.revoking = true) ∧
     (s.allot.grants.map (·.client)).Nodup) ∧
    ({ s1 with allot := { barred := 4 } }).allot.barred.getLsbD 2 = true ∧
    (∃ g ∈ (sArb [⟨5, 4, 9, false, 1, none, true, false⟩] []).allot.grants, g.client = 5 ∧ g.started = true) := by
  unfold Quiet; decide
theorem test_hyp_ResetsReleaseAndTest : Quiet s1 ∧ s1.pw.mode ∉ [Mode.shutdown, .test, .lastGasp] ∧
    served s1 true 0x208 3 ∧ served (inMode .load s1) true 0x208 3 ∧ s1.pw.stwDown = false ∧ s1.pw.pllLocked = true ∧
    s0.pw.pllLocked = true ∧ allCool s1 = true ∧
    allCool { s1 with pw := { s1.pw with t0 := 1300, t1 := 1300, t2 := 1300, t3 := 1300 } } = false ∧
    State.reset.pw.mode = .reset ∧ State.reset.pw.nporHigh = false ∧ State.reset.pw.pllLocked = false ∧
    (8 : BitVec 5) ∈ [(0 : BitVec 5), 4, 5, 6, 8, 9] ∧ (2 : BitVec 5) ∉ [(0 : BitVec 5), 4, 5, 6, 8, 9] := by
  unfold served Quiet BusDefined; decide
abbrev sGasp (d : Option (BitVec 4)) : State :=
  { inMode .lastGasp s1 with
    pw := { s1.pw with mode := .lastGasp, gaspWriting := true, deferred := d }
    nv := { gasp := some ⟨24576, [1, 2]⟩ } }
theorem test_hyp_LastGaspAndShutdown : Quiet s1 ∧ s1.pw.mode ∈ [Mode.load, .safe, .operating, .fallow] ∧
    (let s := { s1 with nv := { armed := true } }
     s.stew.fw = .olumon ∧ s.pw.stwDown = false ∧ s.nv.armed = true) ∧
    ((sGasp none).nv.gasp = some ⟨24576, [1, 2]⟩ ∧ (sGasp none).nv.op = none ∧ (sGasp none).pw.mode = .lastGasp ∧
     (sGasp none).pw.deferred = none ∧ indetSector (sGasp none) ((24576 + 1) / 4096) = false) ∧
    (sGasp (some 2)).pw.deferred = some 2 ∧
    (let s := setInt { s1 with nv := { s1.nv with wantArm := true, mem := [(24577, 0)] } } 9000 {}
     s.nv.wantArm = true ∧ stewardRuns s = true ∧ s.nv.op = none ∧ slotErased s (armedSlot s) = true ∧ armedSlot s % 16 ≠ 0) := by
  unfold Quiet; decide +kernel
theorem test_hyp_TemperatureAndWakes : Quiet s1 ∧ s1.pw.mode ≠ .reset ∧ s1.pw.mode ≠ .test ∧
    (inMode .fallow s1).pw.mode = .fallow ∧ wMasked (setIm (inMode .fallow s1) 0x1110 0xFFFFFFFE) 32 = true ∧
    wMasked (setIm (inMode .fallow s1) 0x1118 0xFFFFFFFE) (BitVec.ofNat 24 (32 + 32)) = false ∧
    srcEdge (setLive s1 (tabKey 8 32 0 0) 0x20000000) 0 64 = true ∧ (7 : BitVec 7).toNat < 8 := by unfold Quiet; decide

/-! ## The loader, the store, the mailbox, the engine -/

abbrev sLoad : State := { inMode .load s1 with pw := { s1.pw with mode := .load, straps := 6 }, stew := {} }
theorem test_hyp_LoaderRuns : Quiet s1 ∧ s1.nv.jobs = [] ∧ s1.stew.fw = .olumon ∧ s1.pw.stwDown = false ∧
    bankOrder s1 (readPolicy s1) false = [false, true] ∧ bankOrder sLoad (readPolicy sLoad) false = [] ∧
    (checkFirmware s1 noEcc (readPolicy s1) false false).1 ≠ 0 ∧ (checkFirmware s1 noEcc (readPolicy s1) false false).1 ≠ 9 ∧
    (loaderDecide sLoad noEcc (readPolicy sLoad) false).bank = none := by unfold Quiet; decide
abbrev sProg : State :=
  { s1 with nv := { op := some (.program 200000 [1, 2, 3]), jobs := [⟨false, [.append .log 1 2 3 4]⟩] } }
abbrev sErase : State := { s1 with nv := { op := some (.erase 200), jobs := [⟨false, [.erase 200 true]⟩], mem := [(819200, 1)] } }
theorem test_hyp_StoreOperations : Quiet s1 ∧ s1.nv.op = none ∧ wordErased sProg 200000 = true ∧
    indetSector sProg (200000 / 4096) = false ∧ sProg.nv.orphan = false ∧
    wordErased { sProg with nv := { sProg.nv with mem := [(200031, 7)] } } 200000 = false ∧
    headItems sErase = .erase 200 true :: [] ∧ s1.nv.ckpt = false ∧ s1.nv.journal.sector ≤ 1 ∧ s1.nv.journal.word ≤ 120 ∧
    (let s := { s1 with nv := { journal := { word := 121 } } }; 120 < s.nv.journal.word ∧ areaDead s 1 = false) := by
  unfold Quiet; decide
/-- A command that stands at the head of the mailbox queue. -/
abbrev cmd (op : BitVec 8) (a0 a1 : Word) : MbxCmd := { op := op, tag := 9, a0 := a0, a1 := a1 }
abbrev sCmd (op : BitVec 8) (a0 a1 : Word) : State := { s1 with mbx := { q := [cmd op a0 a1], bufBusy := decide (op = 0x11) } }
/-- Every command of the tables can stand at the head of its queue. -/
theorem test_hyp_atHead : ∀ p ∈ mailboxRows, atHead (sCmd p.1 1 0) p.1 (cmd p.1 1 0) [] := by unfold atHead; decide
theorem test_hyp_MailboxQueueAndAnswers : Quiet s1 ∧ served s1 true 0x900 15 ∧ served s1 true 0x904 1 ∧ qMbx s1 < 16 ∧
    stewardRuns s1 = true ∧ s1.nv.jobs = [] ∧ romOps.contains (0x77 : BitVec 8) = false ∧
    olumonOps.contains (0x77 : BitVec 8) = false ∧ olumonOps.contains (0x41 : BitVec 8) = true ∧
    romOps.contains (0x01 : BitVec 8) = true ∧ ¬ 255 < (cmd 0x44 255 0).a0.toNat ∧
    (let s := { s1 with au := { ctxs := [(0, { owner := some .host }), (1, { owner := some .host }), (2, { owner := some .host }),
         (3, { owner := some .loader })] } }
     ∀ k, k < 4 → (ctxOf s k).owner.isSome = true ∧ (ctxOf s k).owner ≠ some .steward) := by
  unfold served Quiet BusDefined; decide
theorem test_hyp_ImageAndStoreCommands : Quiet s1 ∧
    imgInUse (sCmd 0x10 0x101 0) 1 true = false ∧
    (let s := { sCmd 0x11 0 0 with stew := { s1.stew with imgKind := 1, imgBank := true } }
     imgInUse s 1 true = false ∧ imgInUse s 1 false = true ∧ areaDead s 68 = false) ∧
    bit s1.stew.loadStat 6 = false ∧
    (BitVec.extractLsb' 4 4 (0x20 : Word)).getLsbD s1.stew.keyId.toNat = false ∧
    (BitVec.extractLsb' 4 4 (0x10 : Word)).getLsbD s1.stew.keyId.toNat = true := by
  unfold Quiet; decide
theorem test_hyp_BundleAndKeyCommands : Quiet s1 ∧ feat s1 4 = true ∧
    feat s1 7 = true ∧ s1.bun.apply = false ∧ s1.bun.unconf = false ∧ (128 ≤ 128 ∧ 130816 ≤ 130816) ∧
    feat { s1 with stew := { s1.stew with featEn := 0x7F } } 7 = false ∧ s1.bun.stage = none ∧
    (let s := { sCmd 0x34 0 0 with bun := { unconf := true, confirm := 5, tSeq := 0 }, hl := { s1.hl with seq := 4 } }
     s.bun.unconf = true ∧ (s.hl.seq - s.bun.tSeq).toNat < s.bun.confirm.toNat) ∧
    (let a : Word := 0x00400110; a.extractLsb' 4 2 = 1#2 ∧ a.extractLsb' 8 3 = 1#3 ∧ fld a 16 7 = 64) ∧
    s1.au.sealed = false := by unfold Quiet; decide
/-- A bundle without records, made by hand from Table AU-5 and signed with the P-256 key of RFC 6979, A.2.5, stands in slot 0, where it
has been applied as bundle 9; bundle 10 has been applied after it. -/
def octets (n : Nat) : List Byte := (upTo 32).map fun i => BitVec.ofNat 8 (n / 256 ^ i)
def rfcKey : List Byte := octets 0x60FED4BA255A9D31C961EB74C6356D68C049B8923B61FA6CE669622E60F29FB6 ++
  octets 0x7903FE1008B8BC99A41AE9E95628BC64F2F1B20C2D7E9F5177A3C294D4462299
def bunHead : List Byte :=
  leBytes 0x4C444E42 ++ leBytes 0x00040001 ++ leBytes 9 ++ List.replicate 20 0 ++
  (octets 0xe3b0c44298fc1c149afbf4c8996fb92427ae41e4649b934ca495991b7852b855).reverse ++
  octets 0x5ecbe4d1a6330a44c8f7ef951d4bf165e6c6b721efada985fb41661bc6e7fd6c ++
  octets 0xd35647e5fc76c0c61db0c0baef0f56c391a527ce0118358675c6128abe59dc8e
def sBun (mem : Tab Byte) : State :=
  { s1 with
    au := { s1.au with slots := [(4, { key := some { kind := 2, use := 4, bytes := rfcKey } })] }
    nv := { s1.nv with mem := putBytes mem 0x80100 bunHead }
    bun := { stage := some 0, declared := 128, floor := 8 } }
def bunBoth : Tab Byte :=
  putBytes (putBytes (putBytes (putBytes (putBytes [] 0x80000 (statusBytes 0 9 0)) 0x80020 (statusBytes 1 9 4))
    0xA0108 (leBytes 10)) 0xA0000 (statusBytes 0 10 9)) 0xA0020 (statusBytes 1 10 30)
theorem test_hyp_BundleAndKeyCommands_staged :
    (let s := sBun (putBytes [] 0x80000 (statusBytes 0 9 0))
     stagedSlot s s.bun.stage = some 0 ∧ hasStatus s 0 0 = true ∧ hasStatus s 0 1 = false) ∧
    (17 ≤ ((17 : Word) - 0).toNat ∧ ((0x7FFFFFFF : Word) - 0).toNat < 2 ^ 31) ∧ 2 ^ 31 ≤ ((0x80000000 : Word) - 0).toNat := by
  decide +kernel
abbrev ctx0 (st : CtxState) (todo : List (List Byte)) : Ctx := { owner := some .host, st := st, todo := todo, hash := shaInit }
abbrev sCtx (c : Ctx) (g : List Grant) : State := { s1 with au := { ctxs := [(0, c)] }, allot := { grants := g } }
theorem test_hyp_EngineAndBundleEvents : Quiet s1 ∧ served s1 true 0x700 15 ∧ served s1 true 0x708 15 ∧
    served s1 true 0x70C 15 ∧ served s1 true 0x720 15 ∧ freeCtx s1 = some 0 ∧ heldBy s1 .host < 3 ∧
    (slotOf s1 4).key = none ∧ (ctxOf (sCtx (ctx0 .ready []) []) 0).st = .ready ∧
    (ctxOf (sCtx (ctx0 .ready []) []) 0).owner = some .host ∧
    (let g : Grant := ⟨cAUTH, 0, 0, false, 0, none, true, false⟩
     let s := sCtx (ctx0 .run [List.replicate 64 0]) [g]
     (s.allot.grants.find? fun g => g.client = cAUTH) = some g ∧ g.revoking = false ∧ nextCtx s = some 0) ∧
    (let s := { s1 with bun := { apply := true, n := 20 }, hl := { s1.hl with seq := 4 } }
     s.bun.apply = true ∧ s.bun.holding = false ∧ s.bun.finishing = false ∧ (s.hl.seq - (s.bun.n - 16)).toNat < 2 ^ 31) ∧
    (let s := { s1 with bun := { unconf := true, confirm := 4 }, hl := { s1.hl with seq := 4 } }
     s.bun.noAuto = false ∧ s.bun.confirm.toNat ≤ (s.hl.seq - s.bun.tSeq).toNat ∧ previousSlot s = none) := by
  unfold served Quiet BusDefined; decide

/-! ## Single steps, with results worked out from the rules named -/

/-- R22: a claim makes the INTID Active, held by the target; R44: VIEW_RPR takes its priority. -/
theorem test_claimed : (intOf (run (.claimed 3 5 1030 7) sE) (8192 + 1030)).st = .active ∧
    (tgtOf (run (.claimed 3 5 1030 7) sE) 5).rpr = 9 := by decide +kernel
/-- R71: a ticket that is not current makes the message stray. -/
theorem test_claimed_stray : (intOf (run (.claimed 3 5 1030 8) sE) (8192 + 1030)).st = .offeredE ∧
    cntOf (run (.claimed 3 5 1030 8) sE) cntSTRAY = 1 := by decide +kernel
/-- R44: a return gives the INTID back to Pending. -/
theorem test_returned : (intOf (run (.returned 3 5 1030 7) sE) (8192 + 1030)).st = .pending := by decide +kernel
/-- R22: an EOI makes it Completed. -/
theorem test_eoi : (intOf (run (.eoi 3 5 1030) (sAct .active none)) (8192 + 1030)).st = .completed := by decide +kernel
/-- R116: a write of an HL-class register changes its shadow, not its live value. -/
theorem test_register_write : shadowAt (run (.registerWrite 0x44 1 5) s1) 0x44 = 5 ∧
    regLive (run (.registerWrite 0x44 1 5) s1) 0x44 = 8 := by decide +kernel
/-- R134: TGL inverts the bits written 1. -/
theorem test_toggle : shadowAt (run (.aliasTglWrite 0x44 1 3) s1) 0x44 = 11 := by decide +kernel
/-- R133: a stale sequence number clears nothing, a fresh one does. -/
theorem test_sequence_clear :
    let s := setSq s1 0x20 { flags := 1, seq := 4 }
    (sqOf (run (.sequenceClear 0x20 15 0x03000001 0) s) 0x20).flags = 1 ∧
    (sqOf (run (.sequenceClear 0x20 15 0x04000001 0) s) 0x20).flags = 0 := by decide +kernel
/-- Table MB-2: a write to the live view is refused with code 1. -/
theorem test_live_write_refused : (run (.registerWrite 0x2044 15 0) s1).bus.errCode = 1 := by decide +kernel
/-- R109, Table HL-1: a LOCKED frame without an edge goes to FLYWHEEL with MISS 1. -/
theorem test_flywheel : (run .frameBoundary { s1 with tb := { s1.tb with mode := .locked } }).tb.mode = .flywheel ∧
    (run .frameBoundary { s1 with tb := { s1.tb with mode := .locked } }).tb.miss = 1 := by decide +kernel
/-- R108: an edge 5 CCLK late slews the next frame by 2. -/
theorem test_slew : (run (.fsyncEdgeInWindow 5) { s1 with tb := { s1.tb with mode := .locked } }).tb.nextLen = 77762 := by
  decide +kernel
/-- R69: tickets run from 1 to 255 and skip 0. -/
theorem test_ticket_wraps : nextTicket (setTgt s1 5 { lastTicket := 255 }) 5 = 1 := by decide
/-- R46: 20 headlands of age at RIPEN_HL = 8 lift priority 9 by 2; a ceiling of 8 stops it. -/
theorem test_ripening : effFormula 8 9 0 20 = 7 ∧ effFormula 8 9 8 20 = 8 := by decide
/-- R224, R225: a MARK passes the receiver's own checks. -/
theorem test_mark : markValid (mark 2 0x5A) = true ∧ markLane (mark 2 0x5A) = 2 ∧ markSeq (mark 2 0x5A) = 0x5A := by
  decide +kernel
/-- R222: after 24 bits alike a stuff bit of the other value goes first. -/
theorem test_stuff : stuff ⟨true, 24⟩ [true] = [false, true] := by decide
/-- Case LN-1 (Table LN-4): the 59 scrambled bits, which follow a line bit of value 1, and their 61 line bits. -/
abbrev ln1 : List Bool := List.replicate 3 false ++ List.replicate 30 true ++ List.replicate 24 false ++ [true, true]
abbrev ln1Line (b27 : Bool) : List Bool :=
  List.replicate 3 false ++ List.replicate 24 true ++ [b27] ++ List.replicate 6 true ++ List.replicate 24 false ++ [true, true, true]
theorem test_case_LN_1 : stuff ⟨true, 1⟩ ln1 = ln1Line false ∧
    (destuff true 59 ⟨true, 1⟩ [] 0 (ln1Line false)).map (fun t => (t.bits, t.errs, t.run)) = some (ln1, 0, ⟨true, 3⟩) := by decide +kernel
/-- Case LN-1: had line bit 27 arrived as 1, it would still be removed, and a lane error counted. -/
theorem test_case_LN_1_error : (destuff true 28 ⟨true, 1⟩ [] 0 (ln1Line true)).map (fun t => decide (t.errs = 0)) = some false := by
  decide +kernel
/-- R218, R226: an IDLE begins with zeros, so a one goes before it where the last line bit is 0. -/
theorem test_guard : (specialLine ⟨false, 1⟩ idleGrain).length = 65 ∧ (specialLine ⟨true, 1⟩ idleGrain).length = 64 := by decide +kernel
/-- Case LB-1: lane 1 loses lock, RXMASK is 0b1101, and a regroup with the width x4 as its cap starts. -/
theorem test_case_LB_1 :
    let s := run (.regroupStart 3) (run (.laneLockLoss 3 1 .cdrLoss) (onLane { lock := true, lfield := 1 } s1))
    (linkOf s 3).rxMask = 0b1101 ∧ (linkOf s 3).st = .regroup ∧ (linkOf s 3).rgCap = 2 := by decide +kernel
/-- FIPS 180-4, appendix B.1: the first octets of the digest of "abc". -/
theorem test_sha256 : (sha256 [0x61, 0x62, 0x63]).take 4 = [0xBA, 0x78, 0x16, 0xBF] := by decide +kernel
/-- R486: a part with a supply out of range drives nothing. -/
theorem test_supply : woutPin (run (.supplyOutOfRange true) s1) 0 = none := by decide +kernel
/-- R165: a scope above 4 is no invalidation. -/
theorem test_bad_invalidation : cntOf (run (.invWrite 3 2 1 5) s1) cntINVBAD = 1 := by decide +kernel
/-- R363: PING answers the firmware version and the epoch. -/
theorem test_ping : (run .ping { sCmd 1 0 0 with stew := { s1.stew with fwVer := 77 } }).mbx.done.map (·.d0) = some 77 := by
  decide +kernel
/-- R366: a program of an erased word is what the word then reads. -/
theorem test_program : nvByte (run (.nvProgramDone true) sProg) 200001 = 2 := by decide +kernel

/-- All checks of Table AU-8 pass, the signature among them; a rollback may go to it. -/
theorem test_hyp_BundleAndKeyCommands_checks : (sBun bunBoth).bun.stage = some 0 ∧ (sBun bunBoth).bun.apply = false ∧
    previousSlot (sBun bunBoth) = some 0 ∧ (freeRestored (sBun bunBoth) 0).isSome = true ∧
    bundleCheck (sBun bunBoth) noEcc 0 (some (sBun bunBoth).bun.declared) (some (sBun bunBoth).bun.floor.toNat) = 0 := by
  decide +kernel

end Sys2Proof.Tests
end

section
/-!
PROOFS. Chapter 03: effective priority with ripening (R46), and the order of the candidates of a target (R51, R52).
-/
namespace Sys2Proof.Machine

open Sys2Proof.Claims

/-! ## Effective priority -/

theorem effFormula_of_no_ripening {ripen base ceil : Nat} (h : ripen = 0 ∨ base ≤ ceil) (age : Nat) :
    effFormula ripen base ceil age = base := by
  simp [effFormula, h]

theorem effFormula_of_ripening {ripen base ceil : Nat} (hr : 0 < ripen) (hc : ceil < base) (age : Nat) :
    effFormula ripen base ceil age = max ceil (base - age / ripen) := by
  simp [effFormula, hr.ne', hc]

/-- One more period of RIPEN_HL headlands lifts the priority by one, down to the ceiling. -/
theorem effFormula_add_ripen {ripen base ceil : Nat} (hr : 0 < ripen) (hc : ceil < base) (age : Nat) :
    effFormula ripen base ceil (age + ripen) = max ceil (effFormula ripen base ceil age - 1) := by
  have hq : (age + ripen) / ripen = age / ripen + 1 := Nat.add_div_right age hr
  rw [effFormula_of_ripening hr hc, effFormula_of_ripening hr hc, hq]
  omega

/-- The ceiling is reached once the age covers the whole distance to it. -/
theorem effFormula_eq_ceil {ripen base ceil age : Nat} (hr : 0 < ripen) (hc : ceil < base)
    (ha : ripen * (base - ceil) ≤ age) : effFormula ripen base ceil age = ceil := by
  have hq : base - ceil ≤ age / ripen := (Nat.le_div_iff_mul_le hr).2 (Nat.mul_comm ripen _ ▸ ha)
  rw [effFormula_of_ripening hr hc]
  omega

/-- Within its first RIPEN_HL headlands an INTID keeps its base priority. -/
theorem effFormula_eq_base {ripen base ceil age : Nat} (hc : ceil < base) (ha : age < ripen) :
    effFormula ripen base ceil age = base := by
  have hq : age / ripen = 0 := Nat.div_eq_of_lt ha
  rw [effFormula_of_ripening (Nat.zero_lt_of_lt ha) hc, hq]
  omega

theorem effectivePriority : EffectivePriority := by
  intro ripen base ceil age
  refine ⟨fun h => effFormula_of_no_ripening h age, fun hr hc => ⟨?_, ?_, effFormula_eq_ceil hr hc,
    effFormula_eq_base hc, effFormula_add_ripen hr hc age⟩⟩
  · rw [effFormula_of_ripening hr hc]
    exact le_max_left _ _
  · rw [effFormula_of_ripening hr hc]
    exact max_le hc.le (Nat.sub_le _ _)

/-! ## The order of R52 -/

theorem before_iff (a b : Nat × Nat × Nat) :
    before a b = true ↔ a.1 < b.1 ∨ a.1 = b.1 ∧ (b.2.1 < a.2.1 ∨ a.2.1 = b.2.1 ∧ a.2.2 < b.2.2) := by
  simp [before]

@[simp] theorem before_self (a : Nat × Nat × Nat) : before a a = false := by
  simp [before]

/-- What does not come before `b` does not come before anything that goes ahead of `b` either. -/
theorem not_before_of_before {a b c : Nat × Nat × Nat} (hab : before a b = false) (hcb : before c b = true) :
    before a c = false := by
  rw [← Bool.not_eq_true, before_iff] at hab ⊢
  rw [before_iff] at hcb
  omega

/-! ## The best candidate of a list of keys -/

/-- One step of the scan of `bestOf`: the key `k` beside the best one so far. -/
def bestStep (s : State) (t : Target) (acc : Option Nat) (k : Nat) : Option Nat :=
  if candidate s k t then
    match acc with
    | none => some k
    | some b => if before (rankKey s k) (rankKey s b) then some k else some b
  else acc

theorem bestOf_eq_foldl (s : State) (t : Target) :
    bestOf s t = (s.irq.ints.map Prod.fst).foldl (bestStep s t) none := by
  rw [List.foldl_map]
  rfl

/-- `b` is the best candidate among the keys `ks`, or `none` where no key of them is a candidate. -/
def IsBest (s : State) (t : Target) (ks : List Nat) : Option Nat → Prop
  | none => ∀ j ∈ ks, candidate s j t = false
  | some k => candidate s k t = true ∧
      ∀ j ∈ ks, candidate s j t = true → before (rankKey s j) (rankKey s k) = false

variable {s : State} {t : Target} {ks : List Nat} {k b : Nat} {acc : Option Nat}

theorem IsBest.append_of_not_candidate (h : IsBest s t ks acc) (hk : candidate s k t = false) :
    IsBest s t (ks ++ [k]) acc := by
  cases acc with
  | none => simpa [IsBest, hk, or_imp, forall_and] using h
  | some b => simpa [IsBest, hk, or_imp, forall_and] using h

theorem IsBest.append_first (h : IsBest s t ks none) (hk : candidate s k t = true) :
    IsBest s t (ks ++ [k]) (some k) := by
  refine ⟨hk, fun j hj hcj => ?_⟩
  rcases List.mem_append.1 hj with hj | hj
  · simp [h j hj] at hcj
  · rw [List.mem_singleton.1 hj, before_self]

theorem IsBest.append_better (h : IsBest s t ks (some b)) (hk : candidate s k t = true)
    (hkb : before (rankKey s k) (rankKey s b) = true) : IsBest s t (ks ++ [k]) (some k) := by
  obtain ⟨-, hb⟩ := h
  refine ⟨hk, fun j hj hcj => ?_⟩
  rcases List.mem_append.1 hj with hj | hj
  · exact not_before_of_before (hb j hj hcj) hkb
  · rw [List.mem_singleton.1 hj, before_self]

theorem IsBest.append_not_better (h : IsBest s t ks (some b))
    (hkb : before (rankKey s k) (rankKey s b) = false) : IsBest s t (ks ++ [k]) (some b) := by
  obtain ⟨hcb, hb⟩ := h
  refine ⟨hcb, fun j hj hcj => ?_⟩
  rcases List.mem_append.1 hj with hj | hj
  · exact hb j hj hcj
  · rw [List.mem_singleton.1 hj, hkb]

/-- A step of the scan keeps the best candidate of the keys seen. -/
theorem IsBest.append_bestStep (h : IsBest s t ks acc) (k : Nat) : IsBest s t (ks ++ [k]) (bestStep s t acc k) := by
  unfold bestStep
  split
  next hk =>
    cases acc with
    | none => exact h.append_first hk
    | some b =>
      dsimp only
      split
      next hkb => exact h.append_better hk hkb
      next hkb => exact h.append_not_better (Bool.not_eq_true _ ▸ hkb)
  next hk => exact h.append_of_not_candidate (Bool.not_eq_true _ ▸ hk)

theorem isBest_foldl_bestStep (s : State) (t : Target) (ks : List Nat) :
    IsBest s t ks (ks.foldl (bestStep s t) none) := by
  induction ks using List.reverseRecOn with
  | nil => simp [IsBest]
  | append_singleton ks k ih =>
    rw [List.foldl_append]
    exact ih.append_bestStep k

/-! ## The scan sees every candidate -/

theorem tabGet_of_not_mem {α : Type} {tab : Tab α} {k : Nat} (d : α) (h : k ∉ tab.map Prod.fst) :
    tabGet tab d k = d := by
  induction tab with
  | nil => rfl
  | cons p r ih =>
    obtain ⟨hp, hr⟩ := not_or.1 (List.mem_cons.not.1 h)
    rw [tabGet_cons, if_neg (Ne.symm hp), ih hr]

theorem pending_of_candidate (h : candidate s k t = true) : (intOf s k).st = .pending := by
  simp only [candidate, Bool.and_eq_true, decide_eq_true_eq] at h
  obtain ⟨⟨⟨⟨hst, -⟩, -⟩, -⟩, -⟩ := h
  exact hst

/-- A candidate is Pending, and an INTID that is not listed is Inactive: every candidate is listed. -/
theorem mem_ints_of_candidate (h : candidate s k t = true) : k ∈ s.irq.ints.map Prod.fst := by
  by_contra hk
  have hidle : intOf s k = {} := tabGet_of_not_mem ({} : IntRec) hk
  have hst := pending_of_candidate h
  simp [hidle] at hst

theorem isBest_bestOf (s : State) (t : Target) : IsBest s t (s.irq.ints.map Prod.fst) (bestOf s t) := by
  rw [bestOf_eq_foldl]
  exact isBest_foldl_bestStep s t _

theorem bestCandidate : BestCandidate := by
  intro s t
  have hbest := isBest_bestOf s t
  refine ⟨fun k hk => ?_, fun hnone j => ?_⟩
  · rw [hk] at hbest
    obtain ⟨hcand, hfirst⟩ := hbest
    exact ⟨hcand, fun j hj => hfirst j (mem_ints_of_candidate hj) hj⟩
  · rw [hnone] at hbest
    by_contra hj
    rw [Bool.not_eq_false] at hj
    exact absurd (hbest j (mem_ints_of_candidate hj)) (by simp [hj])

/-- Settles O15: the formula of R46 by its two branches, and the scan of `bestOf` by induction over the listed INTIDs, with
the best candidate of the INTIDs seen so far as the invariant. -/
theorem priorityAndBestCandidate : Obligations.PriorityAndBestCandidate :=
  ⟨effectivePriority, bestCandidate⟩

end Sys2Proof.Machine
end

section
/-!
PROOFS. Chapter 04: the answers of an endpoint, CLAIMED, RETURNED and RETURNED-BELOW (R68, R71), and what the arrival of a
message on VC-I leaves alone (R278).
-/
namespace Sys2Proof.Machine

open Sys2Proof.Safety Sys2Proof.Claims

variable {s b e : State} {l : Link} {t : Target} {i : Intid} {tk : BitVec 8} {k : Nat} {o : Offer}

/-! ## Changes that leave the modes and the gathered house flags alone -/

/-- `e` gathers the house flags that `b` gathered, in the modes of `b`. -/
structure Unflagged (b e : State) : Prop extends SameModes b e where
  hsAcc : e.hsAcc = b.hsAcc

theorem unflagged_refl (s : State) : Unflagged s s := ⟨⟨rfl, rfl, rfl, rfl, rfl, rfl⟩, rfl⟩

theorem unflagged_bump (h : Unflagged b e) (off : Nat) : Unflagged b (bump e off) :=
  ⟨⟨h.pw, h.live, h.im, h.lean, h.jobs, h.orphan⟩, h.hsAcc⟩

theorem unflagged_setInt (h : Unflagged b e) (k : Nat) (r : IntRec) : Unflagged b (setInt e k r) :=
  ⟨⟨h.pw, h.live, h.im, h.lean, h.jobs, h.orphan⟩, h.hsAcc⟩

theorem unflagged_setTgt (h : Unflagged b e) (t : Target) (r : TgtRec) : Unflagged b (setTgt e t r) :=
  ⟨⟨h.pw, h.live, h.im, h.lean, h.jobs, h.orphan⟩, h.hsAcc⟩

/-- Event N changes the record of its INTID, and counts a discard; or it does nothing. -/
theorem evN_cases (s : State) (k : Nat) :
    evN s k = s ∨ ∃ r, evN s k = setInt s k r ∨ evN s k = bump (setInt s k r) cntDISCARD := by
  unfold evN
  dsimp only
  split
  · split
    · exact .inr ⟨_, .inr rfl⟩
    · split
      · exact .inr ⟨_, .inl rfl⟩
      · exact .inr ⟨_, .inl rfl⟩
  · exact .inl rfl

theorem unflagged_evN (h : Unflagged b e) (k : Nat) : Unflagged b (evN e k) := by
  obtain hn | ⟨r, hn | hn⟩ := evN_cases e k
  · rwa [hn]
  · rw [hn]; exact unflagged_setInt h k r
  · rw [hn]; exact unflagged_bump (unflagged_setInt h k r) cntDISCARD

/-- A command whose effect raises no flag and changes no mode ends in that effect, up to the high-water marks. -/
theorem exists_next_upToMarks {c : Instr} (hq : Quiet s) (hx : exec c s = .next (settle s e)) (h : Unflagged s e) :
    ∃ u, exec c s = .next u ∧ UpToMarks e u := by
  obtain ⟨hacc, -⟩ := hq
  exact ⟨_, hx, settle_upToMarks (h.hsAcc.trans hacc) h.toSameModes⟩

/-! ## A message on VC-I enters and leaves the receive buffer (R278) -/

theorem arrive_eq_links (s : State) (l : Link) (vc g : Nat) :
    arrive s l vc g = { s with links := (arrive s l vc g).links } := by
  unfold arrive
  dsimp only
  split <;> rfl

/-- Only the links change while a message is taken. -/
theorem taken_eq_links (s : State) (l : Link) (g : Nat) : taken s l g = { s with links := (taken s l g).links } := by
  unfold taken freeRx setLink
  rw [arrive_eq_links]

theorem intOf_taken (s : State) (l : Link) (g k : Nat) : intOf (taken s l g) k = intOf s k := by
  rw [taken_eq_links]; rfl

theorem tgtOf_taken (s : State) (l : Link) (g : Nat) (t : Target) : tgtOf (taken s l g) t = tgtOf s t := by
  rw [taken_eq_links]; rfl

theorem servedBy_taken (s : State) (l l' : Link) (g : Nat) (t : Target) :
    servedBy (taken s l g) l' t = servedBy s l' t := by
  rw [taken_eq_links]; rfl

theorem answers_taken (s : State) (l : Link) (g : Nat) (t : Target) (i : Intid) (tk : BitVec 8) :
    answers (taken s l g) t i tk = answers s t i tk := by
  rw [taken_eq_links]; rfl

theorem unflagged_taken (s : State) (l : Link) (g : Nat) : Unflagged s (taken s l g) := by
  rw [taken_eq_links]
  exact ⟨⟨rfl, rfl, rfl, rfl, rfl, rfl⟩, rfl⟩

theorem linkActive_arrive (h : arrives s l) (vc g : Nat) : linkActive (arrive s l vc g) l = true := by
  obtain ⟨hmode, hst⟩ := h
  simp [arrive, operating, linkActive, hmode, hst]

/-- A message that can arrive takes effect once its grains have left the receive buffer. -/
theorem viMsg_arrive (h : arrives s l) (g : Nat) (f : State → State) :
    viMsg (arrive s l 3 g) l g f = f (taken s l g) := by
  have hop : operating (arrive s l 3 g) = true := by
    rw [arrive_eq_links]
    exact decide_eq_true h.1
  unfold viMsg
  rw [hop, linkActive_arrive h, Bool.and_self, if_pos rfl]

/-! ## Which answers count (R68, R71) -/

theorem servedBy_iff : servedBy s l t = true ↔ ofLink s l t := by
  simp [servedBy]

theorem answers_eq_some_iff : answers s t i tk = some o ↔
    usable i = true ∧ (intOf s (ikey t i)).st = .offeredE ∧ (intOf s (ikey t i)).offer = some o ∧
      o.target = t ∧ o.ticket = tk := by
  unfold answers
  dsimp only
  split
  next o' hst hoff =>
    rw [hst, hoff]
    simp only [Option.ite_none_right_eq_some, Option.some.injEq, Bool.and_eq_true, decide_eq_true_eq, true_and]
    constructor
    · rintro ⟨⟨⟨hu, ht⟩, htk⟩, rfl⟩
      exact ⟨hu, rfl, ht, htk⟩
    · rintro ⟨hu, rfl, ht, htk⟩
      exact ⟨⟨⟨hu, ht⟩, htk⟩, rfl⟩
  next hne =>
    simp only [reduceCtorEq, false_iff]
    rintro ⟨-, hst, hoff, -⟩
    exact hne o hst hoff

/-- What an answer does: `f` for the offer it names, else it is stray (R33). -/
def applyAnswer (s : State) (l : Link) (t : Target) (i : Intid) (tk : BitVec 8) (f : Offer → State → State) : State :=
  if servedBy s l t then
    match answers s t i tk with
    | some o => f o s
    | none => bump s cntSTRAY
  else bump s cntSTRAY

theorem applyAnswer_taken_of_answers (hl : ofLink s l t) (ha : answers s t i tk = some o) (g : Nat)
    (f : Offer → State → State) : applyAnswer (taken s l g) l t i tk f = f o (taken s l g) := by
  unfold applyAnswer
  rw [servedBy_taken, answers_taken, servedBy_iff.2 hl, if_pos rfl, ha]

theorem applyAnswer_taken_of_stray (h : ofLink s l t → answers s t i tk = none) (g : Nat) (f : Offer → State → State) :
    applyAnswer (taken s l g) l t i tk f = bump (taken s l g) cntSTRAY := by
  unfold applyAnswer
  rw [servedBy_taken, answers_taken]
  split
  next hs => rw [h (servedBy_iff.1 hs)]
  next => rfl

/-! ## The three answers -/

/-- Event C, with VIEW_RPR at the lesser of itself and the priority of the offer (R44). -/
def takeClaim (t : Target) (k : Nat) (o : Offer) (s : State) : State :=
  let c := evC s k t
  setTgt c t { tgtOf c t with rpr := if o.prio.toNat < (tgtOf c t).rpr.toNat then o.prio else (tgtOf c t).rpr }

theorem exec_claimed (h : arrives s l) : exec (.claimed l t i tk) s =
    .next (settle s (applyAnswer (taken s l 3) l t i tk (takeClaim t (ikey t i)))) :=
  congrArg (fun e => Host.Outcome.next (settle s e)) (viMsg_arrive h 3 _)

theorem exec_returned (h : arrives s l) : exec (.returned l t i tk) s =
    .next (settle s (applyAnswer (taken s l 3) l t i tk fun _ b => evN b (ikey t i))) :=
  congrArg (fun e => Host.Outcome.next (settle s e)) (viMsg_arrive h 3 _)

theorem exec_returnedBelow (h : arrives s l) : exec (.returnedBelow l t i tk) s =
    .next (settle s (applyAnswer (taken s l 3) l t i tk fun _ b => bump (evN b (ikey t i)) cntRETBELOW)) :=
  congrArg (fun e => Host.Outcome.next (settle s e)) (viMsg_arrive h 3 _)

theorem evC_of_offeredE (h : (intOf s k).st = .offeredE) (t : Target) : evC s k t =
    setInt s k { intOf s k with st := .active, offer := none, holder := t, discard := false } := by
  simp only [evC, h]

/-- A claim of an endpoint-held offer, written out over the state in which the message came. -/
theorem takeClaim_taken (h : (intOf s k).st = .offeredE) (l : Link) (g : Nat) (t : Target) (o : Offer) :
    takeClaim t k o (taken s l g) =
      setTgt (setInt (taken s l g) k { intOf s k with st := .active, offer := none, holder := t, discard := false }) t
        { tgtOf s t with rpr := if o.prio.toNat < (tgtOf s t).rpr.toNat then o.prio else (tgtOf s t).rpr } := by
  unfold takeClaim
  dsimp only
  rw [evC_of_offeredE (by rw [intOf_taken, h]), tgtOf_setInt, tgtOf_taken, intOf_taken]

/-- Settles O17: `applyAnswer` says once which answers count; each of the three messages is that with its own effect. -/
theorem claimsAndReturns : Obligations.ClaimsAndReturns := by
  intro s l t i tk hq harr
  have htaken := unflagged_taken s l 3
  refine ⟨fun o hl hu hst hoff ht htk => ?_, fun hstray => ?_⟩
  · have hans : answers s t i tk = some o := answers_eq_some_iff.2 ⟨hu, hst, hoff, ht, htk⟩
    refine ⟨exists_next_upToMarks hq ?_ (unflagged_setTgt (unflagged_setInt htaken _ _) t _),
      exists_next_upToMarks hq ?_ (unflagged_evN htaken _),
      exists_next_upToMarks hq ?_ (unflagged_bump (unflagged_evN htaken _) cntRETBELOW)⟩
    · rw [exec_claimed harr, applyAnswer_taken_of_answers hl hans, takeClaim_taken hst]
    · rw [exec_returned harr, applyAnswer_taken_of_answers hl hans]
    · rw [exec_returnedBelow harr, applyAnswer_taken_of_answers hl hans]
  · have hnone : ofLink s l t → answers s t i tk = none := fun hl => by
      refine Option.eq_none_iff_forall_ne_some.2 fun o ho => hstray ?_
      obtain ⟨hu, hst, hoff, ht, htk⟩ := answers_eq_some_iff.1 ho
      exact ⟨hl, hu, hst, o, hoff, ht, htk⟩
    have hcounted := unflagged_bump htaken cntSTRAY
    refine ⟨exists_next_upToMarks hq ?_ hcounted, exists_next_upToMarks hq ?_ hcounted,
      exists_next_upToMarks hq ?_ hcounted⟩
    · rw [exec_claimed harr, applyAnswer_taken_of_stray hnone]
    · rw [exec_returned harr, applyAnswer_taken_of_stray hnone]
    · rw [exec_returnedBelow harr, applyAnswer_taken_of_stray hnone]

end Sys2Proof.Machine
end

section
/-!
PROOFS. Chapter 06: a write of a sequence-clear register (R132, R133), and the house sources that follow the clears of
HS_STAT (Table IS-2).
-/
namespace Sys2Proof.Machine

open Sys2Proof.Safety Sys2Proof.Claims

variable {s : State} {addr off : Nat} {be : BE} {data : Word} {hw : BitVec 24}

/-! ## The register (R132, R133) -/

theorem sqRaise_of_ne_zero (r : SqReg) {f : BitVec 24} (h : f ≠ 0) :
    sqRaise r f = { flags := r.flags ||| f, seq := r.seq + 1 } := if_neg h

/-- The two outcomes of R133 and the write that is ignored, with SEQ's advance written out. -/
theorem sqClear_eq (r : SqReg) (data : Word) (hw : BitVec 24) : sqClear r data hw =
    if hw ≠ 0 then { flags := r.flags ||| hw, seq := r.seq + 1 }
    else if data.extractLsb' 24 8 = r.seq then { r with flags := r.flags &&& ~~~(data.extractLsb' 0 24) }
    else r := by
  unfold sqClear
  split
  next h => exact sqRaise_of_ne_zero r h
  next => rfl

/-- Without a set from hardware no flag comes on. -/
theorem sqClear_flags_of_no_set {r : SqReg} {j : Nat} (h : (sqClear r data 0).flags.getLsbD j = true) :
    r.flags.getLsbD j = true := by
  rw [sqClear_eq, if_neg (not_not.2 rfl)] at h
  split at h
  · rw [BitVec.getLsbD_and, Bool.and_eq_true] at h
    exact h.1
  · exact h

/-- HS_STAT has its flags in [15:0]: as house flags they are the same. -/
theorem setWidth_house_sqMask (hw : BitVec 24) :
    ((hw &&& sqMask 0x300).setWidth 16).setWidth 24 = hw &&& sqMask 0x300 := by
  have hmask : (hw &&& sqMask 0x300).toNat = hw.toNat % 2 ^ 16 := Nat.and_two_pow_sub_one_eq_mod hw.toNat 16
  apply BitVec.eq_of_toNat_eq
  rw [BitVec.toNat_setWidth, BitVec.toNat_setWidth, hmask]
  omega

/-! ## House sources whose levels only fall (Table IS-2) -/

theorem evF_eq_irq (s : State) (k : Nat) : evF s k = { s with irq := (evF s k).irq } := by
  unfold evF
  dsimp only
  split <;> rfl

/-- No level rises from `old`: every source takes event F or nothing, and only INTIDs change. -/
theorem houseEdges_eq_irq {old : BitVec 16}
    (hfall : ∀ j, (houseLevels s).getLsbD j = true → old.getLsbD j = true) :
    ∃ q, houseEdges old s = { s with irq := q } := by
  unfold houseEdges
  split
  · refine foldS_inv (fun x => ∃ q, x = { s with irq := q }) _ _ s ⟨s.irq, rfl⟩ ?_
    rintro _ j ⟨q, rfl⟩
    have hlevels : houseLevels { s with irq := q } = houseLevels s := rfl
    dsimp only
    rw [hlevels]
    split
    next hrise =>
      rw [Bool.and_eq_true, Bool.not_eq_true'] at hrise
      obtain ⟨hup, hold⟩ := hrise
      exact absurd (hfall j hup) (Bool.eq_false_iff.1 hold)
    next =>
      split
      · exact ⟨_, evF_eq_irq _ _⟩
      · exact ⟨q, rfl⟩
  · exact ⟨s.irq, rfl⟩

/-- A clear of HS_STAT raises no level. -/
theorem houseLevels_setSq_sqClear {j : Nat}
    (h : (houseLevels (setSq s 0x300 (sqClear (sqOf s 0x300) data 0))).getLsbD j = true) :
    (houseLevels s).getLsbD j = true := by
  have hen : ∀ r, regLive (setSq s 0x300 r) 0x304 = regLive s 0x304 := fun _ => rfl
  unfold houseLevels hsFlags at h ⊢
  rw [hen, sqOf_setSq_self] at h
  simp only [BitVec.getLsbD_and, BitVec.getLsbD_extractLsb', Bool.and_eq_true, Nat.zero_add] at h ⊢
  obtain ⟨⟨hj, hflag⟩, henable⟩ := h
  exact ⟨⟨hj, sqClear_flags_of_no_set hflag⟩, henable⟩

/-! ## What a write of a sequence-clear register does -/

theorem writeSq_of_ne_house (h : off ≠ 0x300) :
    writeSq s off data hw = setSq s off (sqClear (sqOf s off) data (hw &&& sqMask off)) := if_neg h

/-- HS_STAT: flags that hardware sets are gathered for the CCLK; else the clear stands and the house sources follow. -/
theorem writeSq_house_cases (s : State) (data : Word) (hw : BitVec 24) :
    (hw &&& sqMask 0x300 ≠ 0 ∧ writeSq s 0x300 data hw = house s ((hw &&& sqMask 0x300).setWidth 16)) ∨
    (hw &&& sqMask 0x300 = 0 ∧
      ∃ q, writeSq s 0x300 data hw = { setSq s 0x300 (sqClear (sqOf s 0x300) data 0) with irq := q }) := by
  unfold writeSq
  dsimp only
  rw [if_pos rfl]
  split
  next hset => exact .inl ⟨hset, rfl⟩
  next hset => exact .inr ⟨not_not.1 hset, houseEdges_eq_irq fun _ => houseLevels_setSq_sqClear⟩

theorem sameModes_writeSq (s : State) (off : Nat) (data : Word) (hw : BitVec 24) :
    SameModes s (writeSq s off data hw) := by
  by_cases h : off = 0x300
  · subst h
    obtain ⟨-, hx⟩ | ⟨-, q, hx⟩ := writeSq_house_cases s data hw
    · rw [hx]
      exact ⟨rfl, rfl, rfl, rfl, rfl, rfl⟩
    · rw [hx]
      exact ⟨rfl, rfl, rfl, rfl, rfl, rfl⟩
  · rw [writeSq_of_ne_house h]
    exact ⟨rfl, rfl, rfl, rfl, rfl, rfl⟩

theorem writeSq_house_sqAcc (s : State) (data : Word) (hw : BitVec 24) :
    (writeSq s 0x300 data hw).sqAcc = s.sqAcc := by
  obtain ⟨-, hx⟩ | ⟨-, q, hx⟩ := writeSq_house_cases s data hw <;> rw [hx] <;> rfl

theorem aside_setSq_house {w : Bool} (s : State) (r : SqReg) : Aside w s (setSq s 0x300 r) := by
  constructor <;> try simp
  intro off h
  rw [sqOf_setSq, if_neg h]

theorem aside_writeSq_house {w : Bool} (s : State) (data : Word) (hw : BitVec 24) :
    Aside w s (writeSq s 0x300 data hw) := by
  unfold writeSq
  dsimp only
  rw [if_pos rfl]
  split
  · exact aside_hsAcc s _
  · exact (aside_setSq_house s _).trans (aside_houseEdges _ _)

/-- What the write leaves in HS_STAT, once the flags that it has gathered are set, is what R133 says. -/
theorem sqRaise_writeSq_house (hacc : s.hsAcc = 0) (data : Word) (hw : BitVec 24) :
    sqRaise (sqOf (writeSq s 0x300 data hw) 0x300) ((writeSq s 0x300 data hw).hsAcc.setWidth 24) =
      sqClear (sqOf s 0x300) data (hw &&& sqMask 0x300) := by
  obtain ⟨hset, hx⟩ | ⟨hset, q, hx⟩ := writeSq_house_cases s data hw
  · have hsq : sqOf (house s ((hw &&& sqMask 0x300).setWidth 16)) 0x300 = sqOf s 0x300 := rfl
    have hgathered : (house s ((hw &&& sqMask 0x300).setWidth 16)).hsAcc = (hw &&& sqMask 0x300).setWidth 16 := by
      simp [hacc]
    rw [hx, hsq, hgathered, setWidth_house_sqMask, sqClear, if_pos hset]
  · have hsq : sqOf { setSq s 0x300 (sqClear (sqOf s 0x300) data 0) with irq := q } 0x300 =
        sqClear (sqOf s 0x300) data 0 := sqOf_setSq_self _ _ _
    rw [hx, hset, hsq]
    dsimp only
    rw [setSq_hsAcc, hacc]
    rfl

/-! ## A served write as a command -/

theorem baseOff_of_aligned (hlow : addr < 0x2000) (hal : addr % 4 = 0) : baseOff addr = addr := by
  unfold baseOff
  omega

theorem busServed_mode_ne_reset (h : busServed s = true) : s.pw.mode ≠ .reset := by
  intro hm
  simp [busServed, hm] at h

/-- A cycle that brings no reset ends as every command does. -/
theorem busDo_eq_settle {f : State → State} (hb : BusDefined s) (hm : (f s).pw.mode ≠ .reset) :
    busDo s f = .next (settle s (f s)) := by
  unfold busDo
  rw [if_neg hb]
  exact if_neg hm

theorem busWrite_of_served (hs : served s true addr be) (hbe : be ≠ 0) :
    busWrite s addr be data hw = servedWrite s (busOp addr) (baseOff addr) be data hw := by
  obtain ⟨-, hbus, hrefuse⟩ := hs
  unfold busWrite
  rw [hbus, Bool.not_true, Bool.or_false, if_neg (by simpa using hbe), hrefuse]

theorem exec_sequenceClear {off : BitVec 14} (hs : served s true off.toNat 15) (hlow : off.toNat < 0x2000)
    (hal : off.toNat % 4 = 0) (hsq : isSq off.toNat = true) :
    exec (.sequenceClear off 15 data hw) s = .next (settle s (writeSq s off.toNat data hw)) := by
  have ⟨hbus, hserved, _⟩ := hs
  have hwrite : busWrite s off.toNat 15 data hw = writeSq s off.toNat data hw := by
    rw [busWrite_of_served hs (by decide), baseOff_of_aligned hlow hal]
    exact if_pos hsq
  have hmode : (busWrite s off.toNat 15 data hw).pw.mode ≠ .reset := by
    rw [hwrite, (sameModes_writeSq s _ data hw).pw]
    exact busServed_mode_ne_reset hserved
  rw [← hwrite]
  exact busDo_eq_settle (f := fun s => busWrite s off.toNat 15 data hw) hbus hmode

/-- The command at HS_STAT: the sets of the CCLK are made as one, and nothing else but the house sources follows. -/
theorem settle_writeSq_house (hq : Quiet s) (data : Word) (hw : BitVec 24) :
    sqOf (settle s (writeSq s 0x300 data hw)) 0x300 = sqClear (sqOf s 0x300) data (hw &&& sqMask 0x300) ∧
    Aside false s (settle s (writeSq s 0x300 data hw)) ∧
    (settle s (writeSq s 0x300 data hw)).nv.jobs = s.nv.jobs := by
  obtain ⟨hacc, hsqAcc⟩ := hq
  have hmodes := sameModes_writeSq s 0x300 data hw
  have hfirst : (writeSq s 0x300 data hw).sqAcc.contains 0x300 = false := by
    rw [writeSq_house_sqAcc, hsqAcc]
    rfl
  obtain ⟨haside, hsq, hjobs, -⟩ := settle_flagsSet rfl hmodes hfirst (Aside.refl false _) rfl rfl rfl
  exact ⟨hsq.trans (sqRaise_writeSq_house hacc data hw), (aside_writeSq_house s data hw).trans haside,
    hjobs.trans hmodes.jobs⟩

/-- The command at any other sequence-clear register changes that register only, up to the high-water marks. -/
theorem settle_writeSq_of_ne_house (hq : Quiet s) (h : off ≠ 0x300) (data : Word) (hw : BitVec 24) :
    sqOf (settle s (writeSq s off data hw)) off = sqClear (sqOf s off) data (hw &&& sqMask off) ∧
    UpToMarks (setSq s off (sqClear (sqOf s off) data (hw &&& sqMask off))) (settle s (writeSq s off data hw)) := by
  have hmodes := sameModes_writeSq s off data hw
  rw [writeSq_of_ne_house h] at hmodes ⊢
  obtain ⟨hacc, -⟩ := hq
  exact ⟨by rw [sqOf_settle _ _ _ h, sqOf_setSq_self], settle_upToMarks hacc hmodes⟩

/-- Settles O24: `sqClear` is what R133 says of the register; at HS_STAT it is reached through the flags gathered in the
CCLK, elsewhere by the write itself. -/
theorem sequenceClear : Obligations.SequenceClear := by
  intro s off data hw hq hs hlow hal hsq r set after
  have hafter : after = sqClear (sqOf s off.toNat) data (hw &&& sqMask off.toNat) := (sqClear_eq _ _ _).symm
  rw [hafter]
  refine ⟨_, exec_sequenceClear hs hlow hal hsq, ?_⟩
  by_cases hhouse : off.toNat = 0x300
  · rw [hhouse]
    obtain ⟨hreg, haside, hjobs⟩ := settle_writeSq_house hq data hw
    exact ⟨hreg, fun h => absurd rfl h, fun _ => ⟨haside, hjobs⟩⟩
  · obtain ⟨hreg, hmarks⟩ := settle_writeSq_of_ne_house hq hhouse data hw
    exact ⟨hreg, fun _ => hmarks, fun h => absurd h hhouse⟩

end Sys2Proof.Machine
end

section
/-!
PROOFS. Chapter 08: the region that decides over a page, and the check of an access by the steps of Table RC-2 (R182, R183).
-/
namespace Sys2Proof.Machine

variable {s : State} {j page addr : Nat}

/-! ## The region that decides (R183) -/

/-- Region j has V = 1 and covers the page. -/
def RegionCovers (s : State) (j page : Nat) : Prop :=
  bit (regionW s j 0) 0 = true ∧ regionBase s j ≤ page ∧ page ≤ regionLimit s j

theorem not_regionCovers_iff :
    ¬ RegionCovers s j page ↔ bit (regionW s j 0) 0 = false ∨ page < regionBase s j ∨ regionLimit s j < page := by
  simp only [RegionCovers, not_and_or, Bool.not_eq_true, Nat.not_le]

theorem regionFor_eq_none_iff : regionFor s page = none ↔ ∀ j, j < 32 → ¬ RegionCovers s j page := by
  simp [regionFor, RegionCovers, mem_upTo, and_assoc]

/-- The lowest-numbered covering region decides; a higher-numbered one is never consulted. -/
theorem regionFor_eq_some_iff :
    regionFor s page = some j ↔ RegionCovers s j page ∧ j < 32 ∧ ∀ i, i < j → ¬ RegionCovers s i page := by
  simp only [not_regionCovers_iff]
  simp [regionFor, upTo, List.find?_range_eq_some, RegionCovers, and_assoc, or_assoc]

/-! ## The steps of the check (Table RC-2) -/

theorem regionCheck_of_bit48 (n : Tenant) (h : 2 ^ 48 ≤ addr) : regionCheck s n addr = .fail 0x10 none :=
  if_pos h

theorem regionCheck_of_regionFor_none (n : Tenant) (hfor : regionFor s (addr / 4096) = none) :
    regionCheck s n addr = .fail 0x10 none := by
  simp [regionCheck, hfor]

theorem regionCheck_of_regionFor_some (n : Tenant) (haddr : addr < 2 ^ 48) (hfor : regionFor s (addr / 4096) = some j) :
    regionCheck s n addr =
      if regionDevice s j = true then .fail 0x12 (some j)
      else if regionColour s j ≠ tenColour s n then .fail 0x11 (some j)
      else if linkIsDown (linkOf s (regionLink s j)) = true then .fail 0x13 (some j)
      else .pass (regionLink s j) j := by
  rw [regionCheck, if_neg (Nat.not_le.mpr haddr), hfor]

/-- Settles O42: the region that decides is the first that covers the page, and the steps of Table RC-2 follow from it. -/
theorem regionChecks : Obligations.RegionChecks := by
  intro s n addr
  refine ⟨regionCheck_of_bit48 n, fun _ hnone => ?_, fun j hj haddr hv hbase hlimit hlower => ?_⟩
  · have hfor : regionFor s (addr / 4096) = none :=
      regionFor_eq_none_iff.mpr fun j hj => not_regionCovers_iff.mpr (hnone j hj)
    exact regionCheck_of_regionFor_none n hfor
  · have hfor : regionFor s (addr / 4096) = some j :=
      regionFor_eq_some_iff.mpr ⟨⟨hv, hbase, hlimit⟩, hj, fun i hi => not_regionCovers_iff.mpr (hlower i hi)⟩
    exact regionCheck_of_regionFor_some n haddr hfor

end Sys2Proof.Machine
end

section
/-!
PROOFS. What the interrupt path, the walker, the links, the tenants and the arbiter leave alone: the store's bytes, the modes, the
configuration, the bus, the mailbox, the Steward, the engine and the bundles.
-/
namespace Sys2Proof.Machine

/-- What the interrupt path, the walker, the links, the tenants and the arbiter leave alone: the state without them. -/
def State.still (s : State) : State :=
  { s with irq := {}, xl := {}, tens := [], quiesceLast := 0, links := [], lanes := [], allot := {}
           cfg := { s.cfg with sq := [], cnt := [] }, nv := { s.nv with op := none, orphan := false, jobs := [], indet := [], trail := [] }
           hsAcc := 0, sqAcc := [], free := 0 }

/-- `t` is `s` but for what `still` erases, with the fields that proofs ask for by name. -/
abbrev Still (s t : State) : Prop :=
  t.still = s.still ∧ t.nv.mem = s.nv.mem ∧ t.pw = s.pw ∧ t.hl = s.hl ∧ t.bus = s.bus ∧ t.mbx = s.mbx ∧ t.stew = s.stew ∧ t.au = s.au ∧
  t.bun = s.bun ∧ t.cfg.live = s.cfg.live ∧ t.cfg.shadow = s.cfg.shadow ∧ t.cfg.im = s.cfg.im ∧ t.now = s.now

theorem Still.of {s t : State} (h : t.still = s.still) : Still s t :=
  ⟨h, congrArg (·.nv.mem) h, congrArg (·.pw) h, congrArg (·.hl) h, congrArg (·.bus) h, congrArg (·.mbx) h, congrArg (·.stew) h,
   congrArg (·.au) h, congrArg (·.bun) h, congrArg (·.cfg.live) h, congrArg (·.cfg.shadow) h, congrArg (·.cfg.im) h,
   congrArg (·.now) h⟩

theorem State.still_allot (s : State) (a : Allot) : { s with allot := a }.still = s.still := rfl
theorem State.still_irq (s : State) (a : Irq) : { s with irq := a }.still = s.still := rfl
theorem State.still_xl (s : State) (a : Xlate) : { s with xl := a }.still = s.still := rfl
@[simp] theorem foldS_still {α : Type} (f : State → α → State) (l : List α) (s : State) (h : ∀ s a, (f s a).still = s.still) : (foldS f s l).still = s.still := foldS_keeps (·.still) f l s h
@[simp] theorem ite_still (c : Prop) [Decidable c] (a b : State) : (if c then a else b).still = if c then a.still else b.still := by split <;> rfl
@[simp] theorem setSq_still (s : State) (off : Nat) (r : SqReg) : Still s (setSq s off r) := Still.of rfl
@[simp] theorem sqSet_still (s : State) (off : Nat) (f : BitVec 24) : Still s (sqSet s off f) := Still.of rfl
@[simp] theorem bump_still (s : State) (off : Nat) : Still s (bump s off) := Still.of rfl
@[simp] theorem bumpN_still (s : State) (off n : Nat) : Still s (bumpN s off n) := Still.of rfl
@[simp] theorem setTgt_still (s : State) (t : Target) (r : TgtRec) : Still s (setTgt s t r) := Still.of rfl
@[simp] theorem setPtr_still (s : State) (g : Nat) (v : BitVec 8) : Still s (setPtr s g v) := Still.of rfl
@[simp] theorem setInt_still (s : State) (k : Nat) (r : IntRec) : Still s (setInt s k r) := Still.of rfl
@[simp] theorem setTen_still (s : State) (n : Tenant) (r : TenRec) : Still s (setTen s n r) := Still.of rfl
@[simp] theorem setLink_still (s : State) (l : Link) (r : LinkRec) : Still s (setLink s l r) := Still.of rfl
@[simp] theorem setLane_still (s : State) (l : Link) (p : Nat) (r : LaneRec) : Still s (setLane s l p r) := Still.of rfl
@[simp] theorem setXl_still (s : State) (x : Xlate) : Still s (setXl s x) := Still.of rfl
@[simp] theorem house_still (s : State) (f : BitVec 16) : Still s (house s f) := Still.of rfl
@[simp] theorem setJobs_still (s : State) (js : List NvJob) : Still s (setJobs s js) := Still.of rfl

@[simp] theorem dropCount_still (s : State) (off : Nat) : Still s (dropCount s off) := Still.of (by simp [dropCount])

@[simp] theorem loseTrigger_still (s : State) (k : Nat) : Still s (loseTrigger s k) := Still.of (by simp [loseTrigger])

@[simp] theorem placeNote_still (s : State) (n : NoteKey) (i : Intid) :
    Still s (placeNote s n i).1 := by
  unfold placeNote
  split
  · exact Still.of (by simp)
  · exact Still.of rfl

@[simp] theorem takeFree_still (s : State) : Still s (takeFree s).2 := Still.of rfl

@[simp] theorem evT_still (s : State) (k : Nat) (note : Option NoteKey) :
    Still s (evT s k note) := by
  refine Still.of ?_
  unfold evT
  dsimp only
  repeat' split
  all_goals simp

@[simp] theorem evSet_still (s : State) (k : Nat) : Still s (evSet s k) := by
  refine Still.of ?_
  unfold evSet
  split <;> simp

@[simp] theorem evF_still (s : State) (k : Nat) : Still s (evF s k) := by
  refine Still.of ?_
  unfold evF
  dsimp only
  repeat' split
  all_goals simp

@[simp] theorem evW_still (s : State) (k : Nat) : Still s (evW s k) := by
  refine Still.of ?_
  unfold evW
  dsimp only
  repeat' split
  all_goals simp

@[simp] theorem evC_still (s : State) (k : Nat) (t : Target) : Still s (evC s k t) := by
  refine Still.of ?_
  unfold evC
  dsimp only
  repeat' split
  all_goals simp

@[simp] theorem evN_still (s : State) (k : Nat) : Still s (evN s k) := by
  refine Still.of ?_
  unfold evN
  dsimp only
  repeat' split
  all_goals simp

@[simp] theorem evE_still (s : State) (k : Nat) : Still s (evE s k) := by
  refine Still.of ?_
  unfold evE
  dsimp only
  repeat' split
  all_goals simp

@[simp] theorem evK_still (s : State) (k : Nat) : Still s (evK s k) := by
  refine Still.of ?_
  unfold evK
  dsimp only
  repeat' split
  all_goals simp

@[simp] theorem evD_still (s : State) (k : Nat) : Still s (evD s k) := by
  refine Still.of ?_
  unfold evD
  dsimp only
  repeat' split
  all_goals simp

@[simp] theorem evQ_still (s : State) (i : Intid) (id : Nat) : Still s (evQ s i id) := Still.of (by simp [evQ])

theorem ifEnabled_still (s : State) (k : Nat) (f : State → State)
    (h : ∀ s, Still s (f s)) :
    Still s (ifEnabled s k f) := by
  refine Still.of ?_
  unfold ifEnabled
  repeat' (first | split | simp [(h _).1])

@[simp] theorem trigger_still (s : State) (k : Nat) (note : Option NoteKey) :
    Still s (trigger s k note) := ifEnabled_still _ _ _ fun _ => evT_still _ _ _

@[simp] theorem softPend_still (s : State) (k : Nat) (v : Bool) :
    Still s (softPend s k v) := by
  unfold softPend; split
  · exact ifEnabled_still _ _ _ fun _ => evSet_still _ _
  · exact evK_still _ _

@[simp] theorem clearLost_still (s : State) (k : Nat) : Still s (clearLost s k) := Still.of (by simp [clearLost])

@[simp] theorem houseEdges_still (old : BitVec 16) (s : State) : Still s (houseEdges old s) := Still.of (by simp [houseEdges])

@[simp] theorem flushHouse_still (s : State) : Still s (flushHouse s) := by
  refine Still.of ?_
  unfold flushHouse
  split
  · rfl
  · exact (houseEdges_still _ _).1.trans (sqSet_still _ _ _).1

@[simp] theorem withdrawAll_still (s : State) : Still s (withdrawAll s) := Still.of (by simp [withdrawAll])

@[simp] theorem settlePermit_still (before after : State) : Still after (settlePermit before after) := Still.of (by simp [settlePermit])

@[simp] theorem pushJob_still (s : State) (items : List NvItem) : Still s (pushJob s items) := Still.of rfl

@[simp] theorem logEntry_still (s : State) (type arg : BitVec 8) (value : Word) (data : BitVec 96) : Still s (logEntry s type arg value data) := Still.of (by simp [logEntry])

@[simp] theorem nvEvt_still (s : State) (k : Nat) (sector : Nat) : Still s (nvEvt s k sector) := Still.of (by simp [nvEvt])

@[simp] theorem abortErase_still (s : State) : Still s (abortErase s) := by
  refine Still.of ?_
  unfold abortErase
  dsimp only
  repeat' split
  all_goals simp [State.still]

@[simp] theorem logMode_still (before after : State) : Still after (logMode before after) := Still.of (by simp [logMode])

@[simp] theorem nvDone_still (before after : State) : Still after (nvDone before after) := Still.of (by simp [nvDone])

@[simp] theorem noteHwm_still (s : State) : Still s (noteHwm s) := by
  refine Still.of ?_
  unfold noteHwm
  dsimp only
  simp [State.still]

@[simp] theorem revertInt_still (s : State) (t : Target) (k : Nat) : Still s (revertInt s t k) := by
  refine Still.of ?_
  unfold revertInt
  dsimp only
  repeat' split
  all_goals simp

@[simp] theorem revertTarget_still (s : State) (t : Target) : Still s (revertTarget s t) := Still.of (by simp [revertTarget])

@[simp] theorem dropLevels_still (s : State) (t : Target) : Still s (dropLevels s t) := Still.of (by simp [dropLevels])

@[simp] theorem revertLink_still (s : State) (l : Link) : Still s (revertLink s l) := Still.of (by simp [revertLink])

@[simp] theorem quiesceCheck_still (s : State) (n : Tenant) : Still s (quiesceCheck s n) := by
  refine Still.of ?_
  unfold quiesceCheck
  dsimp only
  repeat' split
  all_goals simp [State.still]

@[simp] theorem outAdd_still (s : State) (n : Tenant) : Still s (outAdd s n) := Still.of (by simp [outAdd])

@[simp] theorem outSub_still (s : State) (n : Tenant) : Still s (outSub s n) := Still.of (by simp [outSub])

@[simp] theorem quiesceAll_still (s : State) : Still s (quiesceAll s) := Still.of (by simp [quiesceAll])

@[simp] theorem queueEvt_still (s : State) (e : EvtRec) : Still s (queueEvt s e) := by
  unfold queueEvt
  split
  · exact dropCount_still _ _
  · exact Still.of rfl

@[simp] theorem queueFlt_still (s : State) (f : FltRec) : Still s (queueFlt s f) := by
  unfold queueFlt
  dsimp only
  split
  · exact Still.of (by simp)
  · exact Still.of rfl

@[simp] theorem accessError_still (s : State) (l : Link) (n : Tenant) (off : BitVec 12) (rd : Bool) : Still s (accessError s l n off rd) := Still.of (by simp [accessError])

@[simp] theorem poolDrop_still (s : State) (n : Tenant) (l : Link) (i : Intid) (record : Option (BitVec 8)) : Still s (poolDrop s n l i record) := by
  refine Still.of ?_
  unfold poolDrop
  split <;> simp

@[simp] theorem queueNak_still (s : State) (e : SowEvent) (i : Intid) (code : Nat) : Still s (queueNak s e i code) := by
  unfold queueNak
  split
  · exact dropCount_still _ _
  · exact Still.of rfl

@[simp] theorem setRing_still (s : State) (n : Tenant) (evt : Bool) (r : Ring) : Still s (setRing s n evt r) := Still.of (by simp [setRing])

@[simp] theorem markUnfit_still (s : State) : Still s (markUnfit s) := Still.of rfl

@[simp] theorem dropReq_still (s : State) (c : Nat) : Still s (dropReq s c) := Still.of rfl

@[simp] theorem raiseReq_still (s : State) (c : Nat) (prio : BitVec 8) (exit : Option Link) (key : Option Nat) : Still s (raiseReq s c prio exit key) := by
  refine Still.of ?_
  unfold raiseReq
  split
  · exact (markUnfit_still _).1.trans (State.still_allot _ _)
  · exact (markUnfit_still _).1.trans ((State.still_allot _ _).trans (dropReq_still _ _).1)

@[simp] theorem freeGrant_still (s : State) (c : Nat) : Still s (freeGrant s c) := Still.of rfl

@[simp] theorem startGrant_still (s : State) (c : Nat) : Still s (startGrant s c) := Still.of rfl

@[simp] theorem revokeOne_still (s : State) (g : Grant) : Still s (revokeOne s g) := by
  refine Still.of ?_
  unfold revokeOne
  split
  · exact (freeGrant_still _ _).1
  · split
    · split
      · exact (freeGrant_still _ _).1.trans (abortErase_still _).1
      · rfl
    · rfl

@[simp] theorem revoke_still (s : State) : Still s (revoke s) := Still.of (by simp [revoke])

@[simp] theorem arbSettle_still (before s : State) : Still s (arbSettle before s) := by
  refine Still.of ?_
  have ho : ∀ x : State, (house { x with allot := { x.allot with overdraft := true } } hOVERDRAFT).still = x.still := fun _ => rfl
  have hz : ∀ x : State, { x with allot := { x.allot with overdraft := false } }.still = x.still := fun _ => rfl
  refine (markUnfit_still _).1.trans ((State.still_allot _ _).trans ?_)
  simp only [ite_still, hz, ho, ite_self, (house_still _ _).1, (revoke_still _).1]

@[simp] theorem cancelGrant_still (s : State) (c : Nat) : Still s (cancelGrant s c) := Still.of rfl

@[simp] theorem exitRequest_still (s : State) (l : Link) : Still s (exitRequest s l) := Still.of (by simp [exitRequest])

@[simp] theorem exitRequests_still (s : State) : Still s (exitRequests s) := Still.of (by simp [exitRequests])

@[simp] theorem makeGrant_still (s : State) (r : Req) (saff : Bool) : Still s (makeGrant s r saff) := by
  refine Still.of ?_
  unfold makeGrant
  dsimp only
  refine (State.still_allot _ _).trans ?_
  repeat' split
  all_goals simp

@[simp] theorem setTx_still (s : State) (l : Link) (p : Nat) (t : LaneTx) : Still s (setTx s l p t) := Still.of (by simp [setTx])

@[simp] theorem latchInterval_still (s : State) (l : Link) (n : Nat) : Still s (latchInterval s l n) := Still.of (by simp [latchInterval])

@[simp] theorem laneNext_still (s : State) (l : Link) (p : Nat) : Still s (laneNext s l p) := by
  refine Still.of ?_
  unfold laneNext
  split <;> simp

@[simp] theorem laneTick_still (l : Link) (s : State) (p : Nat) : Still s (laneTick l s p) := Still.of (by simp [laneTick])

@[simp] theorem noteSent_still (s : State) (l : Link) : Still s (noteSent s l) := Still.of (by simp [noteSent])

@[simp] theorem lanesTick_still (s : State) (l : Link) : Still s (lanesTick s l) := by
  refine Still.of ?_
  unfold lanesTick
  dsimp only
  split <;> simp

@[simp] theorem beginIntervals_still (s : State) (l : Link) : Still s (beginIntervals s l) := Still.of (by simp [beginIntervals])

@[simp] theorem activeMarks_still (s : State) (l : Link) (tp1 : Nat) : Still s (activeMarks s l tp1) := Still.of (by simp [activeMarks])

@[simp] theorem fillFifos_still (l : Link) (n : Nat) (s : State) : Still s (fillFifos l n s) := by
  induction n generalizing s with
  | zero => exact Still.of rfl
  | succ n ih =>
    refine Still.of ?_
    unfold fillFifos
    dsimp only
    repeat' (first | with_reducible rfl | split | simp [(ih _).1])

@[simp] theorem fillOut_still (s : State) (l : Link) : Still s (fillOut s l) := Still.of (by simp [fillOut])

theorem nextGrain_still (s : State) (l : Link) (t : State × Grain) (h : nextGrain s l = some t) : Still s t.1 := by
  refine Still.of ?_
  unfold nextGrain at h
  dsimp only at h
  repeat' (split at h)
  all_goals first
    | (simp at h; done)
    | (simp only [Option.some.injEq] at h; subst h; simp)

@[simp] theorem pushTlp_still (s : State) (l : Link) (type vc grains : Nat) (fn : BitVec 8) (body : List Word) (ring : Option (Bool × Tenant)) : Still s (pushTlp s l type vc grains fn body ring) := Still.of (by simp [pushTlp])

@[simp] theorem freeRx_still (s : State) (l : Link) (vc g : Nat) : Still s (freeRx s l vc g) := Still.of (by simp [freeRx])

@[simp] theorem arrive_still (s : State) (l : Link) (vc g : Nat) : Still s (arrive s l vc g) := Still.of (by simp [arrive])

@[simp] theorem tookRead_still (s : State) (l : Link) : Still s (tookRead s l) := Still.of (by simp [tookRead])

@[simp] theorem tookSource_still (s : State) (l : Link) (src : BitVec 2) : Still s (tookSource s l src) := Still.of (by simp [tookSource])

@[simp] theorem sendGrains_still (s : State) (l : Link) (ll : LinkLayer) (gs : List Grain) : Still s (sendGrains s l ll gs) := Still.of (by simp [sendGrains])

@[simp] theorem sendDue_still (s : State) (l : Link) : Still s (sendDue s l) := by
  refine Still.of ?_
  unfold sendDue
  dsimp only
  repeat' split
  all_goals simp

@[simp] theorem sendWaitingCpl_still (s : State) (l : Link) : Still s (sendWaitingCpl s l) := by
  refine Still.of ?_
  unfold sendWaitingCpl
  dsimp only
  repeat' split
  all_goals simp

@[simp] theorem sendOwn_still (s : State) (l : Link) : Still s (sendOwn s l) := by
  refine Still.of ?_
  unfold sendOwn
  dsimp only
  repeat' split
  all_goals simp

@[simp] theorem wakeRequest_still (s : State) (t : Target) (best : Option Nat) : Still s (wakeRequest s t best) := by
  refine Still.of ?_
  unfold wakeRequest
  split <;> simp

@[simp] theorem refresh_still (s : State) (t : Target) : Still s (refresh s t) := by
  refine Still.of ?_
  unfold refresh
  dsimp only
  repeat' split
  all_goals first
    | (simp; done)
    | exact (State.still_irq _ _).trans (by simp)

@[simp] theorem bankRefresh_still (s : State) (b : BitVec 4) : Still s (bankRefresh s b) := by
  exact Still.of ((refresh_still _ _).1.trans (State.still_irq _ _))

@[simp] theorem placeOffer_still (s : State) (t : Target) (k : Nat) : Still s (placeOffer s t k) := by
  refine Still.of ?_
  unfold placeOffer
  dsimp only
  repeat' split
  all_goals simp [State.still]

@[simp] theorem dropChoice_still (s : State) (t : Target) : Still s (dropChoice s t) := Still.of rfl

@[simp] theorem pruneWakes_still (s : State) : Still s (pruneWakes s) := Still.of rfl

@[simp] theorem breqRequest_still (s : State) (n : Nat) : Still s (breqRequest s n) := Still.of (by simp [breqRequest])

@[simp] theorem engineRequest_still (s : State) : Still s (engineRequest s) := Still.of (by simp [engineRequest])

@[simp] theorem follow_still (s : State) : Still s (follow s) := by
  refine Still.of ?_
  unfold follow
  dsimp only
  split
  · rw [(markUnfit_still _).1]
    refine (State.still_allot _ _).trans ?_
    split <;> simp
  · rfl

@[simp] theorem endCclk_still (s : State) : Still s (endCclk s) := Still.of rfl

@[simp] theorem arbFollow_still (s : State) : Still s (arbFollow s) := Still.of rfl

@[simp] theorem settle_still (before after : State) : Still after (settle before after) := Still.of (by simp [settle])

@[simp] theorem furrowRefresh_still (s : State) (b : BitVec 4) : Still s (furrowRefresh s b) := Still.of (by simp [furrowRefresh])

@[simp] theorem routeSelect_still (s : State) (t : Target) : Still s (routeSelect s t) := by
  refine Still.of ?_
  unfold routeSelect
  split <;> simp

@[simp] theorem updOffer_still (s : State) (k : Nat) (f : Offer → Offer) : Still s (updOffer s k f) := Still.of (by simp [updOffer])

@[simp] theorem offerReplayEntry_still (s : State) (l : Link) : Still s (offerReplayEntry s l) := by
  refine Still.of ?_
  unfold offerReplayEntry
  split <;> simp

@[simp] theorem wiredRecalls_still (s : State) : Still s (wiredRecalls s) := by
  refine Still.of ?_
  unfold wiredRecalls
  refine foldS_still _ _ _ fun s a => ?_
  split <;> simp

@[simp] theorem wiredOfferAssert_still (s : State) (t : Target) : Still s (wiredOfferAssert s t) := by
  refine Still.of ?_
  unfold wiredOfferAssert
  repeat' split
  all_goals simp

@[simp] theorem wiredRetire_still (s : State) : Still s (wiredRetire s) := by
  refine Still.of ?_
  unfold wiredRetire
  split
  · rw [foldS_still _ _ _ fun s a => ?_]
    all_goals
      repeat' split
      all_goals simp
  · rfl

@[simp] theorem recallSend_still (s : State) (l : Link) : Still s (recallSend s l) := by
  refine Still.of ?_
  unfold recallSend
  split <;> simp

@[simp] theorem offerTimeout_still (s : State) (t : Target) (tk : BitVec 8) : Still s (offerTimeout s t tk) := by
  refine Still.of ?_
  unfold offerTimeout
  split <;> simp

@[simp] theorem recallTimeout_still (s : State) (t : Target) (tk : BitVec 8) : Still s (recallTimeout s t tk) := by
  refine Still.of ?_
  unfold recallTimeout
  split <;> simp

theorem viMsg_still (s : State) (l : Link) (g : Nat) (f : State → State)
    (h : ∀ s, Still s (f s)) :
    Still s (viMsg s l g f) := by
  refine Still.of ?_
  unfold viMsg
  split <;> simp [(h _).1]

@[simp] theorem claimed_still (s : State) (l : Link) (t : Target) (i : Intid) (tk : BitVec 8) : Still s (claimed s l t i tk) := by
  unfold claimed
  refine viMsg_still _ _ _ _ (fun s => ?_)
  refine Still.of ?_
  repeat' split
  all_goals simp

@[simp] theorem returned_still (s : State) (l : Link) (t : Target) (i : Intid) (tk : BitVec 8) : Still s (returned s l t i tk) := by
  unfold returned
  refine viMsg_still _ _ _ _ (fun s => ?_)
  refine Still.of ?_
  repeat' split
  all_goals simp

@[simp] theorem returnedBelow_still (s : State) (l : Link) (t : Target) (i : Intid) (tk : BitVec 8) : Still s (returnedBelow s l t i tk) := by
  unfold returnedBelow
  refine viMsg_still _ _ _ _ (fun s => ?_)
  refine Still.of ?_
  repeat' split
  all_goals simp

@[simp] theorem eoiMsg_still (s : State) (l : Link) (t : Target) (i : Intid) : Still s (eoiMsg s l t i) := by
  unfold eoiMsg
  refine viMsg_still _ _ _ _ (fun s => ?_)
  refine Still.of ?_
  split <;> simp

@[simp] theorem completedExit_still (s : State) (t : Target) (i : Intid) : Still s (completedExit s t i) := by
  refine Still.of ?_
  unfold completedExit
  dsimp only
  repeat' split
  all_goals simp

@[simp] theorem prioMsg_still (s : State) (l : Link) (t : Target) (pmr : BitVec 8) (bpr : BitVec 3) (rpr : BitVec 8) : Still s (prioMsg s l t pmr bpr rpr) := by
  unfold prioMsg
  refine viMsg_still _ _ _ _ (fun s => ?_)
  refine Still.of ?_
  split <;> simp

@[simp] theorem stateMsg_still (s : State) (l : Link) (t : Target) (code : BitVec 2) : Still s (stateMsg s l t code) := by
  unfold stateMsg
  refine viMsg_still _ _ _ _ (fun s => ?_)
  refine Still.of ?_
  split <;> simp

@[simp] theorem signalOne_still (sender : Target) (num : BitVec 4) (s : State) (d : Target) : Still s (signalOne sender num s d) := Still.of (by simp [signalOne])

@[simp] theorem fanOut_still (s : State) (sender : Target) (num : BitVec 4) (ds : List Target) : Still s (fanOut s sender num ds) := by
  refine Still.of ?_
  unfold fanOut
  dsimp only
  split
  · simp
  · split
    · simp
    · exact (State.still_irq _ _).trans (by simp)

@[simp] theorem fanStep_still (s : State) : Still s (fanStep s) := by
  refine Still.of ?_
  unfold fanStep
  dsimp only
  split
  · refine (State.still_irq _ _).trans (foldS_still _ _ _ fun s a => ?_)
    split <;> simp
  · rfl

@[simp] theorem signalMsg_still (s : State) (l : Link) (sender : Target) (form : Bool) (dest : BitVec 8) (num : BitVec 4) : Still s (signalMsg s l sender form dest num) := by
  unfold signalMsg
  refine viMsg_still _ _ _ _ (fun s => ?_)
  refine Still.of ?_
  split <;> simp

@[simp] theorem privMsg_still (s : State) (l : Link) (t : Target) (src : BitVec 4) (level : Bool) : Still s (privMsg s l t src level) := by
  unfold privMsg
  refine viMsg_still _ _ _ _ (fun s => ?_)
  refine Still.of ?_
  split <;> simp

@[simp] theorem wtEoi_still (s : State) (t : Target) (be : BE) (i : Intid) : Still s (wtEoi s t be i) := Still.of (by simp [wtEoi])

@[simp] theorem doReclaim_still (s : State) (t : Target) : Still s (doReclaim s t) := Still.of (by simp [doReclaim])

@[simp] theorem updWalks_still (s : State) (f : List Walk → List Walk) : Still s (updWalks s f) := Still.of (by simp [updWalks])

@[simp] theorem removeWalk_still (s : State) (tag : BitVec 6) : Still s (removeWalk s tag) := Still.of (by simp [removeWalk])

@[simp] theorem putWalk_still (s : State) (w : Walk) : Still s (putWalk s w) := Still.of (by simp [putWalk])

@[simp] theorem nextSerial_still (s : State) : Still s (nextSerial s) := Still.of (by simp [nextSerial])

@[simp] theorem allocWalk_still (s : State) (w : Walk) : Still s (allocWalk s w) := Still.of (by simp [allocWalk])

@[simp] theorem outEnd_still (s : State) (w : Walk) : Still s (outEnd s w) := Still.of (by simp [outEnd])

@[simp] theorem touchT_still (s : State) (k way : Nat) : Still s (touchT s k way) := Still.of (by simp [touchT])

@[simp] theorem touchX_still (s : State) (k way : Nat) : Still s (touchX s k way) := Still.of (by simp [touchX])

@[simp] theorem pickWay_still (s : State) (ways : Nat) (used : List Nat) (victim : Nat) :
    Still s (pickWay s ways used victim).1 := by
  refine Still.of ?_
  unfold pickWay
  split <;> simp [takeFree, State.still]

@[simp] theorem fillT_still (s : State) (t : TransEntry) : Still s (fillT s t) := Still.of (by simp [fillT])

@[simp] theorem fillX_still (s : State) (x : XcfgEntry) : Still s (fillX s x) := Still.of (by simp [fillX])

@[simp] theorem emptyCaches_still (s : State) : Still s (emptyCaches s) := Still.of (by simp [emptyCaches])

@[simp] theorem placeSpill_still (s : State) (e : SowEvent) (i : Intid) : Still s (placeSpill s e i) := by
  refine Still.of ?_
  unfold placeSpill
  dsimp only
  repeat' split
  all_goals simp

@[simp] theorem spillEvent_still (s : State) (e : SowEvent) (i : Intid) : Still s (spillEvent s e i) := Still.of (by simp [spillEvent])

@[simp] theorem triggerExt_still (s : State) (e : SowEvent) (i : Intid) (word stamp : Word) (note : Option NoteKey) : Still s (triggerExt s e i word stamp note) := by
  refine Still.of ?_
  unfold triggerExt
  dsimp only
  repeat' split
  all_goals simp

@[simp] theorem deliver_still (s : State) (e : SowEvent) (i : Intid) (notify : Bool) (word stamp : Word) : Still s (deliver s e i notify word stamp) := Still.of (by simp [deliver])

@[simp] theorem faultOne_still (w : Walk) (code stage addr : Nat) (region : Option Nat) (s : State) (e : SowEvent) : Still s (faultOne w code stage addr region s e) := Still.of (by simp [faultOne])

@[simp] theorem keepCopy_still (s : State) (i : Intid) : Still s (keepCopy s i) := by
  refine Still.of ?_
  unfold keepCopy
  dsimp only
  repeat' split
  all_goals simp

@[simp] theorem dropSpilled_still (w : Walk) (code addr : Nat) (region : Option Nat) (s : State) (e : SowEvent) : Still s (dropSpilled w code addr region s e) := Still.of (by simp [dropSpilled])

@[simp] theorem faultEffect_still (s : State) (w : Walk) (code stage addr : Nat) (region : Option Nat) : Still s (faultEffect s w code stage addr region) := by
  refine Still.of ?_
  unfold faultEffect
  split <;> simp

@[simp] theorem beginWalk_still (s : State) (w : Walk) : Still s (beginWalk s w) := by
  refine Still.of ?_
  unfold beginWalk
  dsimp only
  repeat' split
  all_goals simp

@[simp] theorem repeatWalk_still (s : State) (w : Walk) : Still s (repeatWalk s w) := Still.of (by simp [repeatWalk])

@[simp] theorem walkFault_still (s : State) (w : Walk) (code stage addr : Nat) (region : Option Nat) : Still s (walkFault s w code stage addr region) := Still.of (by simp [walkFault])

@[simp] theorem fillEvent_still (w : Walk) (s : State) (e : SowEvent) : Still s (fillEvent w s e) := Still.of (by simp [fillEvent])

@[simp] theorem fillCaches_still (s : State) (w : Walk) (word : Option Word) : Still s (fillCaches s w word) := by
  refine Still.of ?_
  unfold fillCaches
  repeat' split
  all_goals simp

@[simp] theorem refetchLost_still (s : State) (e : SowEvent) (i : Intid) : Still s (refetchLost s e i) := Still.of (by simp [refetchLost])

@[simp] theorem refetchDone_still (s : State) (e : SowEvent) (i : Intid) (born : Nat) (word stamp : Word) : Still s (refetchDone s e i born word stamp) := by
  refine Still.of ?_
  unfold refetchDone
  dsimp only
  repeat' split
  all_goals simp

@[simp] theorem retireEvent_still (s : State) (w : Walk) (fetched : Option Word) : Still s (retireEvent s w fetched) := Still.of (by simp [retireEvent])

@[simp] theorem withIntid_still (s : State) (w0 : Walk) : Still s (withIntid s w0) := by
  refine Still.of ?_
  unfold withIntid
  dsimp only
  repeat' split
  all_goals simp

@[simp] theorem markSpill_still (s : State) (n : Tenant) : Still s (markSpill s n) := Still.of (by simp [markSpill])

@[simp] theorem sweepFault_still (s : State) (w : Walk) (code addr : Nat) (region : Option Nat) : Still s (sweepFault s w code addr region) := Still.of (by simp [sweepFault])

@[simp] theorem sweepNext_still (s : State) (w : Walk) : Still s (sweepNext s w) := Still.of (by simp [sweepNext])

@[simp] theorem sweepExtras_still (w : Walk) (js : List Nat) (s : State) :
    Still s (sweepExtras s w js).1 := by
  induction js generalizing s with
  | nil => exact Still.of rfl
  | cons j rest ih =>
    refine Still.of ?_
    unfold sweepExtras
    dsimp only
    repeat' (first | with_reducible rfl | split | simp [(ih _).1])

@[simp] theorem sweepClose_still (s : State) (w : Walk) :
    Still s (sweepClose s w) := by
  refine Still.of ?_
  unfold sweepClose
  dsimp only
  repeat' split
  all_goals simp

@[simp] theorem sweepBits_still (w : Walk) (n : Nat) (s : State) (a b : List Nat) :
    Still s (sweepBits w n s a b) := by
  induction n generalizing s a b with
  | zero => exact Still.of rfl
  | succ n ih =>
    refine Still.of ?_
    unfold sweepBits
    dsimp only
    repeat' (first | with_reducible rfl | split | simp [(ih _ _ _).1])

@[simp] theorem sweepOn_still (s : State) (w : Walk) : Still s (sweepOn s w) := Still.of (by simp [sweepOn])

@[simp] theorem sweepWord_still (s : State) (w : Walk) (word : Word) : Still s (sweepWord s w word) := by
  refine Still.of ?_
  unfold sweepWord
  repeat' split
  all_goals simp

@[simp] theorem sweepFail_still (s : State) (w : Walk) (code addr : Nat) (region : Option Nat) : Still s (sweepFail s w code addr region) := by
  refine Still.of ?_
  unfold sweepFail
  split <;> simp

@[simp] theorem accessFault_still (s : State) (w : Walk) (code : Nat) (region : Option Nat) : Still s (accessFault s w code region) := Still.of (by simp [accessFault])

@[simp] theorem readWord_still (s : State) (w : Walk) (n : Nat) :
    Still s (readWord s w n).1 := by
  refine Still.of ?_
  unfold readWord
  split <;> simp [takeFree, State.still]

@[simp] theorem blockBits_still (s : State) (w : Walk) :
    Still s (blockBits s w).1 := by
  refine Still.of ?_
  have h : ∀ (ns : List Nat) (a : State × List Nat), (ns.foldl (fun a n =>
        let r := readWord a.1 w n
        (r.1, a.2 ++ ((upTo 32).filter r.2.getLsbD).map (32 * n + ·))) a).1.still = a.1.still := by
    intro ns
    induction ns with
    | nil => exact fun _ => rfl
    | cons n ns ih => intro a; rw [List.foldl_cons, ih]; simp
  exact h _ _

@[simp] theorem readResult_still (s0 : State) (w : Walk) : Still s0 (readResult s0 w) := by
  refine Still.of ?_
  unfold readResult
  repeat' split
  all_goals simp

@[simp] theorem joinBlocked_still (s : State) (e : SowEvent) : Still s (joinBlocked s e) := Still.of (by simp [joinBlocked])

@[simp] theorem park_still (s : State) (e : SowEvent) : Still s (park s e) := Still.of (by simp [park])

@[simp] theorem touchHit_still (s : State) (e : SowEvent) (i : Intid) : Still s (touchHit s e i) := by
  refine Still.of ?_
  unfold touchHit
  dsimp only
  repeat' split
  all_goals simp

@[simp] theorem newWalk_still (s : State) (e : SowEvent) (tag : BitVec 6) (start : WalkStage) (t : Option TransEntry) : Still s (newWalk s e tag start t) := by
  refine Still.of ?_
  unfold newWalk
  dsimp only
  repeat' split
  all_goals simp

@[simp] theorem joinWalk_still (s : State) (e : SowEvent) : Still s (joinWalk s e) := Still.of (by simp [joinWalk])

theorem needWalk_still (s : State) (e : SowEvent) (x : WalkStage) (c : Option TransEntry) (t : State)
    (h : needWalk s e x c = some t) : Still s t := by
  unfold needWalk at h
  repeat' (split at h)
  · cases h; exact park_still s e
  · cases h; exact joinWalk_still s e
  · cases hf : freeTag s with
    | none => simp [hf] at h
    | some tag => rw [hf] at h; cases h; exact newWalk_still s e tag x c

theorem handleEvent_still (s : State) (e : SowEvent) (t : State) (h : handleEvent s e = some t) :
    Still s t := by
  unfold handleEvent at h
  split at h
  · cases h; exact Still.of (by simp)
  · split at h
    · cases h
    · cases h; exact Still.of (by simp)
  · exact needWalk_still _ _ _ _ _ h
  · exact needWalk_still _ _ _ _ _ h

@[simp] theorem sowDisabled_still (s : State) (n : Tenant) : Still s (sowDisabled s n) := Still.of (by simp [sowDisabled])

@[simp] theorem walkerTake_still (s : State) : Still s (walkerTake s) := by
  refine Still.of ?_
  unfold walkerTake
  dsimp only
  repeat' split
  all_goals first
    | with_reducible rfl
    | (refine (State.still_xl _ _).trans ?_; exact (handleEvent_still _ _ _ ‹handleEvent _ _ = some _›).1)
    | simp

@[simp] theorem walkBlockedRelease_still (s : State) (n : Tenant) : Still s (walkBlockedRelease s n) := by
  refine Still.of ?_
  unfold walkBlockedRelease
  dsimp only
  repeat' split
  all_goals first
    | with_reducible rfl
    | exact (handleEvent_still _ _ _ ‹handleEvent _ _ = some _›).1
    | (refine (handleEvent_still _ _ _ ‹handleEvent _ _ = some _›).1.trans ?_; simp)

@[simp] theorem postSent_still (s : State) (tag : BitVec 6) : Still s (postSent s tag) := by
  refine Still.of ?_
  unfold postSent
  split <;> simp

@[simp] theorem sendWalker_still (s : State) (l : Link) : Still s (sendWalker s l) := by
  refine Still.of ?_
  unfold sendWalker
  dsimp only
  split
  · split <;> simp
  · split <;> simp
  · rfl

@[simp] theorem enterVc_still (s : State) (w : Walk) (l : Link) (chk : Option Nat) : Still s (enterVc s w l chk) := Still.of (by simp [enterVc])

@[simp] theorem issueOn_still (s : State) (w : Walk) (l : Link) : Still s (issueOn s w l) := Still.of (by simp [issueOn])

@[simp] theorem walkReadIssue_still (s : State) (tag : BitVec 6) : Still s (walkReadIssue s tag) := by
  refine Still.of ?_
  unfold walkReadIssue
  repeat' split
  all_goals simp

@[simp] theorem walkCompletion_still (s : State) (l : Link) (tag : BitVec 6) (gen : BitVec 4) (status : BitVec 3) (last : Bool) (data : CplData) : Still s (walkCompletion s l tag gen status last data) := by
  refine Still.of ?_
  unfold walkCompletion
  repeat' split
  all_goals simp

@[simp] theorem cplTimeout_still (s : State) (tag : BitVec 6) : Still s (cplTimeout s tag) := by
  refine Still.of ?_
  unfold cplTimeout
  split <;> simp

@[simp] theorem xcfgRefetch_still (s : State) (i : Intid) : Still s (xcfgRefetch s i) := by
  refine Still.of ?_
  unfold xcfgRefetch
  dsimp only
  repeat' split
  all_goals simp

@[simp] theorem sweepStart_still (s : State) (n : Tenant) (tag : BitVec 6) : Still s (sweepStart s n tag) := Still.of (by simp [sweepStart])

@[simp] theorem spillSweep_still (s : State) (n : Tenant) (block : Nat) (access : SweepAccess) : Still s (spillSweep s n block access) := by
  refine Still.of ?_
  unfold spillSweep
  repeat' split
  all_goals simp

@[simp] theorem cmpLeave_still (s : State) (l : Link) (n : Note) : Still s (cmpLeave s l n) := by
  refine Still.of ?_
  unfold cmpLeave
  split <;> simp

@[simp] theorem noteSend_still (s : State) (l : Link) : Still s (noteSend s l) := by
  refine Still.of ?_
  unfold noteSend
  split <;> simp

@[simp] theorem cmpTimeoutDrop_still (s : State) (l : Link) : Still s (cmpTimeoutDrop s l) := by
  refine Still.of ?_
  unfold cmpTimeoutDrop
  split <;> simp

@[simp] theorem loseFault_still (s : State) (n : Tenant) (l : Link) : Still s (loseFault s n l) := Still.of (by simp [loseFault])

@[simp] theorem ringWrite_still (s : State) (v : RingVc) (n : Tenant) (evt : Bool) (ws : List Word) : Still s (ringWrite s v n evt ws) := Still.of (by simp [ringWrite])

@[simp] theorem popFlt_still (s : State) : Still s (popFlt s) := Still.of (by simp [popFlt])

@[simp] theorem popEvt_still (s : State) : Still s (popEvt s) := Still.of (by simp [popEvt])

@[simp] theorem sendFlt_still (s : State) : Still s (sendFlt s) := by
  refine Still.of ?_
  unfold sendFlt
  split <;> simp

@[simp] theorem sendEvt_still (s : State) : Still s (sendEvt s) := by
  refine Still.of ?_
  unfold sendEvt
  split <;> simp

@[simp] theorem faultRecordWrite_still (s : State) : Still s (faultRecordWrite s) := by
  refine Still.of ?_
  unfold faultRecordWrite
  repeat' split
  all_goals simp

@[simp] theorem eventRecordWrite_still (s : State) : Still s (eventRecordWrite s) := by
  refine Still.of ?_
  unfold eventRecordWrite
  repeat' split
  all_goals simp

@[simp] theorem applyScope_still (s : State) (born : Nat) (c : Scope) : Still s (applyScope s born c) := by
  refine Still.of ?_
  unfold applyScope
  refine foldS_still _ _ _ fun s a => ?_
  split <;> simp

@[simp] theorem invalidationServe_still (s : State) : Still s (invalidationServe s) := by
  refine Still.of ?_
  unfold invalidationServe
  repeat' split
  all_goals simp

@[simp] theorem pendInvalidate_still (s : State) (n : Tenant) (xcfg : Bool) (ranges : List (Nat × Nat)) (region : Bool) : Still s (pendInvalidate s n xcfg ranges region) := Still.of (by simp [pendInvalidate])

@[simp] theorem syncDone_still (s : State) (n : Tenant) : Still s (syncDone s n) := Still.of (by simp [syncDone])

@[simp] theorem freeBlocked_still (s : State) (n : Tenant) : Still s (freeBlocked s n) := Still.of (by simp [freeBlocked])

@[simp] theorem leaveWalk_still (s : State) (w : Walk) : Still s (leaveWalk s w) := Still.of (by simp [leaveWalk])

@[simp] theorem abandonWalk_still (s : State) (w : Walk) : Still s (abandonWalk s w) := by
  refine Still.of ?_
  unfold abandonWalk
  split <;> simp

@[simp] theorem abandonAll_still (s : State) (n : Tenant) : Still s (abandonAll s n) := Still.of (by simp [abandonAll])

@[simp] theorem discardInts_still (s : State) (n : Tenant) : Still s (discardInts s n) := Still.of (by simp [discardInts])

@[simp] theorem dropUnissued_still (s : State) (w : Walk) : Still s (dropUnissued s w) := by
  refine Still.of ?_
  unfold dropUnissued
  split <;> simp

@[simp] theorem disableTenant_still (s : State) (n : Tenant) : Still s (disableTenant s n) := Still.of (by simp [disableTenant])

@[simp] theorem tenantReset_still (s : State) (n : Tenant) : Still s (tenantReset s n) := Still.of (by simp [tenantReset])

@[simp] theorem dropQueued_still (n : Tenant) (s : State) (l : Link) : Still s (dropQueued n s l) := by
  refine Still.of ?_
  unfold dropQueued
  refine foldS_still _ _ _ fun s a => ?_
  split <;> simp

@[simp] theorem dropRecords_still (s : State) (n : Tenant) : Still s (dropRecords s n) := by
  refine Still.of ?_
  unfold dropRecords
  split <;> simp

@[simp] theorem resetForced_still (s : State) (n : Tenant) : Still s (resetForced s n) := by
  refine Still.of ?_
  unfold resetForced
  dsimp only
  split
  · simp
  · rfl

@[simp] theorem ringBad_still (s : State) (n : Tenant) : Still s (ringBad s n) := Still.of (by simp [ringBad])

@[simp] theorem headWrite_still (s : State) (n : Tenant) (evt : Bool) (be : BE) (data : Word) : Still s (headWrite s n evt be data) := Still.of (by simp [headWrite])

@[simp] theorem tailWrite_still (s : State) (n : Tenant) (evt : Bool) (be : BE) (data : Word) : Still s (tailWrite s n evt be data) := Still.of (by simp [tailWrite])

@[simp] theorem syncStore_still (s : State) (n : Tenant) (be : BE) (data : Word) : Still s (syncStore s n be data) := Still.of (by simp [syncStore])

@[simp] theorem accessRefused_still (s : State) (l : Link) (n : Tenant) (off : BitVec 12) (rd : Bool) : Still s (accessRefused s l n off rd) := Still.of (by simp [accessRefused])

@[simp] theorem setWait_still (s : State) (l : Link) (ws : List PWrite) : Still s (setWait s l ws) := Still.of (by simp [setWait])

@[simp] theorem countMalformed_still (s : State) (l : Link) : Still s (countMalformed s l) := Still.of (by simp [countMalformed])

@[simp] theorem sendCpl_still (s : State) (l : Link) (fn : Tenant) (rtag : BitVec 8) (status : Nat) (data : Option Word) : Still s (sendCpl s l fn rtag status data) := Still.of (by simp [sendCpl])

@[simp] theorem rrd_still (s : State) (l : Link) (fn : Tenant) (off : BitVec 12) (rtag : BitVec 8) (malformed : Bool) : Still s (rrd s l fn off rtag malformed) := Still.of (by simp [rrd])

@[simp] theorem wiredPass_still (s : State) (n : Nat) : Still s (wiredPass s n) := by
  refine Still.of ?_
  have hf : ∀ v, { s with irq := { s.irq with wFilt := putBit96 s.irq.wFilt n v, wTran := putBit96 s.irq.wTran n false } }.still = s.still :=
    fun _ => rfl
  unfold wiredPass
  dsimp only
  split
  · split
    · exact (evT_still _ _ _).1.trans (hf _)
    · split
      · exact hf _
      · exact (evF_still _ _).1.trans (hf _)
  · exact hf _

@[simp] theorem wiredDetect_still (s : State) (n : Nat) : Still s (wiredDetect s n) := by
  refine Still.of ?_
  unfold wiredDetect
  split
  · rfl
  · dsimp only
    split
    · exact (wiredPass_still _ _).1.trans rfl
    · rfl

@[simp] theorem wirqTransition_still (s : State) (n : Nat) (level : Bool) : Still s (wirqTransition s n level) := by
  refine Still.of ?_
  unfold wirqTransition
  split
  · exact (wiredDetect_still _ _).1.trans rfl
  · rfl

@[simp] theorem wirqFilterPass_still (s : State) (n : Nat) : Still s (wirqFilterPass s n) := Still.of (by simp [wirqFilterPass])

@[simp] theorem wiredCommit_still (s : State) (n : Nat) (w0 w1 : Word) : Still s (wiredCommit s n w0 w1) := Still.of (by simp [wiredCommit])

@[simp] theorem setLl_still (s : State) (l : Link) (f : LinkLayer → LinkLayer) : Still s (setLl s l f) := Still.of (by simp [setLl])

@[simp] theorem lkEvt_still (s : State) (l : Link) (f : BitVec 24) : Still s (lkEvt s l f) := Still.of (by simp [lkEvt])

@[simp] theorem mapLanes_still (s : State) (l : Link) (f : LaneRec → LaneRec) : Still s (mapLanes s l f) := Still.of (by simp [mapLanes])

@[simp] theorem refreshAlign_still (s : State) (l : Link) : Still s (refreshAlign s l) := Still.of (by simp [refreshAlign])

@[simp] theorem dropLanes_still (s : State) (l : Link) : Still s (dropLanes s l) := Still.of (by simp [dropLanes])

@[simp] theorem searchLanes_still (s : State) (l : Link) : Still s (searchLanes s l) := Still.of (by simp [searchLanes])

@[simp] theorem loseRing_still (l : Link) (s : State) (t : Tlp) : Still s (loseRing l s t) := by
  refine Still.of ?_
  unfold loseRing
  split <;> simp

@[simp] theorem faultReads_still (s : State) (l : Link) : Still s (faultReads s l) := Still.of (by simp [faultReads])

@[simp] theorem dropPost_still (s : State) (w : Walk) : Still s (dropPost s w) := Still.of (by simp [dropPost])

@[simp] theorem dropPosts_still (s : State) (l : Link) : Still s (dropPosts s l) := by
  refine Still.of ?_
  unfold dropPosts
  dsimp only
  repeat' split
  all_goals simp

@[simp] theorem dropNotes_still (s : State) (l : Link) : Still s (dropNotes s l) := Still.of (by simp [dropNotes])

@[simp] theorem goDown_still (s : State) (l : Link) : Still s (goDown s l) := by
  refine Still.of ?_
  unfold goDown
  simp

@[simp] theorem linkFail_still (s : State) (l : Link) (cause : BitVec 3) : Still s (linkFail s l cause) := Still.of (by simp [linkFail])

@[simp] theorem failPass_still (s : State) (l : Link) : Still s (failPass s l) := Still.of (by simp [failPass])

@[simp] theorem failRate_still (s : State) (l : Link) : Still s (failRate s l) := Still.of (by simp [failRate])

@[simp] theorem failExit_still (s : State) (l : Link) : Still s (failExit s l) := Still.of (by simp [failExit])

@[simp] theorem reachEvents_still (s : State) (l : Link) (training : Bool) : Still s (reachEvents s l training) := Still.of (by simp [reachEvents])

@[simp] theorem startRegroup_still (s : State) (l : Link) (cap : Nat) (rate : Option (BitVec 2)) : Still s (startRegroup s l cap rate) := Still.of (by simp [startRegroup])

@[simp] theorem regroupAgain_still (s : State) (l : Link) : Still s (regroupAgain s l) := Still.of (by simp [regroupAgain])

@[simp] theorem regroupEnds_still (s : State) (l : Link) : Still s (regroupEnds s l) := by
  refine Still.of ?_
  unfold regroupEnds
  dsimp only
  repeat' split
  all_goals simp

@[simp] theorem enterActive_still (s : State) (l : Link) : Still s (enterActive s l) := by
  refine Still.of ?_
  unfold enterActive
  dsimp only
  repeat' split
  all_goals simp

@[simp] theorem takeMode_still (s : State) (l : Link) (p : Nat) : Still s (takeMode s l p) := Still.of (by simp [takeMode])

@[simp] theorem takeModes_still (s : State) (l : Link) : Still s (takeModes s l) := Still.of (by simp [takeModes])

@[simp] theorem takePeak_still (s : State) (l : Link) (p : Nat) (found : BitVec 4) : Still s (takePeak s l p found) := Still.of (by simp [takePeak])

@[simp] theorem takePeaks_still (s : State) (l : Link) (peaks : BitVec 16) : Still s (takePeaks s l peaks) := Still.of (by simp [takePeaks])

@[simp] theorem lockGone_still (s : State) (l : Link) (p : Nat) : Still s (lockGone s l p) := by
  refine Still.of ?_
  unfold lockGone
  dsimp only
  repeat' split
  all_goals simp

@[simp] theorem noteShake_still (s : State) (l : Link) (g : Grain) : Still s (noteShake s l g) := Still.of (by simp [noteShake])

@[simp] theorem trainingGrainIn_still (s : State) (l : Link) (g : Grain) : Still s (trainingGrainIn s l g) := Still.of (by simp [trainingGrainIn])

@[simp] theorem closeCaps_still (s : State) (l : Link) : Still s (closeCaps s l) := Still.of (by simp [closeCaps])

@[simp] theorem grainEvent_still (l : Link) (p : Nat) (s : State) (ev : Option Grain) : Still s (grainEvent l p s ev) := by
  refine Still.of ?_
  unfold grainEvent
  repeat' split
  all_goals simp

@[simp] theorem laneStepped_still (l : Link) (p : Nat) (s : State) (b : LaneRec) (ev : List (Option Grain)) : Still s (laneStepped l p s b ev) := Still.of (by simp [laneStepped])

@[simp] theorem laneGo_still (l : Link) (p : Nat) (n : Nat) (s : State) :
    Still s (laneGo l p n s) := by
  induction n generalizing s with
  | zero => exact Still.of rfl
  | succ n ih =>
    refine Still.of ?_
    unfold laneGo
    split
    · rfl
    · simp [(ih _).1]

@[simp] theorem laneFeed_still (s : State) (l : Link) (p : Nat) (bits : List Bool) : Still s (laneFeed s l p bits) := Still.of (by simp [laneFeed])

@[simp] theorem deskewGroup_still (s : State) (l : Link) : Still s (deskewGroup s l) := Still.of (by simp [deskewGroup])

@[simp] theorem lineIn_still (s : State) (l : Link) (lines : Lines) : Still s (lineIn s l lines) := by
  refine Still.of ?_
  unfold lineIn
  dsimp only
  rw [(deskewGroup_still _ _).1]
  refine foldS_still _ _ _ fun s p => ?_
  split <;> simp

@[simp] theorem laneIn_still (s : State) (l : Link) (p : Nat) (bits : List Bool) : Still s (laneIn s l p bits) := Still.of (by simp [laneIn])

@[simp] theorem shakeTp2_still (s : State) (l : Link) (late : Bool) : Still s (shakeTp2 s l late) := Still.of (by simp [shakeTp2])

@[simp] theorem shakeCaps_still (s : State) (l : Link) : Still s (shakeCaps s l) := by
  refine Still.of ?_
  unfold shakeCaps
  dsimp only
  repeat' split
  all_goals simp

@[simp] theorem shake_still (s : State) (l : Link) (late : Bool) : Still s (shake s l late) := Still.of (by simp [shake])

@[simp] theorem beginTp2_still (s : State) (l : Link) : Still s (beginTp2 s l) := Still.of (by simp [beginTp2])

@[simp] theorem alignExit_still (s : State) (l : Link) : Still s (alignExit s l) := Still.of (by simp [alignExit])

@[simp] theorem capsExit_still (s : State) (l : Link) : Still s (capsExit s l) := Still.of (by simp [capsExit])

@[simp] theorem alignRateExit_still (s : State) (l : Link) : Still s (alignRateExit s l) := Still.of (by simp [alignRateExit])

@[simp] theorem regroupExit_still (s : State) (l : Link) : Still s (regroupExit s l) := Still.of (by simp [regroupExit])

@[simp] theorem stepExit_still (s : State) (l : Link) (info : TrainInfo) : Still s (stepExit s l info) := by
  refine Still.of ?_
  unfold stepExit
  dsimp only
  repeat' split
  all_goals simp

@[simp] theorem trainingStepExit_still (s : State) (l : Link) (info : TrainInfo) : Still s (trainingStepExit s l info) := Still.of (by simp [trainingStepExit])

@[simp] theorem trainingStepTimeout_still (s : State) (l : Link) : Still s (trainingStepTimeout s l) := Still.of (by simp [trainingStepTimeout])

@[simp] theorem detectPoll_still (s : State) (l : Link) (mask : BitVec 4) : Still s (detectPoll s l mask) := Still.of (by simp [detectPoll])

@[simp] theorem trainHoldoffEnd_still (s : State) (l : Link) : Still s (trainHoldoffEnd s l) := Still.of (by simp [trainHoldoffEnd])

@[simp] theorem electricalIdleSeen_still (s : State) (l : Link) : Still s (electricalIdleSeen s l) := by
  refine Still.of ?_
  unfold electricalIdleSeen
  dsimp only
  repeat' split
  all_goals simp

@[simp] theorem grainLock_still (s : State) (l : Link) (p : Nat) (peak : BitVec 4) (bits : List Bool) : Still s (grainLock s l p peak bits) := Still.of (by simp [grainLock])

@[simp] theorem laneLockLoss_still (s : State) (l : Link) (p : Nat) (cause : LockLossCause) : Still s (laneLockLoss s l p cause) := by
  refine Still.of ?_
  unfold laneLockLoss
  split <;> simp

@[simp] theorem laneReadmit_still (s : State) (l : Link) (p : Nat) : Still s (laneReadmit s l p) := Still.of (by simp [laneReadmit])

@[simp] theorem equaliserTracking_still (s : State) (l : Link) (p : Nat) (up : Bool) : Still s (equaliserTracking s l p up) := Still.of (by simp [equaliserTracking])

@[simp] theorem regroupStart_still (s : State) (l : Link) : Still s (regroupStart s l) := Still.of (by simp [regroupStart])

@[simp] theorem regroupGrain_still (s : State) (l : Link) (lines : Lines) : Still s (regroupGrain s l lines) := Still.of (by simp [regroupGrain])

@[simp] theorem regroupTimeout_still (s : State) (l : Link) : Still s (regroupTimeout s l) := Still.of (by simp [regroupTimeout])

@[simp] theorem linkDown_still (s : State) (l : Link) (lines : Lines) : Still s (linkDown s l lines) := Still.of (by simp [linkDown])

@[simp] theorem doRetrain_still (s : State) (l : Link) : Still s (doRetrain s l) := Still.of (by simp [doRetrain])

@[simp] theorem commitActive_still (s : State) (l : Link) (r : LinkRec) : Still s (commitActive s l r) := by
  refine Still.of ?_
  unfold commitActive
  split <;> simp

@[simp] theorem commitRegroup_still (s : State) (l : Link) (r : LinkRec) : Still s (commitRegroup s l r) := by
  refine Still.of ?_
  unfold commitRegroup
  split <;> simp

@[simp] theorem linkCommit_still (s : State) (l : Link) (old : Word) : Still s (linkCommit s l old) := by
  refine Still.of ?_
  unfold linkCommit
  dsimp only
  repeat' split
  all_goals simp

@[simp] theorem laneCommit_still (s : State) (idx : Nat) (old : Word) : Still s (laneCommit s idx old) := Still.of (by simp [laneCommit])

@[simp] theorem nvSpoil_still (s : State) (sec : Nat) : Still s (nvSpoil s sec) := Still.of rfl

@[simp] theorem linkPwrEntry_still (s : State) (l : Link) : Still s (linkPwrEntry s l) := Still.of (by simp [linkPwrEntry])

@[simp] theorem coastLanes_still (s : State) (l : Link) : Still s (coastLanes s l) := Still.of (by simp [coastLanes])

@[simp] theorem enterIdle_still (s : State) (l : Link) (step : Nat) : Still s (enterIdle s l step) := Still.of (by simp [enterIdle])

@[simp] theorem enterFallow_still (s : State) (l : Link) (st : LinkState) (step : Nat) : Still s (enterFallow s l st step) := Still.of (by simp [enterFallow])

@[simp] theorem entryMarkAnswer_still (s : State) (l : Link) : Still s (entryMarkAnswer s l) := by
  refine Still.of ?_
  unfold entryMarkAnswer
  dsimp only
  repeat' split
  all_goals simp

@[simp] theorem cancelEntry_still (s : State) (l : Link) : Still s (cancelEntry s l) := Still.of (by simp [cancelEntry])

@[simp] theorem entryTimeout_still (s : State) (l : Link) : Still s (entryTimeout s l) := Still.of (by simp [entryTimeout])

@[simp] theorem exitDone_still (s : State) (l : Link) : Still s (exitDone s l) := Still.of (by simp [exitDone])

@[simp] theorem idleExit_still (s : State) (l : Link) (byEndpoint : Bool) : Still s (idleExit s l byEndpoint) := Still.of (by simp [idleExit])

@[simp] theorem fallowActive_still (s : State) (l : Link) : Still s (fallowActive s l) := by
  refine Still.of ?_
  unfold fallowActive
  dsimp only
  repeat' split
  all_goals simp

@[simp] theorem fallowExitStep_still (s : State) (l : Link) (step : ExitStep) : Still s (fallowExitStep s l step) := by
  refine Still.of ?_
  unfold fallowExitStep
  dsimp only
  repeat' split
  all_goals simp

@[simp] theorem powerExitFail_still (s : State) (l : Link) : Still s (powerExitFail s l) := Still.of (by simp [powerExitFail])

@[simp] theorem replayNow_still (s : State) (l : Link) : Still s (replayNow s l) := Still.of (by simp [replayNow])

@[simp] theorem freed_still (s : State) (l : Link) : Still s (freed s l) := Still.of (by simp [freed])

@[simp] theorem takeAck_still (s : State) (l : Link) (q : BitVec 12) : Still s (takeAck s l q) := by
  refine Still.of ?_
  unfold takeAck
  split <;> simp

@[simp] theorem ackReceive_still (s : State) (l : Link) (q : BitVec 12) : Still s (ackReceive s l q) := Still.of (by simp [ackReceive])

@[simp] theorem takeNak_still (s : State) (l : Link) (q : BitVec 12) : Still s (takeNak s l q) := by
  refine Still.of ?_
  unfold takeNak
  dsimp only
  repeat' split
  all_goals simp

@[simp] theorem nakReceive_still (s : State) (l : Link) (q : BitVec 12) : Still s (nakReceive s l q) := Still.of (by simp [nakReceive])

@[simp] theorem creditReceive_still (s : State) (l : Link) (vc : Nat) (cum : BitVec 12) : Still s (creditReceive s l vc cum) := Still.of (by simp [creditReceive])

@[simp] theorem replayTimeout_still (s : State) (l : Link) : Still s (replayTimeout s l) := Still.of (by simp [replayTimeout])

@[simp] theorem creditRepeat_still (s : State) (l : Link) : Still s (creditRepeat s l) := Still.of (by simp [creditRepeat])

@[simp] theorem actLcp_still (s : State) (l : Link) (w0 : Word) : Still s (actLcp s l w0) := Still.of (by simp [actLcp])

end Sys2Proof.Machine
end

section
/-!
PROOFS. What the other parts of the model leave alone: the store's bytes and the mode.
-/
namespace Sys2Proof.Machine

@[simp] theorem foldS_mem {α : Type} (f : State → α → State) (l : List α) (s : State) (h : ∀ s a, (f s a).nv.mem = s.nv.mem) :
    (foldS f s l).nv.mem = s.nv.mem := foldS_keeps (·.nv.mem) f l s h

@[simp] theorem foldS_mode {α : Type} (f : State → α → State) (l : List α) (s : State) (h : ∀ s a, (f s a).pw.mode = s.pw.mode) :
    (foldS f s l).pw.mode = s.pw.mode := foldS_keeps (·.pw.mode) f l s h

@[simp] theorem ite_mem (c : Prop) [Decidable c] (a b : State) : (if c then a else b).nv.mem = if c then a.nv.mem else b.nv.mem := by
  split <;> rfl

@[simp] theorem ite_mode (c : Prop) [Decidable c] (a b : State) : (if c then a else b).pw.mode = if c then a.pw.mode else b.pw.mode := by
  split <;> rfl

@[simp] theorem mbRefuse_held (s : State) (code : BitVec 4) (rd : Bool) (addr : BitVec 14) : (mbRefuse s code rd addr).nv.mem = s.nv.mem ∧ (mbRefuse s code rd addr).pw.mode = s.pw.mode := by simp [mbRefuse]

@[simp] theorem zeroBoth_held (s : State) (k : Nat) : (zeroBoth s k).nv.mem = s.nv.mem ∧ (zeroBoth s k).pw.mode = s.pw.mode := ⟨rfl, rfl⟩

@[simp] theorem defaultStep_held (s : State) (n : Tenant) : (defaultStep s n).nv.mem = s.nv.mem ∧ (defaultStep s n).pw.mode = s.pw.mode := by simp [defaultStep]

@[simp] theorem shadowMerge_held (s : State) (k : Nat) (hl0 : Word) (mask data : Word) : (shadowMerge s k hl0 mask data).nv.mem = s.nv.mem ∧ (shadowMerge s k hl0 mask data).pw.mode = s.pw.mode := by simp [shadowMerge]

theorem applyWrite_held (s : State) (l : Link) (w : PWrite) (t : State) (h : applyWrite s l w = some t) : t.nv.mem = s.nv.mem ∧ t.pw.mode = s.pw.mode := by
  unfold applyWrite at h
  try dsimp only at h
  repeat' (split at h)
  all_goals first
    | (simp at h; done)
    | (simp only [Option.some.injEq] at h; subst h; simp)

theorem decodeWrite_held (s : State) (l : Link) (w : PWrite) (t : State) (h : decodeWrite s l w = some t) : t.nv.mem = s.nv.mem ∧ t.pw.mode = s.pw.mode := by
  unfold decodeWrite at h
  repeat' (split at h)
  all_goals first
    | exact applyWrite_held _ _ _ _ h
    | (simp only [Option.some.injEq] at h; subst h; simp)

theorem takeWrite_held (s : State) (l : Link) (w : PWrite) (t : State) (h : takeWrite s l w = some t) : t.nv.mem = s.nv.mem ∧ t.pw.mode = s.pw.mode := by
  unfold takeWrite at h
  split at h
  · cases h; simp
  · exact decodeWrite_held _ _ _ _ h

@[simp] theorem postedWrite_held (s : State) (l : Link) (w : PWrite) : (postedWrite s l w).nv.mem = s.nv.mem ∧ (postedWrite s l w).pw.mode = s.pw.mode := by
  unfold postedWrite
  (try dsimp only)
  repeat' split
  all_goals first
    | (have h := takeWrite_held _ _ _ _ ‹takeWrite _ _ _ = some _›; simp [h])
    | simp

@[simp] theorem drainWait_held (l : Link) (n : Nat) (s : State) : (drainWait s l n).nv.mem = s.nv.mem ∧ (drainWait s l n).pw.mode = s.pw.mode := by
  induction n generalizing s with
  | zero => simp [drainWait]
  | succ n ih =>
    unfold drainWait
    repeat' split
    all_goals first
      | (have h := takeWrite_held _ _ _ _ ‹takeWrite _ _ _ = some _›; simp [ih, h])
      | simp

@[simp] theorem sowAdmit_held (s : State) (l : Link) : (sowAdmit s l).nv.mem = s.nv.mem ∧ (sowAdmit s l).pw.mode = s.pw.mode := by
  unfold sowAdmit
  (try dsimp only)
  repeat' split
  all_goals first
    | (have h := takeWrite_held _ _ _ _ ‹takeWrite _ _ _ = some _›; simp [h])
    | simp

@[simp] theorem drainInv_held (s : State) : (drainInv s).nv.mem = s.nv.mem ∧ (drainInv s).pw.mode = s.pw.mode := by simp [drainInv]

@[simp] theorem hostWrite_held (s : State) (l : Link) (fn : Tenant) (off : BitVec 12) (be : BE) (data : Word) : (hostWrite s l fn off be data).nv.mem = s.nv.mem ∧ (hostWrite s l fn off be data).pw.mode = s.pw.mode := by simp [hostWrite]

@[simp] theorem malformedTlp_held (s : State) (l : Link) (vc g : Nat) : (malformedTlp s l vc g).nv.mem = s.nv.mem ∧ (malformedTlp s l vc g).pw.mode = s.pw.mode := by simp [malformedTlp]

@[simp] theorem rwr_held (s : State) (l : Link) (fn : Tenant) (off : BitVec 12) (be : BE) (data : Word) (malformed : Bool) : (rwr s l fn off be data malformed).nv.mem = s.nv.mem ∧ (rwr s l fn off be data malformed).pw.mode = s.pw.mode := by simp [rwr]

@[simp] theorem tbFlag_held (s : State) (cause : BitVec 2) : (tbFlag s cause).nv.mem = s.nv.mem ∧ (tbFlag s cause).pw.mode = s.pw.mode := ⟨rfl, rfl⟩

@[simp] theorem tbLoss_held (s : State) : (tbLoss s).nv.mem = s.nv.mem ∧ (tbLoss s).pw.mode = s.pw.mode := by simp [tbLoss]

@[simp] theorem tbMissed_held (s : State) : (tbMissed s).nv.mem = s.nv.mem ∧ (tbMissed s).pw.mode = s.pw.mode := by
  unfold tbMissed
  split <;> simp

@[simp] theorem tbUnaccepted_held (s : State) : (tbUnaccepted s).nv.mem = s.nv.mem ∧ (tbUnaccepted s).pw.mode = s.pw.mode := by simp [tbUnaccepted]

@[simp] theorem frameBoundary_held (s : State) : (frameBoundary s).nv.mem = s.nv.mem ∧ (frameBoundary s).pw.mode = s.pw.mode := by simp [frameBoundary]

@[simp] theorem fsyncIn_held (s : State) (d : Int) : (fsyncIn s d).nv.mem = s.nv.mem ∧ (fsyncIn s d).pw.mode = s.pw.mode := by simp [fsyncIn]

@[simp] theorem tbStep_held (s : State) (p : Nat) : (tbStep s p).nv.mem = s.nv.mem ∧ (tbStep s p).pw.mode = s.pw.mode := by simp [tbStep]

@[simp] theorem fsyncOut_held (s : State) (p gap : Nat) : (fsyncOut s p gap).nv.mem = s.nv.mem ∧ (fsyncOut s p gap).pw.mode = s.pw.mode := by simp [fsyncOut]

@[simp] theorem tbSource_held (s : State) (old new : Bool) : (tbSource s old new).nv.mem = s.nv.mem ∧ (tbSource s old new).pw.mode = s.pw.mode := by simp [tbSource]

@[simp] theorem eccTake_held (s : State) (e : Ecc) (a n : Nat) : (eccTake s e a n).nv.mem = s.nv.mem ∧ (eccTake s e a n).pw.mode = s.pw.mode := by
  unfold eccTake
  split <;> simp

@[simp] theorem setAreaPos_held (s : State) (a : Area) (p : AreaPos) : (setAreaPos s a p).nv.mem = s.nv.mem ∧ (setAreaPos s a p).pw.mode = s.pw.mode := by
  unfold setAreaPos
  split <;> simp

@[simp] theorem learnStore_held (s : State) : (learnStore s).nv.mem = s.nv.mem ∧ (learnStore s).pw.mode = s.pw.mode := ⟨rfl, rfl⟩

@[simp] theorem loadCal_held (s : State) : (loadCal s).nv.mem = s.nv.mem ∧ (loadCal s).pw.mode = s.pw.mode := by
  unfold loadCal
  split <;> simp

@[simp] theorem setSlot_held (s : State) (k : Nat) (x : KeySlot) : (setSlot s k x).nv.mem = s.nv.mem ∧ (setSlot s k x).pw.mode = s.pw.mode := ⟨rfl, rfl⟩

@[simp] theorem setCtx_held (s : State) (c : Nat) (x : Ctx) : (setCtx s c x).nv.mem = s.nv.mem ∧ (setCtx s c x).pw.mode = s.pw.mode := ⟨rfl, rfl⟩

@[simp] theorem settleSlots_held (s : State) : (settleSlots s).nv.mem = s.nv.mem ∧ (settleSlots s).pw.mode = s.pw.mode := by simp [settleSlots]

@[simp] theorem putKey_held (s : State) (k : Nat) (key : Key) : (putKey s k key).nv.mem = s.nv.mem ∧ (putKey s k key).pw.mode = s.pw.mode := by simp [putKey]

@[simp] theorem eraseSlot_held (s : State) (k : Nat) : (eraseSlot s k).nv.mem = s.nv.mem ∧ (eraseSlot s k).pw.mode = s.pw.mode := by simp [eraseSlot]

@[simp] theorem loadKeys_held (s : State) : (loadKeys s).nv.mem = s.nv.mem ∧ (loadKeys s).pw.mode = s.pw.mode := by
  unfold loadKeys
  split
  · exact ⟨rfl, rfl⟩
  · constructor
    · rw [ite_mem, (sqSet_still _ _ _).2.1, ite_self]
      refine (foldS_mem _ _ _ fun s k => ?_).trans rfl
      split <;> simp
    · rw [ite_mode, (sqSet_still _ _ _).2.2.1, ite_self]
      refine (foldS_mode _ _ _ fun s k => ?_).trans rfl
      split <;> simp

@[simp] theorem shadowsReset_held (s : State) : (shadowsReset s).nv.mem = s.nv.mem ∧ (shadowsReset s).pw.mode = s.pw.mode := ⟨rfl, rfl⟩

@[simp] theorem writeRecords_held (s : State) (rs : List Rec) : (writeRecords s rs).nv.mem = s.nv.mem ∧ (writeRecords s rs).pw.mode = s.pw.mode := by simp [writeRecords]

@[simp] theorem actTlp_held (s : State) (l : Link) (ws : List Word) : (actTlp s l ws).nv.mem = s.nv.mem ∧ (actTlp s l ws).pw.mode = s.pw.mode := by
  unfold actTlp
  dsimp only
  constructor <;> simp only [ite_mem, ite_mode, rrd_still, postedWrite_held, walkCompletion_still, claimed_still,
    returned_still, returnedBelow_still, eoiMsg_still, prioMsg_still, stateMsg_still, signalMsg_still, privMsg_still, ite_self]

@[simp] theorem actMalformed_held (s : State) (l : Link) (ws : List Word) : (actMalformed s l ws).nv.mem = s.nv.mem ∧ (actMalformed s l ws).pw.mode = s.pw.mode := by simp [actMalformed]

@[simp] theorem acceptTlp_held (s : State) (l : Link) (ws : List Word) : (acceptTlp s l ws).nv.mem = s.nv.mem ∧ (acceptTlp s l ws).pw.mode = s.pw.mode := by
  unfold acceptTlp
  constructor <;> simp only [ite_mem, ite_mode, linkFail_still, actTlp_held, actMalformed_held, takeAck_still, setLl_still,
    setLink_nv, setLink_pw, ite_self]

@[simp] theorem judge_held (s : State) (l : Link) (ws : List Word) : (judge s l ws).nv.mem = s.nv.mem ∧ (judge s l ws).pw.mode = s.pw.mode := by simp [judge]

theorem frameStep_held (s : State) (l : Link) (t : State) (h : frameStep s l = some t) : t.nv.mem = s.nv.mem ∧ t.pw.mode = s.pw.mode := by
  unfold frameStep at h
  dsimp only at h
  split at h
  · cases h
  · split at h
    · cases h; simp
    · split at h
      · cases h
      · split at h
        · cases h; simp
        · cases h; split <;> simp

@[simp] theorem frameOn_held (l : Link) (n : Nat) (s : State) : (frameOn l n s).nv.mem = s.nv.mem ∧ (frameOn l n s).pw.mode = s.pw.mode := by
  induction n generalizing s with
  | zero => exact ⟨rfl, rfl⟩
  | succ n ih =>
    unfold frameOn
    split
    · have h := frameStep_held _ _ _ ‹frameStep _ _ = some _›; simp [ih, h]
    · simp

@[simp] theorem destripe_held (l : Link) (n : Nat) (s : State) : (destripe l n s).nv.mem = s.nv.mem ∧ (destripe l n s).pw.mode = s.pw.mode := by
  induction n generalizing s with
  | zero => exact ⟨rfl, rfl⟩
  | succ n ih =>
    unfold destripe
    split
    · split
      · simp
      · have h := nextGrain_still _ _ _ ‹nextGrain _ _ = some _›
        simp only [] at h
        simp [ih, h]
    · simp

@[simp] theorem tlpReceive_held (s : State) (l : Link) (lines : Lines) : (tlpReceive s l lines).nv.mem = s.nv.mem ∧ (tlpReceive s l lines).pw.mode = s.pw.mode := by simp [tlpReceive]

@[simp] theorem replyNow_held (s : State) (code : BitVec 8) (d0 d1 d2 d3 : Word) : (replyNow s code d0 d1 d2 d3).nv.mem = s.nv.mem ∧ (replyNow s code d0 d1 d2 d3).pw.mode = s.pw.mode := by
  unfold replyNow
  split <;> simp

@[simp] theorem setHead_held (s : State) (its : List NvItem) : (setHead s its).nv.mem = s.nv.mem ∧ (setHead s its).pw.mode = s.pw.mode := by
  unfold setHead
  split <;> simp

@[simp] theorem failWork_held (s : State) : (failWork s).nv.mem = s.nv.mem ∧ (failWork s).pw.mode = s.pw.mode := by
  unfold failWork
  split <;> simp

@[simp] theorem startApply_held (s : State) (slot : BitVec 1) (n : Word) (kind : ApplyKind) : (startApply s slot n kind).nv.mem = s.nv.mem ∧ (startApply s slot n kind).pw.mode = s.pw.mode := ⟨rfl, rfl⟩

@[simp] theorem bootApply_held (s : State) : (bootApply s).nv.mem = s.nv.mem ∧ (bootApply s).pw.mode = s.pw.mode := by
  unfold bootApply
  repeat' split
  all_goals simp

@[simp] theorem retireSector_held (s : State) (q : Nat) : (retireSector s q).nv.mem = s.nv.mem ∧ (retireSector s q).pw.mode = s.pw.mode := by simp [retireSector]

@[simp] theorem ckptEnds_held (s : State) : (ckptEnds s).nv.mem = s.nv.mem ∧ (ckptEnds s).pw.mode = s.pw.mode := ⟨rfl, rfl⟩

@[simp] theorem keyDone_held (s : State) (slot : Nat) (key : Option Key) : (keyDone s slot key).nv.mem = s.nv.mem ∧ (keyDone s slot key).pw.mode = s.pw.mode := by
  unfold keyDone
  split <;> simp

@[simp] theorem engineNeed_held (s : State) : (engineNeed s).nv.mem = s.nv.mem ∧ (engineNeed s).pw.mode = s.pw.mode := by simp [engineNeed]

@[simp] theorem stewardOpens_held (s : State) (c : Nat) (slot : Option (BitVec 4)) (turns : Nat) : (stewardOpens s c slot turns).nv.mem = s.nv.mem ∧ (stewardOpens s c slot turns).pw.mode = s.pw.mode := by simp [stewardOpens]

@[simp] theorem stewardCloses_held (s : State) : (stewardCloses s).nv.mem = s.nv.mem ∧ (stewardCloses s).pw.mode = s.pw.mode := by
  unfold stewardCloses
  split <;> simp

@[simp] theorem engineFails_held (s : State) (code : BitVec 8) (d0 : Word) : (engineFails s code d0).nv.mem = s.nv.mem ∧ (engineFails s code d0).pw.mode = s.pw.mode := by simp [engineFails]

theorem engineWork_held (s : State) (slot : Option (BitVec 4)) (turns : Nat) (code : BitVec 8) (d0 : Word)
    (rest : List NvItem) (t : State) (h : engineWork s slot turns code d0 rest = some t) : t.nv.mem = s.nv.mem ∧ t.pw.mode = s.pw.mode := by
  unfold engineWork at h
  split at h
  · split at h
    · cases h; simp
    · cases hf : freeCtx s with
      | none => simp [hf] at h
      | some c => rw [hf] at h; cases h; simp
  · dsimp only at h
    split at h
    · cases h
    · cases h; split <;> simp

@[simp] theorem doItem_held (s : State) (i : NvItem) : (doItem s i).nv.mem = s.nv.mem ∧ (doItem s i).pw.mode = s.pw.mode := by
  cases i <;> (unfold doItem; simp)

@[simp] theorem startOp_held (s : State) (c : Nat) (op : NvOp) : (startOp s c op).nv.mem = s.nv.mem ∧ (startOp s c op).pw.mode = s.pw.mode := by
  unfold startOp
  (try dsimp only)
  repeat' split
  all_goals simp

theorem askOp_held (s : State) (c : Nat) (op : NvOp) (t : State) (h : askOp s c op = some t) : t.nv.mem = s.nv.mem ∧ t.pw.mode = s.pw.mode := by
  unfold askOp at h
  try dsimp only at h
  repeat' (split at h)
  all_goals first
    | (simp at h; done)
    | (simp only [Option.some.injEq] at h; subst h; simp)

theorem pumpOne_held (s : State) (t : State) (h : pumpOne s = some t) : t.nv.mem = s.nv.mem ∧ t.pw.mode = s.pw.mode := by
  unfold pumpOne at h
  (try dsimp only at h)
  repeat' (split at h)
  all_goals first
    | exact askOp_held _ _ _ _ h
    | exact engineWork_held _ _ _ _ _ _ _ h
    | (simp at h; done)
    | (simp only [Option.some.injEq] at h; subst h; simp)

@[simp] theorem pumpN_held (n : Nat) (s : State) : (pumpN n s).nv.mem = s.nv.mem ∧ (pumpN n s).pw.mode = s.pw.mode := by
  induction n generalizing s with
  | zero => exact ⟨rfl, rfl⟩
  | succ n ih =>
    unfold pumpN
    repeat' split
    all_goals first
      | (have h := pumpOne_held _ _ ‹pumpOne _ = some _›; simp [ih, h])
      | simp

@[simp] theorem pump_held (s : State) : (pump s).nv.mem = s.nv.mem ∧ (pump s).pw.mode = s.pw.mode := by
  unfold pump; split <;> simp

@[simp] theorem programNext_held (s : State) (good : Bool) : (programNext s good).nv.mem = s.nv.mem ∧ (programNext s good).pw.mode = s.pw.mode := by
  unfold programNext
  split <;> simp

@[simp] theorem opFree_held (s : State) (client : Nat) : (opFree s client).nv.mem = s.nv.mem ∧ (opFree s client).pw.mode = s.pw.mode := by simp [opFree]

@[simp] theorem eraseNext_held (s : State) (q : Nat) (ok again : Bool) (rest : List NvItem) : (eraseNext s q ok again rest).nv.mem = s.nv.mem ∧ (eraseNext s q ok again rest).pw.mode = s.pw.mode := by simp [eraseNext]

@[simp] theorem journalCheckpoint_held (s : State) : (journalCheckpoint s).nv.mem = s.nv.mem ∧ (journalCheckpoint s).pw.mode = s.pw.mode := by simp [journalCheckpoint]

@[simp] theorem gaspArming_held (s : State) : (gaspArming s).nv.mem = s.nv.mem ∧ (gaspArming s).pw.mode = s.pw.mode := by simp [gaspArming]

@[simp] theorem discardWork_held (s : State) : (discardWork s).nv.mem = s.nv.mem ∧ (discardWork s).pw.mode = s.pw.mode := by simp [discardWork]

@[simp] theorem hstatCode_held (s : State) (code : Nat) : (hstatCode s code).nv.mem = s.nv.mem ∧ (hstatCode s code).pw.mode = s.pw.mode := ⟨rfl, rfl⟩

@[simp] theorem auOpen_held (s : State) (alg slot : Nat) : (auOpen s alg slot).nv.mem = s.nv.mem ∧ (auOpen s alg slot).pw.mode = s.pw.mode := by
  unfold auOpen
  repeat' split
  all_goals simp

@[simp] theorem overrun_held (s : State) : (overrun s).nv.mem = s.nv.mem ∧ (overrun s).pw.mode = s.pw.mode := ⟨rfl, rfl⟩

@[simp] theorem auFeed_held (s : State) (c n : Nat) (last sig : Bool) : (auFeed s c n last sig).nv.mem = s.nv.mem ∧ (auFeed s c n last sig).pw.mode = s.pw.mode := by simp [auFeed]

@[simp] theorem auClose_held (s : State) (c : Nat) : (auClose s c).nv.mem = s.nv.mem ∧ (auClose s c).pw.mode = s.pw.mode := by simp [auClose]

@[simp] theorem auKeyErase_held (s : State) (slot : Nat) : (auKeyErase s slot).nv.mem = s.nv.mem ∧ (auKeyErase s slot).pw.mode = s.pw.mode := by simp [auKeyErase]

@[simp] theorem engineTurn_held (s : State) : (engineTurn s).nv.mem = s.nv.mem ∧ (engineTurn s).pw.mode = s.pw.mode := by
  unfold engineTurn
  repeat' split
  all_goals simp

@[simp] theorem auContextTimeout_held (s : State) (c : Nat) : (auContextTimeout s c).nv.mem = s.nv.mem ∧ (auContextTimeout s c).pw.mode = s.pw.mode := by simp [auContextTimeout]

@[simp] theorem regionSyncReq_held (s : State) : (regionSyncReq s).nv.mem = s.nv.mem ∧ (regionSyncReq s).pw.mode = s.pw.mode := ⟨rfl, rfl⟩

@[simp] theorem revertShadows_held (s : State) : (revertShadows s).nv.mem = s.nv.mem ∧ (revertShadows s).pw.mode = s.pw.mode := ⟨rfl, rfl⟩

@[simp] theorem abandonApply_held (s : State) (code : BitVec 4) : (abandonApply s code).nv.mem = s.nv.mem ∧ (abandonApply s code).pw.mode = s.pw.mode := by simp [abandonApply]

@[simp] theorem bundleHoldStart_held (s : State) (e : Ecc) : (bundleHoldStart s e).nv.mem = s.nv.mem ∧ (bundleHoldStart s e).pw.mode = s.pw.mode := by simp [bundleHoldStart]

@[simp] theorem bundleStewardReset_held (s : State) : (bundleStewardReset s).nv.mem = s.nv.mem ∧ (bundleStewardReset s).pw.mode = s.pw.mode := by simp [bundleStewardReset]

@[simp] theorem bundleTransferred_held (s : State) (seq : Word) : (bundleTransferred s seq).nv.mem = s.nv.mem ∧ (bundleTransferred s seq).pw.mode = s.pw.mode := by simp [bundleTransferred]

@[simp] theorem bundleSync_held (s : State) : (bundleSync s).nv.mem = s.nv.mem ∧ (bundleSync s).pw.mode = s.pw.mode := by simp [bundleSync]

@[simp] theorem bundleResume_held (s : State) : (bundleResume s).nv.mem = s.nv.mem ∧ (bundleResume s).pw.mode = s.pw.mode := by simp [bundleResume]

theorem startRollback_held (s : State) (c : BitVec 2) :
    ((startRollback s c).2.nv.mem = s.nv.mem ∧ (startRollback s c).2.pw.mode = s.pw.mode) ∧ ∀ t, (startRollback s c).1 = some t → t.nv.mem = s.nv.mem ∧ t.pw.mode = s.pw.mode := by
  unfold startRollback
  (try dsimp only)
  repeat' split
  all_goals refine ⟨by simp, fun t h => ?_⟩
  all_goals first
    | (simp at h; done)
    | (simp only [Option.some.injEq] at h; subst h; simp)

@[simp] theorem confirmTimeout_held (s : State) : (confirmTimeout s).nv.mem = s.nv.mem ∧ (confirmTimeout s).pw.mode = s.pw.mode := by
  unfold confirmTimeout
  have h := startRollback_held s (if s.bun.drift then 3 else 2)
  repeat' split
  all_goals first
    | (simp; done)
    | (rename_i e; rw [e] at h; simpa using h.2 _ rfl)
    | (rename_i e; rw [e] at h; simpa using h.1)

@[simp] theorem mbxCmdWrite_held (s : State) (op tag : BitVec 8) : (mbxCmdWrite s op tag).nv.mem = s.nv.mem ∧ (mbxCmdWrite s op tag).pw.mode = s.pw.mode := by simp [mbxCmdWrite]

@[simp] theorem postReply_held (s : State) (r : Reply) : (postReply s r).nv.mem = s.nv.mem ∧ (postReply s r).pw.mode = s.pw.mode := by simp [postReply]

@[simp] theorem mbxReplyPost_held (s : State) : (mbxReplyPost s).nv.mem = s.nv.mem ∧ (mbxReplyPost s).pw.mode = s.pw.mode := by
  unfold mbxReplyPost
  repeat' split
  all_goals simp

@[simp] theorem mbxPop_held (s : State) : (mbxPop s).nv.mem = s.nv.mem ∧ (mbxPop s).pw.mode = s.pw.mode := by
  unfold mbxPop
  split <;> simp

theorem takeCmd_held (s : State) (op : BitVec 8) (f : State → MbxCmd → State)
    (h : ∀ s c, (f s c).nv.mem = s.nv.mem ∧ (f s c).pw.mode = s.pw.mode) : (takeCmd s op f).nv.mem = s.nv.mem ∧ (takeCmd s op f).pw.mode = s.pw.mode := by
  unfold takeCmd
  repeat' split
  all_goals simp [h]

@[simp] theorem work_held (s : State) (items : List NvItem) : (work s items).nv.mem = s.nv.mem ∧ (work s items).pw.mode = s.pw.mode := ⟨rfl, rfl⟩

@[simp] theorem ping_held (s : State) : (ping s).nv.mem = s.nv.mem ∧ (ping s).pw.mode = s.pw.mode := by
  unfold ping
  refine takeCmd_held _ _ _ (fun s c => ?_)
  simp

@[simp] theorem getInfo_held (s : State) : (getInfo s).nv.mem = s.nv.mem ∧ (getInfo s).pw.mode = s.pw.mode := by
  unfold getInfo
  refine takeCmd_held _ _ _ (fun s c => ?_)
  simp

@[simp] theorem imgBegin_held (s : State) : (imgBegin s).nv.mem = s.nv.mem ∧ (imgBegin s).pw.mode = s.pw.mode := by
  unfold imgBegin
  refine takeCmd_held _ _ _ (fun s c => ?_)
  simp

@[simp] theorem imgWrite_held (s : State) : (imgWrite s).nv.mem = s.nv.mem ∧ (imgWrite s).pw.mode = s.pw.mode := by
  unfold imgWrite
  refine takeCmd_held _ _ _ (fun s c => ?_)
  simp

@[simp] theorem verified_held (s : State) (turns : Nat) (rest : List NvItem) : (verified s turns rest).nv.mem = s.nv.mem ∧ (verified s turns rest).pw.mode = s.pw.mode := ⟨rfl, rfl⟩

@[simp] theorem imgVerify_held (s : State) (e : Ecc) : (imgVerify s e).nv.mem = s.nv.mem ∧ (imgVerify s e).pw.mode = s.pw.mode := by
  unfold imgVerify
  refine takeCmd_held _ _ _ (fun s c => ?_)
  dsimp only
  repeat' split
  all_goals simp

@[simp] theorem policyWork_held (s : State) (p : Policy) (data : Bool) : (policyWork s p data).nv.mem = s.nv.mem ∧ (policyWork s p data).pw.mode = s.pw.mode := ⟨rfl, rfl⟩

@[simp] theorem policyOfBank_held (s : State) (bank : Bool) (p : Policy) : (policyOfBank s bank p).nv.mem = s.nv.mem ∧ (policyOfBank s bank p).pw.mode = s.pw.mode := by simp [policyOfBank]

@[simp] theorem bootTrial_held (s : State) : (bootTrial s).nv.mem = s.nv.mem ∧ (bootTrial s).pw.mode = s.pw.mode := by
  unfold bootTrial
  refine takeCmd_held _ _ _ (fun s c => ?_)
  split <;> simp

@[simp] theorem commitTrial_held (s : State) : (commitTrial s).nv.mem = s.nv.mem ∧ (commitTrial s).pw.mode = s.pw.mode := by
  unfold commitTrial
  refine takeCmd_held _ _ _ (fun s c => ?_)
  split <;> simp

@[simp] theorem switchBank_held (s : State) : (switchBank s).nv.mem = s.nv.mem ∧ (switchBank s).pw.mode = s.pw.mode := by
  unfold switchBank
  refine takeCmd_held _ _ _ (fun s c => ?_)
  split <;> simp

@[simp] theorem setPolicy_held (s : State) : (setPolicy s).nv.mem = s.nv.mem ∧ (setPolicy s).pw.mode = s.pw.mode := by
  unfold setPolicy
  refine takeCmd_held _ _ _ (fun s c => ?_)
  simp

@[simp] theorem nvInfo_held (s : State) : (nvInfo s).nv.mem = s.nv.mem ∧ (nvInfo s).pw.mode = s.pw.mode := by
  unfold nvInfo
  refine takeCmd_held _ _ _ (fun s c => ?_)
  simp

@[simp] theorem reply16_held (s : State) (a : Nat) : (reply16 s a).nv.mem = s.nv.mem ∧ (reply16 s a).pw.mode = s.pw.mode := by simp [reply16]

@[simp] theorem logRead_held (s : State) (e : Ecc) : (logRead s e).nv.mem = s.nv.mem ∧ (logRead s e).pw.mode = s.pw.mode := by
  unfold logRead
  refine takeCmd_held _ _ _ (fun s c => ?_)
  split <;> simp

@[simp] theorem gaspRead_held (s : State) (e : Ecc) : (gaspRead s e).nv.mem = s.nv.mem ∧ (gaspRead s e).pw.mode = s.pw.mode := by
  unfold gaspRead
  refine takeCmd_held _ _ _ (fun s c => ?_)
  split <;> simp

@[simp] theorem calSave_held (s : State) : (calSave s).nv.mem = s.nv.mem ∧ (calSave s).pw.mode = s.pw.mode := by
  unfold calSave
  refine takeCmd_held _ _ _ (fun s c => ?_)
  split; simp

@[simp] theorem wearRead_held (s : State) : (wearRead s).nv.mem = s.nv.mem ∧ (wearRead s).pw.mode = s.pw.mode := by
  unfold wearRead
  refine takeCmd_held _ _ _ (fun s c => ?_)
  simp

@[simp] theorem logMark_held (s : State) : (logMark s).nv.mem = s.nv.mem ∧ (logMark s).pw.mode = s.pw.mode := by
  unfold logMark
  refine takeCmd_held _ _ _ (fun s c => ?_)
  simp

theorem takeBundle_held (s : State) (op : BitVec 8) (f : State → MbxCmd → State)
    (h : ∀ s c, (f s c).nv.mem = s.nv.mem ∧ (f s c).pw.mode = s.pw.mode) : (takeBundle s op f).nv.mem = s.nv.mem ∧ (takeBundle s op f).pw.mode = s.pw.mode := by
  unfold takeBundle
  refine takeCmd_held _ _ _ (fun s c => ?_)
  split <;> simp [h]

@[simp] theorem bundleBegin_held (s : State) : (bundleBegin s).nv.mem = s.nv.mem ∧ (bundleBegin s).pw.mode = s.pw.mode := by
  unfold bundleBegin
  refine takeBundle_held _ _ _ (fun s c => ?_)
  split <;> simp

@[simp] theorem bundleWrite_held (s : State) : (bundleWrite s).nv.mem = s.nv.mem ∧ (bundleWrite s).pw.mode = s.pw.mode := by
  unfold bundleWrite
  refine takeBundle_held _ _ _ (fun s c => ?_)
  split <;> simp

@[simp] theorem bundleVerify_held (s : State) (e : Ecc) : (bundleVerify s e).nv.mem = s.nv.mem ∧ (bundleVerify s e).pw.mode = s.pw.mode := by
  unfold bundleVerify
  refine takeBundle_held _ _ _ (fun s c => ?_)
  split; simp

@[simp] theorem bundleApply_held (s : State) : (bundleApply s).nv.mem = s.nv.mem ∧ (bundleApply s).pw.mode = s.pw.mode := by
  unfold bundleApply
  refine takeBundle_held _ _ _ (fun s c => ?_)
  split <;> simp

@[simp] theorem bundleConfirm_held (s : State) : (bundleConfirm s).nv.mem = s.nv.mem ∧ (bundleConfirm s).pw.mode = s.pw.mode := by
  unfold bundleConfirm
  refine takeBundle_held _ _ _ (fun s c => ?_)
  split <;> simp

@[simp] theorem bundleRollback_held (s : State) : (bundleRollback s).nv.mem = s.nv.mem ∧ (bundleRollback s).pw.mode = s.pw.mode := by
  unfold bundleRollback
  refine takeBundle_held _ _ _ (fun s c => ?_)
  have h := startRollback_held s 1
  split
  · rename_i e; rw [e] at h; simpa using h.2 _ rfl
  · rename_i e; rw [e] at h; simpa using h.1

@[simp] theorem bundleInfo_held (s : State) : (bundleInfo s).nv.mem = s.nv.mem ∧ (bundleInfo s).pw.mode = s.pw.mode := by
  unfold bundleInfo
  refine takeBundle_held _ _ _ (fun s c => ?_)
  simp

@[simp] theorem keyPut_held (s : State) : (keyPut s).nv.mem = s.nv.mem ∧ (keyPut s).pw.mode = s.pw.mode := by
  unfold keyPut
  refine takeCmd_held _ _ _ (fun s c => ?_)
  simp

@[simp] theorem keyDrop_held (s : State) : (keyDrop s).nv.mem = s.nv.mem ∧ (keyDrop s).pw.mode = s.pw.mode := by
  unfold keyDrop
  refine takeCmd_held _ _ _ (fun s c => ?_)
  simp

@[simp] theorem keyInfo_held (s : State) : (keyInfo s).nv.mem = s.nv.mem ∧ (keyInfo s).pw.mode = s.pw.mode := by
  unfold keyInfo
  refine takeCmd_held _ _ _ (fun s c => ?_)
  simp

@[simp] theorem holdWout_held (s : State) : (holdWout s).nv.mem = s.nv.mem ∧ (holdWout s).pw.mode = s.pw.mode := by simp [holdWout]

@[simp] theorem olumonBoots_held (s : State) : (olumonBoots s).nv.mem = s.nv.mem ∧ (olumonBoots s).pw.mode = s.pw.mode := by simp [olumonBoots]

@[simp] theorem olumonRestarts_held (s : State) : (olumonRestarts s).nv.mem = s.nv.mem ∧ (olumonRestarts s).pw.mode = s.pw.mode := by simp [olumonRestarts]

@[simp] theorem takeFirmware_held (s : State) (p : Policy) (bank restricted : Bool) : (takeFirmware s p bank restricted).nv.mem = s.nv.mem ∧ (takeFirmware s p bank restricted).pw.mode = s.pw.mode := ⟨rfl, rfl⟩

@[simp] theorem takeLmc_held (s : State) (bank : Bool) (src : Nat) : (takeLmc s bank src).nv.mem = s.nv.mem ∧ (takeLmc s bank src).pw.mode = s.pw.mode := by simp [takeLmc]

@[simp] theorem setLoadStat_held (s : State) (w : Word) : (setLoadStat s w).nv.mem = s.nv.mem ∧ (setLoadStat s w).pw.mode = s.pw.mode := ⟨rfl, rfl⟩

@[simp] theorem monitorStarts_held (s : State) (p : Policy) : (monitorStarts s p).nv.mem = s.nv.mem ∧ (monitorStarts s p).pw.mode = s.pw.mode := ⟨rfl, rfl⟩

@[simp] theorem setMode_mem (s : State) (m : Mode) : (setMode s m).nv.mem = s.nv.mem := by simp [setMode]

@[simp] theorem loadOutcome_mem (s : State) (e : Ecc) : (loadOutcome s e).nv.mem = s.nv.mem := by
  unfold loadOutcome
  dsimp only
  repeat' split
  all_goals simp

@[simp] theorem holdFeatures_held (s : State) : (holdFeatures s).nv.mem = s.nv.mem ∧ (holdFeatures s).pw.mode = s.pw.mode := ⟨rfl, rfl⟩

@[simp] theorem reloadOutcome_held (s : State) (e : Ecc) : (reloadOutcome s e).nv.mem = s.nv.mem ∧ (reloadOutcome s e).pw.mode = s.pw.mode := by
  unfold reloadOutcome
  dsimp only
  repeat' split
  all_goals simp

@[simp] theorem loaderOutcome_mem (s : State) (e : Ecc) : (loaderOutcome s e).nv.mem = s.nv.mem := by simp [loaderOutcome]

@[simp] theorem loadTimeout_mem (s : State) : (loadTimeout s).nv.mem = s.nv.mem := by simp [loadTimeout]

@[simp] theorem stewardReset_held (s : State) : (stewardReset s).nv.mem = s.nv.mem ∧ (stewardReset s).pw.mode = s.pw.mode := by simp [stewardReset]

@[simp] theorem watchdogExpiry_held (s : State) : (watchdogExpiry s).nv.mem = s.nv.mem ∧ (watchdogExpiry s).pw.mode = s.pw.mode := by simp [watchdogExpiry]

@[simp] theorem nporRise_held (s : State) (range : HbRange) : (nporRise s range).nv.mem = s.nv.mem ∧ (nporRise s range).pw.mode = s.pw.mode := by simp [nporRise]

@[simp] theorem rootPllLock_held (s : State) : (rootPllLock s).nv.mem = s.nv.mem ∧ (rootPllLock s).pw.mode = s.pw.mode := by simp [rootPllLock]

@[simp] theorem resetRelease_mem (s : State) (straps : BitVec 5) (level : BitVec 4) : (resetRelease s straps level).nv.mem = s.nv.mem := by simp [resetRelease]

@[simp] theorem enterGasp_mem (s : State) : (enterGasp s).nv.mem = s.nv.mem := by simp [enterGasp]

@[simp] theorem pfail_mem (s : State) : (pfail s).nv.mem = s.nv.mem := by
  unfold pfail
  split <;> simp

@[simp] theorem shutdownTrip_mem (s : State) : (shutdownTrip s).nv.mem = s.nv.mem := by
  unfold shutdownTrip
  split <;> simp

@[simp] theorem logThermal_held (s : State) (k : BitVec 8) : (logThermal s k).nv.mem = s.nv.mem ∧ (logThermal s k).pw.mode = s.pw.mode := by simp [logThermal]

@[simp] theorem thermalRound_held (s0 : State) (a b c d : BitVec 12) : (thermalRound s0 a b c d).nv.mem = s0.nv.mem ∧ (thermalRound s0 a b c d).pw.mode = s0.pw.mode := by simp [thermalRound]

@[simp] theorem fallowCommit_mem (s : State) : (fallowCommit s).nv.mem = s.nv.mem := by simp [fallowCommit]

@[simp] theorem breqAdopt_held (s : State) (n : Nat) (level : Bool) : (breqAdopt s n level).nv.mem = s.nv.mem ∧ (breqAdopt s n level).pw.mode = s.pw.mode := by simp [breqAdopt]

@[simp] theorem deviceWake_mem (s : State) (src : WakeSource) (num : BitVec 7) : (deviceWake s src num).nv.mem = s.nv.mem := by
  unfold deviceWake
  repeat' split
  all_goals simp

@[simp] theorem budgetLevelAdopt_held (s : State) (level : BitVec 4) : (budgetLevelAdopt s level).nv.mem = s.nv.mem ∧ (budgetLevelAdopt s level).pw.mode = s.pw.mode := by simp [budgetLevelAdopt]

@[simp] theorem allotGrant_held (s : State) : (allotGrant s).nv.mem = s.nv.mem ∧ (allotGrant s).pw.mode = s.pw.mode := by
  unfold allotGrant
  repeat' split
  all_goals simp

@[simp] theorem wakeGrantTimeout_held (s : State) (t : Target) : (wakeGrantTimeout s t).nv.mem = s.nv.mem ∧ (wakeGrantTimeout s t).pw.mode = s.pw.mode := by simp [wakeGrantTimeout]

@[simp] theorem trevokeExpiry_held (s : State) (n : Nat) : (trevokeExpiry s n).nv.mem = s.nv.mem ∧ (trevokeExpiry s n).pw.mode = s.pw.mode := by simp [trevokeExpiry]

@[simp] theorem takeIr_held (s : State) (ir : BitVec 5) : (takeIr s ir).nv.mem = s.nv.mem ∧ (takeIr s ir).pw.mode = s.pw.mode := ⟨rfl, rfl⟩

@[simp] theorem testEntry_mem (s : State) (ir : BitVec 5) : (testEntry s ir).nv.mem = s.nv.mem := by
  unfold testEntry
  repeat' split
  all_goals simp

@[simp] theorem bist_held (s : State) (ir : BitVec 5) (test : Nat) (pass : Bool) (nfail : BitVec 8) (first : BitVec 16) : (bist s ir test pass nfail first).nv.mem = s.nv.mem ∧ (bist s ir test pass nfail first).pw.mode = s.pw.mode := by simp [bist]

@[simp] theorem transfer_held (s : State) : (transfer s).nv.mem = s.nv.mem ∧ (transfer s).pw.mode = s.pw.mode := ⟨rfl, rfl⟩

@[simp] theorem commitTarget_held (s : State) (t : Target) (old new : Word) : (commitTarget s t old new).nv.mem = s.nv.mem ∧ (commitTarget s t old new).pw.mode = s.pw.mode := by simp [commitTarget]

@[simp] theorem commitTargets_held (s : State) (ch : List Change) : (commitTargets s ch).nv.mem = s.nv.mem ∧ (commitTargets s ch).pw.mode = s.pw.mode := by
  unfold commitTargets
  constructor
  · refine foldS_mem _ _ _ fun s c => ?_
    split <;> simp
  · refine foldS_mode _ _ _ fun s c => ?_
    split <;> simp

@[simp] theorem commitStaged_held (s : State) : (commitStaged s).nv.mem = s.nv.mem ∧ (commitStaged s).pw.mode = s.pw.mode := by
  unfold commitStaged
  refine ⟨foldS_mem _ _ _ fun s a => ?_, foldS_mode _ _ _ fun s a => ?_⟩
  all_goals
    dsimp only
    repeat' split
    all_goals simp

@[simp] theorem commitTenant_held (s0 s : State) (n : Tenant) : (commitTenant s0 s n).nv.mem = s.nv.mem ∧ (commitTenant s0 s n).pw.mode = s.pw.mode := by simp [commitTenant]

@[simp] theorem commitTenants_held (s0 s : State) : (commitTenants s0 s).nv.mem = s.nv.mem ∧ (commitTenants s0 s).pw.mode = s.pw.mode := by simp [commitTenants]

@[simp] theorem commitRoute_held (s : State) (k : Nat) : (commitRoute s k).nv.mem = s.nv.mem ∧ (commitRoute s k).pw.mode = s.pw.mode := by
  unfold commitRoute
  dsimp only
  repeat' split
  all_goals simp

@[simp] theorem wiredBelow_held (s : State) (t : Target) : (wiredBelow s t).nv.mem = s.nv.mem ∧ (wiredBelow s t).pw.mode = s.pw.mode := by simp [wiredBelow]

@[simp] theorem commitRoutes_held (s : State) (ch : List Change) (staged : List Nat) : (commitRoutes s ch staged).nv.mem = s.nv.mem ∧ (commitRoutes s ch staged).pw.mode = s.pw.mode := by
  unfold commitRoutes
  dsimp only
  constructor
  · refine (foldS_mem _ _ _ fun s c => ?_).trans (by simp)
    repeat' split
    all_goals simp
  · refine (foldS_mode _ _ _ fun s c => ?_).trans (by simp)
    repeat' split
    all_goals simp

@[simp] theorem commitInvalidations_held (s0 s : State) (ch : List Change) : (commitInvalidations s0 s ch).nv.mem = s.nv.mem ∧ (commitInvalidations s0 s ch).pw.mode = s.pw.mode := by simp [commitInvalidations]

@[simp] theorem recordAtCommit_held (s : State) (n : Tenant) (evt : Bool) : (recordAtCommit s n evt).nv.mem = s.nv.mem ∧ (recordAtCommit s n evt).pw.mode = s.pw.mode := by
  unfold recordAtCommit
  repeat' split
  all_goals simp

@[simp] theorem commitRing_held (s : State) (n : Tenant) (evt : Bool) : (commitRing s n evt).nv.mem = s.nv.mem ∧ (commitRing s n evt).pw.mode = s.pw.mode := by simp [commitRing]

@[simp] theorem commitRings_held (s : State) (ch : List Change) : (commitRings s ch).nv.mem = s.nv.mem ∧ (commitRings s ch).pw.mode = s.pw.mode := by
  unfold commitRings
  constructor
  · refine foldS_mem _ _ _ fun s c => ?_
    repeat' split
    all_goals simp
  · refine foldS_mode _ _ _ fun s c => ?_
    repeat' split
    all_goals simp

@[simp] theorem commitLinks_held (s0 s : State) : (commitLinks s0 s).nv.mem = s.nv.mem ∧ (commitLinks s0 s).pw.mode = s.pw.mode := by simp [commitLinks]

@[simp] theorem commitPrivate_held (s : State) (t : Target) (idx : Nat) (old new : Word) : (commitPrivate s t idx old new).nv.mem = s.nv.mem ∧ (commitPrivate s t idx old new).pw.mode = s.pw.mode := by simp [commitPrivate]

@[simp] theorem commitSources_held (s0 s : State) (ch : List Change) : (commitSources s0 s ch).nv.mem = s.nv.mem ∧ (commitSources s0 s ch).pw.mode = s.pw.mode := by
  unfold commitSources
  constructor
  · refine (houseEdges_still _ _).2.1.trans ((foldS_mem _ _ _ fun s n => ?_).trans (foldS_mem _ _ _ fun s c => ?_))
    · simp
    · split <;> simp
  · rw [(houseEdges_still _ _).2.2.1]
    refine (foldS_mode _ _ _ fun s n => ?_).trans (foldS_mode _ _ _ fun s c => ?_)
    · simp
    · split <;> simp

@[simp] theorem commitCounts_held (s0 s : State) : (commitCounts s0 s).nv.mem = s.nv.mem ∧ (commitCounts s0 s).pw.mode = s.pw.mode := by simp [commitCounts]

@[simp] theorem commitExpiry_held (s : State) : (commitExpiry s).nv.mem = s.nv.mem ∧ (commitExpiry s).pw.mode = s.pw.mode := by
  unfold commitExpiry
  refine ⟨foldS_mem _ _ _ fun s a => ?_, foldS_mode _ _ _ fun s a => ?_⟩
  all_goals
    dsimp only
    repeat' split
    all_goals simp

@[simp] theorem commitScan_held (s0 s : State) : (commitScan s0 s).nv.mem = s.nv.mem ∧ (commitScan s0 s).pw.mode = s.pw.mode := ⟨rfl, rfl⟩

@[simp] theorem commitTransfer_held (s : State) : (commitTransfer s).nv.mem = s.nv.mem ∧ (commitTransfer s).pw.mode = s.pw.mode := by simp [commitTransfer]

@[simp] theorem commitEffects_held (s0 s : State) (ch : List Change) : (commitEffects s0 s ch).nv.mem = s.nv.mem ∧ (commitEffects s0 s ch).pw.mode = s.pw.mode := by simp [commitEffects]

@[simp] theorem commit_mem (s0 : State) : (commit s0).nv.mem = s0.nv.mem := by simp [commit]

@[simp] theorem headland_mem (s : State) : (headland s).nv.mem = s.nv.mem := by simp [headland]

@[simp] theorem scanCompare_held (s : State) (c : Word) : (scanCompare s c).nv.mem = s.nv.mem ∧ (scanCompare s c).pw.mode = s.pw.mode := by simp [scanCompare]

@[simp] theorem scanPassComplete_held (s : State) : (scanPassComplete s).nv.mem = s.nv.mem ∧ (scanPassComplete s).pw.mode = s.pw.mode := by
  unfold scanPassComplete
  split <;> simp

@[simp] theorem regionSyncDone_held (s : State) : (regionSyncDone s).nv.mem = s.nv.mem ∧ (regionSyncDone s).pw.mode = s.pw.mode := by simp [regionSyncDone]

@[simp] theorem tbCclk_held (s : State) : (tbCclk s).nv.mem = s.nv.mem ∧ (tbCclk s).pw.mode = s.pw.mode := by simp [tbCclk]

@[simp] theorem linkCclk_held (s : State) (l : Link) : (linkCclk s l).nv.mem = s.nv.mem ∧ (linkCclk s l).pw.mode = s.pw.mode := by simp [linkCclk]

@[simp] theorem coreCclk_held (s : State) : (coreCclk s).nv.mem = s.nv.mem ∧ (coreCclk s).pw.mode = s.pw.mode := by simp [coreCclk]

@[simp] theorem tick_held (s : State) : (tick s).nv.mem = s.nv.mem ∧ (tick s).pw.mode = s.pw.mode := by simp [tick]

@[simp] theorem refuse_mem (s : State) (code : BitVec 4) (rd : Bool) (addr : Nat) : (refuse s code rd addr).nv.mem = s.nv.mem := by simp [refuse]

@[simp] theorem setRdata_held (s : State) (w : Word) : (setRdata s w).nv.mem = s.nv.mem ∧ (setRdata s w).pw.mode = s.pw.mode := ⟨rfl, rfl⟩

@[simp] theorem capture_held (s : State) (live : Bool) (first words : Nat) : (capture s live first words).nv.mem = s.nv.mem ∧ (capture s live first words).pw.mode = s.pw.mode := by simp [capture]

@[simp] theorem wtClaim_held (s : State) (t : Target) : (wtClaim s t).2.nv.mem = s.nv.mem ∧ (wtClaim s t).2.pw.mode = s.pw.mode := by
  unfold wtClaim
  repeat' split
  all_goals simp

@[simp] theorem servedRead_held (s : State) (live : Bool) (off : Nat) : (servedRead s live off).nv.mem = s.nv.mem ∧ (servedRead s live off).pw.mode = s.pw.mode := by
  unfold servedRead
  dsimp only
  repeat' split
  all_goals simp

@[simp] theorem writeHl_held (s : State) (op : BusOp) (off : Nat) (be : BE) (data : Word) : (writeHl s op off be data).nv.mem = s.nv.mem ∧ (writeHl s op off be data).pw.mode = s.pw.mode := by simp [writeHl]

@[simp] theorem writeIm_held (s : State) (op : BusOp) (off : Nat) (be : BE) (data : Word) : (writeIm s op off be data).nv.mem = s.nv.mem ∧ (writeIm s op off be data).pw.mode = s.pw.mode := by simp [writeIm]

@[simp] theorem writePend_held (s : State) (op : BusOp) (m : Nat) (be : BE) (data : Word) : (writePend s op m be data).nv.mem = s.nv.mem ∧ (writePend s op m be data).pw.mode = s.pw.mode := by simp [writePend]

@[simp] theorem writeSq_held (s : State) (off : Nat) (data : Word) (hw : BitVec 24) : (writeSq s off data hw).nv.mem = s.nv.mem ∧ (writeSq s off data hw).pw.mode = s.pw.mode := by simp [writeSq]

@[simp] theorem windowLoad_held (s : State) (live : Bool) (t idx tgt : Nat) : (windowLoad s live t idx tgt).nv.mem = s.nv.mem ∧ (windowLoad s live t idx tgt).pw.mode = s.pw.mode := ⟨rfl, rfl⟩

@[simp] theorem windowShadow_held (s : State) (t idx tgt : Nat) : (windowShadow s t idx tgt).nv.mem = s.nv.mem ∧ (windowShadow s t idx tgt).pw.mode = s.pw.mode := by simp [windowShadow]

@[simp] theorem windowPulse_held (s : State) (t idx : Nat) : (windowPulse s t idx).nv.mem = s.nv.mem ∧ (windowPulse s t idx).pw.mode = s.pw.mode := by simp [windowPulse]

@[simp] theorem windowState_held (s : State) (t idx tgt : Nat) : (windowState s t idx tgt).nv.mem = s.nv.mem ∧ (windowState s t idx tgt).pw.mode = s.pw.mode := by simp [windowState]

@[simp] theorem windowEffect_held (s : State) (op : Nat) : (windowEffect s op).nv.mem = s.nv.mem ∧ (windowEffect s op).pw.mode = s.pw.mode := by
  unfold windowEffect
  split <;> simp

@[simp] theorem windowCommand_held (s : State) (op : Nat) : (windowCommand s op).nv.mem = s.nv.mem ∧ (windowCommand s op).pw.mode = s.pw.mode := by simp [windowCommand]

@[simp] theorem tbCtl_held (s : State) (op : BusOp) (be : BE) (data : Word) : (tbCtl s op be data).nv.mem = s.nv.mem ∧ (tbCtl s op be data).pw.mode = s.pw.mode := by simp [tbCtl]

@[simp] theorem revert_held (s : State) : (revert s).nv.mem = s.nv.mem ∧ (revert s).pw.mode = s.pw.mode := by simp [revert]

@[simp] theorem mbxBufWrite_held (s : State) (op : BusOp) (off : Nat) (be : BE) (data : Word) : (mbxBufWrite s op off be data).nv.mem = s.nv.mem ∧ (mbxBufWrite s op off be data).pw.mode = s.pw.mode := by simp [mbxBufWrite]

@[simp] theorem clearHwm_held (s : State) : (clearHwm s).nv.mem = s.nv.mem ∧ (clearHwm s).pw.mode = s.pw.mode := ⟨rfl, rfl⟩

end Sys2Proof.Machine
end

section
/-!
PROOFS. The bounds of the frame (R112) and the canonical form of the store, operation by operation.
-/
namespace Sys2Proof.Machine
open Sys2Proof.Safety Sys2Proof.Claims

/-! ## The timebase keeps its bounds (R112) -/

theorem frameInv_of_tb {s t : State} (h : t.tb = s.tb) (hs : FrameInv s) : FrameInv t := by
  obtain ⟨h1, h2, h3, h4, h5⟩ := hs
  constructor <;> rw [h] <;> assumption

theorem tbLoss_bounds (s : State) :
    (tbLoss s).tb.len = s.tb.len ∧ (tbLoss s).tb.phase = s.tb.phase ∧ (tbLoss s).tb.nextLen = s.tb.nextLen := by
  unfold tbLoss
  split <;> exact ⟨rfl, rfl, rfl⟩

theorem tbLoss_frameInv {s : State} (h : FrameInv s) : FrameInv (tbLoss s) := by
  obtain ⟨h1, h2, h3, h4, h5⟩ := h
  obtain ⟨hl, hp, hn⟩ := tbLoss_bounds s
  constructor <;> simp only [hl, hp, hn] <;> assumption

theorem tbMissed_frameInv {s : State} (h : FrameInv s) : FrameInv (tbMissed s) := by
  unfold tbMissed
  split
  · exact h
  · exact ⟨h.lenLow, h.lenHigh, show 77758 ≤ 77760 by decide, show 77760 ≤ 77762 by decide, h.phase⟩
  · exact tbLoss_frameInv ⟨h.lenLow, h.lenHigh, h.nextLow, h.nextHigh, h.phase⟩
  · exact tbLoss_frameInv ⟨h.lenLow, h.lenHigh, h.nextLow, h.nextHigh, h.phase⟩

theorem tbUnaccepted_frameInv {s : State} (h : FrameInv s) : FrameInv (tbUnaccepted s) := by
  unfold tbUnaccepted
  split
  · exact ⟨h.lenLow, h.lenHigh, h.nextLow, h.nextHigh, h.phase⟩
  · exact tbMissed_frameInv h

/-- A new frame takes a length set for it, which is within the slew of R108. -/
theorem frameBoundary_frameInv {s : State} (h : FrameInv s) : FrameInv (frameBoundary s) := by
  have start : ∀ {x : State}, FrameInv x → FrameInv (setTb x { x.tb with
      phase := 0, len := x.tb.nextLen, frame := x.tb.frame + 1, accepted := false, stepEnd := false }) := fun {x} hx => by
    have hlow : 77758 ≤ x.tb.nextLen := hx.nextLow
    have hhigh : x.tb.nextLen ≤ 77762 := hx.nextHigh
    exact ⟨show 38880 ≤ x.tb.nextLen by omega, show x.tb.nextLen ≤ 116639 by omega, hlow, hhigh, Nat.zero_le _⟩
  have ended : FrameInv (if s.tb.accepted then s else tbUnaccepted s) := by
    split
    · exact h
    · exact tbUnaccepted_frameInv h
  unfold frameBoundary
  split
  · obtain ⟨h1, h2, h3, h4, h5⟩ := start ended
    exact ⟨h1, h2, h3, h4, h5⟩
  · exact h

theorem slew_bounds (d : Int) : 77758 ≤ slew d ∧ slew d ≤ 77762 := by
  unfold slew
  split_ifs <;> decide

theorem fsyncIn_frameInv {s : State} (d : Int) (h : FrameInv s) : FrameInv (fsyncIn s d) := by
  unfold fsyncIn
  split
  · exact ⟨h.lenLow, h.lenHigh, (slew_bounds d).1, (slew_bounds d).2, h.phase⟩
  · exact h

theorem tbStep_frame (s : State) (p : Nat) :
    (tbStep s p).tb.len = (if 38880 ≤ p then p else p + 77760) ∧ (tbStep s p).tb.phase = p ∧ (tbStep s p).tb.nextLen = 77760 := by
  unfold tbStep
  dsimp only
  split_ifs <;> exact ⟨rfl, rfl, rfl⟩

/-- A step cuts the frame at its phase, or lengthens it by a whole one (R110): the two halves keep it within the bounds. -/
theorem tbStep_frameInv {s : State} {p : Nat} (hp : p ≤ 116639) : FrameInv (tbStep s p) := by
  obtain ⟨hl, hph, hn⟩ := tbStep_frame s p
  constructor <;> simp only [hl, hph, hn]
  any_goals split
  all_goals omega

theorem fsyncOut_frameInv {s : State} (p gap : Nat) (h : FrameInv s) : FrameInv (fsyncOut s p gap) := by
  have hlen : s.tb.len ≤ 116639 := h.lenHigh
  unfold fsyncOut
  split
  · rename_i hc
    have hp : p ≤ 116639 := by simp at hc; omega
    have run : ∀ n, FrameInv (setTb (bump s cntFSYNCOOW) { (bump s cntFSYNCOOW).tb with run := n }) := fun n =>
      ⟨h.lenLow, h.lenHigh, h.nextLow, h.nextHigh, h.phase⟩
    exact iteInduction (motive := FrameInv) (fun _ => tbStep_frameInv hp) (fun _ => run _)
  · exact h

theorem tbSource_frameInv {s : State} (old new : Bool) (h : FrameInv s) : FrameInv (tbSource s old new) := by
  unfold tbSource
  split_ifs
  · exact h
  · exact ⟨h.lenLow, h.lenHigh, h.nextLow, h.nextHigh, h.phase⟩
  · exact ⟨h.lenLow, h.lenHigh, show 77758 ≤ 77760 by decide, show 77760 ≤ 77762 by decide, h.phase⟩

theorem tbCclk_frameInv {s : State} (h : FrameInv s) : FrameInv (tbCclk s) := by
  unfold tbCclk
  split
  · rename_i hc
    have hp : s.tb.phase + 1 < s.tb.len := by simp at hc; exact hc.2
    exact ⟨h.lenLow, h.lenHigh, h.nextLow, h.nextHigh, hp.le⟩
  · exact h

/-! ## The store keeps its form -/

theorem storeWf_of_mem {s t : State} (h : t.nv.mem = s.nv.mem) (hs : StoreWf s) : StoreWf t := by unfold StoreWf at *; rwa [h]

theorem foldS_storeWf {α : Type} (f : State → α → State) (l : List α) (s : State) (hf : ∀ s a, StoreWf s → StoreWf (f s a))
    (h : StoreWf s) : StoreWf (foldS f s l) := by
  induction l generalizing s with
  | nil => exact h
  | cons a l ih => exact ih _ (hf s a h)

theorem programEnds_storeWf {s : State} (a : Nat) (b : List Byte) (ok : Bool) (h : StoreWf s) : StoreWf (programEnds s a b ok).1 := by
  unfold programEnds
  split_ifs
  · exact storeWf_of_mem (by simp) h
  · exact nvWrite_wf s a b h
  · exact storeWf_of_mem (by simp) (show StoreWf (nvSpoilWord s a) from nvSpoilWord_wf s a h)

theorem nvProgramDone_storeWf {s : State} (ok : Bool) (h : StoreWf s) : StoreWf (nvProgramDone s ok) := by
  unfold nvProgramDone
  split
  · have hw := programEnds_storeWf ‹Nat› ‹List Byte› ok h
    dsimp only
    split
    · exact storeWf_of_mem (by simp) hw
    · exact storeWf_of_mem (by simp) hw
  · exact h

theorem nvEraseDone_storeWf {s : State} (o : EraseOutcome) (h : StoreWf s) : StoreWf (nvEraseDone s o) := by
  unfold nvEraseDone
  split
  · rename_i q _ _
    have hw : StoreWf (if decide (o = .ok) then nvEraseSector s q else nvEvt (nvSpoil s q) 3 q) := by
      split
      · exact nvEraseSector_wf s q h
      · exact storeWf_of_mem (by simp) (show StoreWf (nvSpoil s q) from nvSpoil_wf s q h)
    dsimp only
    split
    · exact storeWf_of_mem (by simp) hw
    · split
      · exact storeWf_of_mem (by simp) hw
      · exact storeWf_of_mem (by simp) hw
  · exact h

theorem cutWork_storeWf {s : State} (h : StoreWf s) : StoreWf (cutWork s) := by
  have h1 : StoreWf (abortErase s) := storeWf_of_mem (by simp) h
  have h2 : StoreWf (match (abortErase s).nv.op with
      | some (.program addr _) => nvSpoilWord (abortErase s) addr
      | _ => abortErase s) := by
    split
    · exact nvSpoilWord_wf _ _ h1
    · exact h1
  unfold cutWork
  dsimp only
  refine storeWf_of_mem rfl (s := match (match (abortErase s).nv.op with
      | some (.program addr _) => nvSpoilWord (abortErase s) addr
      | _ => abortErase s).nv.gasp with
    | some g => foldS (fun s w => if wordErased s (g.addr + 32 * w) then nvSpoilWord s (g.addr + 32 * w) else s) _ (upTo 7)
    | none => _) ?_
  split
  · refine foldS_storeWf _ _ _ (fun x w hx => ?_) h2
    split
    · exact nvSpoilWord_wf _ _ hx
    · exact hx
  · exact h2

theorem warmReset_storeWf {s : State} (c : BitVec 4) (b : Bool) (h : StoreWf s) : StoreWf (warmReset s c b) :=
  cutWork_storeWf h

theorem npor_storeWf {s : State} (h : StoreWf s) : StoreWf (npor s) := cutWork_storeWf h

end Sys2Proof.Machine
end

section
/-!
PROOFS. How a command ends, and what every step keeps: O1 to O5.
-/
namespace Sys2Proof.Machine
open Sys2Proof.Safety Sys2Proof.Claims

/-- What every command keeps: the queue of commands, the bounds of the frame, the form of the store. -/
structure Kept (s t : State) : Prop where
  pending : t.pending = s.pending
  frame : FrameInv s → FrameInv t
  store : StoreWf s → StoreWf t

theorem Kept.refl (s : State) : Kept s s := ⟨rfl, id, id⟩

theorem Kept.trans {s t u : State} (a : Kept s t) (b : Kept t u) : Kept s u :=
  ⟨b.pending.trans a.pending, b.frame ∘ a.frame, b.store ∘ a.store⟩

theorem Kept.of_keeps {s t : State} (h : t.pending = s.pending ∧ t.tb = s.tb) (hm : t.nv.mem = s.nv.mem) : Kept s t :=
  ⟨h.1, frameInv_of_tb h.2, storeWf_of_mem hm⟩

theorem Kept.settle (b s : State) : Kept s (settle b s) := .of_keeps ⟨settle_pending b s, settle_tb b s⟩ (settle_nv_mem b s)

/-! ## Resets -/

theorem warmReset_kept (s : State) (c : BitVec 4) (b : Bool) : Kept s (warmReset s c b) :=
  ⟨warmReset_pending s c b, fun h => by
    have ht : (cutWork s).tb = s.tb := (cutWork_keeps s).2
    have h1 := h.lenLow; have h2 := h.lenHigh; have h5 := h.phase
    rw [← ht] at h1 h2 h5
    exact ⟨h1, h2, show 77758 ≤ 77760 by decide, show 77760 ≤ 77762 by decide, h5⟩,
   warmReset_storeWf c b⟩

theorem warmReset_quiet (s : State) (c : BitVec 4) (b : Bool) : Quiet (warmReset s c b) := ⟨rfl, rfl⟩

theorem npor_kept (s : State) : Kept s (npor s) :=
  ⟨npor_pending s, fun _ => ⟨show 38880 ≤ 77760 by decide, show 77760 ≤ 116639 by decide, show 77758 ≤ 77760 by decide,
     show 77760 ≤ 77762 by decide, Nat.zero_le _⟩, npor_storeWf⟩

theorem askWarm_kept (s : State) (c : BitVec 4) : Kept s (askWarm s c) := by
  unfold askWarm
  split
  · split
    · exact warmReset_kept s c true
    · exact .refl s
  · exact .refl s
  · split
    · exact .of_keeps ⟨rfl, rfl⟩ rfl
    · exact warmReset_kept s c false
  · exact warmReset_kept s c false

/-- A warm reset that is asked for acts at once, or changes no mode. -/
theorem askWarm_mode_or_quiet (s : State) (c : BitVec 4) :
    (askWarm s c).pw.mode = s.pw.mode ∨ Quiet (askWarm s c) := by
  unfold askWarm
  split
  · split
    · exact .inr (warmReset_quiet s c true)
    · exact .inl rfl
  · exact .inl rfl
  · split
    · exact .inl rfl
    · exact .inr (warmReset_quiet s c false)
  · exact .inr (warmReset_quiet s c false)

theorem askWarm_quiet {s : State} (c : BitVec 4) (h : Quiet s) : Quiet (askWarm s c) := by
  unfold askWarm
  split
  · split
    · exact warmReset_quiet s c true
    · exact h
  · exact h
  · split
    · exact h
    · exact warmReset_quiet s c false
  · exact warmReset_quiet s c false

/-! ## Bus cycles -/

/-- What a cycle of the bus keeps; and one that brings the part to RESET leaves no flag waiting. -/
structure BusKept (s t : State) : Prop extends Kept s t where
  reset : t.pw.mode = .reset → s.pw.mode = .reset ∨ Quiet t

theorem BusKept.refl (s : State) : BusKept s s := ⟨.refl s, .inl⟩

theorem BusKept.of_held {s t : State} (h : t.pending = s.pending ∧ t.tb = s.tb) (hm : t.nv.mem = s.nv.mem ∧ t.pw.mode = s.pw.mode) :
    BusKept s t := ⟨.of_keeps h hm.1, fun hr => .inl (hm.2 ▸ hr)⟩

theorem BusKept.trans {s t u : State} (a : BusKept s t) (b : BusKept t u) (h : t.pw.mode = s.pw.mode) : BusKept s u :=
  ⟨a.toKept.trans b.toKept, fun hr => (b.reset hr).imp (h ▸ ·) id⟩

theorem BusKept.setRdata {s t : State} (a : BusKept s t) (w : Word) : BusKept s (setRdata t w) :=
  ⟨⟨a.pending, fun h => frameInv_of_tb (s := t) rfl (a.frame h), a.store⟩, a.reset⟩

theorem BusKept.ite {s t u : State} {c : Prop} [Decidable c] (a : c → BusKept s t) (b : ¬ c → BusKept s u) :
    BusKept s (if c then t else u) := iteInduction a b

theorem tbSource_mode (s : State) (old new : Bool) : (tbSource s old new).pw.mode = s.pw.mode := by
  unfold tbSource
  split_ifs <;> rfl

theorem tbCtl_busKept (s : State) (op : BusOp) (be : BE) (data : Word) : BusKept s (tbCtl s op be data) :=
  BusKept.trans (t := writeIm s op 0x100 be data) (.of_held (by simp) (by simp))
    ⟨⟨tbSource_pending _ _ _, tbSource_frameInv _ _, storeWf_of_mem (by simp)⟩, fun hr => .inl (tbSource_mode _ _ _ ▸ hr)⟩ (by simp)

theorem rstCtl_busKept (s : State) (ones : Word) : BusKept s (rstCtl s ones) := by
  unfold rstCtl
  refine .ite (fun _ => .ite (fun _ => ⟨askWarm_kept s 3, fun hr => (askWarm_mode_or_quiet s 3).imp (fun hm => hm.symm.trans hr) id⟩) fun _ => .ite (fun _ => ?_) fun _ => .refl s)
    fun _ => .refl s
  exact .of_held (by simp) (by simp)

theorem writeAct_busKept (s : State) (op : BusOp) (off : Nat) (be : BE) (data : Word) : BusKept s (writeAct s op off be data) := by
  unfold writeAct
  dsimp only
  repeat' with_reducible refine BusKept.ite (fun _ => ?_) fun _ => ?_
  any_goals with_reducible exact rstCtl_busKept _ _
  any_goals exact .refl s
  all_goals exact .of_held (by simp) (by simp)

theorem servedWrite_busKept (s : State) (op : BusOp) (off : Nat) (be : BE) (data : Word) (hw : BitVec 24) :
    BusKept s (servedWrite s op off be data hw) := by
  unfold servedWrite
  repeat' with_reducible refine BusKept.ite (fun _ => ?_) fun _ => ?_
  · exact .of_held (by simp) (by simp)
  · exact tbCtl_busKept _ _ _ _
  · exact .of_held (by simp) (by simp)
  · exact .of_held (by simp) (by simp)
  · exact .trans (.of_held (by simp) (by simp)) (writeAct_busKept _ _ _ _ _) (by simp)

theorem deviceWake_bus_mode (s : State) (h : (deviceWake s .bus 0).pw.mode = .reset) : s.pw.mode = .reset := by
  unfold deviceWake at h
  split at h
  · simp [setMode] at h
  · exact h

theorem refuse_busKept (s : State) (code : BitVec 4) (rd : Bool) (addr : Nat) : BusKept s (refuse s code rd addr) := by
  refine ⟨.of_keeps (by simp) (by simp), fun hr => .inl ?_⟩
  unfold refuse at hr
  dsimp only at hr
  split at hr
  · simpa using deviceWake_bus_mode _ hr
  · simpa using hr

theorem busWrite_busKept (s : State) (addr : Nat) (be : BE) (data : Word) (hw : BitVec 24) :
    BusKept s (busWrite s addr be data hw) := by
  unfold busWrite
  split
  · exact .refl s
  · split
    · exact refuse_busKept _ _ _ _
    · exact servedWrite_busKept _ _ _ _ _ _

theorem busRead_busKept (s : State) (addr : Nat) : BusKept s (busRead s addr) := by
  unfold busRead
  split
  · exact .of_held (by simp) (by simp)
  · split
    · exact (refuse_busKept s _ true addr).setRdata 0
    · exact .of_held (by simp) (by simp)

theorem busWrite_quiet {s : State} (addr : Nat) (be : BE) (data : Word) (hw : BitVec 24) (hq : Quiet s)
    (hr : (busWrite s addr be data hw).pw.mode = .reset) : Quiet (busWrite s addr be data hw) := by
  refine ((busWrite_busKept s addr be data hw).reset hr).elim (fun hm => ?_) id
  have hb : busServed s = false := by simp [busServed, hm]
  unfold busWrite
  rw [hb]
  simpa using hq

theorem busRead_quiet {s : State} (addr : Nat) (hq : Quiet s) (hr : (busRead s addr).pw.mode = .reset) : Quiet (busRead s addr) := by
  refine ((busRead_busKept s addr).reset hr).elim (fun hm => ?_) id
  have hb : busServed s = false := by simp [busServed, hm]
  unfold busRead
  rw [hb]
  exact hq

/-! ## How a command ends -/

/-- A command settles what it has made, leaves it as it is, or is a cycle of the bus. -/
inductive Ends (s : State) : Out → Prop
  | settled {x : State} (h : Kept s x) : Ends s (.next (settle s x))
  | bare {x : State} (h : Kept s x) (hq : Quiet s → Quiet x) : Ends s (.next x)
  | bus {f : State → State} (h : Kept s (f s)) (hq : Quiet s → (f s).pw.mode = .reset → Quiet (f s)) : Ends s (busDo s f)

theorem Ends.keeps {s x : State} (h : x.pending = s.pending ∧ x.tb = s.tb) (hm : x.nv.mem = s.nv.mem) :
    Ends s (.next (settle s x)) := .settled (.of_keeps h hm)

theorem Ends.put (s : State) (addr : Nat) (be : BE) (data : Word) : Ends s (busPut addr be data s) :=
  .bus (busWrite_busKept s _ _ _ _).toKept (busWrite_quiet _ _ _ _)

theorem Ends.get (s : State) (addr : Nat) : Ends s (busGet addr s) :=
  .bus (busRead_busKept s addr).toKept (busRead_quiet addr)

theorem Ends.ite {s : State} {a b : Out} {c : Prop} [Decidable c] (ha : Ends s a) (hb : Ends s b) : Ends s (if c then a else b) :=
  iteInduction (fun _ => ha) fun _ => hb

theorem nreset_kept (s : State) : Kept s (nreset s) :=
  (askWarm_kept s 2).trans ⟨rfl, fun h => frameInv_of_tb (s := askWarm s 2) rfl h, id⟩

theorem pllLoss_kept (s : State) : Kept s (pllLoss s) := by
  unfold pllLoss
  split
  · exact .refl s
  · exact (warmReset_kept s 4 false).trans ⟨rfl, fun h => frameInv_of_tb (s := warmReset s 4 false) rfl h, id⟩

theorem pllLoss_quiet {s : State} (h : Quiet s) : Quiet (pllLoss s) := by
  unfold pllLoss
  split
  · exact h
  · exact warmReset_quiet s 4 false

theorem rootPllLock_kept (s : State) : Kept s (rootPllLock s) := by
  unfold rootPllLock
  split
  · exact ⟨rfl, fun h => ⟨h.lenLow, h.lenHigh, h.nextLow, h.nextHigh, h.phase⟩, id⟩
  · exact .refl s

theorem rootPllLock_quiet {s : State} (h : Quiet s) : Quiet (rootPllLock s) := by
  unfold rootPllLock
  split <;> exact h

theorem nporRise_quiet {s : State} (r : HbRange) (h : Quiet s) : Quiet (nporRise s r) := by
  unfold nporRise
  split <;> exact h

theorem resetRelease_kept (s : State) (straps : BitVec 5) (level : BitVec 4) : Kept s (resetRelease s straps level) := by
  refine ⟨by simp, fun h => ?_, storeWf_of_mem (by simp)⟩
  unfold resetRelease
  split
  · exact ⟨h.lenLow, h.lenHigh, show 77758 ≤ 77760 by decide, show 77760 ≤ 77762 by decide, h.phase⟩
  · exact h

theorem resetRelease_quiet {s : State} (straps : BitVec 5) (level : BitVec 4) (h : Quiet s) : Quiet (resetRelease s straps level) := by
  unfold resetRelease
  split <;> exact h

theorem gaspProgram_kept (s : State) (g : Gasp) (ok : Bool) :
    Kept s (if ok then nvWrite s g.addr g.bytes else foldS (fun s w => nvSpoilWord s (g.addr + 32 * w)) s (upTo 8)) := by
  split
  · exact ⟨rfl, fun h => frameInv_of_tb (s := s) rfl h, nvWrite_wf s _ _⟩
  · exact ⟨by simp, fun h => frameInv_of_tb (s := s) (by simp) h, fun h => foldS_storeWf _ _ _ (fun x w hx => nvSpoilWord_wf x _ hx) h⟩

theorem gaspRecordComplete_kept (s : State) (ok : Bool) : Kept s (gaspRecordComplete s ok) := by
  have ended : ∀ x : State, Kept s x →
      Kept s { x with nv := { x.nv with gasp := none, armed := false }, pw := { x.pw with gaspWriting := false } } :=
    fun x h => h.trans ⟨rfl, fun hf => frameInv_of_tb (s := x) rfl hf, id⟩
  unfold gaspRecordComplete
  split
  case h_3 => exact .refl s
  all_goals
    dsimp only
    split
    · exact (ended _ (gaspProgram_kept s _ ok)).trans (warmReset_kept _ _ _)
    · exact ended _ (gaspProgram_kept s _ ok)

theorem gaspRecovery_kept (s : State) : Kept s (gaspRecovery s) := by
  unfold gaspRecovery
  split
  · exact warmReset_kept s 6 false
  · exact .refl s

theorem gaspRecovery_quiet {s : State} (h : Quiet s) : Quiet (gaspRecovery s) := by
  unfold gaspRecovery
  split
  · exact warmReset_quiet s 6 false
  · exact h

theorem testExit_kept (s : State) : Kept s (testExit s) := by
  unfold testExit
  split
  · exact Kept.trans (t := takeIr s 2) (.of_keeps (by simp) (by simp)) (warmReset_kept _ 5 false)
  · exact .refl s

theorem testExit_quiet {s : State} (h : Quiet s) : Quiet (testExit s) := by
  unfold testExit
  split
  · exact warmReset_quiet _ 5 false
  · exact h

theorem testEntry_quiet {s : State} (ir : BitVec 5) (h : Quiet s) : Quiet (testEntry s ir) := by
  unfold testEntry
  dsimp only
  repeat' split
  all_goals exact h

theorem shutdownTrip_quiet {s : State} (h : Quiet s) : Quiet (shutdownTrip s) := by
  have hd : Quiet (emptyCaches (discardWork s)) := by
    have ha : Quiet (abortErase s) := by
      unfold abortErase
      split <;> exact h
    exact ha
  unfold shutdownTrip
  split
  · exact h
  · exact h
  · exact hd

theorem bist_quiet {s : State} (ir : BitVec 5) (test : Nat) (pass : Bool) (nfail : BitVec 8) (first : BitVec 16) (h : Quiet s) :
    Quiet (bist s ir test pass nfail first) := by
  unfold bist
  split <;> exact h

theorem exec_ends (c : Instr) (s : State) : Ends s (exec c s) := by
  cases c
  case frameBoundary => exact .settled ⟨by simp, frameBoundary_frameInv, storeWf_of_mem (by simp)⟩
  case fsyncEdgeInWindow d => exact .settled ⟨by simp, fsyncIn_frameInv d, storeWf_of_mem (by simp)⟩
  case fsyncEdgeOutOfWindow p gap => exact .settled ⟨by simp, fsyncOut_frameInv p gap, storeWf_of_mem (by simp)⟩
  case nvProgramDone ok => exact .settled ⟨by simp, frameInv_of_tb (by simp), nvProgramDone_storeWf ok⟩
  case nvEraseDone o => exact .settled ⟨by simp, frameInv_of_tb (by simp), nvEraseDone_storeWf o⟩
  case sequenceClear => exact .bus (f := fun s => busWrite s _ _ _ _) (busWrite_busKept s _ _ _ _).toKept (busWrite_quiet _ _ _ _)
  case multiwordCapture => exact .get _ _
  case wtAckRead => exact .get _ _
  case wPendWrite => exact .ite (.bare (.refl s) id) (.put _ _ _ _)
  case reclaim => exact .ite (.put _ _ _ _) (.bare (.refl s) id)
  case freset => exact .ite (.put _ _ _ _) (.bare (.refl s) id)
  case nreset => exact .bare (nreset_kept s) (askWarm_quiet 2)
  case npor => exact .bare (npor_kept s) fun _ => ⟨rfl, rfl⟩
  case nporRise r => exact .bare (.of_keeps (by simp) (by simp)) (nporRise_quiet r)
  case rootPllLock => exact .bare (rootPllLock_kept s) rootPllLock_quiet
  case pllLoss => exact .bare (pllLoss_kept s) pllLoss_quiet
  case resetRelease straps level => exact .bare (resetRelease_kept s straps level) (resetRelease_quiet straps level)
  case gaspRecordComplete ok => exact .settled (gaspRecordComplete_kept s ok)
  case gaspRecovery => exact .bare (gaspRecovery_kept s) gaspRecovery_quiet
  case shutdownTrip => exact .bare (.of_keeps (by simp) (by simp)) shutdownTrip_quiet
  case testEntry ir => exact .bare (.of_keeps (by simp) (by simp)) (testEntry_quiet ir)
  case testExit => exact .bare (testExit_kept s) testExit_quiet
  case bistMem => exact .bare (.of_keeps (by simp) (by simp)) (bist_quiet _ _ _ _ _)
  case bistLogic => exact .bare (.of_keeps (by simp) (by simp)) (bist_quiet _ _ _ _ _)
  case supplyOutOfRange => exact .bare ⟨rfl, fun h => frameInv_of_tb (s := s) rfl h, id⟩ id
  any_goals exact Ends.put _ _ _ _
  case tenantQuiesced n => exact .settled (x := tenantQuiesced s n) (iteInduction (fun _ => .of_keeps (by simp) (by simp)) fun _ => .refl s)
  all_goals exact .keeps (by simp) (by simp)

/-! ## What every step keeps -/

theorem Ends.kept {s t : State} {o : Out} (h : Ends s o) (ht : o = .next t) : Kept s t := by
  cases h with
  | settled h => cases ht; exact h.trans (.settle _ _)
  | bare h _ => cases ht; exact h
  | bus h _ =>
    unfold busDo at ht
    dsimp only at ht
    split at ht
    · cases ht
    · split at ht
      · cases ht; exact h
      · cases ht; exact h.trans (.settle _ _)

theorem Ends.quiet {s t : State} {o : Out} (h : Ends s o) (hq : Quiet s) (ht : o = .next t) : Quiet t := by
  cases h with
  | settled _ => cases ht; exact settle_quiet _ _
  | bare _ h => cases ht; exact h hq
  | bus _ h =>
    unfold busDo at ht
    dsimp only at ht
    split at ht
    · cases ht
    · split at ht
      · cases ht; exact h hq ‹_›
      · cases ht; exact settle_quiet _ _

theorem Ends.exists_next {s : State} {o : Out} (h : Ends s o) (hb : BusDefined s) : ∃ t, o = .next t := by
  cases h with
  | settled _ => exact ⟨_, rfl⟩
  | bare _ _ => exact ⟨_, rfl⟩
  | bus _ _ =>
    unfold busDo
    rw [if_neg hb]
    dsimp only
    split <;> exact ⟨_, rfl⟩

theorem busDo_undefined {s : State} (f : State → State) (h : ¬ BusDefined s) : busDo s f = .fault .hostBankUndefined :=
  if_pos (Decidable.not_not.mp h)

theorem put_undefined {s : State} (addr : Nat) (be : BE) (data : Word) (h : ¬ BusDefined s) :
    busPut addr be data s = .fault .hostBankUndefined := busDo_undefined _ h

theorem coreCclk_tb (s : State) : (coreCclk s).tb = s.tb := by
  unfold coreCclk
  split
  · rw [foldS_tb _ _ _ fun s l => ?_]
    · simp
    · split <;> simp
  · rfl

theorem tick_kept (s : State) : Kept s (tick s) := by
  have hs : FrameInv s → FrameInv { s with now := s.now + 1 } := frameInv_of_tb rfl
  refine ⟨by simp, fun h => frameInv_of_tb (s := tbCclk { s with now := s.now + 1 }) ?_ (tbCclk_frameInv (hs h)), storeWf_of_mem ?_⟩
  · rw [tick, settle_tb, coreCclk_tb]
  · simp [tick]

/-- A step keeps what a command does: the queue it runs on is no part of the bounds or of the store. -/
theorem step_kept {s t : State} (h : step s = .next t) : (FrameInv s → FrameInv t) ∧ (StoreWf s → StoreWf t) := by
  unfold step at h
  split at h
  · cases h; exact ⟨(tick_kept s).frame, (tick_kept s).store⟩
  · have k := (exec_ends _ _).kept h
    exact ⟨fun hf => k.frame (frameInv_of_tb (s := s) rfl hf), k.store⟩

/-! ## The statements -/

/-- Settles O3: the boundary, the edges, the source and the resets each keep the bounds, and nothing else writes them. -/
theorem frameLengthsStayBounded : Obligations.FrameLengthsStayBounded := fun _ _ hf h => (step_kept h).1 hf

/-- Settles O1, by the ways a command ends. -/
theorem commandsLeaveTheQueue : Obligations.CommandsLeaveTheQueue := fun c s _ h => ((exec_ends c s).kept h).pending

/-- Settles O2: only a cycle of the bus can fault, and every command of the bus is one. -/
theorem onlyAnUndefinedBusStops : Obligations.OnlyAnUndefinedBusStops := by
  refine ⟨fun c s hb => (exec_ends c s).exists_next hb, fun c s hc hb => ?_⟩
  cases c
  all_goals try exact absurd hc Bool.false_ne_true
  case wtAckRead => exact busDo_undefined (fun s => busRead s _) hb
  case multiwordCapture => exact busDo_undefined (fun s => busRead s _) hb
  case sequenceClear => exact busDo_undefined (fun s => busWrite s _ _ _ _) hb
  all_goals exact put_undefined _ _ _ hb

/-- Settles O4: a command that settles has spent its flags, and the others raise none. -/
theorem houseFlagsAreSpent : Obligations.HouseFlagsAreSpent := by
  intro s t hq h
  unfold step at h
  split at h
  · cases h; exact settle_quiet _ _
  · rename_i c rest _
    have hr : Quiet (s.withPending rest) := hq
    exact (exec_ends c _).quiet hr h

/-- Settles O5: only programs, erases and the words that a reset cuts short write the store's bytes. -/
theorem storeStaysCanonical : Obligations.StoreStaysCanonical := fun _ _ hf h => (step_kept h).2 hf

end Sys2Proof.Machine
end

section
/-!
PROOFS. One CCLK with no command (O8): the links keep their states, and only a fan-out's own step moves the fan-outs.
-/
namespace Sys2Proof.Machine
open Sys2Proof.Safety Sys2Proof.Claims

/-- The records of the links and the fan-outs in progress are the same. -/
abbrev SameLinks (s t : State) : Prop := t.links = s.links ∧ t.irq.fans = s.irq.fans

/-- Every link keeps its state, and the fan-outs in progress are the same. -/
abbrev Steady (s t : State) : Prop := (∀ l, (linkOf t l).st = (linkOf s l).st) ∧ t.irq.fans = s.irq.fans

theorem SameLinks.steady {s t : State} (h : SameLinks s t) : Steady s t := ⟨fun l => by simp only [linkOf, h.1], h.2⟩

theorem Steady.trans {s t u : State} (a : Steady s t) (b : Steady t u) : Steady s u := ⟨fun l => (b.1 l).trans (a.1 l), b.2.trans a.2⟩

/-- A link's record is replaced by one of the same state. -/
theorem setLink_steady (s : State) (l : Link) (r : LinkRec) (h : r.st = (linkOf s l).st) : Steady s (setLink s l r) := by
  refine ⟨fun q => ?_, by simp⟩
  rw [linkOf_setLink]
  split
  · next hq => rw [h, hq]
  · rfl

theorem foldS_steady {α : Type} (f : State → α → State) (l : List α) (s : State) (h : ∀ s a, Steady s (f s a)) :
    Steady s (foldS f s l) := by
  induction l generalizing s with
  | nil => exact ⟨fun _ => rfl, rfl⟩
  | cons a l ih => exact (h s a).trans (ih _)

theorem foldS_sameLinks {α : Type} (f : State → α → State) (l : List α) (s : State) (h : ∀ s a, SameLinks s (f s a)) :
    SameLinks s (foldS f s l) :=
  ⟨foldS_keeps (·.links) f l s fun s a => (h s a).1, foldS_keeps (·.irq.fans) f l s fun s a => (h s a).2⟩

@[simp] theorem dropCount_sameLinks (s : State) (off : Nat) : SameLinks s (dropCount s off) := ⟨rfl, rfl⟩

@[simp] theorem placeNote_sameLinks (s : State) (n : NoteKey) (i : Intid) : SameLinks s (placeNote s n i).1 := by
  unfold placeNote
  split <;> exact ⟨by simp, by simp⟩

@[simp] theorem loseTrigger_sameLinks (s : State) (k : Nat) : SameLinks s (loseTrigger s k) := ⟨rfl, rfl⟩

@[simp] theorem evT_sameLinks (s : State) (k : Nat) (note : Option NoteKey) : SameLinks s (evT s k note) := by
  unfold evT
  dsimp only
  repeat' split
  all_goals exact ⟨by simp, by simp⟩

@[simp] theorem evN_sameLinks (s : State) (k : Nat) : SameLinks s (evN s k) := by
  unfold evN
  dsimp only
  repeat' split
  all_goals exact ⟨by simp, by simp⟩

@[simp] theorem queueEvt_sameLinks (s : State) (e : EvtRec) : SameLinks s (queueEvt s e) := by
  unfold queueEvt
  split <;> exact ⟨by simp, by simp⟩

@[simp] theorem updWalks_sameLinks (s : State) (f : List Walk → List Walk) : SameLinks s (updWalks s f) := ⟨rfl, rfl⟩

@[simp] theorem putWalk_sameLinks (s : State) (w : Walk) : SameLinks s (putWalk s w) := ⟨rfl, rfl⟩

@[simp] theorem poolDrop_sameLinks (s : State) (n : Tenant) (l : Link) (i : Intid) (record : Option (BitVec 8)) : SameLinks s (poolDrop s n l i record) := by
  unfold poolDrop
  split <;> exact ⟨by simp, by simp⟩

@[simp] theorem removeWalk_sameLinks (s : State) (tag : BitVec 6) : SameLinks s (removeWalk s tag) := ⟨rfl, rfl⟩

@[simp] theorem quiesceCheck_sameLinks (s : State) (n : Tenant) : SameLinks s (quiesceCheck s n) := by
  unfold quiesceCheck
  dsimp only
  repeat' split
  all_goals exact ⟨by simp, by simp⟩

@[simp] theorem outSub_sameLinks (s : State) (n : Tenant) : SameLinks s (outSub s n) := ⟨rfl, rfl⟩

@[simp] theorem outEnd_sameLinks (s : State) (w : Walk) : SameLinks s (outEnd s w) := by
  unfold outEnd
  split <;> exact ⟨by simp, by simp⟩

@[simp] theorem allocWalk_sameLinks (s : State) (w : Walk) : SameLinks s (allocWalk s w) := ⟨rfl, rfl⟩

@[simp] theorem placeSpill_sameLinks (s : State) (e : SowEvent) (i : Intid) : SameLinks s (placeSpill s e i) := by
  unfold placeSpill
  dsimp only
  repeat' split
  all_goals exact ⟨by simp, by simp⟩

@[simp] theorem spillEvent_sameLinks (s : State) (e : SowEvent) (i : Intid) : SameLinks s (spillEvent s e i) := by
  unfold spillEvent
  dsimp only
  repeat' split
  all_goals exact ⟨by simp, by simp⟩

@[simp] theorem triggerExt_sameLinks (s : State) (e : SowEvent) (i : Intid) (word stamp : Word) (note : Option NoteKey) : SameLinks s (triggerExt s e i word stamp note) := by
  unfold triggerExt
  dsimp only
  repeat' split
  all_goals exact ⟨by simp, by simp⟩

@[simp] theorem sweepNext_sameLinks (s : State) (w : Walk) : SameLinks s (sweepNext s w) := by
  unfold sweepNext
  dsimp only
  repeat' split
  all_goals exact ⟨by simp, by simp⟩

@[simp] theorem sweepExtras_sameLinks (s : State) (w : Walk) (js : List Nat) : SameLinks s (sweepExtras s w js).1 := by
  induction js generalizing s with
  | nil => exact ⟨rfl, rfl⟩
  | cons j rest ih =>
    unfold sweepExtras
    dsimp only
    split
    · exact ⟨rfl, rfl⟩
    · split
      · exact ⟨(ih _).1.trans (by simp), (ih _).2.trans (by simp)⟩
      · exact ⟨rfl, rfl⟩

@[simp] theorem sweepClose_sameLinks (s : State) (w : Walk) : SameLinks s (sweepClose s w) := by
  unfold sweepClose
  dsimp only
  split
  · split
    · split <;> exact ⟨by simp, by simp⟩
    · exact sweepExtras_sameLinks _ _ _
  · split <;> exact ⟨by simp, by simp⟩

@[simp] theorem postSent_sameLinks (s : State) (tag : BitVec 6) : SameLinks s (postSent s tag) := by
  unfold postSent
  repeat' split
  all_goals exact ⟨by simp, by simp⟩

@[simp] theorem setTx_sameLinks (s : State) (l : Link) (p : Nat) (t : LaneTx) : SameLinks s (setTx s l p t) := ⟨rfl, rfl⟩

@[simp] theorem wiredRetire_sameLinks (s : State) : SameLinks s (wiredRetire s) := by
  unfold wiredRetire
  split
  · refine foldS_sameLinks _ _ _ fun s p => ?_
    split
    · split
      · exact evN_sameLinks _ _
      · exact ⟨rfl, rfl⟩
    · exact ⟨rfl, rfl⟩
  · exact ⟨rfl, rfl⟩

/-! ## The lanes and the link layer -/

theorem setLl_steady (s : State) (l : Link) (f : LinkLayer → LinkLayer) : Steady s (setLl s l f) := setLink_steady s l _ (by rfl)

theorem setTx_steady (s : State) (l : Link) (p : Nat) (t : LaneTx) : Steady s (setTx s l p t) := (setTx_sameLinks s l p t).steady

theorem latchInterval_steady (s : State) (l : Link) (n : Nat) : Steady s (latchInterval s l n) := by
  unfold latchInterval
  dsimp only
  split
  · exact ⟨fun _ => rfl, rfl⟩
  · exact setLink_steady s l _ (by rfl)

theorem laneNext_steady (s : State) (l : Link) (p : Nat) : Steady s (laneNext s l p) := by
  unfold laneNext
  split
  · exact setTx_steady _ _ _ _
  · exact (setTx_steady _ _ _ _).trans (latchInterval_steady _ _ _)
  · dsimp only
    split <;> exact setTx_steady _ _ _ _
  · exact setTx_steady _ _ _ _
  · exact ⟨fun _ => rfl, rfl⟩

theorem laneTick_steady (l : Link) (s : State) (p : Nat) : Steady s (laneTick l s p) := by
  unfold laneTick
  dsimp only
  split
  · split
    · exact ⟨fun _ => rfl, rfl⟩
    · exact setTx_steady _ _ _ _
  · split
    · exact (laneNext_steady s l p).trans (setTx_steady _ _ _ _)
    · exact setTx_steady _ _ _ _

theorem noteSent_steady (s : State) (l : Link) : Steady s (noteSent s l) := setLink_steady s l _ (by rfl)

theorem lanesTick_steady (s : State) (l : Link) : Steady s (lanesTick s l) := by
  have h := foldS_steady (laneTick l) (upTo 4) s (laneTick_steady l)
  unfold lanesTick
  generalize foldS (laneTick l) s (upTo 4) = x at h
  dsimp only
  split
  · exact h.trans (noteSent_steady x l)
  · exact h

theorem fillFifos_steady (l : Link) (n : Nat) (s : State) : Steady s (fillFifos l n s) := by
  induction n generalizing s with
  | zero => exact ⟨fun _ => rfl, rfl⟩
  | succ n ih =>
    unfold fillFifos
    dsimp only
    split
    · split
      · exact ((setLink_steady s l _ (by rfl)).trans (setTx_steady _ _ _ _)).trans (ih _)
      · exact ⟨fun _ => rfl, rfl⟩
    · exact ⟨fun _ => rfl, rfl⟩

theorem fillOut_steady (s : State) (l : Link) : Steady s (fillOut s l) := fillFifos_steady l _ s

theorem sendGrains_steady (s : State) (l : Link) (ll : LinkLayer) (gs : List Grain) : Steady s (sendGrains s l ll gs) :=
  (setLink_steady s l _ (by rfl)).trans (fillOut_steady _ _)

theorem pushTlp_steady (s : State) (l : Link) (type vc grains : Nat) (fn : BitVec 8) (body : List Word) (ring : Option (Bool × Tenant)) :
    Steady s (pushTlp s l type vc grains fn body ring) :=
  (setLink_steady s l _ (by rfl)).trans (fillOut_steady _ _)

theorem sendDue_steady (s : State) (l : Link) : Steady s (sendDue s l) := by
  unfold sendDue
  dsimp only
  split
  · exact sendGrains_steady _ _ _ _
  · split
    · exact sendGrains_steady _ _ _ _
    · exact ⟨fun _ => rfl, rfl⟩

theorem sendWaitingCpl_steady (s : State) (l : Link) : Steady s (sendWaitingCpl s l) := by
  unfold sendWaitingCpl
  dsimp only
  split
  · exact ⟨fun _ => rfl, rfl⟩
  · exact (setLink_steady s l _ (by rfl)).trans (pushTlp_steady _ _ _ _ _ _ _ _)

theorem sendOwn_steady (s : State) (l : Link) : Steady s (sendOwn s l) := by
  unfold sendOwn
  dsimp only
  split
  · split
    · exact sendGrains_steady _ _ _ _
    · exact ⟨fun _ => rfl, rfl⟩
  · split
    · exact sendGrains_steady _ _ _ _
    · exact ⟨fun _ => rfl, rfl⟩
  · exact sendDue_steady s l
  · exact sendWaitingCpl_steady s l
  · exact ⟨fun _ => rfl, rfl⟩

theorem tookRead_steady (s : State) (l : Link) : Steady s (tookRead s l) := setLink_steady s l _ (by rfl)

theorem tookSource_steady (s : State) (l : Link) (src : BitVec 2) : Steady s (tookSource s l src) := setLink_steady s l _ (by rfl)

theorem sendWalker_steady (s : State) (l : Link) : Steady s (sendWalker s l) := by
  unfold sendWalker
  dsimp only
  split
  · split
    · exact ((setLink_steady s l _ (by rfl)).trans (pushTlp_steady _ _ _ _ _ _ _ _)).trans (tookRead_steady _ _)
    · exact ⟨fun _ => rfl, rfl⟩
  · split
    · exact (((setLink_steady s l _ (by rfl)).trans (pushTlp_steady _ _ _ _ _ _ _ _)).trans (tookSource_steady _ _ _)).trans
        (postSent_sameLinks _ _).steady
    · exact ⟨fun _ => rfl, rfl⟩
  · exact ⟨fun _ => rfl, rfl⟩

theorem shake_steady (s : State) (l : Link) (late : Bool) : Steady s (shake s l late) := by
  unfold shake
  dsimp only
  split
  · refine setLink_steady s l _ ?_
    dsimp only
    split <;> rfl
  · split
    · unfold shakeCaps
      dsimp only
      split
      · split
        · exact setLink_steady s l _ (by rfl)
        · exact ⟨fun _ => rfl, rfl⟩
      · exact ⟨fun _ => rfl, rfl⟩
    · exact ⟨fun _ => rfl, rfl⟩

theorem linkCclk_steady (s : State) (l : Link) : Steady s (linkCclk s l) := by
  have h1 := (lanesTick_steady s l).trans (fillOut_steady _ l)
  unfold linkCclk
  generalize fillOut (lanesTick s l) l = x at h1
  have h2 := h1.trans (setLl_steady x l fun ll => { ll with dueAge := if lcpDue ll then ll.dueAge + 1 else 0 })
  dsimp only
  generalize setLl x l (fun ll => { ll with dueAge := if lcpDue ll then ll.dueAge + 1 else 0 }) = y at h2
  exact ((h2.trans (sendOwn_steady y l)).trans (sendWalker_steady _ l)).trans (shake_steady _ l false)

/-! ## The fan-outs -/

/-- What the fan-outs in progress become in one CCLK (R96). -/
theorem fanStep_fans (s : State) (h : operating s = true) : (fanStep s).irq.fans =
    (s.irq.fans.map fun f => { f with rest := f.rest.tail }).filter fun f => !f.rest.isEmpty := by
  unfold fanStep
  rw [if_pos h]

theorem fanStep_links (s : State) : (fanStep s).links = s.links := by
  unfold fanStep
  split
  · refine foldS_keeps (fun x : State => x.links) _ _ s fun x f => ?_
    split
    · exact (evT_sameLinks _ _ _).1
    · rfl
  · rfl

theorem coreCclk_still (s : State) : Still s (coreCclk s) := by
  refine Still.of ?_
  unfold coreCclk
  split
  · refine (foldS_still _ _ _ fun s l => ?_).trans (by simp)
    split
    · simp [linkCclk]
    · rfl
  · rfl

theorem coreCclk_st (s : State) (l : Link) : (linkOf (coreCclk s) l).st = (linkOf s l).st := by
  unfold coreCclk
  split
  · have h := foldS_steady (fun s l => if linkLives s l then linkCclk s l else s) allLinks (fanStep (wiredRetire s)) fun s l => by
      split
      · exact linkCclk_steady s l
      · exact ⟨fun _ => rfl, rfl⟩
    rw [h.1]
    simp [linkOf, fanStep_links]
  · rfl

theorem coreCclk_fans (s : State) (ho : operating s = true) (hc : cclkRuns s = true) : (coreCclk s).irq.fans =
    (s.irq.fans.map fun f => { f with rest := f.rest.tail }).filter fun f => !f.rest.isEmpty := by
  unfold coreCclk
  rw [if_pos hc]
  have h := foldS_steady (fun s l => if linkLives s l then linkCclk s l else s) allLinks (fanStep (wiredRetire s)) fun s l => by
    split
    · exact linkCclk_steady s l
    · exact ⟨fun _ => rfl, rfl⟩
  rw [h.2, fanStep_fans _ (by simpa [operating] using ho), (wiredRetire_sameLinks s).2]

/-! ## One CCLK -/

/-- The clock and the phase move, short of the end of the frame. -/
theorem tbCclk_eq (s : State) : tbCclk { s with now := s.now + 1 } = { s with
    now := s.now + 1
    tb := if tbRuns s = true ∧ s.tb.phase + 1 < s.tb.len then { s.tb with phase := s.tb.phase + 1 } else s.tb } := by
  by_cases h : tbRuns s = true ∧ s.tb.phase + 1 < s.tb.len
  · have hb : (tbRuns s && decide (s.tb.phase + 1 < s.tb.len)) = true := by simpa using h
    rw [if_pos h]
    exact if_pos hb
  · have hb : ¬ (tbRuns s && decide (s.tb.phase + 1 < s.tb.len)) = true := by simpa using h
    rw [if_neg h]
    exact if_neg hb

theorem idleStepTicks : IdleStepTicks := by
  intro s hp hq
  dsimp only
  have ht : tick s = settle s (coreCclk (tbCclk { s with now := s.now + 1 })) := rfl
  rw [tbCclk_eq] at ht
  generalize he : ({ s with
    now := s.now + 1
    tb := if tbRuns s = true ∧ s.tb.phase + 1 < s.tb.len then { s.tb with phase := s.tb.phase + 1 } else s.tb } : State) = e at ht ⊢
  have hs : e.pending = s.pending ∧ e.cfg = s.cfg ∧ e.hl = s.hl ∧ e.bus = s.bus ∧ e.pw = s.pw ∧ e.mbx = s.mbx ∧ e.stew = s.stew ∧
      e.au = s.au ∧ e.bun = s.bun ∧ e.nv = s.nv ∧ e.links = s.links ∧ e.irq = s.irq ∧ e.hsAcc = s.hsAcc ∧ e.allot = s.allot := by
    subst he
    exact ⟨rfl, rfl, rfl, rfl, rfl, rfl, rfl, rfl, rfl, rfl, rfl, rfl, rfl, rfl⟩
  obtain ⟨hpend, hcfg, hhl, hbus, hpw, hmbx, hstew, hau, hbun, hnv, hlinks, hirq, hacc, hallot⟩ := hs
  refine ⟨tick s, by simp only [step, hp], ?_, ?_, ?_, ?_, ?_, ?_, ?_, ?_, ?_, ?_, ?_, ?_, ?_, ?_, ?_, ?_, ?_⟩ <;> rw [ht]
  · simp [hpend, hp]
  · simp [coreCclk_still, ← he]
  · rw [settle_tb, coreCclk_tb, ← he]
  · simp [coreCclk_still, hcfg]
  · simp [coreCclk_still, hcfg]
  · simp [coreCclk_still, hcfg]
  · simp [coreCclk_still, hhl]
  · simp [coreCclk_still, hbus]
  · simp [coreCclk_still, hpw]
  · simp [coreCclk_still, hmbx]
  · simp [coreCclk_still, hstew]
  · simp [coreCclk_still, hau]
  · simp [coreCclk_still, hbun]
  · simp [hnv]
  · intro l
    rw [linkOf_settle, coreCclk_st, linkOf, hlinks, linkOf]
  · intro hm
    rw [settle_fans, coreCclk_fans, hirq]
    · simp [operating, hpw, hm]
    · simp [cclkRuns, hpw, hm]
  · intro hc
    have hce : coreCclk e = e := by
      unfold coreCclk
      rw [if_neg]
      simpa [cclkRuns, hpw] using hc
    rw [hce]
    exact settle_upToMarks (hacc.trans hq.1) ⟨hpw, by rw [hcfg], by rw [hcfg], by rw [hallot], by rw [hnv], by rw [hnv]⟩

/-- Settles O8: the front of the queue is what `step` runs, and an empty queue is one CCLK of the timebase and of the core. -/
theorem stepsOfTheBlock : Obligations.StepsOfTheBlock := ⟨fun _ _ _ => rfl, idleStepTicks⟩

end Sys2Proof.Machine
end

section
/-!
PROOFS. Chapter 05: the end of a frame, FSYNC, and the source of the timebase (R105 to R111): O7, O9, O28.
-/
namespace Sys2Proof.Machine
open Sys2Proof.Safety Sys2Proof.Claims

variable {s e x : State} {f : BitVec 16}

/-! ## How a command closes that leaves the modes alone -/

theorem Unflagged.upToMarks (hq : Quiet s) (h : Unflagged s e) : UpToMarks e (settle s e) :=
  settle_upToMarks (h.hsAcc.trans hq.1) h.toSameModes

/-- One house flag is raised over an effect that raises none. -/
theorem Unflagged.flagsSet (hq : Quiet s) (h : Unflagged s e) (hs : e.sqAcc = s.sqAcc) (f : BitVec 16) :
    FlagsSet f e (settle s (house e f)) := by
  have hf : (house e f).hsAcc = f := by
    rw [house_hsAcc, h.hsAcc, hq.1]
    exact BitVec.zero_or
  have hfirst : (house e f).sqAcc.contains 0x300 = false := by
    rw [house_sqAcc, hs, hq.2]
    rfl
  exact settle_flagsSet hf ⟨h.pw, h.live, h.im, h.lean, h.jobs, h.orphan⟩ hfirst (aside_hsAcc e _) rfl rfl rfl

theorem unflagged_setTb (s : State) (b : Timebase) : Unflagged s (setTb s b) := ⟨⟨rfl, rfl, rfl, rfl, rfl, rfl⟩, rfl⟩

/-! ## The end of a frame -/

/-- The state once the frame has ended with the timebase at `b`. -/
def frameEnds (s : State) (b : Timebase) : State :=
  { s with
    tb := { b with phase := 0, len := b.nextLen, frame := s.tb.frame + 1, accepted := false, stepEnd := false }
    hl := { s.hl with left := s.hl.left - 1 }
    stew := { s.stew with frames := s.stew.frames + 1 } }

theorem unflagged_frameEnds (s : State) (b : Timebase) : Unflagged s (frameEnds s b) := ⟨⟨rfl, rfl, rfl, rfl, rfl, rfl⟩, rfl⟩

/-- What becomes of the timebase at the end of a frame, before the next frame is set up. -/
def frameJudged (s : State) : State := if s.tb.accepted then s else tbUnaccepted s

theorem frameBoundary_of_not (h : tbRuns s = false ∨ s.hl.left = 0) : frameBoundary s = s := by
  unfold frameBoundary
  rw [if_neg]
  rcases h with h | h <;> simp [h]

theorem frameBoundary_of_judged {b : Timebase} (hr : tbRuns s = true) (hl : s.hl.left ≠ 0) (hj : frameJudged s = setTb s b)
    (hb : b.frame = s.tb.frame) : frameBoundary s = frameEnds s b := by
  unfold frameBoundary
  rw [if_pos (by simp [hr, Nat.pos_of_ne_zero hl])]
  unfold frameJudged at hj
  generalize (if s.tb.accepted then s else tbUnaccepted s) = x at hj ⊢
  subst hj
  simp only [frameEnds, setTb, hb]

theorem frameBoundary_of_flagged {b : Timebase} (hr : tbRuns s = true) (hl : s.hl.left ≠ 0)
    (hj : frameJudged s = house (setTb s b) f) (hb : b.frame = s.tb.frame) : frameBoundary s = house (frameEnds s b) f := by
  unfold frameBoundary
  rw [if_pos (by simp [hr, Nat.pos_of_ne_zero hl])]
  unfold frameJudged at hj
  generalize (if s.tb.accepted then s else tbUnaccepted s) = x at hj ⊢
  subst hj
  simp only [frameEnds, setTb, house, hb]

/-- Whether the loss is flagged at the end of a missed frame (R109). -/
theorem tbLoss_setTb (s : State) (b : Timebase) : tbLoss (setTb s b) =
    if lostN s ≤ b.miss.toNat ∧ b.lossFlagged = false then house (setTb s { b with lossFlagged := true, cause := 1 }) hFSYNC
    else setTb s b := by
  have hn : lostN (setTb s b) = lostN s := rfl
  unfold tbLoss
  rw [hn]
  by_cases h : lostN s ≤ b.miss.toNat ∧ b.lossFlagged = false
  · rw [if_pos h, if_pos (by simpa using h)]
    rfl
  · rw [if_neg h, if_neg (by simpa using h)]

/-- Settles O7: the timebase is judged once, by Table HL-1, and the next frame is set up from what it is then. -/
theorem Settled.frameBoundary : Obligations.FrameBoundary := by
  intro s hq ends
  refine ⟨_, rfl, ?_⟩
  have plain : ∀ b : Timebase, tbRuns s = true → s.hl.left ≠ 0 → b.frame = s.tb.frame → frameJudged s = setTb s b →
      UpToMarks (ends b) (settle s (Machine.frameBoundary s)) := fun b hr hl hb hj => by
    rw [frameBoundary_of_judged hr hl hj hb]
    exact (unflagged_frameEnds s b).upToMarks hq
  have flagged : ∀ b : Timebase, tbRuns s = true → s.hl.left ≠ 0 → b.frame = s.tb.frame →
      frameJudged s = house (setTb s b) hFSYNC → FlagsSet hFSYNC (ends b) (settle s (Machine.frameBoundary s)) :=
    fun b hr hl hb hj => by
      rw [frameBoundary_of_flagged hr hl hj hb]
      exact (unflagged_frameEnds s b).flagsSet hq rfl hFSYNC
  split
  · next h =>
    rw [frameBoundary_of_not h]
    exact (unflagged_refl s).upToMarks hq
  · next h =>
    obtain ⟨hr, hl⟩ := not_or.1 h
    rw [Bool.not_eq_false] at hr
    split
    · next ha => exact plain _ hr hl rfl (if_pos ha)
    · next ha =>
      have hj : frameJudged s = tbUnaccepted s := if_neg ha
      split
      · next hstep => exact plain _ hr hl rfl (hj.trans (if_pos hstep))
      · next hstep =>
        replace hj := hj.trans (if_neg hstep)
        split
        · next hm => exact plain _ hr hl rfl (hj.trans (by rw [tbMissed, hm]; rfl))
        · next hm => exact plain _ hr hl rfl (hj.trans (by rw [tbMissed, hm]))
        · next hm =>
          have hj : frameJudged s = tbLoss (setTb s { s.tb with mode := .flywheel, miss := 1, lossFlagged := false }) :=
            hj.trans (by rw [tbMissed, hm])
          rw [tbLoss_setTb] at hj
          split
          · next hn => exact flagged _ hr hl rfl (hj.trans (if_pos ⟨hn, rfl⟩))
          · next hn => exact plain _ hr hl rfl (hj.trans (if_neg fun h => hn h.1))
        · next hm =>
          have hj : frameJudged s = tbLoss (setTb s { s.tb with miss := satInc8 s.tb.miss }) := hj.trans (by rw [tbMissed, hm])
          rw [tbLoss_setTb] at hj
          split
          · next hn => exact flagged _ hr hl rfl (hj.trans (if_pos hn))
          · next hn => exact plain _ hr hl rfl (hj.trans (if_neg hn))

/-! ## FSYNC -/

theorem fsyncActs_iff : fsyncActs s = true ↔ fsyncTaken s := by
  simp [fsyncActs, fsyncTaken, and_assoc]

/-- The clamp of R108 as a number. -/
theorem slew_eq (d : Int) : slew d = (77760 + max (-2) (min 2 d)).toNat := by
  unfold slew
  split_ifs <;> omega

theorem fsyncIn_of_taken {d : Int} (h : fsyncTaken s ∧ s.tb.accepted = false ∧ -128 ≤ d ∧ d ≤ 128) :
    fsyncIn s d = setTb s { s.tb with mode := .locked, accepted := true, nextLen := (77760 + max (-2) (min 2 d)).toNat,
                                      err := BitVec.ofInt 9 d, miss := 0, run := 0, lossFlagged := false } := by
  obtain ⟨ht, ha, hl, hh⟩ := h
  rw [← slew_eq]
  exact if_pos (by simp [fsyncActs_iff.2 ht, ha, hl, hh])

theorem fsyncIn_of_not {d : Int} (h : ¬ (fsyncTaken s ∧ s.tb.accepted = false ∧ -128 ≤ d ∧ d ≤ 128)) : fsyncIn s d = s := by
  refine if_neg fun hc => h ?_
  simp only [Bool.and_eq_true, Bool.not_eq_true', decide_eq_true_eq] at hc
  obtain ⟨⟨⟨ht, ha⟩, hl⟩, hh⟩ := hc
  exact ⟨fsyncActs_iff.1 ht, ha, hl, hh⟩

theorem fsyncEdgeInWindow : FsyncEdgeInWindow := by
  refine fun s d hq => ⟨_, rfl, fun h => ?_, fun h => ?_⟩
  · rw [fsyncIn_of_taken h]
    exact (unflagged_setTb s _).upToMarks hq
  · rw [fsyncIn_of_not h]
    exact (unflagged_refl s).upToMarks hq

/-- The run of edges out of the window that an edge leaves (R110). -/
def runOn (s : State) (gap : Nat) : Nat := if 0 < s.tb.run ∧ 77632 ≤ gap ∧ gap ≤ 77888 then s.tb.run + 1 else 1

/-- The timebase at `b` with the edge counted in CNT_FSYNC_OOW. -/
def fsyncCounted (s : State) (b : Timebase) : State := bump { s with tb := b } cntFSYNCOOW

theorem fsyncOut_of_taken {p gap : Nat} (h : fsyncTaken s ∧ 128 < p ∧ p + 128 < s.tb.len) : fsyncOut s p gap =
    if resyncN s ≤ runOn s gap then tbStep (fsyncCounted s { s.tb with run := runOn s gap }) p
    else fsyncCounted s { s.tb with run := runOn s gap } := by
  obtain ⟨ht, hl, hh⟩ := h
  have hrun : (if (decide (0 < s.tb.run) && (decide (77632 ≤ gap) && decide (gap ≤ 77888))) = true then s.tb.run + 1 else 1) =
      runOn s gap := by simp [runOn]
  unfold fsyncOut
  rw [if_pos (by simp [fsyncActs_iff.2 ht, hl, hh]), ← hrun]
  rfl

theorem fsyncOut_of_not {p gap : Nat} (h : ¬ (fsyncTaken s ∧ 128 < p ∧ p + 128 < s.tb.len)) : fsyncOut s p gap = s := by
  refine if_neg fun hc => h ?_
  simp only [Bool.and_eq_true, decide_eq_true_eq] at hc
  obtain ⟨⟨ht, hl⟩, hh⟩ := hc
  exact ⟨fsyncActs_iff.1 ht, hl, hh⟩

/-- The timebase after a step at phase p (R110). -/
def stepped (b : Timebase) (p : Nat) : Timebase :=
  { b with mode := .locked, run := 0, nextLen := 77760, lossFlagged := false,
           len := if 38880 ≤ p then p else p + 77760, phase := p, stepEnd := if 38880 ≤ p then true else b.stepEnd }

theorem tbStep_eq (s : State) (p : Nat) : tbStep s p =
    if s.tb.mode = .acquire then setTb s (stepped s.tb p) else house (setTb s { stepped s.tb p with cause := 2 }) hFSYNC := by
  unfold tbStep stepped
  by_cases hm : s.tb.mode = .acquire <;> by_cases hp : 38880 ≤ p <;> simp [hm, hp, tbFlag, setTb]

theorem tbStep_fsyncCounted (s : State) (n p : Nat) : tbStep (fsyncCounted s { s.tb with run := n }) p =
    if s.tb.mode = .acquire then fsyncCounted s (stepped s.tb p)
    else house (fsyncCounted s { stepped s.tb p with cause := 2 }) hFSYNC :=
  tbStep_eq _ p

theorem fsyncEdgeOutOfWindow : FsyncEdgeOutOfWindow := by
  intro s p gap hq
  refine ⟨_, rfl, ?_⟩
  have counts : ∀ b, Unflagged s (fsyncCounted s b) := fun b => unflagged_bump (unflagged_setTb s b) _
  intro run stepped' counted
  by_cases h : fsyncTaken s ∧ 128 < p ∧ p + 128 < s.tb.len
  · rw [if_pos h, fsyncOut_of_taken h]
    by_cases hrun : runOn s gap < resyncN s
    · rw [if_pos (show run < resyncN s from hrun), if_neg (Nat.not_le.2 hrun)]
      exact (counts _).upToMarks hq
    · rw [if_neg (show ¬ run < resyncN s from hrun), if_pos (Nat.not_lt.1 hrun), tbStep_fsyncCounted]
      by_cases hm : s.tb.mode = .acquire
      · rw [if_pos hm, if_pos hm]
        exact (counts stepped').upToMarks hq
      · rw [if_neg hm, if_neg hm]
        exact (counts { stepped' with cause := 2 }).flagsSet hq rfl hFSYNC
  · rw [if_neg h, fsyncOut_of_not h]
    exact (unflagged_refl s).upToMarks hq

/-- Settles O9: each kind of edge by whether it is taken, and the step of the timebase by the half of the frame. -/
theorem fsyncEdges : Obligations.FsyncEdges := ⟨fsyncEdgeInWindow, fsyncEdgeOutOfWindow⟩

end Sys2Proof.Machine
end

section
/-!
PROOFS. Chapter 06: writes of the management bus that set fields (R116, R128, R134, Table MB-4), and TB_CTL: O23, O28.
-/
namespace Sys2Proof.Machine
open Sys2Proof.Safety Sys2Proof.Claims

variable {s e u : State} {off addr : Nat} {be : BE} {data mask vHl vIm : Word}

/-! ## Effects that move neither the modes nor the permission of event S -/

/-- `e` has the modes of `b`, permits event S as `b` does, and gathers the flags that `b` gathered; other immediate fields may
differ. -/
structure Calm (b e : State) : Prop where
  pw : e.pw = b.pw
  live : e.cfg.live = b.cfg.live
  hold : imAt e 0x40 = imAt b 0x40
  lean : e.allot.lean = b.allot.lean
  jobs : e.nv.jobs = b.nv.jobs
  orphan : e.nv.orphan = b.nv.orphan
  hsAcc : e.hsAcc = b.hsAcc

theorem Calm.trans (a : Calm s e) (b : Calm e u) : Calm s u :=
  ⟨b.pw.trans a.pw, b.live.trans a.live, b.hold.trans a.hold, b.lean.trans a.lean, b.jobs.trans a.jobs,
   b.orphan.trans a.orphan, b.hsAcc.trans a.hsAcc⟩

theorem Calm.permit (h : Calm s e) : permitS e = permitS s := by
  unfold permitS operating runEn holdCond regLive regImm regKey liveAt
  rw [h.pw, h.live, h.hold]

theorem Calm.code (h : Calm s e) : modeCode e = modeCode s := by
  unfold modeCode runEn holdCond regLive liveAt
  rw [h.pw, h.live, h.lean]

theorem Calm.work (h : Calm s e) : storeWork e = storeWork s := by
  unfold storeWork
  rw [h.jobs, h.orphan]

theorem Calm.upToMarks (hq : Quiet s) (h : Calm s e) : UpToMarks e (settle s e) := by
  refine settle_plain s e (h.hsAcc.trans hq.1) ?_ h.code.symm fun hp => h.permit.trans hp
  rw [h.work]
  exact Decidable.em _

theorem calm_setIm (s : State) {k : Nat} (h : k ≠ 0x40) (v : Word) : Calm s (setIm s k v) :=
  ⟨rfl, rfl, by rw [imAt_setIm, if_neg (Ne.symm h)], rfl, rfl, rfl, rfl⟩

theorem calm_fieldsWritten (s : State) (h : off ≠ 0x40) (mask vHl vIm : Word) : Calm s (fieldsWritten s off mask vHl vIm) := by
  have hu : ∀ x : Word, Calm s (if x = 0 then s else { setShadow s off ((shadowAt s off &&& ~~~x) ||| (vHl &&& x)) with
      hl := { s.hl with dirty := true } }) := fun x => by
    split <;> exact ⟨rfl, rfl, rfl, rfl, rfl, rfl, rfl⟩
  unfold fieldsWritten
  dsimp only
  split
  · exact hu _
  · exact (hu _).trans (calm_setIm _ h _)

/-! ## A served write is the fields' and what it starts -/

theorem put_of_served (hs : served s true addr be) (hbe : be ≠ 0)
    (hm : (servedWrite s (busOp addr) (baseOff addr) be data 0).pw.mode = s.pw.mode) :
    busPut addr be data s = .next (settle s (servedWrite s (busOp addr) (baseOff addr) be data 0)) := by
  have hw : busWrite s addr be data 0 = servedWrite s (busOp addr) (baseOff addr) be data 0 := busWrite_of_served hs hbe
  rw [← hw]
  have hmode : (busWrite s addr be data 0).pw.mode ≠ .reset := by
    rw [hw, hm]
    exact busServed_mode_ne_reset hs.2.1
  exact busDo_eq_settle (f := fun s => busWrite s addr be data 0) hs.1 hmode

/-- The fields of a write, with its mask and its bits by the kind of the write. -/
theorem writeIm_writeHl (s : State) (op : BusOp) (off : Nat) (be : BE) (data : Word)
    (hHl : vHl &&& writeMask op be data = writeBits op (shadowAt s off) data &&& writeMask op be data)
    (hIm : vIm &&& writeMask op be data = writeBits op (imAt s off) data &&& writeMask op be data) :
    writeIm (writeHl s op off be data) op off be data = fieldsWritten s off (writeMask op be data) vHl vIm := by
  have hhl : ∀ m : Word, vHl &&& (m &&& writeMask op be data) = writeBits op (shadowAt s off) data &&& (m &&& writeMask op be data) :=
    fun m => by rw [BitVec.and_comm m, ← BitVec.and_assoc, hHl, BitVec.and_assoc]
  have him : ∀ m : Word, vIm &&& (m &&& writeMask op be data) = writeBits op (imAt s off) data &&& (m &&& writeMask op be data) :=
    fun m => by rw [BitVec.and_comm m, ← BitVec.and_assoc, hIm, BitVec.and_assoc]
  have hsame : ∀ j, imAt (writeHl s op off be data) j = imAt s j := fun j => by
    simp only [writeHl, shadowMerge]
    split <;> rfl
  unfold fieldsWritten writeIm
  simp only [regKey, hsame, him, hhl]
  rfl

/-- A register that starts nothing by being written. -/
theorem servedWrite_plain (s : State) (op : BusOp) (be : BE) (data : Word) (hw : BitVec 24) (h : plainRegister off = true) :
    servedWrite s op off be data hw = writeIm (writeHl s op off be data) op off be data := by
  simp only [plainRegister, Bool.and_eq_true, Bool.not_eq_true', decide_eq_true_eq] at h
  obtain ⟨⟨⟨⟨⟨⟨⟨⟨⟨⟨⟨⟨⟨⟨⟨⟨⟨⟨⟨⟨hex, hsq⟩, h40⟩, h100⟩, h114⟩, h200⟩, h208⟩, h700⟩, h708⟩, h70C⟩, h720⟩, h80C⟩, h900⟩, h904⟩, hA28⟩,
    h1028⟩, h1300⟩, hbuf⟩, hpend⟩, hwt⟩, hlk⟩ := h
  have hwt' : ¬ ((decide (0x1200 ≤ off) && decide (off < 0x1280) && decide (off % 8 = 4)) = true) := fun hc => by
    simp only [Bool.and_eq_true, decide_eq_true_eq] at hc
    simp only [inWords, Bool.and_eq_false_iff, decide_eq_false_iff_not] at hwt
    omega
  unfold servedWrite writeAct
  simp only [hsq, h100, hbuf, hpend, h114, h200, h208, h700, h708, h70C, h720, h80C, h900, h904, hA28, h1028, h1300, hlk, hwt', if_false,
    Bool.false_eq_true]

theorem regExists_aligned (h : regExists off = true) : off % 4 = 0 := by
  simp only [regExists, inWords, isLinkOff, Bool.or_eq_true, Bool.and_eq_true, decide_eq_true_eq] at h
  unfold linkOff at h
  omega

/-! ## Writes of plain registers (O23) -/

theorem plainRegister_exists (h : plainRegister off = true) : regExists off = true := by
  unfold plainRegister at h
  simp only [Bool.and_eq_true] at h
  tauto

theorem plainRegister_ne_hold (h : plainRegister off = true) : off ≠ 0x40 := by
  rintro rfl
  exact absurd h (by decide)

/-- The base offset behind an alias. -/
theorem baseOff_alias (hlow : off < 0x2000) (hal : off % 4 = 0) (k : Nat) : baseOff (0x4000 * k + off) = off := by
  unfold baseOff
  omega

/-- A write of a plain register, in any view, writes its fields and nothing else. -/
theorem put_plain (hq : Quiet s) (hbe : be ≠ 0) (hp : plainRegister off = true) (hs : served s true addr be)
    (hbase : baseOff addr = off)
    (hHl : vHl &&& writeMask (busOp addr) be data = writeBits (busOp addr) (shadowAt s off) data &&& writeMask (busOp addr) be data)
    (hIm : vIm &&& writeMask (busOp addr) be data = writeBits (busOp addr) (imAt s off) data &&& writeMask (busOp addr) be data) :
    ∃ t, busPut addr be data s = .next t ∧ UpToMarks (fieldsWritten s off (writeMask (busOp addr) be data) vHl vIm) t := by
  have hw : servedWrite s (busOp addr) (baseOff addr) be data 0 = fieldsWritten s off (writeMask (busOp addr) be data) vHl vIm := by
    rw [hbase, servedWrite_plain _ _ _ _ _ hp, writeIm_writeHl _ _ _ _ _ hHl hIm]
  have hcalm := calm_fieldsWritten s (plainRegister_ne_hold hp) (writeMask (busOp addr) be data) vHl vIm
  refine ⟨_, put_of_served hs hbe ?_, ?_⟩
  · rw [hw, hcalm.pw]
  · rw [hw]
    exact hcalm.upToMarks hq

/-- Settles O23: the kind of the write gives its mask and its bits, and a plain register starts nothing. -/
theorem registerWrites : Obligations.RegisterWrites := by
  intro s off be data hq hbe hlow hp ones
  have hal := regExists_aligned (plainRegister_exists hp)
  have hop : ∀ k, k < 4 → busOp (0x4000 * k + off.toNat) = busOp (0x4000 * k) := fun k hk => by
    have h1 : (0x4000 * k + off.toNat) / 0x4000 % 4 = k := by omega
    have h2 : 0x4000 * k / 0x4000 % 4 = k := by omega
    simp only [busOp, h1, h2]
  have hset := hop 1 (by decide)
  have hclr := hop 2 (by decide)
  have htgl := hop 3 (by decide)
  have hplain : busOp off.toNat = busOp 0 := by simpa using hop 0 (by decide)
  refine ⟨fun hs => ?_, fun hs => ?_, fun hs => ?_, fun hs => ?_⟩
  · have h := put_plain (data := data) (vHl := data) (vIm := data) hq hbe hp hs (baseOff_of_aligned hlow hal)
    rw [hplain] at h
    exact h rfl rfl
  · have h := put_plain (data := data) (vHl := ones) (vIm := ones) hq hbe hp hs (baseOff_alias hlow hal 1)
    rw [hset] at h
    have hones : ones &&& ones = BitVec.allOnes 32 &&& ones := by rw [BitVec.and_self, BitVec.allOnes_and]
    exact h hones hones
  · have h := put_plain (data := data) (vHl := 0) (vIm := 0) hq hbe hp hs (baseOff_alias hlow hal 2)
    rw [hclr] at h
    exact h rfl rfl
  · have h := put_plain (data := data) (vHl := ~~~ shadowAt s off.toNat) (vIm := ~~~ imAt s off.toNat) hq hbe hp hs
      (baseOff_alias hlow hal 3)
    rw [htgl] at h
    exact h rfl rfl

/-! ## TB_CTL (O28) -/

theorem tbSource_eq (s : State) (old new : Bool) : tbSource s old new =
    if old = new then s
    else if new = true then { s with tb := { s.tb with mode := .acquire, run := 0 } }
    else { s with tb := { s.tb with mode := .free, nextLen := 77760, run := 0, accepted := false, lossFlagged := false } } := rfl

/-- TB_CTL has no field of the HL class. -/
theorem writeIm_tbCtl (s : State) (be : BE) (data : Word) :
    writeIm s .plain 0x100 be data = fieldsWritten s 0x100 (beMask be) data data := by
  have h := writeIm_writeHl s .plain 0x100 be data (vHl := data) (vIm := data) rfl rfl
  have hnone : regHl 0x100 = 0 := by decide
  have hhl : writeHl s .plain 0x100 be data = s := by
    unfold writeHl shadowMerge
    rw [hnone]
    exact if_pos (by simp)
  rw [hhl] at h
  exact h

theorem tbCtl_plain (s : State) (be : BE) (data : Word) : tbCtl s .plain be data =
    let w := fieldsWritten s 0x100 (beMask be) data data
    tbSource w (bit (imAt s 0x100) 0) (bit (imAt w 0x100) 0) := by
  unfold tbCtl
  rw [writeIm_tbCtl]
  rfl

theorem fieldsWritten_tb (s : State) (off : Nat) (mask vHl vIm : Word) : (fieldsWritten s off mask vHl vIm).tb = s.tb := by
  unfold fieldsWritten
  dsimp only
  split <;> split <;> rfl

/-- Settles O28: the fields take the write, and the source then follows them. -/
theorem timebaseSource : Obligations.TimebaseSource := by
  intro s be data hq hbe hs w
  have hcalm : Calm s w := calm_fieldsWritten s (by decide) _ _ _
  have hw : servedWrite s (busOp 0x100) (baseOff 0x100) be data 0 = tbSource w (bit (imAt s 0x100) 0) (bit (imAt w 0x100) 0) :=
    tbCtl_plain s be data
  have htb : w.tb = s.tb := fieldsWritten_tb s _ _ _ _
  have hbase : ∀ b : Timebase, Calm s { w with tb := b } := fun b => ⟨hcalm.pw, hcalm.live, hcalm.hold, hcalm.lean, hcalm.jobs,
    hcalm.orphan, hcalm.hsAcc⟩
  refine ⟨_, put_of_served hs hbe ?_, ?_⟩
  · rw [hw, tbSource_mode, hcalm.pw]
  · rw [hw, tbSource_eq, htb]
    split
    · exact hcalm.upToMarks hq
    · split
      · exact (hbase _).upToMarks hq
      · exact (hbase _).upToMarks hq

end Sys2Proof.Machine
end

section
/-!
PROOFS. Chapter 06: refused cycles (R130, R131) and reads (R126, R128, R438): O22, O25.
-/
namespace Sys2Proof.Machine
open Sys2Proof.Safety Sys2Proof.Claims

variable {s e : State} {off addr : Nat} {be : BE} {data : Word} {c : BitVec 4} {rd : Bool}

/-! ## Refusals -/

theorem busOp_eq_plain_iff (h : addr < 0x10000) : busOp addr = .plain ↔ addr < 0x4000 := by
  have hk : addr / 0x4000 % 4 = addr / 0x4000 := by omega
  unfold busOp
  rw [hk]
  constructor
  · intro hp
    by_contra hn
    have : addr / 0x4000 = 1 ∨ addr / 0x4000 = 2 ∨ addr / 0x4000 = 3 := by omega
    rcases this with h1 | h1 | h1 <;> rw [h1] at hp <;> cases hp
  · intro hp
    have h0 : addr / 0x4000 = 0 := by omega
    rw [h0]
    rfl

/-- Table MB-2 in its order, outside FALLOW. -/
theorem refusal_eq (hf : s.pw.mode ≠ .fallow) (ha : addr < 0x10000) (write : Bool) (be : BE) : refusal s write addr be =
    (if write = true ∧ 0x2000 ≤ addr % 0x4000 then some 1
     else if 0x4000 ≤ addr ∧ isSq (addr % 0x2000 / 4 * 4) = true then some 2
     else if regExists (addr % 0x2000 / 4 * 4) = false then some 4
     else if groupServed s (addr % 0x2000 / 4 * 4) = false then some 5
     else if write = true ∧ isSq (addr % 0x2000 / 4 * 4) = true ∧ be ≠ 15 then some 3 else none) := by
  have hop : busOp addr ≠ .plain ↔ 0x4000 ≤ addr := by rw [Ne, busOp_eq_plain_iff ha, Nat.not_lt]
  unfold refusal
  rw [if_neg hf]
  simp only [isLiveView, baseOff, Bool.and_eq_true, decide_eq_true_eq, hop, Bool.not_eq_true', and_assoc]

/-- What MB_ERR keeps of a refused access, outside FALLOW. -/
theorem refuse_of_not_fallow (hf : s.pw.mode ≠ .fallow) : refuse s c rd addr = mbRefuse s c rd (BitVec.ofNat 14 (addr / 4)) :=
  if_neg hf

theorem mbRefuse_eq (s : State) (c : BitVec 4) (rd : Bool) (a : BitVec 14) : mbRefuse s c rd a =
    if (sqOf s 0x20).flags.getLsbD 0 = true then sqSet s 0x20 2
    else { sqSet s 0x20 1 with bus := { s.bus with errCode := c, errRd := rd, errAddr := a } } := rfl

theorem unflagged_mbRefuse (s : State) (c : BitVec 4) (rd : Bool) (a : BitVec 14) : Unflagged s (mbRefuse s c rd a) := by
  rw [mbRefuse_eq]
  split <;> exact ⟨⟨rfl, rfl, rfl, rfl, rfl, rfl⟩, rfl⟩

theorem unflagged_setRdata (h : Unflagged s e) (w : Word) : Unflagged s (setRdata e w) :=
  ⟨⟨h.pw, h.live, h.im, h.lean, h.jobs, h.orphan⟩, h.hsAcc⟩

/-- A write cycle that leaves the modes alone. -/
theorem put_eq (hb : BusDefined s) (hs : busServed s = true) (h : busWrite s addr be data 0 = e) (hu : Unflagged s e) :
    busPut addr be data s = .next (settle s e) := by
  have hm : (busWrite s addr be data 0).pw.mode ≠ .reset := by
    rw [h, hu.pw]
    exact busServed_mode_ne_reset hs
  rw [← h]
  exact busDo_eq_settle (f := fun s => busWrite s addr be data 0) hb hm

/-- A read cycle that leaves the modes alone. -/
theorem get_eq (hb : BusDefined s) (hs : busServed s = true) (h : busRead s addr = e) (hu : Unflagged s e) :
    busGet addr s = .next (settle s e) := by
  have hm : (busRead s addr).pw.mode ≠ .reset := by
    rw [h, hu.pw]
    exact busServed_mode_ne_reset hs
  rw [← h]
  exact busDo_eq_settle (f := fun s => busRead s addr) hb hm

theorem busWrite_refused (hs : busServed s = true) (hbe : be ≠ 0) (hr : refusal s true addr be = some c) :
    busWrite s addr be data 0 = refuse s c false addr := by
  unfold busWrite
  rw [hs, if_neg (by simpa using hbe), hr]

theorem busRead_refused (hs : busServed s = true) (hr : refusal s false addr 15 = some c) :
    busRead s addr = setRdata (refuse s c true addr) 0 := by
  unfold busRead
  rw [hs, if_neg (by decide), hr]

/-- Settles O22: the code by Table MB-2, and what MB_ERR keeps of a cycle that is refused. -/
theorem refusedCycles : Obligations.RefusedCycles := by
  intro s off be data addr hq hb hs hf note
  have haddr : addr.toNat < 0x10000 := addr.isLt
  refine ⟨?_, ?_, fun hbe => ?_, fun c hbe hr => ?_, fun c hr => ?_⟩
  · simpa using refusal_eq hf haddr true be
  · simpa using refusal_eq hf haddr false be
  · have hw : busWrite s off.toNat be data 0 = s := by simp [busWrite, hbe]
    exact ⟨_, put_eq hb hs hw (unflagged_refl s), (unflagged_refl s).upToMarks hq⟩
  · have hu := unflagged_mbRefuse s c false (BitVec.ofNat 14 (off.toNat / 4))
    have hw := (busWrite_refused (data := data) hs hbe hr).trans (refuse_of_not_fallow hf)
    exact ⟨_, put_eq hb hs hw hu, hu.upToMarks hq⟩
  · have hu := unflagged_setRdata (unflagged_mbRefuse s c true (BitVec.ofNat 14 (addr.toNat / 4))) 0
    have hw := (busRead_refused hs hr).trans (congrArg (setRdata · 0) (refuse_of_not_fallow hf))
    have hnote : setRdata (mbRefuse s c true (BitVec.ofNat 14 (addr.toNat / 4))) 0 =
        note { s with bus := { s.bus with rdata := 0 } } c true addr.toNat := by
      rw [mbRefuse_eq]
      dsimp only [note]
      split <;> rfl
    refine ⟨_, get_eq hb hs hw hu, ?_⟩
    rw [← hnote]
    exact hu.upToMarks hq

/-! ## Reads -/

theorem busRead_of_served (hs : served s false addr 15) : busRead s addr = servedRead s (isLiveView addr) (baseOff addr) := by
  obtain ⟨-, hbus, hrefuse⟩ := hs
  unfold busRead
  rw [hbus, if_neg (by decide), hrefuse]

/-- The later words of a multi-word register, as one capture leaves them. -/
theorem tabGet_capture (t : Tab Word) (f : Nat → Word) (first n : Nat) {j : Nat} (hj : j < n) :
    tabGet ((upTo n).foldl (fun t i => tabSet t 0 (first + 4 * (i + 1)) (f (i + 1))) t) 0 (first + 4 * (j + 1)) = f (j + 1) := by
  induction n with
  | zero => omega
  | succ n ih =>
    rw [upTo, List.range_succ, List.foldl_append, List.foldl_cons, List.foldl_nil, tabGet_tabSet]
    split
    · next h =>
      have : j = n := by omega
      rw [this]
    · next h => exact ih (by omega)

theorem unflagged_capture (s : State) (live : Bool) (first words : Nat) : Unflagged s (capture s live first words) := by
  unfold capture
  dsimp only
  split <;> exact ⟨⟨rfl, rfl, rfl, rfl, rfl, rfl⟩, rfl⟩

/-- A capture writes the words captured for its own view. -/
theorem capture_eq_bus (s : State) (live : Bool) (first words : Nat) :
    capture s live first words = { s with bus := (capture s live first words).bus } := by
  unfold capture
  dsimp only
  split <;> rfl

theorem capture_other (s : State) (live : Bool) (first words : Nat) :
    if live = true then (capture s live first words).bus.capBase = s.bus.capBase
    else (capture s live first words).bus.capLive = s.bus.capLive := by
  unfold capture
  dsimp only
  cases live <;> rfl

theorem capture_words (s : State) (live : Bool) {first words i : Nat} (h1 : 1 ≤ i) (hi : i < words) :
    tabGet (if live = true then (capture s live first words).bus.capLive else (capture s live first words).bus.capBase) 0
      (first + 4 * i) = regRead s live (first + 4 * i) := by
  obtain ⟨j, rfl⟩ : ∃ j, i = j + 1 := ⟨i - 1, by omega⟩
  have hj : j < words - 1 := by omega
  cases live
  · exact tabGet_capture s.bus.capBase (fun i => regRead s false (first + 4 * i)) first _ hj
  · exact tabGet_capture s.bus.capLive (fun i => regRead s true (first + 4 * i)) first _ hj

/-- Settles O25: a read returns what stands, and a multi-word register is captured with its first word. -/
theorem reads : Obligations.Reads := by
  intro s addr hq hs off live hwt
  have ends : ∀ {x : State}, servedRead s live off = x → Unflagged s x →
      ∃ t, exec (.multiwordCapture addr) s = .next t ∧ t = settle s x := fun {x} hx hu =>
    ⟨_, get_eq hs.1 hs.2.1 ((busRead_of_served hs).trans hx) hu, rfl⟩
  refine ⟨fun hm => ?_, fun words hm => ?_, fun first words hm hne => ?_⟩
  · have hx : servedRead s live off = setRdata s (regRead s live off) := by
      unfold servedRead
      rw [hwt, hm]
      rfl
    have hu := unflagged_setRdata (unflagged_refl s) (regRead s live off)
    obtain ⟨t, ht, rfl⟩ := ends hx hu
    exact ⟨_, ht, hu.upToMarks hq⟩
  · have hx : servedRead s live off = setRdata (capture s live off words) (regRead s live off) := by
      unfold servedRead
      rw [hwt, hm]
      exact if_pos rfl
    have hu := unflagged_setRdata (unflagged_capture s live off words) (regRead s live off)
    obtain ⟨t, ht, rfl⟩ := ends hx hu
    refine ⟨_, ht, by simp, fun i h1 hi => ?_, ?_, ?_⟩
    · rw [settle_bus]
      exact capture_words s live h1 hi
    · rw [settle_bus]
      exact capture_other s live off words
    · have hbus : ({ s with bus := (settle s (setRdata (capture s live off words) (regRead s live off))).bus } : State) =
          setRdata (capture s live off words) (regRead s live off) := by
        rw [settle_bus]
        conv_rhs => rw [capture_eq_bus]
        rfl
      rw [hbus]
      exact hu.upToMarks hq
  · have hx : servedRead s live off = setRdata s (captured s live off) := by
      unfold servedRead
      rw [hwt, hm]
      exact if_neg hne
    have hu := unflagged_setRdata (unflagged_refl s) (captured s live off)
    obtain ⟨t, ht, rfl⟩ := ends hx hu
    exact ⟨_, ht, hu.upToMarks hq⟩

end Sys2Proof.Machine
end

section
/-!
PROOFS. Chapter 02: the events of Table IS-5 on one INTID, and what they leave alone: O10; the wired inputs: O11.
-/
namespace Sys2Proof.Machine
open Sys2Proof.Safety Sys2Proof.Claims

variable {s b e u : State} {k : Nat} {n : Option NoteKey} {t : Target}

/-! ## Changes that leave the modes alone and gather house flags only -/

/-- `e` has the modes of `b`; SEQ of HS_STAT has advanced in it if it had in `b`. -/
structure Gathers (b e : State) : Prop extends SameModes b e where
  first : e.sqAcc.contains 0x300 = b.sqAcc.contains 0x300

theorem gathers_refl (s : State) : Gathers s s := ⟨⟨rfl, rfl, rfl, rfl, rfl, rfl⟩, rfl⟩

theorem Gathers.trans (h : Gathers s b) (g : Gathers b e) : Gathers s e :=
  ⟨⟨g.pw.trans h.pw, g.live.trans h.live, g.im.trans h.im, g.lean.trans h.lean, g.jobs.trans h.jobs,
    g.orphan.trans h.orphan⟩, g.first.trans h.first⟩

theorem Unflagged.gathers (h : Unflagged b e) (hs : e.sqAcc = b.sqAcc) : Gathers b e := ⟨h.toSameModes, by rw [hs]⟩

theorem Gathers.closed (hq : Quiet s) (h : Gathers s e) : Closed e (settle s e) := by
  refine settle_closed ?_ h.toSameModes
  rw [h.first, hq.2]
  rfl

theorem gathers_fold {α : Type} {f : State → α → State} (l : List α) (h : ∀ s x, Gathers s (f s x)) (s : State) :
    Gathers s (foldS f s l) :=
  foldS_inv (Gathers s) f l s (gathers_refl s) fun x a hx => hx.trans (h x a)

/-- Flags that were gathered stand out as one set; without any, nothing but the arbiter has followed. -/
theorem Closed.upToMarks (h : Closed e u) (h0 : e.hsAcc = 0) : UpToMarks e u := by
  unfold Closed at h
  rwa [if_pos h0] at h

/-! ## Changes of one INTID -/

/-- `e` is `b` but for the INTID of key k, the notifications and the counters. -/
structure OnInt (k : Nat) (b e : State) : Prop extends Gathers b e where
  others : ∀ j, j ≠ k → intOf e j = intOf b j
  tgts : e.irq.tgts = b.irq.tgts

theorem onInt_refl (k : Nat) (s : State) : OnInt k s s := ⟨gathers_refl s, fun _ _ => rfl, rfl⟩

theorem OnInt.trans (h : OnInt k s b) (g : OnInt k b e) : OnInt k s e :=
  ⟨h.toGathers.trans g.toGathers, fun j hj => (g.others j hj).trans (h.others j hj), g.tgts.trans h.tgts⟩

theorem onInt_setInt (s : State) (k : Nat) (r : IntRec) : OnInt k s (setInt s k r) :=
  ⟨(unflagged_setInt (unflagged_refl s) k r).gathers rfl, fun j hj => by rw [intOf_setInt, if_neg hj], rfl⟩

theorem onInt_bump (k : Nat) (s : State) (off : Nat) : OnInt k s (bump s off) :=
  ⟨(unflagged_bump (unflagged_refl s) off).gathers rfl, fun _ _ => rfl, rfl⟩

theorem onInt_placeNote (k : Nat) (s : State) (n : NoteKey) (i : Intid) : OnInt k s (placeNote s n i).1 := by
  unfold placeNote
  split
  · exact ⟨⟨⟨rfl, rfl, rfl, rfl, rfl, rfl⟩, rfl⟩, fun _ _ => rfl, rfl⟩
  · exact ⟨⟨⟨rfl, rfl, rfl, rfl, rfl, rfl⟩, rfl⟩, fun _ _ => rfl, rfl⟩

/-- A trigger places the notification that its INTID still owes, if any. -/
def noteOwed (s : State) (k : Nat) : State :=
  match (intOf s k).note, (intOf s k).noteId with
  | some n, none => (placeNote s n (keyIntid k)).1
  | _, _ => s

theorem onInt_noteOwed (s : State) (k : Nat) : OnInt k s (noteOwed s k) := by
  unfold noteOwed
  split
  · exact onInt_placeNote k s _ _
  · exact onInt_refl k s

/-- Event T by the state of the INTID. -/
theorem evT_eq (s : State) (k : Nat) (n : Option NoteKey) : evT s k n =
    match (intOf s k).st with
    | .inactive => setInt s k { intOf s k with st := .pending, age := 0, note := n, noteId := none, discard := false }
    | .completed =>
      setInt (noteOwed s k) k { intOf s k with st := .pending, age := 0, note := n, noteId := none, discard := false }
    | .active => if isLevel s (keyTarget k) (keyIntid k) = true then s else loseTrigger s k
    | _ => s := rfl

theorem onInt_loseTrigger (s : State) (k : Nat) : OnInt k s (loseTrigger s k) :=
  (onInt_setInt s k _).trans (onInt_bump k _ _)

theorem onInt_evT (s : State) (k : Nat) (n : Option NoteKey) : OnInt k s (evT s k n) := by
  rw [evT_eq]
  split
  · exact onInt_setInt s k _
  · exact (onInt_noteOwed s k).trans (onInt_setInt _ k _)
  · split
    · exact onInt_refl k s
    · exact onInt_loseTrigger s k
  · exact onInt_refl k s

theorem evSet_of_ne_active (h : (intOf s k).st ≠ .active) : evSet s k = evT s k none := by
  unfold evSet
  split
  · next ha => exact absurd ha h
  · rfl

theorem evSet_of_active (h : (intOf s k).st = .active) : evSet s k = loseTrigger s k := by
  unfold evSet
  rw [h]

theorem onInt_evSet (s : State) (k : Nat) : OnInt k s (evSet s k) := by
  by_cases h : (intOf s k).st = .active
  · rw [evSet_of_active h]
    exact onInt_loseTrigger s k
  · rw [evSet_of_ne_active h]
    exact onInt_evT s k none

theorem onInt_evF (s : State) (k : Nat) : OnInt k s (evF s k) := by
  unfold evF
  dsimp only
  split
  · exact onInt_setInt s k _
  · exact onInt_setInt s k _
  · exact onInt_refl k s

theorem onInt_evW (s : State) (k : Nat) : OnInt k s (evW s k) := by
  unfold evW
  dsimp only
  split
  · exact onInt_setInt s k _
  · exact onInt_refl k s

theorem onInt_evC (s : State) (k : Nat) (t : Target) : OnInt k s (evC s k t) := by
  unfold evC
  dsimp only
  split
  · exact onInt_setInt s k _
  · exact onInt_refl k s

theorem onInt_evN (s : State) (k : Nat) : OnInt k s (evN s k) := by
  obtain hn | ⟨r, hn | hn⟩ := evN_cases s k
  · rw [hn]; exact onInt_refl k s
  · rw [hn]; exact onInt_setInt s k r
  · rw [hn]; exact (onInt_setInt s k r).trans (onInt_bump k _ _)

theorem onInt_evE (s : State) (k : Nat) : OnInt k s (evE s k) := by
  unfold evE
  dsimp only
  split
  · exact onInt_setInt s k _
  · exact onInt_refl k s

theorem onInt_evK (s : State) (k : Nat) : OnInt k s (evK s k) := by
  unfold evK
  dsimp only
  split
  · split
    · exact onInt_refl k s
    · exact onInt_setInt s k _
  · split
    · exact onInt_refl k s
    · exact onInt_setInt s k _
  · exact onInt_refl k s

theorem onInt_evD (s : State) (k : Nat) : OnInt k s (evD s k) := by
  unfold evD
  dsimp only
  split
  · exact (onInt_setInt s k _).trans (onInt_bump k _ _)
  · exact (onInt_setInt s k _).trans (onInt_bump k _ _)
  · exact onInt_setInt s k _
  · exact onInt_refl k s

/-! ## The state an event leads to -/

theorem restRec_st (k : Nat) (r : IntRec) : (restRec k r).st = .inactive := by
  unfold restRec
  split <;> rfl

theorem intOf_loseTrigger (s : State) (k : Nat) :
    intOf (loseTrigger s k) k = { intOf s k with lost := satInc8 (intOf s k).lost } := by
  unfold loseTrigger
  rw [intOf_bump, intOf_setInt_self]

theorem cntOf_loseTrigger (s : State) (k : Nat) : cntOf (loseTrigger s k) cntLOST = cntOf s cntLOST + 1 := by
  unfold loseTrigger
  rw [cntOf_bump, if_pos rfl]
  rfl

theorem evT_st (s : State) (k : Nat) (n : Option NoteKey) : (intOf (evT s k n) k).st =
    match (intOf s k).st with
    | .inactive | .completed => .pending
    | x => x := by
  rw [evT_eq]
  cases h : (intOf s k).st
  case active =>
    dsimp only
    split
    · exact h
    · rw [intOf_loseTrigger]; exact h
  case inactive => exact congrArg IntRec.st (intOf_setInt_self _ _ _)
  case completed => exact congrArg IntRec.st (intOf_setInt_self _ _ _)
  all_goals exact h

theorem evT_of_active (h : (intOf s k).st = .active) :
    evT s k n = if isLevel s (keyTarget k) (keyIntid k) = true then s else loseTrigger s k := by
  rw [evT_eq, h]

theorem evF_st (s : State) (k : Nat) : (intOf (evF s k) k).st =
    match (intOf s k).st with
    | .pending | .offeredP => .inactive
    | x => x := by
  unfold evF
  cases h : (intOf s k).st <;> simp [h, restRec_st]

theorem evW_st (s : State) (k : Nat) : (intOf (evW s k) k).st =
    match (intOf s k).st with
    | .offeredP => .pending
    | x => x := by
  unfold evW
  cases h : (intOf s k).st <;> simp [h]

theorem evC_st (s : State) (k : Nat) (t : Target) : (intOf (evC s k t) k).st =
    match (intOf s k).st with
    | .offeredE => .active
    | x => x := by
  unfold evC
  cases h : (intOf s k).st <;> simp [h]

theorem evE_st (s : State) (k : Nat) : (intOf (evE s k) k).st =
    match (intOf s k).st with
    | .active => .completed
    | x => x := by
  unfold evE
  cases h : (intOf s k).st <;> simp [h]

theorem evN_st (s : State) (k : Nat) : (intOf (evN s k) k).st =
    match (intOf s k).st with
    | .offeredE =>
      if (intOf s k).discard = true ∨
        (isLevel s (keyTarget k) (keyIntid k) = true ∧ levelHigh s (keyTarget k) (keyIntid k) = false) then .inactive
      else .pending
    | x => x := by
  cases h : (intOf s k).st
  case offeredE =>
    simp only [evN, h]
    by_cases hd : (intOf s k).discard = true
    · rw [if_pos hd, if_pos (.inl hd), intOf_bump, intOf_setInt_self]
      exact restRec_st _ _
    · rw [if_neg hd]
      by_cases hl : isLevel s (keyTarget k) (keyIntid k) = true ∧ levelHigh s (keyTarget k) (keyIntid k) = false
      · rw [if_pos (by simp [hl]), if_pos (.inr hl), intOf_setInt_self]
        exact restRec_st _ _
      · rw [if_neg (by simpa using hl), if_neg (not_or.2 ⟨hd, hl⟩), intOf_setInt_self]
  all_goals simp only [evN, h]

theorem evK_st (s : State) (k : Nat) : (intOf (evK s k) k).st =
    match (intOf s k).st with
    | .pending => if isLevel s (keyTarget k) (keyIntid k) = true ∧ levelHigh s (keyTarget k) (keyIntid k) = true
        then .pending else .inactive
    | .offeredP => if isLevel s (keyTarget k) (keyIntid k) = true ∧ levelHigh s (keyTarget k) (keyIntid k) = true
        then .offeredP else .inactive
    | x => x := by
  unfold evK
  by_cases hl : isLevel s (keyTarget k) (keyIntid k) = true ∧ levelHigh s (keyTarget k) (keyIntid k) = true
  · cases h : (intOf s k).st <;> simp [h, hl]
  · have hl' : (isLevel s (keyTarget k) (keyIntid k) && levelHigh s (keyTarget k) (keyIntid k)) = false := by simpa using hl
    cases h : (intOf s k).st <;> simp [h, hl, hl', restRec_st]

theorem evD_st (s : State) (k : Nat) : (intOf (evD s k) k).st =
    match (intOf s k).st with
    | .pending | .offeredP => .inactive
    | x => x := by
  unfold evD
  cases h : (intOf s k).st <;> simp [h, restRec_st]

/-- Settles O10: Table IS-5 event by event, and the frame that each keeps (`OnInt`). -/
theorem eventsOnAnIntid : Obligations.EventsOnAnIntid := by
  intro s k n tg r level high
  refine ⟨evT_st s k n, fun h => ?_, fun h => ?_, evSet_of_ne_active, evF_st s k, evW_st s k, evC_st s k tg, fun h => ?_,
    evN_st s k, fun h hd => ?_, evE_st s k, evK_st s k, evD_st s k, fun h => ?_, fun h => ?_, fun t ht => ?_⟩
  · rw [evT_of_active h]
    by_cases hl : level = true
    · rw [if_pos hl, if_pos hl, if_pos hl]
      exact ⟨rfl, rfl⟩
    · rw [if_neg hl, if_neg hl, if_neg hl, intOf_loseTrigger]
      exact ⟨rfl, cntOf_loseTrigger s k⟩
  · rw [evSet_of_active h, intOf_loseTrigger]
    exact ⟨h, rfl, cntOf_loseTrigger s k⟩
  · rw [evC_of_offeredE h, intOf_setInt_self]
  · replace h : (intOf s k).st = .offeredE := h
    replace hd : (intOf s k).discard = true := hd
    simp only [evN, h, hd, if_true, cntOf_bump]
    rfl
  · replace h : (intOf s k).st = .pending ∨ (intOf s k).st = .offeredP := h
    rcases h with h | h <;> simp only [evD, h, cntOf_bump, if_true] <;> rfl
  · replace h : (intOf s k).st = .offeredE := h
    simp only [evD, h, intOf_setInt_self]
  · have frame : OnInt k s t := by
      rcases ht with rfl | rfl | rfl | rfl | rfl | rfl | rfl | rfl | rfl
      · exact onInt_evT s k n
      · exact onInt_evSet s k
      · exact onInt_evF s k
      · exact onInt_evW s k
      · exact onInt_evC s k tg
      · exact onInt_evN s k
      · exact onInt_evE s k
      · exact onInt_evK s k
      · exact onInt_evD s k
    exact ⟨frame.others, frame.tgts, frame.live⟩

/-! ## Wired inputs (R523) -/

theorem wiredPass_eq (s : State) (m : Nat) : wiredPass s m = wiredPassed s m (wiredLevel s m) := by
  unfold wiredPass wiredPassed
  by_cases hm : s.pw.mode = .operating
  · have hop : operating { s with irq := { s.irq with
        wFilt := putBit96 s.irq.wFilt m (wiredLevel s m), wTran := putBit96 s.irq.wTran m false } } = true := decide_eq_true hm
    simp only [hop, hm, if_true, ne_eq, not_true, if_false]
  · have hop : operating { s with irq := { s.irq with
        wFilt := putBit96 s.irq.wFilt m (wiredLevel s m), wTran := putBit96 s.irq.wTran m false } } = false := decide_eq_false hm
    simp only [hop, hm, ne_eq, not_false_iff, if_true, Bool.false_eq_true, if_false]

theorem gathers_irq (s : State) (q : Irq) : Gathers s { s with irq := q } := ⟨⟨rfl, rfl, rfl, rfl, rfl, rfl⟩, rfl⟩
theorem unflagged_irq (s : State) (q : Irq) : Unflagged s { s with irq := q } := ⟨⟨rfl, rfl, rfl, rfl, rfl, rfl⟩, rfl⟩

theorem gathers_wiredPassed (s : State) (m : Nat) (v : Bool) : Gathers s (wiredPassed s m v) := by
  unfold wiredPassed
  dsimp only
  split
  · exact gathers_irq s _
  · split
    · exact (gathers_irq s _).trans (onInt_evT _ _ _).toGathers
    · split
      · exact gathers_irq s _
      · exact (gathers_irq s _).trans (onInt_evF _ _).toGathers

/-- An input as it has been driven reads as the level at its pin, under POL. -/
theorem wiredLevel_driven (s : State) {m : Nat} (hm : m < 96) (level : Bool) :
    wiredLevel { s with irq := { s.irq with wPin := putBit96 s.irq.wPin m level } } m = xor level (wiredPol s m) := by
  have hp : (putBit96 s.irq.wPin m level).getLsbD m = level := by
    unfold putBit96
    cases level <;> simp [hm]
  unfold wiredLevel
  rw [hp]
  rfl

theorem filterRuns_iff : filterRuns s = true ↔ s.pw.mode = .operating ∨ s.pw.mode = .safe ∨ s.pw.mode = .lastGasp := by
  simp [filterRuns, operating, or_assoc]

/-- Settles O11: a transition is cancelled, begins or passes by its level and by F; what passes is `wiredPassed`. -/
theorem wiredInputs : Obligations.WiredInputs := by
  intro s n level hq runs p v
  have drives : runs → wirqTransition s n.toNat level = wiredDetect p n.toNat := fun h => by
    unfold wirqTransition
    rw [if_pos (by rw [filterRuns_iff.2 h.2, decide_eq_true h.1]; rfl)]
  have level' : runs → wiredLevel p n.toNat = v := fun h => wiredLevel_driven s h.1 level
  have close : ∀ {x}, wirqTransition s n.toNat level = x → exec (.wirqTransition n level) s = .next (settle s x) := by
    rintro x rfl
    rfl
  have driven : ∀ q, Gathers s { p with irq := q } := gathers_irq s
  refine ⟨fun h hv => ?_, fun h hv hf => ?_, fun h hv hf => ?_, fun h ht => ?_, fun h => ?_, fun h => ?_⟩
  · have hd : wiredDetect p n.toNat = { p with irq := { p.irq with wTran := putBit96 s.irq.wTran n.toNat false } } :=
      if_pos ((level' h).trans hv)
    exact ⟨_, close ((drives h).trans hd), (unflagged_irq s _).upToMarks hq⟩
  · have hd : wiredDetect p n.toNat = { p with irq := { p.irq with
        wTran := putBit96 s.irq.wTran n.toNat true, wSince := tabSet s.irq.wSince 0 n.toNat s.now } } := by
      unfold wiredDetect
      rw [if_neg (by rw [level' h]; exact hv)]
      exact if_neg hf
    exact ⟨_, close ((drives h).trans hd), (unflagged_irq s _).upToMarks hq⟩
  · have hd : wiredDetect p n.toNat = wiredPassed { p with irq := { p.irq with
        wTran := putBit96 s.irq.wTran n.toNat true, wSince := tabSet s.irq.wSince 0 n.toNat s.now } } n.toNat v := by
      unfold wiredDetect
      rw [if_neg (by rw [level' h]; exact hv)]
      refine (if_pos hf).trans ?_
      rw [wiredPass_eq]
      exact congrArg (wiredPassed _ _) (level' h)
    exact ⟨_, close ((drives h).trans hd), Gathers.closed hq ((driven _).trans (gathers_wiredPassed _ _ _))⟩
  · have hd : wirqFilterPass s n.toNat = wiredPassed s n.toNat (wiredLevel s n.toNat) := by
      unfold wirqFilterPass
      rw [if_pos (by rw [filterRuns_iff.2 h.2, decide_eq_true h.1, ht]; rfl), wiredPass_eq]
    exact ⟨_, congrArg (fun x => Host.Outcome.next (settle s x)) hd, Gathers.closed hq (gathers_wiredPassed _ _ _)⟩
  · have hd : wirqTransition s n.toNat level = s := if_neg fun hc => h (by
      rw [Bool.and_eq_true, decide_eq_true_eq, filterRuns_iff] at hc
      exact ⟨hc.2, hc.1⟩)
    exact ⟨_, close hd, (unflagged_refl s).upToMarks hq⟩
  · have hd : wirqFilterPass s n.toNat = s := if_neg fun hc => by
      rw [Bool.and_eq_true, Bool.and_eq_true, decide_eq_true_eq, filterRuns_iff] at hc
      rcases h with h | h
      · exact h ⟨hc.1.2, hc.1.1⟩
      · exact absurd hc.2 (Bool.eq_false_iff.1 h)
    exact ⟨_, congrArg (fun x => Host.Outcome.next (settle s x)) hd, (unflagged_refl s).upToMarks hq⟩

end Sys2Proof.Machine
end

section
/-!
PROOFS. Chapters 02 to 04: the messages of an endpoint, and the end of Completed: O18, O19, O20, O21.
-/
namespace Sys2Proof.Machine
open Sys2Proof.Safety Sys2Proof.Claims

variable {s b e u : State} {l : Link} {t d : Target} {i : Intid} {tk : BitVec 8} {k : Nat} {n : NoteKey} {num : BitVec 4}

/-! ## Messages that do not arrive -/

theorem arrive_of_not (h : ¬ arrives s l) (vc g : Nat) : arrive s l vc g = s := by
  refine if_neg fun hc => h ?_
  simpa [operating, linkActive, arrives] using hc

/-- A message that cannot arrive leaves the part as it was. -/
theorem viMsg_of_not (h : ¬ arrives s l) (g : Nat) (f : State → State) : viMsg (arrive s l 3 g) l g f = s := by
  rw [arrive_of_not h]
  refine if_neg fun hc => h ?_
  simpa [operating, linkActive, arrives] using hc

/-- Settles O20: each of the eight messages is `viMsg` of its own effect. -/
theorem noMessageWithoutALink : Obligations.NoMessageWithoutALink := by
  intro s l t i tk pmr rpr bpr code form level num hq hno c hc
  have quiet : ∀ g (f : State → State), UpToMarks s (settle s (viMsg (arrive s l 3 g) l g f)) := fun g f => by
    rw [viMsg_of_not hno]
    exact (unflagged_refl s).upToMarks hq
  simp only [List.mem_cons, List.not_mem_nil, or_false] at hc
  rcases hc with rfl | rfl | rfl | rfl | rfl | rfl | rfl | rfl
  · exact ⟨_, rfl, quiet 3 _⟩
  · exact ⟨_, rfl, quiet 3 _⟩
  · exact ⟨_, rfl, quiet 3 _⟩
  · exact ⟨_, rfl, quiet 2 _⟩
  · exact ⟨_, rfl, quiet 2 _⟩
  · exact ⟨_, rfl, quiet 2 _⟩
  · exact ⟨_, rfl, quiet 2 _⟩
  · exact ⟨_, rfl, quiet 2 _⟩

/-! ## EOI and the end of Completed (R22, R28, R29) -/

theorem holdsActive_iff : holdsActive s t i = true ↔
    usable i = true ∧ (intOf s (ikey t i)).st = .active ∧ (intOf s (ikey t i)).holder = t := by
  simp [holdsActive, and_assoc]

theorem holdsActive_taken (s : State) (l : Link) (g : Nat) (t : Target) (i : Intid) :
    holdsActive (taken s l g) t i = holdsActive s t i := by
  rw [taken_eq_links]; rfl

theorem evE_of_active (h : (intOf s k).st = .active) : evE s k = setInt s k { intOf s k with st := .completed, holder := 0 } := by
  simp only [evE, h]

/-- What an EOI does once it has been taken. -/
def applyEoi (s : State) (l : Link) (t : Target) (i : Intid) : State :=
  if servedBy s l t && holdsActive s t i then evE s (ikey t i) else bump s cntSTRAY

theorem exec_eoi (h : arrives s l) : exec (.eoi l t i) s = .next (settle s (applyEoi (taken s l 2) l t i)) :=
  congrArg (fun e => Host.Outcome.next (settle s e)) (viMsg_arrive h 2 fun s => applyEoi s l t i)

theorem exec_completedExit {x : State} (h : completedExit s t i = x) : exec (.completedExit t i) s = .next (settle s x) := by
  rw [← h]
  rfl

/-- COMPLETED_EXIT by what its INTID still owes. -/
theorem completedExit_eq (hm : s.pw.mode = .operating) (hst : (intOf s (ikey t i)).st = .completed) : completedExit s t i =
    match (intOf s (ikey t i)).note, (intOf s (ikey t i)).noteId with
    | some n, none => match (placeNote s n i).2 with
      | some id => setInt (placeNote s n i).1 (ikey t i) { intOf s (ikey t i) with noteId := some id }
      | none => setInt (placeNote s n i).1 (ikey t i) (restRec (ikey t i) (intOf s (ikey t i)))
    | some _, some _ => s
    | none, _ =>
      if (isLevel s t i && levelHigh s t i) = true then
        setInt s (ikey t i) { intOf s (ikey t i) with st := .pending, age := 0, note := none, noteId := none }
      else setInt s (ikey t i) (restRec (ikey t i) (intOf s (ikey t i))) := by
  unfold completedExit
  rw [if_pos (by simp [operating, hm, hst])] <;> rfl

theorem placeNote_of_room (h : s.xl.qCmp.length < 512) (n : NoteKey) (i : Intid) : placeNote s n i =
    ({ s with xl := { s.xl with
        qCmp := s.xl.qCmp ++ [{ key := n, intid := i, nak := false, code := 0, id := some s.xl.noteSerial }],
        noteSerial := s.xl.noteSerial + 1 } }, some s.xl.noteSerial) := if_neg (Nat.not_le.2 h)

theorem placeNote_of_full (h : 512 ≤ s.xl.qCmp.length) (n : NoteKey) (i : Intid) :
    placeNote s n i = (dropCount s cntCMPDROP, none) := if_pos h

/-- A dropped notification leaves Q-CMP as it was, whatever house source follows: the queue stays full. -/
theorem houseEdges_qCmp_of_full (old : BitVec 16) (h : 512 ≤ s.xl.qCmp.length) : (houseEdges old s).xl.qCmp = s.xl.qCmp := by
  have evT' : ∀ x k n, x.xl.qCmp = s.xl.qCmp → (evT x k n).xl.qCmp = s.xl.qCmp := fun x k n hx => by
    rw [evT_eq]
    have owed : (noteOwed x k).xl.qCmp = s.xl.qCmp := by
      unfold noteOwed
      split
      · rw [placeNote_of_full (by rw [hx]; exact h)]
        exact hx
      · exact hx
    split
    · exact hx
    · exact owed
    · split
      · exact hx
      · exact hx
    · exact hx
  unfold houseEdges
  split
  · refine foldS_inv (fun x : State => x.xl.qCmp = s.xl.qCmp) _ _ s rfl fun x j hx => ?_
    dsimp only
    split
    · exact evT' _ _ _ hx
    · split
      · rw [evF_eq_irq]
        exact hx
      · exact hx
  · rfl

theorem flushHouse_qCmp_of_full (h : 512 ≤ s.xl.qCmp.length) : (flushHouse s).xl.qCmp = s.xl.qCmp := by
  unfold flushHouse
  split
  · rfl
  · dsimp only
    refine (houseEdges_qCmp_of_full _ ?_).trans ?_
    · exact h
    · rfl

theorem nvDone_of_work (h : storeWork e = storeWork s) : nvDone s e = e := by
  unfold nvDone
  rw [h, if_neg]
  simp

theorem logMode_of_code (h : modeCode e = modeCode s) : logMode s e = e := by
  unfold logMode
  simp [h]

theorem settlePermit_of_permit (h : permitS s = true → permitS e = true) : settlePermit s e = e := by
  unfold settlePermit
  rw [if_neg]
  intro hc
  cases hp : permitS s <;> simp_all

/-- The close of a command that leaves the modes alone. -/
theorem settle_eq_of_sameModes (h : SameModes s e) : settle s e = endCclk (noteHwm (flushHouse (arbFollow e))) := by
  unfold settle
  rw [nvDone_of_work h.work, logMode_of_code h.code, settlePermit_of_permit fun hp => h.permit.trans hp]

theorem settle_qCmp_of_full (h : SameModes s e) (hf : 512 ≤ e.xl.qCmp.length) : (settle s e).xl.qCmp = e.xl.qCmp := by
  rw [settle_eq_of_sameModes h]
  have hclose : ∀ x, (endCclk (noteHwm x)).xl.qCmp = x.xl.qCmp := fun x => by
    obtain ⟨m, hm⟩ := noteHwm_eq x
    rw [hm]
    rfl
  have hfollow : (arbFollow e).xl = e.xl := rfl
  rw [hclose, flushHouse_qCmp_of_full (by rw [hfollow]; exact hf), hfollow]

/-- Settles O18: EOI by whether its target holds the INTID, and `completedExit` by what the INTID owes. -/
theorem endOfInterrupt : Obligations.EndOfInterrupt := by
  intro s l t i hq k r
  refine ⟨fun ha hl hu hst hh => ?_, fun ha hno => ?_, fun hm hst hn hlv hh => ?_, fun hm hst hn hlv => ?_,
    fun n hm hst hn hid hroom => ?_, fun n hm hk hst hn hid hfull => ?_⟩
  · have hx : applyEoi (taken s l 2) l t i = setInt (taken s l 2) k { r with st := .completed, holder := 0 } := by
      unfold applyEoi
      rw [servedBy_taken, holdsActive_taken, servedBy_iff.2 hl, holdsActive_iff.2 ⟨hu, hst, hh⟩]
      refine (if_pos rfl).trans ?_
      rw [evE_of_active (by rw [intOf_taken]; exact hst), intOf_taken]
    exact ⟨_, exec_eoi ha, by rw [hx]; exact (unflagged_setInt (unflagged_taken s l 2) _ _).upToMarks hq⟩
  · have hx : applyEoi (taken s l 2) l t i = bump (taken s l 2) cntSTRAY := by
      refine if_neg fun hc => hno ?_
      rw [servedBy_taken, holdsActive_taken, Bool.and_eq_true, servedBy_iff, holdsActive_iff] at hc
      exact ⟨hc.1, hc.2⟩
    exact ⟨_, exec_eoi ha, by rw [hx]; exact (unflagged_bump (unflagged_taken s l 2) _).upToMarks hq⟩
  · have hx := completedExit_eq hm hst
    rw [show (intOf s (ikey t i)).note = none from hn, hlv, hh] at hx
    exact ⟨_, exec_completedExit hx, (unflagged_setInt (unflagged_refl s) _ _).upToMarks hq⟩
  · have hx := completedExit_eq hm hst
    rw [show (intOf s (ikey t i)).note = none from hn, hlv] at hx
    exact ⟨_, exec_completedExit hx, (unflagged_setInt (unflagged_refl s) _ _).upToMarks hq⟩
  · have hx := completedExit_eq hm hst
    rw [show (intOf s (ikey t i)).note = some n from hn, show (intOf s (ikey t i)).noteId = none from hid] at hx
    dsimp only at hx
    rw [placeNote_of_room hroom] at hx
    exact ⟨_, exec_completedExit hx, Unflagged.upToMarks hq ⟨⟨rfl, rfl, rfl, rfl, rfl, rfl⟩, rfl⟩⟩
  · have hx := completedExit_eq hm hst
    rw [show (intOf s (ikey t i)).note = some n from hn, show (intOf s (ikey t i)).noteId = none from hid] at hx
    dsimp only at hx
    rw [placeNote_of_full hfull] at hx
    have hu : Unflagged s (bump (setInt s k (restRec k r)) cntCMPDROP) :=
      unflagged_bump (unflagged_setInt (unflagged_refl s) _ _) _
    have hrest : intOf (house (bump (setInt s k (restRec k r)) cntCMPDROP) hQDROP) k = restRec k r := intOf_setInt_self s k _
    have hx' : completedExit s t i = house (bump (setInt s k (restRec k r)) cntCMPDROP) hQDROP := hx
    refine ⟨_, exec_completedExit hx', ?_, ?_, hu.flagsSet hq rfl hQDROP⟩
    · rw [intOf_settle s _ k hk (by rw [hrest, restRec_st]; decide), hrest, restRec_st]
    · exact settle_qCmp_of_full ⟨hu.pw, hu.live, hu.im, hu.lean, hu.jobs, hu.orphan⟩ hfull

end Sys2Proof.Machine
end

section
/-!
PROOFS. Chapter 04: SIGNAL and PRIV (R68, R95 to R97): O21.
-/
namespace Sys2Proof.Machine
open Sys2Proof.Safety Sys2Proof.Claims

variable {s b e u : State} {l : Link} {t d sender : Target} {num : BitVec 4} {k : Nat}

theorem gathers_taken (s : State) (l : Link) (g : Nat) : Gathers s (taken s l g) := by
  refine (unflagged_taken s l g).gathers ?_
  rw [taken_eq_links]

theorem gathers_bumpN (s : State) (off n : Nat) : Gathers s (bumpN s off n) := ⟨⟨rfl, rfl, rfl, rfl, rfl, rfl⟩, rfl⟩

theorem unflagged_bumpN (h : Unflagged b e) (off n : Nat) : Unflagged b (bumpN e off n) :=
  ⟨⟨h.pw, h.live, h.im, h.lean, h.jobs, h.orphan⟩, h.hsAcc⟩

theorem evF_cases (s : State) (k : Nat) : evF s k = s ∨ evF s k = setInt s k (restRec k (intOf s k)) := by
  unfold evF
  dsimp only
  split
  · exact .inr rfl
  · exact .inr rfl
  · exact .inl rfl

theorem unflagged_evF (h : Unflagged b e) (k : Nat) : Unflagged b (evF e k) := by
  obtain hf | hf := evF_cases e k
  · rwa [hf]
  · rw [hf]; exact unflagged_setInt h k _

theorem evT_fans (s : State) (k : Nat) (n : Option NoteKey) : (evT s k n).irq.fans = s.irq.fans := by
  have owed : (noteOwed s k).irq.fans = s.irq.fans := by
    unfold noteOwed placeNote
    split
    · split <;> rfl
    · rfl
  rw [evT_eq]
  split
  · rfl
  · exact owed
  · split <;> rfl
  · rfl

/-! ## The effects of the two messages once they are taken -/

/-- SIGNAL. -/
def applySignal (s : State) (l : Link) (sender : Target) (form : Bool) (dest : BitVec 8) (num : BitVec 4) : State :=
  if servedBy s l sender then
    if form then
      if 63 < dest.toNat then bump s cntSIGDEN
      else fanOut s sender num (signalSet s sender dest.toNat)
    else signalOne sender num s dest
  else bump s cntSIGDEN

theorem exec_signal (h : arrives s l) (form : Bool) (dest : BitVec 8) :
    exec (.signal l sender form dest num) s = .next (settle s (applySignal (taken s l 2) l sender form dest num)) :=
  congrArg (fun e => Host.Outcome.next (settle s e)) (viMsg_arrive h 2 fun s => applySignal s l sender form dest num)

theorem tgtTenant_taken (s : State) (l : Link) (g : Nat) (t : Target) : tgtTenant (taken s l g) t = tgtTenant s t := by
  rw [taken_eq_links]; rfl

theorem signalSet_taken (s : State) (l : Link) (g : Nat) (sender : Target) (m : Nat) :
    signalSet (taken s l g) sender m = signalSet s sender m := by
  rw [taken_eq_links]; rfl

theorem applySignal_of_not (h : ¬ ofLink s l sender) (form : Bool) (dest : BitVec 8) :
    applySignal (taken s l 2) l sender form dest num = bump (taken s l 2) cntSIGDEN := by
  refine if_neg fun hc => h ?_
  rwa [servedBy_taken, servedBy_iff] at hc

theorem applySignal_one (h : ofLink s l sender) (dest : BitVec 8) : applySignal (taken s l 2) l sender false dest num =
    if tgtTenant s dest = tgtTenant s sender then evT (taken s l 2) (ikey dest (num.setWidth 24)) none
    else bump (taken s l 2) cntSIGDEN := by
  unfold applySignal signalOne
  rw [servedBy_taken, servedBy_iff.2 h, tgtTenant_taken, tgtTenant_taken]
  rfl

/-- The destinations of a set, and those of them whose tenant is the sender's. -/
def mineOf (s : State) (sender : Target) (m : Nat) : List Target :=
  (signalSet s sender m).filter fun d => decide (tgtTenant s d = tgtTenant s sender)

theorem applySignal_set (h : ofLink s l sender) (dest : BitVec 8) (hd : dest.toNat ≤ 63) :
    applySignal (taken s l 2) l sender true dest num =
      let c := bumpN (taken s l 2) cntSIGDEN
        ((signalSet s sender dest.toNat).filter fun d => !decide (tgtTenant s d = tgtTenant s sender)).length
      match mineOf s sender dest.toNat with
      | [] => c
      | d :: rest =>
        let e := evT c (ikey d (num.setWidth 24)) none
        if rest.isEmpty then e else { e with irq := { e.irq with fans := e.irq.fans ++ [{ num := num, rest := rest }] } } := by
  have hden : (signalSet s sender dest.toNat).length - (mineOf s sender dest.toNat).length =
      ((signalSet s sender dest.toNat).filter fun d => !decide (tgtTenant s d = tgtTenant s sender)).length := by
    rw [List.length_eq_length_filter_add (l := signalSet s sender dest.toNat)
      fun d => decide (tgtTenant s d = tgtTenant s sender)]
    exact Nat.add_sub_cancel_left _ _
  unfold applySignal fanOut
  rw [servedBy_taken, servedBy_iff.2 h, if_pos rfl, if_pos rfl, if_neg (Nat.not_lt.2 hd), signalSet_taken]
  simp only [tgtTenant_taken]
  rw [← hden]
  rfl

theorem signals : Signals := by
  intro s l sender dest num hq ha b mine set c
  have hb : Gathers s b := gathers_taken s l 2
  have counted : Unflagged s (bump b cntSIGDEN) := unflagged_bump (unflagged_taken s l 2) _
  refine ⟨fun hl => ⟨fun hm => ?_, fun hm => ?_, fun hd hnone => ?_, fun d rest hd hsome => ?_, fun hd => ?_⟩, fun hl form => ?_⟩
  · have hx := applySignal_one (num := num) hl dest
    rw [if_pos (of_decide_eq_true hm)] at hx
    exact ⟨_, exec_signal ha false dest, by rw [hx]; exact (hb.trans (onInt_evT _ _ _).toGathers).closed hq⟩
  · have hx := applySignal_one (num := num) hl dest
    rw [if_neg (of_decide_eq_false hm)] at hx
    exact ⟨_, exec_signal ha false dest, by rw [hx]; exact counted.upToMarks hq⟩
  · have hx := applySignal_set (num := num) hl dest hd
    rw [show mineOf s sender dest.toNat = [] from hnone] at hx
    exact ⟨_, exec_signal ha true dest, by rw [hx]; exact (unflagged_bumpN (unflagged_taken s l 2) _ _).upToMarks hq⟩
  · have hx := applySignal_set (num := num) hl dest hd
    rw [show mineOf s sender dest.toNat = d :: rest from hsome] at hx
    dsimp only at hx
    have he : Gathers s (evT c (ikey d (num.setWidth 24)) none) :=
      (hb.trans (gathers_bumpN _ _ _)).trans (onInt_evT _ _ _).toGathers
    have hfans : (evT c (ikey d (num.setWidth 24)) none).irq.fans = s.irq.fans := by
      rw [evT_fans]
      change b.irq.fans = _
      rw [show b = taken s l 2 from rfl, taken_eq_links]
    refine ⟨_, exec_signal ha true dest, ?_, ?_⟩
    · rw [settle_fans, hx]
      cases rest with
      | nil => exact hfans.trans (List.append_nil _).symm
      | cons d' rest' => exact congrArg (· ++ _) hfans
    · rw [settle_fans, hx]
      cases rest with
      | nil => exact he.closed hq
      | cons d' rest' => exact Gathers.closed hq (he.trans (gathers_irq _ _))
  · have hx : applySignal b l sender true dest num = bump b cntSIGDEN := by
      unfold applySignal
      rw [servedBy_taken, servedBy_iff.2 hl, if_pos rfl, if_pos rfl, if_pos hd]
    exact ⟨_, exec_signal ha true dest, by rw [hx]; exact counted.upToMarks hq⟩
  · exact ⟨_, exec_signal ha form dest, by rw [applySignal_of_not hl]; exact counted.upToMarks hq⟩

/-- A level that a target reports, and what its private source takes from it. -/
def applyPriv (s : State) (l : Link) (t : Target) (src : BitVec 4) (level : Bool) : State :=
  if servedBy s l t then
    let i : Intid := BitVec.ofNat 24 (16 + src.toNat)
    let r := tgtOf s t
    let was := r.levels.getLsbD src.toNat
    let bits : BitVec 16 := 1#16 <<< src.toNat
    let s := setTgt s t { r with levels := if level then r.levels ||| bits else r.levels &&& ~~~bits }
    if srcEdge s t i then (if level then evT s (ikey t i) none else s)
    else if level && !was then evT s (ikey t i) none
    else if !level && was then evF s (ikey t i)
    else s
  else bump s cntSTRAY

theorem exec_priv (h : arrives s l) (src : BitVec 4) (level : Bool) :
    exec (.priv l t src level) s = .next (settle s (applyPriv (taken s l 2) l t src level)) :=
  congrArg (fun e => Host.Outcome.next (settle s e)) (viMsg_arrive h 2 fun s => applyPriv s l t src level)

/-- A bit is set or cleared: cleared first, then set where it is to stand. -/
theorem setBit_eq {w : Nat} (x m : BitVec w) (v : Bool) :
    (if v = true then x ||| m else x &&& ~~~m) = x &&& ~~~m ||| (if v = true then m else 0) := by
  cases v
  · simp
  · ext j
    simp only [if_true, BitVec.getElem_or, BitVec.getElem_and, BitVec.getElem_not]
    cases x[j] <;> cases m[j] <;> rfl

theorem privateLevels : PrivateLevels := by
  intro s l t src level hq ha b i was lv e
  have he : Unflagged s e := unflagged_setTgt (unflagged_taken s l 2) _ _
  have hg : Gathers s e := (gathers_taken s l 2).trans (Unflagged.gathers (unflagged_setTgt (unflagged_refl _) _ _) rfl)
  refine ⟨fun hl => ⟨_, exec_priv ha src level, ?_⟩, fun hl => ⟨_, exec_priv ha src level, ?_⟩⟩
  · have hlv : (if level = true then (tgtOf s t).levels ||| 1#16 <<< src.toNat
        else (tgtOf s t).levels &&& ~~~(1#16 <<< src.toNat)) = lv := setBit_eq _ _ _
    have hedge : srcEdge e t i = srcEdge s t i := by
      change srcEdge (taken s l 2) t i = _
      rw [taken_eq_links]; rfl
    have hx : applyPriv (taken s l 2) l t src level =
        if srcEdge e t i = true then (if level = true then evT e (ikey t i) none else e)
        else if (level && !was) = true then evT e (ikey t i) none
        else if (!level && was) = true then evF e (ikey t i)
        else e := by
      unfold applyPriv
      rw [servedBy_taken, servedBy_iff.2 hl, if_pos rfl]
      simp only [tgtOf_taken]
      rw [hlv]
    rw [hx, hedge]
    by_cases hed : srcEdge s t i = true
    · rw [if_pos hed, if_pos hed]
      cases level
      · exact he.upToMarks hq
      · exact (hg.trans (onInt_evT _ _ _).toGathers).closed hq
    · rw [if_neg hed, if_neg hed]
      cases level <;> cases hw : was
      · exact he.upToMarks hq
      · exact (unflagged_evF he _).upToMarks hq
      · exact (hg.trans (onInt_evT _ _ _).toGathers).closed hq
      · exact he.upToMarks hq
  · have hx : applyPriv (taken s l 2) l t src level = bump (taken s l 2) cntSTRAY := by
      refine if_neg fun hc => hl ?_
      rwa [servedBy_taken, servedBy_iff] at hc
    rw [hx]
    exact (unflagged_bump (unflagged_taken s l 2) _).upToMarks hq

/-- Settles O21: each message is what it does once it is taken. -/
theorem signalsAndPrivateLevels : Obligations.SignalsAndPrivateLevels := ⟨signals, privateLevels⟩

end Sys2Proof.Machine
end

section
/-!
PROOFS. Chapters 03 and 13: the refresh of the furrow (O12), what the arbiter's own steps leave alone, PRIO and STATE (O19).
-/
namespace Sys2Proof.Machine
open Sys2Proof.Safety Sys2Proof.Claims

variable {s b e u : State} {l : Link} {t d : Target} {c : Nat}

/-! ## Requests of the arbiter -/

/-- `e` is `b` but for what is requested of the arbiter and granted by it. -/
def OnAllot (b e : State) : Prop := ∃ a, e = { b with allot := a } ∧ a.lean = b.allot.lean

theorem onAllot_refl (s : State) : OnAllot s s := ⟨_, rfl, rfl⟩

theorem OnAllot.trans (h : OnAllot s b) (g : OnAllot b e) : OnAllot s e := by
  obtain ⟨a, rfl, ha⟩ := h
  obtain ⟨a', rfl, ha'⟩ := g
  exact ⟨a', rfl, ha'.trans ha⟩

theorem onAllot_dropReq (s : State) (c : Nat) : OnAllot s (dropReq s c) := ⟨_, rfl, rfl⟩

theorem onAllot_raiseReq (s : State) (c : Nat) (p : BitVec 8) (x : Option Link) (k : Option Nat) :
    OnAllot s (raiseReq s c p x k) := by
  unfold raiseReq markUnfit dropReq
  split <;> exact ⟨_, rfl, rfl⟩

theorem onAllot_wakeRequest (s : State) (t : Target) (best : Option Nat) : OnAllot s (wakeRequest s t best) := by
  unfold wakeRequest
  split
  · exact onAllot_raiseReq _ _ _ _ _
  · exact onAllot_dropReq _ _

/-! ## The furrow (O12) -/

/-- The state whose entry for target t has taken its best candidate, at a bank that has stepped on. -/
def refreshed (s : State) (b : BitVec 4) : State :=
  setTgt { s with irq := { s.irq with
      bankPos := tabSet s.irq.bankPos 0 b.toNat ((tabGet s.irq.bankPos 0 b.toNat + 1) % 16) } } (bankTarget s b)
    { tgtOf s (bankTarget s b) with best := (bestOf s (bankTarget s b)).map keyIntid }

/-- The same once the wake request of the target has followed (R62). -/
def woken (s : State) (b : BitVec 4) : State :=
  if operating (refreshed s b) then wakeRequest (refreshed s b) (bankTarget s b) (bestOf s (bankTarget s b)) else refreshed s b

theorem onAllot_woken (s : State) (b : BitVec 4) : OnAllot (refreshed s b) (woken s b) := by
  unfold woken
  split
  · exact onAllot_wakeRequest _ _ _
  · exact onAllot_refl _

theorem bankRefresh_eq (s : State) (b : BitVec 4) : bankRefresh s b =
    match bestOf s (bankTarget s b) with
    | none => woken s b
    | some k =>
      if permitS (woken s b) then
        match routeOf (woken s b) (bankTarget s b) k with
        | none => woken s b
        | some m =>
          if (woken s b).irq.choices.any fun c => c.1 = m || (c.2 = keyIntid k && 32 ≤ c.2.toNat) then woken s b
          else { woken s b with irq := { (woken s b).irq with choices := (woken s b).irq.choices ++ [(m, keyIntid k)] } }
      else woken s b := rfl

/-- A refresh takes the best candidate, moves a wake request, and makes at most one choice, of that candidate. -/
theorem bankRefresh_cases (s : State) (b : BitVec 4) : ∃ a ch,
    bankRefresh s b = { refreshed s b with allot := a, irq := { (refreshed s b).irq with choices := ch } } ∧
    a.lean = s.allot.lean ∧
    (ch = s.irq.choices ∨
      permitS s = true ∧ ∃ m k, bestOf s (bankTarget s b) = some k ∧ ch = s.irq.choices ++ [(m, keyIntid k)]) := by
  obtain ⟨a, hwake, hlean⟩ := onAllot_woken s b
  have hpermit : permitS { refreshed s b with allot := a } = permitS s := rfl
  rw [bankRefresh_eq, hwake, hpermit]
  split
  · exact ⟨a, _, rfl, hlean, .inl rfl⟩
  · next k hk =>
    split
    · next hp =>
      split
      · exact ⟨a, _, rfl, hlean, .inl rfl⟩
      · next m hm =>
        split
        · exact ⟨a, _, rfl, hlean, .inl rfl⟩
        · exact ⟨a, _, rfl, hlean, .inr ⟨hp, m, k, hk, rfl⟩⟩
    · exact ⟨a, _, rfl, hlean, .inl rfl⟩

/-- Settles O12: a refresh by its cases, and the close, which adds the arbiter's steps and the marks. -/
theorem Settled.furrowRefresh : Obligations.FurrowRefresh := by
  intro s b hq t
  refine ⟨?_, fun hc => ?_, fun hc => ?_⟩
  · change (BitVec.ofNat 8 (b.toNat + 16 * tabGet s.irq.bankPos 0 b.toNat)).toNat % 16 = b.toNat
    rw [BitVec.toNat_ofNat]
    omega
  · obtain ⟨a, ch, hx, hlean, hch⟩ := bankRefresh_cases s b
    have hfx : Machine.furrowRefresh s b = bankRefresh s b := if_pos hc
    have hu : Unflagged s (bankRefresh s b) := by
      rw [hx]
      exact ⟨⟨rfl, rfl, rfl, hlean, rfl, rfl⟩, rfl⟩
    obtain ⟨m, hm⟩ := hu.upToMarks hq
    refine ⟨settle s (bankRefresh s b), congrArg (fun e => Host.Outcome.next (settle s e)) hfx, ?_⟩
    rw [hm, hx]
    have htgt : ∀ x, tgtOf (refreshed s b) x = if x = t then { tgtOf s t with best := (bestOf s t).map keyIntid } else tgtOf s x :=
      fun x => tgtOf_setTgt _ _ _ _
    have hself : tgtOf (refreshed s b) t = { tgtOf s t with best := (bestOf s t).map keyIntid } := by rw [htgt, if_pos rfl]
    refine ⟨?_, fun c hcb => ?_, ?_, fun x hxt => ?_, ?_, ?_, ?_, hch, rfl, rfl, rfl, rfl, rfl, rfl, rfl, rfl, rfl, rfl⟩
    · exact (tabGet_tabSet _ _ _ _ _).trans (if_pos rfl)
    · exact (tabGet_tabSet _ _ _ _ _).trans (if_neg hcb)
    · exact (congrArg TgtRec.best hself :)
    · exact (htgt x).trans (if_neg hxt)
    · exact (congrArg TgtRec.pmr hself :)
    · exact (congrArg TgtRec.rpr hself :)
    · exact (congrArg TgtRec.lastTicket hself :)
  · have hx : Machine.furrowRefresh s b = s := if_neg (by rw [hc]; decide)
    exact ⟨_, congrArg (fun e => Host.Outcome.next (settle s e)) hx, (unflagged_refl s).upToMarks hq⟩

/-! ## What the arbiter's own steps leave alone -/

/-- `e` is `b` but for the allotments, the store's controller and the flags gathered: what a change of the budget or of the
grants can bring with it. -/
def ArbOnly (b e : State) : Prop := ∃ a v f h, e = { b with allot := a, nv := v, free := f, hsAcc := h }

theorem arbOnly_refl (s : State) : ArbOnly s s := ⟨_, _, _, _, rfl⟩

theorem ArbOnly.trans (h : ArbOnly s b) (g : ArbOnly b e) : ArbOnly s e := by
  obtain ⟨a, v, f, x, rfl⟩ := h
  obtain ⟨a', v', f', x', rfl⟩ := g
  exact ⟨a', v', f', x', rfl⟩

theorem arbOnly_freeGrant (s : State) (c : Nat) : ArbOnly s (freeGrant s c) := ⟨_, _, _, _, rfl⟩

theorem abortErase_arbOnly (s : State) : ArbOnly s (abortErase s) := by
  unfold abortErase
  split
  · exact ⟨_, _, _, _, rfl⟩
  · exact arbOnly_refl s

theorem arbOnly_revokeOne (s : State) (g : Grant) : ArbOnly s (revokeOne s g) := by
  unfold revokeOne
  dsimp only
  split
  · exact arbOnly_freeGrant s _
  · split
    · split
      · refine ArbOnly.trans ?_ ((abortErase_arbOnly _).trans (arbOnly_freeGrant _ _))
        exact ⟨_, _, _, _, rfl⟩
      · exact ⟨_, _, _, _, rfl⟩
    · exact ⟨_, _, _, _, rfl⟩

theorem arbOnly_revoke (s : State) : ArbOnly s (revoke s) := by
  refine foldS_inv (ArbOnly s) _ _ s (arbOnly_refl s) fun x g hx => ?_
  split
  · exact hx
  · exact hx.trans (arbOnly_revokeOne x g)

theorem arbOnly_ite {p : Prop} [Decidable p] {x y : State} (hx : ArbOnly s x) (hy : ArbOnly s y) : ArbOnly s (if p then x else y) := by
  split
  · exact hx
  · exact hy

theorem arbOnly_arbSettle (before s : State) : ArbOnly s (arbSettle before s) := by
  unfold arbSettle
  dsimp only
  have h1 : ArbOnly s (if budget before ≠ budget s then house s hBUDGET else s) :=
    arbOnly_ite ⟨_, _, _, _, rfl⟩ (arbOnly_refl s)
  generalize (if budget before ≠ budget s then house s hBUDGET else s) = s1 at *
  have h2 : ArbOnly s (if freeAllot s1 < 0 && !s1.allot.overdraft then
      house { s1 with allot := { s1.allot with overdraft := true } } hOVERDRAFT else s1) :=
    h1.trans (arbOnly_ite ⟨_, _, _, _, rfl⟩ (arbOnly_refl s1))
  generalize (if freeAllot s1 < 0 && !s1.allot.overdraft then
      house { s1 with allot := { s1.allot with overdraft := true } } hOVERDRAFT else s1) = s2 at *
  have h3 : ArbOnly s (if aimMet s2 then s2 else revoke s2) := h2.trans (arbOnly_ite (arbOnly_refl s2) (arbOnly_revoke s2))
  generalize (if aimMet s2 then s2 else revoke s2) = s3 at *
  have h4 : ArbOnly s (if 0 ≤ freeAllot s3 then { s3 with allot := { s3.allot with overdraft := false } } else s3) :=
    h3.trans (arbOnly_ite ⟨_, _, _, _, rfl⟩ (arbOnly_refl s3))
  generalize (if 0 ≤ freeAllot s3 then { s3 with allot := { s3.allot with overdraft := false } } else s3) = s4 at *
  exact h4.trans ⟨_, _, _, _, rfl⟩

/-! ## No grant comes of itself -/

/-- The clients that hold a grant. -/
def clients (s : State) : List Nat := s.allot.grants.map (·.client)

theorem hasGrant_iff : hasGrant s c = true ↔ c ∈ clients s := by
  simp [hasGrant, clients]

theorem hasGrant_of_subset (h : clients e ⊆ clients s) (hs : hasGrant s c = false) : hasGrant e c = false := by
  by_contra hc
  rw [Bool.not_eq_false, hasGrant_iff] at hc
  exact absurd (hasGrant_iff.2 (h hc)) (by rw [hs]; decide)

theorem clients_filter (p : Grant → Bool) (h : e.allot.grants = s.allot.grants.filter p) : clients e ⊆ clients s := by
  unfold clients
  rw [h]
  exact List.map_subset _ (List.filter_subset_self _)

theorem clients_map (f : Grant → Grant) (hf : ∀ g, (f g).client = g.client) (h : e.allot.grants = s.allot.grants.map f) :
    clients e = clients s := by
  unfold clients
  rw [h, List.map_map]
  exact List.map_congr_left fun g _ => hf g

theorem clients_freeGrant (s : State) (c : Nat) : clients (freeGrant s c) ⊆ clients s := clients_filter _ rfl

theorem hasGrant_freeGrant (s : State) (c : Nat) : hasGrant (freeGrant s c) c = false := by
  simp [hasGrant, freeGrant]

theorem raiseReq_grants (s : State) (c : Nat) (p : BitVec 8) (x : Option Link) (k : Option Nat) :
    (raiseReq s c p x k).allot.grants = s.allot.grants := by
  unfold raiseReq
  split <;> rfl

theorem clients_of_grants (h : e.allot.grants = s.allot.grants) : clients e = clients s := by
  unfold clients
  rw [h]

theorem clients_subset_of_eq (h : clients e = clients s) : clients e ⊆ clients s := by
  rw [h]
  exact List.Subset.refl _

theorem clients_exitRequest (s : State) (l : Link) : clients (exitRequest s l) ⊆ clients s := by
  unfold exitRequest
  dsimp only
  split
  · split
    · exact clients_subset_of_eq (clients_of_grants (raiseReq_grants _ _ _ _ _))
    · exact clients_subset_of_eq (clients_of_grants rfl)
  · exact clients_filter (s := s) _ rfl

theorem breqRequest_grants (s : State) (n : Nat) : (breqRequest s n).allot.grants = s.allot.grants := by
  unfold breqRequest
  dsimp only
  split
  · exact raiseReq_grants _ _ _ _ _
  · rfl

theorem engineRequest_grants (s : State) : (engineRequest s).allot.grants = s.allot.grants := by
  unfold engineRequest
  split
  · exact raiseReq_grants _ _ _ _ _
  · rfl

theorem clients_follow (s : State) : clients (follow s) ⊆ clients s := by
  unfold follow
  split
  · dsimp only
    have h1 : clients (pruneWakes s) ⊆ clients s := clients_filter _ rfl
    generalize pruneWakes s = s1 at *
    have h2 : clients (if operating s1 then exitRequests s1 else s1) ⊆ clients s := by
      split
      · refine foldS_inv (fun x => clients x ⊆ clients s) _ _ s1 h1 fun x n hx => ?_
        exact List.Subset.trans (clients_exitRequest _ _) hx
      · exact h1
    generalize (if operating s1 then exitRequests s1 else s1) = s2 at *
    have h3 : (engineRequest (foldS breqRequest s2 (upTo 8))).allot.grants = s2.allot.grants :=
      (engineRequest_grants _).trans (foldS_keeps (fun x : State => x.allot.grants) _ _ _ breqRequest_grants)
    exact List.Subset.trans (clients_subset_of_eq (clients_of_grants (e := markUnfit _) h3)) h2
  · exact fun _ h => h

theorem clients_arbFollow (s : State) : clients (arbFollow s) ⊆ clients s := clients_follow (endCclk s)

theorem abortErase_grants (s : State) : (abortErase s).allot = s.allot := by
  unfold abortErase
  split <;> rfl

theorem clients_revokeOne (s : State) (g : Grant) : clients (revokeOne s g) ⊆ clients s := by
  have hmap : ∀ x : State, x.allot.grants = s.allot.grants.map (fun h => if h.client = g.client then { h with revoking := true } else h) →
      clients x = clients s := fun x hx => clients_map _ (fun h => by split <;> rfl) hx
  unfold revokeOne
  dsimp only
  split
  · exact clients_freeGrant s _
  · split
    · split
      · refine List.Subset.trans (clients_freeGrant _ _) (clients_subset_of_eq (hmap _ ?_))
        rw [abortErase_grants]
      · exact clients_subset_of_eq (hmap _ rfl)
    · exact clients_subset_of_eq (hmap _ rfl)

theorem clients_revoke (s : State) : clients (revoke s) ⊆ clients s := by
  refine foldS_inv (fun x => clients x ⊆ clients s) _ _ s (fun _ h => h) fun x g hx => ?_
  split
  · exact hx
  · exact List.Subset.trans (clients_revokeOne x g) hx

theorem clients_arbSettle (before s : State) : clients (arbSettle before s) ⊆ clients s := by
  unfold arbSettle
  dsimp only
  have h1 : clients (if budget before ≠ budget s then house s hBUDGET else s) = clients s := by split <;> rfl
  generalize (if budget before ≠ budget s then house s hBUDGET else s) = s1 at *
  have h2 : clients (if freeAllot s1 < 0 && !s1.allot.overdraft then
      house { s1 with allot := { s1.allot with overdraft := true } } hOVERDRAFT else s1) = clients s := by
    rw [← h1]
    split <;> rfl
  generalize (if freeAllot s1 < 0 && !s1.allot.overdraft then
      house { s1 with allot := { s1.allot with overdraft := true } } hOVERDRAFT else s1) = s2 at *
  have h3 : clients (if aimMet s2 then s2 else revoke s2) ⊆ clients s := by
    rw [← h2]
    split
    · exact fun _ h => h
    · exact clients_revoke s2
  generalize (if aimMet s2 then s2 else revoke s2) = s3 at *
  have h4 : clients (if 0 ≤ freeAllot s3 then { s3 with allot := { s3.allot with overdraft := false } } else s3) = clients s3 := by
    split <;> rfl
  generalize (if 0 ≤ freeAllot s3 then { s3 with allot := { s3.allot with overdraft := false } } else s3) = s4 at *
  exact List.Subset.trans (clients_subset_of_eq h4) h3

theorem clients_settle (before s : State) : clients (settle before s) ⊆ clients s := by
  have hdone : clients (nvDone before s) = clients s := by
    unfold nvDone
    split <;> rfl
  have hlog : ∀ x, clients (logMode before x) = clients x := fun x => by
    unfold logMode logEntry pushJob
    dsimp only
    split
    · split <;> rfl
    · rfl
  have hpermit : ∀ x, clients (settlePermit before x) = clients x := fun x => by
    unfold settlePermit withdrawAll
    split
    · refine clients_of_grants (foldS_keeps (fun x : State => x.allot.grants) _ _ _ fun x p => ?_)
      unfold evW
      dsimp only
      split <;> rfl
    · rfl
  have hhouse : ∀ x, clients (flushHouse x) = clients x := fun x => clients_of_grants (congrArg Allot.grants (flushHouse_allot x))
  unfold settle
  have hclose : ∀ x, clients (endCclk (noteHwm x)) = clients x := fun x => by
    obtain ⟨m, hm⟩ := noteHwm_eq x
    rw [hm]
    rfl
  rw [hclose, hhouse]
  refine List.Subset.trans (clients_arbFollow _) ?_
  rw [hpermit, hlog, hdone]
  exact List.Subset.refl _

/-! ## PRIO and STATE (O19) -/

/-- What the two messages do once they are taken. -/
def applyPrio (s : State) (l : Link) (t : Target) (pmr : BitVec 8) (bpr : BitVec 3) (rpr : BitVec 8) : State :=
  if servedBy s l t then setTgt s t { tgtOf s t with pmr := pmr, bpr := bpr, rpr := rpr } else bump s cntSTRAY
def applyState (s : State) (l : Link) (t : Target) (code : BitVec 2) : State :=
  if servedBy s l t then
    let s1 := setTgt s t { tgtOf s t with sleep := code }
    if code.toNat < 2 then arbSettle s (freeGrant s1 t.toNat)
    else if (ticketsOf s t).any fun p => isE s p.1 && !p.2.granted then bump s1 cntUNGRANTED
    else s1
  else bump s cntSTRAY

theorem exec_prio (h : arrives s l) (pmr rpr : BitVec 8) (bpr : BitVec 3) :
    exec (.prio l t pmr bpr rpr) s = .next (settle s (applyPrio (taken s l 2) l t pmr bpr rpr)) :=
  congrArg (fun e => Host.Outcome.next (settle s e)) (viMsg_arrive h 2 fun s => applyPrio s l t pmr bpr rpr)

theorem exec_stateReport (h : arrives s l) (code : BitVec 2) :
    exec (.stateReport l t code) s = .next (settle s (applyState (taken s l 2) l t code)) :=
  congrArg (fun e => Host.Outcome.next (settle s e)) (viMsg_arrive h 2 fun s => applyState s l t code)

theorem ticketsOf_taken (s : State) (l : Link) (g : Nat) (t : Target) : ticketsOf (taken s l g) t = ticketsOf s t := by
  rw [taken_eq_links]; rfl

theorem isE_taken (s : State) (l : Link) (g k : Nat) : isE (taken s l g) k = isE s k := by
  rw [taken_eq_links]; rfl

theorem applyState_of_served (hl : ofLink s l t) (code : BitVec 2) : applyState (taken s l 2) l t code =
    let e := setTgt (taken s l 2) t { tgtOf s t with sleep := code }
    if code.toNat < 2 then arbSettle (taken s l 2) (freeGrant e t.toNat)
    else if (ticketsOf s t).any (fun p => isE s p.1 && !p.2.granted) = true then bump e cntUNGRANTED
    else e := by
  unfold applyState
  rw [servedBy_taken, servedBy_iff.2 hl, if_pos rfl]
  simp only [tgtOf_taken, ticketsOf_taken, isE_taken]

/-- Settles O19: a view or a sleep code is taken; AWAKE and DOZE free the wake grant, and no other comes of itself. -/
theorem viewMessages : Obligations.ViewMessages := by
  intro s l t pmr rpr bpr code hq ha b
  have htaken : Unflagged s b := unflagged_taken s l 2
  refine ⟨fun hl => ⟨⟨_, exec_prio ha pmr rpr bpr, ?_⟩, fun hc => ⟨_, exec_stateReport ha code, ?_⟩,
    fun hc => ⟨_, exec_stateReport ha code, ?_⟩⟩,
    fun hl => ⟨⟨_, exec_prio ha pmr rpr bpr, ?_⟩, ⟨_, exec_stateReport ha code, ?_⟩⟩⟩
  · have hx : applyPrio (taken s l 2) l t pmr bpr rpr = setTgt b t { tgtOf s t with pmr := pmr, bpr := bpr, rpr := rpr } := by
      unfold applyPrio
      rw [servedBy_taken, servedBy_iff.2 hl, if_pos rfl, tgtOf_taken]
    rw [hx]
    exact (unflagged_setTgt htaken _ _).upToMarks hq
  · have he : Unflagged s (setTgt b t { tgtOf s t with sleep := code }) := unflagged_setTgt htaken _ _
    have hany : (ticketsOf s t).any (fun p => isE s p.1 && !p.2.granted) = true ↔
        ∃ p ∈ ticketsOf s t, isE s p.1 = true ∧ p.2.granted = false := by simp
    rw [applyState_of_served hl, if_neg (Nat.not_lt.2 hc)]
    dsimp only
    split
    · next h =>
      rw [if_pos (hany.2 h)]
      exact (unflagged_bump he _).upToMarks hq
    · next h =>
      rw [if_neg fun hp => h (hany.1 hp)]
      exact he.upToMarks hq
  · rw [applyState_of_served hl, if_pos hc]
    obtain ⟨a, v, f, h, hx⟩ := (arbOnly_freeGrant (setTgt b t { tgtOf s t with sleep := code }) t.toNat).trans
      (arbOnly_arbSettle b _)
    have hgrant := hasGrant_of_subset (clients_arbSettle b _)
      (hasGrant_freeGrant (setTgt b t { tgtOf s t with sleep := code }) t.toNat)
    have hstill : Still s (arbSettle b (freeGrant (setTgt b t { tgtOf s t with sleep := code }) t.toNat)) :=
      Still.of (by simp [b, taken])
    obtain ⟨-, hmem, hpw, hhl, -, -, -, -, -, hlive, hshadow, -⟩ := hstill
    have htens : b.tens = s.tens := by rw [show b = _ from taken_eq_links s l 2]
    have htb : b.tb = s.tb := by rw [show b = _ from taken_eq_links s l 2]
    generalize hy : arbSettle b (freeGrant (setTgt b t { tgtOf s t with sleep := code }) t.toNat) = y at *
    have htgt : ∀ x, tgtOf y x = if x = t then { tgtOf s t with sleep := code } else tgtOf s x := fun x => by
      rw [hx, ← tgtOf_taken s l 2 x]
      exact tgtOf_setTgt _ _ _ _
    refine ⟨?_, hasGrant_of_subset (clients_settle s y) hgrant, fun x hxt => ?_, ?_, ?_, ?_, ?_, ?_, ?_, ?_, ?_⟩
    · rw [tgtOf_settle, htgt, if_pos rfl]
    · rw [tgtOf_settle, htgt, if_neg hxt]
    · rw [settle_links, hx]
      rfl
    · rw [settle_tens, hx]
      exact htens
    · rw [settle_live, hlive]
    · rw [settle_shadow, hshadow]
    · rw [settle_pw, hpw]
    · rw [settle_tb, hx]
      exact htb
    · rw [settle_hl, hhl]
    · rw [settle_nv_mem, hmem]
  · have hx : applyPrio (taken s l 2) l t pmr bpr rpr = bump b cntSTRAY := by
      refine if_neg fun hc => hl ?_
      rwa [servedBy_taken, servedBy_iff] at hc
    rw [hx]
    exact (unflagged_bump htaken _).upToMarks hq
  · have hx : applyState (taken s l 2) l t code = bump b cntSTRAY := by
      refine if_neg fun hc => hl ?_
      rwa [servedBy_taken, servedBy_iff] at hc
    rw [hx]
    exact (unflagged_bump htaken _).upToMarks hq

end Sys2Proof.Machine
end

section
/-!
PROOFS. Chapters 03 and 04: tickets and the placing of a choice (O16), event X (O13), recalls (O14).
-/
namespace Sys2Proof.Machine
open Sys2Proof.Safety Sys2Proof.Claims

variable {s b e u : State} {l : Link} {t d : Target} {k : Nat} {o : Offer}

/-! ## Tickets (R69) -/

/-- The number after a ticket's, 0 left out. -/
def ticketAfter (b : BitVec 8) : BitVec 8 := if b = 0xFF then 1 else b + 1

theorem ticketAfter_ne_zero (b : BitVec 8) : ticketAfter b ≠ 0 := by
  unfold ticketAfter
  split
  · decide
  · next h => bv_omega

theorem ticketAfter_ne (b : BitVec 8) : ticketAfter b ≠ b := by
  unfold ticketAfter
  split
  · next h => rw [h]; decide
  · next h => bv_omega

theorem ticketAfter_twice_ne (b : BitVec 8) : ticketAfter (ticketAfter b) ≠ b := by
  unfold ticketAfter
  split_ifs <;> bv_omega

theorem nextTicket_eq (s : State) (t : Target) : nextTicket s t =
    let cur := (ticketsOf s t).map fun p => p.2.ticket
    let a := ticketAfter (tgtOf s t).lastTicket
    if cur.contains a then if cur.contains (ticketAfter a) then ticketAfter (ticketAfter a) else ticketAfter a else a := rfl

/-- Two numbers of a list of at most two are all it holds. -/
theorem mem_of_length_le_two {α : Type} [DecidableEq α] {xs : List α} (h : xs.length ≤ 2) {a b c : α} (ha : a ∈ xs) (hb : b ∈ xs)
    (hab : a ≠ b) (hc : c ∈ xs) : c = a ∨ c = b := by
  match xs, h with
  | [], _ => cases ha
  | [x], _ =>
    rw [List.mem_singleton] at ha hb
    exact absurd (ha.trans hb.symm) hab
  | [x, y], _ =>
    simp only [List.mem_cons, List.not_mem_nil, or_false] at ha hb hc
    rcases ha with rfl | rfl <;> rcases hb with rfl | rfl
    · exact absurd rfl hab
    · exact hc
    · exact hc.symm
    · exact absurd rfl hab

theorem nextTicketIsFresh : NextTicketIsFresh := by
  intro s t
  rw [nextTicket_eq]
  dsimp only
  generalize hcur : (ticketsOf s t).map (fun p => p.2.ticket) = cur
  generalize ha : ticketAfter (tgtOf s t).lastTicket = a
  have ha0 : a ≠ 0 := ha ▸ ticketAfter_ne_zero _
  refine ⟨?_, fun hlen p hp => ?_⟩
  · split_ifs
    · exact ticketAfter_ne_zero _
    · exact ticketAfter_ne_zero _
    · exact ha0
  · have hp : p.2.ticket ∈ cur := hcur ▸ List.mem_map_of_mem hp
    have hlen : cur.length ≤ 2 := by rw [← hcur, List.length_map]; exact hlen
    split_ifs with h1 h2
    · rw [List.contains_iff_mem] at h1 h2
      rcases mem_of_length_le_two hlen h1 h2 (ticketAfter_ne a).symm hp with he | he
      · rw [he]; exact (ticketAfter_twice_ne a).symm
      · rw [he]; exact (ticketAfter_ne _).symm
    · rw [List.contains_iff_mem] at h2
      exact fun he => h2 (he ▸ hp)
    · rw [List.contains_iff_mem] at h1
      exact fun he => h1 (he ▸ hp)

/-! ## The placing of a choice (R54, R59, R61) -/

/-- Event S for the INTID of key k, with the set's pointer first. -/
theorem placeOffer_eq (d : State) (t : Target) (k : Nat) : placeOffer d t k =
    let o : Offer := { target := t, ticket := nextTicket d t, prio := BitVec.ofNat 8 (effPrio d k),
                       supersede := !(ticketsOf d t).isEmpty, granted := hasGrant d t.toNat, born := d.irq.serial }
    let m := if isRotate d (keyIntid k) = true then setPtr d (srcDest d 0 (keyIntid k)) (t + 1) else d
    let p := setTgt (setInt m k { intOf d k with st := .offeredP, offer := some o }) t
      { tgtOf d t with lastTicket := nextTicket d t, wout := !(ticketsOf d t).isEmpty && (tgtOf d t).wout }
    { p with irq := { p.irq with serial := d.irq.serial + 1 } } := by
  unfold placeOffer
  by_cases h : isRotate d (keyIntid k) = true
  · simp only [h, if_true]
    rfl
  · simp only [h, if_false, Bool.false_eq_true]
    rfl

theorem placeOffer_irq (d : State) (t : Target) (k : Nat) : ∃ q, placeOffer d t k = { d with irq := q } := by
  rw [placeOffer_eq]
  dsimp only
  split <;> exact ⟨_, rfl⟩

theorem Settled.routeSelect : RouteSelect := by
  intro s t i hq hfind d k o m p
  have hx : Machine.routeSelect s t = if (!firstChoice s t) = true then s
      else if choiceHolds d t k = true then placeOffer d t k else d := by
    unfold Machine.routeSelect
    rw [hfind]
    rfl
  have hd : Unflagged s d := unflagged_irq s _
  by_cases hf : firstChoice s t = false
  · replace hx := hx.trans (if_pos (by rw [hf]; rfl))
    refine ⟨_, congrArg (fun e => Host.Outcome.next (settle s e)) hx, ?_⟩
    rw [if_pos hf]
    exact (unflagged_refl s).upToMarks hq
  · replace hx := hx.trans (if_neg (by simpa using hf))
    by_cases hc : choiceHolds d t k = true
    · replace hx := hx.trans (if_pos hc)
      obtain ⟨q, hq'⟩ := placeOffer_irq d t k
      have hu : Unflagged s (placeOffer d t k) := by
        rw [hq']
        exact unflagged_irq s q
      have hp : placeOffer d t k = { p with irq := { p.irq with serial := s.irq.serial + 1 } } := placeOffer_eq d t k
      refine ⟨_, congrArg (fun e => Host.Outcome.next (settle s e)) hx, ?_⟩
      rw [if_neg hf, if_pos hc, ← hp]
      exact hu.upToMarks hq
    · replace hx := hx.trans (if_neg hc)
      refine ⟨_, congrArg (fun e => Host.Outcome.next (settle s e)) hx, ?_⟩
      rw [if_neg hf, if_neg hc]
      exact hd.upToMarks hq

/-- Settles O16: the ticket numbers by cases, and a choice by whether it is first and still holds. -/
theorem routingAndTickets : Obligations.RoutingAndTickets := ⟨nextTicketIsFresh, Settled.routeSelect⟩

/-! ## What a packet on its way changes -/

/-- `e` is `b` but for its links and lanes. -/
def OnWire (b e : State) : Prop := ∃ ls ns, e = { b with links := ls, lanes := ns }

theorem onWire_refl (s : State) : OnWire s s := ⟨_, _, rfl⟩

theorem OnWire.trans (h : OnWire s b) (g : OnWire b e) : OnWire s e := by
  obtain ⟨a, v, rfl⟩ := h
  obtain ⟨a', v', rfl⟩ := g
  exact ⟨a', v', rfl⟩

theorem onWire_setLink (s : State) (l : Link) (r : LinkRec) : OnWire s (setLink s l r) := ⟨_, _, rfl⟩
theorem onWire_setLane (s : State) (l : Link) (p : Nat) (r : LaneRec) : OnWire s (setLane s l p r) := ⟨_, _, rfl⟩
theorem onWire_setTx (s : State) (l : Link) (p : Nat) (r : LaneTx) : OnWire s (setTx s l p r) := onWire_setLane s l p _

theorem onWire_fillFifos (l : Link) (n : Nat) (s : State) : OnWire s (fillFifos l n s) := by
  induction n generalizing s with
  | zero => exact onWire_refl s
  | succ n ih =>
    unfold fillFifos
    dsimp only
    split
    · split
      · exact ((onWire_setLink s l _).trans (onWire_setTx _ l _ _)).trans (ih _)
      · exact onWire_refl s
    · exact onWire_refl s

theorem onWire_pushTlp (s : State) (l : Link) (ty vc g : Nat) (fn : BitVec 8) (body : List Word) (ring : Option (Bool × Tenant)) :
    OnWire s (pushTlp s l ty vc g fn body ring) :=
  (onWire_setLink s l _).trans (onWire_fillFifos l _ _)

theorem OnWire.unflagged (h : OnWire s e) : Unflagged s e := by
  obtain ⟨ls, ns, rfl⟩ := h
  exact ⟨⟨rfl, rfl, rfl, rfl, rfl, rfl⟩, rfl⟩

theorem OnWire.intOf (h : OnWire s e) (k : Nat) : intOf e k = intOf s k := by
  obtain ⟨ls, ns, rfl⟩ := h
  rfl

/-! ## The turn of a link's next packet (R282) -/

theorem atBoundary_of_nextClass {c : TxClass} (h : nextClass s l = some c) : atBoundary s l = true := by
  unfold nextClass at h
  dsimp only at h
  by_contra hb
  rw [if_pos (by simpa using hb)] at h
  cases h

theorem atBoundary_iff : atBoundary s l = true ↔ s.pw.mode = .operating ∧ (linkOf s l).st = .active ∧ (linkOf s l).entry = none ∧
    (linkOf s l).ll.out = [] ∧ fifoRoom s l = true := by
  simp [atBoundary, operating, and_assoc]

theorem operating_of_nextClass {c : TxClass} (h : nextClass s l = some c) : operating s = true :=
  decide_eq_true (atBoundary_iff.1 (atBoundary_of_nextClass h)).1

theorem hasRoom_mono {ll : LinkLayer} {vc g g' : Nat} (hg : g ≤ g') (h : hasRoom ll vc g' = true) : hasRoom ll vc g = true := by
  unfold hasRoom at h ⊢
  rw [Bool.and_eq_true] at h ⊢
  refine ⟨h.1, ?_⟩
  have h2 := h.2
  split at h2 <;> simp_all
  omega

theorem sourceClass_ne_offer (src : BitVec 2) : sourceClass src ≠ .offer := by
  unfold sourceClass
  split_ifs <;> decide

/-- An offer has its turn only with nothing before it. -/
theorem nextClass_offer (h : nextClass s l = some .offer) : (linkOf s l).ll.nakDue = none ∧ (linkOf s l).ll.rpl = [] ∧
    (linkOf s l).ll.cplQ = [] ∧ flaggedOn s l = [] ∧ hasRoom (linkOf s l).ll 3 3 = true := by
  unfold nextClass at h
  dsimp only at h
  split at h
  · cases h
  split at h
  · cases h
  next hnak =>
  split at h
  · cases h
  next hrpl =>
  split at h
  · cases h
  split at h
  · cases h
  next hcpl =>
  split at h
  · cases h
  next hrec =>
  split at h
  · next hoff =>
    rw [Bool.and_eq_true] at hoff
    have hroom := hoff.2
    have hlen : (linkOf s l).ll.replay.length < 128 := by
      unfold hasRoom at hroom
      rw [Bool.and_eq_true, decide_eq_true_eq] at hroom
      exact hroom.1
    refine ⟨by simpa using hnak, by simpa using hrpl, ?_, ?_, hroom⟩
    · simpa [hlen] using hcpl
    · simpa [hasRoom_mono (by decide : 2 ≤ 3) hroom] using hrec
  · exfalso
    split at h
    · split at h
      · cases h
      · exact sourceClass_ne_offer _ (Option.some.inj h)
    · split at h
      · cases h
      · split at h <;> cases h

/-! ## Event X (O13) -/

theorem offerReplayEntry_eq {rest : List (Nat × Offer)} (hd : qDlv s l = (k, o) :: rest) (hn : nextClass s l = some .offer) :
    offerReplayEntry s l = startGrant (setInt
      (pushTlp s l (if o.supersede = true then tySUPERSEDE else tyOFFER) 3 3 0 (offerBody (keyIntid k) o) none) k
      { intOf s k with st := .offeredE, offer := some { o with cnt := 0 } }) o.target.toNat := by
  unfold offerReplayEntry
  rw [hd]
  dsimp only
  rw [if_pos (by rw [operating_of_nextClass hn, hn]; rfl), (onWire_pushTlp s l _ _ _ _ _ _).intOf]

theorem wiredOfferAssert_eq (hm : s.pw.mode = .operating) (hb : tgtBind s t = true) : wiredOfferAssert s t =
    match (ticketsOf s t).find? fun p => !isE s p.1 with
    | none => s
    | some (k, o) => setTgt (setInt s k { intOf s k with st := .offeredE, offer := some { o with cnt := 0 } }) t
        { tgtOf s t with wout := true } := by
  unfold wiredOfferAssert
  rw [if_pos (by rw [hb, Bool.and_true]; exact decide_eq_true hm)]
  rfl

/-- Settles O13: `offerReplayEntry` in its turn, what the turn asks for, and the wired targets' own event X. -/
theorem offersBecomeEndpointHeld : Obligations.OffersBecomeEndpointHeld := by
  refine ⟨fun s l k o rest hq hd hn => ?_, fun s l hn => ?_, fun s n hq hm hb => ⟨fun k o hf => ?_, fun hall => ?_⟩⟩
  · refine ⟨_, congrArg (fun e => Host.Outcome.next (settle s e)) (offerReplayEntry_eq hd hn), ?_⟩
    obtain ⟨ls, ns, hw⟩ := onWire_pushTlp s l (if o.supersede = true then tySUPERSEDE else tyOFFER) 3 3 0 (offerBody (keyIntid k) o)
      none
    dsimp only
    rw [hw]
    exact Unflagged.upToMarks hq ⟨⟨rfl, rfl, rfl, rfl, rfl, rfl⟩, rfl⟩
  · obtain ⟨hm, hst, hent, -, -⟩ := atBoundary_iff.1 (atBoundary_of_nextClass hn)
    exact ⟨hm, hst, hent, nextClass_offer hn⟩
  · have hx := wiredOfferAssert_eq hm hb
    rw [hf] at hx
    exact ⟨_, congrArg (fun e => Host.Outcome.next (settle s e)) hx,
      (unflagged_setTgt (unflagged_setInt (unflagged_refl s) _ _) _ _).upToMarks hq⟩
  · have hx := wiredOfferAssert_eq hm hb
    rw [List.find?_eq_none.2 fun p hp => by simp [hall p hp]] at hx
    exact ⟨_, congrArg (fun e => Host.Outcome.next (settle s e)) hx, (unflagged_refl s).upToMarks hq⟩

/-! ## Recalls (O14) -/

/-- The offer whose timeout is due. -/
def lateOffer : Offer := { target := 5, ticket := 7, prio := 0, supersede := false, born := 0, cnt := 16 }

/-- A table that lists one INTID twice: the record that a read finds has its offer at target 6, which has a wired binding, and
the other one is offered to target 5. -/
def listedTwice : State :=
  let base := setLive State.reset (tabKey 2 6 0 0) 0x10000
  { base with
    pw := { base.pw with mode := .operating }
    irq := { base.irq with ints := [
      (8192 + 1030, { st := .offeredE, offer := some { target := 6, ticket := 1, prio := 0, supersede := false, born := 0 } }),
      (8192 + 1030, { st := .offeredE, offer := some lateOffer })] } }

theorem offerTimeout_listedTwice : (intOf (offerTimeout listedTwice 5 7) (8192 + 1030)).st = .pending := by decide

/-- Refutes O14: nothing asks that a table lists an INTID once. Where one is listed twice, the ticket that has timed out is found
in the second record, and the flag goes to the first one's offer: at a wired target it is given back at once, and the INTID is
Pending, where the statement has it stay with its endpoint. -/
theorem not_recalls : ¬ Obligations.Recalls := by
  unfold Obligations.Recalls
  intro h
  obtain ⟨-, htimeout, -⟩ := h listedTwice 0 5 7 (8192 + 1030) lateOffer ⟨rfl, rfl⟩ rfl
  obtain ⟨u, hu, m, hm⟩ := htimeout (by decide) (by decide) (by decide) (by decide) (by decide) (by decide)
  have hend : u = settle listedTwice (offerTimeout listedTwice 5 7) := (Host.Outcome.next.inj hu).symm
  have hback : (intOf u (8192 + 1030)).st = .pending := by
    rw [hend, intOf_settle _ _ _ (by decide) (by rw [offerTimeout_listedTwice]; decide), offerTimeout_listedTwice]
  have hstays : (intOf u (8192 + 1030)).st = .offeredE := by
    rw [hm]
    exact congrArg IntRec.st (intOf_setInt_self listedTwice (8192 + 1030) _)
  rw [hback] at hstays
  cases hstays

end Sys2Proof.Machine
end

section
/-!
PROOFS. Chapters 02, 04 and 06: the bus cycles that start something: wired targets (O26), DLV_HOLD and W_PEND (O27), the pulses
of the window (O29).
-/
namespace Sys2Proof.Machine
open Sys2Proof.Safety Sys2Proof.Claims

variable {s b e u : State} {off addr : Nat} {be : BE} {data : Word} {op : BusOp} {t : Target} {k : Nat}

/-! ## Writes by what they start -/

theorem and_eq_zero_of_left {a m x : Word} (h : a &&& m = 0) : a &&& x &&& m = 0 := by
  rw [BitVec.and_assoc, BitVec.and_comm x, ← BitVec.and_assoc, h]
  exact BitVec.zero_and

theorem writeHl_none (s : State) (h : regHl off &&& writeMask op be data = 0) : writeHl s op off be data = s :=
  if_pos (and_eq_zero_of_left h)

theorem writeIm_none (s : State) (h : regIm off &&& writeMask op be data = 0) : writeIm s op off be data = s := if_pos h

/-- A register whose write is not one of the four that stand apart. -/
def actsAlone (off : Nat) : Bool :=
  isSq off || off = 0x100 || inWords off 0x980 0x9FC || inWords off 0x1100 0x1108

theorem servedWrite_eq (s : State) (op : BusOp) (be : BE) (data : Word) (hw : BitVec 24) (h : actsAlone off = false) :
    servedWrite s op off be data hw = writeAct (writeIm (writeHl s op off be data) op off be data) op off be data := by
  simp only [actsAlone, Bool.or_eq_false_iff, decide_eq_false_iff_not] at h
  obtain ⟨⟨⟨hsq, h100⟩, hbuf⟩, hpend⟩ := h
  unfold servedWrite
  simp only [hsq, h100, hbuf, hpend, if_false, Bool.false_eq_true]

/-- A write that touches no field only does what it starts. -/
theorem servedWrite_act (s : State) (hw : BitVec 24) (h : actsAlone off = false)
    (hHl : regHl off &&& writeMask op be data = 0) (hIm : regIm off &&& writeMask op be data = 0) :
    servedWrite s op off be data hw = writeAct s op off be data := by
  rw [servedWrite_eq s op be data hw h, writeHl_none s hHl, writeIm_none s hIm]

/-- A write cycle that leaves the mode alone, by its effect. -/
theorem put_effect (hs : served s true addr be) (hbe : be ≠ 0) (h : servedWrite s (busOp addr) (baseOff addr) be data 0 = e)
    (hm : e.pw.mode = s.pw.mode) : busPut addr be data s = .next (settle s e) := by
  have h2 := put_of_served (data := data) hs hbe (by rw [h]; exact hm)
  rwa [h] at h2

theorem get_effect (hs : served s false addr 15) (h : servedRead s (isLiveView addr) (baseOff addr) = e) (hu : Unflagged s e) :
    busGet addr s = .next (settle s e) :=
  get_eq hs.1 hs.2.1 ((busRead_of_served hs).trans h) hu

/-! ## Wired targets (O26) -/

theorem wtOffer_of_one {o : Offer} (h : ticketsOf s t = [(k, o)]) (he : (intOf s k).st = .offeredE) : wtOffer s t = some (k, o) := by
  have hE : isE s k = true := decide_eq_true he
  simp [wtOffer, h, hE]

theorem wtOffer_of_none (h : ∀ p ∈ ticketsOf s t, isE s p.1 = false) : wtOffer s t = none := by
  unfold wtOffer
  generalize ticketsOf s t = l at h
  induction l with
  | nil => rfl
  | cons p r ih =>
    rw [List.foldl_cons, h p (List.mem_cons_self ..), if_neg (by decide)]
    exact ih fun q hq => h q (List.mem_cons_of_mem _ hq)

theorem wtClaim_of_offer {o : Offer} (hm : s.pw.mode = .operating) (hb : tgtBind s t = true) (h : wtOffer s t = some (k, o)) :
    wtClaim s t = (put (keyIntid k).toNat 0 ||| put o.prio.toNat 24,
      setTgt (evC s k t) t (recordClaim (tgtOf (evC s k t) t) o.prio)) := by
  unfold wtClaim
  rw [if_pos (by rw [hb, Bool.and_true]; exact decide_eq_true hm), h]

theorem wtClaim_of_none (h : s.pw.mode ≠ .operating ∨ tgtBind s t = false ∨ wtOffer s t = none) :
    wtClaim s t = (0x00FFFFFF, s) := by
  unfold wtClaim
  split
  · next hc =>
    rw [Bool.and_eq_true] at hc
    rcases h with h | h | h
    · exact absurd (of_decide_eq_true hc.1) h
    · rw [hc.2] at h; cases h
    · rw [h]
  · rfl

/-- The addresses of WT_ACK and WT_EOI, of register n. -/
theorem wtAck_address (n : BitVec 4) : baseOff (0x1200 + 8 * n.toNat) = 0x1200 + 8 * n.toNat ∧
    isWtAck (0x1200 + 8 * n.toNat) = true ∧ wtNumber (0x1200 + 8 * n.toNat) = n := by
  have hn := n.isLt
  refine ⟨by unfold baseOff; omega, by simp [isWtAck]; omega, ?_⟩
  unfold wtNumber
  have h : (0x1200 + 8 * n.toNat - 0x1200) / 8 = n.toNat := by omega
  rw [h, BitVec.ofNat_toNat, BitVec.setWidth_eq]

theorem servedRead_wtAck (s : State) (live : Bool) (n : BitVec 4) : servedRead s live (0x1200 + 8 * n.toNat) =
    setRdata (wtClaim s (wiredTarget n)).2 (wtClaim s (wiredTarget n)).1 := by
  obtain ⟨-, hack, hnum⟩ := wtAck_address n
  unfold servedRead
  rw [if_pos hack, hnum]

theorem wtEoi_address : ∀ n : BitVec 4, baseOff (0x1204 + 8 * n.toNat) = 0x1204 + 8 * n.toNat ∧
    busOp (0x1204 + 8 * n.toNat) = .plain ∧ actsAlone (0x1204 + 8 * n.toNat) = false ∧ regHl (0x1204 + 8 * n.toNat) = 0 ∧
    regIm (0x1204 + 8 * n.toNat) = 0 ∧ isLinkOff (0x1204 + 8 * n.toNat) = false ∧ wtNumber (0x1204 + 8 * n.toNat) = n := by
  decide

/-- The INTID that a write of WT_EOI names: all three bytes are enabled. -/
theorem writeOnes_intid (h : be.extractLsb' 0 3 = 7) (data : Word) :
    (writeOnes .plain be data).setWidth 24 = data.setWidth 24 := by
  have hmask : ∀ be : BE, be.extractLsb' 0 3 = 7 → (beMask be).setWidth 24 = BitVec.allOnes 24 := by decide
  change (data &&& beMask be).setWidth 24 = _
  rw [BitVec.setWidth_and, hmask be h, BitVec.and_allOnes]

theorem servedWrite_wtEoi (s : State) (n : BitVec 4) (h : be.extractLsb' 0 3 = 7) (data : Word) :
    servedWrite s .plain (0x1204 + 8 * n.toNat) be data 0 = wtEoi s (wiredTarget n) be (data.setWidth 24) := by
  have hn := n.isLt
  obtain ⟨-, -, halone, hHl, hIm, hlink, hnum⟩ := wtEoi_address n
  rw [servedWrite_act s 0 halone (by rw [hHl]; exact BitVec.zero_and)
    (by rw [hIm]; exact BitVec.zero_and)]
  have hin : (decide (0x1200 ≤ 0x1204 + 8 * n.toNat) && decide (0x1204 + 8 * n.toNat < 0x1280) &&
      decide ((0x1204 + 8 * n.toNat) % 8 = 4)) = true := by
    simp only [Bool.and_eq_true, decide_eq_true_eq]
    omega
  unfold writeAct
  simp only [hlink, hin, hnum, writeOnes_intid h]
  rw [if_neg (by omega), if_neg (by omega), if_neg (by omega), if_neg (by omega), if_neg (by omega), if_neg (by omega),
    if_neg (by omega), if_neg (by omega), if_neg (by omega), if_neg (by omega), if_neg (by omega), if_neg (by omega),
    if_neg (by omega)]
  rfl

theorem wtEoi_of_holds (hbe : be.extractLsb' 0 3 = 7) (hb : tgtBind s t = true) {i : Intid} (h : holdsActive s t i = true) :
    wtEoi s t be i = setTgt (evE s (ikey t i)) t (recordEoi (tgtOf (evE s (ikey t i)) t)) := by
  unfold wtEoi
  rw [if_pos (by rw [hbe, hb, h]; rfl)]

theorem wtEoi_of_not {i : Intid} (h : ¬ (tgtBind s t = true ∧ holdsActive s t i = true)) : wtEoi s t be i = bump s cntSTRAY := by
  refine if_neg fun hc => h ?_
  rw [Bool.and_eq_true, Bool.and_eq_true] at hc
  exact ⟨hc.1.2, hc.2⟩

theorem recordEoi_of_ne_zero {r : TgtRec} (h : r.record ≠ 0) : recordEoi r =
    { r with record := clrBit256 r.record (lowestSet r.record).toNat,
             rpr := lowestSet (clrBit256 r.record (lowestSet r.record).toNat) } := by
  unfold recordEoi
  rw [if_neg h]

theorem be_ne_zero_of_low (h : be.extractLsb' 0 3 = 7) : be ≠ 0 := by
  rintro rfl
  exact absurd h (by decide)

/-- Settles O26: WT_ACK by the offer it finds, WT_EOI by whether the target holds the INTID. -/
theorem wiredTargets : Obligations.WiredTargets := by
  intro s n k o be data hq t i rec1 rec2
  have reads : ∀ {w : Word} {x : State}, served s false (0x1200 + 8 * n.toNat) 15 → wtClaim s t = (w, x) → Unflagged s x →
      exec (.wtAckRead n) s = .next (settle s (setRdata x w)) := fun {w x} hs hc hu => by
    refine get_effect hs ?_ (unflagged_setRdata hu w)
    rw [(wtAck_address n).1, servedRead_wtAck]
    rw [show wtClaim s (wiredTarget n) = (w, x) from hc]
  have writes : ∀ {x : State}, served s true (0x1204 + 8 * n.toNat) be → be.extractLsb' 0 3 = 7 → wtEoi s t be i = x →
      Unflagged s x → exec (.wtEoiWrite n be data) s = .next (settle s x) := fun {x} hs hbe hx hu => by
    obtain ⟨hbase, hop, -⟩ := wtEoi_address n
    refine put_effect hs (be_ne_zero_of_low hbe) ?_ (by rw [hu.pw])
    rw [hbase, hop, servedWrite_wtEoi s n hbe, hx]
  refine ⟨fun hs hm hb ht he => ?_, fun hs hno => ?_, fun hs hbe hb hu hst hh hr => ?_, fun hs _ hbe hno => ?_⟩
  · have hc := wtClaim_of_offer hm hb (wtOffer_of_one ht he)
    rw [evC_of_offeredE he] at hc
    have hu : Unflagged s (setTgt (setInt s k { intOf s k with st := .active, offer := none, holder := t, discard := false }) t
        (recordClaim (tgtOf s t) o.prio)) := unflagged_setTgt (unflagged_setInt (unflagged_refl s) _ _) _ _
    exact ⟨_, reads hs hc hu, (unflagged_setRdata hu _).upToMarks hq⟩
  · have hc : wtClaim s t = (0x00FFFFFF, s) := wtClaim_of_none (hno.imp_right (Or.imp_right wtOffer_of_none))
    exact ⟨_, reads hs hc (unflagged_refl s), (unflagged_setRdata (unflagged_refl s) _).upToMarks hq⟩
  · have hx := wtEoi_of_holds hbe hb (holdsActive_iff.2 ⟨hu, hst, hh⟩)
    rw [evE_of_active hst, tgtOf_setInt, recordEoi_of_ne_zero hr] at hx
    have hun := unflagged_setTgt (unflagged_setInt (unflagged_refl s) (ikey t i)
      { intOf s (ikey t i) with st := .completed, holder := 0 }) t { tgtOf s t with record := rec2, rpr := lowestSet rec2 }
    exact ⟨_, writes hs hbe hx hun, hun.upToMarks hq⟩
  · have hx : wtEoi s t be i = bump s cntSTRAY := wtEoi_of_not fun h => hno ⟨h.1, holdsActive_iff.1 h.2⟩
    have hun := unflagged_bump (unflagged_refl s) cntSTRAY
    exact ⟨_, writes hs hbe hx hun, hun.upToMarks hq⟩

end Sys2Proof.Machine
end

section
/-!
PROOFS. Chapters 02, 05 and 06: DLV_HOLD and W_PEND (O27), the pulses of the window (O29).
-/
namespace Sys2Proof.Machine
open Sys2Proof.Safety Sys2Proof.Claims

variable {s b e u x : State} {off addr : Nat} {be : BE} {data : Word} {t : Target} {k : Nat}

/-! ## Withdrawal (R34, R335) -/

theorem evW_of_offeredP (h : (intOf s k).st = .offeredP) :
    evW s k = setInt s k { intOf s k with st := .pending, offer := none } := by
  simp only [evW, h]

theorem evW_of_not (h : (intOf s k).st ≠ .offeredP) : evW s k = s := by
  unfold evW
  dsimp only
  split
  · next hp => exact absurd hp h
  · rfl

/-- A record that is not the default is listed. -/
theorem mem_of_tabGet_ne {α : Type} {tab : Tab α} {d : α} (h : tabGet tab d k ≠ d) : (k, tabGet tab d k) ∈ tab := by
  induction tab with
  | nil => exact absurd rfl h
  | cons p r ih =>
    rw [tabGet_cons] at h ⊢
    split
    · next hp =>
      rw [← hp]
      exact List.mem_cons_self ..
    · next hp =>
      rw [if_neg hp] at h
      exact List.mem_cons_of_mem _ (ih h)

/-- Once it has been withdrawn, an INTID stays as it is. -/
theorem intOf_evW_evW (s : State) (k : Nat) : intOf (evW (evW s k) k) k = intOf (evW s k) k := by
  refine congrArg (intOf · k) (evW_of_not ?_)
  rw [evW_st]
  cases (intOf s k).st <;> decide

theorem intOf_evW_congr {s s' : State} (h : intOf s k = intOf s' k) : intOf (evW s k) k = intOf (evW s' k) k := by
  by_cases hp : (intOf s k).st = .offeredP
  · rw [evW_of_offeredP hp, evW_of_offeredP (h ▸ hp), intOf_setInt_self, intOf_setInt_self, h]
  · rw [evW_of_not hp, evW_of_not (h ▸ hp), h]

theorem intOf_fold_evW (l : List (Nat × IntRec)) (s : State) (k : Nat) : intOf (foldS (fun s p => evW s p.1) s l) k =
    if k ∈ l.map Prod.fst then intOf (evW s k) k else intOf s k := by
  induction l generalizing s with
  | nil => rfl
  | cons p r ih =>
    change intOf (foldS (fun s p => evW s p.1) (evW s p.1) r) k = _
    rw [ih, List.map_cons]
    by_cases hp : p.1 = k
    · rw [if_pos (List.mem_cons.2 (.inl hp.symm)), hp]
      split
      · exact intOf_evW_evW s k
      · rfl
    · have hother : intOf (evW s p.1) k = intOf s k := (onInt_evW s p.1).others k (Ne.symm hp)
      rw [intOf_evW_congr hother, hother]
      simp only [List.mem_cons, Ne.symm hp, false_or]

/-- Every Offered-P INTID is withdrawn, and no other changes. -/
theorem intOf_withdrawAll (s : State) (k : Nat) : intOf (withdrawAll s) k = intOf (evW s k) k := by
  unfold withdrawAll
  rw [intOf_fold_evW]
  split
  · rfl
  · next h =>
    have hp : (intOf s k).st ≠ .offeredP := fun hp => h (by
      have hne : intOf s k ≠ {} := fun he => by
        rw [he] at hp
        cases hp
      exact List.mem_map.2 ⟨_, List.mem_filter.2 ⟨mem_of_tabGet_ne hne, decide_eq_true hp⟩, rfl⟩)
    rw [evW_of_not hp]

/-! ## DLV_HOLD (R34, R335) -/

theorem servedWrite_dlvHold (s : State) (v : Bool) :
    servedWrite s .plain 0x40 1 (putB v 0) 0 = setIm s 0x40 ((imAt s 0x40 &&& ~~~1) ||| putB v 0) := by
  rw [servedWrite_eq s .plain 1 (putB v 0) 0 (by decide), writeHl_none s (by cases v <;> decide)]
  have hdata : putB v 0 &&& 1 = putB v 0 := by cases v <;> decide
  have hmask : regIm 0x40 &&& writeMask .plain 1 (putB v 0) = 1 := by cases v <;> decide
  have hw : writeIm s .plain 0x40 1 (putB v 0) = setIm s 0x40 ((imAt s 0x40 &&& ~~~1) ||| (putB v 0 &&& 1)) := by
    unfold writeIm
    dsimp only
    rw [hmask, if_neg (by decide)]
    rfl
  rw [hw, hdata]
  rfl

/-- The close of a command that raises no flag and changes no mode, but may end the permission of event S. -/
theorem settle_eq_of_hold (hq : Quiet s) (v : Word) :
    settle s (setIm s 0x40 v) = endCclk (noteHwm (arbFollow (settlePermit s (setIm s 0x40 v)))) := by
  have hcode : modeCode (setIm s 0x40 v) = modeCode s := rfl
  have hacc : (arbFollow (settlePermit s (setIm s 0x40 v))).hsAcc = 0 := by
    rw [arbFollow_hsAcc, (settlePermit_accs _ _).1]
    exact hq.1
  unfold settle
  rw [nvDone_of_work (s := s) (e := setIm s 0x40 v) rfl, logMode_of_code hcode, flushHouse, if_pos hacc]

theorem intOf_settle_hold (hq : Quiet s) (v : Word) (k : Nat) :
    intOf (settle s (setIm s 0x40 v)) k = intOf (settlePermit s (setIm s 0x40 v)) k := by
  rw [settle_eq_of_hold hq]
  obtain ⟨m, hm⟩ := noteHwm_eq (arbFollow (settlePermit s (setIm s 0x40 v)))
  rw [hm]
  rfl

theorem settlePermit_allot (b s : State) : (settlePermit b s).allot = s.allot := by
  unfold settlePermit withdrawAll
  split
  · refine foldS_keeps (fun x : State => x.allot) _ _ _ fun x p => ?_
    unfold evW
    dsimp only
    split <;> rfl
  · rfl

theorem flagsSetW_hold (hq : Quiet s) (v : Word) : FlagsSetW 0 (setIm s 0x40 v) (settle s (setIm s 0x40 v)) := by
  have hfirst : (setIm s 0x40 v).sqAcc.contains 0x300 = false := by
    rw [setIm_sqAcc, hq.2]
    rfl
  have hdone : (nvDone s (setIm s 0x40 v)).hsAcc = 0 := by
    rw [nvDone_of_work (s := s) (e := setIm s 0x40 v) rfl]
    exact hq.1
  refine ⟨settle_aside s _, ?_, settlePermit s (setIm s 0x40 v), aside_settlePermit s _, settlePermit_allot s _, ?_⟩
  · rw [sqOf_settle_house _ _ hfirst, hdone]
  · rw [settle_eq_of_hold hq, endCclk_allot, noteHwm_allot]

theorem permitS_hold (s : State) (v : Bool) : permitS (setIm s 0x40 ((imAt s 0x40 &&& ~~~1) ||| putB v 0)) =
    (operating s && runEn s && !holdCond s && !v) := by
  have hbit : bit (regImm (setIm s 0x40 ((imAt s 0x40 &&& ~~~1) ||| putB v 0)) 0x40) 0 = v := by
    change bit (imAt (setIm s 0x40 _) 0x40) 0 = v
    rw [imAt_setIm, if_pos rfl]
    generalize imAt s 0x40 = w
    cases v <;> simp [bit, putB]
  unfold permitS
  rw [hbit]
  rfl

theorem deliveryHold : DeliveryHold := by
  intro s v hq hs
  have hx := put_effect (data := putB v 0) hs (by decide) (servedWrite_dlvHold s v) rfl
  refine ⟨_, hx, flagsSetW_hold hq _, fun hv hp k hk => ?_, fun k hk => ?_⟩
  · subst hv
    have hw : settlePermit s (setIm s 0x40 ((imAt s 0x40 &&& ~~~1) ||| putB true 0)) =
        withdrawAll (setIm s 0x40 ((imAt s 0x40 &&& ~~~1) ||| putB true 0)) := by
      have hop : operating s = true := by
        unfold permitS at hp
        simp only [Bool.and_eq_true] at hp
        exact hp.1.1.1
      have hop' : operating (setIm s 0x40 ((imAt s 0x40 &&& ~~~1) ||| putB true 0)) = true := hop
      unfold settlePermit
      rw [hp, permitS_hold, hop', if_pos (by simp)]
    have hst : (intOf (setIm s 0x40 ((imAt s 0x40 &&& ~~~1) ||| putB true 0)) k).st = .offeredP := hk
    rw [intOf_settle_hold hq, hw, intOf_withdrawAll, evW_of_offeredP hst, intOf_setInt_self]
    exact ⟨rfl, rfl⟩
  · rw [intOf_settle_hold hq]
    by_cases hst : (intOf s k).st ≠ .offeredP
    · unfold settlePermit
      split
      · rw [intOf_withdrawAll, evW_of_not (s := setIm s 0x40 _) hst]
        rfl
      · rfl
    · have hkeep : permitS s = true → permitS (setIm s 0x40 ((imAt s 0x40 &&& ~~~1) ||| putB v 0)) = true := fun hp => by
        rcases hk with hk | hk | hk
        · exact absurd hk hst
        · rw [permitS_hold, hk]
          unfold permitS at hp
          simp only [Bool.and_eq_true] at hp ⊢
          exact ⟨hp.1, rfl⟩
        · rw [hp] at hk
          cases hk
      rw [settlePermit_of_permit hkeep]
      rfl

/-! ## W_PEND (R26, R135) -/

theorem gathers_bump (s : State) (off : Nat) : Gathers s (bump s off) := (unflagged_bump (unflagged_refl s) off).gathers rfl

theorem gathers_ifEnabled {f : State → State} (h : Gathers s (f s)) (k : Nat) : Gathers s (ifEnabled s k f) := by
  unfold ifEnabled
  split
  · split
    · exact h
    · exact gathers_bump s _
  · exact h

theorem gathers_softPend (s : State) (k : Nat) (v : Bool) : Gathers s (softPend s k v) := by
  unfold softPend
  split
  · exact gathers_ifEnabled (onInt_evSet s k).toGathers k
  · exact (onInt_evK s k).toGathers

theorem wPend_address : ∀ m : BitVec 2, m ≠ 3 → baseOff (0x1100 + 4 * m.toNat) = 0x1100 + 4 * m.toNat ∧
    busOp (0x1100 + 4 * m.toNat) = .plain ∧ isSq (0x1100 + 4 * m.toNat) = false ∧ 0x1100 + 4 * m.toNat ≠ 0x100 ∧
    inWords (0x1100 + 4 * m.toNat) 0x980 0x9FC = false ∧ inWords (0x1100 + 4 * m.toNat) 0x1100 0x1108 = true ∧
    (0x1100 + 4 * m.toNat - 0x1100) / 4 = m.toNat := by decide

theorem servedWrite_wPend (s : State) {m : BitVec 2} (hm : m ≠ 3) (be : BE) (data : Word) :
    servedWrite s .plain (0x1100 + 4 * m.toNat) be data 0 = writePend s .plain m.toNat be data := by
  obtain ⟨-, -, hsq, h100, hbuf, hpend, hnum⟩ := wPend_address m hm
  unfold servedWrite
  rw [hsq, hbuf, hpend, hnum, if_neg (by decide), if_neg h100, if_neg (by decide), if_pos rfl]

theorem wiredPendingWrites : WiredPendingWrites := by
  intro s m be data hq hm hbe hs
  obtain ⟨hbase, hop, -⟩ := wPend_address m hm
  have writes : ∀ {x : State}, writePend s .plain m.toNat be data = x → x.pw = s.pw →
      exec (.wPendWrite m be data) s = .next (settle s x) := fun {x} hx hpw => by
    refine (if_neg hm).trans (put_effect hs hbe ?_ (by rw [hpw]))
    rw [hbase, hop, servedWrite_wPend s hm, hx]
  refine ⟨fun hmode => ?_, fun hmode => ?_⟩
  · have hx : writePend s .plain m.toNat be data = ((upTo 32).filter fun n => bit (beMask be) n).foldl (fun x n =>
        softPend x (ikey 0 (BitVec.ofNat 24 (wiredIntid m.toNat n))) (bit data n)) s := by
      refine if_neg ?_
      rw [show operating s = true from decide_eq_true hmode]
      decide
    have hg := gathers_fold (f := fun x n => softPend x (ikey 0 (BitVec.ofNat 24 (wiredIntid m.toNat n))) (bit data n))
      ((upTo 32).filter fun n => bit (beMask be) n) (fun x n => gathers_softPend x _ _) s
    exact ⟨_, writes hx hg.pw, hg.closed hq⟩
  · have hx : writePend s .plain m.toNat be data = s := by
      refine if_pos ?_
      rw [show operating s = false from decide_eq_false hmode]
      rfl
    exact ⟨_, writes hx rfl, (unflagged_refl s).upToMarks hq⟩

/-- Settles O27: DLV_HOLD through what the close withdraws, W_PEND through the events of each of its bits. -/
theorem holdAndPendingWrites : Obligations.HoldAndPendingWrites := ⟨deliveryHold, wiredPendingWrites⟩

end Sys2Proof.Machine
end

section
/-!
PROOFS. Chapters 05, 06 and 19: SHADOW_HOLD, REVERT, SNAP, DRIFT_REL and HWM_CLR (O29).
-/
namespace Sys2Proof.Machine
open Sys2Proof.Safety Sys2Proof.Claims

variable {s e u : State} {k : Nat}

/-! ## What each of the five writes does -/

theorem servedWrite_shadowHold (s : State) (v : Bool) :
    servedWrite s .plain 0x114 1 (putB v 0) 0 = setIm s 0x114 ((imAt s 0x114 &&& ~~~1) ||| putB v 0) := by
  rw [servedWrite_eq s .plain 1 (putB v 0) 0 (by decide), writeHl_none s (by cases v <;> decide)]
  have hdata : putB v 0 &&& 1 = putB v 0 := by cases v <;> decide
  have hmask : regIm 0x114 &&& writeMask .plain 1 (putB v 0) = 1 := by cases v <;> decide
  have hw : writeIm s .plain 0x114 1 (putB v 0) = setIm s 0x114 ((imAt s 0x114 &&& ~~~1) ||| (putB v 0 &&& 1)) := by
    unfold writeIm
    dsimp only
    rw [hmask, if_neg (by decide)]
    rfl
  have hact : ∀ x, writeAct x .plain 0x114 1 (putB v 0) = x := fun x => by
    have hpulse : bit (writeOnes .plain 1 (putB v 0)) 8 = false := by cases v <;> decide
    unfold writeAct
    dsimp only
    rw [if_pos rfl, hpulse, if_neg (by decide)]
  rw [hw, hdata, hact]

theorem servedWrite_revert (s : State) : servedWrite s .plain 0x114 2 0x100 0 = revert s :=
  (servedWrite_act s 0 (by decide) (by decide) (by decide)).trans rfl

theorem servedWrite_snap (s : State) : servedWrite s .plain 0x80C 1 1 0 = { s with hl := { s.hl with snapPend := true } } :=
  (servedWrite_act s 0 (by decide) (by decide) (by decide)).trans rfl

theorem servedWrite_driftRel (s : State) :
    servedWrite s .plain 0x200 2 0x100 0 = { s with pw := { s.pw with driftHold := false } } :=
  (servedWrite_act s 0 (by decide) (by decide) (by decide)).trans rfl

theorem servedWrite_hwmClr (s : State) : servedWrite s .plain 0xA28 1 1 0 = clearHwm s :=
  (servedWrite_act s 0 (by decide) (by decide) (by decide)).trans rfl

/-! ## The marks (Table CQ-7) -/

/-- A mark becomes the greater of itself and its occupancy. -/
theorem tabGet_marks (l : List Nat) (m : Tab Nat) (j : Nat) :
    tabGet (l.zipIdx.foldl (fun t (p : Nat × Nat) => tabSet t 0 p.2 (max (tabGet t 0 p.2) p.1)) m) 0 j =
      max (tabGet m 0 j) (l.getD j 0) := by
  induction l using List.reverseRecOn with
  | nil => simp
  | append_singleton l x ih =>
    rw [List.zipIdx_append, List.foldl_append]
    simp only [List.zipIdx_cons, List.zipIdx_nil, List.foldl_cons, List.foldl_nil, Nat.zero_add]
    rw [tabGet_tabSet]
    split
    · next hj =>
      subst hj
      rw [ih]
      simp
    · next hj =>
      rw [ih]
      have hget : (l ++ [x]).getD j 0 = l.getD j 0 := by
        rcases Nat.lt_or_gt_of_ne hj with h | h
        · rw [List.getD_append _ _ _ _ h]
        · rw [List.getD_eq_default _ _ (by rw [List.length_append, List.length_singleton]; omega),
            List.getD_eq_default _ _ (by omega)]
      rw [hget]

theorem noteHwm_marks (s : State) (j : Nat) :
    tabGet (noteHwm s).xl.hwm 0 j = max (tabGet s.xl.hwm 0 j) ((occupancies s).getD j 0) := by
  unfold noteHwm
  dsimp only
  exact tabGet_marks _ _ j

/-! ## The arbiter does not look at the marks -/

/-- The state with its high-water marks at m. -/
def withMarks (s : State) (m : Tab Nat) : State := { s with xl := { s.xl with hwm := m } }

variable {m : Tab Nat}

theorem wakeStands_withMarks (t : Target) (k : Nat) : wakeStands (withMarks s m) t k = wakeStands s t k := rfl

theorem grantStands_withMarks (t : Target) (k : Nat) : grantStands (withMarks s m) t k = grantStands s t k := by
  unfold grantStands
  rw [wakeStands_withMarks]
  rfl

/-- The grants and the requests that `pruneWakes` keeps. -/
def grantKept (s : State) (g : Grant) : Bool :=
  256 ≤ g.client || g.started || (match g.key with
    | some k => grantStands s (BitVec.ofNat 8 g.client) k
    | none => false)
def reqKept (s : State) (r : Req) : Bool :=
  256 ≤ r.client || (match r.key with
    | some k => wakeStands s (BitVec.ofNat 8 r.client) k
    | none => false)

theorem pruneWakes_eq (s : State) : pruneWakes s = { s with allot := { s.allot with
    grants := s.allot.grants.filter (grantKept s), reqs := s.allot.reqs.filter (reqKept s) } } := rfl

theorem grantKept_withMarks : grantKept (withMarks s m) = grantKept s := by
  funext g
  unfold grantKept
  simp only [grantStands_withMarks]

theorem reqKept_withMarks : reqKept (withMarks s m) = reqKept s := by
  funext r
  unfold reqKept
  simp only [wakeStands_withMarks]

theorem pruneWakes_withMarks : pruneWakes (withMarks s m) = withMarks (pruneWakes s) m := by
  rw [pruneWakes_eq, pruneWakes_eq, grantKept_withMarks, reqKept_withMarks]
  rfl

theorem markUnfit_withMarks : markUnfit (withMarks s m) = withMarks (markUnfit s) m := rfl

theorem raiseReq_withMarks (c : Nat) (p : BitVec 8) (x : Option Link) (k : Option Nat) :
    raiseReq (withMarks s m) c p x k = withMarks (raiseReq s c p x k) m := by
  unfold raiseReq
  rw [show (withMarks s m).allot = s.allot from rfl]
  split <;> rfl

theorem headRingLink_withMarks (evt : Bool) : headRingLink (withMarks s m) evt = headRingLink s evt := by
  have hcheck : ∀ n a, regionCheck (withMarks s m) n a = regionCheck s n a := fun _ _ => rfl
  have hslot : ∀ n, ringSlot (withMarks s m) n evt = ringSlot s n evt := fun _ => rfl
  have hfull : ∀ n, ringFull (withMarks s m) n evt = ringFull s n evt := fun _ => rfl
  have hme : ∀ n, tenMe (withMarks s m) n = tenMe s n := fun _ => rfl
  unfold headRingLink
  simp only [hcheck, hslot, hfull, hme]
  rfl

theorem exitWaits_withMarks (l : Link) : exitWaits (withMarks s m) l = exitWaits s l := by
  unfold exitWaits
  rw [headRingLink_withMarks, headRingLink_withMarks]
  rfl

theorem exitRequest_withMarks (l : Link) : exitRequest (withMarks s m) l = withMarks (exitRequest s l) m := by
  unfold exitRequest
  dsimp only
  rw [show linkOf (withMarks s m) l = linkOf s l from rfl, exitWaits_withMarks,
    show exitWanted (withMarks s m) l = exitWanted s l from rfl]
  split
  · split
    · exact raiseReq_withMarks _ _ _ _
    · rfl
  · rfl

theorem breqRequest_withMarks (n : Nat) : breqRequest (withMarks s m) n = withMarks (breqRequest s n) m := by
  unfold breqRequest
  dsimp only
  rw [show (withMarks s m).allot = s.allot from rfl, show hasGrant (withMarks s m) (extClient n) = hasGrant s (extClient n) from rfl,
    show hasReq (withMarks s m) (extClient n) = hasReq s (extClient n) from rfl]
  split
  · exact raiseReq_withMarks _ _ _ _
  · rfl

theorem engineRequest_withMarks : engineRequest (withMarks s m) = withMarks (engineRequest s) m := by
  unfold engineRequest
  rw [show anyReady (withMarks s m) = anyReady s from rfl, show hasGrant (withMarks s m) cAUTH = hasGrant s cAUTH from rfl,
    show hasReq (withMarks s m) cAUTH = hasReq s cAUTH from rfl]
  split
  · exact raiseReq_withMarks _ _ _ _
  · rfl

theorem foldS_withMarks {α : Type} {f : State → α → State} (hf : ∀ s a, f (withMarks s m) a = withMarks (f s a) m) (l : List α)
    (s : State) : foldS f (withMarks s m) l = withMarks (foldS f s l) m := by
  induction l generalizing s with
  | nil => rfl
  | cons a r ih =>
    change foldS f (f (withMarks s m) a) r = _
    rw [hf]
    exact ih _

theorem follow_withMarks : follow (withMarks s m) = withMarks (follow s) m := by
  unfold follow
  rw [show arbGrants (withMarks s m) = arbGrants s from rfl]
  split
  · dsimp only
    rw [pruneWakes_withMarks]
    generalize pruneWakes s = p
    have hexit : (if operating (withMarks p m) then exitRequests (withMarks p m) else withMarks p m) =
        withMarks (if operating p then exitRequests p else p) m := by
      rw [show operating (withMarks p m) = operating p from rfl]
      split
      · unfold exitRequests
        exact foldS_withMarks (f := fun s n => exitRequest s (BitVec.ofNat 3 n)) (fun s n => exitRequest_withMarks _) _ _
      · rfl
    rw [hexit, foldS_withMarks (fun s n => breqRequest_withMarks n), engineRequest_withMarks]
    generalize engineRequest _ = q
    rw [show freeAllot (withMarks q m) = freeAllot q from rfl]
    exact markUnfit_withMarks (s := { q with allot := { q.allot with overdraft := q.allot.overdraft && freeAllot q < 0 } })
  · rfl

theorem arbFollow_withMarks : (arbFollow (withMarks s m)).allot = (arbFollow s).allot := by
  have h : (arbFollow (withMarks s m)).allot = (follow (withMarks (endCclk s) m)).allot := rfl
  rw [h, follow_withMarks]
  rfl

/-- Settles O29: the effect of each write, and the marks taken anew by the close of HWM_CLR. -/
theorem windowPulses : Obligations.WindowPulses := by
  intro s v hq
  have keeps : ∀ {c : Instr} {x : State}, exec c s = .next (settle s x) → Unflagged s x → ∃ t, exec c s = .next t ∧ UpToMarks x t :=
    fun hc hu => ⟨_, hc, hu.upToMarks hq⟩
  refine ⟨fun hs => ?_, fun hs => ?_, fun hs => ?_, fun hs => ?_, fun hs => ?_⟩
  · exact ⟨_, put_effect hs (by decide) (servedWrite_shadowHold s v) rfl, (calm_setIm s (by decide) _).upToMarks hq⟩
  · have hmode : (revert s).pw = s.pw := by
      unfold revert
      split <;> rfl
    have hu : Unflagged s (revert s) := by
      unfold revert
      split
      · exact unflagged_refl s
      · exact ⟨⟨rfl, rfl, rfl, rfl, rfl, rfl⟩, rfl⟩
    exact keeps (put_effect hs (by decide) (servedWrite_revert s) (congrArg _ hmode)) hu
  · exact keeps (put_effect hs (by decide) (servedWrite_snap s) rfl) ⟨⟨rfl, rfl, rfl, rfl, rfl, rfl⟩, rfl⟩
  · refine ⟨_, put_effect hs (by decide) (servedWrite_driftRel s) rfl, settle_aside_permit s _ fun hp => ?_, ?_⟩
    · have hhold : holdCond { s with pw := { s.pw with driftHold := false } } = bit (regLive s 0x200) 1 := Bool.or_false _
      unfold permitS at hp ⊢
      simp only [Bool.and_eq_true, Bool.not_eq_true'] at hp ⊢
      obtain ⟨⟨⟨hop, hrun⟩, hh⟩, hd⟩ := hp
      rw [hhold]
      exact ⟨⟨⟨hop, hrun⟩, (Bool.or_eq_false_iff.1 hh).1⟩, hd⟩
    · have hdone : nvDone s { s with pw := { s.pw with driftHold := false } } = { s with pw := { s.pw with driftHold := false } } :=
        nvDone_of_work rfl
      rw [sqOf_settle_house _ _ (by rw [show (_ : State).sqAcc = s.sqAcc from rfl, hq.2]; rfl), hdone]
      rw [show (_ : State).hsAcc = s.hsAcc from rfl, hq.1]
      rfl
  · have hx : exec .hwmClr s = .next (settle s (clearHwm s)) := put_effect hs (by decide) (servedWrite_hwmClr s) rfl
    have hu : Unflagged s (clearHwm s) := ⟨⟨rfl, rfl, rfl, rfl, rfl, rfl⟩, rfl⟩
    refine ⟨_, hx, ?_, fun j hj => ?_⟩
    · obtain ⟨m, hm⟩ := hu.upToMarks hq
      have ha : (arbFollow (clearHwm s)).allot = (arbFollow s).allot := arbFollow_withMarks (m := [])
      exact ⟨m, by rw [hm, ha]; rfl⟩
    · have hacc : (arbFollow (clearHwm s)).hsAcc = 0 := hq.1
      rw [settle_eq_of_sameModes hu.toSameModes, flushHouse, if_pos hacc]
      have hend : ∀ x : State, (endCclk x).xl = x.xl := fun _ => rfl
      have hclear : tabGet (arbFollow (clearHwm s)).xl.hwm 0 j = 0 := rfl
      have hocc : occupancies (arbFollow (clearHwm s)) = occupancies s := rfl
      rw [hend, noteHwm_marks, hclear, hocc]
      exact Nat.zero_max _

end Sys2Proof.Machine
end

section
/-!
PROOFS. Chapter 06: the table window: commands that meet an error and reads (O36), pending and LOST (O31), RECLAIM (O32).
-/
namespace Sys2Proof.Machine
open Sys2Proof.Safety Sys2Proof.Claims

variable {s b e u x : State} {op k : Nat} {t : Target} {c : Instr}

theorem operating_eq_true (h : s.pw.mode = .operating) : operating s = true := decide_eq_true h
theorem operating_eq_false (h : s.pw.mode ≠ .operating) : operating s = false := decide_eq_false h

/-! ## A write of TW_CMD -/

/-- The seven commands of the window by their codes. -/
def windowOps : List (Instr × Nat) := [(Instr.twRead, 1), (.twReadLive, 2), (.twWrite, 3), (.twWriteCfg, 4), (.pendSet, 5),
  (.pendClr, 6), (.lostClr, 7)]

theorem servedWrite_twCmd (s : State) {op : Nat} (h : 1 ≤ op ∧ op ≤ 7) :
    servedWrite s .plain 0x1028 1 (BitVec.ofNat 32 op) 0 = windowCommand s op := by
  obtain ⟨h1, h7⟩ := h
  have hz : ∀ m : Word, (0 : Word) &&& m = 0 := fun m => BitVec.zero_and
  rw [servedWrite_act s 0 (by decide) (hz _) (hz _)]
  interval_cases op <;> rfl

theorem windowCommand_mode (s : State) (op : Nat) : (windowCommand s op).pw.mode = s.pw.mode := (windowCommand_held s op).2

theorem put_twCmd (hs : served s true 0x1028 1) (h : 1 ≤ op ∧ op ≤ 7) :
    busPut 0x1028 1 (BitVec.ofNat 32 op) s = .next (settle s (windowCommand s op)) :=
  put_effect hs (by decide) (servedWrite_twCmd s h) (windowCommand_mode s op)

theorem exec_windowOp (hs : served s true 0x1028 1) (hc : (c, op) ∈ windowOps) :
    exec c s = .next (settle s (windowCommand s op)) := by
  simp only [windowOps, List.mem_cons, Prod.mk.injEq, List.not_mem_nil, or_false] at hc
  rcases hc with ⟨rfl, rfl⟩ | ⟨rfl, rfl⟩ | ⟨rfl, rfl⟩ | ⟨rfl, rfl⟩ | ⟨rfl, rfl⟩ | ⟨rfl, rfl⟩ | ⟨rfl, rfl⟩
  · exact put_twCmd hs (by decide)
  · exact put_twCmd hs (by decide)
  · exact put_twCmd hs (by decide)
  · exact put_twCmd hs (by decide)
  · exact put_twCmd hs (by decide)
  · exact put_twCmd hs (by decide)
  · exact put_twCmd hs (by decide)

theorem windowCommand_of_error (h : windowErr s op ≠ 0) : windowCommand s op = commandDone s (windowErr s op) := if_neg h

theorem windowCommand_of_ok (h : windowErr s op = 0) : windowCommand s op = windowEffect (commandDone s 0) op := by
  refine (if_pos h).trans ?_
  rw [h]
  rfl

/-! ## The bus is left alone by the effects -/

theorem shadowMerge_bus (s : State) (k : Nat) (hl mask data : Word) : (shadowMerge s k hl mask data).bus = s.bus := by
  unfold shadowMerge
  dsimp only
  split <;> rfl

theorem windowShadow_bus (s : State) (t idx tgt : Nat) : (windowShadow s t idx tgt).bus = s.bus :=
  foldS_keeps (fun x : State => x.bus) _ _ _ fun _ _ => shadowMerge_bus _ _ _ _ _

theorem softPend_bus (s : State) (k : Nat) (v : Bool) : (softPend s k v).bus = s.bus := by
  simp

theorem windowState_bus (s : State) (t idx tgt : Nat) : (windowState s t idx tgt).bus = s.bus := by
  unfold windowState
  dsimp only
  split
  · rw [softPend_bus]
    split <;> rfl
  · rfl

theorem windowPulse_bus (s : State) (t idx : Nat) : (windowPulse s t idx).bus = s.bus := by
  unfold windowPulse
  split
  · simp
  · split
    · simp
    · rfl

theorem windowEffect_bus (s : State) (op : Nat) : (windowEffect s op).bus = s.bus := by
  unfold windowEffect
  dsimp only
  split
  · exact foldS_keeps (fun x : State => x.bus) _ _ _ fun _ _ => rfl
  · exact foldS_keeps (fun x : State => x.bus) _ _ _ fun _ _ => rfl
  · rw [windowPulse_bus, windowState_bus, windowShadow_bus]
  · rw [windowPulse_bus, windowShadow_bus]
  · split
    · rw [softPend_bus]
    · rfl
  · split
    · rw [softPend_bus]
    · rfl
  · rfl
  · rfl

/-! ## Errors (R140) -/

theorem windowErr_table (h : 11 < twSel s) (op : Nat) : windowErr s op = 2 := if_pos h

theorem windowErr_index (h : ¬ 11 < twSel s)
    (hi : tabHolds (twSel s) (twIndex s) = false ∨ twTarget s ≠ 0 ∧ tabBanked (twSel s) (twIndex s) = false) (op : Nat) :
    windowErr s op = 1 := by
  unfold windowErr
  rw [if_neg h, if_pos]
  rcases hi with hi | ⟨h1, h2⟩
  · simp [hi]
  · simp [h1, h2]

/-- With the table and the index good, the command decides. -/
theorem windowErr_op (h : ¬ 11 < twSel s)
    (hi : ¬ (tabHolds (twSel s) (twIndex s) = false ∨ twTarget s ≠ 0 ∧ tabBanked (twSel s) (twIndex s) = false)) (op : Nat) :
    windowErr s op = if op = 1 ∨ op = 2 then 0
      else if op = 3 ∨ op = 4 then (if tabHasHl (twSel s) (twIndex s) = true then 0 else 3)
      else if op = 5 ∨ op = 6 ∨ op = 7 then (if tabHasPend (twSel s) = true then 0 else 3)
      else 3 := by
  unfold windowErr
  rw [if_neg h, if_neg]
  · simp only [Bool.or_eq_true, decide_eq_true_eq, or_assoc]
  · intro hc
    refine hi ?_
    simpa using hc

theorem unflagged_commandDone (s : State) (err : BitVec 4) : Unflagged s (commandDone s err) := ⟨⟨rfl, rfl, rfl, rfl, rfl, rfl⟩, rfl⟩

theorem op_le_of_mem (hc : (c, op) ∈ windowOps) : 1 ≤ op ∧ op ≤ 7 := by
  simp only [windowOps, List.mem_cons, Prod.mk.injEq, List.not_mem_nil, or_false] at hc
  omega

theorem windowErrors : WindowErrors := by
  intro s hq hs badTable badIndex c op hc badOp
  have hx := exec_windowOp hs hc
  have hrange := op_le_of_mem hc
  refine ⟨_, hx, ?_, fun ht => ?_, fun ht hi => ?_, fun ht hi ho => ?_, fun ht hi ho => ?_⟩
  · rw [settle_bus]
    unfold windowCommand
    dsimp only
    split
    · rw [windowEffect_bus]
    · rfl
  · have he := windowErr_table ht op
    rw [windowCommand_of_error (by rw [he]; decide), he]
    exact (unflagged_commandDone s 2).upToMarks hq
  · have he := windowErr_index ht hi op
    rw [windowCommand_of_error (by rw [he]; decide), he]
    exact (unflagged_commandDone s 1).upToMarks hq
  · have he : windowErr s op = 3 := by
      rw [windowErr_op ht hi]
      rcases ho with ⟨h34, hhl⟩ | ⟨h5, hp⟩
      · rw [if_neg (by omega), if_pos h34, if_neg (by rw [hhl]; decide)]
      · rw [if_neg (by omega), if_neg (by omega), if_pos (by omega), if_neg (by rw [hp]; decide)]
    rw [windowCommand_of_error (by rw [he]; decide), he]
    exact (unflagged_commandDone s 3).upToMarks hq
  · have he : windowErr s op = 0 := by
      rw [windowErr_op ht hi]
      by_cases h12 : op = 1 ∨ op = 2
      · rw [if_pos h12]
      · rw [if_neg h12]
        by_cases h34 : op = 3 ∨ op = 4
        · have hhl : tabHasHl (twSel s) (twIndex s) = true := Bool.eq_true_of_not_eq_false fun h => ho (.inl ⟨h34, h⟩)
          rw [if_pos h34, if_pos hhl]
        · have hp : tabHasPend (twSel s) = true := Bool.eq_true_of_not_eq_false fun h => ho (.inr ⟨by omega, h⟩)
          rw [if_neg h34, if_pos (by omega), if_pos hp]
    rw [settle_bus, windowCommand_of_ok he, windowEffect_bus]
    rfl

/-! ## Reads (R137 to R139) -/

/-- Words written one after another are each as they were written, and other words stay. -/
theorem imAt_words (v : Nat → Word) (N : Nat) (s : State) : let f := foldS (fun x n => setIm x (0x1008 + 4 * n) (v n)) s (upTo N)
    (∀ n, n < N → imAt f (0x1008 + 4 * n) = v n) ∧ (∀ k, (∀ n, n < N → k ≠ 0x1008 + 4 * n) → imAt f k = imAt s k) ∧
    ∃ q, f = { s with cfg := { s.cfg with im := q } } := by
  induction N with
  | zero => exact ⟨fun n h => absurd h (Nat.not_lt_zero n), fun _ _ => rfl, ⟨_, rfl⟩⟩
  | succ N ih =>
    obtain ⟨hin, hout, q, hq⟩ := ih
    have hstep : foldS (fun x n => setIm x (0x1008 + 4 * n) (v n)) s (upTo (N + 1)) =
        setIm (foldS (fun x n => setIm x (0x1008 + 4 * n) (v n)) s (upTo N)) (0x1008 + 4 * N) (v N) := by
      unfold foldS upTo
      rw [List.range_succ, List.foldl_append]
      rfl
    dsimp only at hin hout hq ⊢
    rw [hstep]
    refine ⟨fun n hn => ?_, fun k hk => ?_, ?_⟩
    · rw [imAt_setIm]
      split
      · next h =>
        have : n = N := by omega
        rw [this]
      · next h => exact hin n (by omega)
    · rw [imAt_setIm, if_neg (hk N (Nat.lt_succ_self N))]
      exact hout k fun n hn => hk n (Nat.lt_succ_of_lt hn)
    · rw [hq]
      exact ⟨_, rfl⟩

theorem entryWord_commandDone (s : State) (err : BitVec 4) (live : Bool) (t idx tgt w : Nat) :
    entryWord (commandDone s err) live t idx tgt w = entryWord s live t idx tgt w := by
  unfold entryWord entryRo
  rfl

theorem windowReads : WindowReads := by
  intro s hq hs c live hc he
  have hmem : (c, if live = true then 2 else 1) ∈ windowOps := by
    rcases hc with hc | hc <;> cases hc <;> simp [windowOps]
  have hx := exec_windowOp hs hmem
  have hload : windowCommand s (if live = true then 2 else 1) =
      foldS (fun x n => setIm x (0x1008 + 4 * n)
        (if n < tabWords (twSel s) (twIndex s) then entryWord s live (twSel s) (twIndex s) (twTarget s) n else 0))
        (commandDone s 0) (upTo 8) := by
    rw [windowCommand_of_ok he]
    simp only [← entryWord_commandDone s 0]
    cases live <;> rfl
  obtain ⟨hin, hout, q, hq'⟩ := imAt_words
    (fun n => if n < tabWords (twSel s) (twIndex s) then entryWord s live (twSel s) (twIndex s) (twTarget s) n else 0) 8
    (commandDone s 0)
  rw [← hload] at hin hout hq'
  have hcalm : Calm s (windowCommand s (if live = true then 2 else 1)) := by
    have hhold := hout 0x40 fun n _ => by omega
    rw [hq'] at hhold ⊢
    exact ⟨rfl, rfl, hhold, rfl, rfl, rfl, rfl⟩
  refine ⟨_, hx, fun n hn => ?_, fun k hk => ?_, ?_⟩
  · rw [imAt_settle]
    exact hin n hn
  · rw [imAt_settle, hout k hk]
    rfl
  · have hmarks := hcalm.upToMarks hq
    have hform : ({ commandDone s 0 with cfg := { s.cfg with im :=
        (settle s (windowCommand s (if live = true then 2 else 1))).cfg.im } } : State) =
        windowCommand s (if live = true then 2 else 1) := by
      rw [settle_im, hq']
      rfl
    rw [hform]
    exact hmarks

/-- Settles O36: a window command by TW_STAT.ERR, and the words that a read loads. -/
theorem windowReadsAndErrors : Obligations.WindowReadsAndErrors := ⟨windowErrors, windowReads⟩

/-! ## Pending and LOST (O31) -/

theorem evK_cases (s : State) (k : Nat) : evK s k = s ∨ evK s k = setInt s k (restRec k (intOf s k)) := by
  unfold evK
  dsimp only
  split
  · split
    · exact .inl rfl
    · exact .inr rfl
  · split
    · exact .inl rfl
    · exact .inr rfl
  · exact .inl rfl

theorem unflagged_evK (h : Unflagged b e) (k : Nat) : Unflagged b (evK e k) := by
  obtain hk | hk := evK_cases e k
  · rwa [hk]
  · rw [hk]; exact unflagged_setInt h k _

/-- Settles O31: the effect of each command on the INTID of the entry. -/
theorem windowPending : Obligations.WindowPending := by
  intro s hq hs he k b
  have hb : Unflagged s b := unflagged_commandDone s 0
  have hset : windowCommand s 5 = if operating s then softPend b k true else b := windowCommand_of_ok he
  have hclr : windowCommand s 6 = if operating s then softPend b k false else b := windowCommand_of_ok he
  have hlost : windowCommand s 7 = clearLost b k := windowCommand_of_ok he
  have x5 : exec .pendSet s = .next (settle s (windowCommand s 5)) := exec_windowOp hs (by simp [windowOps])
  have x6 : exec .pendClr s = .next (settle s (windowCommand s 6)) := exec_windowOp hs (by simp [windowOps])
  have x7 : exec .lostClr s = .next (settle s (windowCommand s 7)) := exec_windowOp hs (by simp [windowOps])
  refine ⟨⟨_, x7, ?_⟩, fun hm => ⟨⟨_, x5, ?_⟩, ⟨_, x6, ?_⟩⟩, fun hm => ⟨⟨_, x5, ?_⟩, ⟨_, x6, ?_⟩⟩⟩
  · rw [hlost]
    exact (unflagged_setInt hb k _).upToMarks hq
  · rw [hset, if_pos (operating_eq_true hm)]
    exact ((hb.gathers rfl).trans (gathers_softPend b k true)).closed hq
  · rw [hclr, if_pos (operating_eq_true hm)]
    exact (unflagged_evK hb k).upToMarks hq
  · rw [hset, if_neg (by rw [operating_eq_false hm]; decide)]
    exact hb.upToMarks hq
  · rw [hclr, if_neg (by rw [operating_eq_false hm]; decide)]
    exact hb.upToMarks hq

end Sys2Proof.Machine
end

section
/-!
PROOFS. Chapters 04 and 06: RECLAIM of a target (O32).
-/
namespace Sys2Proof.Machine
open Sys2Proof.Safety Sys2Proof.Claims

variable {s b e u x : State} {k j : Nat} {t : Target}

/-! ## The actions of R76 on one INTID -/

/-- `e` is `b` but for the records of INTIDs and the counters. -/
def OnInts (b e : State) : Prop := ∃ is cs, e = { b with irq := { b.irq with ints := is }, cfg := { b.cfg with cnt := cs } }

theorem onInts_refl (s : State) : OnInts s s := ⟨_, _, rfl⟩

theorem OnInts.trans (h : OnInts s b) (g : OnInts b e) : OnInts s e := by
  obtain ⟨a, v, rfl⟩ := h
  obtain ⟨a', v', rfl⟩ := g
  exact ⟨a', v', rfl⟩

theorem onInts_setInt (s : State) (k : Nat) (r : IntRec) : OnInts s (setInt s k r) := ⟨_, _, rfl⟩
theorem onInts_bump (s : State) (off : Nat) : OnInts s (bump s off) := ⟨_, _, rfl⟩

theorem onInts_evW (s : State) (k : Nat) : OnInts s (evW s k) := by
  unfold evW
  dsimp only
  split
  · exact onInts_setInt s k _
  · exact onInts_refl s

theorem onInts_evE (s : State) (k : Nat) : OnInts s (evE s k) := by
  unfold evE
  dsimp only
  split
  · exact onInts_setInt s k _
  · exact onInts_refl s

theorem onInts_evN (s : State) (k : Nat) : OnInts s (evN s k) := by
  obtain hn | ⟨r, hn | hn⟩ := evN_cases s k
  · rw [hn]; exact onInts_refl s
  · rw [hn]; exact onInts_setInt s k r
  · rw [hn]; exact (onInts_setInt s k r).trans (onInts_bump _ _)

/-- The INTID's offer or claim is at target t. -/
def heldAt (r : IntRec) (t : Target) : Prop :=
  match r.st with
  | .offeredP | .offeredE => r.offer.map (·.target) = some t
  | .active => r.holder = t
  | _ => False

theorem revertInt_eq (s : State) (t : Target) (k : Nat) : revertInt s t k =
    match (intOf s k).st with
    | .offeredP => if (intOf s k).offer.map (·.target) = some t then bump (evW s k) cntREVERT else s
    | .offeredE => if (intOf s k).offer.map (·.target) = some t then bump (evN s k) cntREVERT else s
    | .active => if (intOf s k).holder = t then bump (evE s k) cntREVERT else s
    | _ => s := rfl

theorem revertInt_of_not (h : ¬ heldAt (intOf s k) t) : revertInt s t k = s := by
  rw [revertInt_eq]
  unfold heldAt at h
  split
  · next hst =>
    rw [hst] at h
    exact if_neg h
  · next hst =>
    rw [hst] at h
    exact if_neg h
  · next hst =>
    rw [hst] at h
    exact if_neg h
  · rfl

theorem onInts_revertInt (s : State) (t : Target) (k : Nat) : OnInts s (revertInt s t k) := by
  rw [revertInt_eq]
  split
  · split
    · exact (onInts_evW s k).trans (onInts_bump _ _)
    · exact onInts_refl s
  · split
    · exact (onInts_evN s k).trans (onInts_bump _ _)
    · exact onInts_refl s
  · split
    · exact (onInts_evE s k).trans (onInts_bump _ _)
    · exact onInts_refl s
  · exact onInts_refl s

theorem onInt_revertInt (s : State) (t : Target) (k : Nat) : OnInt k s (revertInt s t k) := by
  rw [revertInt_eq]
  split
  · split
    · exact (onInt_evW s k).trans (onInt_bump k _ _)
    · exact onInt_refl k s
  · split
    · exact (onInt_evN s k).trans (onInt_bump k _ _)
    · exact onInt_refl k s
  · split
    · exact (onInt_evE s k).trans (onInt_bump k _ _)
    · exact onInt_refl k s
  · exact onInt_refl k s

/-- The state that R76 gives an INTID. -/
def revertedSt (s : State) (t : Target) (k : Nat) : IntState :=
  match (intOf s k).st with
  | .offeredP => if (intOf s k).offer.map (·.target) = some t then .pending else .offeredP
  | .offeredE => if (intOf s k).offer.map (·.target) = some t then (intOf (evN s k) k).st else .offeredE
  | .active => if (intOf s k).holder = t then .completed else .active
  | x => x

theorem revertInt_st (s : State) (t : Target) (k : Nat) : (intOf (revertInt s t k) k).st = revertedSt s t k := by
  rw [revertInt_eq]
  unfold revertedSt
  cases h : (intOf s k).st
  case offeredP =>
    dsimp only
    split
    · rw [intOf_bump, evW_st, h]
    · exact h
  case offeredE =>
    dsimp only
    split
    · rw [intOf_bump]
    · exact h
  case active =>
    dsimp only
    split
    · rw [intOf_bump, evE_st, h]
    · exact h
  all_goals exact h

theorem evN_st_ne_held (h : (intOf s k).st = .offeredE) : (intOf (evN s k) k).st = .inactive ∨ (intOf (evN s k) k).st = .pending := by
  rw [evN_st, h]
  dsimp only
  split
  · exact .inl rfl
  · exact .inr rfl

/-- What has been reverted is held at no target any more. -/
theorem not_heldAt_revertInt (h : heldAt (intOf s k) t) (t' : Target) : ¬ heldAt (intOf (revertInt s t k) k) t' := by
  have hst : (intOf (revertInt s t k) k).st = .inactive ∨ (intOf (revertInt s t k) k).st = .pending ∨
      (intOf (revertInt s t k) k).st = .completed := by
    rw [revertInt_st]
    unfold revertedSt
    unfold heldAt at h
    split
    · next hp =>
      rw [hp] at h
      exact .inr (.inl (if_pos h))
    · next hp =>
      rw [hp] at h
      rw [if_pos h]
      exact (evN_st_ne_held hp).imp_right .inl
    · next hp =>
      rw [hp] at h
      exact .inr (.inr (if_pos h))
    · next h1 h2 h3 =>
      split at h
      · next hp => exact absurd hp h1
      · next hp => exact absurd hp h2
      · next hp => exact absurd hp h3
      · exact h.elim
  unfold heldAt
  rcases hst with hst | hst | hst <;> rw [hst] <;> exact id

/-- The level sources are private or wired, and their entries are no records of INTIDs. -/
theorem isLevel_of_onInts (h : OnInts s e) (u : Target) (i : Intid) : isLevel e u i = isLevel s u i := by
  obtain ⟨is, cs, rfl⟩ := h
  unfold isLevel
  by_cases hi : (isPrivate i || isWiredSrc i) = true
  · have hlow : i.toNat < 128 := by
      simp only [isPrivate, isWiredSrc, Bool.or_eq_true, Bool.and_eq_true, decide_eq_true_eq] at hi
      omega
    unfold srcEdge srcW0
    dsimp only
    by_cases h32 : i.toNat < 32
    · rw [if_pos h32, if_pos h32]
      rfl
    · rw [if_neg h32, if_neg h32, if_pos hlow, if_pos hlow]
      rfl
  · rw [Bool.eq_false_iff.2 hi, Bool.false_and, Bool.false_and]

/-- Event N depends on the record of its INTID and on its level. -/
theorem evN_st_congr (hk : intOf e k = intOf s k) (hl : isLevel e (keyTarget k) (keyIntid k) = isLevel s (keyTarget k) (keyIntid k))
    (hh : levelHigh e (keyTarget k) (keyIntid k) = levelHigh s (keyTarget k) (keyIntid k)) :
    (intOf (evN e k) k).st = (intOf (evN s k) k).st := by
  rw [evN_st, evN_st, hk, hl, hh]

/-- The same action on states that agree on the INTID leads to the same record. -/
theorem revertedSt_of_onInts (h : OnInts s e) (hk : intOf e k = intOf s k) : revertedSt e t k = revertedSt s t k := by
  obtain ⟨is, cs, rfl⟩ := h
  unfold revertedSt
  rw [hk]
  split
  · rfl
  · next hst =>
    split
    · exact evN_st_congr hk (isLevel_of_onInts ⟨is, cs, rfl⟩ _ _) rfl
    · rfl
  · rfl
  · rfl

/-! ## The actions on every INTID -/

/-- What the actions of R76 make of one INTID. -/
structure Reverted (s : State) (t : Target) (k : Nat) (e : State) : Prop where
  st : (intOf e k).st = revertedSt s t k
  kept : ¬ heldAt (intOf s k) t → intOf e k = intOf s k

theorem intOf_fold_revertInt (l : List (Nat × IntRec)) (t : Target) (k : Nat) (s x : State) (hx : OnInts s x)
    (hin : k ∈ l.map Prod.fst → (intOf x k = intOf s k ∨ Reverted s t k x ∧ ¬ heldAt (intOf x k) t))
    (hout : k ∉ l.map Prod.fst → Reverted s t k x) :
    Reverted s t k (foldS (fun s p => revertInt s t p.1) x l) := by
  induction l generalizing x with
  | nil => exact hout (by simp)
  | cons p r ih =>
    change Reverted s t k (foldS (fun s p => revertInt s t p.1) (revertInt x t p.1) r)
    refine ih _ (hx.trans (onInts_revertInt x t p.1)) (fun hr => ?_) fun hr => ?_
    · by_cases hp : p.1 = k
      · rcases hin (by simp [hp]) with he | ⟨hrev, hno⟩
        · by_cases hh : heldAt (intOf s k) t
          · refine .inr ⟨⟨?_, fun hn => absurd hh hn⟩, ?_⟩
            · rw [hp, revertInt_st, revertedSt_of_onInts hx he]
            · rw [hp]
              exact not_heldAt_revertInt (he ▸ hh) t
          · refine .inl ?_
            rw [hp, revertInt_of_not (he ▸ hh), he]
        · refine .inr ?_
          rw [hp, revertInt_of_not hno]
          exact ⟨hrev, hno⟩
      · have hother := (onInt_revertInt x t p.1).others k (Ne.symm hp)
        rcases hin (by simp only [List.map_cons]; exact List.mem_cons_of_mem _ hr) with he | ⟨hrev, hno⟩
        · exact .inl (hother.trans he)
        · exact .inr ⟨⟨by rw [hother]; exact hrev.st, fun h => hother.trans (hrev.kept h)⟩, by rw [hother]; exact hno⟩
    · by_cases hp : p.1 = k
      · rcases hin (by simp [hp]) with he | ⟨hrev, hno⟩
        · refine ⟨?_, fun hn => ?_⟩
          · rw [hp, revertInt_st, revertedSt_of_onInts hx he]
          · rw [hp, revertInt_of_not (he ▸ hn), he]
        · rw [hp, revertInt_of_not hno]
          exact hrev
      · have hother := (onInt_revertInt x t p.1).others k (Ne.symm hp)
        have hrev := hout (by simp only [List.map_cons, List.mem_cons, not_or]; exact ⟨Ne.symm hp, hr⟩)
        exact ⟨by rw [hother]; exact hrev.st, fun h => hother.trans (hrev.kept h)⟩

/-- An INTID that is not listed is Inactive, and held nowhere. -/
theorem intOf_revertAll (s : State) (t : Target) (k : Nat) :
    Reverted s t k (foldS (fun s p => revertInt s t p.1) s s.irq.ints) := by
  refine intOf_fold_revertInt _ t k s s (onInts_refl s) (fun _ => .inl rfl) fun hk => ⟨?_, fun _ => rfl⟩
  have hidle : intOf s k = {} := tabGet_of_not_mem ({} : IntRec) hk
  unfold revertedSt
  rw [hidle]

theorem onInts_revertAll (s : State) (t : Target) (l : List (Nat × IntRec)) : OnInts s (foldS (fun s p => revertInt s t p.1) s l) :=
  foldS_inv (OnInts s) _ _ s (onInts_refl s) fun x p hx => hx.trans (onInts_revertInt x t p.1)

theorem revertTarget_eq (s : State) (t : Target) : revertTarget s t =
    let x := foldS (fun s p => revertInt s t p.1) s s.irq.ints
    if tgtBind s t = true then setTgt x t { tgtOf s t with record := 0, rpr := 0xFF } else x := by
  have hx := onInts_revertAll s t s.irq.ints
  unfold revertTarget
  dsimp only
  generalize foldS (fun s p => revertInt s t p.1) s s.irq.ints = x at hx ⊢
  obtain ⟨is, cs, rfl⟩ := hx
  rfl

/-! ## The entry's own words -/

/-- `e` is `b` but for shadows and DIRTY. -/
def OnShadow (b e : State) : Prop := ∃ sh d, e = { b with cfg := { b.cfg with shadow := sh }, hl := { b.hl with dirty := d } }

theorem onShadow_refl (s : State) : OnShadow s s := ⟨_, _, rfl⟩

theorem OnShadow.trans (h : OnShadow s b) (g : OnShadow b e) : OnShadow s e := by
  obtain ⟨a, v, rfl⟩ := h
  obtain ⟨a', v', rfl⟩ := g
  exact ⟨a', v', rfl⟩

theorem onShadow_shadowMerge (s : State) (k : Nat) (hl mask data : Word) : OnShadow s (shadowMerge s k hl mask data) := by
  unfold shadowMerge
  dsimp only
  split
  · exact onShadow_refl s
  · exact ⟨_, _, rfl⟩

theorem onShadow_windowShadow (s : State) (t idx tgt : Nat) : OnShadow s (windowShadow s t idx tgt) :=
  foldS_inv (OnShadow s) _ _ s (onShadow_refl s) fun x _ hx => hx.trans (onShadow_shadowMerge x _ _ _ _)

/-! ## What the arbiter leaves of the allotments when it follows -/

/-- What the pins and the budget have brought to the arbiter: the level, LEAN and BREQ. -/
def adopted (s : State) : BitVec 4 × Bool × BitVec 8 := (s.allot.level, s.allot.lean, s.allot.breq)

theorem adopted_raiseReq (s : State) (c : Nat) (p : BitVec 8) (x : Option Link) (k : Option Nat) :
    adopted (raiseReq s c p x k) = adopted s := by
  unfold raiseReq
  split <;> rfl

theorem adopted_exitRequest (s : State) (l : Link) : adopted (exitRequest s l) = adopted s := by
  unfold exitRequest
  dsimp only
  split
  · split
    · exact adopted_raiseReq _ _ _ _ _
    · rfl
  · rfl

theorem adopted_breqRequest (s : State) (n : Nat) : adopted (breqRequest s n) = adopted s := by
  unfold breqRequest
  dsimp only
  split
  · exact adopted_raiseReq _ _ _ _ _
  · rfl

theorem adopted_engineRequest (s : State) : adopted (engineRequest s) = adopted s := by
  unfold engineRequest
  split
  · exact adopted_raiseReq _ _ _ _ _
  · rfl

theorem adopted_follow (s : State) : adopted (follow s) = adopted s := by
  unfold follow
  split
  · dsimp only
    have h1 : adopted (pruneWakes s) = adopted s := rfl
    generalize pruneWakes s = s1 at *
    have h2 : adopted (if operating s1 then exitRequests s1 else s1) = adopted s := by
      split
      · exact (foldS_keeps adopted _ _ _ fun x n => adopted_exitRequest x _).trans h1
      · exact h1
    generalize (if operating s1 then exitRequests s1 else s1) = s2 at *
    have h3 : adopted (engineRequest (foldS breqRequest s2 (upTo 8))) = adopted s :=
      ((adopted_engineRequest _).trans (foldS_keeps adopted _ _ _ adopted_breqRequest)).trans h2
    generalize engineRequest (foldS breqRequest s2 (upTo 8)) = s3 at *
    exact h3
  · rfl

theorem adopted_arbFollow (s : State) : adopted (arbFollow s) = adopted s := adopted_follow (endCclk s)

/-- Settles O32: the fold over the INTIDs, each of which is reverted once, and the record of a wired target. -/
theorem reclaim : Obligations.Reclaim := by
  intro s t hq hs hm hsel hidx hpulse htgt
  have hholds : tabHolds 2 t.toNat = true := decide_eq_true t.isLt
  have herr : windowErr s 4 = 0 := by
    unfold windowErr
    dsimp only
    rw [hsel, hidx, htgt, hholds]
    rfl
  have hnum : BitVec.ofNat 8 t.toNat = t := BitVec.ofNat_toNat .. ▸ BitVec.setWidth_eq t
  obtain ⟨sh, d, hw⟩ := onShadow_windowShadow (commandDone s 0) 2 t.toNat 0
  generalize hwx : windowShadow (commandDone s 0) 2 t.toNat 0 = w at hw
  have heff : windowCommand s 4 = revertTarget w t := by
    rw [windowCommand_of_ok herr]
    change windowPulse (windowShadow (commandDone s 0) (twSel s) (twIndex s) (twTarget s)) (twSel s) (twIndex s) = _
    have hp : bit (twData w 0) 17 = true := by rw [hw]; exact hpulse
    have hop : operating w = true := by rw [hw]; exact operating_eq_true hm
    rw [hsel, hidx, htgt, hwx]
    unfold windowPulse doReclaim
    rw [hp, if_pos (by decide), hop, if_pos rfl, hnum]
  have hx : exec (.reclaim t) s = .next (settle s (revertTarget w t)) := by
    refine (if_pos ?_).trans ?_
    · rw [hsel, hidx, hpulse]
      simp
    · rw [← heff]
      exact put_twCmd hs (by decide)
  obtain ⟨is, cs, hy⟩ := onInts_revertAll w t w.irq.ints
  have hrev := intOf_revertAll w t
  have htarget := revertTarget_eq w t
  dsimp only at htarget
  generalize foldS (fun s p => revertInt s t p.1) w w.irq.ints = y at hy hrev htarget
  have hbind : tgtBind w t = tgtBind s t := by rw [hw]; rfl
  have hsame : ∀ k, intOf w k = intOf s k := fun k => by rw [hw]; rfl
  have hevN : ∀ k, (intOf (evN w k) k).st = (intOf (evN s k) k).st := fun k => by
    refine evN_st_congr (hsame k) ?_ ?_
    · rw [hw]; rfl
    · rw [hw]; rfl
  have htgtw : ∀ x, tgtOf w x = tgtOf s x := fun x => by rw [hw]; rfl
  have hform : ∃ tg, revertTarget w t = { s with
      irq := { s.irq with ints := is, tgts := tg }, bus := (commandDone s 0).bus, hl := { s.hl with dirty := d },
      cfg := { s.cfg with shadow := sh, cnt := cs } } := by
    rw [htarget, hy, hw]
    split <;> exact ⟨_, rfl⟩
  have hint : ∀ k, intOf (revertTarget w t) k = intOf y k := fun k => by
    rw [htarget]
    split <;> rfl
  have htgts : ∀ x, tgtOf (revertTarget w t) x =
      if tgtBind s t = true ∧ x = t then { tgtOf s t with record := 0, rpr := 0xFF } else tgtOf s x := fun x => by
    rw [htarget, hbind]
    by_cases hb : tgtBind s t = true
    · rw [if_pos hb, tgtOf_setTgt]
      simp only [hb, true_and]
      split
      · rw [htgtw]
      · rw [hy]; exact htgtw x
    · rw [if_neg hb, if_neg (fun h => hb h.1), hy]
      exact htgtw x
  obtain ⟨tg, hf⟩ := hform
  generalize revertTarget w t = z at hx hint htgts hf
  have hu : Unflagged s z := by
    rw [hf]
    exact ⟨⟨rfl, rfl, rfl, rfl, rfl, rfl⟩, rfl⟩
  have hadopted : adopted (settle s z) = adopted s := by
    obtain ⟨m, hm'⟩ := hu.upToMarks hq
    have ha : adopted (settle s z) = adopted (arbFollow z) := by rw [hm']; rfl
    rw [ha, adopted_arbFollow, hf]
    rfl
  have hints : ∀ k, intOf (settle s z) k = intOf y k := fun k => by
    obtain ⟨m, hm'⟩ := hu.upToMarks hq
    rw [hm', ← hint k]
    rfl
  simp only [adopted, Prod.mk.injEq] at hadopted
  refine ⟨_, hx, fun k => ⟨?_, fun hmine hact => ?_⟩, fun hb => ?_, fun x hxt => ?_, ?_, ?_, ?_, ?_, ?_, hadopted⟩
  · have hst : revertedSt w t k = revertedSt s t k := by
      unfold revertedSt
      rw [hsame, hevN]
    rw [hints, (hrev k).st, hst]
    rfl
  · have hno : ¬ heldAt (intOf w k) t := by
      rw [hsame]
      unfold heldAt
      split
      · exact hmine
      · exact hmine
      · next h => exact hact h
      · exact id
    rw [hints, (hrev k).kept hno, hsame]
  · rw [tgtOf_settle, htgts, if_pos ⟨hb, rfl⟩]
    exact ⟨rfl, rfl⟩
  · rw [tgtOf_settle, htgts, if_neg fun h => hxt h.2]
  · rw [settle_live, hf]
  · rw [settle_links, hf]
  · rw [settle_tens, hf]
  · rw [settle_tb, hf]
  · rw [settle_pw, hf]

end Sys2Proof.Machine
end

section
/-!
PROOFS. Chapter 05: what the steps of a commit leave of the configuration and of the headland's own counts.
-/
namespace Sys2Proof.Machine

/-- The configuration words and the headland's record are the same. -/
abbrev SameConf (s t : State) : Prop :=
  t.hl = s.hl ∧ t.cfg.live = s.cfg.live ∧ t.cfg.shadow = s.cfg.shadow ∧ t.cfg.im = s.cfg.im

@[simp] theorem foldS_hl {α : Type} (f : State → α → State) (l : List α) (s : State) (h : ∀ s a, (f s a).hl = s.hl) :
    (foldS f s l).hl = s.hl := foldS_keeps (·.hl) f l s h
@[simp] theorem foldS_live {α : Type} (f : State → α → State) (l : List α) (s : State) (h : ∀ s a, (f s a).cfg.live = s.cfg.live) :
    (foldS f s l).cfg.live = s.cfg.live := foldS_keeps (·.cfg.live) f l s h
@[simp] theorem foldS_shadow {α : Type} (f : State → α → State) (l : List α) (s : State) (h : ∀ s a, (f s a).cfg.shadow = s.cfg.shadow) :
    (foldS f s l).cfg.shadow = s.cfg.shadow := foldS_keeps (·.cfg.shadow) f l s h
@[simp] theorem foldS_im {α : Type} (f : State → α → State) (l : List α) (s : State) (h : ∀ s a, (f s a).cfg.im = s.cfg.im) :
    (foldS f s l).cfg.im = s.cfg.im := foldS_keeps (·.cfg.im) f l s h
@[simp] theorem ite_hl (c : Prop) [Decidable c] (a b : State) : (if c then a else b).hl = if c then a.hl else b.hl := by
  split <;> rfl
@[simp] theorem ite_live (c : Prop) [Decidable c] (a b : State) : (if c then a else b).cfg.live = if c then a.cfg.live else b.cfg.live := by
  split <;> rfl
@[simp] theorem ite_shadow (c : Prop) [Decidable c] (a b : State) :
    (if c then a else b).cfg.shadow = if c then a.cfg.shadow else b.cfg.shadow := by
  split <;> rfl
@[simp] theorem ite_im (c : Prop) [Decidable c] (a b : State) : (if c then a else b).cfg.im = if c then a.cfg.im else b.cfg.im := by
  split <;> rfl

theorem SameConf.trans {s t u : State} (h : SameConf s t) (g : SameConf t u) : SameConf s u :=
  ⟨g.1.trans h.1, g.2.1.trans h.2.1, g.2.2.1.trans h.2.2.1, g.2.2.2.trans h.2.2.2⟩

theorem foldS_conf {α : Type} {f : State → α → State} (l : List α) (s : State) (h : ∀ s a, SameConf s (f s a)) :
    SameConf s (foldS f s l) :=
  foldS_inv (SameConf s ·) f l s ⟨rfl, rfl, rfl, rfl⟩ fun t a g => g.trans (h t a)

@[simp] theorem setAreaPos_conf (s : State) (a : Area) (p : AreaPos) : SameConf s (setAreaPos s a p) := by
  unfold setAreaPos
  split <;> simp [SameConf]

@[simp] theorem setSlot_conf (s : State) (k : Nat) (x : KeySlot) : SameConf s (setSlot s k x) := ⟨rfl, rfl, rfl, rfl⟩

@[simp] theorem setCtx_conf (s : State) (c : Nat) (x : Ctx) : SameConf s (setCtx s c x) := ⟨rfl, rfl, rfl, rfl⟩

@[simp] theorem settleSlots_conf (s : State) : SameConf s (settleSlots s) := by simp [SameConf, settleSlots]

@[simp] theorem putKey_conf (s : State) (k : Nat) (key : Key) : SameConf s (putKey s k key) := by simp [SameConf, putKey]

@[simp] theorem eraseSlot_conf (s : State) (k : Nat) : SameConf s (eraseSlot s k) := by simp [SameConf, eraseSlot]

@[simp] theorem loadKeys_conf (s : State) : SameConf s (loadKeys s) := by
  unfold loadKeys
  split
  · simp [SameConf]
  · next c g _ =>
    dsimp only
    refine SameConf.trans (t := foldS (fun s k => match readKey s (192 + c) k (BitVec.ofNat 32 g) with
      | some q => setSlot s k { key := q }
      | none => s) { s with au := { s.au with sealed := (nvByte s ((192 + c) * 4096 + 8)).getLsbD 0 } } (upTo 16)) ?_ ?_
    · refine SameConf.trans ?_ (foldS_conf _ _ fun s k => ?_)
      · simp [SameConf]
      · split <;> exact ⟨rfl, rfl, rfl, rfl⟩
    · split <;> exact ⟨rfl, rfl, rfl, rfl⟩

@[simp] theorem replyNow_conf (s : State) (code : BitVec 8) (d0 d1 d2 d3 : Word) : SameConf s (replyNow s code d0 d1 d2 d3) := by
  unfold replyNow
  split <;> simp [SameConf]

@[simp] theorem setJobs_conf (s : State) (js : List NvJob) : SameConf s (setJobs s js) := ⟨rfl, rfl, rfl, rfl⟩

@[simp] theorem setHead_conf (s : State) (its : List NvItem) : SameConf s (setHead s its) := by
  unfold setHead
  split <;> simp [SameConf]

@[simp] theorem failWork_conf (s : State) : SameConf s (failWork s) := by
  unfold failWork
  split <;> simp [SameConf]

@[simp] theorem startApply_conf (s : State) (slot : BitVec 1) (n : Word) (kind : ApplyKind) : SameConf s (startApply s slot n kind) := ⟨rfl, rfl, rfl, rfl⟩

@[simp] theorem bootApply_conf (s : State) : SameConf s (bootApply s) := by
  unfold bootApply
  repeat' split
  all_goals simp [SameConf]

@[simp] theorem ckptEnds_conf (s : State) : SameConf s (ckptEnds s) := ⟨rfl, rfl, rfl, rfl⟩

@[simp] theorem keyDone_conf (s : State) (slot : Nat) (key : Option Key) : SameConf s (keyDone s slot key) := by
  unfold keyDone
  split <;> simp [SameConf]

@[simp] theorem engineNeed_conf (s : State) : SameConf s (engineNeed s) := by simp [SameConf, engineNeed]

@[simp] theorem stewardOpens_conf (s : State) (c : Nat) (slot : Option (BitVec 4)) (turns : Nat) : SameConf s (stewardOpens s c slot turns) := by simp [SameConf, stewardOpens]

@[simp] theorem stewardCloses_conf (s : State) : SameConf s (stewardCloses s) := by
  unfold stewardCloses
  split <;> simp [SameConf]

@[simp] theorem engineFails_conf (s : State) (code : BitVec 8) (d0 : Word) : SameConf s (engineFails s code d0) := by simp [SameConf, engineFails]

@[simp] theorem startOp_conf (s : State) (client : Nat) (op : NvOp) : SameConf s (startOp s client op) := by
  unfold startOp
  split <;> simp [SameConf]

@[simp] theorem regionSyncReq_conf (s : State) : SameConf s (regionSyncReq s) := ⟨rfl, rfl, rfl, rfl⟩

@[simp] theorem bundleSync_conf (s : State) : SameConf s (bundleSync s) := by simp [SameConf, bundleSync]

@[simp] theorem holdWout_conf (s : State) : SameConf s (holdWout s) := by simp [SameConf, holdWout]

@[simp] theorem fallowCommit_conf (s : State) : SameConf s (fallowCommit s) := by simp [SameConf, fallowCommit]

@[simp] theorem commitTarget_conf (s : State) (t : Target) (old new : Word) : SameConf s (commitTarget s t old new) := by simp [SameConf, commitTarget]

@[simp] theorem commitTargets_conf (s : State) (ch : List Change) : SameConf s (commitTargets s ch) := by
  refine foldS_conf _ _ fun s c => ?_
  repeat' split
  all_goals simp [SameConf]

@[simp] theorem commitStaged_conf (s : State) : SameConf s (commitStaged s) := by
  refine foldS_conf _ _ fun s c => ?_
  dsimp only
  repeat' split
  all_goals simp [SameConf]

@[simp] theorem commitRoute_conf (s : State) (k : Nat) : SameConf s (commitRoute s k) := by
  unfold commitRoute
  dsimp only
  repeat' split
  all_goals simp [SameConf]

@[simp] theorem wiredBelow_conf (s : State) (t : Target) : SameConf s (wiredBelow s t) := by simp [SameConf, wiredBelow]

@[simp] theorem commitRoutes_conf (s : State) (ch : List Change) (staged : List Nat) : SameConf s (commitRoutes s ch staged) := by
  refine SameConf.trans ?_ (foldS_conf _ _ fun s c => ?_)
  · simp [SameConf]
  · dsimp only
    repeat' split
    all_goals simp [SameConf]

@[simp] theorem commitInvalidations_conf (s0 s : State) (ch : List Change) : SameConf s (commitInvalidations s0 s ch) := by simp [SameConf, commitInvalidations]

@[simp] theorem recordAtCommit_conf (s : State) (n : Tenant) (evt : Bool) : SameConf s (recordAtCommit s n evt) := by
  unfold recordAtCommit
  repeat' split
  all_goals simp [SameConf]

@[simp] theorem commitRing_conf (s : State) (n : Tenant) (evt : Bool) : SameConf s (commitRing s n evt) := by simp [SameConf, commitRing]

@[simp] theorem commitRings_conf (s : State) (ch : List Change) : SameConf s (commitRings s ch) := by
  refine foldS_conf _ _ fun s c => ?_
  repeat' split
  all_goals simp [SameConf]

@[simp] theorem commitLinks_conf (s0 s : State) : SameConf s (commitLinks s0 s) := by simp [SameConf, commitLinks]

@[simp] theorem commitPrivate_conf (s : State) (t : Target) (idx : Nat) (old new : Word) : SameConf s (commitPrivate s t idx old new):=
  by simp [SameConf, commitPrivate]

@[simp] theorem commitSources_conf (s0 s : State) (ch : List Change) : SameConf s (commitSources s0 s ch) := by
  have hrest (u : State) (h : SameConf s u) :
      SameConf s (houseEdges (houseLevels s0) (foldS (fun s n => wiredCommit s n (wiredW0 s0 n) (tabLive s0 8 n 0 1)) u
        (movedWired ch))) := by simpa [SameConf] using h
  refine hrest _ (foldS_conf _ _ fun s c => ?_)
  repeat' split
  all_goals simp [SameConf]

@[simp] theorem commitCounts_conf (s0 s : State) : SameConf s (commitCounts s0 s) := by simp [SameConf, commitCounts]

@[simp] theorem commitExpiry_conf (s : State) : SameConf s (commitExpiry s) := by
  refine SameConf.trans (t := setXl s _) (by simp [SameConf]) (foldS_conf _ _ fun s c => ?_)
  dsimp only
  repeat' split
  all_goals simp [SameConf]

/-! ## The Steward's work -/

theorem engineWork_conf (s t : State) (slot : Option (BitVec 4)) (turns : Nat) (code : BitVec 8) (d0 : Word) (rest : List NvItem)
    (h : engineWork s slot turns code d0 rest = some t) : SameConf s t := by
  unfold engineWork at h
  split at h
  · split at h
    · cases h; simp [SameConf]
    · obtain ⟨c, -, rfl⟩ := Option.map_eq_some_iff.1 h
      simp [SameConf]
  · dsimp only at h
    split at h
    · cases h
    · cases h; split <;> simp [SameConf]

@[simp] theorem doItem_conf (s : State) (i : NvItem) : SameConf s (doItem s i) := by
  cases i <;> (unfold doItem; simp [SameConf])

theorem askOp_conf (s t : State) (c : Nat) (op : NvOp) (h : askOp s c op = some t) : SameConf s t := by
  unfold askOp at h
  repeat' (split at h)
  all_goals cases h
  all_goals simp [SameConf]

theorem pumpOne_conf (s t : State) (h : pumpOne s = some t) : SameConf s t := by
  unfold pumpOne at h
  dsimp only at h
  repeat' (split at h)
  all_goals first
    | exact askOp_conf _ _ _ _ h
    | exact engineWork_conf _ _ _ _ _ _ _ h
    | (cases h; done)
    | (cases h; simp [SameConf])

@[simp] theorem pumpN_conf (n : Nat) (s : State) : SameConf s (pumpN n s) := by
  induction n generalizing s with
  | zero => exact ⟨rfl, rfl, rfl, rfl⟩
  | succ n ih =>
    unfold pumpN
    split
    · simp [SameConf]
    · split
      · next t h => exact (pumpOne_conf _ _ h).trans (ih t)
      · simp [SameConf]

@[simp] theorem pump_conf (s : State) : SameConf s (pump s) := by
  unfold pump
  split <;> simp [SameConf]

end Sys2Proof.Machine
end

section
/-!
PROOFS. Chapter 09: what abandoning and disabling a tenant leave of the resets that are pending.
-/
namespace Sys2Proof.Machine

/-- The two bits of a tenant's reset: it is pending, and its default step is due. -/
def resets (s : State) (n : Tenant) : Bool × Bool := ((tenOf s n).resetPend, (tenOf s n).stepDue)

@[simp] theorem foldS_resets {α : Type} (f : State → α → State) (l : List α) (s : State) (h : ∀ s a, resets (f s a) = resets s) :
    resets (foldS f s l) = resets s := foldS_keeps resets f l s h
@[simp] theorem ite_resets (c : Prop) [Decidable c] (a b : State) : resets (if c then a else b) = if c then resets a else resets b := by
  split <;> rfl

theorem resets_of_tens {s t : State} (h : t.tens = s.tens) : resets t = resets s := by unfold resets tenOf; rw [h]

theorem resets_setTen (s : State) (n : Tenant) (r : TenRec) (hp : r.resetPend = (tenOf s n).resetPend)
    (hd : r.stepDue = (tenOf s n).stepDue) : resets (setTen s n r) = resets s := by
  funext m
  by_cases h : m = n
  · subst h; simp [resets, hp, hd]
  · have : m.toNat ≠ n.toNat := fun e => h (BitVec.eq_of_toNat_eq e)
    simp [resets, tenOf, setTen, tabGet_tabSet_ne, this]

theorem resets_setTen_of {s t : State} {n : Tenant} {r : TenRec} (h : resets s = resets t) (hp : r.resetPend = (tenOf s n).resetPend)
    (hd : r.stepDue = (tenOf s n).stepDue) : resets (setTen s n r) = resets t := (resets_setTen s n r hp hd).trans h

@[simp] theorem setTgt_resets (s : State) (t : Target) (r : TgtRec) : resets (setTgt s t r) = resets s := rfl

@[simp] theorem setInt_resets (s : State) (k : Nat) (r : IntRec) : resets (setInt s k r) = resets s := rfl

@[simp] theorem bump_resets (s : State) (off : Nat) : resets (bump s off) = resets s := rfl

@[simp] theorem bumpN_resets (s : State) (off n : Nat) : resets (bumpN s off n) = resets s := rfl

@[simp] theorem house_resets (s : State) (f : BitVec 16) : resets (house s f) = resets s := rfl

@[simp] theorem dropCount_resets (s : State) (off : Nat) : resets (dropCount s off) = resets s := rfl

@[simp] theorem evF_resets (s : State) (k : Nat) : resets (evF s k) = resets s := by
  unfold evF
  dsimp only
  repeat' split
  all_goals simp

@[simp] theorem evW_resets (s : State) (k : Nat) : resets (evW s k) = resets s := by
  unfold evW
  dsimp only
  repeat' split
  all_goals simp

@[simp] theorem evN_resets (s : State) (k : Nat) : resets (evN s k) = resets s := by
  unfold evN
  dsimp only
  repeat' split
  all_goals simp

@[simp] theorem evE_resets (s : State) (k : Nat) : resets (evE s k) = resets s := by
  unfold evE
  dsimp only
  repeat' split
  all_goals simp

@[simp] theorem evD_resets (s : State) (k : Nat) : resets (evD s k) = resets s := by
  unfold evD
  dsimp only
  repeat' split
  all_goals simp

@[simp] theorem withdrawAll_resets (s : State) : resets (withdrawAll s) = resets s := by simp [withdrawAll]

@[simp] theorem revertInt_resets (s : State) (t : Target) (k : Nat) : resets (revertInt s t k) = resets s := by
  unfold revertInt
  dsimp only
  repeat' split
  all_goals simp

@[simp] theorem dropLevels_resets (s : State) (t : Target) : resets (dropLevels s t) = resets s := by simp [dropLevels]

@[simp] theorem outSub_resets (s : State) (n : Tenant) : resets (outSub s n) = resets s := resets_setTen _ _ _ rfl rfl

@[simp] theorem queueEvt_resets (s : State) (e : EvtRec) : resets (queueEvt s e) = resets s := by
  unfold queueEvt
  split
  · simp
  · exact resets_of_tens rfl

@[simp] theorem poolDrop_resets (s : State) (n : Tenant) (l : Link) (i : Intid) (record : Option (BitVec 8)) : resets (poolDrop s n l i record) = resets s := by
  unfold poolDrop
  dsimp only
  split
  · exact (queueEvt_resets _ _).trans (resets_setTen_of (by simp) rfl rfl)
  · exact resets_setTen_of (by simp) rfl rfl

@[simp] theorem settlePermit_resets (s t : State) : resets (settlePermit s t) = resets t := by
  unfold settlePermit
  split <;> simp

@[simp] theorem wiredRecalls_resets (s : State) : resets (wiredRecalls s) = resets s := by
  refine foldS_resets _ _ _ fun s c => ?_
  repeat' split
  all_goals simp

@[simp] theorem setXl_resets (s : State) (x : Xlate) : resets (setXl s x) = resets s := rfl

@[simp] theorem updWalks_resets (s : State) (f : List Walk → List Walk) : resets (updWalks s f) = resets s := rfl

@[simp] theorem removeWalk_resets (s : State) (tag : BitVec 6) : resets (removeWalk s tag) = resets s := rfl

@[simp] theorem putWalk_resets (s : State) (w : Walk) : resets (putWalk s w) = resets s := rfl

@[simp] theorem markSpill_resets (s : State) (n : Tenant) : resets (markSpill s n) = resets s := resets_setTen _ _ _ rfl rfl

@[simp] theorem joinBlocked_resets (s : State) (e : SowEvent) : resets (joinBlocked s e) = resets s := rfl

@[simp] theorem park_resets (s : State) (e : SowEvent) : resets (park s e) = resets s := by
  unfold park
  dsimp only
  split
  · simp
  · split
    · exact resets_setTen_of (by simp) rfl rfl
    · exact resets_of_tens rfl

@[simp] theorem freeBlocked_resets (s : State) (n : Tenant) : resets (freeBlocked s n) = resets s := rfl

@[simp] theorem leaveWalk_resets (s : State) (w : Walk) : resets (leaveWalk s w) = resets s := by simp [leaveWalk]

@[simp] theorem abandonWalk_resets (s : State) (w : Walk) : resets (abandonWalk s w) = resets s := by
  unfold abandonWalk
  split <;> simp

@[simp] theorem abandonAll_resets (s : State) (n : Tenant) : resets (abandonAll s n) = resets s := by simp [abandonAll]

@[simp] theorem discardInts_resets (s : State) (n : Tenant) : resets (discardInts s n) = resets s := by simp [discardInts]

@[simp] theorem dropUnissued_resets (s : State) (w : Walk) : resets (dropUnissued s w) = resets s := by
  unfold dropUnissued
  split <;> simp

@[simp] theorem disableTenant_resets (s : State) (n : Tenant) : resets (disableTenant s n) = resets s := by
  unfold disableTenant
  exact resets_setTen_of (by simp) rfl rfl

@[simp] theorem commitTarget_resets (s : State) (t : Target) (old new : Word) : resets (commitTarget s t old new) = resets s := by simp [commitTarget]

@[simp] theorem commitTargets_resets (s : State) (ch : List Change) : resets (commitTargets s ch) = resets s := by
  refine foldS_resets _ _ _ fun s c => ?_
  repeat' split
  all_goals simp

@[simp] theorem commitStaged_resets (s : State) : resets (commitStaged s) = resets s := by
  refine foldS_resets _ _ _ fun s c => ?_
  repeat' split
  all_goals simp

end Sys2Proof.Machine
end

section
/-!
PROOFS. Chapter 05: the commit CCLK, and with it a headland (O33).
-/
namespace Sys2Proof.Machine
open Sys2Proof.Safety Sys2Proof.Claims

/-- No tenant's reset is pending with its default step due. -/
def NoStepDue (s : State) : Prop := ∀ n, resets s n ≠ (true, true)

theorem quiesceCheck_resets_of_tenMe {s : State} {n : Tenant} (h : tenMe s n = true) : resets (quiesceCheck s n) = resets s := by
  unfold quiesceCheck
  simp only [h, if_true]
  split
  · exact resets_setTen_of rfl rfl rfl
  · rfl

/-- One tenant's part of a commit: its default step, where that is due, after steps that leave the configuration and resets. -/
theorem commitTenant_eq (s0 s : State) (n : Tenant) :
    ∃ u, commitTenant s0 s n = (if (tenOf u n).resetPend && (tenOf u n).stepDue then defaultStep u n else u) ∧
      SameConf s u ∧ resets u = resets s := by
  have hmid : ∃ v, commitTenant s0 s n = (let u := if tenMe v n then quiesceCheck v n else v
      if (tenOf u n).resetPend && (tenOf u n).stepDue then defaultStep u n else u) ∧ SameConf s v ∧ resets v = resets s := by
    refine ⟨_, rfl, ?_, ?_⟩
    all_goals repeat' split
    all_goals simp [SameConf]
  obtain ⟨v, hv, hc, hr⟩ := hmid
  refine ⟨_, hv, ?_, ?_⟩
  · split
    · exact hc.trans (by simp [SameConf])
    · exact hc
  · split
    · next hm => exact (quiesceCheck_resets_of_tenMe hm).trans hr
    · exact hr

theorem commitTenant_of_noStepDue (s0 : State) {s : State} (n : Tenant) (h : NoStepDue s) :
    SameConf s (commitTenant s0 s n) ∧ NoStepDue (commitTenant s0 s n) := by
  obtain ⟨u, hu, hc, hr⟩ := commitTenant_eq s0 s n
  have hn : ((tenOf u n).resetPend && (tenOf u n).stepDue) = false := by
    have := h n
    rw [← hr] at this
    simpa [resets] using this
  rw [hu, hn]
  exact ⟨hc, fun m => by rw [if_neg (by simp), hr]; exact h m⟩

theorem commitTenants_conf (s0 : State) {s : State} (h : NoStepDue s) : SameConf s (commitTenants s0 s) := by
  refine (foldS_inv (fun t => SameConf s t ∧ NoStepDue t) _ _ s ⟨⟨rfl, rfl, rfl, rfl⟩, h⟩ fun t n ht => ?_).1
  obtain ⟨hc, hn⟩ := commitTenant_of_noStepDue s0 (BitVec.ofNat 8 n) ht.2
  exact ⟨ht.1.trans hc, hn⟩

theorem commitEffects_conf (s0 : State) {s : State} (ch : List Change) (h : NoStepDue s) : SameConf s (commitEffects s0 s ch) := by
  unfold commitEffects
  dsimp only
  have hu : SameConf s (commitStaged (settlePermit s0 (commitTargets s ch))) := by
    unfold settlePermit
    split <;> simp [SameConf]
  have hn : NoStepDue (commitStaged (settlePermit s0 (commitTargets s ch))) := by
    simpa [NoStepDue] using h
  refine hu.trans ((commitTenants_conf s0 hn).trans ?_)
  simp [SameConf]

theorem transfers_of_noHold {s : State} (seq : Word) (h : s.hl.bundleHold = false) : transfers s seq = !bit (imAt s 0x114) 0 := by
  simp [transfers, h, regImm, imAt, regKey]

/-- The steps of a commit between its effects and the scan. -/
def commitTail (s0 s : State) (ch : List Change) : State :=
  let s := commitExpiry (commitCounts s0 (commitSources s0 (commitLinks s0 s) ch))
  arbSettle s0 { s with allot := { s.allot with wakes := 0 } }

theorem commitTail_conf (s0 s : State) (ch : List Change) : SameConf s (commitTail s0 s ch) := by simp [SameConf, commitTail]

theorem commit_eq_of_noHold {s : State} (hb : s.hl.bundleHold = false) :
    commit s = fallowCommit (pump (bundleSync (commitScan s (commitTail s (commitEffects s (commitTransfer s)
      (if transfers s (s.hl.seq + 1) then changes s else [])) (if transfers s (s.hl.seq + 1) then changes s else []))))) := by
  simp only [commit, hb, Bool.and_false]
  rfl

/-- What a commit outside a bundle's hold does to the headland's counts and to the configuration. -/
theorem commit_of_noHold {s : State} (hb : s.hl.bundleHold = false) (hn : NoStepDue s) :
    (commit s).hl.seq = s.hl.seq + 1 ∧ (commit s).cfg.im = s.cfg.im ∧ (commit s).cfg.shadow = s.cfg.shadow ∧
    (commit s).cfg.live = (commitTransfer s).cfg.live ∧ (commit s).hl.dirty = (commitTransfer s).hl.dirty ∧
    (commit s).hl.held = (commitTransfer s).hl.held := by
  have hfix : (commitTransfer s).cfg.im = s.cfg.im ∧ (commitTransfer s).cfg.shadow = s.cfg.shadow ∧
      (commitTransfer s).hl.seq = s.hl.seq + 1 ∧ resets (commitTransfer s) = resets s := by
    unfold commitTransfer
    dsimp only
    split <;> exact ⟨rfl, rfl, rfl, rfl⟩
  obtain ⟨him, hsh, hseq, hr⟩ := hfix
  have heff := commitEffects_conf s (s := commitTransfer s) (if transfers s (s.hl.seq + 1) then changes s else [])
    (by simpa [NoStepDue, hr] using hn)
  obtain ⟨v, hv, hcommit⟩ : ∃ v, SameConf (commitTransfer s) v ∧ SameConf (commitScan s v) (commit s) := by
    refine ⟨_, heff.trans (commitTail_conf s _ (if transfers s (s.hl.seq + 1) then changes s else [])), ?_⟩
    rw [commit_eq_of_noHold hb]
    exact SameConf.trans (bundleSync_conf _) (SameConf.trans (pump_conf _) (fallowCommit_conf _))
  obtain ⟨vhl, vlive, vsh, vim⟩ := hv
  obtain ⟨chl, clive, csh, cim⟩ := hcommit
  rw [chl, clive, csh, cim]
  simp [commitScan, vhl, vlive, vsh, vim, him, hsh, hseq]

theorem hlDiv_congr {s t : State} (h : t.cfg.live = s.cfg.live) : hlDiv t = hlDiv s := by
  have : regLive t 0x110 = regLive s 0x110 := by simp only [regLive, liveAt, h]
  unfold hlDiv
  rw [this]

theorem hlDiv_bounds (s : State) : 1 ≤ hlDiv s ∧ hlDiv s ≤ 64 := by
  have hf : fld (regLive s 0x110) 0 6 < 64 := Nat.mod_lt _ (by decide)
  unfold hlDiv
  dsimp only
  split <;> omega

theorem commitTransfer_noHold {s : State} (hb : s.hl.bundleHold = false) :
    if bit (imAt s 0x114) 0 = true then
      (commitTransfer s).cfg.live = s.cfg.live ∧ (commitTransfer s).hl.dirty = s.hl.dirty ∧
      (commitTransfer s).hl.held = if s.hl.dirty = true then satInc8 s.hl.held else s.hl.held
    else (commitTransfer s).cfg.live = s.cfg.shadow ∧ (commitTransfer s).hl.dirty = false ∧ (commitTransfer s).hl.held = 0 := by
  unfold commitTransfer
  dsimp only
  rw [transfers_of_noHold _ hb]
  cases bit (imAt s 0x114) 0
  · exact ⟨rfl, rfl, rfl⟩
  · exact ⟨rfl, rfl, rfl⟩

/-- Settles O33: a commit's steps leave the configuration and the headland's counts to its transfer. -/
theorem Settled.headland : Obligations.Headland := by
  intro s hq
  refine ⟨fun hl => ⟨_, rfl, ?_⟩, fun hl hc => ⟨_, rfl, ?_⟩, fun hl hc hb hn => ⟨_, rfl, ?_⟩⟩
  · rw [show Machine.headland s = s from if_neg hl]
    exact (unflagged_refl s).upToMarks hq
  · have he : Machine.headland s = { s with hl := { s.hl with left := hlDiv s } } := by simp [Machine.headland, hl, hc]
    rw [he]
    exact Unflagged.upToMarks hq ⟨⟨rfl, rfl, rfl, rfl, rfl, rfl⟩, rfl⟩
  · have he : Machine.headland s = { commit s with hl := { (commit s).hl with left := hlDiv (commit s) } } := by
      simp [Machine.headland, hl, hc]
    have hdue : NoStepDue s := fun n h => by
      have := hn n
      simp only [resets, Prod.mk.injEq] at h
      simp [h] at this
    obtain ⟨hseq, him, hsh, hlive, hdirty, hheld⟩ := commit_of_noHold hb hdue
    have hT := commitTransfer_noHold hb
    rw [← hlive, ← hdirty, ← hheld] at hT
    obtain ⟨hlo, hhi⟩ := hlDiv_bounds (commit s)
    have hpre : (commit s).tb = s.tb := (commit_keeps s).2
    rw [he]
    rw [hlDiv_congr (settle_live s _)]
    simp only [settle_hl, settle_im, settle_shadow, settle_live, settle_tb, hseq, him, hsh, hpre]
    exact ⟨trivial, hlDiv_congr rfl, hlo, hhi, trivial, trivial, trivial, hT⟩

end Sys2Proof.Machine
end

section
/-!
PROOFS. Chapters 06 and 08: the end of a configuration scan pass, and the region barrier (O34, O35).
-/
namespace Sys2Proof.Machine
open Sys2Proof.Safety Sys2Proof.Claims

variable {s e : State}

/-! ## Flags of a command that may end the permission of event S -/

theorem logMode_allot (b s : State) : (logMode b s).allot = s.allot := by
  unfold logMode
  dsimp only
  split
  · unfold logEntry pushJob
    split <;> rfl
  · rfl

/-- The house flags of a command that changes neither flags nor the store's work. -/
theorem flagsSetW_of_work (hacc : e.hsAcc = 0) (hsq : e.sqAcc.contains 0x300 = false) (hw : storeWork e = storeWork s)
    (f : BitVec 16) : FlagsSetW f e (settle s (house e f)) := by
  have hf : (house e f).hsAcc = f := by
    rw [house_hsAcc, hacc]
    exact BitVec.zero_or
  have hdone : nvDone s (house e f) = house e f := nvDone_of_work hw
  refine ⟨(aside_hsAcc e _).trans (settle_aside s _), ?_, settlePermit s (logMode s (house e f)), ?_, ?_, ?_⟩
  · rw [sqOf_settle_house _ (house e f) hsq, hdone, hf]
    rfl
  · exact (aside_hsAcc e _).trans ((aside_logMode s _).trans (aside_settlePermit s _))
  · rw [settlePermit_allot, logMode_allot]
    rfl
  · unfold settle
    rw [hdone, endCclk_allot, noteHwm_allot, flushHouse_allot]

/-! ## The end of a pass -/

theorem scanCompare_of_same {c : Word} (h : ¬ (bit (imAt s 0x808) 0 = true ∧ c ≠ imAt s 0x804)) : scanCompare s c = s := by
  unfold scanCompare
  rw [if_neg]
  rw [Bool.and_eq_true, decide_eq_true_eq]
  exact h

theorem scanCompare_of_differs {c : Word} (h : bit (imAt s 0x808) 0 = true ∧ c ≠ imAt s 0x804) :
    scanCompare s c = house { s with
      pw := { s.pw with driftHold := s.pw.driftHold || bit (imAt s 0x808) 1 }
      bun := { s.bun with drift := s.bun.drift || (s.bun.unconf && decide (s.bun.refMode = 1)) } } hDRIFT := by
  obtain ⟨h0, hc⟩ := h
  have hif : (bit (regImm s 0x808) 0 && decide (c ≠ regImm s 0x804)) = true := by simpa using ⟨h0, hc⟩
  unfold scanCompare
  rw [if_pos hif]
  dsimp only
  have hpw : (if bit (regImm (house s hDRIFT) 0x808) 1 then
        { house s hDRIFT with pw := { (house s hDRIFT).pw with driftHold := true } } else house s hDRIFT) =
      house { s with pw := { s.pw with driftHold := s.pw.driftHold || bit (imAt s 0x808) 1 } } hDRIFT := by
    change (if bit (imAt s 0x808) 1 = true then _ else _) = _
    split
    · next hb => rw [hb, Bool.or_true]; rfl
    · next hb => rw [Bool.eq_false_iff.2 hb, Bool.or_false]
  rw [hpw]
  change (if (s.bun.unconf && decide (s.bun.refMode = 1)) = true then _ else _) = _
  split
  · next hb => rw [hb, Bool.or_true]; rfl
  · next hb => rw [Bool.eq_false_iff.2 hb, Bool.or_false]

/-- Settles O34. -/
theorem Settled.scanPass : Obligations.ScanPass := by
  intro s hq
  refine ⟨fun hd => ⟨_, rfl, ?_⟩, fun c hd => ?_⟩
  · rw [show scanPassComplete s = s by simp [scanPassComplete, hd]]
    exact (unflagged_refl s).upToMarks hq
  · intro e differs
    have heff : scanPassComplete s = if s.hl.snapPend then setIm e 0x804 c else scanCompare e c := by
      simp only [scanPassComplete, hd]
      rfl
    refine ⟨settle s (scanPassComplete s), rfl, fun hp => ?_, fun hp hn => ?_, fun hp hy => ?_⟩
    · rw [heff, if_pos hp]
      have hc : Calm s e := ⟨rfl, rfl, rfl, rfl, rfl, rfl, rfl⟩
      exact (hc.trans (calm_setIm e (by decide) c)).upToMarks hq
    · rw [heff, if_neg (by simp [hp]), scanCompare_of_same (s := e) hn]
      exact Unflagged.upToMarks hq ⟨⟨rfl, rfl, rfl, rfl, rfl, rfl⟩, rfl⟩
    · rw [heff, if_neg (by simp [hp]), scanCompare_of_differs (s := e) hy]
      have hsq : s.sqAcc.contains 0x300 = false := by rw [hq.2]; rfl
      exact flagsSetW_of_work (s := s) (e := { e with
        pw := { s.pw with driftHold := s.pw.driftHold || bit (imAt s 0x808) 1 }
        bun := { s.bun with drift := s.bun.drift || (s.bun.unconf && decide (s.bun.refMode = 1)) } }) hq.1 hsq rfl hDRIFT

/-! ## The region barrier -/

theorem pumpN_of_idle (n : Nat) (h : s.nv.jobs = []) : pumpN n s = s := by
  cases n with
  | zero => rfl
  | succ n => simp [pumpN, pumpOne, h]

theorem pump_of_idle (h : s.nv.jobs = []) : pump s = s := by
  unfold pump
  rw [pumpN_of_idle _ h, ite_self]

theorem bundleSync_of_not_finishing (h : s.bun.finishing = false) : bundleSync s = s := by simp [bundleSync, h]

theorem regionReady_iff : regionReady s = true ↔
    (∀ w ∈ s.xl.walks, ∀ b, w.firstChk = some b → s.xl.rsMark ≤ b) ∧
    (∀ v, s.xl.fltVc = some v ∨ s.xl.evtVc = some v → s.xl.rsMark ≤ v.born) ∧
    (∀ p ∈ s.xl.pend, ∀ b, p.region = some b → s.xl.rsMark ≤ b) := by
  have hopt (o : Option Nat) : (match o with | some b => decide (b < s.xl.rsMark) | none => false) = false ↔
      ∀ b, o = some b → s.xl.rsMark ≤ b := by
    cases o <;> simp
  have hvc (o : Option RingVc) : (match o with | some v => decide (v.born < s.xl.rsMark) | none => false) = false ↔
      ∀ v : RingVc, o = some v → s.xl.rsMark ≤ v.born := by
    cases o <;> simp
  simp only [regionReady, Bool.and_eq_true, Bool.not_eq_true', List.any_eq_false, Bool.not_eq_true, and_assoc]
  refine and_congr (forall₂_congr fun w _ => hopt w.firstChk) (and_congr ?_ (forall₂_congr fun p _ => hopt p.region))
  exact (forall₂_congr fun v _ => hvc v).trans (by simp [or_imp, forall_and])

/-- Settles O35. -/
theorem Settled.regionBarrier : Obligations.RegionBarrier := by
  intro s hq
  refine ⟨fun hs => ?_, fun hf hj hd hw hv hp => ⟨_, rfl, ?_⟩, fun h => ⟨_, rfl, ?_⟩⟩
  · have heff : servedWrite s (busOp 0x1300) (baseOff 0x1300) 1 1 0 = regionSyncReq s :=
      servedWrite_act s 0 (by decide) (by decide) (by decide)
    exact ⟨_, put_effect hs (by decide) heff rfl, Unflagged.upToMarks hq ⟨⟨rfl, rfl, rfl, rfl, rfl, rfl⟩, rfl⟩⟩
  · have hready : regionReady s = true := regionReady_iff.2 ⟨hw, hv, hp⟩
    have heff : regionSyncDone s = { s with xl := { s.xl with rsDone := true } } := by
      rw [regionSyncDone, if_pos (by rw [hd, hready]; rfl)]
      let d := { s with xl := { s.xl with rsDone := true } }
      exact (congrArg pump (bundleSync_of_not_finishing (s := d) hf)).trans (pump_of_idle (s := d) hj)
    rw [heff]
    exact Unflagged.upToMarks hq ⟨⟨rfl, rfl, rfl, rfl, rfl, rfl⟩, rfl⟩
  · have hready : regionReady s = false := by
      rw [Bool.eq_false_iff]
      intro hr
      obtain ⟨hw, hv, hp⟩ := regionReady_iff.1 hr
      obtain ⟨w, hm, b, hb, hlt⟩ | ⟨v, hm, hlt⟩ | ⟨p, hm, b, hb, hlt⟩ := h
      · exact absurd (hw w hm b hb) (by omega)
      · exact absurd (hv v hm) (by omega)
      · exact absurd (hp p hm b hb) (by omega)
    rw [show regionSyncDone s = s by simp [regionSyncDone, hready]]
    exact (unflagged_refl s).upToMarks hq

end Sys2Proof.Machine
end

section
/-!
PROOFS. Chapter 07: what the resets and writes of tenants leave of Q-IN and of its turn.
-/
namespace Sys2Proof.Machine

/-- Q-IN and the link admitted last are the same. -/
abbrev SameQIn (s t : State) : Prop := t.xl.qIn = s.xl.qIn ∧ t.xl.lastAdmit = s.xl.lastAdmit

theorem SameQIn.trans {s t u : State} (h : SameQIn s t) (g : SameQIn t u) : SameQIn s u := ⟨g.1.trans h.1, g.2.trans h.2⟩

theorem foldS_qIn {α : Type} {f : State → α → State} (l : List α) (s : State) (h : ∀ s a, SameQIn s (f s a)) :
    SameQIn s (foldS f s l) := foldS_inv (SameQIn s ·) f l s ⟨rfl, rfl⟩ fun t a g => g.trans (h t a)

@[simp] theorem setShadow_qIn (s : State) (k : Nat) (v : Word) : SameQIn s (setShadow s k v) := ⟨rfl, rfl⟩

@[simp] theorem setTen_qIn (s : State) (n : Tenant) (r : TenRec) : SameQIn s (setTen s n r) := ⟨rfl, rfl⟩

@[simp] theorem setLink_qIn (s : State) (l : Link) (r : LinkRec) : SameQIn s (setLink s l r) := ⟨rfl, rfl⟩

@[simp] theorem bump_qIn (s : State) (off : Nat) : SameQIn s (bump s off) := ⟨rfl, rfl⟩

@[simp] theorem bumpN_qIn (s : State) (off n : Nat) : SameQIn s (bumpN s off n) := ⟨rfl, rfl⟩

@[simp] theorem house_qIn (s : State) (f : BitVec 16) : SameQIn s (house s f) := ⟨rfl, rfl⟩

@[simp] theorem dropCount_qIn (s : State) (off : Nat) : SameQIn s (dropCount s off) := ⟨rfl, rfl⟩

@[simp] theorem outSub_qIn (s : State) (n : Tenant) : SameQIn s (outSub s n) := ⟨rfl, rfl⟩

@[simp] theorem queueEvt_qIn (s : State) (e : EvtRec) : SameQIn s (queueEvt s e) := by
  unfold queueEvt
  split <;> simp [SameQIn]

@[simp] theorem accessError_qIn (s : State) (l : Link) (n : Tenant) (off : BitVec 12) (rd : Bool) : SameQIn s (accessError s l n off rd) := by simp [accessError, SameQIn]

@[simp] theorem poolDrop_qIn (s : State) (n : Tenant) (l : Link) (i : Intid) (record : Option (BitVec 8)) : SameQIn s (poolDrop s n l i record) := by
  unfold poolDrop
  split <;> simp [SameQIn]

@[simp] theorem setRing_qIn (s : State) (n : Tenant) (evt : Bool) (r : Ring) : SameQIn s (setRing s n evt r) := by
  unfold setRing
  split <;> simp [SameQIn]

@[simp] theorem freeRx_qIn (s : State) (l : Link) (vc g : Nat) : SameQIn s (freeRx s l vc g) := ⟨rfl, rfl⟩

@[simp] theorem updWalks_qIn (s : State) (f : List Walk → List Walk) : SameQIn s (updWalks s f) := ⟨rfl, rfl⟩

@[simp] theorem removeWalk_qIn (s : State) (tag : BitVec 6) : SameQIn s (removeWalk s tag) := ⟨rfl, rfl⟩

@[simp] theorem putWalk_qIn (s : State) (w : Walk) : SameQIn s (putWalk s w) := ⟨rfl, rfl⟩

@[simp] theorem markSpill_qIn (s : State) (n : Tenant) : SameQIn s (markSpill s n) := ⟨rfl, rfl⟩

@[simp] theorem joinBlocked_qIn (s : State) (e : SowEvent) : SameQIn s (joinBlocked s e) := ⟨rfl, rfl⟩

@[simp] theorem park_qIn (s : State) (e : SowEvent) : SameQIn s (park s e) := by
  unfold park
  repeat' split
  all_goals simp [SameQIn]

@[simp] theorem sowDisabled_qIn (s : State) (n : Tenant) : SameQIn s (sowDisabled s n) := ⟨rfl, rfl⟩

@[simp] theorem freeBlocked_qIn (s : State) (n : Tenant) : SameQIn s (freeBlocked s n) := ⟨rfl, rfl⟩

@[simp] theorem leaveWalk_qIn (s : State) (w : Walk) : SameQIn s (leaveWalk s w) := by
  unfold leaveWalk
  repeat' split
  all_goals simp [SameQIn]

@[simp] theorem abandonWalk_qIn (s : State) (w : Walk) : SameQIn s (abandonWalk s w) := by
  unfold abandonWalk
  split
  · exact (leaveWalk_qIn s w).trans (foldS_qIn _ _ fun _ _ => park_qIn _ _)
  · split
    · exact ⟨rfl, rfl⟩
    · exact (leaveWalk_qIn s w).trans (foldS_qIn _ _ fun _ _ => poolDrop_qIn _ _ _ _ _)
  · exact leaveWalk_qIn s w
  · exact ((leaveWalk_qIn s w).trans (markSpill_qIn _ _)).trans (foldS_qIn _ _ fun _ _ => poolDrop_qIn _ _ _ _ _)

@[simp] theorem abandonAll_qIn (s : State) (n : Tenant) : SameQIn s (abandonAll s n) := by
  have h := foldS_qIn (f := abandonWalk) (liveWalks s n) s fun _ _ => abandonWalk_qIn _ _
  unfold abandonAll
  dsimp only
  split
  · exact h
  · exact h.trans (freeBlocked_qIn _ _)

@[simp] theorem tenantReset_qIn (s : State) (n : Tenant) : SameQIn s (tenantReset s n) := by
  unfold tenantReset
  dsimp only
  repeat' split
  all_goals simp [SameQIn]

@[simp] theorem shadowMerge_qIn (s : State) (k : Nat) (hl0 : Word) (mask data : Word) : SameQIn s (shadowMerge s k hl0 mask data) := by
  unfold shadowMerge
  dsimp only
  repeat' split
  all_goals simp [SameQIn]

@[simp] theorem ringBad_qIn (s : State) (n : Tenant) : SameQIn s (ringBad s n) := ⟨rfl, rfl⟩

@[simp] theorem headWrite_qIn (s : State) (n : Tenant) (evt : Bool) (be : BE) (data : Word) : SameQIn s (headWrite s n evt be data) := by
  unfold headWrite
  dsimp only
  repeat' split
  all_goals simp [SameQIn]

@[simp] theorem tailWrite_qIn (s : State) (n : Tenant) (evt : Bool) (be : BE) (data : Word) : SameQIn s (tailWrite s n evt be data) := by
  unfold tailWrite
  repeat' split
  all_goals simp [SameQIn]

@[simp] theorem syncStore_qIn (s : State) (n : Tenant) (be : BE) (data : Word) : SameQIn s (syncStore s n be data) := by
  unfold syncStore
  split <;> simp [SameQIn]

@[simp] theorem accessRefused_qIn (s : State) (l : Link) (n : Tenant) (off : BitVec 12) (rd : Bool) : SameQIn s (accessRefused s l n off rd) := by simp [accessRefused, SameQIn]

@[simp] theorem setWait_qIn (s : State) (l : Link) (ws : List PWrite) : SameQIn s (setWait s l ws) := ⟨rfl, rfl⟩

@[simp] theorem countMalformed_qIn (s : State) (l : Link) : SameQIn s (countMalformed s l) := ⟨rfl, rfl⟩

end Sys2Proof.Machine
end

section
/-!
PROOFS. Chapters 07, 09 and 12: accesses of hosts to tenant pages (O37).
-/
namespace Sys2Proof.Machine
open Sys2Proof.Safety Sys2Proof.Claims

variable {s e : State} {l : Link}

/-! ## A packet on its way to the lanes -/

/-- Grains that enter the lanes' FIFOs leave the stream of their link and change nothing else of it. -/
theorem linkOf_fillFifos (l : Link) (n : Nat) (s : State) : ∃ out k, linkOf (fillFifos l n s) l =
    { linkOf s l with ll := { (linkOf s l).ll with out := out, txK := k } } := by
  induction n generalizing s with
  | zero => exact ⟨_, _, rfl⟩
  | succ n ih =>
    unfold fillFifos
    dsimp only
    split
    · next g rest p _ _ =>
      split
      · obtain ⟨out, k, h⟩ := ih (setTx (setLink s l { linkOf s l with ll :=
          { (linkOf s l).ll with out := rest, txK := (linkOf s l).ll.txK + 1 } }) l p
          { (laneOf s l p).tx with fifo := (laneOf s l p).tx.fifo ++ [g] })
        refine ⟨out, k, h.trans ?_⟩
        simp [setTx]
      · exact ⟨_, _, rfl⟩
    · exact ⟨_, _, rfl⟩

theorem linkOf_pushTlp (s : State) (l : Link) (ty vc g : Nat) (fn : BitVec 8) (body : List Word) (ring : Option (Bool × Tenant)) :
    ∃ out k, linkOf (pushTlp s l ty vc g fn body ring) l = { linkOf s l with ll :=
      { enqueue (linkOf s l).ll ty vc g fn body ring with out := out, txK := k } } := by
  obtain ⟨out, k, h⟩ := linkOf_fillFifos l (linkOf (setLink s l { linkOf s l with ll := enqueue (linkOf s l).ll ty vc g fn body ring }) l).ll.out.length
    (setLink s l { linkOf s l with ll := enqueue (linkOf s l).ll ty vc g fn body ring })
  refine ⟨out, k, ?_⟩
  unfold pushTlp fillOut
  rw [h, linkOf_setLink_self]

theorem spend_eq (ll : LinkLayer) (vc g : Nat) : ∃ p n i, spend ll vc g = { ll with p := p, n := n, i := i } := by
  unfold spend setCredit
  split
  · repeat' split
    all_goals exact ⟨_, _, _, rfl⟩
  · exact ⟨_, _, _, rfl⟩

theorem enqueue_replay (ll : LinkLayer) (ty vc g : Nat) (fn : BitVec 8) (body : List Word) (ring : Option (Bool × Tenant)) :
    (enqueue ll ty vc g fn body ring).replay = ll.replay ++ [{ seq := ll.txSeq, words := buildTlp ll ty vc g fn body, ring := ring }] ∧
    (enqueue ll ty vc g fn body ring).cplQ = ll.cplQ := by
  obtain ⟨p, n, i, h⟩ := spend_eq ll vc g
  unfold enqueue reported
  dsimp only
  rw [h]
  exact ⟨rfl, rfl⟩

/-! ## States that differ in links and tenants -/

theorem unflagged_setLink (h : Unflagged s e) (l : Link) (r : LinkRec) : Unflagged s (setLink e l r) :=
  ⟨⟨h.pw, h.live, h.im, h.lean, h.jobs, h.orphan⟩, h.hsAcc⟩
theorem unflagged_setTen (h : Unflagged s e) (n : Tenant) (r : TenRec) : Unflagged s (setTen e n r) :=
  ⟨⟨h.pw, h.live, h.im, h.lean, h.jobs, h.orphan⟩, h.hsAcc⟩
theorem unflagged_xl (h : Unflagged s e) (x : Xlate) : Unflagged s { e with xl := x } :=
  ⟨⟨h.pw, h.live, h.im, h.lean, h.jobs, h.orphan⟩, h.hsAcc⟩
theorem unflagged_lands (h : Unflagged s e) (l : Link) : Unflagged s (lands l e) := unflagged_setLink h l _
theorem unflagged_arrive (s : State) (l : Link) (vc g : Nat) : Unflagged s (arrive s l vc g) := by
  rw [arrive_eq_links]
  exact ⟨⟨rfl, rfl, rfl, rfl, rfl, rfl⟩, rfl⟩

theorem gathers_setLink (h : Gathers s e) (l : Link) (r : LinkRec) : Gathers s (setLink e l r) :=
  ⟨⟨h.pw, h.live, h.im, h.lean, h.jobs, h.orphan⟩, h.first⟩
theorem gathers_lands (h : Gathers s e) (l : Link) : Gathers s (lands l e) := gathers_setLink h l _
theorem gathers_arrive (s : State) (l : Link) (vc g : Nat) : Gathers s (arrive s l vc g) := by
  refine (unflagged_arrive s l vc g).gathers ?_
  rw [arrive_eq_links]

theorem gathers_accessError (s : State) (l : Link) (n : Tenant) (off : BitVec 12) (rd : Bool) :
    Gathers s (accessError s l n off rd) := by
  unfold accessError queueEvt
  dsimp only
  split
  · exact ⟨⟨rfl, rfl, rfl, rfl, rfl, rfl⟩, rfl⟩
  · exact ⟨⟨rfl, rfl, rfl, rfl, rfl, rfl⟩, rfl⟩

/-! ## Grains that arrive -/

theorem arrive_eq (h : arrives s l) (vc g : Nat) : arrive s l vc g = setLink s l { linkOf s l with
    ll := setRx (linkOf s l).ll vc { rxOf (linkOf s l).ll vc with held := (rxOf (linkOf s l).ll vc).held + g } } := by
  obtain ⟨hmode, hst⟩ := h
  simp [arrive, operating, linkActive, hmode, hst]

theorem arrives_arrive (h : arrives s l) (vc g : Nat) : arrives (arrive s l vc g) l := by
  rw [arrive_eq h]
  exact ⟨h.1, by rw [linkOf_setLink_self]; exact h.2⟩

theorem setRx_queues (ll : LinkLayer) (vc : Nat) (x : RxCredit) : (setRx ll vc x).vpWait = ll.vpWait ∧
    (setRx ll vc x).cplQ = ll.cplQ ∧ (setRx ll vc x).replay = ll.replay ∧ (setRx ll vc x).vpQ = ll.vpQ := by
  unfold setRx
  repeat' split
  all_goals exact ⟨rfl, rfl, rfl, rfl⟩

theorem freeGrains_queues (r : LinkRec) (vc g : Nat) : (freeGrains r vc g).ll.vpWait = r.ll.vpWait ∧
    (freeGrains r vc g).ll.cplQ = r.ll.cplQ ∧ (freeGrains r vc g).ll.replay = r.ll.replay ∧
    (freeGrains r vc g).ll.vpQ = r.ll.vpQ := by
  unfold freeGrains
  dsimp only
  split
  · exact ⟨rfl, rfl, rfl, rfl⟩
  · exact setRx_queues _ _ _

theorem arrive_vpWait (h : arrives s l) (vc g : Nat) (m : Link) :
    (linkOf (arrive s l vc g) m).ll.vpWait = (linkOf s m).ll.vpWait := by
  rw [arrive_eq h, linkOf_setLink]
  split
  · next hm => rw [hm]; exact (setRx_queues _ _ _).1
  · rfl

theorem sowEnters_congr {w : PWrite} (hc : e.cfg.live = s.cfg.live) (ht : e.tens = s.tens) : sowEnters e l w = sowEnters s l w := by
  simp only [sowEnters, bound, tenLinks, tenEnabled, tenEn, tabLive, liveAt, tenOf, hc, ht]

theorem admitTurn_arrive (h : arrives s l) (vc g : Nat) : admitTurn (arrive s l vc g) = admitTurn s := by
  have hw : ∀ m, sowWaits (arrive s l vc g) m = sowWaits s m := fun m => by
    unfold sowWaits
    rw [arrive_vpWait h]
    split
    · exact sowEnters_congr (by rw [arrive_eq_links]) (by rw [arrive_eq_links])
    · rfl
  unfold admitTurn
  simp only [hw]
  rw [arrive_eq_links]

/-! ## A posted write is dealt with or waits (R149, R275, R278) -/

section
variable {w : PWrite} (h : arrives s l)
include h

theorem postedWrite_behind (hw : (linkOf s l).ll.vpWait ≠ []) (w : PWrite) :
    postedWrite s l w = setWait s l ((linkOf s l).ll.vpWait ++ [w]) := by
  obtain ⟨hmode, hst⟩ := h
  simp [postedWrite, operating, linkActive, hmode, hst, hw]

theorem postedWrite_of_turn (hw : (linkOf s l).ll.vpWait = []) (he : sowEnters s l w = true) (ht : (admitTurn s).isSome = true) :
    postedWrite s l w = setWait s l [w] := by
  obtain ⟨hmode, hst⟩ := h
  simp [postedWrite, operating, linkActive, hmode, hst, hw, he, ht]

theorem postedWrite_of_take (hw : (linkOf s l).ll.vpWait = []) (he : sowEnters s l w = false ∨ admitTurn s = none) :
    postedWrite s l w = match takeWrite s l w with
      | some u => freeRx u l 0 w.grains
      | none => setWait s l [w] := by
  obtain ⟨hmode, hst⟩ := h
  have hturn : (sowEnters s l w && (admitTurn s).isSome) = false := by
    obtain he | he := he <;> simp [he]
  simp only [postedWrite, operating, linkActive, hmode, hst, hw, hturn]
  simp <;> rfl

end

/-! ## What the taken write does (R148, R197, R280) -/

/-- A sow write of an enabled tenant of the link. -/
theorem sowEnters_of_enabled {fn : Tenant} (data : Word) (hb : bound s l fn = true) (he : tenEnabled s fn = true) :
    sowEnters s l { fn := fn, off := 0, be := 15, data := data } = true := by
  simp [sowEnters, hb, he, pageExists, inWords]

theorem sowEnters_of_off {w : PWrite} (h : w.off ≠ 0) : sowEnters s l w = false := by
  have : ¬ w.off = 0#12 := h
  simp [sowEnters, this]

theorem takeWrite_sow {fn : Tenant} (data : Word) (hb : bound s l fn = true) :
    takeWrite s l { fn := fn, off := 0, be := 15, data := data } =
      if tenEnabled s fn = true then
        if 2048 ≤ s.xl.qIn.length then none
        else some (setXl s { s.xl with
          qIn := s.xl.qIn ++ [{ tenant := fn, link := l, dev := data.extractLsb' 16 16, ev := data.setWidth 16 }] })
      else some (sowDisabled s fn) := by
  cases he : tenEnabled s fn <;> simp [takeWrite, decodeWrite, hb, pageExists, inWords, applyWrite, he]

theorem takeWrite_unbound {fn : Tenant} (off : BitVec 12) (be : BE) (data : Word) (hb : bound s l fn = false) :
    takeWrite s l { fn := fn, off := off, be := be, data := data } = some (accessRefused s l fn off false) := by
  simp [takeWrite, decodeWrite, hb]

theorem takeWrite_sowBad {fn : Tenant} (be : BE) (data : Word) (hb : bound s l fn = true) (hbe : be ≠ 15) :
    takeWrite s l { fn := fn, off := 0, be := be, data := data } =
      some (accessRefused (bump s cntSOWBAD) l fn 0 false) := by
  have : ¬ be = 15#4 := hbe
  simp [takeWrite, decodeWrite, hb, pageExists, inWords, this]

theorem takeWrite_malformed {w : PWrite} (h : w.malformed = true) : takeWrite s l w = some (countMalformed s l) := by
  simp [takeWrite, h]

theorem takeWrite_word {fn : Tenant} {off : BitVec 12} (be : BE) (data : Word) (hb : bound s l fn = true)
    (ho : off ∈ [(0x10 : BitVec 12), 0x14, 0x18, 0x1C, 0x20, 0x24]) :
    takeWrite s l { fn := fn, off := off, be := be, data := data } =
      some (shadowMerge s (pageKey fn.toNat off.toNat) (pageHl fn.toNat off.toNat) (beMask be) data) := by
  have hex : pageExists fn.toNat off.toNat = true := by
    revert ho; simp only [List.mem_cons, List.not_mem_nil, or_false]
    rintro (rfl | rfl | rfl | rfl | rfl | rfl) <;> simp [pageExists, inWords]
  simp only [takeWrite, decodeWrite, hb, hex]
  simp only [List.mem_cons, List.not_mem_nil, or_false] at ho
  obtain rfl | rfl | rfl | rfl | rfl | rfl := ho <;> simp [applyWrite]

theorem shadowMerge_eq (k : Nat) (hl0 mask data : Word) : shadowMerge s k hl0 mask data =
    let hl := hl0 &&& ~~~(featOff s k) &&& mask
    if hl = 0 then s else { setShadow s k ((shadowAt s k &&& ~~~hl) ||| (data &&& hl)) with hl := { s.hl with dirty := true } } := rfl

/-! ## The obligation -/

theorem exec_rwr (l : Link) (fn : Tenant) (off : BitVec 12) (be : BE) (data : Word) (m : Bool) :
    exec (.rwr l fn off be data m) s =
      .next (settle s (postedWrite (arrive s l 0 3) l { fn := fn, off := off, be := be, data := data, malformed := m })) := rfl

theorem exec_sowWrite (l : Link) (fn : Tenant) (be : BE) (data : Word) : exec (.sowWrite l fn be data) s =
    .next (settle s (postedWrite (arrive s l 0 3) l { fn := fn, off := 0, be := be, data := data })) := rfl

theorem exec_rwr_taken {fn : Tenant} {off : BitVec 12} {be : BE} {data : Word} {m : Bool} (h : arrives s l)
    (hw : (linkOf (arrive s l 0 3) l).ll.vpWait = [])
    (he : sowEnters (arrive s l 0 3) l { fn := fn, off := off, be := be, data := data, malformed := m } = false ∨ admitTurn s = none)
    (ht : takeWrite (arrive s l 0 3) l { fn := fn, off := off, be := be, data := data, malformed := m } = some e) :
    exec (.rwr l fn off be data m) s = .next (settle s (lands l e)) := by
  rw [exec_rwr, postedWrite_of_take (arrives_arrive h 0 3) hw (he.imp_right (admitTurn_arrive h 0 3).trans), ht]

/-! ## What waits in a buffer (R149) -/

/-- A write that enters Q-IN is a sow write of an enabled tenant. -/
theorem applyWrite_qIn {w : PWrite} (he : w.off = 0 → tenEnabled s w.fn = false) (h : applyWrite s l w = some e) : SameQIn s e := by
  unfold applyWrite at h
  dsimp only at h
  split at h
  · next hoff =>
    rw [he (BitVec.eq_of_toNat_eq hoff)] at h
    cases h
    exact sowDisabled_qIn s _
  all_goals repeat' (split at h)
  all_goals cases h
  all_goals simp [SameQIn, setXl]

theorem takeWrite_qIn {w : PWrite} (he : sowEnters s l w = false) (h : takeWrite s l w = some e) : SameQIn s e := by
  unfold takeWrite at h
  split at h
  · cases h
    exact countMalformed_qIn s l
  · next hm =>
    unfold decodeWrite at h
    split at h
    · cases h
      exact accessRefused_qIn s l _ _ _
    · next hb =>
      split at h
      · cases h
        exact accessRefused_qIn s l _ _ _
      · next hx =>
        split at h
        · cases h
          simp [SameQIn]
        · next hbe =>
          refine applyWrite_qIn (fun h0 => ?_) h
          simp only [Bool.and_eq_true, decide_eq_true_eq, not_and, ne_eq, Decidable.not_not, Bool.not_eq_true,
            Bool.not_eq_true', Bool.not_eq_false] at hm hb hx hbe
          have hex : pageExists w.fn.toNat 0 = true := by simp [pageExists, inWords]
          simpa [sowEnters, hm, hb, h0, hbe h0, hex] using he

theorem drainWait_qIn (l : Link) (n : Nat) (s : State) : SameQIn s (drainWait s l n) := by
  induction n generalizing s with
  | zero => exact ⟨rfl, rfl⟩
  | succ n ih =>
    unfold drainWait
    split
    · exact ⟨rfl, rfl⟩
    · next w rest _ =>
      split
      · exact ⟨rfl, rfl⟩
      · next he =>
        split
        · next u hu =>
          have h1 := takeWrite_qIn (Bool.eq_false_iff.2 he) hu
          exact (h1.trans (by simp [SameQIn])).trans (ih _)
        · exact ⟨rfl, rfl⟩

/-! ## Completions (R282) -/

/-- The only completion that waits is sent. -/
theorem sendWaitingCpl_of_one {fn : Tenant} {body : List Word}
    (h : (linkOf s l).ll.cplQ = [put fn.toNat 0 :: body]) :
    (linkOf (sendWaitingCpl s l) l).ll.cplQ = [] ∧ ∃ p, (linkOf (sendWaitingCpl s l) l).ll.replay = (linkOf s l).ll.replay ++ [p] ∧
      p.words = buildTlp (linkOf s l).ll tyCPL 2 (body.length + 1) fn body := by
  have hfn : ((put fn.toNat 0 :: body).headD 0).setWidth 8 = fn := by
    simp [put]
  unfold sendWaitingCpl
  dsimp only
  rw [h]
  dsimp only
  rw [hfn]
  obtain ⟨out, k, hp⟩ := linkOf_pushTlp (setLink s l { linkOf s l with ll := { (linkOf s l).ll with cplQ := [] } }) l tyCPL 2
    (put fn.toNat 0 :: body).length fn ((put fn.toNat 0 :: body).drop 1) none
  rw [hp, linkOf_setLink_self]
  obtain ⟨hr, hc⟩ := enqueue_replay { (linkOf s l).ll with cplQ := [] } tyCPL 2 (put fn.toNat 0 :: body).length fn
    ((put fn.toNat 0 :: body).drop 1) none
  exact ⟨hc, _, hr, rfl⟩

theorem buildTlp_congr {x y : LinkLayer} (hw : linkWord x = linkWord y) (hs : x.txSeq = y.txSeq) (ty vc g : Nat) (fn : BitVec 8)
    (body : List Word) : buildTlp x ty vc g fn body = buildTlp y ty vc g fn body := by
  unfold buildTlp
  rw [hw, hs]

theorem buildTlp_cplQ (ll : LinkLayer) (c : List (List Word)) (ty vc g : Nat) (fn : BitVec 8) (body : List Word) :
    buildTlp { ll with cplQ := c } ty vc g fn body = buildTlp ll ty vc g fn body := buildTlp_congr rfl rfl _ _ _ _ _

theorem rrd_of_page {fn : Tenant} {off : BitVec 12} (rtag : BitVec 8) (h : arrives s l) (hb : bound s l fn = true)
    (hx : pageExists fn.toNat off.toNat = true) :
    rrd s l fn off rtag false = sendCpl s l fn rtag 0 (some (pageRead s fn off.toNat)) := by
  obtain ⟨hmode, hst⟩ := h
  simp [rrd, operating, linkActive, hmode, hst, hb, hx]

theorem linkOf_lands_queues (s : State) (l : Link) (vc g : Nat) : (linkOf (freeRx s l vc g) l).ll.cplQ = (linkOf s l).ll.cplQ ∧
    (linkOf (freeRx s l vc g) l).ll.replay = (linkOf s l).ll.replay := by
  unfold freeRx
  rw [linkOf_setLink_self]
  exact (freeGrains_queues _ _ _).2.imp_right And.left

theorem arrive_queues (h : arrives s l) (vc g : Nat) : (linkOf (arrive s l vc g) l).ll.cplQ = (linkOf s l).ll.cplQ ∧
    (linkOf (arrive s l vc g) l).ll.replay = (linkOf s l).ll.replay := by
  rw [arrive_eq h, linkOf_setLink_self]
  exact (setRx_queues _ _ _).2.imp_right And.left

/-- A completion is built behind those that wait, and sent if it has the turn. -/
theorem sendCpl_of_cplQ {b : State} {c : List (List Word)} (hc : (linkOf b l).ll.cplQ = c) (hb : b = freeRx s l 1 2) (fn : Tenant)
    (rtag : BitVec 8) (status : Nat) (data : Option Word) :
    let q := setLink b l { linkOf b l with ll := { (linkOf b l).ll with cplQ := c ++ [put fn.toNat 0 :: cplBody rtag status data] } }
    sendCpl s l fn rtag status data = if nextClass q l = some .cpl then sendWaitingCpl q l else q := by
  subst hc hb
  rfl

/-- Settles O37. -/
theorem pageAccesses : Obligations.PageAccesses := by
  intro s l fn data hq ha ev a r sow
  have haa : arrives a l := arrives_arrive ha 0 3
  have hu : Unflagged s a := unflagged_arrive s l 0 3
  have hg : Gathers s a := gathers_arrive s l 0 3
  have hlinks : a = { s with links := a.links } := arrive_eq_links s l 0 3
  have hbound : ∀ n, bound a l n = bound s l n := fun n => by rw [hlinks]; rfl
  have hen : ∀ n, tenEnabled a n = tenEnabled s n := fun n => by rw [hlinks]; rfl
  have hxl : a.xl = s.xl := by rw [hlinks]
  refine ⟨fun hw hb => ⟨fun he hroom ht => ?_, fun he hfull => ?_, fun he => ?_, fun be hbe => ?_, fun off be ho => ?_⟩,
    fun hw off be m => ?_, fun hb off rtag hex => ?_, fun hb hw off be => ?_, fun hw off be => ?_,
    fun rest hw ht hb he hroom => ?_⟩
  · have htake : takeWrite a l sow = some { a with xl := { s.xl with qIn := s.xl.qIn ++ [ev] } } := by
      rw [takeWrite_sow data ((hbound fn).trans hb), hen, he, if_pos rfl, hxl, if_neg (by omega)]
      rfl
    exact ⟨_, exec_rwr_taken ha hw (.inr ht) htake, (unflagged_lands (unflagged_xl hu _) l).upToMarks hq⟩
  · have hpost : postedWrite a l sow = setWait a l [sow] := by
      have hsow := sowEnters_of_enabled data ((hbound fn).trans hb) ((hen fn).trans he)
      cases hturn : admitTurn s with
      | some m => exact postedWrite_of_turn haa hw hsow (by rw [admitTurn_arrive ha, hturn]; rfl)
      | none =>
        have hlen : 2048 ≤ s.xl.qIn.length := hfull.resolve_right (by simp [hturn])
        rw [postedWrite_of_take haa hw (.inr ((admitTurn_arrive ha 0 3).trans hturn)),
          takeWrite_sow data ((hbound fn).trans hb), hen, he, if_pos rfl, hxl, if_pos hlen]
    refine ⟨_, (exec_sowWrite l fn 15 data).trans (congrArg (fun e => Host.Outcome.next (settle s e)) hpost), ?_⟩
    exact (unflagged_setLink hu l _).upToMarks hq
  · have htake : takeWrite a l sow = some (setTen (bump a cntSOWDIS) fn { tenOf s fn with c0 := (tenOf s fn).c0 + 1 }) := by
      rw [takeWrite_sow data ((hbound fn).trans hb), hen, he, if_neg (by decide), hlinks]
      rfl
    have hne : sowEnters a l sow = false := by simp [sowEnters, hen, he, sow]
    exact ⟨_, exec_rwr_taken ha hw (.inl hne) htake, (unflagged_lands (unflagged_setTen (unflagged_bump hu _) _ _) l).upToMarks hq⟩
  · have hne : sowEnters a l { fn := fn, off := 0, be := be, data := data } = false := by
      have : ¬ be = 15#4 := hbe
      simp [sowEnters, this]
    refine ⟨_, exec_rwr_taken ha hw (.inl hne) (takeWrite_sowBad be data ((hbound fn).trans hb) hbe), ?_⟩
    exact (gathers_lands (((hg.trans (gathers_bump _ _)).trans (gathers_bump _ _)).trans (gathers_accessError _ _ _ _ _)) l).closed hq
  · intro k hl
    have hne : off ≠ 0 := by
      rintro rfl
      simp at ho
    have htake := takeWrite_word be data ((hbound fn).trans hb) ho
    rw [shadowMerge_eq] at htake
    have hx : (let x := pageHl fn.toNat off.toNat &&& ~~~(featOff a k) &&& beMask be
        if x = 0 then a else { setShadow a k ((shadowAt a k &&& ~~~x) ||| (data &&& x)) with hl := { a.hl with dirty := true } }) =
        if hl = 0 then a else { setShadow a k ((shadowAt s k &&& ~~~hl) ||| (data &&& hl)) with hl := { s.hl with dirty := true } } := by
      rw [hlinks]
      rfl
    rw [hx] at htake
    refine ⟨_, exec_rwr_taken ha hw (.inl (sowEnters_of_off hne)) htake, (unflagged_lands ?_ l).upToMarks hq⟩
    split
    · exact hu
    · exact ⟨⟨hu.pw, hu.live, hu.im, hu.lean, hu.jobs, hu.orphan⟩, hu.hsAcc⟩
  · refine ⟨_, (exec_rwr l fn off be data m).trans
      (congrArg (fun e => Host.Outcome.next (settle s e)) (postedWrite_behind haa hw _)), ?_⟩
    exact (unflagged_setLink hu l _).upToMarks hq
  · intro b q
    have hab : arrives (arrive s l 1 2) l := arrives_arrive ha 1 2
    have hlb : arrive s l 1 2 = { s with links := (arrive s l 1 2).links } := arrive_eq_links s l 1 2
    have hcpl : (linkOf b l).ll.cplQ = r.ll.cplQ ∧ (linkOf b l).ll.replay = r.ll.replay := by
      obtain ⟨hb1, hb2⟩ := linkOf_lands_queues (arrive s l 1 2) l 1 2
      obtain ⟨ha1, ha2⟩ := arrive_queues ha 1 2
      obtain ⟨hr1, hr2⟩ := arrive_queues ha 0 3
      exact ⟨(hb1.trans ha1).trans hr1.symm, (hb2.trans ha2).trans hr2.symm⟩
    have hexec : exec (.rrd l fn off rtag false) s = .next (settle s (if nextClass q l = some .cpl then sendWaitingCpl q l else q)) := by
      have hbound' : bound (arrive s l 1 2) l fn = true := by
        rw [hlb]
        exact hb
      have hread : pageRead (arrive s l 1 2) fn off.toNat = pageRead s fn off.toNat := by
        rw [hlb]
        rfl
      have heff : rrd (arrive s l 1 2) l fn off rtag false = if nextClass q l = some .cpl then sendWaitingCpl q l else q := by
        rw [rrd_of_page rtag hab hbound' hex, hread]
        exact sendCpl_of_cplQ hcpl.1 rfl fn rtag 0 _
      exact congrArg (fun e => Host.Outcome.next (settle s e)) heff
    refine ⟨_, hexec, fun hn => ?_, fun hn hc => ?_⟩
    · rw [if_neg hn]
      exact (unflagged_setLink (unflagged_setLink (unflagged_arrive s l 1 2) l _) l _).upToMarks hq
    · rw [if_pos hn, linkOf_settle]
      have hone : (linkOf q l).ll.cplQ = [put fn.toNat 0 :: cplBody rtag 0 (some (pageRead s fn off.toNat))] := by
        rw [linkOf_setLink_self, hc]
        rfl
      obtain ⟨h1, p, h2, h3⟩ := sendWaitingCpl_of_one hone
      have hql : linkOf q l = { linkOf b l with ll := { (linkOf b l).ll with
          cplQ := r.ll.cplQ ++ [put fn.toNat 0 :: cplBody rtag 0 (some (pageRead s fn off.toNat))] } } := linkOf_setLink_self _ _ _
      rw [hql] at h2 h3
      exact ⟨h1, p, h2.trans (congrArg (· ++ [p]) hcpl.2), h3.trans (buildTlp_cplQ _ _ _ _ _ _ _)⟩
  · have hne : sowEnters a l { fn := fn, off := off, be := be, data := data } = false := by simp [sowEnters, hbound, hb]
    refine ⟨_, exec_rwr_taken ha hw (.inl hne) (takeWrite_unbound off be data ((hbound fn).trans hb)), ?_⟩
    exact (gathers_lands ((hg.trans (gathers_bump _ _)).trans (gathers_accessError _ _ _ _ _)) l).closed hq
  · refine ⟨_, exec_rwr_taken ha hw (.inl (by simp [sowEnters])) (takeWrite_malformed rfl), ?_⟩
    exact (unflagged_lands (unflagged_setLink hu l _) l).upToMarks hq
  · have hop : operating s = true := decide_eq_true ha.1
    have hsow := sowEnters_of_enabled (l := l) data hb he
    let u := setXl s { s.xl with qIn := s.xl.qIn ++ [ev], lastAdmit := l }
    have hadmit : sowAdmit s l = drainWait (lands l (setWait u l rest)) l rest.length := by
      unfold sowAdmit
      dsimp only
      rw [hop, if_pos rfl, hw]
      dsimp only
      rw [hsow, if_neg (by decide), if_pos ht, takeWrite_sow data hb, he, if_pos rfl, if_neg (by omega)]
      rfl
    refine ⟨settle s (sowAdmit s l), rfl, ?_, ?_, fun hrest => ?_⟩
    · rw [settle_xl_qIn, hadmit, (drainWait_qIn _ _ _).1]
      rfl
    · rw [settle_xl_lastAdmit, hadmit, (drainWait_qIn _ _ _).2]
      rfl
    · subst hrest
      rw [hadmit]
      exact (unflagged_lands (unflagged_setLink (unflagged_xl (unflagged_refl s) _) _ _) l).upToMarks hq

end Sys2Proof.Machine
end

section
/-!
PROOFS. Chapter 07: invalidations, their service, and SYNC (O38).
-/
namespace Sys2Proof.Machine
open Sys2Proof.Safety Sys2Proof.Claims

variable {s e : State} {l : Link}

/-! ## Requests -/

theorem exec_hostWrite_taken {fn : Tenant} {off : BitVec 12} {be : BE} {data : Word} (h : arrives s l) (hoff : off ≠ 0)
    (hw : (linkOf s l).ll.vpWait = []) (hb : bound s l fn = true) (hx : pageExists fn.toNat off.toNat = true)
    (ht : applyWrite (arrive s l 0 3) l { fn := fn, off := off, be := be, data := data } = some e) :
    settle s (hostWrite s l fn off be data) = settle s (lands l e) := by
  have hb' : bound (arrive s l 0 3) l fn = true := by
    rw [arrive_eq_links]
    exact hb
  have htake : takeWrite (arrive s l 0 3) l { fn := fn, off := off, be := be, data := data } = some e := by
    have : ¬ off = 0#12 := hoff
    simpa [takeWrite, decodeWrite, hb', hx, this] using ht
  unfold hostWrite
  rw [postedWrite_of_take (arrives_arrive h 0 3) ((arrive_vpWait h 0 3 l).trans hw) (.inl (sowEnters_of_off hoff)), htake]

theorem invRequest_eq_some {fn : Tenant} {be : BE} {data : Word} {q : InvReq} (h : invRequest s fn be data = some q) :
    q.tenant = (if fn = 0 then data.extractLsb' 8 8 else fn) ∧ q.scope = data.setWidth 4 ∧ q.scope.toNat ≤ 4 := by
  simp only [invRequest, Option.ite_none_left_eq_some, Option.some.injEq] at h
  obtain ⟨hc, -, rfl⟩ := h
  simp only [Bool.or_eq_true, decide_eq_true_eq, not_or, not_lt] at hc
  exact ⟨rfl, rfl, hc.2⟩

/-! ## What an invalidation expires (R166) -/

/-- The copy of an extended INTID in scope expires. -/
def expireCopy (born : Nat) (c : Scope) (s : State) (k : Nat) : State :=
  match (intOf s k).copy with
  | some x => if inRanges c.ext (keyIntid k) then
      setInt s k { intOf s k with copy := some { x with expired := true, kept := false, invBorn := some born } }
    else s
  | none => s

/-- The two caches without the entries in scope, and the walks in scope marked. -/
def underScope (s : State) (c : Scope) : State :=
  setXl s { s.xl with
    tcache := s.xl.tcache.filter fun t => !c.key t.e,
    xcache := s.xl.xcache.filter fun x => !inRanges c.ext x.intid,
    walks := s.xl.walks.map (scopeWalk c) }

theorem applyScope_eq (s : State) (born : Nat) (c : Scope) : applyScope s born c =
    foldS (fun s p => expireCopy born c s p.1) (underScope s c) (s.irq.ints.filter fun p => 8192 + 16384 ≤ p.1) := rfl

/-- What every step of an expiry keeps: all but the copies of INTIDs in scope. -/
structure Expiring (c : Scope) (b e : State) : Prop where
  irq : ∃ q, e = { b with irq := { b.irq with ints := q } }
  st : ∀ k, (intOf e k).st = (intOf b k).st
  offer : ∀ k, (intOf e k).offer = (intOf b k).offer
  out : ∀ k, inRanges c.ext (keyIntid k) = false → intOf e k = intOf b k

theorem expiring_refl (c : Scope) (b : State) : Expiring c b b := ⟨⟨_, rfl⟩, fun _ => rfl, fun _ => rfl, fun _ _ => rfl⟩

theorem expireCopy_cases (born : Nat) (c : Scope) (s : State) (k : Nat) : expireCopy born c s k = s ∨
    ∃ x : XCopy, x.expired = true ∧ inRanges c.ext (keyIntid k) = true ∧
      expireCopy born c s k = setInt s k { intOf s k with copy := some x } := by
  unfold expireCopy
  split
  · split
    · next hr => exact .inr ⟨_, rfl, hr, rfl⟩
    · exact .inl rfl
  · exact .inl rfl

theorem Expiring.step {c : Scope} {b : State} (h : Expiring c b e) (born k : Nat) : Expiring c b (expireCopy born c e k) := by
  obtain he | ⟨x, -, hr, he⟩ := expireCopy_cases born c e k
  · rw [he]; exact h
  · obtain ⟨q, hq⟩ := h.irq
    rw [he]
    refine ⟨⟨_, by rw [hq]; rfl⟩, fun j => ?_, fun j => ?_, fun j hj => ?_⟩
    · rw [intOf_setInt]
      split
      · next hk => rw [hk]; exact h.st k
      · exact h.st j
    · rw [intOf_setInt]
      split
      · next hk => rw [hk]; exact h.offer k
      · exact h.offer j
    · have hk : j ≠ k := by
        rintro rfl
        rw [hr] at hj
        cases hj
      rw [intOf_setInt, if_neg hk]
      exact h.out j hj

/-- The copy of an INTID, if there is one, has expired. -/
def CopyExpired (s : State) (k : Nat) : Prop := ∀ x, (intOf s k).copy = some x → x.expired = true

theorem copyExpired_step {c : Scope} {k : Nat} (h : CopyExpired s k) (born j : Nat) : CopyExpired (expireCopy born c s j) k := by
  obtain he | ⟨x, hx, -, he⟩ := expireCopy_cases born c s j
  · rw [he]; exact h
  · rw [he]
    intro y hy
    rw [intOf_setInt] at hy
    split at hy
    · cases hy; exact hx
    · exact h y hy

theorem copyExpired_self {c : Scope} {k : Nat} (hr : inRanges c.ext (keyIntid k) = true) (born : Nat) (s : State) :
    CopyExpired (expireCopy born c s k) k := by
  intro y hy
  unfold expireCopy at hy
  split at hy
  · rw [if_pos hr, intOf_setInt_self] at hy
    cases hy; rfl
  · next hn => rw [hn] at hy; cases hy

theorem copyExpired_fold {c : Scope} {k : Nat} (hr : inRanges c.ext (keyIntid k) = true) (born : Nat) (ps : List (Nat × IntRec))
    (s : State) (h : CopyExpired s k ∨ ∃ p ∈ ps, p.1 = k) : CopyExpired (foldS (fun s p => expireCopy born c s p.1) s ps) k := by
  induction ps generalizing s with
  | nil => exact h.resolve_right (by simp)
  | cons p ps ih =>
    rw [foldS_cons]
    refine ih _ ?_
    obtain h | ⟨q, hq, hk⟩ := h
    · exact .inl (copyExpired_step h born _)
    · obtain rfl | hq := List.mem_cons.1 hq
      · subst hk
        exact .inl (copyExpired_self hr born s)
      · exact .inr ⟨q, hq, hk⟩

theorem applyScope_expired {c : Scope} {k : Nat} (hk : 8192 + 16384 ≤ k) (hr : inRanges c.ext (keyIntid k) = true) (born : Nat)
    (s : State) : CopyExpired (applyScope s born c) k := by
  rw [applyScope_eq]
  refine copyExpired_fold hr born _ _ ?_
  by_cases hm : ∃ p ∈ s.irq.ints, p.1 = k
  · obtain ⟨p, hp, hpk⟩ := hm
    exact .inr ⟨p, List.mem_filter.2 ⟨hp, decide_eq_true (by omega)⟩, hpk⟩
  · refine .inl fun x hx => ?_
    have hnone : intOf s k = {} := tabGet_of_not_mem _ fun hk => hm (List.mem_map.1 hk)
    change (intOf s k).copy = some x at hx
    rw [hnone] at hx
    cases hx

theorem applyScope_expiring (s : State) (born : Nat) (c : Scope) : Expiring c (underScope s c) (applyScope s born c) := by
  rw [applyScope_eq]
  exact foldS_inv (Expiring c (underScope s c)) _ _ _ (expiring_refl c _) fun e p h => h.step born p.1

theorem drainInv_of_empty (h : ∀ m : Link, (linkOf s m).ll.vpWait = []) : drainInv s = s := by
  refine foldS_inv (· = s) _ _ s rfl fun t m ht => ?_
  rw [ht, h m]
  rfl

theorem applyWrite_inv (s : State) (l : Link) (fn : Tenant) (be : BE) (data : Word) :
    applyWrite s l { fn := fn, off := 0x48, be := be, data := data } = match invRequest s fn be data with
      | none => some (bump s cntINVBAD)
      | some q => if 32 ≤ s.xl.inv.length then none
        else some (setXl s { s.xl with inv := s.xl.inv ++ [q], serial := s.xl.serial + 1 }) := rfl

/-- The state after an invalidation has been served: its scope applied, and nothing that waited. -/
theorem settle_applyScope (hq : Quiet s) (born : Nat) (c : Scope) (rest : List InvReq) :
    UpToMarks (applyScope { s with xl := { s.xl with inv := rest } } born c)
      (settle s (applyScope { s with xl := { s.xl with inv := rest } } born c)) := by
  obtain ⟨q, hirq⟩ := (applyScope_expiring { s with xl := { s.xl with inv := rest } } born c).irq
  rw [hirq]
  exact Unflagged.upToMarks hq ⟨⟨rfl, rfl, rfl, rfl, rfl, rfl⟩, rfl⟩

theorem intOf_of_upToMarks (h : UpToMarks s e) (k : Nat) : intOf e k = intOf s k := by
  obtain ⟨m, rfl⟩ := h
  rfl

theorem scopeWalk_eq (c : Scope) (w : Walk) : scopeWalk c w =
    if (w.kind = .event ∧ c.key w.e = true) ∨ inRanges c.ext w.intid = true then { w with noFill := true }
    else if w.kind = .event ∧ w.intid = 0 then { w with invs := w.invs ++ c.ext } else w := by
  simp [scopeWalk]

theorem exec_invWrite {fn : Tenant} {be : BE} {data : Word} (h : arrives s l) (hw : (linkOf s l).ll.vpWait = [])
    (hb : bound s l fn = true) (ht : applyWrite (arrive s l 0 3) l { fn := fn, off := 0x48, be := be, data := data } = some e) :
    exec (.invWrite l fn be data) s = .next (settle s (lands l e)) :=
  congrArg Host.Outcome.next (exec_hostWrite_taken h (by decide) hw hb (by simp [pageExists, inWords]) ht)

theorem exec_syncWrite {fn : Tenant} {be : BE} {data : Word} (h : arrives s l) (hw : (linkOf s l).ll.vpWait = [])
    (hb : bound s l fn = true) : exec (.syncWrite l fn be data) s = .next (settle s (lands l (syncStore (arrive s l 0 3) fn be data))) :=
  congrArg Host.Outcome.next (exec_hostWrite_taken h (by decide) hw hb (by simp [pageExists, inWords]) rfl)

theorem exec_invalidationServe (hm : s.pw.mode = .operating ∨ s.pw.mode = .safe) (hp : s.xl.pend = []) {q : InvReq} {rest : List InvReq}
    (hi : s.xl.inv = q :: rest) : exec .invalidationServe s =
      .next (settle s (drainInv (applyScope { s with xl := { s.xl with inv := rest } } q.born (reqScope s q)))) := by
  have hop : (operating s || decide (s.pw.mode = .safe)) = true := by
    obtain h | h := hm <;> simp [operating, h]
  have heff : invalidationServe s = applyScope { s with xl := { s.xl with inv := rest } } q.born (reqScope s q) := by
    unfold invalidationServe
    rw [if_pos hop, hp, hi]
    rfl
  exact congrArg (fun e => Host.Outcome.next (settle s (drainInv e))) heff

/-- Settles O38. -/
theorem invalidations : Obligations.Invalidations := by
  intro s l fn be data hq a
  have hu : Unflagged s a := unflagged_arrive s l 0 3
  have hlinks : a = { s with links := a.links } := arrive_eq_links s l 0 3
  have hinv : invRequest a fn be data = invRequest s fn be data := by rw [hlinks]; rfl
  refine ⟨fun ha hw hb => ⟨fun q hi hlen => ?_, fun hi => ?_, fun hbe => ?_, fun hbe => ?_⟩, ⟨_, rfl, ?_⟩,
    fun q rest hm hp hi hw => ?_⟩
  · obtain ⟨ht, hs, hle⟩ := invRequest_eq_some hi
    have hlen' : ¬ 32 ≤ a.xl.inv.length := by
      rw [hlinks]
      exact Nat.not_le.2 hlen
    have happly : applyWrite a l { fn := fn, off := 0x48, be := be, data := data } =
        some { a with xl := { s.xl with inv := s.xl.inv ++ [q], serial := s.xl.serial + 1 } } := by
      rw [applyWrite_inv, hinv, hi]
      dsimp only
      rw [if_neg hlen', hlinks]
      rfl
    exact ⟨ht, hs, hle, _, exec_invWrite ha hw hb happly, (unflagged_lands (unflagged_xl hu _) l).upToMarks hq⟩
  · have happly : applyWrite a l { fn := fn, off := 0x48, be := be, data := data } = some (bump a cntINVBAD) := by
      rw [applyWrite_inv, hinv, hi]
    exact ⟨_, exec_invWrite ha hw hb happly, (unflagged_lands (unflagged_bump hu _) l).upToMarks hq⟩
  · have hstore : syncStore a fn be data = setTen a fn { tenOf s fn with
        token := data.setWidth 16, syncMark := s.xl.serial, syncDone := syncReady s fn s.xl.serial } := by
      rw [syncStore, if_pos hbe, hlinks]
      rfl
    refine ⟨_, exec_syncWrite ha hw hb, ?_⟩
    rw [hstore]
    exact (unflagged_lands (unflagged_setTen hu _ _) l).upToMarks hq
  · refine ⟨_, exec_syncWrite ha hw hb, ?_⟩
    rw [syncStore, if_neg hbe]
    exact (unflagged_lands hu l).upToMarks hq
  · have heff : syncDone s fn = if (tenOf s fn).syncDone = false ∧ syncReady s fn (tenOf s fn).syncMark = true
        then setTen s fn { tenOf s fn with syncDone := true } else s := by simp [syncDone]
    rw [heff]
    split
    · exact (unflagged_setTen (unflagged_refl s) _ _).upToMarks hq
    · exact (unflagged_refl s).upToMarks hq
  · intro c
    let b : State := { s with xl := { s.xl with inv := rest } }
    have hex := applyScope_expiring b q.born c
    have hexp (k : Nat) (hk : 8192 + 16384 ≤ k) (hr : inRanges c.ext (keyIntid k) = true) :=
      applyScope_expired hk hr q.born b
    have hup := settle_applyScope hq q.born c rest
    have hdrain : drainInv (applyScope b q.born c) = applyScope b q.born c := by
      refine drainInv_of_empty fun m => ?_
      obtain ⟨is, h⟩ := hex.irq
      rw [h]
      exact hw m
    refine ⟨_, exec_invalidationServe hm hp hi, ?_⟩
    rw [hdrain]
    have hint := intOf_of_upToMarks hup
    obtain ⟨m, ht⟩ := hup
    obtain ⟨is, h⟩ := hex.irq
    refine ⟨?_, ?_, ?_, ?_, fun k => ⟨?_, ?_, fun hk hr => ?_, fun hr => ?_⟩, ?_⟩
    · rw [ht, h]
      rfl
    · rw [ht, h]
      rfl
    · rw [ht, h]
      rfl
    · rw [ht, h]
      exact List.map_congr_left fun w _ => scopeWalk_eq c w
    · rw [hint]
      exact hex.st k
    · rw [hint]
      exact hex.offer k
    · rw [hint]
      exact hexp k hk hr
    · rw [hint]
      exact hex.out k hr
    · rw [ht, h]
      exact ⟨rfl, rfl, rfl, rfl⟩

end Sys2Proof.Machine
end

section
/-!
PROOFS. Chapter 09: what abandoning the walks of a tenant leaves of the INTIDs and of its links.
-/
namespace Sys2Proof.Machine

/-- The interrupt records, the links and the lanes are the same. -/
abbrev SameIrqLinks (s t : State) : Prop := t.irq = s.irq ∧ t.links = s.links ∧ t.lanes = s.lanes

theorem SameIrqLinks.trans {s t u : State} (h : SameIrqLinks s t) (g : SameIrqLinks t u) : SameIrqLinks s u :=
  ⟨g.1.trans h.1, g.2.1.trans h.2.1, g.2.2.trans h.2.2⟩

theorem foldS_irqLinks {α : Type} {f : State → α → State} (l : List α) (s : State) (h : ∀ s a, SameIrqLinks s (f s a)) :
    SameIrqLinks s (foldS f s l) := foldS_inv (SameIrqLinks s ·) f l s ⟨rfl, rfl, rfl⟩ fun t a g => g.trans (h t a)

@[simp] theorem setTen_irqLinks (s : State) (n : Tenant) (r : TenRec) : SameIrqLinks s (setTen s n r) := ⟨rfl, rfl, rfl⟩

@[simp] theorem bump_irqLinks (s : State) (off : Nat) : SameIrqLinks s (bump s off) := ⟨rfl, rfl, rfl⟩

@[simp] theorem bumpN_irqLinks (s : State) (off n : Nat) : SameIrqLinks s (bumpN s off n) := ⟨rfl, rfl, rfl⟩

@[simp] theorem house_irqLinks (s : State) (f : BitVec 16) : SameIrqLinks s (house s f) := ⟨rfl, rfl, rfl⟩

@[simp] theorem dropCount_irqLinks (s : State) (off : Nat) : SameIrqLinks s (dropCount s off) := ⟨rfl, rfl, rfl⟩

@[simp] theorem outSub_irqLinks (s : State) (n : Tenant) : SameIrqLinks s (outSub s n) := ⟨rfl, rfl, rfl⟩

@[simp] theorem queueEvt_irqLinks (s : State) (e : EvtRec) : SameIrqLinks s (queueEvt s e) := by
  unfold queueEvt
  split <;> simp [SameIrqLinks]

@[simp] theorem poolDrop_irqLinks (s : State) (n : Tenant) (l : Link) (i : Intid) (record : Option (BitVec 8)) : SameIrqLinks s (poolDrop s n l i record) := by
  unfold poolDrop
  split <;> simp [SameIrqLinks]

@[simp] theorem updWalks_irqLinks (s : State) (f : List Walk → List Walk) : SameIrqLinks s (updWalks s f) := ⟨rfl, rfl, rfl⟩

@[simp] theorem removeWalk_irqLinks (s : State) (tag : BitVec 6) : SameIrqLinks s (removeWalk s tag) := ⟨rfl, rfl, rfl⟩

@[simp] theorem putWalk_irqLinks (s : State) (w : Walk) : SameIrqLinks s (putWalk s w) := ⟨rfl, rfl, rfl⟩

@[simp] theorem markSpill_irqLinks (s : State) (n : Tenant) : SameIrqLinks s (markSpill s n) := ⟨rfl, rfl, rfl⟩

@[simp] theorem joinBlocked_irqLinks (s : State) (e : SowEvent) : SameIrqLinks s (joinBlocked s e) := ⟨rfl, rfl, rfl⟩

@[simp] theorem park_irqLinks (s : State) (e : SowEvent) : SameIrqLinks s (park s e) := by
  unfold park
  repeat' split
  all_goals simp [SameIrqLinks]

@[simp] theorem freeBlocked_irqLinks (s : State) (n : Tenant) : SameIrqLinks s (freeBlocked s n) := ⟨rfl, rfl, rfl⟩

@[simp] theorem leaveWalk_irqLinks (s : State) (w : Walk) : SameIrqLinks s (leaveWalk s w) := by
  unfold leaveWalk
  repeat' split
  all_goals simp [SameIrqLinks]

@[simp] theorem abandonWalk_irqLinks (s : State) (w : Walk) : SameIrqLinks s (abandonWalk s w) := by
  unfold abandonWalk
  split
  · exact (leaveWalk_irqLinks s w).trans (foldS_irqLinks _ _ fun _ _ => park_irqLinks _ _)
  · split
    · exact ⟨rfl, rfl, rfl⟩
    · exact (leaveWalk_irqLinks s w).trans (foldS_irqLinks _ _ fun _ _ => poolDrop_irqLinks _ _ _ _ _)
  · exact leaveWalk_irqLinks s w
  · exact ((leaveWalk_irqLinks s w).trans (markSpill_irqLinks _ _)).trans (foldS_irqLinks _ _ fun _ _ => poolDrop_irqLinks _ _ _ _ _)

@[simp] theorem abandonAll_irqLinks (s : State) (n : Tenant) : SameIrqLinks s (abandonAll s n) := by
  have h := foldS_irqLinks (f := abandonWalk) (liveWalks s n) s fun _ _ => abandonWalk_irqLinks _ _
  unfold abandonAll
  dsimp only
  split
  · exact h
  · exact h.trans (freeBlocked_irqLinks _ _)

@[simp] theorem tenantReset_irqLinks (s : State) (n : Tenant) : SameIrqLinks s (tenantReset s n) := by
  unfold tenantReset
  dsimp only
  repeat' split
  all_goals simp [SameIrqLinks]

end Sys2Proof.Machine
end

section
/-!
PROOFS. Chapter 09: resets of tenants, as they begin (O39).
-/
namespace Sys2Proof.Machine
open Sys2Proof.Safety Sys2Proof.Claims

variable {s e b u : State} {l : Link} {n : Tenant}

/-! ## The walks of one tenant touch its record only -/

/-- The records of the other tenants are the same. -/
def OthersSame (n : Tenant) (s t : State) : Prop := ∀ m, m ≠ n → tenOf t m = tenOf s m

theorem othersSame_of_tens (h : u.tens = s.tens) : OthersSame n s u := fun m _ => by unfold tenOf; rw [h]

theorem OthersSame.trans (h : OthersSame n s b) (g : OthersSame n b u) : OthersSame n s u := fun m hm => (g m hm).trans (h m hm)

theorem othersSame_setTen (s : State) (n : Tenant) (r : TenRec) : OthersSame n s (setTen s n r) := fun m hm => by
  rw [tenOf_setTen, if_neg hm]

theorem othersSame_fold {α : Type} {f : State → α → State} (xs : List α) (s : State) (h : ∀ s, ∀ a ∈ xs, OthersSame n s (f s a)) :
    OthersSame n s (foldS f s xs) := by
  induction xs generalizing s with
  | nil => exact fun _ _ => rfl
  | cons a xs ih =>
    rw [foldS_cons]
    exact (h s a (by simp)).trans (ih _ fun s b hb => h s b (List.mem_cons_of_mem _ hb))

theorem othersSame_park {ev : SowEvent} (h : ev.tenant = n) (s : State) : OthersSame n s (park s ev) := by
  subst h
  unfold park
  dsimp only
  split
  · exact othersSame_of_tens rfl
  · split
    · exact (othersSame_of_tens rfl).trans (othersSame_setTen (dropCount s cntBLOCKDROP) _ _)
    · exact othersSame_of_tens rfl

theorem othersSame_poolDrop (s : State) (n : Tenant) (l : Link) (i : Intid) : OthersSame n s (poolDrop s n l i none) :=
  (othersSame_of_tens rfl).trans (othersSame_setTen (dropCount s cntPOOLDROP) n _)

theorem othersSame_leaveWalk {w : Walk} (h : w.e.tenant = n) (s : State) : OthersSame n s (leaveWalk s w) := by
  subst h
  have hsub : OthersSame w.e.tenant s (if w.issued.isNone && isPost w && w.waits.isSome then outSub s w.e.tenant else s) := by
    split
    · exact othersSame_setTen s _ _
    · exact fun _ _ => rfl
  unfold leaveWalk
  dsimp only
  split <;> exact hsub.trans (othersSame_of_tens rfl)

theorem walkEvents_tenant {w : Walk} {ev : SowEvent} (h : ev ∈ walkEvents w) : ev.tenant = w.e.tenant := by
  simp only [walkEvents, List.mem_cons, List.mem_map] at h
  obtain rfl | ⟨_, _, rfl⟩ := h <;> rfl

theorem othersSame_abandonWalk {w : Walk} (h : w.e.tenant = n) (s : State) : OthersSame n s (abandonWalk s w) := by
  have hleave := othersSame_leaveWalk h s
  unfold abandonWalk
  split
  · exact hleave.trans (othersSame_fold _ _ fun t ev he => othersSame_park ((walkEvents_tenant he).trans h) t)
  · split
    · exact fun _ _ => rfl
    · refine hleave.trans (othersSame_fold _ _ fun t ev he => ?_)
      have hev := (walkEvents_tenant he).trans h
      rw [← hev]
      exact othersSame_poolDrop t _ _ _
  · exact hleave
  · refine (hleave.trans ?_).trans (othersSame_fold _ _ fun t p hp => ?_)
    · rw [h]
      exact othersSame_setTen _ n _
    · obtain ⟨j, -, rfl⟩ := List.mem_map.1 hp
      rw [← h]
      exact othersSame_poolDrop t _ _ _

theorem othersSame_freeBlocked (s : State) (m : Tenant) : OthersSame n s (freeBlocked s m) := othersSame_of_tens rfl

theorem mem_liveWalks {w : Walk} : w ∈ liveWalks s n ↔ w ∈ s.xl.walks ∧ w.e.tenant = n ∧ w.dead = false := by
  simp [liveWalks]

theorem othersSame_abandonAll (s : State) (n : Tenant) : OthersSame n s (abandonAll s n) := by
  have h : OthersSame n s (foldS abandonWalk s (liveWalks s n)) :=
    othersSame_fold _ _ fun t w hw => othersSame_abandonWalk (mem_liveWalks.1 hw).2.1 t
  unfold abandonAll
  dsimp only
  split
  · exact h
  · exact h.trans (othersSame_freeBlocked _ n)

/-! ## What is left of its walks (R201) -/

@[simp] theorem park_walks (s : State) (ev : SowEvent) : (park s ev).xl.walks = s.xl.walks := by
  unfold park
  dsimp only
  repeat' split
  all_goals rfl

theorem poolDrop_walks (s : State) (n : Tenant) (l : Link) (i : Intid) : (poolDrop s n l i none).xl.walks = s.xl.walks := rfl

/-- A walk that leaves its tag is gone, or dead under it. -/
theorem mem_leaveWalk {w v : Walk} (h : v ∈ (leaveWalk s w).xl.walks) : v.dead = true ∨ (v ∈ s.xl.walks ∧ v.tag ≠ w.tag) := by
  have hsub : (if w.issued.isNone && isPost w && w.waits.isSome then outSub s w.e.tenant else s).xl.walks = s.xl.walks := by
    split <;> rfl
  unfold leaveWalk at h
  dsimp only at h
  split at h
  · simp only [putWalk, updWalks, setXl, hsub, List.mem_map] at h
    obtain ⟨x, hx, rfl⟩ := h
    split
    · exact .inl rfl
    · next ht => exact .inr ⟨hx, ht⟩
  · simp only [removeWalk, updWalks, setXl, hsub, List.mem_filter, decide_eq_true_eq] at h
    exact .inr h

/-- An issued spill goes on. -/
def goesOn (w : Walk) : Prop := w.kind = .spill ∧ w.issued.isSome = true

theorem mem_abandonWalk {w v : Walk} (h : v ∈ (abandonWalk s w).xl.walks) :
    v.dead = true ∨ (v ∈ s.xl.walks ∧ (v = w → goesOn w)) := by
  have hleave : v ∈ (leaveWalk s w).xl.walks → v.dead = true ∨ (v ∈ s.xl.walks ∧ (v = w → goesOn w)) := fun hv =>
    (mem_leaveWalk hv).imp_right fun ⟨hm, ht⟩ => ⟨hm, fun he => absurd (congrArg Walk.tag he) ht⟩
  unfold abandonWalk at h
  split at h
  · refine hleave ?_
    rwa [foldS_keeps (fun x : State => x.xl.walks) _ _ _ fun t ev => park_walks t ev] at h
  · next hk =>
    split at h
    · next hi => exact .inr ⟨h, fun _ => ⟨hk, hi⟩⟩
    · refine hleave ?_
      rwa [foldS_keeps (fun x : State => x.xl.walks) _ _ _ fun t ev => poolDrop_walks t _ _ _] at h
  · exact hleave h
  · refine hleave ?_
    rwa [foldS_keeps (fun x : State => x.xl.walks) _ _ _ fun t p => poolDrop_walks t _ _ _] at h

theorem mem_abandonWalks (ws : List Walk) (s : State) {v : Walk} (h : v ∈ (foldS abandonWalk s ws).xl.walks) :
    v.dead = true ∨ (v ∈ s.xl.walks ∧ (v ∈ ws → goesOn v)) := by
  induction ws generalizing s with
  | nil => exact .inr ⟨h, fun hv => absurd hv (by simp)⟩
  | cons w ws ih =>
    rw [foldS_cons] at h
    obtain hd | ⟨hm, hw⟩ := ih _ h
    · exact .inl hd
    · refine (mem_abandonWalk hm).imp_right fun ⟨hs, he⟩ => ⟨hs, fun hv => ?_⟩
      obtain rfl | hv := List.mem_cons.1 hv
      · exact he rfl
      · exact hw hv

theorem mem_abandonAll {v : Walk} (h : v ∈ (abandonAll s n).xl.walks) (hn : v.e.tenant = n) : v.dead = true ∨ goesOn v := by
  have hfold : v ∈ (foldS abandonWalk s (liveWalks s n)).xl.walks := by
    unfold abandonAll at h
    dsimp only at h
    split at h <;> exact h
  cases hd : v.dead with
  | true => exact .inl rfl
  | false =>
    obtain hd' | ⟨hm, hw⟩ := mem_abandonWalks _ _ hfold
    · rw [hd] at hd'
      cases hd'
    · exact .inr (hw (mem_liveWalks.2 ⟨hm, hn, hd⟩))

/-! ## A reset begins (R206) -/

theorem tenantReset_of_pending (h : (tenOf s n).resetPend = true) : tenantReset s n = s := by simp [tenantReset, h]

theorem tenantReset_eq (h : (tenOf s n).resetPend = false) : tenantReset s n = freeBlocked (abandonAll
    (setTen s n { tenOf s n with resetPend := true, stepDue := (tenOf s n).quiesced }) n) n := by simp [tenantReset, h]

/-- A reset that has begun, with what it leaves of the tenant's events and walks. -/
theorem tenantReset_begins (h : (tenOf u n).resetPend = false) :
    resets (tenantReset u n) n = (true, (tenOf u n).quiesced) ∧ (∀ x ∈ (tenantReset u n).xl.blocked, x.e.tenant ≠ n) ∧
    (∀ w ∈ (tenantReset u n).xl.walks, w.e.tenant = n → w.dead = true ∨ goesOn w) ∧ OthersSame n u (tenantReset u n) := by
  rw [tenantReset_eq h]
  refine ⟨?_, fun x hx => ?_, fun w hw hn => mem_abandonAll hw hn, ?_⟩
  · rw [freeBlocked_resets, abandonAll_resets]
    simp [resets]
  · exact of_decide_eq_true (List.mem_filter.1 hx).2
  · exact ((othersSame_setTen u n _).trans (othersSame_abandonAll _ n)).trans (othersSame_freeBlocked _ n)

theorem resetBegun_of {x : State} (h : (tenOf u n).resetPend = false) (htens : u.tens = s.tens) (hirq : u.irq = s.irq)
    (hstill : u.pw = s.pw ∧ u.cfg.live = s.cfg.live ∧ u.cfg.im = s.cfg.im)
    (hx : x.pw = (tenantReset u n).pw ∧ x.cfg = (tenantReset u n).cfg ∧ x.irq = (tenantReset u n).irq ∧
      x.tens = (tenantReset u n).tens ∧ x.xl = (tenantReset u n).xl) : resetBegun s (settle s x) n := by
  obtain ⟨hpend, hblocked, hwalks, hothers⟩ := tenantReset_begins h
  obtain ⟨-, -, rpw, -, -, -, -, -, -, rlive, -, rim, -⟩ := tenantReset_still u n
  obtain ⟨hpw, hlive, him⟩ := hstill
  obtain ⟨xpw, xcfg, xirq, xtens, xxl⟩ := hx
  have hten (m : Tenant) : tenOf (settle s x) m = tenOf (tenantReset u n) m := by unfold tenOf; rw [settle_tens, xtens]
  have hpermit : permitS x = permitS s := by
    unfold permitS operating runEn holdCond regLive regImm liveAt imAt
    rw [xcfg, xpw, rpw, rlive, rim, hpw, hlive, him]
  have hxirq : x.irq = s.irq := (xirq.trans (tenantReset_irqLinks u n).1).trans hirq
  simp only [resets, Prod.mk.injEq] at hpend
  obtain ⟨hp, hd⟩ := hpend
  have hq : (tenOf u n).quiesced = (tenOf s n).quiesced := by unfold tenOf; rw [htens]
  refine ⟨?_, ?_, ?_, ?_, ?_, ?_, fun m hm => ?_, fun k hk => ?_, ?_, ?_, ?_⟩
  · rw [hten, hp]
  · rw [hten, hd, hq]
  · simp [tenMe, hten, hp]
  · simp [tenEnabled, hten, hp]
  · rw [settle_xl_blocked, xxl]
    exact hblocked
  · rw [settle_xl_walks, xxl]
    exact hwalks
  · rw [hten, hothers m hm]
    unfold tenOf
    rw [htens]
  · rw [(settle_aside_permit s x fun hp => hpermit.trans hp).ints k hk (.inl rfl)]
    unfold intOf
    rw [hxirq]
  · rw [settle_live, xcfg, rlive, hlive]
  · rw [settle_tgts, hxirq]
  · rw [settle_pw, xpw, rpw, hpw]

end Sys2Proof.Machine
end

section
/-!
PROOFS. Chapter 09: tenants that come to rest (O39).
-/
namespace Sys2Proof.Machine
open Sys2Proof.Safety Sys2Proof.Claims

variable {s e b u : State} {l : Link} {n : Tenant}

/-! ## One tenant is checked -/

/-- The tenant has come to rest and is not marked so yet (R204). -/
def dueRest (s : State) (m : Tenant) : Prop := tenMe s m = false ∧ (tenOf s m).outstanding = 0 ∧ (tenOf s m).quiesced = false

/-- Its record once it is marked. -/
def restedRec (s : State) (m : Tenant) : TenRec :=
  { tenOf s m with quiesced := true, stepDue := (tenOf s m).stepDue || (tenOf s m).resetPend }

/-- Its record once it has been checked. -/
def checkedRec (s : State) (m : Tenant) : TenRec :=
  if tenMe s m then { tenOf s m with quiesced := false }
  else if (tenOf s m).outstanding = 0 && !(tenOf s m).quiesced then restedRec s m else tenOf s m

theorem checkedRec_of_due (h : dueRest s n) : checkedRec s n = restedRec s n := by
  obtain ⟨hm, ho, hq⟩ := h
  simp [checkedRec, hm, ho, hq]

theorem checkedRec_of_not_due (h : ¬ dueRest s n) (hm : tenMe s n = false) : checkedRec s n = tenOf s n := by
  have : ((tenOf s n).outstanding = 0 && !(tenOf s n).quiesced) = false := by
    by_contra hc
    rw [Bool.not_eq_false, Bool.and_eq_true, decide_eq_true_eq, Bool.not_eq_true'] at hc
    exact h ⟨hm, hc⟩
  rw [checkedRec, if_neg (by simp [hm]), if_neg (by simp [this])]

/-- A check, by what the tenant is. -/
theorem quiesceCheck_of_due (h : dueRest s n) :
    quiesceCheck s n = house { setTen s n (restedRec s n) with quiesceLast := n } hQUIESCED := by
  obtain ⟨hm, ho, hq⟩ := h
  simp [quiesceCheck, hm, ho, hq, restedRec]

theorem quiesceCheck_of_me (h : tenMe s n = true) (hq : (tenOf s n).quiesced = true) :
    quiesceCheck s n = setTen s n { tenOf s n with quiesced := false } := by simp [quiesceCheck, h, hq]

theorem quiesceCheck_of_not (h : ¬ dueRest s n) (hq : tenMe s n = true → (tenOf s n).quiesced = false) : quiesceCheck s n = s := by
  cases hm : tenMe s n with
  | true => simp [quiesceCheck, hm, hq hm]
  | false =>
    have : ((tenOf s n).outstanding = 0 && !(tenOf s n).quiesced) = false := by
      by_contra hc
      rw [Bool.not_eq_false, Bool.and_eq_true, decide_eq_true_eq, Bool.not_eq_true'] at hc
      exact h ⟨hm, hc⟩
    unfold quiesceCheck
    dsimp only
    rw [if_neg (by simp [hm]), if_neg (by simp [this])]

theorem quiesceCheck_cases (s : State) (n : Tenant) :
    (dueRest s n ∧ quiesceCheck s n = house { setTen s n (restedRec s n) with quiesceLast := n } hQUIESCED) ∨
    (tenMe s n = true ∧ quiesceCheck s n = setTen s n { tenOf s n with quiesced := false }) ∨
    (¬ dueRest s n ∧ tenMe s n = false ∧ quiesceCheck s n = s) ∨
    (tenMe s n = true ∧ (tenOf s n).quiesced = false ∧ quiesceCheck s n = s) := by
  by_cases hd : dueRest s n
  · exact .inl ⟨hd, quiesceCheck_of_due hd⟩
  · cases hm : tenMe s n with
    | false => exact .inr (.inr (.inl ⟨hd, rfl, quiesceCheck_of_not hd (by simp [hm])⟩))
    | true =>
      cases hq : (tenOf s n).quiesced with
      | true => exact .inr (.inl ⟨rfl, quiesceCheck_of_me hm hq⟩)
      | false => exact .inr (.inr (.inr ⟨rfl, rfl, quiesceCheck_of_not hd fun _ => hq⟩))

theorem quiesceCheck_tenOf (s : State) (n m : Tenant) : tenOf (quiesceCheck s n) m = if m = n then checkedRec s n else tenOf s m := by
  obtain ⟨hd, he⟩ | ⟨hm, he⟩ | ⟨hd, hm, he⟩ | ⟨hm, hq, he⟩ := quiesceCheck_cases s n
  · rw [he, checkedRec_of_due hd]
    exact tenOf_setTen _ n m _
  · rw [he, checkedRec, if_pos hm]
    exact tenOf_setTen _ n m _
  · rw [he, checkedRec_of_not_due hd hm]
    split <;> simp_all
  · have : ({ tenOf s n with quiesced := false } : TenRec) = tenOf s n := by rw [← hq]
    rw [he, checkedRec, if_pos hm, this]
    split <;> simp_all

theorem quiesceCheck_live (s : State) (n : Tenant) : (quiesceCheck s n).cfg = s.cfg := by
  obtain ⟨-, he⟩ | ⟨-, he⟩ | ⟨-, -, he⟩ | ⟨-, -, he⟩ := quiesceCheck_cases s n <;> rw [he] <;> rfl

theorem tenMe_congr {x y : State} (hc : y.cfg = x.cfg) (h : (tenOf y n).resetPend = (tenOf x n).resetPend) : tenMe y n = tenMe x n := by
  simp only [tenMe, pageLive, liveAt, hc, h]

theorem checkedRec_resetPend (s : State) (n : Tenant) : (checkedRec s n).resetPend = (tenOf s n).resetPend := by
  unfold checkedRec
  repeat' split
  all_goals rfl

/-- A second check finds nothing. -/
theorem checkedRec_checked {t : State} (hc : t.cfg = s.cfg) (h : tenOf t n = checkedRec s n) : checkedRec t n = checkedRec s n := by
  have hme : tenMe t n = tenMe s n := tenMe_congr hc (by rw [h, checkedRec_resetPend])
  unfold checkedRec at h ⊢
  rw [hme]
  cases hm : tenMe s n with
  | true =>
    rw [hm, if_pos rfl] at h
    rw [if_pos rfl, if_pos rfl, h]
  | false =>
    rw [hm, if_neg Bool.false_ne_true] at h
    rw [if_neg Bool.false_ne_true, if_neg Bool.false_ne_true]
    split at h
    · next hq =>
      rw [if_pos hq, h]
      simp [restedRec]
    · next hq =>
      rw [h, if_neg hq, if_neg hq]

theorem checkedRec_congr {t : State} (hc : t.cfg = s.cfg) (h : tenOf t n = tenOf s n) : checkedRec t n = checkedRec s n := by
  unfold checkedRec restedRec
  rw [tenMe_congr hc (by rw [h]), h]

/-! ## All tenants are checked (R205) -/

/-- A run of checks. -/
def checks (s : State) (ps : List (Nat × TenRec)) : State := foldS (fun s p => quiesceCheck s (BitVec.ofNat 8 p.1)) s ps

theorem quiesceAll_eq (s : State) : quiesceAll s = checks s s.tens := rfl
theorem checks_nil (s : State) : checks s [] = s := rfl
theorem checks_cons (s : State) (p : Nat × TenRec) (ps : List (Nat × TenRec)) :
    checks s (p :: ps) = checks (quiesceCheck s (BitVec.ofNat 8 p.1)) ps := rfl
theorem checks_append (s : State) (ps qs : List (Nat × TenRec)) : checks s (ps ++ qs) = checks (checks s ps) qs :=
  List.foldl_append

/-- The records after a run of checks: those of the tenants in it are checked, the others as they were. -/
theorem checks_tenOf (ps : List (Nat × TenRec)) (s : State) :
    (checks s ps).cfg = s.cfg ∧
    ∀ m, tenOf (checks s ps) m =
      if ∃ p ∈ ps, BitVec.ofNat 8 p.1 = m then checkedRec s m else tenOf s m := by
  induction ps using List.reverseRecOn with
  | nil => exact ⟨rfl, fun m => by simp [checks_nil]⟩
  | append_singleton ps p ih =>
    obtain ⟨hc, hm⟩ := ih
    have hlast : checks s (ps ++ [p]) =
        quiesceCheck (checks s ps) (BitVec.ofNat 8 p.1) := by
      rw [checks_append, checks_cons, checks_nil]
    rw [hlast]
    generalize checks s ps = t at hc hm
    refine ⟨(quiesceCheck_live t _).trans hc, fun m => ?_⟩
    rw [quiesceCheck_tenOf]
    split
    · next he =>
      rw [if_pos ⟨p, by simp, he.symm⟩, ← he]
      have ht := hm m
      split at ht
      · exact checkedRec_checked hc ht
      · exact checkedRec_congr hc ht
    · next he =>
      rw [hm m]
      have hiff : (∃ q ∈ ps ++ [p], BitVec.ofNat 8 q.1 = m) ↔ ∃ q ∈ ps, BitVec.ofNat 8 q.1 = m := by
        simp [List.mem_append, or_and_right, exists_or, Ne.symm he]
      simp only [hiff]

/-- A tenant that is not to be marked is not to be marked after a check either. -/
theorem not_due_of_checked {t : State} {c : Prop} [Decidable c] (h : ¬ dueRest s n) (hc : t.cfg = s.cfg)
    (ht : tenOf t n = if c then checkedRec s n else tenOf s n) : ¬ dueRest t n := by
  have hme : tenMe t n = tenMe s n := tenMe_congr hc (by rw [ht]; split <;> simp [checkedRec_resetPend])
  intro hd
  obtain ⟨h1, h2, h3⟩ := hd
  rw [hme] at h1
  rw [ht, checkedRec_of_not_due h h1, ite_self] at h2 h3
  exact h ⟨h1, h2, h3⟩

/-- A tenant at rest that is not marked has a record of its own. -/
theorem mem_tens_of_due (h : dueRest s n) : ∃ r, (n.toNat, r) ∈ s.tens := by
  by_contra hno
  have hnone : tenOf s n = {} := tabGet_of_not_mem _ fun hk => by
    obtain ⟨p, hp, hpk⟩ := List.mem_map.1 hk
    exact hno ⟨p.2, by rw [← hpk]; exact hp⟩
  have hq := h.2.2
  rw [hnone] at hq
  cases hq

theorem quiesceAll_tenOf_of_due (h : dueRest s n) : tenOf (quiesceAll s) n = restedRec s n := by
  obtain ⟨r, hr⟩ := mem_tens_of_due h
  rw [quiesceAll_eq, (checks_tenOf s.tens s).2 n, if_pos ⟨_, hr, by simp⟩, checkedRec_of_due h]

theorem quiesceAll_tenOf_of_not (h : ¬ dueRest s n) (hm : tenMe s n = false) : tenOf (quiesceAll s) n = tenOf s n := by
  rw [quiesceAll_eq, (checks_tenOf s.tens s).2 n, checkedRec_of_not_due h hm, ite_self]

/-- With no other tenant to mark or to unmark, the tenant is all that changes. -/
theorem quiesceAll_of_alone (h : dueRest s n)
    (ho : ∀ m, m ≠ n → ¬ dueRest s m ∧ (tenMe s m = true → (tenOf s m).quiesced = false)) :
    quiesceAll s = house { setTen s n (restedRec s n) with quiesceLast := n } hQUIESCED := by
  set d := house { setTen s n (restedRec s n) with quiesceLast := n } hQUIESCED with hd
  have hten (m : Tenant) : tenOf d m = if m = n then restedRec s n else tenOf s m := tenOf_setTen _ n m _
  have hme (m : Tenant) : tenMe d m = tenMe s m := by
    refine tenMe_congr rfl ?_
    rw [hten]
    split
    · next he => rw [he]; rfl
    · rfl
  have hdone (m : Tenant) : quiesceCheck d m = d := by
    refine quiesceCheck_of_not (fun hdue => ?_) fun hm => ?_
    · obtain ⟨h1, h2, h3⟩ := hdue
      rw [hten] at h2 h3
      rw [hme] at h1
      split at h3
      · cases h3
      · next hne =>
        rw [if_neg hne] at h2
        exact (ho m hne).1 ⟨h1, h2, h3⟩
    · rw [hme] at hm
      have hne : m ≠ n := by
        rintro rfl
        rw [h.1] at hm
        cases hm
      rw [hten, if_neg hne]
      exact (ho m hne).2 hm
  have hrun (ps : List (Nat × TenRec)) : checks d ps = d :=
    foldS_inv (· = d) _ ps d rfl fun t p ht => by rw [ht, hdone]
  have hall (ps : List (Nat × TenRec)) (hm : ∃ p ∈ ps, BitVec.ofNat 8 p.1 = n) :
      checks s ps = d := by
    induction ps with
    | nil => simp at hm
    | cons p ps ih =>
      rw [checks_cons]
      by_cases hp : BitVec.ofNat 8 p.1 = n
      · rw [hp, quiesceCheck_of_due h, ← hd, hrun]
      · rw [quiesceCheck_of_not (ho _ hp).1 (ho _ hp).2]
        obtain ⟨q, hq, hqn⟩ := hm
        obtain rfl | hq := List.mem_cons.1 hq
        · exact absurd hqn hp
        · exact ih ⟨q, hq, hqn⟩
  obtain ⟨r, hr⟩ := mem_tens_of_due h
  exact hall s.tens ⟨_, hr, by simp⟩

/-- What the checks gather: QUIESCED or nothing. -/
def Marks (s t : State) : Prop :=
  t.cfg = s.cfg ∧ t.pw = s.pw ∧ t.nv = s.nv ∧ t.sqAcc = s.sqAcc ∧ (t.hsAcc = s.hsAcc ∨ t.hsAcc = s.hsAcc ||| hQUIESCED)

theorem marks_quiesceCheck (s : State) (n : Tenant) : Marks s (quiesceCheck s n) := by
  obtain ⟨-, he⟩ | ⟨-, he⟩ | ⟨-, -, he⟩ | ⟨-, -, he⟩ := quiesceCheck_cases s n <;> rw [he]
  · exact ⟨rfl, rfl, rfl, rfl, .inr rfl⟩
  all_goals exact ⟨rfl, rfl, rfl, rfl, .inl rfl⟩

theorem Marks.trans (h : Marks s b) (g : Marks b u) : Marks s u := by
  obtain ⟨h1, h2, h3, h4, h5⟩ := h
  obtain ⟨g1, g2, g3, g4, g5⟩ := g
  refine ⟨g1.trans h1, g2.trans h2, g3.trans h3, g4.trans h4, ?_⟩
  obtain h5 | h5 := h5 <;> obtain g5 | g5 := g5 <;> rw [g5, h5]
  · exact .inl rfl
  · exact .inr rfl
  · exact .inr rfl
  · exact .inr (by rw [BitVec.or_assoc, BitVec.or_self])

theorem marks_checks (ps : List (Nat × TenRec)) (s : State) :
    Marks s (checks s ps) :=
  foldS_inv (Marks s) _ _ _ ⟨rfl, rfl, rfl, rfl, .inl rfl⟩ fun t _ h => h.trans (marks_quiesceCheck t _)

/-- With the records in their order, the highest-numbered tenant that is marked stands last. -/
theorem quiesceAll_last (h : dueRest s n) (hq : s.hsAcc = 0) (hle : ∀ m, dueRest s m → m.toNat ≤ n.toNat)
    (hwf : tabWf (fun _ => ({} : TenRec)) s.tens = true) (hlt : ∀ p ∈ s.tens, p.1 < 256) :
    (quiesceAll s).quiesceLast = n ∧ (quiesceAll s).hsAcc = hQUIESCED := by
  obtain ⟨r, hr⟩ := mem_tens_of_due h
  obtain ⟨ps, qs, hps⟩ := List.append_of_mem hr
  obtain ⟨-, hsort⟩ := (tabWf_iff _ _).1 hwf
  rw [hps] at hsort hlt
  have hbefore : ∀ p ∈ ps, BitVec.ofNat 8 p.1 ≠ n := fun p hp he => by
    have h1 := (List.pairwise_append.1 hsort).2.2 p hp _ List.mem_cons_self
    have h2 : (BitVec.ofNat 8 p.1).toNat = p.1 := Nat.mod_eq_of_lt (hlt p (by simp [hp]))
    rw [he] at h2
    dsimp only at h1
    omega
  have hafter : ∀ p ∈ qs, ¬ dueRest s (BitVec.ofNat 8 p.1) := fun p hp hd => by
    have h1 := (List.pairwise_cons.1 (List.pairwise_append.1 hsort).2.1).1 p hp
    have h2 : (BitVec.ofNat 8 p.1).toNat = p.1 := Nat.mod_eq_of_lt (hlt p (by simp [hp]))
    have h3 := hle _ hd
    dsimp only at h1
    omega
  have hrun (xs : List (Nat × TenRec)) (hxs : ∀ p ∈ xs, ¬ dueRest s (BitVec.ofNat 8 p.1)) :
      (checks s (ps ++ (n.toNat, r) :: xs)).quiesceLast = n ∧ (checks s (ps ++ (n.toNat, r) :: xs)).hsAcc = hQUIESCED := by
    induction xs using List.reverseRecOn with
    | nil =>
      rw [checks_append, checks_cons, checks_nil]
      obtain ⟨hc, hm⟩ := checks_tenOf ps s
      have hn : tenOf (checks s ps) n = tenOf s n := (hm n).trans (if_neg fun ⟨p, hp, he⟩ => hbefore p hp he)
      have hd : dueRest (checks s ps) n := by
        rw [dueRest, tenMe_congr hc (congrArg _ hn), hn]
        exact h
      obtain ⟨-, -, -, -, hflags⟩ := marks_checks ps s
      have hself : BitVec.ofNat 8 n.toNat = n := by simp
      dsimp only
      rw [hself, quiesceCheck_of_due hd]
      refine ⟨rfl, ?_⟩
      change (checks s ps).hsAcc ||| hQUIESCED = hQUIESCED
      obtain hf | hf := hflags <;> rw [show (checks s ps).hsAcc = _ from hf, hq]
      · exact BitVec.zero_or
      · rfl
    | append_singleton xs p ih =>
      obtain ⟨hl, hf⟩ := ih fun q hq => hxs q (by simp [hq])
      have hlast : checks s (ps ++ (n.toNat, r) :: (xs ++ [p])) =
          quiesceCheck (checks s (ps ++ (n.toNat, r) :: xs)) (BitVec.ofNat 8 p.1) := by
        rw [← List.cons_append, ← List.append_assoc, checks_append, checks_cons, checks_nil]
      obtain ⟨hc, hm⟩ := checks_tenOf (ps ++ (n.toNat, r) :: xs) s
      have hnd := not_due_of_checked (hxs p (by simp)) hc (hm _)
      rw [hlast]
      obtain ⟨hd, -⟩ | ⟨-, he⟩ | ⟨-, -, he⟩ | ⟨-, -, he⟩ :=
        quiesceCheck_cases (checks s (ps ++ (n.toNat, r) :: xs)) (BitVec.ofNat 8 p.1)
      · exact absurd hd hnd
      all_goals
        rw [he]
        exact ⟨hl, hf⟩
  have hall := hrun qs hafter
  rwa [← hps] at hall

end Sys2Proof.Machine
end

section
/-!
PROOFS. Chapter 09: the 2 ms limit of a tenant's reset (O39).
-/
namespace Sys2Proof.Machine
open Sys2Proof.Safety Sys2Proof.Claims

variable {s e b u : State} {l : Link} {n : Tenant}

/-- The resets, the interrupt records and the count of forced resets are the same. -/
structure Forcing (s t : State) : Prop where
  resets : resets t = resets s
  irq : t.irq = s.irq
  cnt : cntOf t cntRSTFORCED = cntOf s cntRSTFORCED

theorem forcing_refl (s : State) : Forcing s s := ⟨rfl, rfl, rfl⟩
theorem Forcing.trans (h : Forcing s b) (g : Forcing b u) : Forcing s u :=
  ⟨g.resets.trans h.resets, g.irq.trans h.irq, g.cnt.trans h.cnt⟩

theorem forcing_poolDrop (s : State) (n : Tenant) (l : Link) (i : Intid) : Forcing s (poolDrop s n l i none) := by
  refine ⟨poolDrop_resets _ _ _ _ _, (poolDrop_irqLinks _ _ _ _ _).1, ?_⟩
  exact (cntOf_bump _ cntPOOLDROP cntRSTFORCED).trans (if_neg (by decide))

theorem forcing_removeWalk (s : State) (t : BitVec 6) : Forcing s (removeWalk s t) := ⟨rfl, rfl, rfl⟩

/-- A queued write of the walker is dropped, and a spilled event goes with it. -/
def dropPosted (s : State) (q : VcTlp) : State :=
  match walkAt s q.tag with
  | some w =>
    if w.kind = .spill then foldS (fun s e => poolDrop s e.tenant e.link w.intid none) (removeWalk s q.tag) (walkEvents w)
    else removeWalk s q.tag
  | none => s

theorem dropPosted_forcing (s : State) (q : VcTlp) : Forcing s (dropPosted s q) ∧ (dropPosted s q).links = s.links := by
  unfold dropPosted
  split
  · next w _ =>
    split
    · exact foldS_inv (fun t => Forcing s t ∧ t.links = s.links) _ _ _ ⟨forcing_removeWalk s _, rfl⟩ fun t ev h =>
        ⟨h.1.trans (forcing_poolDrop t _ _ _), (poolDrop_irqLinks _ _ _ _ _).2.1.trans h.2⟩
    · exact ⟨forcing_removeWalk s _, rfl⟩
  · exact ⟨forcing_refl s, rfl⟩

/-- The link without the tenant's posted writes in its VC-P queue. -/
def purged (n : Tenant) (r : LinkRec) : LinkRec := { r with ll := { r.ll with vpQ := r.ll.vpQ.filter fun q => q.fn ≠ n } }

theorem dropQueued_forcing (n : Tenant) (s : State) (l : Link) :
    Forcing s (dropQueued n s l) ∧ (dropQueued n s l).links = (setLink s l (purged n (linkOf s l))).links := by
  have hstart : Forcing s (setLink s l (purged n (linkOf s l))) := ⟨rfl, rfl, rfl⟩
  have hfold := foldS_inv (fun t => Forcing s t ∧ t.links = (setLink s l (purged n (linkOf s l))).links) dropPosted
    ((linkOf s l).ll.vpQ.filter fun q => q.fn = n) _ ⟨hstart, rfl⟩ fun t q h =>
      ⟨h.1.trans (dropPosted_forcing t q).1, (dropPosted_forcing t q).2.trans h.2⟩
  exact hfold

theorem linkOf_dropQueued (n : Tenant) (s : State) (l m : Link) :
    linkOf (dropQueued n s l) m = if m = l then purged n (linkOf s l) else linkOf s m := by
  unfold linkOf
  rw [(dropQueued_forcing n s l).2]
  exact linkOf_setLink _ l m _

/-- Every link of a list has lost the tenant's posted writes, and nothing else. -/
theorem linkOf_dropAll (n : Tenant) (ls : List Link) (s : State) (m : Link) :
    linkOf (foldS (dropQueued n) s ls) m = linkOf s m ∧ m ∉ ls ∨ linkOf (foldS (dropQueued n) s ls) m = purged n (linkOf s m) := by
  induction ls generalizing s with
  | nil => exact .inl ⟨rfl, by simp⟩
  | cons l ls ih =>
    rw [foldS_cons]
    by_cases hm : m = l
    · subst hm
      refine .inr ?_
      obtain ⟨h, -⟩ | h := ih (dropQueued n s m) <;> rw [h, linkOf_dropQueued, if_pos rfl]
      simp [purged]
    · have h := ih (dropQueued n s l)
      rw [linkOf_dropQueued, if_neg hm] at h
      exact h.imp_left fun ⟨h1, h2⟩ => ⟨h1, by simp [hm, h2]⟩

theorem mem_allLinks (m : Link) : m ∈ allLinks := by
  revert m
  decide

theorem dropAll_forcing (n : Tenant) (s : State) : Forcing s (foldS (dropQueued n) s allLinks) :=
  foldS_inv (Forcing s) _ _ _ (forcing_refl s) fun t l h => h.trans (dropQueued_forcing n t l).1

theorem forcing_bump (s : State) {off : Nat} (h : cntRSTFORCED ≠ off) : Forcing s (bump s off) :=
  ⟨resets_of_tens rfl, rfl, (cntOf_bump _ off cntRSTFORCED).trans (if_neg h)⟩

theorem forcing_queueEvt (s : State) (ev : EvtRec) : Forcing s (queueEvt s ev) := by
  unfold queueEvt
  split
  · have h := forcing_bump s (off := cntEVTDROP) (by decide)
    exact ⟨h.resets, h.irq, h.cnt⟩
  · exact ⟨resets_of_tens rfl, rfl, rfl⟩

theorem forcing_loss (s : State) (n : Tenant) : Forcing s (setTen s n { tenOf s n with loss := satInc8 (tenOf s n).loss }) :=
  ⟨resets_setTen _ _ _ rfl rfl, rfl, rfl⟩

theorem dropRecords_forcing (s : State) (n : Tenant) : Forcing s (dropRecords s n) ∧ (dropRecords s n).links = s.links := by
  have hlose (f : FltRec) : Forcing s (loseFault (popFlt s) n f.link) ∧ (loseFault (popFlt s) n f.link).links = s.links := by
    have hbump : Forcing s (bump (popFlt s) cntFAULTLOST) :=
      ⟨resets_of_tens rfl, rfl, (forcing_bump (popFlt s) (by decide)).cnt⟩
    exact ⟨(hbump.trans (forcing_loss _ n)).trans (forcing_queueEvt _ _), (queueEvt_irqLinks _ _).2.1⟩
  have hevt (t : State) : Forcing t (bump (popEvt t) cntEVTLOST) ∧ (bump (popEvt t) cntEVTLOST).links = t.links :=
    ⟨⟨rfl, rfl, (cntOf_bump _ cntEVTLOST cntRSTFORCED).trans (if_neg (by decide))⟩, rfl⟩
  have hfirst : ∃ t, (Forcing s t ∧ t.links = s.links) ∧
      dropRecords s n = if n = 0 && t.xl.evtVc.isSome then bump (popEvt t) cntEVTLOST else t := by
    refine ⟨_, ?_, rfl⟩
    split
    · split
      · exact hlose _
      · exact ⟨forcing_refl s, rfl⟩
    · exact ⟨forcing_refl s, rfl⟩
  obtain ⟨t, ht, he⟩ := hfirst
  rw [he]
  split
  · exact ⟨ht.1.trans (hevt t).1, (hevt t).2.trans ht.2⟩
  · exact ht

theorem resetForced_of_not (h : (tenOf s n).resetPend = false ∨ (tenOf s n).stepDue = true) : resetForced s n = s := by
  obtain h | h := h <;> simp [resetForced, h]

theorem resetForced_eq (h1 : (tenOf s n).resetPend = true) (h2 : (tenOf s n).stepDue = false) :
    let d := dropRecords (foldS (dropQueued n) (bump s cntRSTFORCED) allLinks) n
    resetForced s n = setTen (updWalks d fun ws => ws.map fun w => if w.e.tenant = n then { w with forced := true } else w) n
      { tenOf d n with outstanding := 0, stepDue := true } := by
  simp only [resetForced, h1, h2]
  rfl

/-- A settled command that leaves the modes alone keeps every INTID that is no house source's. -/
theorem intOf_settle_of_still {x : State} (hpw : x.pw = s.pw) (hlive : x.cfg.live = s.cfg.live) (him : x.cfg.im = s.cfg.im)
    {k : Nat} (hk : houseKey k = false) : intOf (settle s x) k = intOf x k := by
  have hpermit : permitS x = permitS s := by
    unfold permitS operating runEn holdCond regLive regImm liveAt imAt
    rw [hpw, hlive, him]
  exact (settle_aside_permit s x fun hp => hpermit.trans hp).ints k hk (.inl rfl)

/-- What the 2 ms limit does to a reset that is pending (R207). -/
theorem resetForced_pending (h1 : (tenOf s n).resetPend = true) (h2 : (tenOf s n).stepDue = false) (t : State)
    (ht : t = settle s (resetForced s n)) :
    (tenOf t n).outstanding = 0 ∧ (tenOf t n).stepDue = true ∧ (tenOf t n).resetPend = true ∧
    cntOf t cntRSTFORCED = cntOf s cntRSTFORCED + 1 ∧ (∀ m, ∀ q ∈ (linkOf t m).ll.vpQ, q.fn ≠ n) ∧
    (∀ m, (linkOf t m).ll.vnQ = (linkOf s m).ll.vnQ ∧ (linkOf t m).ll.replay = (linkOf s m).ll.replay) ∧
    (∀ k, houseKey k = false → intOf t k = intOf s k) ∧ t.cfg.live = s.cfg.live ∧ t.irq.tgts = s.irq.tgts := by
  obtain ⟨-, -, rpw, -, -, -, -, -, -, rlive, -, rim, -⟩ := resetForced_still s n
  have hcount : cntOf (bump s cntRSTFORCED) cntRSTFORCED = cntOf s cntRSTFORCED + 1 := (cntOf_bump _ _ _).trans (if_pos rfl)
  obtain ⟨hf, hl⟩ := dropRecords_forcing (foldS (dropQueued n) (bump s cntRSTFORCED) allLinks) n
  have hforce := (dropAll_forcing n (bump s cntRSTFORCED)).trans hf
  have heq := resetForced_eq h1 h2
  set d := dropRecords (foldS (dropQueued n) (bump s cntRSTFORCED) allLinks) n with hd
  have hirq : (resetForced s n).irq = s.irq := by rw [heq]; exact hforce.irq
  have hlinks (m : Link) : linkOf t m = purged n (linkOf s m) := by
    have hm := (linkOf_dropAll n allLinks (bump s cntRSTFORCED) m).resolve_left fun h => h.2 (mem_allLinks m)
    have : linkOf t m = linkOf (foldS (dropQueued n) (bump s cntRSTFORCED) allLinks) m := by
      rw [ht, linkOf_settle, heq]
      unfold linkOf
      rw [← hl]
      rfl
    rw [this, hm]
    rfl
  have hten : tenOf t n = { tenOf d n with outstanding := 0, stepDue := true } := by
    rw [ht, heq]
    unfold tenOf
    rw [settle_tens]
    exact tenOf_setTen_self _ n _
  have hpend : (tenOf d n).resetPend = true := by
    have := congrFun hforce.resets n
    simp only [resets, Prod.mk.injEq] at this
    rw [this.1]
    exact h1
  refine ⟨?_, ?_, ?_, ?_, fun m q hq => ?_, fun m => ?_, fun k hk => ?_, ?_, ?_⟩
  · rw [hten]
  · rw [hten]
  · rw [hten]
    exact hpend
  · rw [ht, (settle_aside s _).cnt _ (by decide), heq]
    exact hforce.cnt.trans hcount
  · rw [hlinks] at hq
    exact of_decide_eq_true (List.mem_filter.1 hq).2
  · rw [hlinks]
    exact ⟨rfl, rfl⟩
  · rw [ht, intOf_settle_of_still rpw rlive rim hk]
    unfold intOf
    rw [hirq]
  · rw [ht, settle_live, rlive]
  · rw [ht, settle_tgts, hirq]

end Sys2Proof.Machine
end

section
/-!
PROOFS. Chapters 05 and 09: the steps of a commit leave the resets of tenants alone.
-/
namespace Sys2Proof.Machine

@[simp] theorem resets_allot (s : State) (x : Allot) : resets { s with allot := x } = resets s := rfl
@[simp] theorem resets_irq (s : State) (x : Irq) : resets { s with irq := x } = resets s := rfl
@[simp] theorem resets_xl (s : State) (x : Xlate) : resets { s with xl := x } = resets s := rfl
@[simp] theorem resets_nv (s : State) (x : Store) : resets { s with nv := x } = resets s := rfl
@[simp] theorem resets_au (s : State) (x : Engine) : resets { s with au := x } = resets s := rfl
@[simp] theorem resets_bun (s : State) (x : Bundle) : resets { s with bun := x } = resets s := rfl
@[simp] theorem resets_mbx (s : State) (x : Mailbox) : resets { s with mbx := x } = resets s := rfl
@[simp] theorem resets_stew (s : State) (x : Stew) : resets { s with stew := x } = resets s := rfl
@[simp] theorem resets_hl (s : State) (x : Headland) : resets { s with hl := x } = resets s := rfl
@[simp] theorem resets_pw (s : State) (x : Power) : resets { s with pw := x } = resets s := rfl

@[simp] theorem setIm_resets (s : State) (k : Nat) (v : Word) : resets (setIm s k v) = resets s := rfl

@[simp] theorem setLink_resets (s : State) (l : Link) (r : LinkRec) : resets (setLink s l r) = resets s := rfl

@[simp] theorem setLane_resets (s : State) (l : Link) (p : Nat) (r : LaneRec) : resets (setLane s l p r) = resets s := rfl

@[simp] theorem setSq_resets (s : State) (off : Nat) (r : SqReg) : resets (setSq s off r) = resets s := rfl

@[simp] theorem sqSet_resets (s : State) (off : Nat) (f : BitVec 24) : resets (sqSet s off f) = resets s := rfl

@[simp] theorem placeNote_resets (s : State) (n : NoteKey) (i : Intid) : resets (placeNote s n i).1 = resets s := by
  unfold placeNote
  split <;> simp

@[simp] theorem loseTrigger_resets (s : State) (k : Nat) : resets (loseTrigger s k) = resets s := rfl

@[simp] theorem evT_resets (s : State) (k : Nat) (note : Option NoteKey) : resets (evT s k note) = resets s := by
  unfold evT
  dsimp only
  repeat' split
  all_goals simp

@[simp] theorem evQ_resets (s : State) (i : Intid) (id : Nat) : resets (evQ s i id) = resets s := by simp [evQ]

@[simp] theorem houseEdges_resets (old : BitVec 16) (s : State) : resets (houseEdges old s) = resets s := by simp [houseEdges]

@[simp] theorem pushJob_resets (s : State) (items : List NvItem) : resets (pushJob s items) = resets s := rfl

@[simp] theorem logEntry_resets (s : State) (type arg : BitVec 8) (value : Word) (data : BitVec 96) : resets (logEntry s type arg value data) = resets s := by simp [logEntry]

@[simp] theorem nvEvt_resets (s : State) (k : Nat) (sector : Nat) : resets (nvEvt s k sector) = resets s := by simp [nvEvt]

@[simp] theorem abortErase_resets (s : State) : resets (abortErase s) = resets s := by
  obtain ⟨a, v, f, h, he⟩ := abortErase_arbOnly s
  rw [he]
  rfl

@[simp] theorem revertTarget_resets (s : State) (t : Target) : resets (revertTarget s t) = resets s := by simp [revertTarget]

@[simp] theorem revertLink_resets (s : State) (l : Link) : resets (revertLink s l) = resets s := by simp [revertLink]

@[simp] theorem queueFlt_resets (s : State) (f : FltRec) : resets (queueFlt s f) = resets s := by
  unfold queueFlt
  dsimp only
  split
  · exact resets_setTen_of (by simp) rfl rfl
  · exact (resets_xl _ _).trans (resets_setTen_of (by simp) rfl rfl)

@[simp] theorem queueNak_resets (s : State) (e : SowEvent) (i : Intid) (code : Nat) : resets (queueNak s e i code) = resets s := by simp [queueNak]

@[simp] theorem setRing_resets (s : State) (n : Tenant) (evt : Bool) (r : Ring) : resets (setRing s n evt r) = resets s := by
  unfold setRing
  split <;> exact resets_setTen_of rfl rfl rfl

@[simp] theorem markUnfit_resets (s : State) : resets (markUnfit s) = resets s := rfl

@[simp] theorem dropReq_resets (s : State) (c : Nat) : resets (dropReq s c) = resets s := rfl

@[simp] theorem raiseReq_resets (s : State) (c : Nat) (prio : BitVec 8) (exit : Option Link) (key : Option Nat) : resets (raiseReq s c prio exit key) = resets s := by
  unfold raiseReq
  split
  · exact markUnfit_resets _
  · exact (markUnfit_resets _).trans (dropReq_resets s c)

@[simp] theorem engineRequest_resets (s : State) : resets (engineRequest s) = resets s := by simp [engineRequest]

@[simp] theorem freeGrant_resets (s : State) (c : Nat) : resets (freeGrant s c) = resets s := rfl

@[simp] theorem startGrant_resets (s : State) (c : Nat) : resets (startGrant s c) = resets s := rfl

@[simp] theorem revokeOne_resets (s : State) (g : Grant) : resets (revokeOne s g) = resets s := by simp [revokeOne]

@[simp] theorem revoke_resets (s : State) : resets (revoke s) = resets s := by simp [revoke]

@[simp] theorem arbSettle_resets (before s : State) : resets (arbSettle before s) = resets s := by
  obtain ⟨a, v, f, h, he⟩ := arbOnly_arbSettle before s
  rw [he]
  rfl

@[simp] theorem setAreaPos_resets (s : State) (a : Area) (p : AreaPos) : resets (setAreaPos s a p) = resets s := by
  unfold setAreaPos
  split <;> simp

@[simp] theorem setSlot_resets (s : State) (k : Nat) (x : KeySlot) : resets (setSlot s k x) = resets s := rfl

@[simp] theorem setCtx_resets (s : State) (c : Nat) (x : Ctx) : resets (setCtx s c x) = resets s := rfl

@[simp] theorem settleSlots_resets (s : State) : resets (settleSlots s) = resets s := by simp [settleSlots]

@[simp] theorem putKey_resets (s : State) (k : Nat) (key : Key) : resets (putKey s k key) = resets s := by simp [putKey]

@[simp] theorem eraseSlot_resets (s : State) (k : Nat) : resets (eraseSlot s k) = resets s := by
  have h := foldS_resets (fun s c => setCtx s c { ctxOf s c with st := .error, code := 6, key := [], todo := [], steps := 0 })
    ((upTo 4).filter fun c => ctxUses (ctxOf s c) k) s fun _ _ => rfl
  unfold eraseSlot
  dsimp only
  split <;> exact h

@[simp] theorem loadKeys_resets (s : State) : resets (loadKeys s) = resets s := by
  unfold loadKeys
  split
  · rfl
  · dsimp only
    split
    · refine (sqSet_resets _ _ _).trans ((foldS_resets _ _ _ fun s k => ?_).trans (resets_au s _))
      split <;> simp
    · refine (foldS_resets _ _ _ fun s k => ?_).trans (resets_au s _)
      split <;> simp

@[simp] theorem setTx_resets (s : State) (l : Link) (p : Nat) (t : LaneTx) : resets (setTx s l p t) = resets s := rfl

@[simp] theorem beginIntervals_resets (s : State) (l : Link) : resets (beginIntervals s l) = resets s := foldS_resets _ _ _ fun _ _ => rfl

@[simp] theorem fillOut_resets (s : State) (l : Link) : resets (fillOut s l) = resets s := by
  obtain ⟨ls, ns, he⟩ := onWire_fillFifos l (linkOf s l).ll.out.length s
  rw [fillOut, he]
  rfl

@[simp] theorem pushTlp_resets (s : State) (l : Link) (type vc grains : Nat) (fn : BitVec 8) (body : List Word) (ring : Option (Bool × Tenant)) : resets (pushTlp s l type vc grains fn body ring) = resets s := by simp [pushTlp]

@[simp] theorem tookSource_resets (s : State) (l : Link) (src : BitVec 2) : resets (tookSource s l src) = resets s := rfl

@[simp] theorem updOffer_resets (s : State) (k : Nat) (f : Offer → Offer) : resets (updOffer s k f) = resets s := rfl

@[simp] theorem allocWalk_resets (s : State) (w : Walk) : resets (allocWalk s w) = resets s := rfl

@[simp] theorem outEnd_resets (s : State) (w : Walk) : resets (outEnd s w) = resets s := by simp [outEnd]

@[simp] theorem emptyCaches_resets (s : State) : resets (emptyCaches s) = resets s := rfl

@[simp] theorem placeSpill_resets (s : State) (e : SowEvent) (i : Intid) : resets (placeSpill s e i) = resets s := by
  unfold placeSpill
  dsimp only
  repeat' split
  all_goals simp

@[simp] theorem spillEvent_resets (s : State) (e : SowEvent) (i : Intid) : resets (spillEvent s e i) = resets s := by
  unfold spillEvent
  dsimp only
  repeat' split
  · simp
  · simp
  · exact (placeSpill_resets _ _ _).trans (resets_setTen_of (by simp) rfl rfl)

@[simp] theorem triggerExt_resets (s : State) (e : SowEvent) (i : Intid) (word stamp : Word) (note : Option NoteKey) : resets (triggerExt s e i word stamp note) = resets s := by
  unfold triggerExt
  dsimp only
  repeat' split
  all_goals simp

@[simp] theorem faultOne_resets (w : Walk) (code stage addr : Nat) (region : Option Nat) (s : State) (e : SowEvent) : resets (faultOne w code stage addr region s e) = resets s := by simp [faultOne]

@[simp] theorem keepCopy_resets (s : State) (i : Intid) : resets (keepCopy s i) = resets s := by
  unfold keepCopy
  dsimp only
  repeat' split
  all_goals simp

@[simp] theorem dropSpilled_resets (w : Walk) (code addr : Nat) (region : Option Nat) (s : State) (e : SowEvent) : resets (dropSpilled w code addr region s e) = resets s := by simp [dropSpilled]

@[simp] theorem faultEffect_resets (s : State) (w : Walk) (code stage addr : Nat) (region : Option Nat) : resets (faultEffect s w code stage addr region) = resets s := by
  unfold faultEffect
  split <;> simp

@[simp] theorem beginWalk_resets (s : State) (w : Walk) : resets (beginWalk s w) = resets s := by
  unfold beginWalk
  dsimp only
  repeat' split
  all_goals simp

@[simp] theorem repeatWalk_resets (s : State) (w : Walk) : resets (repeatWalk s w) = resets s := by simp [repeatWalk]

@[simp] theorem walkFault_resets (s : State) (w : Walk) (code stage addr : Nat) (region : Option Nat) : resets (walkFault s w code stage addr region) = resets s := by simp [walkFault]

@[simp] theorem sweepFault_resets (s : State) (w : Walk) (code addr : Nat) (region : Option Nat) : resets (sweepFault s w code addr region) = resets s := by simp [sweepFault]

@[simp] theorem sweepNext_resets (s : State) (w : Walk) : resets (sweepNext s w) = resets s := by simp [sweepNext]

@[simp] theorem sweepExtras_resets (w : Walk) (js : List Nat) (s : State) : resets (sweepExtras s w js).1 = resets s := by
  induction js generalizing s with
  | nil => rfl
  | cons j rest ih =>
    unfold sweepExtras
    dsimp only
    repeat' split
    all_goals simp [ih]

@[simp] theorem sweepClose_resets (s : State) (w : Walk) : resets (sweepClose s w) = resets s := by
  unfold sweepClose
  dsimp only
  repeat' split
  all_goals simp

@[simp] theorem sweepFail_resets (s : State) (w : Walk) (code addr : Nat) (region : Option Nat) : resets (sweepFail s w code addr region) = resets s := by
  unfold sweepFail
  split <;> simp

@[simp] theorem accessFault_resets (s : State) (w : Walk) (code : Nat) (region : Option Nat) : resets (accessFault s w code region) = resets s := by simp [accessFault]

@[simp] theorem cmpLeave_resets (s : State) (l : Link) (n : Note) : resets (cmpLeave s l n) = resets s := by
  unfold cmpLeave
  split <;> simp

@[simp] theorem loseFault_resets (s : State) (n : Tenant) (l : Link) : resets (loseFault s n l) = resets s := (queueEvt_resets _ _).trans (resets_setTen_of (by simp) rfl rfl)

@[simp] theorem ringWrite_resets (s : State) (v : RingVc) (n : Tenant) (evt : Bool) (ws : List Word) : resets (ringWrite s v n evt ws) = resets s := by simp [ringWrite]

@[simp] theorem popFlt_resets (s : State) : resets (popFlt s) = resets s := rfl

@[simp] theorem popEvt_resets (s : State) : resets (popEvt s) = resets s := rfl

@[simp] theorem sendFlt_resets (s : State) : resets (sendFlt s) = resets s := by
  unfold sendFlt
  repeat' split
  · exact resets_setTen_of (by simp) rfl rfl
  all_goals rfl

@[simp] theorem sendEvt_resets (s : State) : resets (sendEvt s) = resets s := by
  unfold sendEvt
  split <;> simp

@[simp] theorem pendInvalidate_resets (s : State) (n : Tenant) (xcfg : Bool) (ranges : List (Nat × Nat)) (region : Bool) : resets (pendInvalidate s n xcfg ranges region) = resets s := by simp [pendInvalidate]

@[simp] theorem wiredPass_resets (s : State) (n : Nat) : resets (wiredPass s n) = resets s := by simp [wiredPass]

@[simp] theorem wiredDetect_resets (s : State) (n : Nat) : resets (wiredDetect s n) = resets s := by simp [wiredDetect]

@[simp] theorem wiredCommit_resets (s : State) (n : Nat) (w0 w1 : Word) : resets (wiredCommit s n w0 w1) = resets s := by simp [wiredCommit]

@[simp] theorem lkEvt_resets (s : State) (l : Link) (f : BitVec 24) : resets (lkEvt s l f) = resets s := rfl

@[simp] theorem mapLanes_resets (s : State) (l : Link) (f : LaneRec → LaneRec) : resets (mapLanes s l f) = resets s := foldS_resets _ _ _ fun _ _ => rfl

@[simp] theorem dropLanes_resets (s : State) (l : Link) : resets (dropLanes s l) = resets s := by simp [dropLanes]

@[simp] theorem loseRing_resets (l : Link) (s : State) (t : Tlp) : resets (loseRing l s t) = resets s := by
  unfold loseRing
  split <;> simp

@[simp] theorem faultReads_resets (s : State) (l : Link) : resets (faultReads s l) = resets s := by simp [faultReads]

@[simp] theorem dropPost_resets (s : State) (w : Walk) : resets (dropPost s w) = resets s := by
  unfold dropPost
  dsimp only
  split
  · exact (foldS_resets _ _ _ fun _ _ => dropCount_resets _ _).trans (by simp)
  · split <;> simp

@[simp] theorem dropPosts_resets (s : State) (l : Link) : resets (dropPosts s l) = resets s := by
  unfold dropPosts
  dsimp only
  repeat' split
  all_goals simp

@[simp] theorem dropNotes_resets (s : State) (l : Link) : resets (dropNotes s l) = resets s := by simp [dropNotes]

@[simp] theorem goDown_resets (s : State) (l : Link) : resets (goDown s l) = resets s := by simp [goDown]

@[simp] theorem startRegroup_resets (s : State) (l : Link) (cap : Nat) (rate : Option (BitVec 2)) : resets (startRegroup s l cap rate) = resets s := by simp [startRegroup]

@[simp] theorem commitActive_resets (s : State) (l : Link) (r : LinkRec) : resets (commitActive s l r) = resets s := by
  unfold commitActive
  split <;> simp

@[simp] theorem commitRegroup_resets (s : State) (l : Link) (r : LinkRec) : resets (commitRegroup s l r) = resets s := by
  unfold commitRegroup
  split <;> simp

@[simp] theorem linkCommit_resets (s : State) (l : Link) (old : Word) : resets (linkCommit s l old) = resets s := by
  unfold linkCommit
  dsimp only
  repeat' split
  all_goals simp

@[simp] theorem laneCommit_resets (s : State) (idx : Nat) (old : Word) : resets (laneCommit s idx old) = resets s := by simp [laneCommit]

@[simp] theorem replyNow_resets (s : State) (code : BitVec 8) (d0 d1 d2 d3 : Word) : resets (replyNow s code d0 d1 d2 d3) = resets s := by
  unfold replyNow
  split <;> simp

@[simp] theorem setJobs_resets (s : State) (js : List NvJob) : resets (setJobs s js) = resets s := rfl

@[simp] theorem setHead_resets (s : State) (its : List NvItem) : resets (setHead s its) = resets s := by
  unfold setHead
  split <;> simp

@[simp] theorem failWork_resets (s : State) : resets (failWork s) = resets s := by
  unfold failWork
  split <;> simp

@[simp] theorem startApply_resets (s : State) (slot : BitVec 1) (n : Word) (kind : ApplyKind) : resets (startApply s slot n kind) = resets s := rfl

@[simp] theorem bootApply_resets (s : State) : resets (bootApply s) = resets s := by
  unfold bootApply
  repeat' split
  all_goals simp

@[simp] theorem ckptEnds_resets (s : State) : resets (ckptEnds s) = resets s := rfl

@[simp] theorem keyDone_resets (s : State) (slot : Nat) (key : Option Key) : resets (keyDone s slot key) = resets s := by
  unfold keyDone
  split <;> simp

@[simp] theorem engineNeed_resets (s : State) : resets (engineNeed s) = resets s := by simp [engineNeed]

@[simp] theorem stewardOpens_resets (s : State) (c : Nat) (slot : Option (BitVec 4)) (turns : Nat) : resets (stewardOpens s c slot turns) = resets s := by simp [stewardOpens]

@[simp] theorem stewardCloses_resets (s : State) : resets (stewardCloses s) = resets s := by
  unfold stewardCloses
  split <;> simp

@[simp] theorem engineFails_resets (s : State) (code : BitVec 8) (d0 : Word) : resets (engineFails s code d0) = resets s := by simp [engineFails]

@[simp] theorem startOp_resets (s : State) (client : Nat) (op : NvOp) : resets (startOp s client op) = resets s := by
  unfold startOp
  dsimp only
  split
  · split
    · exact (nvEvt_resets _ _ _).trans (resets_of_tens rfl)
    · exact resets_of_tens rfl
  · exact resets_of_tens rfl

@[simp] theorem doItem_resets (s : State) (i : NvItem) : resets (doItem s i) = resets s := by
  cases i <;> (unfold doItem; simp)

theorem engineWork_resets (s t : State) (slot : Option (BitVec 4)) (turns : Nat) (code : BitVec 8) (d0 : Word) (rest : List NvItem)
    (h : engineWork s slot turns code d0 rest = some t) : resets t = resets s := by
  unfold engineWork at h
  split at h
  · split at h
    · cases h; simp
    · obtain ⟨c, -, rfl⟩ := Option.map_eq_some_iff.1 h
      simp
  · dsimp only at h
    split at h
    · cases h
    · cases h; split <;> simp

theorem askOp_resets (s t : State) (c : Nat) (op : NvOp) (h : askOp s c op = some t) : resets t = resets s := by
  unfold askOp at h
  repeat' (split at h)
  all_goals cases h
  all_goals simp

theorem pumpOne_resets (s t : State) (h : pumpOne s = some t) : resets t = resets s := by
  unfold pumpOne at h
  dsimp only at h
  repeat' (split at h)
  all_goals first
    | exact askOp_resets _ _ _ _ h
    | exact engineWork_resets _ _ _ _ _ _ _ h
    | (cases h; done)
    | (cases h; simp)

@[simp] theorem pumpN_resets (n : Nat) (s : State) : resets (pumpN n s) = resets s := by
  induction n generalizing s with
  | zero => rfl
  | succ n ih =>
    unfold pumpN
    split
    · rfl
    · split
      · next t h => exact (ih t).trans (pumpOne_resets _ _ h)
      · rfl

@[simp] theorem pump_resets (s : State) : resets (pump s) = resets s := by
  unfold pump
  split <;> simp

@[simp] theorem regionSyncReq_resets (s : State) : resets (regionSyncReq s) = resets s := rfl

@[simp] theorem bundleTransferred_resets (s : State) (seq : Word) : resets (bundleTransferred s seq) = resets s := by
  unfold bundleTransferred
  dsimp only
  repeat' split
  all_goals exact resets_of_tens rfl

@[simp] theorem bundleSync_resets (s : State) : resets (bundleSync s) = resets s := by simp [bundleSync]

@[simp] theorem work_resets (s : State) (items : List NvItem) : resets (work s items) = resets s := rfl

@[simp] theorem holdWout_resets (s : State) : resets (holdWout s) = resets s := by simp [holdWout]

@[simp] theorem fallowCommit_resets (s : State) : resets (fallowCommit s) = resets s := by
  unfold fallowCommit
  dsimp only
  repeat' split
  · exact (resets_of_tens rfl).trans (holdWout_resets s)
  all_goals exact resets_of_tens rfl

@[simp] theorem commitRoute_resets (s : State) (k : Nat) : resets (commitRoute s k) = resets s := by
  unfold commitRoute
  dsimp only
  repeat' split
  all_goals simp

@[simp] theorem wiredBelow_resets (s : State) (t : Target) : resets (wiredBelow s t) = resets s := by simp [wiredBelow]

@[simp] theorem commitRoutes_resets (s : State) (ch : List Change) (staged : List Nat) : resets (commitRoutes s ch staged) = resets s := by
  refine Eq.trans (foldS_resets _ _ _ fun s c => ?_) ?_
  · repeat' split
    all_goals simp
  · simp

@[simp] theorem commitInvalidations_resets (s0 s : State) (ch : List Change) : resets (commitInvalidations s0 s ch) = resets s := by simp [commitInvalidations]

@[simp] theorem recordAtCommit_resets (s : State) (n : Tenant) (evt : Bool) : resets (recordAtCommit s n evt) = resets s := by
  unfold recordAtCommit
  repeat' split
  all_goals simp

@[simp] theorem commitRing_resets (s : State) (n : Tenant) (evt : Bool) : resets (commitRing s n evt) = resets s := by simp [commitRing]

@[simp] theorem commitRings_resets (s : State) (ch : List Change) : resets (commitRings s ch) = resets s := by
  refine foldS_resets _ _ _ fun s c => ?_
  repeat' split
  all_goals simp

@[simp] theorem commitLinks_resets (s0 s : State) : resets (commitLinks s0 s) = resets s := by simp [commitLinks]

@[simp] theorem commitPrivate_resets (s : State) (t : Target) (idx : Nat) (old new : Word) : resets (commitPrivate s t idx old new) = resets s := by simp [commitPrivate]

@[simp] theorem commitSources_resets (s0 s : State) (ch : List Change) : resets (commitSources s0 s ch) = resets s := by
  unfold commitSources
  dsimp only
  rw [houseEdges_resets, foldS_resets _ _ _ fun _ _ => wiredCommit_resets _ _ _ _]
  refine foldS_resets _ _ _ fun s c => ?_
  repeat' split
  all_goals simp

@[simp] theorem commitCounts_resets (s0 s : State) : resets (commitCounts s0 s) = resets s := foldS_resets _ _ _ fun _ _ => rfl

@[simp] theorem commitExpiry_resets (s : State) : resets (commitExpiry s) = resets s := by
  refine Eq.trans (foldS_resets _ _ _ fun s c => ?_) (resets_xl s _)
  repeat' split
  all_goals simp

end Sys2Proof.Machine
end

section
/-!
PROOFS. Chapter 09: the default step of a tenant's reset, at its commit, and the statement of the resets (O39).
-/
namespace Sys2Proof.Machine
open Sys2Proof.Safety Sys2Proof.Claims

variable {s e b u : State} {l : Link} {n m : Tenant}

/-! ## The default step (R207) -/

theorem liveAt_zeroBoth (s : State) (k j : Nat) : liveAt (zeroBoth s k) j = if j = k then 0 else liveAt s j := by
  unfold zeroBoth
  rw [liveAt_setLive]
  rfl

theorem liveAt_zeroed (ks : List Nat) (s : State) (j : Nat) : liveAt (foldS zeroBoth s ks) j = if j ∈ ks then 0 else liveAt s j := by
  induction ks generalizing s with
  | nil => simp
  | cons k ks ih =>
    rw [foldS_cons, ih, liveAt_zeroBoth]
    by_cases h1 : j ∈ ks <;> by_cases h2 : j = k <;> simp [h1, h2]

theorem liveAt_congr (h : e.cfg.live = s.cfg.live) (j : Nat) : liveAt e j = liveAt s j := by
  unfold liveAt
  rw [h]

theorem defaultStep_liveAt (s : State) (n : Tenant) (j : Nat) : liveAt (defaultStep s n) j =
    if j ∈ defaultKeys n then 0 else if j = tabKey 4 n.toNat 0 0 then liveAt s j &&& ~~~1 else liveAt s j := by
  have hpend (x : State) : liveAt (pendInvalidate x n false [] false) j = liveAt x j := liveAt_congr (by simp) j
  have hfree (j : Nat) : liveAt (freeBlocked (discardInts s n) n) j = liveAt s j := liveAt_congr (by simp) j
  unfold defaultStep
  dsimp only
  rw [hpend, liveAt_setTen, liveAt_zeroed, liveAt_setLive, liveAt_setShadow]
  simp only [hfree]
  by_cases hj : j = tabKey 4 n.toNat 0 0
  · rw [hj]
  · rw [if_neg hj, if_neg hj]

theorem defaultStep_resets (s : State) (n : Tenant) : resets (defaultStep s n) m = if m = n then (false, false) else resets s m := by
  have hzero (x : State) : resets (foldS zeroBoth x (defaultKeys n)) = resets x := foldS_resets _ _ _ fun _ _ => rfl
  unfold defaultStep
  dsimp only
  rw [pendInvalidate_resets]
  unfold resets
  rw [tenOf_setTen]
  split
  · rfl
  · change resets _ m = resets s m
    rw [hzero]
    change resets (freeBlocked (discardInts s n) n) m = _
    rw [freeBlocked_resets, discardInts_resets]

/-- The words of the tenant's entry and page that a default step clears. -/
def Ended (s : State) (n : Tenant) : Prop :=
  resets s n = (false, false) ∧ bit (liveAt s (tabKey 4 n.toNat 0 0)) 0 = false ∧ ∀ k ∈ defaultKeys n, liveAt s k = 0

theorem ended_congr (hr : resets e = resets s) (hl : e.cfg.live = s.cfg.live) (h : Ended s n) : Ended e n := by
  have hat (k : Nat) : liveAt e k = liveAt s k := by unfold liveAt; rw [hl]
  obtain ⟨h1, h2, h3⟩ := h
  exact ⟨hr ▸ h1, by rw [hat]; exact h2, fun k hk => (hat k).trans (h3 k hk)⟩

theorem mem_defaultKeys {k : Nat} : k ∈ defaultKeys n ↔ ∃ off ∈ [0x4, 0x10, 0x14, 0x18, 0x1C, 0x20, 0x24, 0x80, 0x84], k = 2 ^ 50 + n.toNat * 4096 + off := by
  simp [defaultKeys, pageKey]

theorem tabKey_not_mem_defaultKeys : tabKey 4 m.toNat 0 0 ∉ defaultKeys n := by
  intro h
  obtain ⟨off, -, hk⟩ := mem_defaultKeys.1 h
  have := m.isLt
  unfold tabKey at hk
  omega

theorem ended_defaultStep (s : State) (n : Tenant) : Ended (defaultStep s n) n := by
  refine ⟨by rw [defaultStep_resets, if_pos rfl], ?_, fun k hk => by rw [defaultStep_liveAt, if_pos hk]⟩
  rw [defaultStep_liveAt, if_neg tabKey_not_mem_defaultKeys, if_pos rfl]
  simp [bit]

/-- Another tenant's default step leaves the tenant's words alone. -/
theorem defaultStep_liveAt_other (hm : m ≠ n) {k : Nat} (hk : k = tabKey 4 n.toNat 0 0 ∨ k ∈ defaultKeys n) (s : State) :
    liveAt (defaultStep s m) k = liveAt s k := by
  have hne : m.toNat ≠ n.toNat := fun h => hm (BitVec.eq_of_toNat_eq h)
  have h1 : k ∉ defaultKeys m := by
    obtain rfl | hk := hk
    · exact tabKey_not_mem_defaultKeys
    · intro h
      obtain ⟨a, ha, rfl⟩ := mem_defaultKeys.1 hk
      obtain ⟨c, hc, he⟩ := mem_defaultKeys.1 h
      simp only [List.mem_cons, List.not_mem_nil, or_false] at ha hc
      omega
  have h2 : k ≠ tabKey 4 m.toNat 0 0 := by
    have := n.isLt
    have := m.isLt
    obtain rfl | hk := hk
    · unfold tabKey
      omega
    · obtain ⟨a, ha, rfl⟩ := mem_defaultKeys.1 hk
      unfold tabKey
      omega
  rw [defaultStep_liveAt, if_neg h1, if_neg h2]

/-! ## A commit reaches it (R120, step 3.4) -/

/-- The tenant's default step is due, or done. -/
def Ending (s : State) (n : Tenant) : Prop := resets s n = (true, true) ∨ Ended s n

theorem ended_commitTenant (s0 : State) (h : Ending s n) : Ended (commitTenant s0 s n) n := by
  obtain ⟨u, hu, ⟨-, hlive, -, -⟩, hr⟩ := commitTenant_eq s0 s n
  rw [hu]
  obtain h | h := h
  · rw [← hr] at h
    simp only [resets, Prod.mk.injEq] at h
    rw [if_pos (by simp [h])]
    exact ended_defaultStep u n
  · have he := ended_congr hr hlive h
    have h1 := he.1
    simp only [resets, Prod.mk.injEq] at h1
    rw [if_neg (by simp [h1])]
    exact he

theorem ending_commitTenant (s0 : State) (hm : m ≠ n) (h : Ending s n) : Ending (commitTenant s0 s m) n ∧
    (Ended s n → Ended (commitTenant s0 s m) n) := by
  obtain ⟨u, hu, ⟨-, hlive, -, -⟩, hr⟩ := commitTenant_eq s0 s m
  have hstep (he : Ended s n) : Ended (commitTenant s0 s m) n := by
    have hk := ended_congr hr hlive he
    rw [hu]
    split
    · obtain ⟨h1, h2, h3⟩ := hk
      refine ⟨?_, ?_, fun k hk => ?_⟩
      · rw [defaultStep_resets, if_neg hm.symm, h1]
      · rw [defaultStep_liveAt_other hm (.inl rfl)]
        exact h2
      · rw [defaultStep_liveAt_other hm (.inr hk)]
        exact h3 k hk
    · exact hk
  refine ⟨?_, hstep⟩
  obtain h | h := h
  · refine .inl ?_
    rw [hu]
    split
    · rw [defaultStep_resets, if_neg hm.symm, hr, h]
    · rw [hr, h]
  · exact .inr (hstep h)

theorem ended_commitTenants (s0 : State) (h : resets s n = (true, true)) : Ended (commitTenants s0 s) n := by
  have hrun (js : List Nat) (t : State) (ht : Ending t n) (hm : n.toNat ∈ js ∨ Ended t n) :
      Ended (foldS (fun s j => commitTenant s0 s (BitVec.ofNat 8 j)) t js) n := by
    induction js generalizing t with
    | nil => exact hm.resolve_left (by simp)
    | cons j js ih =>
      rw [foldS_cons]
      by_cases hj : BitVec.ofNat 8 j = n
      · have he := ended_commitTenant s0 ht
        rw [hj]
        exact ih _ (.inr he) (.inr he)
      · obtain ⟨h1, h2⟩ := ending_commitTenant s0 hj ht
        refine ih _ h1 (hm.imp (fun hmem => ?_) h2)
        refine (List.mem_cons.1 hmem).resolve_left fun he => hj ?_
        rw [← he]
        simp
  refine hrun (upTo 256) s (.inl h) (.inl ?_)
  exact List.mem_range.2 n.isLt

theorem commitTransfer_resets (s : State) : resets (commitTransfer s) = resets s := by
  unfold commitTransfer
  dsimp only
  split <;> rfl

theorem ended_commitEffects (s0 : State) (ch : List Change) (h : resets s n = (true, true)) : Ended (commitEffects s0 s ch) n := by
  have hstart : resets (commitStaged (settlePermit s0 (commitTargets s ch))) n = (true, true) := by simp [h]
  refine ended_congr ?_ ?_ (ended_commitTenants s0 hstart)
  · simp [commitEffects]
  · simp [commitEffects]

theorem bundleTransferred_live (s : State) (seq : Word) : (bundleTransferred s seq).cfg.live = s.cfg.live := by
  unfold bundleTransferred
  dsimp only
  repeat' split
  all_goals simp [pushJob]

theorem commitTail_resets (s0 s : State) (ch : List Change) : resets (commitTail s0 s ch) = resets s := by
  unfold commitTail
  dsimp only
  rw [arbSettle_resets, resets_allot]
  simp

theorem ended_commit (h : resets s n = (true, true)) : Ended (commit s) n := by
  have heff := ended_commitEffects s (if transfers s (s.hl.seq + 1) then changes s else []) (s := commitTransfer s) (n := n)
    ((congrFun (commitTransfer_resets s) n).trans h)
  have htail := ended_congr (commitTail_resets s _ (if transfers s (s.hl.seq + 1) then changes s else [])) (commitTail_conf s _ _).2.1 heff
  have hscan : Ended (commitScan s (commitTail s (commitEffects s (commitTransfer s)
      (if transfers s (s.hl.seq + 1) then changes s else [])) (if transfers s (s.hl.seq + 1) then changes s else []))) n :=
    ended_congr (resets_of_tens rfl) rfl htail
  have hlast (y : State) (hy : Ended y n) : Ended (fallowCommit (pump (bundleSync y))) n := ended_congr (by simp) (by simp) hy
  refine hlast _ ?_
  split
  · exact ended_congr (bundleTransferred_resets _ _) (bundleTransferred_live _ _) hscan
  · exact hscan

theorem ended_settle (b : State) (h : Ended s n) : Ended (settle b s) n :=
  ended_congr (resets_of_tens (settle_tens b s)) (settle_live b s) h

theorem ended_hl (h : Ended s n) (x : Headland) : Ended { s with hl := x } n := ended_congr rfl rfl h

/-- What the words of an ended reset say. -/
theorem ended_reads (h : Ended s n) : (tenOf s n).resetPend = false ∧ (tenOf s n).stepDue = false ∧ tenEn s n = false ∧
    tenMe s n = false ∧ ∀ off ∈ [0x10, 0x14, 0x18, 0x1C, 0x20, 0x24], pageLive s n.toNat off = 0 := by
  obtain ⟨h1, h2, h3⟩ := h
  simp only [resets, Prod.mk.injEq] at h1
  have hpage : ∀ off ∈ [0x4, 0x10, 0x14, 0x18, 0x1C, 0x20, 0x24, 0x80, 0x84], pageLive s n.toNat off = 0 := fun off ho =>
    h3 _ (List.mem_map.2 ⟨off, ho, rfl⟩)
  refine ⟨h1.1, h1.2, h2, ?_, fun off ho => hpage off ?_⟩
  · rw [tenMe, hpage 4 (by simp)]
    rfl
  · simp only [List.mem_cons, List.not_mem_nil, or_false] at ho ⊢
    omega

theorem headland_of_commit (hl : s.hl.left = 0) (hc : hasCommit s = true) :
    headland s = { commit s with hl := { (commit s).hl with left := hlDiv (commit s) } } := by
  simp [headland, hl, hc]

/-! ## The commands that begin a reset -/

theorem applyWrite_flr (s : State) (l : Link) (n : Tenant) :
    applyWrite s l { fn := n, off := 0x4, be := 2, data := 0x100 } = some (tenantReset s n) := by
  have hmerge : shadowMerge s (pageKey n.toNat 4) 1 (beMask 2) 0x100 = s := by
    have hmask : (1 : Word) &&& beMask 2 = 0 := by decide
    rw [shadowMerge_eq]
    dsimp only
    rw [if_pos]
    rw [BitVec.and_assoc, BitVec.and_comm (~~~_), ← BitVec.and_assoc, hmask]
    exact BitVec.zero_and
  have hbit : bit ((0x100 : Word) &&& beMask 2) 8 = true := by decide
  have h : applyWrite s l { fn := n, off := 0x4, be := 2, data := 0x100 } =
      some (if bit ((0x100 : Word) &&& beMask 2) 8 then tenantReset (shadowMerge s (pageKey n.toNat 4) 1 (beMask 2) 0x100) n
        else shadowMerge s (pageKey n.toNat 4) 1 (beMask 2) 0x100) := rfl
  rw [h, if_pos hbit, hmerge]

theorem exec_flr (h : arrives s l) (hw : (linkOf s l).ll.vpWait = []) (hb : bound s l n = true) :
    exec (.flr l n) s = .next (settle s (lands l (tenantReset (arrive s l 0 3) n))) :=
  congrArg Host.Outcome.next
    (exec_hostWrite_taken h (by decide) hw hb (by simp [pageExists, inWords]) (applyWrite_flr _ l n))

theorem exec_freset (hs : served s true 0x1028 1) (ht : twSel s = 4) (hi : twIndex s = n.toNat) (hb : bit (twData s 0) 1 = true)
    (hz : twTarget s = 0) : ∃ u, exec (.freset n) s = .next (settle s (tenantReset u n)) ∧ u.tens = s.tens ∧ u.irq = s.irq ∧
      u.pw = s.pw ∧ u.cfg.live = s.cfg.live ∧ u.cfg.im = s.cfg.im := by
  have hholds : tabHolds 4 n.toNat = true := decide_eq_true n.isLt
  have herr : windowErr s 4 = 0 := by
    unfold windowErr
    dsimp only
    rw [ht, hi, hz, hholds]
    rfl
  have hnum : BitVec.ofNat 8 n.toNat = n := BitVec.ofNat_toNat .. ▸ BitVec.setWidth_eq n
  obtain ⟨sh, d, hw⟩ := onShadow_windowShadow (commandDone s 0) 4 n.toNat 0
  generalize hwx : windowShadow (commandDone s 0) 4 n.toNat 0 = w at hw
  have heff : windowCommand s 4 = tenantReset w n := by
    rw [windowCommand_of_ok herr]
    change windowPulse (windowShadow (commandDone s 0) (twSel s) (twIndex s) (twTarget s)) (twSel s) (twIndex s) = _
    have hp : bit (twData w 0) 1 = true := by rw [hw]; exact hb
    rw [ht, hi, hz, hwx]
    unfold windowPulse
    rw [hp, if_neg (by simp), if_pos (by decide), hnum]
  refine ⟨w, (if_pos ?_).trans ?_, ?_⟩
  · rw [ht, hi, hb]
    simp
  · rw [← heff]
    exact put_twCmd hs (by decide)
  · rw [hw]
    exact ⟨rfl, rfl, rfl, rfl, rfl⟩

theorem lands_others (l : Link) (s : State) : (lands l s).pw = s.pw ∧ (lands l s).cfg = s.cfg ∧ (lands l s).irq = s.irq ∧
    (lands l s).tens = s.tens ∧ (lands l s).xl = s.xl := ⟨rfl, rfl, rfl, rfl, rfl⟩

theorem flr_begins (ha : arrives s l) (hw : (linkOf s l).ll.vpWait = []) (hb : bound s l n = true)
    (hp : (tenOf s n).resetPend = false) : ∃ t, exec (.flr l n) s = .next t ∧ resetBegun s t n := by
  refine ⟨_, exec_flr ha hw hb, resetBegun_of (u := arrive s l 0 3) ?_ ?_ ?_ ?_ (lands_others l _)⟩
  all_goals rw [arrive_eq_links]
  · exact hp
  · exact ⟨rfl, rfl, rfl⟩

theorem flr_again (hq : Quiet s) (ha : arrives s l) (hw : (linkOf s l).ll.vpWait = []) (hb : bound s l n = true)
    (hp : (tenOf s n).resetPend = true) : ∃ t, exec (.flr l n) s = .next t ∧ UpToMarks (lands l (arrive s l 0 3)) t := by
  have hpend : (tenOf (arrive s l 0 3) n).resetPend = true := by
    rw [arrive_eq_links]
    exact hp
  refine ⟨_, exec_flr ha hw hb, ?_⟩
  rw [tenantReset_of_pending hpend]
  exact (unflagged_lands (unflagged_arrive s l 0 3) l).upToMarks hq

/-- Settles O39. -/
theorem tenantResets : Obligations.TenantResets := by
  intro s l n hq due rested
  have hall (hd : dueRest s n) : tenantQuiesced s n = quiesceAll s := by
    obtain ⟨hm, ho, hz⟩ := hd
    simp [tenantQuiesced, atRest, hm, ho, hz]
  have hnone (hd : ¬ dueRest s n) : tenantQuiesced s n = s := by
    refine if_neg fun h => hd ?_
    simp only [atRest, Bool.and_eq_true, Bool.not_eq_true', decide_eq_true_eq, and_assoc] at h
    exact h
  have hten (m : Tenant) : tenOf (settle s (tenantQuiesced s n)) m = tenOf (tenantQuiesced s n) m := by
    unfold tenOf
    rw [settle_tens]
  refine ⟨fun ha hw hb hp => ?_, fun ha hw hb hp => ?_, fun hs ht hi hb hz hp => ?_, fun h1 h2 => ?_, fun h => ⟨_, rfl, ?_⟩,
    fun hd => ⟨_, rfl, fun m => ⟨fun hm => ?_, fun hm hme => ?_⟩, fun ho => ?_, fun hle hwf hlt => ?_⟩, fun hd => ⟨_, rfl, ?_⟩,
    fun hl hc hp hd => ⟨_, rfl, ?_⟩⟩
  · exact flr_begins ha hw hb hp
  · exact flr_again hq ha hw hb hp
  · obtain ⟨u, hx, htens, hirq, hpw, hlive, him⟩ := exec_freset hs ht hi hb hz
    refine ⟨_, hx, resetBegun_of ?_ htens hirq ⟨hpw, hlive, him⟩ ⟨rfl, rfl, rfl, rfl, rfl⟩⟩
    unfold tenOf at hp ⊢
    rw [htens]
    exact hp
  · exact ⟨_, rfl, resetForced_pending h1 h2 _ rfl⟩
  · rw [resetForced_of_not h]
    exact (unflagged_refl s).upToMarks hq
  · rw [hten, hall hd, quiesceAll_tenOf_of_due hm]
    rfl
  · rw [hten, hall hd, quiesceAll_tenOf_of_not hm hme]
  · have hu : Unflagged s { setTen s n (restedRec s n) with quiesceLast := n } := ⟨⟨rfl, rfl, rfl, rfl, rfl, rfl⟩, rfl⟩
    rw [hall hd, quiesceAll_of_alone hd ho]
    exact hu.flagsSet hq rfl hQUIESCED
  · obtain ⟨hlast, hacc⟩ := quiesceAll_last hd hq.1 hle hwf hlt
    obtain ⟨hcfg, -, hnv, hsq, -⟩ := marks_checks s.tens s
    rw [hall hd]
    refine ⟨(settle_quiesceLast s _).trans hlast, ?_⟩
    have hdone : nvDone s (quiesceAll s) = quiesceAll s := nvDone_of_work (by
      unfold storeWork
      rw [show (quiesceAll s).nv = s.nv from hnv])
    have hfirst : (quiesceAll s).sqAcc.contains 0x300 = false := by
      rw [show (quiesceAll s).sqAcc = s.sqAcc from hsq, hq.2]
      rfl
    rw [sqOf_settle_house _ _ hfirst, hdone, hacc]
    have hsq : sqOf (quiesceAll s) 0x300 = sqOf s 0x300 := by
      unfold sqOf
      rw [show (quiesceAll s).cfg = s.cfg from hcfg]
    rw [hsq]
    rfl
  · rw [hnone hd]
    exact (unflagged_refl s).upToMarks hq
  · have hend : Ended (headland s) n := by
      rw [headland_of_commit hl hc]
      exact ended_hl (ended_commit (by simp [resets, hp, hd])) _
    exact ended_reads (ended_settle s hend)

end Sys2Proof.Machine
end

section
/-!
PROOFS. Chapter 07: what the walker takes from Q-IN (O40).
-/
namespace Sys2Proof.Machine
open Sys2Proof.Safety Sys2Proof.Claims

variable {s u b : State} {e : SowEvent} {tag : BitVec 6}

/-! ## Tags and new walks (R157) -/

/-- A free tag is no walk's. -/
theorem freeTag_free (h : freeTag s = some tag) : ∀ w ∈ s.xl.walks, w.tag ≠ tag := by
  intro w hw ht
  obtain ⟨j, hj, hjt⟩ := Option.map_eq_some_iff.1 h
  have hno := List.find?_some hj
  have hlt : j < 64 := List.mem_range.1 (List.mem_of_find?_eq_some hj)
  have hnum : w.tag.toNat = j := by
    rw [ht, ← hjt]
    exact Nat.mod_eq_of_lt hlt
  rw [Bool.not_eq_true', List.any_eq_false] at hno
  exact hno w hw (decide_eq_true hnum)

theorem walkAt_of_free (h : freeTag s = some tag) : walkAt s tag = none :=
  List.find?_eq_none.2 fun w hw => by simpa using freeTag_free h w hw

/-- A walk as it stands under its new tag. -/
def tagged (s : State) (w : Walk) : Walk := { w with gen := genOf s w.tag + 1, born := s.xl.serial, stamp := s.hl.seq }

theorem allocWalk_walks (s : State) (w : Walk) : (allocWalk s w).xl.walks = s.xl.walks ++ [tagged s w] := rfl

theorem walkAt_allocWalk {w : Walk} (h : freeTag s = some w.tag) : walkAt (allocWalk s w) w.tag = some (tagged s w) := by
  unfold walkAt
  rw [allocWalk_walks, List.find?_append, show s.xl.walks.find? (fun v => v.tag = w.tag) = none from walkAt_of_free h]
  simp [tagged]

/-- The tables let the device be looked up (R155 steps 1 and 2). -/
def deviceKnown (s : State) (e : SowEvent) : Prop :=
  bit (pageLive s e.tenant.toNat 0x10) 0 = true ∧ fld (pageLive s e.tenant.toNat 0x10) 4 5 ≤ 16 ∧
  e.dev.toNat < 2 ^ fld (pageLive s e.tenant.toNat 0x10) 4 5

/-- The walk of a miss, as it begins. -/
def missWalk (s : State) (e : SowEvent) (tag : BitVec 6) : Walk :=
  dtFields s (tagged s { tag := tag, gen := 0, kind := .event, e := e, start := .dt, stage := .dt, addr := 0, stamp := 0, born := 0 })

theorem newWalk_of_known (hk : deviceKnown s e) (ht : freeTag s = some tag) :
    newWalk s e tag .dt none = { s with xl := { s.xl with
      walks := s.xl.walks ++ [missWalk s e tag], gens := tabSet s.xl.gens 0 tag.toNat (genOf s tag + 1), serial := s.xl.serial + 1 } } := by
  obtain ⟨h1, h2, h3⟩ := hk
  let w : Walk := { tag := tag, gen := 0, kind := .event, e := e, start := .dt, stage := .dt, addr := 0, stamp := 0, born := 0 }
  have hat : walkAt (allocWalk s w) tag = some (tagged s w) := walkAt_allocWalk ht
  have hfault : dtFault (allocWalk s w) (missWalk s e tag) = none := by
    have hpage : ∀ n off, pageLive (allocWalk s w) n off = pageLive s n off := fun _ _ => rfl
    unfold dtFault
    rw [hpage]
    have he : (missWalk s e tag).e = e := rfl
    have hl : (missWalk s e tag).dtLog2 = fld (pageLive s e.tenant.toNat 0x10) 4 5 := rfl
    rw [he, hl, h1, if_neg (by simp; omega), if_neg (by omega)]
  have hput : (s.xl.walks ++ [tagged s w]).map (fun v => if v.tag = tag then missWalk s e tag else v) =
      s.xl.walks ++ [missWalk s e tag] := by
    rw [List.map_append]
    refine congrArg₂ _ ?_ ?_
    · exact (List.map_congr_left fun v hv => if_neg (freeTag_free ht v hv)).trans (List.map_id _)
    · exact congrArg (fun x => [x]) (if_pos rfl)
  have hbegin : beginWalk (allocWalk s w) (tagged s w) = putWalk (allocWalk s w) (missWalk s e tag) := by
    have : beginWalk (allocWalk s w) (tagged s w) = match dtFault (allocWalk s w) (missWalk s e tag) with
      | some (c, st, a) => faultEffect (removeWalk (allocWalk s w) tag) (missWalk s e tag) c st a none
      | none => putWalk (allocWalk s w) (missWalk s e tag) := rfl
    rw [this, hfault]
  have hnew : newWalk s e tag .dt none = match walkAt (allocWalk s w) tag with
    | some v => beginWalk (allocWalk s w) v
    | none => allocWalk s w := rfl
  rw [hnew, hat]
  dsimp only
  rw [hbegin]
  have : putWalk (allocWalk s w) (missWalk s e tag) = { allocWalk s w with xl := { (allocWalk s w).xl with
    walks := (s.xl.walks ++ [tagged s w]).map (fun v => if v.tag = tag then missWalk s e tag else v) } } := rfl
  rw [this, hput]
  rfl

/-! ## One event (R150, R151, R202) -/

theorem handleEvent_of_miss (h : lookupT s e = none) : handleEvent s e = needWalk s e .dt none := by
  simp [handleEvent, lookup, h]

theorem handleEvent_of_hit {x : TransEntry} (h : lookupT s e = some x) (hi : isExt x.intid = false) :
    handleEvent s e = some (trigger (touchHit s e x.intid) (ikey 0 x.intid) (noteOf e x.notify)) := by
  simp [handleEvent, lookup, h, hi, spillBlocked, deliver]

theorem joinable_iff : joinable s e = true ↔ ∃ w ∈ s.xl.walks, w.kind = .event ∧ w.dead = false ∧ sameKey w.e e = true := by
  simp [joinable, and_assoc]

theorem joinable_of_none (h : ∀ w ∈ s.xl.walks, w.kind = .event → w.dead = false → sameKey w.e e = false) : joinable s e = false := by
  rw [Bool.eq_false_iff]
  intro hj
  obtain ⟨w, hw, hk, hd, hs⟩ := joinable_iff.1 hj
  rw [h w hw hk hd] at hs
  cases hs

theorem needWalk_new (hm : tenMe s e.tenant = true) (hj : ∀ w ∈ s.xl.walks, w.kind = .event → w.dead = false → sameKey w.e e = false)
    (ht : freeTag s = some tag) : needWalk s e .dt none = some (newWalk s e tag .dt none) := by
  simp [needWalk, hm, joinable_of_none hj, ht]

theorem park_of_room (hb : ∀ b ∈ s.xl.blocked, sameKey b.e e = false) (hp : poolUsed s < 8192) :
    park s e = { s with xl := { s.xl with blocked := s.xl.blocked ++ [{ e := e, merged := 1 }] } } := by
  have h1 : isBlocked s e = false := by
    rw [isBlocked, List.any_eq_false]
    exact fun b hm => by simp [hb b hm]
  have h2 : poolFree s ≠ 0 := by
    unfold poolFree
    omega
  unfold park
  rw [h1, if_neg Bool.false_ne_true, if_neg h2]
  rfl

theorem touchHit_eq (s : State) (e : SowEvent) (i : Intid) : ∃ x, touchHit s e i = { s with xl := x } := by
  have h1 (t : State) (k way : Nat) : ∃ x, touchT t k way = { t with xl := x } := ⟨_, rfl⟩
  have h2 (t : State) (k way : Nat) : ∃ x, touchX t k way = { t with xl := x } := ⟨_, rfl⟩
  have hone : ∃ x, (match lookupT s e with | some t => touchT s (tSetNo t.part t.e) t.way | none => s) = { s with xl := x } := by
    split
    · exact h1 _ _ _
    · exact ⟨_, rfl⟩
  obtain ⟨x, hx⟩ := hone
  have hall : touchHit s e i = match lookupX { s with xl := x } i with
      | some y => touchX { s with xl := x } (xSetNo i) y.way
      | none => { s with xl := x } := by
    unfold touchHit
    rw [← hx] <;> rfl
  rw [hall]
  split
  · exact ⟨_, rfl⟩
  · exact ⟨_, rfl⟩

theorem gathers_xl (s : State) (x : Xlate) : Gathers s { s with xl := x } := ⟨⟨rfl, rfl, rfl, rfl, rfl, rfl⟩, rfl⟩

theorem gathers_hit (s : State) (e : SowEvent) (i : Intid) (k : Nat) (n : Option NoteKey) :
    Gathers s (trigger (touchHit s e i) k n) := by
  obtain ⟨x, hx⟩ := touchHit_eq s e i
  rw [hx]
  exact (gathers_xl s x).trans (gathers_ifEnabled (onInt_evT _ k n).toGathers k)

/-! ## Q-IN -/

section
variable {rest : List SowEvent} (hm : s.pw.mode = .operating) (hq : s.xl.qIn = e :: rest)
include hm hq

theorem walkerTake_eq : walkerTake s =
    if s.xl.blocked.any (releasable s) then
      if s.xl.blocked.any (fun b => releasable s b && sameKey b.e e) then joinBlocked { s with xl := { s.xl with qIn := rest } } e else s
    else if !tenEnabled s e.tenant then sowDisabled { s with xl := { s.xl with qIn := rest } } e.tenant
    else match handleEvent s e with
      | none => s
      | some u => { u with xl := { u.xl with qIn := rest } } := by
  unfold walkerTake
  rw [hq]
  dsimp only
  rw [if_neg (by simp [operating, hm])]
  rfl

theorem walkerTake_handled (hb : ∀ b ∈ s.xl.blocked, tenMe s b.e.tenant = false ∨ tenEnabled s b.e.tenant = false)
    (he : tenEnabled s e.tenant = true) (hu : handleEvent s e = some u) : walkerTake s = { u with xl := { u.xl with qIn := rest } } := by
  have hnone : s.xl.blocked.any (releasable s) = false := by
    rw [List.any_eq_false]
    intro b hmem
    obtain h | h := hb b hmem <;> simp [releasable, h]
  rw [walkerTake_eq hm hq, hnone, if_neg Bool.false_ne_true, he, if_neg (by simp), hu]

end

/-- The walk that event `e` joins takes its link. -/
def joins (e : SowEvent) (w : Walk) : Walk :=
  if w.kind = WalkKind.event ∧ w.dead = false ∧ sameKey w.e e = true then { w with joined := w.joined ++ [e.link] } else w

theorem joinWalk_eq : joinWalk s e = { s with xl := { s.xl with walks := s.xl.walks.map (joins e) } } := by
  have h : (fun w : Walk => if w.kind = WalkKind.event && !w.dead && sameKey w.e e then { w with joined := w.joined ++ [e.link] }
      else w) = joins e := by
    funext w
    simp [joins, and_assoc]
  simp only [joinWalk, updWalks, setXl, h]

/-- Settles O40. -/
theorem walkerTakes : Obligations.WalkerTakes := by
  intro s e rest hq hm hin gone
  have htake := walkerTake_eq hm hin
  refine ⟨fun ⟨b, hb, hr, hk⟩ => ⟨_, rfl, ?_⟩, fun ⟨b, hb, hr⟩ hno => ⟨_, rfl, ?_⟩, fun hblk =>
    ⟨fun he => ⟨_, rfl, ?_⟩, fun x he hx hi => ⟨_, rfl, ?_⟩, fun he hx hme hbl hp => ⟨_, rfl, ?_⟩, fun he hx hme hj => ⟨_, rfl, ?_⟩,
     fun tag he hx hme ht hj h1 h2 h3 => ⟨_, rfl, ?_⟩⟩⟩
  · have h1 : s.xl.blocked.any (releasable s) = true := List.any_eq_true.2 ⟨b, hb, hr⟩
    have h2 : s.xl.blocked.any (fun b => releasable s b && sameKey b.e e) = true := List.any_eq_true.2 ⟨b, hb, by simp [hr, hk]⟩
    rw [htake, if_pos h1, if_pos h2]
    exact (unflagged_xl (unflagged_refl s) _).upToMarks hq
  · have h1 : s.xl.blocked.any (releasable s) = true := List.any_eq_true.2 ⟨b, hb, hr⟩
    have h2 : s.xl.blocked.any (fun b => releasable s b && sameKey b.e e) = false := by
      rw [List.any_eq_false]
      intro c hc
      cases hrc : releasable s c with
      | false => simp
      | true => simp [hno c hc hrc]
    rw [htake, if_pos h1, h2, if_neg Bool.false_ne_true]
    exact (unflagged_refl s).upToMarks hq
  · have hnone : s.xl.blocked.any (releasable s) = false := by
      rw [List.any_eq_false]
      intro b hmem
      obtain h | h := hblk b hmem <;> simp [releasable, h]
    rw [htake, hnone, if_neg Bool.false_ne_true, he, if_pos (by simp)]
    exact (unflagged_xl (unflagged_setTen (unflagged_bump (unflagged_refl s) _) _ _) _).upToMarks hq
  · rw [walkerTake_handled hm hin hblk he (handleEvent_of_hit hx hi)]
    exact ((gathers_hit s e x.intid _ _).trans (gathers_xl _ _)).closed hq
  · have hpark : handleEvent s e = some (park s e) := by
      rw [handleEvent_of_miss hx]
      simp [needWalk, hme]
    rw [walkerTake_handled hm hin hblk he hpark, park_of_room hbl hp]
    exact (unflagged_xl (unflagged_refl s) _).upToMarks hq
  · have hjoin : handleEvent s e = some (joinWalk s e) := by
      rw [handleEvent_of_miss hx]
      simp [needWalk, hme, joinable_iff.2 hj]
    rw [walkerTake_handled hm hin hblk he hjoin, joinWalk_eq]
    exact (unflagged_xl (unflagged_refl s) _).upToMarks hq
  · have hnew : handleEvent s e = some (newWalk s e tag .dt none) := by
      rw [handleEvent_of_miss hx, needWalk_new hme hj ht]
    rw [walkerTake_handled hm hin hblk he hnew, newWalk_of_known ⟨h1, h2, h3⟩ ht]
    refine ⟨settle_xl_qIn _ _, missWalk s e tag, ?_, rfl, rfl, rfl, rfl, rfl, rfl⟩
    rw [settle_xl_walks]
    simp

end Sys2Proof.Machine
end

section
/-!
PROOFS. Chapter 07: the work that the walker takes up again (O41): blocked events, refetches and sweeps.
-/
namespace Sys2Proof.Machine
open Sys2Proof.Safety Sys2Proof.Claims

variable {s e b u : State} {n : Tenant} {l : Link} {tag : BitVec 6} {w v : Walk} {i : Intid}

/-! ## Walks in their table -/

theorem walkAt_tag (h : walkAt s tag = some w) : w.tag = tag := by
  simpa using List.find?_some h

theorem mem_putWalk (h : walkAt s tag = some v) (hw : w.tag = tag) : w ∈ (putWalk s w).xl.walks := by
  refine List.mem_map.2 ⟨v, List.mem_of_find?_eq_some h, if_pos ?_⟩
  rw [walkAt_tag h, hw]

/-! ## The words of a read (R281) -/

theorem find_tabPut {α : Type} (t : Tab α) (j : Nat) (x : α) (k : Nat) :
    (tabPut t j x).find? (fun p => p.1 = k) = if j = k then some (j, x) else t.find? (fun p => p.1 = k) := by
  induction t with
  | nil => by_cases h : j = k <;> simp [tabPut, h]
  | cons p r ih =>
    obtain ⟨i, y⟩ := p
    unfold tabPut
    split_ifs with h1 h2 h3 h4 h5
    · simp [h2]
    · subst h1
      simp [h2]
    · simp [h4]
    · simp [h4]
    · subst h5
      simp [h1, ih]
    · by_cases hik : i = k
      · simp [hik]
      · simp [hik, ih, h5]

/-- The words of a completion stand from word `m` on. -/
theorem find_placeWords (ws : List Word) (t : Tab Word) (m k : Nat) :
    (placeWords t m ws).find? (fun p => p.1 = k) =
      if m ≤ k ∧ k < m + ws.length then some (k, ws.getD (k - m) 0) else t.find? (fun p => p.1 = k) := by
  induction ws generalizing t m with
  | nil =>
    rw [if_neg (by simp), placeWords]
  | cons x ws ih =>
    rw [placeWords, ih, find_tabPut, List.length_cons]
    by_cases hmk : m = k
    · subst hmk
      simp
    · by_cases hin : m + 1 ≤ k ∧ k < m + 1 + ws.length
      · have hsub : k - m = (k - (m + 1)) + 1 := by omega
        rw [if_pos hin, if_pos ⟨by omega, by omega⟩, hsub, List.getD_cons_succ]
      · rw [if_neg hin, if_neg hmk, if_neg (by omega)]

theorem readWord_of_got {k : Nat} {x : Word} (h : w.got.find? (fun p => p.1 = k) = some (k, x)) : readWord s w k = (s, x) := by
  unfold readWord
  rw [h]

theorem flatMap_range_single {α : Type} (f : Nat → List α) {m N : Nat} (hm : m < N) (h : ∀ j, j < N → j ≠ m → f j = []) :
    (List.range N).flatMap f = f m := by
  induction N with
  | zero => omega
  | succ N ih =>
    rw [List.range_succ, List.flatMap_append, List.flatMap_singleton]
    by_cases hmN : m = N
    · subst hmN
      have hnil : (List.range m).flatMap f = [] :=
        List.flatMap_eq_nil_iff.2 fun j hj => by
          have hlt := List.mem_range.1 hj
          exact h j (by omega) (by omega)
      rw [hnil, List.nil_append]
    · rw [ih (by omega) fun j hj => h j (by omega), h N (by omega) (Ne.symm hmN), List.append_nil]

/-! ## The release of walk-blocked events (R203) -/

/-- The state with the blocked events of one key gone. -/
def released (s : State) (b : Blocked) : State :=
  { s with xl := { s.xl with blocked := s.xl.blocked.filter fun c => !sameKey c.e b.e } }

theorem walkBlockedRelease_eq {b : Blocked} (hm : s.pw.mode = .operating) (hme : tenMe s n = true) (hen : tenEnabled s n = true)
    (hb : (s.xl.blocked.find? fun b => b.e.tenant = n) = some b) (hu : handleEvent (released s b) b.e = some u) :
    walkBlockedRelease s n = u := by
  unfold walkBlockedRelease
  rw [if_pos (by simp [operating, hm, hme, hen]), hb]
  dsimp only
  rw [show setXl s { s.xl with blocked := s.xl.blocked.filter fun c => !sameKey c.e b.e } = released s b from rfl, hu]

/-! ## Refetches (R155, R171, R527) -/

/-- A refetch of INTID `i` for its copy's owner. -/
def refetchEvent (c : XCopy) : SowEvent := { tenant := c.owner, link := 0, dev := 0, ev := 0 }

/-- The walk of a refetch, as it takes its tag. -/
def refetchWalk (c : XCopy) (i : Intid) (tag : BitVec 6) : Walk :=
  { tag := tag, gen := 0, kind := .refetch, e := refetchEvent c, start := .xcfg, stage := .xcfg, addr := 0, intid := i, stamp := 0, born := 0 }

/-- The walk of a refetch with the tables it takes. -/
def refetchBegun (s : State) (v : Walk) : Walk :=
  let v := dtFields s { v with got := [] }
  { v with addr := xcfgAddr v v.intid }

section
variable {c : XCopy} (hm : s.pw.mode = .operating) (hc : (intOf s (ikey 0 i)).copy = some c) (hd : refetchDue s i c = true)
include hm hc hd

theorem xcfgRefetch_eq : xcfgRefetch s i =
    if ownerOf s i ≠ some c.owner then refetchLost s (refetchEvent c) i
    else match lookupX s i with
    | some x => refetchDone (nextSerial (touchX s (xSetNo i) x.way)) (refetchEvent c) i s.xl.serial x.word x.stamp
    | none =>
      if 16 ≤ heldBack s then s
      else match freeTag s with
      | none => s
      | some tag =>
        match walkAt (allocWalk s (refetchWalk c i tag)) tag with
        | some v => beginWalk (allocWalk s (refetchWalk c i tag)) v
        | none => allocWalk s (refetchWalk c i tag) := by
  unfold xcfgRefetch
  rw [hc]
  dsimp only
  rw [if_pos (by simp [operating, hm, hd])] <;> rfl

theorem xcfgRefetch_begins (ho : ownerOf s i = some c.owner) (hx : lookupX s i = none) (hh : heldBack s < 16)
    (ht : freeTag s = some tag) : xcfgRefetch s i =
      putWalk (allocWalk s (refetchWalk c i tag)) (refetchBegun (allocWalk s (refetchWalk c i tag)) (tagged s (refetchWalk c i tag))) := by
  have hat : walkAt (allocWalk s (refetchWalk c i tag)) tag = some (tagged s (refetchWalk c i tag)) := walkAt_allocWalk ht
  rw [xcfgRefetch_eq hm hc hd, ho, if_neg (by simp), hx]
  dsimp only
  rw [if_neg (by omega), ht]
  dsimp only
  rw [hat]
  rfl

end

/-- The copy that a refetched word leaves (R171). -/
def renewed (c : XCopy) (word stamp : Word) : XCopy :=
  let c := { c with expired := false, invBorn := none, kept := false }
  if c.word = word then { c with stamp := stamp } else { c with staged := some (word, stamp) }

theorem refetchDone_eq {c : XCopy} {ev : SowEvent} {born : Nat} (word stamp : Word) (hc : (intOf s (ikey 0 i)).copy = some c)
    (he : c.owner = ev.tenant) (hb : ∀ b, c.invBorn = some b → b ≤ born) (ho : ownerOf s i = some ev.tenant) :
    refetchDone s ev i born word stamp =
      setInt s (ikey 0 i) { intOf s (ikey 0 i) with copy := some (renewed c word stamp) } := by
  have hinv : (match c.invBorn with | some b => decide (born < b) | none => false) = false := by
    cases hcb : c.invBorn with
    | none => rfl
    | some b => exact decide_eq_false (by have := hb b hcb; omega)
  unfold refetchDone
  dsimp only
  rw [hc]
  dsimp only
  rw [if_neg (by rw [Bool.or_eq_true, not_or]; exact ⟨by simp [he], ne_true_of_eq_false hinv⟩), if_neg (by simp [ho])]
  rfl

/-- Only queues, counters, the drop flag and tenant records take part in a fault record. -/
theorem queueFlt_irq (s : State) (f : FltRec) : (queueFlt s f).irq = s.irq := by
  unfold queueFlt
  dsimp only
  split <;> rfl

theorem queueFlt_qFlt (f : FltRec) (h : s.xl.qFlt.length < 256) : (queueFlt s f).xl.qFlt = s.xl.qFlt ++ [f] := by
  unfold queueFlt
  dsimp only
  rw [if_neg (show ¬ 256 ≤ (house s hWALKFAULT).xl.qFlt.length by change ¬ 256 ≤ s.xl.qFlt.length; omega)]
  rfl

theorem houseKey_ext (h : isExt i = true) : houseKey (ikey 0 i) = false := by
  simp only [isExt, Bool.and_eq_true, decide_eq_true_eq] at h
  unfold houseKey ikey
  rw [if_neg (by omega), Bool.and_eq_false_iff]
  right
  simp
  omega

theorem refetches : Refetches := by
  intro s i c hq hm hc hd
  have hext : isExt i = true := by
    simp only [refetchDue, Bool.and_eq_true] at hd
    exact hd.1.1.1.1.1
  have hk := houseKey_ext hext
  refine ⟨fun tag ho hx hh ht => ?_, fun x ho hx hb => ?_, fun ho => ?_⟩
  · refine ⟨_, congrArg (fun e => Host.Outcome.next (settle s e)) (xcfgRefetch_begins hm hc hd ho hx hh ht), ?_⟩
    rw [settle_xl_walks]
    exact ⟨_, mem_putWalk (walkAt_allocWalk (w := refetchWalk c i tag) ht) rfl, rfl, rfl, rfl, rfl, rfl⟩
  · have hdone : xcfgRefetch s i = setInt (nextSerial (touchX s (xSetNo i) x.way)) (ikey 0 i)
        { intOf s (ikey 0 i) with copy := some (renewed c x.word x.stamp) } := by
      rw [xcfgRefetch_eq hm hc hd, ho, if_neg (by simp), hx]
      exact refetchDone_eq (s := nextSerial (touchX s (xSetNo i) x.way)) x.word x.stamp hc rfl hb ho
    refine ⟨_, congrArg (fun e => Host.Outcome.next (settle s e)) hdone, renewed c x.word x.stamp, ?_, ?_⟩
    · rw [intOf_settle_of_still (by rfl) (by rfl) (by rfl) hk, intOf_setInt, if_pos rfl]
    · unfold renewed
      dsimp only
      split <;> rename_i hw
      · exact ⟨rfl, rfl, rfl, rfl, fun _ => rfl, fun hne => absurd hw hne⟩
      · exact ⟨rfl, rfl, rfl, rfl, fun he => absurd he hw, fun _ => rfl⟩
  · let f := faultRec s (refetchEvent c) 7 6 false 0 none false
    have hlost : xcfgRefetch s i = setInt (queueFlt s f) (ikey 0 i)
        { intOf s (ikey 0 i) with copy := some { c with expired := false, kept := true, invBorn := none } } := by
      have hi : intOf (queueFlt s f) (ikey 0 i) = intOf s (ikey 0 i) := by
        unfold intOf
        rw [queueFlt_irq]
      rw [xcfgRefetch_eq hm hc hd, if_pos ho]
      unfold refetchLost keepCopy
      dsimp only
      rw [show faultRec s (refetchEvent c) 7 6 false 0 none false = f from rfl, hi, hc]
    obtain ⟨-, -, hpw, -, -, -, -, -, -, hlive, -, him, -⟩ := queueFlt_still s f
    refine ⟨_, congrArg (fun e => Host.Outcome.next (settle s e)) hlost, ?_, fun hlen => ⟨f, ?_, rfl, rfl, rfl⟩⟩
    · rw [intOf_settle_of_still (x := setInt (queueFlt s f) (ikey 0 i) _) hpw hlive him hk, intOf_setInt, if_pos rfl]
    · rw [settle_xl_qFlt]
      exact queueFlt_qFlt f hlen

/-! ## Sweeps (R174) -/

theorem onWire_sendWalker (h : (linkOf s l).ll.vpQ = []) : OnWire s (sendWalker s l) := by
  unfold sendWalker
  dsimp only
  split
  · split
    · exact ((onWire_setLink _ _ _).trans (onWire_pushTlp _ _ _ _ _ _ _ _)).trans (onWire_setLink _ _ _)
    · exact onWire_refl s
  · rw [h]
    exact onWire_refl s
  · exact onWire_refl s

/-- The walk whose read has entered a VC queue. -/
def entered (w : Walk) (l : Link) (chk : Option Nat) : Walk := { w with issued := some l, waits := none, firstChk := chk, got := [] }

/-- A read enters the VC queue of its link and nothing posted goes before it: only links and lanes move beside the walk, its count and the serial number. -/
theorem enterVc_read {chk : Option Nat} (hp : isPost w = false) (hv : (linkOf s l).ll.vpQ = []) :
    OnWire (nextSerial (putWalk (outAdd s w.e.tenant) (entered w l chk))) (enterVc s w l chk) := by
  unfold enterVc
  rw [hp]
  refine (onWire_setLink _ l _).trans (onWire_sendWalker ?_)
  refine (congrArg (fun r : LinkRec => r.ll.vpQ) (linkOf_setLink_self _ l _)).trans ?_
  exact hv

theorem regionCheck_congr (hl : e.cfg.live = s.cfg.live) (hk : e.links = s.links) (n : Tenant) (addr : Nat) :
    regionCheck e n addr = regionCheck s n addr := by
  unfold regionCheck regionFor regionDevice regionColour tenColour regionLink regionLimit regionBase regionW tabLive liveAt linkOf
  rw [hl, hk]

theorem walkReadIssue_of_pass {j : Nat} (hw : walkAt s tag = some w) (hm : mayIssue s w = true) (hk : w.kind ≠ .refetch)
    (hr : regionCheck s w.e.tenant w.addr = .pass l j) : walkReadIssue s tag = issueOn s w l := by
  unfold walkReadIssue
  rw [hw]
  dsimp only
  rw [if_pos hm, if_neg (by simp [hk]), hr]

theorem issueOn_active (hf : w.firstChk = none) (hl : (linkOf s l).st = .active) : issueOn s w l = enterVc s w l (some s.xl.serial) := by
  unfold issueOn
  rw [show linkActive s l = true from decide_eq_true hl, if_pos rfl, hf]
  rfl

/-- The walk of a sweep's first block. -/
def sweepWalk (s : State) (n : Tenant) (tag : BitVec 6) : Walk :=
  { tag := tag, gen := 0, kind := .sweep, e := { tenant := n, link := 0, dev := 0, ev := 0 }, start := .block,
    stage := .block, addr := blockAddr s n 0, stamp := 0, born := 0 }

/-- FN_STAT.SPILL is clear and the tenant is the one swept last. -/
def sweepTaken (s : State) (n : Tenant) : State := { setTen s n { tenOf s n with spill := false } with xl := { s.xl with swept := n } }

theorem sweepStart_eq (s : State) (n : Tenant) (tag : BitVec 6) : sweepStart s n tag =
    if blockCount s n = 0 then sweepTaken s n else allocWalk (sweepTaken s n) (sweepWalk s n tag) := rfl

theorem wanted_of_turn (hturn : sweepTurn s = some n) : tenMe s n = true ∧ tenEnabled s n = true := by
  have h := List.find?_some hturn
  simp only [wantsSweep, Bool.and_eq_true] at h
  exact ⟨h.1.2, h.1.1.2⟩

/-- A read of tenant `n` has entered a VC queue: it is counted, its walk `v` says so, and the serial number has moved on. -/
def readIssued (d : State) (n : Tenant) (v : Walk) : State := nextSerial (putWalk (outAdd d n) v)

theorem readIssued_eq (d : State) (n : Tenant) (v : Walk) :
    readIssued d n v = { d with tens := (outAdd d n).tens, xl := (readIssued d n v).xl } := rfl

/-- The sweep of a tenant has begun. -/
def sweepBegun (s : State) (n : Tenant) (tag : BitVec 6) : State := allocWalk (sweepTaken s n) (sweepWalk s n tag)

theorem sweepBegun_eq (s : State) (n : Tenant) (tag : BitVec 6) : sweepBegun s n tag =
    { s with tens := (setTen s n { tenOf s n with spill := false }).tens, xl := (sweepBegun s n tag).xl } := rfl

/-- The sweep has begun, and the read of its first block has entered a VC queue. -/
def sweepIssued (s : State) (n : Tenant) (tag : BitVec 6) (l : Link) : State :=
  readIssued (sweepBegun s n tag) n (entered (tagged (sweepTaken s n) (sweepWalk s n tag)) l (some (sweepBegun s n tag).xl.serial))

theorem sweepIssued_eq (s : State) (n : Tenant) (tag : BitVec 6) (l : Link) :
    ∃ ts x, sweepIssued s n tag l = { s with tens := ts, xl := x } := by
  unfold sweepIssued
  rw [readIssued_eq, sweepBegun_eq]
  exact ⟨_, _, rfl⟩

theorem sweepBegun_tenOf (s : State) (n : Tenant) (tag : BitVec 6) : tenOf (sweepBegun s n tag) n = { tenOf s n with spill := false } :=
  (tenOf_setTen s n n _).trans (if_pos rfl)

theorem tenOf_readIssued (d : State) (n : Tenant) (v : Walk) :
    tenOf (readIssued d n v) n = { tenOf d n with outstanding := (tenOf d n).outstanding + 1 } :=
  (tenOf_setTen d n n _).trans (if_pos rfl)

theorem sweepIssued_tenOf (s : State) (n : Tenant) (tag : BitVec 6) (l : Link) : (tenOf (sweepIssued s n tag l) n).spill = false ∧
    (tenOf (sweepIssued s n tag l) n).outstanding = (tenOf s n).outstanding + 1 := by
  unfold sweepIssued
  rw [tenOf_readIssued, sweepBegun_tenOf]
  exact ⟨rfl, rfl⟩

section
variable (hm : s.pw.mode = .operating) (hnow : sweepNow s = none) (hturn : sweepTurn s = some n) (ht : freeTag s = some tag)
  (hp : 1024 ≤ poolFree s) (hh : heldBack s < 16)
include hm hnow hturn ht hp hh

theorem spillSweep_starts : spillSweep s n 0 .read = walkReadIssue (sweepStart s n tag) tag := by
  unfold spillSweep
  rw [hnow, hturn, ht]
  dsimp only
  rw [if_pos (by simp [operating, hm, hp, hh])]

theorem spillSweep_empty (hb : blockCount s n = 0) : spillSweep s n 0 .read = sweepTaken s n := by
  have hat : walkAt (sweepTaken s n) tag = none := walkAt_of_free ht
  rw [spillSweep_starts hm hnow hturn ht hp hh, sweepStart_eq, if_pos hb]
  unfold walkReadIssue
  rw [hat]

theorem spillSweep_reads {j : Nat} (hb : blockCount s n ≠ 0) (hr : regionCheck s n (spillBase s n) = .pass l j)
    (hl : (linkOf s l).st = .active) (hv : (linkOf s l).ll.vpQ = []) :
    OnWire (sweepIssued s n tag l) (spillSweep s n 0 .read) := by
  let d := sweepBegun s n tag
  let w := tagged (sweepTaken s n) (sweepWalk s n tag)
  have hat : walkAt d tag = some w := walkAt_allocWalk (s := sweepTaken s n) (w := sweepWalk s n tag) ht
  obtain ⟨hme, hen⟩ := wanted_of_turn hturn
  have hpend : (tenOf d n).resetPend = (tenOf s n).resetPend := by
    rw [show tenOf d n = { tenOf s n with spill := false } from sweepBegun_tenOf s n tag]
  have hmed : tenMe d n = true := (tenMe_congr (x := s) (y := d) rfl hpend).trans hme
  have hend : tenEnabled d n = true := by
    unfold tenEnabled at hen ⊢
    rw [hpend]
    exact hen
  have hmay : mayIssue d w = true := by
    have h1 : w.kind = .sweep := rfl
    have h2 : w.e.tenant = n := rfl
    have h3 : w.stage = .block := rfl
    have h4 : w.issued = none := rfl
    have h5 : w.dead = false := rfl
    have h6 : operating d = true := decide_eq_true hm
    simp [mayIssue, h1, h2, h3, h4, h5, h6, hmed, hend]
  have haddr : w.addr = spillBase s n := Nat.add_zero _
  have hcheck : regionCheck d w.e.tenant w.addr = .pass l j := by
    rw [haddr, regionCheck_congr (s := s) (e := d) rfl rfl]
    exact hr
  have hissue : walkReadIssue d tag = enterVc d w l (some d.xl.serial) :=
    (walkReadIssue_of_pass hat hmay (by simp [show w.kind = WalkKind.sweep from rfl]) hcheck).trans (issueOn_active rfl hl)
  rw [spillSweep_starts hm hnow hturn ht hp hh, sweepStart_eq, if_neg hb, show allocWalk (sweepTaken s n) (sweepWalk s n tag) = d from rfl, hissue]
  exact enterVc_read rfl hv

end

/-- The bits of a block with one word set at bit `j % 32` of word `j / 32`. -/
def oneBit (j : Nat) : List Word := (upTo 16).map fun k => if k = j / 32 then (1#32 <<< (j % 32)) else 0

theorem find_oneBit {j k : Nat} (hk : k < 16) :
    (placeWords [] 0 (oneBit j)).find? (fun p => p.1 = k) = some (k, if k = j / 32 then (1#32 <<< (j % 32)) else 0) := by
  have hlen : (oneBit j).length = 16 := by simp [oneBit, upTo]
  rw [find_placeWords, if_pos ⟨Nat.zero_le _, by omega⟩]
  simp [oneBit, upTo, List.getD_eq_getElem?_getD, List.getElem?_range hk]

theorem bits_of_shift : ∀ k, k < 32 → (List.range 32).filter (1#32 <<< k).getLsbD = [k] := by decide

theorem blockBits_of_words (f : Nat → Word) (h : ∀ k, k < 16 → w.got.find? (fun p => p.1 = k) = some (k, f k)) :
    blockBits s w = (s, (List.range 16).flatMap fun k => ((List.range 32).filter (f k).getLsbD).map (32 * k + ·)) := by
  have hgen : ∀ m, m ≤ 16 → (List.range m).foldl (fun (a : State × List Nat) k =>
      let r := readWord a.1 w k
      (r.1, a.2 ++ ((upTo 32).filter r.2.getLsbD).map (32 * k + ·))) (s, []) =
      (s, (List.range m).flatMap fun k => ((List.range 32).filter (f k).getLsbD).map (32 * k + ·)) := by
    intro m hm
    induction m with
    | zero => rfl
    | succ m ih =>
      rw [List.range_succ, List.foldl_append, ih (by omega), List.flatMap_append, List.flatMap_singleton]
      simp only [List.foldl_cons, List.foldl_nil, readWord_of_got (h m (by omega))]
      rfl
  exact hgen 16 (le_refl _)

theorem blockBits_oneBit {j : Nat} (hj : j < 512) (hg : w.got = placeWords [] 0 (oneBit j)) : blockBits s w = (s, [j]) := by
  rw [blockBits_of_words (fun k => if k = j / 32 then (1#32 <<< (j % 32)) else 0) fun k hk => hg ▸ find_oneBit hk]
  refine congrArg (Prod.mk s) ?_
  rw [flatMap_range_single _ (m := j / 32) (by omega)]
  · rw [if_pos rfl, bits_of_shift _ (by omega)]
    simp only [List.map_cons, List.map_nil]
    congr 1
    omega
  · intro k _ hk
    rw [if_neg hk]
    simp

/-- The record of an Inactive extended INTID after its trigger. -/
def awoken (r : IntRec) (c : XCopy) (note : Option NoteKey) : IntRec :=
  { r with st := .pending, age := 0, note := note, noteId := none, discard := false, copy := some c }

/-- The state in which the record of a key has been rewritten on the way. -/
theorem triggerExt_inactive {ev : SowEvent} {note : Option NoteKey} (word stamp : Word) (he : tenEnabled s ev.tenant = true)
    (hst : (intOf s (ikey 0 i)).st = .inactive) (hp : poolFree s ≠ 0) : ∃ r, triggerExt s ev i word stamp note =
      setInt (setInt s (ikey 0 i) r) (ikey 0 i)
        (awoken (intOf s (ikey 0 i)) ⟨word, stamp, ev.tenant, false, false, none, none⟩ note) := by
  let k := ikey 0 i
  let r : IntRec := { intOf s k with st := .pending, age := 0, note := note, noteId := none, discard := false }
  have hev : evT s k note = setInt s k r := by
    rw [evT_eq, show (intOf s k).st = .inactive from hst]
  refine ⟨r, ?_⟩
  have hx : triggerExt s ev i word stamp note = setInt (evT s k note) k
      { intOf (evT s k note) k with copy := some ⟨word, stamp, ev.tenant, false, false, none, none⟩ } := by
    unfold triggerExt
    dsimp only
    rw [he, if_neg (by simp), if_pos hst, if_neg hp]
  rw [hx, hev, intOf_setInt, if_pos rfl]
  rfl

/-- The sweep's walk as it goes to its CLRBITS of bit `j`. -/
def toClear (s : State) (w : Walk) (j : Nat) : Walk :=
  { w with todo := [], did := [j], extra := [], stage := .clear, addr := blockAddr s w.e.tenant w.block, issued := none, waits := none, got := [] }

theorem sweepBits_one {j : Nat} {x : XcfgEntry} (hr : inXRange s w.e.tenant (sweptIntid s w j) = true)
    (ho : ownerOf s (sweptIntid s w j) = some w.e.tenant) (hp : 64 ≤ poolFree s) (hx : lookupX s (sweptIntid s w j) = some x)
    (he : w.extra = [])
    (hu : triggerExt (touchX s (xSetNo (sweptIntid s w j)) x.way) w.e (sweptIntid s w j) x.word x.stamp none = u) :
    sweepBits w 2 s [j] [] = putWalk u (toClear u w j) := by
  unfold sweepBits
  dsimp only
  rw [hr, ho, if_neg (by simp), if_neg (by omega), hx]
  dsimp only
  rw [hu]
  unfold sweepBits
  dsimp only [List.nil_append]
  unfold sweepClose
  rw [he]
  rfl

/-- The sweep's walk with its one bit to do. -/
def withTodo (w : Walk) (j : Nat) : Walk := { w with todo := [j], issued := none, got := [] }

theorem readResult_block {j : Nat} (hst : w.stage = .block) (hj : j < 512) (hg : w.got = placeWords [] 0 (oneBit j)) (hdid : w.did = []) :
    readResult s w = sweepBits (withTodo w j) 2 s [j] [] := by
  have hone : sweepOn s (withTodo w j) = sweepBits (withTodo w j) 2 s [j] [] := by
    unfold sweepOn
    rw [show (withTodo w j).did = [] from hdid]
    rfl
  rw [← hone]
  unfold readResult
  rw [hst]
  dsimp only
  rw [blockBits_oneBit hj hg, ← hst]
  exact congrArg (sweepOn s) rfl

theorem outEnd_tens (s : State) (w : Walk) : ∃ ts, outEnd s w = { s with tens := ts } ∧ resets { s with tens := ts } = resets s := by
  unfold outEnd
  split
  · exact ⟨_, rfl, rfl⟩
  · exact ⟨_, rfl, outSub_resets s w.e.tenant⟩

/-- The completion of a read whose walk waits for it. -/
theorem walkCompletion_of_read {words : List Word} (ha : arrives s l) (hw : walkAt s tag = some w) (hi : w.issued.isSome = true)
    (hp : isPost w = false) (hd : w.dead = false) (hg : w.got = []) : walkCompletion s l tag w.gen 0 true ⟨0, words⟩ =
      readResult (outEnd s { w with got := placeWords [] 0 words }) { w with got := placeWords [] 0 words } := by
  obtain ⟨hm, hl⟩ := ha
  unfold walkCompletion
  rw [if_pos (by simp [linkActive, operating, hm, hl]), hw]
  dsimp only
  rw [if_pos (by simp [hi, hp]), hd, hg]
  rfl

section
variable {j : Nat} {x : XcfgEntry} (hm : s.pw.mode = .operating) (hl : (linkOf s l).st = .active) (hw : walkAt s tag = some w)
  (hst : w.stage = .block) (hd : w.dead = false) (hi : w.issued.isSome = true) (hg : w.got = []) (hdid : w.did = [])
  (hex : w.extra = []) (hj : j < 512) (hen : tenEnabled s w.e.tenant = true) (hr : inXRange s w.e.tenant (sweptIntid s w j) = true)
  (ho : ownerOf s (sweptIntid s w j) = some w.e.tenant) (hx : lookupX s (sweptIntid s w j) = some x) (hp : 64 ≤ poolFree s)
  (hin : (intOf s (ikey 0 (sweptIntid s w j))).st = .inactive)
include hm hl hw hst hd hi hg hdid hex hj hen hr ho hx hp hin

/-- The one set bit of the block is triggered, and is to be cleared in memory. -/
theorem walkCompletion_sweeps : ∃ ts c r v, v.tag = tag ∧ v.stage = .clear ∧ v.did = [j] ∧
    walkCompletion s l tag w.gen 0 true ⟨0, oneBit j⟩ =
      putWalk (setInt (setInt { s with tens := ts, xl := { s.xl with xlru := c } } (ikey 0 (sweptIntid s w j)) r)
        (ikey 0 (sweptIntid s w j)) (awoken (intOf s (ikey 0 (sweptIntid s w j))) ⟨x.word, x.stamp, w.e.tenant, false, false, none, none⟩ none)) v := by
  let w' : Walk := { w with got := placeWords [] 0 (oneBit j) }
  let i := sweptIntid s w j
  obtain ⟨ts, hts, hres⟩ := outEnd_tens s w'
  let u : State := { s with tens := ts }
  let u1 : State := touchX u (xSetNo i) x.way
  have hpost : isPost w = false := by simp [isPost, hst]
  have henu : tenEnabled u1 w.e.tenant = true := by
    have hpend : (tenOf u1 w.e.tenant).resetPend = (tenOf s w.e.tenant).resetPend := congrArg (fun r => (r w.e.tenant).1) hres
    unfold tenEnabled at hen ⊢
    rw [hpend]
    exact hen
  obtain ⟨r, htr⟩ := triggerExt_inactive (s := u1) (i := i) (ev := w.e) (note := none) x.word x.stamp henu hin
    (by change poolFree s ≠ 0; omega)
  have hbits := (readResult_block (s := u) (w := w') hst hj rfl hdid).trans
    (sweepBits_one (s := u) (w := withTodo w' j) (x := x) hr ho hp hx hex htr)
  refine ⟨ts, u1.xl.xlru, r, _, ?_, ?_, ?_, (walkCompletion_of_read ⟨hm, hl⟩ hw hi hpost hd hg).trans
    ((congrArg (readResult · w') hts).trans hbits)⟩
  · exact (walkAt_tag hw : w.tag = tag)
  · rfl
  · rfl

end

theorem houseKey_inXRange (h : inXRange s n i = true) : houseKey (ikey 0 i) = false := by
  simp only [inXRange, Bool.and_eq_true] at h
  exact houseKey_ext h.1.1

theorem sweeps : Sweeps := by
  intro s n tag hq hm
  refine ⟨fun hnow hturn ht hp hh => ⟨fun hb => ?_, fun l j hb hr hl hv => ?_⟩, fun block access h => ?_, ?_⟩
  · exact ⟨_, congrArg (fun e => Host.Outcome.next (settle s e)) (spillSweep_empty hm hnow hturn ht hp hh hb),
      (unflagged_xl (unflagged_setTen (unflagged_refl s) n _) _).upToMarks hq⟩
  · have hw := spillSweep_reads hm hnow hturn ht hp hh hb hr hl hv
    obtain ⟨ls, ns, hw⟩ := hw
    obtain ⟨hspill, hout⟩ := sweepIssued_tenOf s n tag l
    obtain ⟨ts, x, hi⟩ := sweepIssued_eq s n tag l
    have hmarks : UpToMarks { sweepIssued s n tag l with links := ls, lanes := ns } _ := Unflagged.upToMarks hq (by
      rw [hi]
      exact ⟨⟨rfl, rfl, rfl, rfl, rfl, rfl⟩, rfl⟩)
    refine ⟨_, congrArg (fun e => Host.Outcome.next (settle s e)) hw, ?_, ?_, ?_, ?_⟩
    · rw [tenOf_settle]
      exact hspill
    · rw [tenOf_settle]
      exact hout
    · obtain ⟨h, ht⟩ := hmarks
      rw [ht]
      rw [hi]
    · rw [settle_xl_walks]
      refine ⟨_, mem_putWalk (s := outAdd (sweepBegun s n tag) n)
        (walkAt_allocWalk (s := sweepTaken s n) (w := sweepWalk s n tag) ht) rfl, rfl, rfl, rfl, rfl, rfl, Nat.add_zero _, rfl⟩
  · have hs : spillSweep s n block access = s := by
      unfold spillSweep
      obtain ⟨hnow, h⟩ | ⟨w, hnow, h⟩ := h
      · rw [hnow]
        dsimp only
        split
        · rename_i m tag hturn _
          refine if_neg fun hc => ?_
          simp only [Bool.and_eq_true, decide_eq_true_eq] at hc
          obtain ⟨⟨⟨⟨⟨hmn, hb⟩, ha⟩, -⟩, -⟩, -⟩ := hc
          obtain h | h | h := h
          · exact h (hturn.trans (congrArg some hmn))
          · exact h hb
          · exact h ha
        · rfl
      · rw [hnow]
        dsimp only
        refine if_pos ?_
        simpa [or_assoc] using h
    exact ⟨_, congrArg (fun e => Host.Outcome.next (settle s e)) hs, (unflagged_refl s).upToMarks hq⟩
  · intro w l j x hl hw hk hst hd hi hn hg hdid hex hj i hen hr ho hx hp hin
    subst hn
    obtain ⟨ts, c, r, v, hvt, hvs, hvd, hc⟩ := walkCompletion_sweeps hm hl hw hst hd hi hg hdid hex hj hen hr ho hx hp hin
    refine ⟨_, congrArg (fun e => Host.Outcome.next (settle s e)) hc, ?_, fun k hk hne => ?_, ?_⟩
    · rw [intOf_settle_of_still (by rfl) (by rfl) (by rfl) (houseKey_inXRange hr)]
      exact congrArg IntRec.st ((intOf_setInt _ _ _ _).trans (if_pos rfl))
    · rw [intOf_settle_of_still (by rfl) (by rfl) (by rfl) hk]
      exact ((intOf_setInt _ _ _ _).trans (if_neg hne)).trans ((intOf_setInt _ _ _ _).trans (if_neg hne))
    · rw [settle_xl_walks]
      exact ⟨v, mem_putWalk hw hvt, hvt, hvs, hvd⟩

/-- Settles O41. -/
theorem walkerResumes : Obligations.WalkerResumes := by
  refine ⟨?_, refetches, sweeps⟩
  intro s n b hq hm hme hen hb out
  refine ⟨fun tag hx ht hj h1 h2 h3 => ?_, fun x hx hi => ?_⟩
  · have hn : b.e.tenant = n := by simpa using List.find?_some hb
    subst hn
    have hnew : handleEvent (released s b) b.e = some (newWalk (released s b) b.e tag .dt none) := by
        rw [handleEvent_of_miss (s := released s b) hx, needWalk_new (s := released s b) hme hj ht]
    rw [newWalk_of_known (s := released s b) ⟨h1, h2, h3⟩ ht] at hnew
    refine ⟨_, congrArg (fun e => Host.Outcome.next (settle s e)) (walkBlockedRelease_eq hm hme hen hb hnew),
      settle_xl_blocked _ _, missWalk (released s b) b.e tag, ?_, rfl, rfl, rfl⟩
    rw [settle_xl_walks]
    exact List.mem_append.2 (.inr (List.mem_singleton.2 rfl))
  · exact ⟨_, congrArg (fun e => Host.Outcome.next (settle s e)) (walkBlockedRelease_eq hm hme hen hb (handleEvent_of_hit hx hi)),
      ((gathers_xl s _).trans (gathers_hit out b.e x.intid _ _)).closed hq⟩

end Sys2Proof.Machine
end

section
/-!
PROOFS. Chapters 07 and 08: the reads of a walk (O43).
-/
namespace Sys2Proof.Machine
open Sys2Proof.Safety Sys2Proof.Claims

variable {s e b u : State} {n : Tenant} {l m : Link} {tag : BitVec 6} {w v : Walk} {i : Intid}

/-! ## A read in its VC queue (R156, R282) -/

theorem linkOf_fillFifos_other {x : Link} (hx : x ≠ l) (n : Nat) (s : State) : linkOf (fillFifos l n s) x = linkOf s x := by
  induction n generalizing s with
  | zero => rfl
  | succ n ih =>
    unfold fillFifos
    dsimp only
    split
    · split
      · rw [ih]
        simp [setTx, linkOf_setLink, hx]
      · rfl
    · rfl

theorem linkOf_pushTlp_other {x : Link} (hx : x ≠ l) (s : State) (ty vc g : Nat) (fn : BitVec 8) (body : List Word)
    (ring : Option (Bool × Tenant)) : linkOf (pushTlp s l ty vc g fn body ring) x = linkOf s x := by
  unfold pushTlp fillOut
  rw [linkOf_fillFifos_other hx, linkOf_setLink, if_neg hx]

theorem enqueue_vnQ (ll : LinkLayer) (ty vc g : Nat) (fn : BitVec 8) (body : List Word) (ring : Option (Bool × Tenant)) :
    (enqueue ll ty vc g fn body ring).vnQ = ll.vnQ := by
  obtain ⟨p, n, i, h⟩ := spend_eq ll vc g
  unfold enqueue reported
  dsimp only
  rw [h]

/-- Packets that wait to be sent or to be acknowledged. -/
def heldPackets (s : State) (l : Link) : Nat := (linkOf s l).ll.vnQ.length + (linkOf s l).ll.replay.length

/-- The read at the head of the queue goes into the replay buffer. -/
theorem sendWalker_held (h : (linkOf s l).ll.vpQ = []) : heldPackets (sendWalker s l) l = heldPackets s l := by
  unfold sendWalker
  dsimp only
  split
  · split
    · next q rest hq =>
      let u := setLink s l { linkOf s l with ll := { (linkOf s l).ll with vnQ := rest } }
      have hu : linkOf u l = { linkOf s l with ll := { (linkOf s l).ll with vnQ := rest } } := linkOf_setLink_self _ _ _
      obtain ⟨out, k, hp⟩ := linkOf_pushTlp u l q.type 1 q.grains q.fn q.body none
      obtain ⟨hr, -⟩ := enqueue_replay (linkOf u l).ll q.type 1 q.grains q.fn q.body none
      have hread (d : State) : linkOf (tookRead d l) l = { linkOf d l with ll := { (linkOf d l).ll with lastN := true } } :=
        linkOf_setLink_self _ _ _
      unfold heldPackets
      rw [hread, hp]
      dsimp only
      rw [enqueue_vnQ, hr, hu, hq, List.length_append, List.length_cons, List.length_cons, List.length_nil]
      dsimp only
      omega
    · rfl
  · rw [h]
  · rfl

theorem sendWalker_other {x : Link} (hx : x ≠ l) (h : (linkOf s l).ll.vpQ = []) : linkOf (sendWalker s l) x = linkOf s x := by
  unfold sendWalker
  dsimp only
  split
  · split
    · unfold tookRead
      rw [linkOf_setLink, if_neg hx, linkOf_pushTlp_other hx, linkOf_setLink, if_neg hx]
    · rfl
  · rw [h]
  · rfl

/-- The state with one more read in the queue of a link. -/
def queueRead (s : State) (l : Link) (w : Walk) : State :=
  setLink s l { linkOf s l with ll := { (linkOf s l).ll with vnQ := (linkOf s l).ll.vnQ ++ [walkTlp w] } }

theorem enterVc_of_read {chk : Option Nat} (hp : isPost w = false) :
    enterVc s w l chk = sendWalker (queueRead (readIssued s w.e.tenant (entered w l chk)) l w) l := by
  unfold enterVc
  rw [hp]
  rfl

theorem queueRead_vpQ (hv : (linkOf s l).ll.vpQ = []) (chk : Option Nat) : (linkOf (queueRead (readIssued s w.e.tenant (entered w l chk)) l w) l).ll.vpQ = [] :=
  (congrArg (fun r : LinkRec => r.ll.vpQ) (linkOf_setLink_self _ l _)).trans hv

section
variable (hp : isPost w = false) (hv : (linkOf s l).ll.vpQ = [])
include hp hv

theorem enterVc_held (chk : Option Nat) : heldPackets (enterVc s w l chk) l = heldPackets s l + 1 := by
  rw [enterVc_of_read hp, sendWalker_held (queueRead_vpQ hv chk)]
  have hl : linkOf (queueRead (readIssued s w.e.tenant (entered w l chk)) l w) l =
      { linkOf s l with ll := { (linkOf s l).ll with vnQ := (linkOf s l).ll.vnQ ++ [walkTlp w] } } := linkOf_setLink_self _ l _
  unfold heldPackets
  rw [hl]
  dsimp only
  rw [List.length_append, List.length_singleton]
  omega

theorem enterVc_other {x : Link} (hx : x ≠ l) (chk : Option Nat) : linkOf (enterVc s w l chk) x = linkOf s x := by
  rw [enterVc_of_read hp, sendWalker_other hx (queueRead_vpQ hv chk)]
  exact (linkOf_setLink _ l x _).trans (if_neg hx)

end

theorem issueOn_of_active (hl : (linkOf s l).st = .active) :
    issueOn s w l = enterVc s w l (if w.firstChk.isNone then some s.xl.serial else w.firstChk) := by
  unfold issueOn
  rw [show linkActive s l = true from decide_eq_true hl, if_pos rfl]

/-! ## A read that waits for its link (R156, R185) -/

theorem onAllot_exitRequest (s : State) (l : Link) : OnAllot s (exitRequest s l) := by
  unfold exitRequest
  dsimp only
  split
  · split
    · exact onAllot_raiseReq _ _ _ _ _
    · exact onAllot_dropReq _ _
  · exact (onAllot_dropReq _ _).trans ⟨_, rfl, rfl⟩

/-- The walk whose access waits for a link. -/
def waiting (w : Walk) (l : Link) (chk : Option Nat) : Walk := { w with waits := some l, firstChk := chk }

theorem issueOn_of_not_active (hp : isPost w = false) (hl : (linkOf s l).st ≠ .active) :
    issueOn s w l = exitRequest (nextSerial (putWalk s
      (waiting w l (if w.firstChk.isNone then some s.xl.serial else w.firstChk)))) l := by
  unfold issueOn
  rw [show linkActive s l = false from decide_eq_false hl, if_neg Bool.false_ne_true, hp]
  rfl

theorem eq_of_mem_putWalk (h : v ∈ (putWalk s w).xl.walks) (ht : v.tag = w.tag) : v = w := by
  obtain ⟨v', -, hv⟩ := List.mem_map.1 h
  split at hv
  · exact hv.symm
  · next hne =>
    rw [hv] at hne
    exact absurd ht hne

/-! ## Accesses that fail (R163, R176) -/

/-- What a fault of an event's walk leaves: the walk is gone, and its record stands in Q-FLT. -/
def faultRecorded (s : State) (w : Walk) (code stage : Nat) (j : Option Nat) : State :=
  { s with
    tens := (setTen s w.e.tenant { tenOf s w.e.tenant with c4 := (tenOf s w.e.tenant).c4 + 1 }).tens
    xl := { s.xl with walks := s.xl.walks.filter fun v => v.tag ≠ w.tag
                      qFlt := s.xl.qFlt ++ [faultRec s w.e code stage false w.addr j true] } }

theorem unflagged_faultRecorded (h : Unflagged s e) (w : Walk) (code stage : Nat) (j : Option Nat) :
    Unflagged s (faultRecorded e w code stage j) := ⟨⟨h.pw, h.live, h.im, h.lean, h.jobs, h.orphan⟩, h.hsAcc⟩

theorem faultRecorded_congr {code stage : Nat} {j : Option Nat} (ht : v.tag = w.tag) (he : v.e = w.e) (ha : v.addr = w.addr)
    (hhl : u.hl = s.hl) (hq : u.xl.qFlt = s.xl.qFlt) : faultRecorded u v code stage j =
      { u with
        tens := (setTen u w.e.tenant { tenOf u w.e.tenant with c4 := (tenOf u w.e.tenant).c4 + 1 }).tens
        xl := { u.xl with walks := u.xl.walks.filter fun v => v.tag ≠ w.tag
                          qFlt := s.xl.qFlt ++ [faultRec s w.e code stage false w.addr j true] } } := by
  have hrec : faultRec u w.e code stage false w.addr j true = faultRec s w.e code stage false w.addr j true := by
    unfold faultRec
    rw [hhl]
  unfold faultRecorded
  rw [ht, he, ha, hrec, hq]

theorem queueFlt_of_room (f : FltRec) (h : s.xl.qFlt.length < 256) : queueFlt s f =
    house { s with tens := (setTen s f.tenant { tenOf s f.tenant with c4 := (tenOf s f.tenant).c4 + 1 }).tens
                   xl := { s.xl with qFlt := s.xl.qFlt ++ [f] } } hWALKFAULT := by
  unfold queueFlt
  dsimp only
  rw [if_neg (show ¬ 256 ≤ (house s hWALKFAULT).xl.qFlt.length by change ¬ 256 ≤ s.xl.qFlt.length; omega)]
  rfl

theorem accessFault_event {code : Nat} {j : Option Nat} (hk : w.kind = .event) (hj : w.joined = []) (hn : w.nak = false)
    (hc : 8 < code) (hlen : s.xl.qFlt.length < 256) :
    accessFault s w code j = house (faultRecorded s w code (stageNo w) j) hWALKFAULT := by
  have hcode : (3 ≤ code && code ≤ 8 && stampExpired s w.stamp && !w.repeated) = false := by
    rw [decide_eq_false (show ¬ code ≤ 8 by omega)]
    simp
  unfold accessFault walkFault
  rw [if_neg (by simp [hk]), hcode, if_neg Bool.false_ne_true]
  unfold faultEffect walkEvents
  rw [hk, hj]
  have hone : faultOne w code (stageNo w) w.addr j (removeWalk s w.tag) w.e =
      queueFlt (removeWalk s w.tag) (faultRec s w.e code (stageNo w) false w.addr j true) := by
    unfold faultOne
    rw [hn]
    rfl
  exact hone.trans (queueFlt_of_room _ hlen)

theorem regionCheck_fail_code {addr code : Nat} {j : Option Nat} (h : regionCheck s n addr = .fail code j) : 8 < code := by
  unfold regionCheck at h
  split_ifs at h
  · cases h; decide
  · split at h
    · cases h; decide
    · split_ifs at h <;> cases h <;> decide

/-! ## Results (R155) -/

theorem readResult_dt {lo hi : Word} (hst : w.stage = .dt) (hg : w.got = placeWords [] 0 [lo, hi]) (hv : lo.getLsbD 0 = true)
    (hlog : fld hi 16 5 ≤ 16) (hev : w.e.ev.toNat < 2 ^ fld hi 16 5) : readResult s w =
      putWalk s { w with nak := lo.getLsbD 1, stage := .et, issued := none, got := [],
                         addr := fld hi 0 16 * 2 ^ 32 + lo.toNat / 64 * 64 + 8 * w.e.ev.toNat } := by
  have h0 (d : State) : readWord d w 0 = (d, lo) := readWord_of_got (by rw [hg, find_placeWords]; rfl)
  have h1 (d : State) : readWord d w 1 = (d, hi) := readWord_of_got (by rw [hg, find_placeWords]; rfl)
  unfold readResult
  rw [hst]
  dsimp only
  rw [h0, h1]
  dsimp only
  have hb : bit lo 0 = true := hv
  rw [hb, if_neg (by simp; omega), if_neg (by omega)]
  rfl

/-- Fills change the caches, and may take a free value. -/
theorem fillT_eq (s : State) (t : TransEntry) : ∃ x f, fillT s t = { s with xl := x, free := f } ∧ x.walks = s.xl.walks := by
  have hpick : ∃ f, (pickWay s 4 (((s.xl.tcache.filter fun u => !(u.part = t.part && sameKey u.e t.e)).filter
      fun u => tSetNo u.part u.e = tSetNo t.part t.e).map (·.way)) (treeVictim (tTree s (tSetNo t.part t.e)) 2 1 - 4)).1 = { s with free := f } := by
    unfold pickWay
    split
    · exact ⟨_, rfl⟩
    · exact ⟨_, rfl⟩
    · exact ⟨_, rfl⟩
  obtain ⟨f, hf⟩ := hpick
  unfold fillT
  dsimp only
  rw [hf]
  exact ⟨_, _, rfl, rfl⟩

theorem fillCaches_event_eq (hj : w.joined = []) (hk : w.kind = .event) :
    ∃ x f, fillCaches s w none = { s with xl := x, free := f } ∧ x.walks = s.xl.walks := by
  unfold fillCaches
  by_cases hno : (w.noFill || w.repeated) = true
  · rw [if_pos hno]
    exact ⟨_, _, rfl, rfl⟩
  · rw [if_neg hno]
    dsimp only
    rw [if_pos hk]
    unfold walkEvents
    rw [hj]
    change ∃ x f, fillEvent w s w.e = _ ∧ _
    unfold fillEvent
    split
    · exact ⟨_, _, rfl, rfl⟩
    · exact fillT_eq s _

theorem keyIntid_shared (h : isShared i = true) : keyIntid (ikey 0 i) = i ∧ ikey 0 i = 8192 + i.toNat := by
  simp only [isShared, Bool.and_eq_true, decide_eq_true_eq] at h
  have hk : ikey 0 i = 8192 + i.toNat := if_neg (by omega)
  refine ⟨?_, hk⟩
  rw [hk, keyIntid, if_neg (by omega), Nat.add_sub_cancel_left]
  exact BitVec.ofNat_toNat _ _ |>.trans (BitVec.setWidth_eq _)

theorem houseKey_shared (h : isShared i = true) : houseKey (ikey 0 i) = false := by
  have hk := (keyIntid_shared h).2
  simp only [isShared, Bool.and_eq_true, decide_eq_true_eq] at h
  unfold houseKey
  rw [hk, decide_eq_false (show ¬ 8192 + i.toNat < 8192 + 144 by omega), Bool.and_false]

theorem trigger_shared_inactive {note : Option NoteKey} (hi : isShared i = true) (ho : ownerOf s i = some n) (he : tenEnabled s n = true)
    (hst : (intOf s (ikey 0 i)).st = .inactive) : trigger s (ikey 0 i) note =
      setInt s (ikey 0 i) { intOf s (ikey 0 i) with st := .pending, age := 0, note := note, noteId := none, discard := false } := by
  unfold trigger ifEnabled
  rw [(keyIntid_shared hi).1, ho]
  dsimp only
  rw [if_pos he, evT_eq, hst]

/-- A walk that knows its INTID and what its entry of the event table said of it. -/
def known (w : Walk) (i : Intid) (notify noFill : Bool) : Walk := { w with notify := notify, intid := i, noFill := noFill, issued := none }

theorem withIntid_shared {notify : Bool} (hi : isShared i = true) (ho : ownerOf s i = some w.e.tenant) :
    ∃ nf, withIntid s { w with notify := notify, intid := i } = retireEvent s (known w i notify nf) none := by
  have hx := hi
  simp only [isShared, Bool.and_eq_true, decide_eq_true_eq] at hx
  have hext : isExt i = false := by
    unfold isExt
    rw [decide_eq_false (by omega), Bool.false_and]
  unfold withIntid
  dsimp only
  rw [decide_eq_false (show ¬ i.toNat < 1024 by omega), decide_eq_false (show ¬ 1064959 < i.toNat by omega), if_neg (by simp),
    if_neg (by simp [ho]), hext, if_neg (by simp)]
  exact ⟨_, rfl⟩

theorem retireEvent_shared (hj : w.joined = []) (hk : w.kind = .event) (hfresh : stampExpired s w.stamp = false)
    (hi : isShared w.intid = true) (ho : ownerOf s w.intid = some w.e.tenant) (he : tenEnabled s w.e.tenant = true)
    (hst : (intOf s (ikey 0 w.intid)).st = .inactive) : ∃ x f, x.walks = (s.xl.walks.filter fun v => v.tag ≠ w.tag) ∧
      retireEvent s w none = setInt { s with xl := x, free := f } (ikey 0 w.intid)
        { intOf s (ikey 0 w.intid) with st := .pending, age := 0, note := noteOf w.e w.notify, noteId := none, discard := false } := by
  obtain ⟨x, f, hfill, hw⟩ := fillCaches_event_eq (s := removeWalk s w.tag) hj hk
  have hext : isExt w.intid = false := by
    simp only [isShared, Bool.and_eq_true, decide_eq_true_eq] at hi
    unfold isExt
    rw [decide_eq_false (by omega), Bool.false_and]
  refine ⟨x, f, hw, ?_⟩
  unfold retireEvent
  dsimp only
  rw [hfresh, Bool.false_and, if_neg Bool.false_ne_true, hfill]
  have hkeep : losesTrigger { removeWalk s w.tag with xl := x, free := f } w.e w.intid = false := by
    unfold losesTrigger
    rw [hext, show tenEnabled { removeWalk s w.tag with xl := x, free := f } w.e.tenant = true from he]
    rfl
  rw [hkeep, if_neg Bool.false_ne_true]
  unfold deliver
  rw [hext, if_neg Bool.false_ne_true]
  exact trigger_shared_inactive (s := { s with xl := x, free := f }) hi ho he hst

theorem readResult_et {lo hi : Word} (hst : w.stage = .et) (hg : w.got = placeWords [] 0 [lo, hi]) (hv : lo.getLsbD 0 = true) :
    readResult s w = withIntid s { w with notify := bit lo 1, intid := BitVec.ofNat 24 (fld lo 8 24) } := by
  have h0 (d : State) : readWord d w 0 = (d, lo) := readWord_of_got (by rw [hg, find_placeWords]; rfl)
  have h1 (d : State) : readWord d w 1 = (d, hi) := readWord_of_got (by rw [hg, find_placeWords]; rfl)
  unfold readResult
  rw [hst]
  dsimp only
  rw [h0, h1]
  dsimp only
  have hb : bit lo 0 = true := hv
  rw [hb, if_neg (by simp)]

/-! ## Completions (R158, R201) -/

theorem walkCompletion_late {gen : BitVec 4} {status : BitVec 3} {last : Bool} {data : CplData} (ha : arrives s l)
    (hw : walkAt s tag = some w) (h : w.gen ≠ gen ∨ w.issued = none) :
    walkCompletion s l tag gen status last data = bump s cntLATECPL := by
  obtain ⟨hm, hl⟩ := ha
  unfold walkCompletion
  rw [if_pos (by simp [linkActive, operating, hm, hl]), hw]
  dsimp only
  refine if_neg ?_
  obtain h | h := h <;> simp [h]

theorem walkCompletion_failed {status : BitVec 3} {last : Bool} {data : CplData} (ha : arrives s l) (hw : walkAt s tag = some w)
    (hi : w.issued.isSome = true) (hp : isPost w = false) (hd : w.dead = false) (hf : w.forced = false) (hs : status ≠ 0) :
    walkCompletion s l tag w.gen status last data = accessFault (outSub s w.e.tenant)
      { w with got := placeWords w.got (data.off.toNat / 4) data.words, issued := none } 0x18 none := by
  obtain ⟨hm, hl⟩ := ha
  unfold walkCompletion
  rw [if_pos (by simp [linkActive, operating, hm, hl]), hw]
  dsimp only
  rw [if_pos (by simp [hi, hp]), hd, if_neg Bool.false_ne_true, if_pos hs]
  unfold outEnd
  rw [if_neg (by simp [hf])]

theorem cplTimeout_of_read (hm : s.pw.mode = .operating) (hw : walkAt s tag = some w)
    (hi : w.issued.isSome = true) (hp : isPost w = false) (hd : w.dead = false) (hf : w.forced = false) :
    cplTimeout s tag = accessFault (outSub (bump s cntWALKTMO) w.e.tenant) { w with issued := none } 0x19 none := by
  unfold cplTimeout
  rw [hw]
  dsimp only
  rw [if_pos (by simp [operating, hm, hi, hp]), hd, if_neg Bool.false_ne_true]
  unfold outEnd
  rw [if_neg (by simp [hf])]

theorem mayIssue_event (hm : s.pw.mode = .operating) (hi : w.issued = none) (hd : w.dead = false) (hme : tenMe s w.e.tenant = true)
    (hk : w.kind = .event) (hp : isPost w = false) : mayIssue s w = true := by
  simp only [isPost, Bool.or_eq_false_iff, decide_eq_false_iff_not] at hp
  simp [mayIssue, operating, hm, hi, hd, hme, hk, hp.2]

theorem walkReadIssue_of_fail {code : Nat} {j : Option Nat} (hw : walkAt s tag = some w) (hm : mayIssue s w = true) (hk : w.kind ≠ .refetch)
    (hp : isPost w = false) (hr : regionCheck s w.e.tenant w.addr = .fail code j) : walkReadIssue s tag = accessFault s w code j := by
  unfold walkReadIssue
  rw [hw]
  dsimp only
  rw [if_pos hm, if_neg (by simp [hk]), hr, hp]
  rfl

/-- Settles O43. -/
theorem walkReads : Obligations.WalkReads := by
  intro s tag w l hq ha hw hk hj hn hd hf hg hstage gone faulted less stage
  have hm : s.pw.mode = .operating := ha.1
  have htag : w.tag = tag := walkAt_tag hw
  subst htag
  have hpost : isPost w = false := by
    obtain h | h | h := hstage <;> simp [isPost, h]
  have hno : stageNo w = stage := by
    obtain h | h | h := hstage <;> simp [stageNo, stage, h, hk]
  have hrecord (u : State) (v : Walk) (code : Nat) (j : Option Nat) (hu : Unflagged s u) (hacc : u.sqAcc = s.sqAcc)
      (hxl : u.xl = s.xl) (hhl : u.hl = s.hl) (hv : v.kind = .event ∧ v.joined = [] ∧ v.nak = false ∧ v.tag = w.tag ∧
        v.e = w.e ∧ v.addr = w.addr ∧ stageNo v = stage) (hc : 8 < code) : faulted u code stage j (settle s (accessFault u v code j)) := by
    obtain ⟨hvk, hvj, hvn, hvt, hve, hva, hvs⟩ := hv
    intro hlen
    rw [accessFault_event hvk hvj hvn hc (by rw [hxl]; exact hlen), hvs, faultRecorded_congr hvt hve hva hhl (congrArg Xlate.qFlt hxl)]
    have hu' := unflagged_faultRecorded hu v code stage j
    rw [faultRecorded_congr hvt hve hva hhl (congrArg Xlate.qFlt hxl)] at hu'
    exact hu'.flagsSet hq hacc hWALKFAULT
  refine ⟨fun hi hme => ?_, fun status last data hi hs => ?_, fun hi => ?_, fun gen status last data h => ?_,
    fun lo hi hiss hst hv hlog hev => ?_, ?_⟩
  · have hmay := mayIssue_event hm hi hd hme hk hpost
    have hne : w.kind ≠ .refetch := by simp [hk]
    refine ⟨fun m j hr hl hv => ?_, fun m j hr hl => ?_, fun code j hr => ?_⟩
    · have hx := (walkReadIssue_of_pass hw hmay hne hr).trans (issueOn_of_active hl)
      generalize (if w.firstChk.isNone then some s.xl.serial else w.firstChk) = chk at hx
      obtain ⟨ls, ns, hwire⟩ := enterVc_read (chk := chk) hpost hv
      have hmarks : UpToMarks (enterVc s w m chk) (settle s (enterVc s w m chk)) := Unflagged.upToMarks hq (by
        rw [hwire]
        exact ⟨⟨rfl, rfl, rfl, rfl, rfl, rfl⟩, rfl⟩)
      refine ⟨_, congrArg (fun e => Host.Outcome.next (settle s e)) hx, ?_, fun v hv ht => ?_, ?_, ?_, ?_, fun x hxm => ?_⟩
      · rw [linkOf_settle]
        exact enterVc_held hpost hv chk
      · rw [settle_xl_walks, hwire] at hv
        rw [eq_of_mem_putWalk (s := outAdd s w.e.tenant) (w := entered w m chk) hv ht]
        exact ⟨rfl, rfl⟩
      · rw [tenOf_settle, hwire]
        exact congrArg TenRec.outstanding (tenOf_readIssued s w.e.tenant (entered w m chk))
      · obtain ⟨h, ht⟩ := hmarks
        rw [ht, hwire]
        rfl
      · obtain ⟨h, ht⟩ := hmarks
        rw [ht, hwire]
        rfl
      · rw [linkOf_settle]
        exact enterVc_other hpost hv hxm chk
    · have hx := (walkReadIssue_of_pass hw hmay hne hr).trans (issueOn_of_not_active hpost hl)
      generalize (if w.firstChk.isNone then some s.xl.serial else w.firstChk) = chk at hx
      obtain ⟨a, hallot, hlean⟩ := onAllot_exitRequest (nextSerial (putWalk s (waiting w m chk))) m
      rw [hallot] at hx
      have hmarks : UpToMarks { nextSerial (putWalk s (waiting w m chk)) with allot := a } _ :=
        Unflagged.upToMarks hq ⟨⟨rfl, rfl, rfl, hlean, rfl, rfl⟩, rfl⟩
      obtain ⟨h, ht⟩ := hmarks
      refine ⟨_, congrArg (fun e => Host.Outcome.next (settle s e)) hx, fun v hv htv => ?_, ?_⟩
      · rw [settle_xl_walks] at hv
        rw [eq_of_mem_putWalk (s := s) (w := waiting w m chk) hv htv]
        exact ⟨hi, rfl⟩
      · rw [ht]
        exact ⟨rfl, rfl, rfl, rfl⟩
    · exact ⟨_, congrArg (fun e => Host.Outcome.next (settle s e)) (walkReadIssue_of_fail hw hmay hne hpost hr),
        hrecord s w code j (unflagged_refl s) rfl rfl rfl ⟨hk, hj, hn, rfl, rfl, rfl, hno⟩ (regionCheck_fail_code hr)⟩
  · exact ⟨_, congrArg (fun e => Host.Outcome.next (settle s e)) (walkCompletion_failed ha hw hi hpost hd hf hs),
      hrecord less _ 0x18 none (unflagged_setTen (unflagged_refl s) _ _) rfl rfl rfl ⟨hk, hj, hn, rfl, rfl, rfl, hno⟩ (by decide)⟩
  · exact ⟨_, congrArg (fun e => Host.Outcome.next (settle s e)) (cplTimeout_of_read hm hw hi hpost hd hf),
      hrecord (bump less cntWALKTMO) _ 0x19 none (unflagged_bump (unflagged_setTen (unflagged_refl s) _ _) _) rfl rfl rfl
        ⟨hk, hj, hn, rfl, rfl, rfl, hno⟩ (by decide)⟩
  · exact ⟨_, congrArg (fun e => Host.Outcome.next (settle s e)) (walkCompletion_late ha hw h),
      (unflagged_bump (unflagged_refl s) _).upToMarks hq⟩
  · have hx := (walkCompletion_of_read (words := [lo, hi]) ha hw hiss hpost hd hg).trans
      (readResult_dt (w := { w with got := placeWords [] 0 [lo, hi] }) hst rfl hv hlog hev)
    refine ⟨_, congrArg (fun e => Host.Outcome.next (settle s e)) hx, fun v hv ht => ?_⟩
    rw [settle_xl_walks] at hv
    rw [eq_of_mem_putWalk hv ht]
    exact ⟨rfl, rfl, rfl, rfl⟩
  · intro lo hi hiss hst hfresh hv i hsh ho hen hin
    have hend : outEnd s { w with got := placeWords [] 0 [lo, hi] } = outSub s w.e.tenant := by
      unfold outEnd
      rw [if_neg (by simp [hf])]
    have hen' : tenEnabled (outSub s w.e.tenant) w.e.tenant = true := by
      have hpend : (tenOf (outSub s w.e.tenant) w.e.tenant).resetPend = (tenOf s w.e.tenant).resetPend :=
        congrArg (fun r => (r w.e.tenant).1) (outSub_resets s w.e.tenant)
      unfold tenEnabled at hen ⊢
      rw [hpend]
      exact hen
    have hx := walkCompletion_of_read (words := [lo, hi]) ha hw hiss hpost hd hg
    rw [hend, readResult_et (w := { w with got := placeWords [] 0 [lo, hi] }) hst rfl hv] at hx
    obtain ⟨nf, hknown⟩ := withIntid_shared (s := outSub s w.e.tenant) (w := { w with got := placeWords [] 0 [lo, hi] })
      (notify := bit lo 1) hsh ho
    obtain ⟨x, f, hwalks, hret⟩ := retireEvent_shared (s := outSub s w.e.tenant)
      (w := known { w with got := placeWords [] 0 [lo, hi] } i (bit lo 1) nf) hj hk hfresh hsh ho hen' hin
    refine ⟨_, congrArg (fun e => Host.Outcome.next (settle s e)) (hx.trans (hknown.trans hret)), ?_, fun v hv => ?_, ?_⟩
    · rw [intOf_settle_of_still (by rfl) (by rfl) (by rfl) (houseKey_shared hsh)]
      exact congrArg IntRec.st ((intOf_setInt _ _ _ _).trans (if_pos rfl))
    · rw [settle_xl_walks] at hv
      have hmem : v ∈ (outSub s w.e.tenant).xl.walks.filter fun v => v.tag ≠ w.tag := hwalks ▸ hv
      exact of_decide_eq_true (List.mem_filter.1 hmem).2
    · rw [tenOf_settle]
      exact congrArg TenRec.outstanding ((tenOf_setTen s w.e.tenant w.e.tenant _).trans (if_pos rfl))

end Sys2Proof.Machine
end

section
/-!
PROOFS. Chapters 07 and 09: the fault and event rings, and the notes (O44).
-/
namespace Sys2Proof.Machine
open Sys2Proof.Safety Sys2Proof.Claims

variable {s e b u : State} {n : Tenant} {l m : Link} {evt : Bool} {be : BE} {data : Word}

/-! ## HEAD and TAIL (R211) -/

theorem exec_ringHeadWrite (ha : arrives s l) (hw : (linkOf s l).ll.vpWait = []) (hb : bound s l n = true) (hn : evt = true → n = 0) :
    exec (.ringHeadWrite l n evt be data) s = .next (settle s (lands l (headWrite (arrive s l 0 3) n evt be data))) := by
  cases evt with
  | false =>
    exact congrArg Host.Outcome.next (exec_hostWrite_taken ha (by decide) hw hb (by simp [pageExists, inWords]) rfl)
  | true =>
    have h0 : n = 0 := hn rfl
    subst h0
    exact congrArg Host.Outcome.next (exec_hostWrite_taken ha (by decide) hw hb (by decide) rfl)

theorem exec_ringTailWrite (ha : arrives s l) (hw : (linkOf s l).ll.vpWait = []) (hb : bound s l n = true) (hn : evt = true → n = 0) :
    exec (.ringTailWrite l n evt be data) s = .next (settle s (lands l (tailWrite (arrive s l 0 3) n evt be data))) := by
  cases evt with
  | false =>
    exact congrArg Host.Outcome.next (exec_hostWrite_taken ha (by decide) hw hb (by simp [pageExists, inWords]) rfl)
  | true =>
    have h0 : n = 0 := hn rfl
    subst h0
    exact congrArg Host.Outcome.next (exec_hostWrite_taken ha (by decide) hw hb (by decide) rfl)

theorem unflagged_setRing (h : Unflagged s e) (n : Tenant) (evt : Bool) (r : Ring) : Unflagged s (setRing e n evt r) := by
  unfold setRing
  split
  · exact unflagged_setTen h _ _
  · exact unflagged_setTen h _ _

theorem headWrite_arrive (hbe : be.extractLsb' 0 2 ≠ 0) : headWrite (arrive s l 0 3) n evt be data =
    if ((ringOf s n evt).tail - merge16 be (ringOf s n evt).head data).toNat ≤ 2 ^ ringLog2 s n evt
    then setRing (arrive s l 0 3) n evt { ringOf s n evt with head := merge16 be (ringOf s n evt).head data }
    else setTen (arrive s l 0 3) n { tenOf s n with c3 := (tenOf s n).c3 + 1 } := by
  unfold headWrite
  rw [if_neg hbe, arrive_eq_links]
  rfl

theorem tailWrite_arrive (hbe : be.extractLsb' 0 2 ≠ 0) : tailWrite (arrive s l 0 3) n evt be data =
    if (tenOf s n).quiesced = true
    then setRing (arrive s l 0 3) n evt { ringOf s n evt with tail := merge16 be (ringOf s n evt).tail data }
    else setTen (arrive s l 0 3) n { tenOf s n with c3 := (tenOf s n).c3 + 1 } := by
  unfold tailWrite
  rw [if_neg hbe, arrive_eq_links]
  rfl

theorem unflagged_ite {p : Prop} [Decidable p] (h : Unflagged s e) (g : Unflagged s u) : Unflagged s (if p then e else u) := by
  split
  · exact h
  · exact g

/-! ## Records (R209) -/

theorem recordCheck_lost (hm : s.pw.mode = .operating) (h : tenMe s n = false ∨ ringFull s n evt = true ∨
    ∃ c j, regionCheck s n (ringSlot s n evt) = .fail c j) : recordCheck s n evt = .lost := by
  unfold recordCheck
  rw [show operating s = true from decide_eq_true hm, if_neg (by simp)]
  obtain h | h | ⟨c, j, h⟩ := h
  · rw [h, if_pos (by simp)]
  · rw [h, if_pos (by simp)]
  · split
    · rfl
    · rw [h]

theorem recordCheck_pass {j : Nat} (hm : s.pw.mode = .operating) (hme : tenMe s n = true) (hf : ringFull s n evt = false)
    (hr : regionCheck s n (ringSlot s n evt) = .pass m j) :
    recordCheck s n evt = if (linkOf s m).st = .active then .queued ⟨m, ringSlot s n evt, s.xl.serial⟩ else .waits m := by
  unfold recordCheck
  rw [show operating s = true from decide_eq_true hm, if_neg (by simp), hme, hf, if_neg (by simp), hr]
  simp [linkActive]

/-- A record stands in the VC-P queue of its link, and counts as outstanding. -/
def fltQueued (s : State) (n : Tenant) (v : RingVc) : State :=
  setTen { s with xl := { s.xl with fltVc := some v, serial := s.xl.serial + 1 } } n
    { tenOf s n with outstanding := (tenOf s n).outstanding + 1 }
def evtQueued (s : State) (v : RingVc) : State :=
  setTen { s with xl := { s.xl with evtVc := some v, serial := s.xl.serial + 1 } } 0
    { tenOf s 0 with outstanding := (tenOf s 0).outstanding + 1 }

/-- A record has been written to its slot. -/
def fltWritten (s : State) (f : FltRec) (loss : BitVec 8) (rest : List FltRec) (v : RingVc) : State :=
  let p := ringWrite { s with xl := { s.xl with qFlt := rest, fltVc := none } } v f.tenant false (fltWords f loss)
  setTen p f.tenant { tenOf p f.tenant with loss := 0 }
def evtWritten (s : State) (e : EvtRec) (rest : List EvtRec) (v : RingVc) : State :=
  ringWrite { s with xl := { s.xl with qEvt := rest, evtVc := none } } v 0 true (evtWords e)

section
variable {f : FltRec} {rest : List FltRec} {v : RingVc}

theorem sendFlt_eq (hq : s.xl.qFlt = f :: rest) (hv : s.xl.fltVc = some v) : sendFlt s =
    if nextClass s v.link = some .flt then fltWritten s f (tenOf s f.tenant).loss rest v else s := by
  unfold sendFlt popFlt
  rw [hq, hv]
  rfl

theorem faultRecordWrite_waiting (hq : s.xl.qFlt = f :: rest) (hv : s.xl.fltVc = some v) : faultRecordWrite s = sendFlt s := by
  unfold faultRecordWrite
  rw [hq, hv]

theorem faultRecordWrite_lost (hq : s.xl.qFlt = f :: rest) (hv : s.xl.fltVc = none) (h : recordCheck s f.tenant false = .lost) :
    faultRecordWrite s = loseFault { s with xl := { s.xl with qFlt := rest, fltVc := none } } f.tenant f.link := by
  unfold faultRecordWrite popFlt
  rw [hq, hv]
  dsimp only
  rw [h]
  rfl

theorem faultRecordWrite_waits (hq : s.xl.qFlt = f :: rest) (hv : s.xl.fltVc = none) (h : recordCheck s f.tenant false = .waits m) :
    faultRecordWrite s = exitRequest s m := by
  unfold faultRecordWrite
  rw [hq, hv]
  dsimp only
  rw [h]

theorem faultRecordWrite_queued (hq : s.xl.qFlt = f :: rest) (hv : s.xl.fltVc = none) (h : recordCheck s f.tenant false = .queued v) :
    faultRecordWrite s = if nextClass (fltQueued s f.tenant v) v.link = some .flt
      then fltWritten (fltQueued s f.tenant v) f (tenOf s f.tenant).loss rest v else fltQueued s f.tenant v := by
  have hloss : (tenOf (fltQueued s f.tenant v) f.tenant).loss = (tenOf s f.tenant).loss :=
    (congrArg TenRec.loss ((tenOf_setTen s f.tenant f.tenant _).trans (if_pos rfl))).trans rfl
  rw [← hloss, ← sendFlt_eq (s := fltQueued s f.tenant v) hq rfl]
  unfold faultRecordWrite
  rw [hq, hv]
  dsimp only
  rw [h]
  rfl

theorem unflagged_onWire (h : Unflagged s e) (w : OnWire e u) : Unflagged s u := by
  obtain ⟨ls, ns, rfl⟩ := w
  exact ⟨⟨h.pw, h.live, h.im, h.lean, h.jobs, h.orphan⟩, h.hsAcc⟩

/-- The record on its way: it is in the replay buffer, and its access has ended. -/
def ringSent (s : State) (v : RingVc) (n : Tenant) (evt : Bool) (ws : List Word) : State :=
  tookSource (pushTlp s v.link tyMWR 0 5 n (BitVec.ofNat 32 v.addr :: put (v.addr / 2 ^ 32 % 65536) 0 :: ws) (some (evt, n)))
    v.link (if evt then 2 else 1)

theorem onWire_ringSent (s : State) (v : RingVc) (n : Tenant) (evt : Bool) (ws : List Word) : OnWire s (ringSent s v n evt ws) :=
  (onWire_pushTlp _ _ _ _ _ _ _ _).trans (onWire_setLink _ _ _)

theorem ringWrite_eq (s : State) (v : RingVc) (n : Tenant) (evt : Bool) (ws : List Word) : ringWrite s v n evt ws =
    setRing (outSub (ringSent s v n evt ws) n) n evt
      { ringOf (outSub (ringSent s v n evt ws) n) n evt with tail := (ringOf (outSub (ringSent s v n evt ws) n) n evt).tail + 1 } := rfl

theorem unflagged_ringWrite (h : Unflagged s e) (v : RingVc) (n : Tenant) (evt : Bool) (ws : List Word) :
    Unflagged s (ringWrite e v n evt ws) := by
  rw [ringWrite_eq]
  exact unflagged_setRing (unflagged_setTen (unflagged_onWire h (onWire_ringSent e v n evt ws)) n _) _ _ _

theorem ringOf_setRing (s : State) (n : Tenant) (evt : Bool) (r : Ring) : ringOf (setRing s n evt r) n evt = r := by
  cases evt with
  | false => exact (congrArg TenRec.fault ((tenOf_setTen s n n _).trans (if_pos rfl))).trans rfl
  | true => exact (congrArg TenRec.event ((tenOf_setTen s n n _).trans (if_pos rfl))).trans rfl

theorem ringOf_outSub (s : State) (n : Tenant) (evt : Bool) : ringOf (outSub s n) n evt = ringOf s n evt := by
  have h : tenOf (outSub s n) n = { tenOf s n with outstanding := (tenOf s n).outstanding - 1 } := (tenOf_setTen s n n _).trans (if_pos rfl)
  unfold ringOf
  rw [h]

theorem ringWrite_tail (s : State) (v : RingVc) (n : Tenant) (evt : Bool) (ws : List Word) :
    (ringOf (ringWrite s v n evt ws) n evt).tail = (ringOf s n evt).tail + 1 := by
  obtain ⟨ls, ns, h⟩ := onWire_ringSent s v n evt ws
  rw [ringWrite_eq, ringOf_setRing, ringOf_outSub, h]
  rfl

theorem unflagged_fltWritten (h : Unflagged s e) (f : FltRec) (loss : BitVec 8) (rest : List FltRec) (v : RingVc) :
    Unflagged s (fltWritten e f loss rest v) := unflagged_setTen (unflagged_ringWrite (unflagged_xl h _) v _ _ _) _ _

theorem ringOf_lossCleared (s : State) (n : Tenant) : ringOf (setTen s n { tenOf s n with loss := 0 }) n false = ringOf s n false :=
  (congrArg TenRec.fault ((tenOf_setTen s n n _).trans (if_pos rfl))).trans rfl

theorem fltWritten_tail (s : State) (f : FltRec) (loss : BitVec 8) (rest : List FltRec) (v : RingVc) :
    (ringOf (fltWritten s f loss rest v) f.tenant false).tail = (ringOf s f.tenant false).tail + 1 := by
  unfold fltWritten
  dsimp only
  rw [ringOf_lossCleared, ringWrite_tail]
  rfl

theorem fltQueued_tail (s : State) (n : Tenant) (v : RingVc) : (ringOf (fltQueued s n v) n false).tail = (ringOf s n false).tail :=
  (congrArg (fun r : TenRec => r.fault.tail) ((tenOf_setTen s n n _).trans (if_pos rfl))).trans rfl

theorem unflagged_fltQueued (s : State) (n : Tenant) (v : RingVc) : Unflagged s (fltQueued s n v) := ⟨⟨rfl, rfl, rfl, rfl, rfl, rfl⟩, rfl⟩
theorem unflagged_evtQueued (s : State) (v : RingVc) : Unflagged s (evtQueued s v) := ⟨⟨rfl, rfl, rfl, rfl, rfl, rfl⟩, rfl⟩

theorem ringOf_of_upToMarks (h : UpToMarks e u) (n : Tenant) (evt : Bool) : ringOf u n evt = ringOf e n evt := by
  obtain ⟨m, rfl⟩ := h
  rfl

theorem queueEvt_effect (s : State) (r : EvtRec) : (queueEvt s r).xl.qFlt = s.xl.qFlt ∧ (queueEvt s r).links = s.links ∧
    (queueEvt s r).tens = s.tens ∧ ∀ off, off ≠ cntEVTDROP → cntOf (queueEvt s r) off = cntOf s off := by
  unfold queueEvt
  split
  · exact ⟨rfl, rfl, rfl, fun off h => (cntOf_bump s cntEVTDROP off).trans (if_neg h)⟩
  · exact ⟨rfl, rfl, rfl, fun _ _ => rfl⟩

/-- A record that is lost is counted, and the next record of its tenant says so. -/
theorem loseFault_effect (s : State) (n : Tenant) (l : Link) : (loseFault s n l).xl.qFlt = s.xl.qFlt ∧ (loseFault s n l).links = s.links ∧
    cntOf (loseFault s n l) cntFAULTLOST = cntOf s cntFAULTLOST + 1 ∧
    tenOf (loseFault s n l) n = { tenOf s n with loss := satInc8 (tenOf s n).loss } := by
  have hten : tenOf (setTen (bump s cntFAULTLOST) n { tenOf s n with loss := satInc8 (tenOf s n).loss }) n =
      { tenOf s n with loss := satInc8 (tenOf s n).loss } := (tenOf_setTen _ n n _).trans (if_pos rfl)
  obtain ⟨hq, hl, ht, hc⟩ := queueEvt_effect (setTen (bump s cntFAULTLOST) n { tenOf s n with loss := satInc8 (tenOf s n).loss })
    { kind := 2, tenant := n, link := l, hlseq := s.hl.seq, data := (cntOf (bump s cntFAULTLOST) cntFAULTLOST).setWidth 64 }
  refine ⟨hq, hl, (hc cntFAULTLOST (by decide)).trans ((cntOf_bump s cntFAULTLOST cntFAULTLOST).trans (if_pos rfl)), ?_⟩
  unfold tenOf at hten ⊢
  exact (congrArg (fun t => tabGet t _ _) ht).trans hten

end

section
variable {r : EvtRec} {rest : List EvtRec} {v : RingVc}

theorem sendEvt_eq (hq : s.xl.qEvt = r :: rest) (hv : s.xl.evtVc = some v) : sendEvt s =
    if nextClass s v.link = some .evt then evtWritten s r rest v else s := by
  unfold sendEvt popEvt
  rw [hq, hv]
  rfl

theorem eventRecordWrite_waiting (hq : s.xl.qEvt = r :: rest) (hv : s.xl.evtVc = some v) : eventRecordWrite s = sendEvt s := by
  unfold eventRecordWrite
  rw [hq, hv]

theorem eventRecordWrite_lost (hq : s.xl.qEvt = r :: rest) (hv : s.xl.evtVc = none) (h : recordCheck s 0 true = .lost) :
    eventRecordWrite s = bump { s with xl := { s.xl with qEvt := rest, evtVc := none } } cntEVTLOST := by
  unfold eventRecordWrite popEvt
  rw [hq, hv]
  dsimp only
  rw [h]
  rfl

theorem eventRecordWrite_queued (hq : s.xl.qEvt = r :: rest) (hv : s.xl.evtVc = none) (h : recordCheck s 0 true = .queued v) :
    eventRecordWrite s = if nextClass (evtQueued s v) v.link = some .evt
      then evtWritten (evtQueued s v) r rest v else evtQueued s v := by
  rw [← sendEvt_eq (s := evtQueued s v) hq rfl]
  unfold eventRecordWrite
  rw [hq, hv]
  dsimp only
  rw [h]
  rfl

theorem unflagged_evtWritten (h : Unflagged s e) (r : EvtRec) (rest : List EvtRec) (v : RingVc) :
    Unflagged s (evtWritten e r rest v) := unflagged_ringWrite (unflagged_xl h _) v _ _ _

end

theorem rings : Rings := by
  intro s l n evt be data hq a g bad
  refine ⟨fun ha hw hb hn hbe => ⟨⟨_, exec_ringHeadWrite ha hw hb hn, ?_⟩, ⟨_, exec_ringTailWrite ha hw hb hn, ?_⟩⟩, ?_, ?_⟩
  · have hu := unflagged_arrive s l 0 3
    rw [headWrite_arrive hbe]
    exact (unflagged_lands (unflagged_ite (unflagged_setRing hu n evt _) (unflagged_setTen hu n _)) l).upToMarks hq
  · have hu := unflagged_arrive s l 0 3
    rw [tailWrite_arrive hbe]
    exact (unflagged_lands (unflagged_ite (unflagged_setRing hu n evt _) (unflagged_setTen hu n _)) l).upToMarks hq
  · intro f rest hm hf written
    refine ⟨fun hv h => ?_, fun lk j hv hme hfull hr => ?_, fun v hv => ⟨_, rfl, fun hne => ?_, fun he => ?_⟩⟩
    · have hx := faultRecordWrite_lost hf hv (recordCheck_lost hm h)
      obtain ⟨hflt, hlinks, hcnt, hten⟩ :=
        loseFault_effect { s with xl := { s.xl with qFlt := rest, fltVc := none } } f.tenant f.link
      refine ⟨_, congrArg (fun e => Host.Outcome.next (settle s e)) hx, ?_, ?_, ?_, ?_⟩
      · rw [settle_xl_qFlt, hflt]
      · rw [cntOf_settle _ _ _ (by decide), hcnt]
        rfl
      · rw [tenOf_settle, hten]
        rfl
      · rw [settle_links, hlinks]
    · intro v q
      have hcheck := recordCheck_pass (evt := false) hm hme hfull hr
      by_cases hact : (linkOf s lk).st = .active
      · rw [if_pos hact] at hcheck
        have hx := faultRecordWrite_queued hf hv hcheck
        refine ⟨_, rfl, fun hno => absurd hact hno, fun _ hne => ?_, fun _ he => ?_⟩
        · rw [hx.trans (if_neg hne)]
          exact (unflagged_fltQueued s f.tenant v).upToMarks hq
        · rw [hx.trans (if_pos he)]
          have hmarks := (unflagged_fltWritten (unflagged_fltQueued s f.tenant v) f (tenOf s f.tenant).loss rest v).upToMarks hq
          exact ⟨hmarks, by rw [ringOf_of_upToMarks hmarks, fltWritten_tail, fltQueued_tail]⟩
      · rw [if_neg hact] at hcheck
        have hx := faultRecordWrite_waits hf hv hcheck
        obtain ⟨x, hallot, hlean⟩ := onAllot_exitRequest s lk
        have hu : Unflagged s (exitRequest s lk) := by
          rw [hallot]
          exact ⟨⟨rfl, rfl, rfl, hlean, rfl, rfl⟩, rfl⟩
        refine ⟨_, rfl, fun _ => ?_, fun h => absurd h hact, fun h => absurd h hact⟩
        obtain ⟨h, ht⟩ := hu.upToMarks hq
        rw [hx, ht, hallot]
        exact ⟨rfl, hv, rfl, rfl⟩
    · rw [faultRecordWrite_waiting hf hv, sendFlt_eq hf hv, if_neg hne]
      exact (unflagged_refl s).upToMarks hq
    · rw [faultRecordWrite_waiting hf hv, sendFlt_eq hf hv, if_pos he]
      have hmarks := (unflagged_fltWritten (unflagged_refl s) f (tenOf s f.tenant).loss rest v).upToMarks hq
      exact ⟨hmarks, by rw [ringOf_of_upToMarks hmarks, fltWritten_tail]⟩
  · intro r rest hm hf written
    refine ⟨fun hv h => ?_, fun lk j hv hme hfull hr hact => ?_, fun v hv => ⟨_, rfl, fun hne => ?_, fun he => ?_⟩⟩
    · exact ⟨_, congrArg (fun e => Host.Outcome.next (settle s e)) (eventRecordWrite_lost hf hv (recordCheck_lost hm h)),
        (unflagged_bump (unflagged_xl (unflagged_refl s) _) _).upToMarks hq⟩
    · intro v q
      have hcheck := recordCheck_pass (evt := true) hm hme hfull hr
      rw [if_pos hact] at hcheck
      have hx := eventRecordWrite_queued hf hv hcheck
      refine ⟨_, rfl, fun hne => ?_, fun he => ?_⟩
      · rw [hx.trans (if_neg hne)]
        exact (unflagged_evtQueued s v).upToMarks hq
      · rw [hx.trans (if_pos he)]
        exact (unflagged_evtWritten (unflagged_evtQueued s v) r rest v).upToMarks hq
    · rw [eventRecordWrite_waiting hf hv, sendEvt_eq hf hv, if_neg hne]
      exact (unflagged_refl s).upToMarks hq
    · rw [eventRecordWrite_waiting hf hv, sendEvt_eq hf hv, if_pos he]
      exact (unflagged_evtWritten (unflagged_refl s) r rest v).upToMarks hq

/-! ## Notes (R178, R425) -/

/-- The first entry of Q-CMP for a link is gone. -/
def noteGone (s : State) (l : Link) (u : State) : State := { u with xl := { u.xl with qCmp := cmpRest l s.xl.qCmp } }

/-- An entry of Q-CMP has left it; an INTID that waited for it is Inactive. -/
def noteEnds (s : State) (l : Link) (n : Note) (u : State) : State :=
  match n.id with
  | none => noteGone s l u
  | some id => if (intOf s (ikey 0 n.intid)).st = .completed ∧ (intOf s (ikey 0 n.intid)).noteId = some id
      then setInt (noteGone s l u) (ikey 0 n.intid) (restRec (ikey 0 n.intid) (intOf s (ikey 0 n.intid))) else noteGone s l u

theorem cmpLeave_eq {n : Note} (hx : u.xl = s.xl) (hirq : u.irq = s.irq) : cmpLeave u l n = noteEnds s l n u := by
  have hgone : setXl u { u.xl with qCmp := cmpRest l u.xl.qCmp } = noteGone s l u := by
    unfold noteGone
    rw [show u.xl.qCmp = s.xl.qCmp from congrArg Xlate.qCmp hx]
    rfl
  have hint (k : Nat) : intOf (noteGone s l u) k = intOf s k := congrArg (fun q : Irq => tabGet q.ints {} k) hirq
  unfold cmpLeave noteEnds
  rw [hgone]
  dsimp only
  split
  · next id hid =>
    rw [hid]
    unfold evQ
    dsimp only
    rw [hint]
  · next hid =>
    rw [hid]

theorem unflagged_noteEnds (h : Unflagged s e) (l : Link) (n : Note) : Unflagged s (noteEnds b l n e) := by
  have hg : Unflagged s (noteGone b l e) := unflagged_xl h _
  unfold noteEnds
  split
  · exact hg
  · exact unflagged_ite (unflagged_setInt hg _ _) hg

theorem noteEnds_sqAcc (b : State) (l : Link) (n : Note) (u : State) : (noteEnds b l n u).sqAcc = u.sqAcc := by
  unfold noteEnds
  split
  · rfl
  · split <;> rfl

theorem noteEnds_house (b : State) (l : Link) (n : Note) (u : State) (f : BitVec 16) :
    noteEnds b l n (house u f) = house (noteEnds b l n u) f := by
  unfold noteEnds
  split
  · rfl
  · split <;> rfl

/-- The TLP of a note. -/
def noteBody (n : Note) : List Word :=
  [put n.key.ev.toNat 0 ||| put n.key.dev.toNat 16, put n.intid.toNat 0 ||| putB n.nak 24, put n.code.toNat 0]

theorem onWire_noteTlp (s : State) (l : Link) (n : Note) :
    OnWire s (tookSource (pushTlp s l tyNOTE 0 3 n.key.tenant (noteBody n) none) l 0) :=
  (onWire_pushTlp _ _ _ _ _ _ _ _).trans (onWire_setLink _ _ _)

/-! ### Drops of notifications of the house sources (R29) -/

/-- No house source has a notification, and CNT_CMP_DROP reads `c`. -/
def HouseUnnoted (c : Word) (x : State) : Prop := (∀ j, j < 16 → (intOf x (8192 + 128 + j)).note = none) ∧ cntOf x cntCMPDROP = c

section
variable {c : Word} {x : State}

theorem houseUnnoted_setInt (h : HouseUnnoted c x) (k : Nat) (r : IntRec) (hr : r.note = none) : HouseUnnoted c (setInt x k r) := by
  refine ⟨fun j hj => ?_, h.2⟩
  rw [intOf_setInt]
  split
  · exact hr
  · exact h.1 j hj

theorem restRec_note (k : Nat) (r : IntRec) : (restRec k r).note = none := by
  unfold restRec
  split <;> rfl

theorem houseUnnoted_evT (h : HouseUnnoted c x) {j : Nat} (hj : j < 16) : HouseUnnoted c (evT x (8192 + 128 + j) none) := by
  have hn := h.1 j hj
  rw [evT_eq]
  split
  · exact houseUnnoted_setInt h _ _ rfl
  · have howed : noteOwed x (8192 + 128 + j) = x := by
      unfold noteOwed
      rw [hn]
    rw [howed]
    exact houseUnnoted_setInt h _ _ rfl
  · split
    · exact h
    · have hs : HouseUnnoted c (setInt x (8192 + 128 + j) { intOf x (8192 + 128 + j) with lost := satInc8 (intOf x (8192 + 128 + j)).lost }) :=
        houseUnnoted_setInt h _ _ hn
      exact ⟨hs.1, ((cntOf_bump _ cntLOST cntCMPDROP).trans (if_neg (by decide))).trans hs.2⟩
  · exact h

theorem houseUnnoted_evF (h : HouseUnnoted c x) (k : Nat) : HouseUnnoted c (evF x k) := by
  unfold evF
  dsimp only
  split
  · exact houseUnnoted_setInt h _ _ (restRec_note _ _)
  · exact houseUnnoted_setInt h _ _ (restRec_note _ _)
  · exact h

theorem houseUnnoted_edges (h : HouseUnnoted c x) (old : BitVec 16) : HouseUnnoted c (houseEdges old x) := by
  unfold houseEdges
  split
  · refine List.foldlRecOn (motive := HouseUnnoted c) (upTo 16) _ h fun y hy j hj => ?_
    have hlt : j < 16 := List.mem_range.1 hj
    dsimp only
    split
    · exact houseUnnoted_evT hy hlt
    · split
      · exact houseUnnoted_evF hy _
      · exact hy
  · exact h

/-- HS_STAT with the flags of the CCLK, before the house sources follow. -/
def flagsRaised (s : State) : State :=
  sqSet { s with hsAcc := 0, nv := { s.nv with trail := (s.hl.seq, s.hsAcc &&& ~~~(hsFlags s)) :: s.nv.trail.take 7 } } 0x300
    (s.hsAcc.setWidth 24)

theorem flushHouse_eq (s : State) : flushHouse s = if s.hsAcc = 0 then s else houseEdges (houseLevels s) (flagsRaised s) := rfl

theorem sqSet_others (s : State) (off : Nat) (f : BitVec 24) : (sqSet s off f).irq = s.irq ∧ (sqSet s off f).cfg.cnt = s.cfg.cnt := ⟨rfl, rfl⟩

theorem flagsRaised_others (s : State) : (flagsRaised s).irq = s.irq ∧ (flagsRaised s).cfg.cnt = s.cfg.cnt :=
  sqSet_others { s with hsAcc := 0, nv := { s.nv with trail := (s.hl.seq, s.hsAcc &&& ~~~(hsFlags s)) :: s.nv.trail.take 7 } } 0x300
    (s.hsAcc.setWidth 24)

theorem houseUnnoted_congr {y : State} (h : HouseUnnoted c x) (hirq : y.irq = x.irq) (hcnt : y.cfg.cnt = x.cfg.cnt) : HouseUnnoted c y := by
  unfold HouseUnnoted intOf cntOf at h ⊢
  rw [hirq, hcnt]
  exact h

theorem houseUnnoted_flush (h : HouseUnnoted c x) : HouseUnnoted c (flushHouse x) := by
  rw [flushHouse_eq]
  split
  · exact h
  · exact houseUnnoted_edges (houseUnnoted_congr h (flagsRaised_others x).1 (flagsRaised_others x).2) _

theorem arbFollow_irq (s : State) : (arbFollow s).irq = s.irq := rfl

theorem cntOf_close (y : State) (off : Nat) : cntOf (endCclk (noteHwm y)) off = cntOf y off := by
  unfold cntOf
  rw [endCclk_cfg, noteHwm_cfg]

theorem houseUnnoted_settle (hs : SameModes s x) (h : HouseUnnoted c x) : cntOf (settle s x) cntCMPDROP = c := by
  have hflush : HouseUnnoted c (flushHouse (arbFollow x)) := houseUnnoted_flush (houseUnnoted_congr h (arbFollow_irq x) (by rw [arbFollow_cfg]))
  rw [settle_eq_of_sameModes hs, cntOf_close]
  exact hflush.2

end

theorem houseUnnoted_noteEnds (h : ∀ j, j < 16 → (intOf s (8192 + 128 + j)).note = none) (l : Link) (n : Note) (f : BitVec 16) :
    HouseUnnoted (cntOf s cntCMPDROP + 1) (house (noteEnds s l n (bump s cntCMPDROP)) f) := by
  have hg : HouseUnnoted (cntOf s cntCMPDROP + 1) (noteGone s l (bump s cntCMPDROP)) :=
    ⟨h, (cntOf_bump s cntCMPDROP cntCMPDROP).trans (if_pos rfl)⟩
  have hends : HouseUnnoted (cntOf s cntCMPDROP + 1) (noteEnds s l n (bump s cntCMPDROP)) := by
    unfold noteEnds
    split
    · exact hg
    · split
      · exact houseUnnoted_setInt hg _ _ (restRec_note _ _)
      · exact hg
  exact ⟨hends.1, hends.2⟩

theorem notes : Notes := by
  intro s l n hq hm hfirst left ends
  have hcmp : cmpFirst s l = some n := hfirst
  refine ⟨fun hn => ?_, fun hn => ?_, ?_⟩
  · have hx : noteSend s l = noteEnds s l n (tookSource (pushTlp s l tyNOTE 0 3 n.key.tenant (noteBody n) none) l 0) := by
      have hsent : noteSend s l = cmpLeave (tookSource (pushTlp s l tyNOTE 0 3 n.key.tenant (noteBody n) none) l 0) l n := by
        unfold noteSend
        rw [hcmp]
        exact if_pos hn
      obtain ⟨ls, ns, hw⟩ := onWire_noteTlp s l n
      rw [hsent, hw]
      exact cmpLeave_eq rfl rfl
    refine ⟨_, congrArg (fun e => Host.Outcome.next (settle s e)) hx, ?_⟩
    exact (unflagged_noteEnds (onWire_noteTlp s l n).unflagged l n).upToMarks hq
  · have hx : noteSend s l = s := by
      unfold noteSend
      rw [hcmp]
      exact if_neg hn
    exact ⟨_, congrArg (fun e => Host.Outcome.next (settle s e)) hx, (unflagged_refl s).upToMarks hq⟩
  · have hx : cmpTimeoutDrop s l = house (noteEnds s l n (bump s cntCMPDROP)) hQDROP := by
      unfold cmpTimeoutDrop
      rw [hcmp]
      dsimp only
      rw [show operating s = true from decide_eq_true hm, if_pos rfl]
      exact (cmpLeave_eq (s := s) (u := dropCount s cntCMPDROP) rfl rfl).trans (noteEnds_house s l n (bump s cntCMPDROP) hQDROP)
    have hu : Unflagged s (noteEnds s l n (bump s cntCMPDROP)) := unflagged_noteEnds (unflagged_bump (unflagged_refl s) _) l n
    have hsame : SameModes s (house (noteEnds s l n (bump s cntCMPDROP)) hQDROP) := ⟨hu.pw, hu.live, hu.im, hu.lean, hu.jobs, hu.orphan⟩
    exact ⟨_, congrArg (fun e => Host.Outcome.next (settle s e)) hx,
      hu.flagsSet hq (noteEnds_sqAcc s l n (bump s cntCMPDROP)) hQDROP,
      fun h => houseUnnoted_settle hsame (houseUnnoted_noteEnds h l n hQDROP)⟩

/-- Settles O44. -/
theorem ringsAndNotes : Obligations.RingsAndNotes := ⟨rings, notes⟩

end Sys2Proof.Machine
end

section
/-!
PROOFS. Chapters 11 and 12: what the faults and drops of a link that goes down leave of links, lanes, targets and status words.
-/
namespace Sys2Proof.Machine

/-- Links, lanes, targets and the status words are the same. -/
abbrev SameSide (s t : State) : Prop := t.links = s.links ∧ t.lanes = s.lanes ∧ t.irq.tgts = s.irq.tgts ∧ t.cfg.sq = s.cfg.sq ∧
  t.sqAcc = s.sqAcc

theorem SameSide.trans {s t u : State} (h : SameSide s t) (g : SameSide t u) : SameSide s u :=
  ⟨g.1.trans h.1, g.2.1.trans h.2.1, g.2.2.1.trans h.2.2.1, g.2.2.2.1.trans h.2.2.2.1,
    g.2.2.2.2.trans h.2.2.2.2⟩

theorem foldS_side {α : Type} {f : State → α → State} (l : List α) (s : State) (h : ∀ s a, SameSide s (f s a)) :
    SameSide s (foldS f s l) := foldS_inv (SameSide s ·) f l s ⟨rfl, rfl, rfl, rfl, rfl⟩ fun t a g => g.trans (h t a)

@[simp] theorem setTen_side (s : State) (n : Tenant) (r : TenRec) : SameSide s (setTen s n r) := ⟨rfl, rfl, rfl, rfl, rfl⟩

@[simp] theorem setInt_side (s : State) (k : Nat) (r : IntRec) : SameSide s (setInt s k r) := ⟨rfl, rfl, rfl, rfl, rfl⟩

@[simp] theorem bump_side (s : State) (off : Nat) : SameSide s (bump s off) := ⟨rfl, rfl, rfl, rfl, rfl⟩

@[simp] theorem house_side (s : State) (f : BitVec 16) : SameSide s (house s f) := ⟨rfl, rfl, rfl, rfl, rfl⟩

@[simp] theorem dropCount_side (s : State) (off : Nat) : SameSide s (dropCount s off) := ⟨rfl, rfl, rfl, rfl, rfl⟩

@[simp] theorem placeNote_side (s : State) (n : NoteKey) (i : Intid) : SameSide s (placeNote s n i).1 := by
  unfold placeNote
  split <;> simp [SameSide]

@[simp] theorem loseTrigger_side (s : State) (k : Nat) : SameSide s (loseTrigger s k) := ⟨rfl, rfl, rfl, rfl, rfl⟩

@[simp] theorem evT_side (s : State) (k : Nat) (note : Option NoteKey) : SameSide s (evT s k note) := by
  unfold evT
  dsimp only
  repeat' split
  all_goals simp [SameSide]

@[simp] theorem evF_side (s : State) (k : Nat) : SameSide s (evF s k) := by
  unfold evF
  dsimp only
  repeat' split
  all_goals simp [SameSide]

@[simp] theorem evW_side (s : State) (k : Nat) : SameSide s (evW s k) := by
  unfold evW
  dsimp only
  repeat' split
  all_goals simp [SameSide]

@[simp] theorem evN_side (s : State) (k : Nat) : SameSide s (evN s k) := by
  unfold evN
  dsimp only
  repeat' split
  all_goals simp [SameSide]

@[simp] theorem evE_side (s : State) (k : Nat) : SameSide s (evE s k) := by
  unfold evE
  dsimp only
  repeat' split
  all_goals simp [SameSide]

@[simp] theorem evQ_side (s : State) (i : Intid) (id : Nat) : SameSide s (evQ s i id) := by
  unfold evQ
  dsimp only
  repeat' split
  all_goals simp [SameSide]

@[simp] theorem abortErase_side (s : State) : SameSide s (abortErase s) := by
  unfold abortErase
  split <;> simp [SameSide]

@[simp] theorem outSub_side (s : State) (n : Tenant) : SameSide s (outSub s n) := ⟨rfl, rfl, rfl, rfl, rfl⟩

@[simp] theorem queueEvt_side (s : State) (e : EvtRec) : SameSide s (queueEvt s e) := by
  unfold queueEvt
  split <;> simp [SameSide]

@[simp] theorem queueFlt_side (s : State) (f : FltRec) : SameSide s (queueFlt s f) := by
  unfold queueFlt
  dsimp only
  repeat' split
  all_goals simp [SameSide]

@[simp] theorem poolDrop_side (s : State) (n : Tenant) (l : Link) (i : Intid) (record : Option (BitVec 8)) : SameSide s (poolDrop s n l i record) := by
  unfold poolDrop
  split <;> simp [SameSide]

@[simp] theorem queueNak_side (s : State) (e : SowEvent) (i : Intid) (code : Nat) : SameSide s (queueNak s e i code) := by
  unfold queueNak
  split <;> simp [SameSide]

@[simp] theorem markUnfit_side (s : State) : SameSide s (markUnfit s) := ⟨rfl, rfl, rfl, rfl, rfl⟩

@[simp] theorem dropReq_side (s : State) (c : Nat) : SameSide s (dropReq s c) := ⟨rfl, rfl, rfl, rfl, rfl⟩

@[simp] theorem freeGrant_side (s : State) (c : Nat) : SameSide s (freeGrant s c) := ⟨rfl, rfl, rfl, rfl, rfl⟩

@[simp] theorem revokeOne_side (s : State) (g : Grant) : SameSide s (revokeOne s g) := by
  unfold revokeOne
  repeat' split
  all_goals simp [SameSide]

@[simp] theorem revoke_side (s : State) : SameSide s (revoke s) := by
  obtain ⟨a, v, f, h, hx⟩ := arbOnly_revoke s
  rw [hx]
  exact ⟨rfl, rfl, rfl, rfl, rfl⟩

@[simp] theorem arbSettle_side (before s : State) : SameSide s (arbSettle before s) := by
  obtain ⟨a, v, f, h, hx⟩ := arbOnly_arbSettle before s
  rw [hx]
  exact ⟨rfl, rfl, rfl, rfl, rfl⟩

@[simp] theorem setXl_side (s : State) (x : Xlate) : SameSide s (setXl s x) := ⟨rfl, rfl, rfl, rfl, rfl⟩

@[simp] theorem updWalks_side (s : State) (f : List Walk → List Walk) : SameSide s (updWalks s f) := ⟨rfl, rfl, rfl, rfl, rfl⟩

@[simp] theorem removeWalk_side (s : State) (tag : BitVec 6) : SameSide s (removeWalk s tag) := ⟨rfl, rfl, rfl, rfl, rfl⟩

@[simp] theorem putWalk_side (s : State) (w : Walk) : SameSide s (putWalk s w) := ⟨rfl, rfl, rfl, rfl, rfl⟩

@[simp] theorem allocWalk_side (s : State) (w : Walk) : SameSide s (allocWalk s w) := ⟨rfl, rfl, rfl, rfl, rfl⟩

@[simp] theorem outEnd_side (s : State) (w : Walk) : SameSide s (outEnd s w) := by
  unfold outEnd
  split <;> simp [SameSide]

@[simp] theorem placeSpill_side (s : State) (e : SowEvent) (i : Intid) : SameSide s (placeSpill s e i) := by
  unfold placeSpill
  dsimp only
  repeat' split
  all_goals simp [SameSide]

@[simp] theorem spillEvent_side (s : State) (e : SowEvent) (i : Intid) : SameSide s (spillEvent s e i) := by
  unfold spillEvent
  dsimp only
  repeat' split
  all_goals simp [SameSide]

@[simp] theorem triggerExt_side (s : State) (e : SowEvent) (i : Intid) (word stamp : Word) (note : Option NoteKey) : SameSide s (triggerExt s e i word stamp note) := by
  unfold triggerExt
  dsimp only
  repeat' split
  all_goals simp [SameSide]

@[simp] theorem faultOne_side (w : Walk) (code stage addr : Nat) (region : Option Nat) (s : State) (e : SowEvent) : SameSide s (faultOne w code stage addr region s e) := by
  unfold faultOne
  split <;> simp [SameSide]

@[simp] theorem keepCopy_side (s : State) (i : Intid) : SameSide s (keepCopy s i) := by
  unfold keepCopy
  dsimp only
  repeat' split
  all_goals simp [SameSide]

@[simp] theorem dropSpilled_side (w : Walk) (code addr : Nat) (region : Option Nat) (s : State) (e : SowEvent) : SameSide s (dropSpilled w code addr region s e) := by simp [dropSpilled, SameSide]

@[simp] theorem faultEffect_side (s : State) (w : Walk) (code stage addr : Nat) (region : Option Nat) : SameSide s (faultEffect s w code stage addr region) := by
  unfold faultEffect
  split
  · exact foldS_side _ _ fun s e => faultOne_side w code stage addr region s e
  · exact foldS_side _ _ fun s e => dropSpilled_side w code addr region s e
  · simp [SameSide]
  · exact ⟨rfl, rfl, rfl, rfl, rfl⟩

@[simp] theorem beginWalk_side (s : State) (w : Walk) : SameSide s (beginWalk s w) := by
  unfold beginWalk
  dsimp only
  repeat' split
  all_goals simp [SameSide]

@[simp] theorem repeatWalk_side (s : State) (w : Walk) : SameSide s (repeatWalk s w) := by simp [repeatWalk, SameSide]

@[simp] theorem walkFault_side (s : State) (w : Walk) (code stage addr : Nat) (region : Option Nat) : SameSide s (walkFault s w code stage addr region) := by
  unfold walkFault
  split <;> simp [SameSide]

@[simp] theorem markSpill_side (s : State) (n : Tenant) : SameSide s (markSpill s n) := ⟨rfl, rfl, rfl, rfl, rfl⟩

@[simp] theorem sweepFault_side (s : State) (w : Walk) (code addr : Nat) (region : Option Nat) : SameSide s (sweepFault s w code addr region) := by simp [sweepFault, SameSide]

@[simp] theorem sweepNext_side (s : State) (w : Walk) : SameSide s (sweepNext s w) := by
  unfold sweepNext
  dsimp only
  repeat' split
  all_goals simp [SameSide]

@[simp] theorem sweepExtras_side (w : Walk) (js : List Nat) (s : State) : SameSide s (sweepExtras s w js).1 := by
  induction js generalizing s with
  | nil => exact ⟨rfl, rfl, rfl, rfl, rfl⟩
  | cons j rest ih =>
    unfold sweepExtras
    dsimp only
    split
    · exact ⟨rfl, rfl, rfl, rfl, rfl⟩
    · split
      · exact (triggerExt_side s w.e _ _ _ none).trans (ih _)
      · exact ⟨rfl, rfl, rfl, rfl, rfl⟩

@[simp] theorem sweepClose_side (s : State) (w : Walk) : SameSide s (sweepClose s w) := by
  unfold sweepClose
  dsimp only
  repeat' split
  all_goals simp [SameSide]

@[simp] theorem sweepFail_side (s : State) (w : Walk) (code addr : Nat) (region : Option Nat) : SameSide s (sweepFail s w code addr region) := by
  unfold sweepFail
  split <;> simp [SameSide]

@[simp] theorem accessFault_side (s : State) (w : Walk) (code : Nat) (region : Option Nat) : SameSide s (accessFault s w code region) := by
  unfold accessFault
  split <;> simp [SameSide]

@[simp] theorem cmpLeave_side (s : State) (l : Link) (n : Note) : SameSide s (cmpLeave s l n) := by
  unfold cmpLeave
  split <;> simp [SameSide]

@[simp] theorem loseFault_side (s : State) (n : Tenant) (l : Link) : SameSide s (loseFault s n l) := by simp [loseFault, SameSide]

@[simp] theorem popFlt_side (s : State) : SameSide s (popFlt s) := ⟨rfl, rfl, rfl, rfl, rfl⟩

@[simp] theorem popEvt_side (s : State) : SameSide s (popEvt s) := ⟨rfl, rfl, rfl, rfl, rfl⟩

@[simp] theorem loseRing_side (l : Link) (s : State) (t : Tlp) : SameSide s (loseRing l s t) := by
  unfold loseRing
  split <;> simp [SameSide]

@[simp] theorem faultReads_side (s : State) (l : Link) : SameSide s (faultReads s l) := by
  refine foldS_side _ _ fun s w => ?_
  dsimp only
  split <;> simp [SameSide]

@[simp] theorem dropPost_side (s : State) (w : Walk) : SameSide s (dropPost s w) := by
  unfold dropPost
  dsimp only
  split
  · exact SameSide.trans (by simp [SameSide]) (foldS_side _ _ fun s _ => dropCount_side s cntPOOLDROP)
  · split <;> simp [SameSide]

@[simp] theorem dropPosts_side (s : State) (l : Link) : SameSide s (dropPosts s l) := by
  unfold dropPosts
  refine (foldS_side (s.xl.walks.filter fun w => w.issued = some l && isPost w) s fun s w => dropPost_side s w).trans ?_
  generalize foldS dropPost s (s.xl.walks.filter fun w => w.issued = some l && isPost w) = u
  dsimp only
  repeat' split
  all_goals simp [SameSide]

@[simp] theorem dropNotes_side (s : State) (l : Link) : SameSide s (dropNotes s l) := by
  exact foldS_side _ _ fun s n => (dropCount_side s cntCMPDROP).trans (cmpLeave_side _ l n)

end Sys2Proof.Machine
end

section
/-!
PROOFS. Chapters 02, 04 and 11: what the faults and drops of a link that goes down do to INTIDs that the link has lost, and to its flag.
-/
namespace Sys2Proof.Machine

/-- What an INTID that nobody holds keeps under the events that follow the loss of a link: it stays unoffered and unheld. -/
structure Lasting (P : IntRec → Prop) : Prop where
  rest : ∀ k r, P (restRec k r)
  pend : ∀ r n, P r → P { r with st := .pending, age := 0, note := n, noteId := none, discard := false }
  copied : ∀ r c, P r → P { r with copy := c }
  free : ∀ r, P r → r.st = .pending ∨ r.st = .inactive ∨ r.st = .completed

/-- LINK_DOWN is flagged, and the INTID of key `k` is as `P` has it. -/
def Falls (P : IntRec → Prop) (k : Nat) (s : State) : Prop := P (intOf s k) ∧ s.hsAcc.getLsbD 2 = true

theorem Falls.of_same {P : IntRec → Prop} {k : Nat} {s t : State} (h : Falls P k s) (hi : t.irq.ints = s.irq.ints) (ha : t.hsAcc = s.hsAcc) :
    Falls P k t := by
  unfold Falls intOf at h ⊢
  rw [hi, ha]
  exact h

theorem foldS_falls {P : IntRec → Prop} {k : Nat} {α : Type} {f : State → α → State} (l : List α) {s : State}
    (hf : ∀ s a, Falls P k s → Falls P k (f s a)) (h : Falls P k s) : Falls P k (foldS f s l) :=
  foldS_inv (Falls P k) f l s h fun t a g => hf t a g

@[simp] theorem falls_xl {P : IntRec → Prop} {k : Nat} {s : State} {x : Xlate} : Falls P k { s with xl := x } ↔ Falls P k s := Iff.rfl
@[simp] theorem falls_allot {P : IntRec → Prop} {k : Nat} {s : State} {x : Allot} : Falls P k { s with allot := x } ↔ Falls P k s := Iff.rfl

theorem falls_setInt {P : IntRec → Prop} {k : Nat} {s : State} (h : Falls P k s) (j : Nat) {r : IntRec} (hr : j = k → P r) :
    Falls P k (setInt s j r) := by
  refine ⟨?_, h.2⟩
  rw [intOf_setInt]
  split
  · next hj => exact hr hj.symm
  · exact h.1

@[simp] theorem falls_rested {P : IntRec → Prop} (hP : Lasting P) {k : Nat} {s : State} (h : Falls P k s) (j i : Nat) (r : IntRec) :
    Falls P k (setInt s j (restRec i r)) := falls_setInt h j fun _ => hP.rest i r

@[simp] theorem falls_copied {P : IntRec → Prop} (hP : Lasting P) {k : Nat} {s : State} (h : Falls P k s) (j : Nat) (c : Option XCopy) :
    Falls P k (setInt s j { intOf s j with copy := c }) :=
  falls_setInt h j fun hj => hP.copied _ c (hj ▸ h.1)

@[simp] theorem house_falls {P : IntRec → Prop} {k : Nat} {s : State} (h : Falls P k s) (f : BitVec 16) : Falls P k (house s f) := by
  refine ⟨h.1, ?_⟩
  have hs := h.2
  simp [house, hs]

@[simp] theorem setTen_falls (s : State) (n : Tenant) (r : TenRec) {P : IntRec → Prop} {k : Nat} (h : Falls P k s) : Falls P k (setTen s n r) := h

@[simp] theorem bump_falls (s : State) (off : Nat) {P : IntRec → Prop} {k : Nat} (h : Falls P k s) : Falls P k (bump s off) := h

@[simp] theorem dropCount_falls (s : State) (off : Nat) {P : IntRec → Prop} {k : Nat} (h : Falls P k s) : Falls P k (dropCount s off) := by simp [dropCount, h]

@[simp] theorem placeNote_falls (s : State) (n : NoteKey) (i : Intid) {P : IntRec → Prop} {k : Nat} (h : Falls P k s) : Falls P k (placeNote s n i).1 := by
  unfold placeNote
  split <;> simp [h]

@[simp] theorem evT_falls {P : IntRec → Prop} (hP : Lasting P) {k : Nat} {s : State} (h : Falls P k s) (j : Nat) (n : Option NoteKey) :
    Falls P k (evT s j n) := by
  have hpend : j = k → P { intOf s j with st := .pending, age := 0, note := n, noteId := none, discard := false } :=
    fun hj => hP.pend _ n (hj ▸ h.1)
  rw [evT_eq]
  split
  · exact falls_setInt h j hpend
  · have howed : Falls P k (noteOwed s j) := by
      unfold noteOwed
      split
      · exact placeNote_falls s _ _ h
      · exact h
    exact falls_setInt howed j hpend
  · next hact =>
    split
    · exact h
    · have hne : j ≠ k := by
        rintro rfl
        obtain hr | hr | hr := hP.free _ h.1 <;> rw [hact] at hr <;> cases hr
      exact falls_setInt h j fun hj => absurd hj hne
  · exact h


@[simp] theorem evF_falls (s : State) (j : Nat) {P : IntRec → Prop} (hP : Lasting P) {k : Nat} (h : Falls P k s) : Falls P k (evF s j) := by
  unfold evF
  dsimp only
  repeat' split
  all_goals simp [hP, h]

@[simp] theorem evQ_falls (s : State) (i : Intid) (id : Nat) {P : IntRec → Prop} (hP : Lasting P) {k : Nat} (h : Falls P k s) : Falls P k (evQ s i id) := by
  unfold evQ
  dsimp only
  repeat' split
  all_goals simp [hP, h]

@[simp] theorem outSub_falls (s : State) (n : Tenant) {P : IntRec → Prop} {k : Nat} (h : Falls P k s) : Falls P k (outSub s n) := h

@[simp] theorem queueEvt_falls (s : State) (e : EvtRec) {P : IntRec → Prop} {k : Nat} (h : Falls P k s) : Falls P k (queueEvt s e) := by
  unfold queueEvt
  split <;> simp [h]

@[simp] theorem queueFlt_falls (s : State) (f : FltRec) {P : IntRec → Prop} {k : Nat} (h : Falls P k s) : Falls P k (queueFlt s f) := by
  have hf := house_falls h hWALKFAULT
  unfold queueFlt
  dsimp only
  split
  · exact dropCount_falls (house s hWALKFAULT) cntFLTDROP hf
  · exact hf

@[simp] theorem poolDrop_falls (s : State) (n : Tenant) (l : Link) (i : Intid) (record : Option (BitVec 8)) {P : IntRec → Prop} {k : Nat} (h : Falls P k s) : Falls P k (poolDrop s n l i record) := by
  have hd := dropCount_falls s cntPOOLDROP h
  unfold poolDrop
  dsimp only
  split
  · exact queueEvt_falls _ _ hd
  · exact hd

@[simp] theorem queueNak_falls (s : State) (e : SowEvent) (i : Intid) (code : Nat) {P : IntRec → Prop} {k : Nat} (h : Falls P k s) : Falls P k (queueNak s e i code) := by
  unfold queueNak
  split <;> simp [h]

@[simp] theorem markUnfit_falls (s : State) {P : IntRec → Prop} {k : Nat} (h : Falls P k s) : Falls P k (markUnfit s) := h

@[simp] theorem dropReq_falls (s : State) (c : Nat) {P : IntRec → Prop} {k : Nat} (h : Falls P k s) : Falls P k (dropReq s c) := h

@[simp] theorem freeGrant_falls (s : State) (c : Nat) {P : IntRec → Prop} {k : Nat} (h : Falls P k s) : Falls P k (freeGrant s c) := h

@[simp] theorem setXl_falls (s : State) (x : Xlate) {P : IntRec → Prop} {k : Nat} (h : Falls P k s) : Falls P k (setXl s x) := h

@[simp] theorem updWalks_falls (s : State) (f : List Walk → List Walk) {P : IntRec → Prop} {k : Nat} (h : Falls P k s) : Falls P k (updWalks s f) := h

@[simp] theorem removeWalk_falls (s : State) (tag : BitVec 6) {P : IntRec → Prop} {k : Nat} (h : Falls P k s) : Falls P k (removeWalk s tag) := h

@[simp] theorem putWalk_falls (s : State) (w : Walk) {P : IntRec → Prop} {k : Nat} (h : Falls P k s) : Falls P k (putWalk s w) := h

@[simp] theorem allocWalk_falls (s : State) (w : Walk) {P : IntRec → Prop} {k : Nat} (h : Falls P k s) : Falls P k (allocWalk s w) := h

@[simp] theorem outEnd_falls (s : State) (w : Walk) {P : IntRec → Prop} {k : Nat} (h : Falls P k s) : Falls P k (outEnd s w) := by
  unfold outEnd
  split <;> simp [h]

@[simp] theorem placeSpill_falls (s : State) (e : SowEvent) (i : Intid) {P : IntRec → Prop} {k : Nat} (h : Falls P k s) : Falls P k (placeSpill s e i) := by
  unfold placeSpill
  dsimp only
  repeat' split
  all_goals simp [h]

@[simp] theorem spillEvent_falls (s : State) (e : SowEvent) (i : Intid) {P : IntRec → Prop} {k : Nat} (h : Falls P k s) : Falls P k (spillEvent s e i) := by
  unfold spillEvent
  dsimp only
  split
  · exact poolDrop_falls s _ _ _ _ h
  · split
    · exact poolDrop_falls s _ _ _ _ h
    · exact placeSpill_falls _ _ _ h

@[simp] theorem triggerExt_falls (s : State) (e : SowEvent) (i : Intid) (word stamp : Word) (note : Option NoteKey) {P : IntRec → Prop} (hP : Lasting P) {k : Nat} (h : Falls P k s) : Falls P k (triggerExt s e i word stamp note) := by
  have ht := evT_falls hP h (ikey 0 i) note
  unfold triggerExt
  dsimp only
  split
  · exact h
  · split
    · split
      · exact spillEvent_falls s _ _ h
      · exact falls_copied hP ht _ _
    · split
      · split
        · exact ht
        · exact falls_copied hP ht _ _
      · exact ht

@[simp] theorem faultOne_falls (w : Walk) (code stage addr : Nat) (region : Option Nat) (s : State) (e : SowEvent) {P : IntRec → Prop} {k : Nat} (h : Falls P k s) : Falls P k (faultOne w code stage addr region s e) := by
  unfold faultOne
  split <;> simp [h]

@[simp] theorem keepCopy_falls (s : State) (i : Intid) {P : IntRec → Prop} (hP : Lasting P) {k : Nat} (h : Falls P k s) : Falls P k (keepCopy s i) := by
  unfold keepCopy
  dsimp only
  repeat' split
  all_goals simp [hP, h]

@[simp] theorem dropSpilled_falls (w : Walk) (code addr : Nat) (region : Option Nat) (s : State) (e : SowEvent) {P : IntRec → Prop} {k : Nat} (h : Falls P k s) : Falls P k (dropSpilled w code addr region s e) := by simp [dropSpilled, h]

@[simp] theorem faultEffect_falls (s : State) (w : Walk) (code stage addr : Nat) (region : Option Nat) {P : IntRec → Prop} (hP : Lasting P) {k : Nat} (h : Falls P k s) : Falls P k (faultEffect s w code stage addr region) := by
  unfold faultEffect
  split
  · exact foldS_falls _ (fun s e h => faultOne_falls w code stage addr region s e h) h
  · exact foldS_falls _ (fun s e h => dropSpilled_falls w code addr region s e h) h
  · simp [hP, h]
  · exact h

@[simp] theorem beginWalk_falls (s : State) (w : Walk) {P : IntRec → Prop} (hP : Lasting P) {k : Nat} (h : Falls P k s) : Falls P k (beginWalk s w) := by
  unfold beginWalk
  dsimp only
  repeat' split
  all_goals simp [hP, h]

@[simp] theorem repeatWalk_falls (s : State) (w : Walk) {P : IntRec → Prop} (hP : Lasting P) {k : Nat} (h : Falls P k s) : Falls P k (repeatWalk s w) := by simp [repeatWalk, hP, h]

@[simp] theorem walkFault_falls (s : State) (w : Walk) (code stage addr : Nat) (region : Option Nat) {P : IntRec → Prop} (hP : Lasting P) {k : Nat} (h : Falls P k s) : Falls P k (walkFault s w code stage addr region) := by
  unfold walkFault
  split <;> simp [hP, h]

@[simp] theorem markSpill_falls (s : State) (n : Tenant) {P : IntRec → Prop} {k : Nat} (h : Falls P k s) : Falls P k (markSpill s n) := h

@[simp] theorem sweepFault_falls (s : State) (w : Walk) (code addr : Nat) (region : Option Nat) {P : IntRec → Prop} {k : Nat} (h : Falls P k s) : Falls P k (sweepFault s w code addr region) := by simp [sweepFault, h]

@[simp] theorem sweepNext_falls (s : State) (w : Walk) {P : IntRec → Prop} {k : Nat} (h : Falls P k s) : Falls P k (sweepNext s w) := by
  unfold sweepNext
  dsimp only
  repeat' split
  all_goals simp [h]

@[simp] theorem sweepExtras_falls {P : IntRec → Prop} (hP : Lasting P) {k : Nat} {s : State} (h : Falls P k s) (w : Walk) (js : List Nat) :
    Falls P k (sweepExtras s w js).1 := by
  induction js generalizing s with
  | nil => exact h
  | cons j rest ih =>
    unfold sweepExtras
    dsimp only
    split
    · exact h
    · split
      · exact ih (triggerExt_falls s w.e _ _ _ none hP h)
      · exact h

@[simp] theorem sweepClose_falls (s : State) (w : Walk) {P : IntRec → Prop} (hP : Lasting P) {k : Nat} (h : Falls P k s) : Falls P k (sweepClose s w) := by
  unfold sweepClose
  dsimp only
  repeat' split
  all_goals simp [hP, h]

@[simp] theorem sweepFail_falls (s : State) (w : Walk) (code addr : Nat) (region : Option Nat) {P : IntRec → Prop} (hP : Lasting P) {k : Nat} (h : Falls P k s) : Falls P k (sweepFail s w code addr region) := by
  unfold sweepFail
  split <;> simp [hP, h]

@[simp] theorem accessFault_falls (s : State) (w : Walk) (code : Nat) (region : Option Nat) {P : IntRec → Prop} (hP : Lasting P) {k : Nat} (h : Falls P k s) : Falls P k (accessFault s w code region) := by
  unfold accessFault
  split <;> simp [hP, h]

@[simp] theorem cmpLeave_falls (s : State) (l : Link) (n : Note) {P : IntRec → Prop} (hP : Lasting P) {k : Nat} (h : Falls P k s) : Falls P k (cmpLeave s l n) := by
  unfold cmpLeave
  split <;> simp [hP, h]

@[simp] theorem loseFault_falls (s : State) (n : Tenant) (l : Link) {P : IntRec → Prop} {k : Nat} (h : Falls P k s) : Falls P k (loseFault s n l) := by
  unfold loseFault
  exact queueEvt_falls _ _ h

@[simp] theorem popFlt_falls (s : State) {P : IntRec → Prop} {k : Nat} (h : Falls P k s) : Falls P k (popFlt s) := h

@[simp] theorem popEvt_falls (s : State) {P : IntRec → Prop} {k : Nat} (h : Falls P k s) : Falls P k (popEvt s) := h

@[simp] theorem loseRing_falls (l : Link) (s : State) (t : Tlp) {P : IntRec → Prop} {k : Nat} (h : Falls P k s) : Falls P k (loseRing l s t) := by
  unfold loseRing
  split <;> simp [h]

@[simp] theorem faultReads_falls (s : State) (l : Link) {P : IntRec → Prop} (hP : Lasting P) {k : Nat} (h : Falls P k s) : Falls P k (faultReads s l) := by
  refine foldS_falls _ (fun s w h => ?_) h
  dsimp only
  split <;> simp [hP, h]

@[simp] theorem dropPost_falls (s : State) (w : Walk) {P : IntRec → Prop} (hP : Lasting P) {k : Nat} (h : Falls P k s) : Falls P k (dropPost s w) := by
  unfold dropPost
  dsimp only
  split
  · exact foldS_falls _ (fun s _ h => dropCount_falls s cntPOOLDROP h) (removeWalk_falls _ _ (outEnd_falls s w h))
  · split
    · exact removeWalk_falls _ _ (outEnd_falls s w h)
    · exact sweepClose_falls _ _ hP (markSpill_falls _ _ (outEnd_falls s w h))

@[simp] theorem dropPosts_falls (s : State) (l : Link) {P : IntRec → Prop} (hP : Lasting P) {k : Nat} (h : Falls P k s) :
    Falls P k (dropPosts s l) := by
  have hd := foldS_falls (s.xl.walks.filter fun w => w.issued = some l && isPost w) (fun s w h => dropPost_falls s w hP h) h
  have hflt (u : State) (hu : Falls P k u) (n m : Tenant) (q : Link) : Falls P k (loseFault (outSub (popFlt u) n) m q) :=
    loseFault_falls _ _ _ (outSub_falls _ _ (popFlt_falls u hu))
  have hevt (u : State) (hu : Falls P k u) : Falls P k (bump (outSub (popEvt u) 0) cntEVTLOST) :=
    bump_falls _ _ (outSub_falls _ _ (popEvt_falls u hu))
  unfold dropPosts
  revert hd
  generalize foldS dropPost s (s.xl.walks.filter fun w => w.issued = some l && isPost w) = u
  intro hd
  dsimp only
  repeat' split
  · exact hevt _ (hflt u hd _ _ _)
  · exact hevt u hd
  · exact hevt u hd
  · exact hflt u hd _ _ _
  · exact hd
  · exact hd
  · exact hflt u hd _ _ _
  · exact hd
  · exact hd

@[simp] theorem dropNotes_falls (s : State) (l : Link) {P : IntRec → Prop} (hP : Lasting P) {k : Nat} (h : Falls P k s) : Falls P k (dropNotes s l) :=
  foldS_falls _ (fun s n h => cmpLeave_falls _ l n hP (dropCount_falls s cntCMPDROP h)) h

/-- The arbiter leaves INTIDs alone and drops no flag. -/
theorem abortErase_falls {P : IntRec → Prop} {k : Nat} {s : State} (h : Falls P k s) : Falls P k (abortErase s) := by
  unfold abortErase
  split <;> exact h

theorem revokeOne_falls {P : IntRec → Prop} {k : Nat} {s : State} (h : Falls P k s) (g : Grant) : Falls P k (revokeOne s g) := by
  unfold revokeOne
  dsimp only
  split
  · exact h
  · split
    · split
      · exact freeGrant_falls _ _ (abortErase_falls h)
      · exact h
    · exact h

theorem revoke_falls {P : IntRec → Prop} {k : Nat} {s : State} (h : Falls P k s) : Falls P k (revoke s) :=
  foldS_falls _ (fun s g h => by
    split
    · exact h
    · exact revokeOne_falls h g) h

theorem ite_falls {P : IntRec → Prop} {k : Nat} {c : Prop} [Decidable c] {s t : State} (hs : Falls P k s) (ht : Falls P k t) :
    Falls P k (if c then s else t) := by
  split
  · exact hs
  · exact ht

theorem arbSettle_falls {P : IntRec → Prop} {k : Nat} (before : State) {s : State} (h : Falls P k s) : Falls P k (arbSettle before s) := by
  have h1 : Falls P k (if budget before ≠ budget s then house s hBUDGET else s) := ite_falls (house_falls h _) h
  unfold arbSettle
  dsimp only
  generalize (if budget before ≠ budget s then house s hBUDGET else s) = x at h1 ⊢
  have h2 : Falls P k (if (decide (freeAllot x < 0) && !x.allot.overdraft) = true then
      house { x with allot := { x.allot with overdraft := true } } hOVERDRAFT else x) := ite_falls (house_falls (falls_allot.2 h1) _) h1
  generalize (if (decide (freeAllot x < 0) && !x.allot.overdraft) = true then
      house { x with allot := { x.allot with overdraft := true } } hOVERDRAFT else x) = y at h2 ⊢
  have h3 : Falls P k (if aimMet y = true then y else revoke y) := ite_falls h2 (revoke_falls h2)
  generalize (if aimMet y = true then y else revoke y) = z at h3 ⊢
  exact ite_falls (falls_allot.2 h3) h3

end Sys2Proof.Machine
end

section
/-!
PROOFS. Chapters 02, 04 and 11: a link that goes down (R258, R76, R97, R44, R316).
-/
namespace Sys2Proof.Machine
open Sys2Proof.Safety Sys2Proof.Claims

variable {s e b u : State} {l m : Link} {t t' : Target} {k : Nat} {P E : IntRec → Prop}

/-! ## What becomes of an INTID that the link held (R76) -/

/-- The reversion of an INTID of kind `E` leaves it as `P` has it, and so do the events that follow. -/
structure Loses (P E : IntRec → Prop) : Prop extends Lasting P where
  reverts : ∀ s t k, E (intOf s k) → heldAt (intOf s k) t → P (intOf (revertInt s t k) k)

/-- Nothing is offered, and the INTID is Pending or Inactive. -/
def unoffered (r : IntRec) : Prop := r.offer = none ∧ (r.st = .pending ∨ r.st = .inactive)
/-- No target holds the INTID. -/
def unheld (r : IntRec) : Prop := r.st = .pending ∨ r.st = .inactive ∨ r.st = .completed

theorem restRec_offer (k : Nat) (r : IntRec) : (restRec k r).offer = none := by
  unfold restRec
  split <;> rfl

theorem lasting_unoffered : Lasting unoffered where
  rest k r := ⟨restRec_offer k r, .inr (restRec_st k r)⟩
  pend _ _ h := ⟨h.1, .inl rfl⟩
  copied _ _ h := h
  free _ h := h.2.elim .inl fun h => .inr (.inl h)

theorem lasting_unheld : Lasting unheld where
  rest k r := .inr (.inl (restRec_st k r))
  pend _ _ _ := .inl rfl
  copied _ _ h := h
  free _ h := h

theorem evN_unoffered (h : (intOf s k).st = .offeredE) : unoffered (intOf (evN s k) k) := by
  unfold evN
  dsimp only
  rw [h]
  dsimp only
  split
  · rw [intOf_bump, intOf_setInt, if_pos rfl]
    exact lasting_unoffered.rest k _
  · split
    · rw [intOf_setInt, if_pos rfl]
      exact lasting_unoffered.rest k _
    · rw [intOf_setInt, if_pos rfl]
      exact ⟨rfl, .inl rfl⟩

theorem evW_unoffered (h : (intOf s k).st = .offeredP) : unoffered (intOf (evW s k) k) := by
  unfold evW
  dsimp only
  rw [h]
  dsimp only
  rw [intOf_setInt, if_pos rfl]
  exact ⟨rfl, .inl rfl⟩

theorem loses_unoffered : Loses unoffered fun r => r.st ≠ .active where
  toLasting := lasting_unoffered
  reverts s t k hE h := by
    rw [revertInt_eq]
    unfold heldAt at h
    split
    · next hst =>
      rw [hst] at h
      rw [if_pos h, intOf_bump]
      exact evW_unoffered hst
    · next hst =>
      rw [hst] at h
      rw [if_pos h, intOf_bump]
      exact evN_unoffered hst
    · next hst => exact absurd hst hE
    · next h1 h2 h3 =>
      split at h
      · next hst => exact absurd hst h1
      · next hst => exact absurd hst h2
      · next hst => exact absurd hst h3
      · exact h.elim

theorem loses_unheld : Loses unheld fun _ => True where
  toLasting := lasting_unheld
  reverts s t k _ h := by
    by_cases hE : (intOf s k).st = .active
    · unfold heldAt at h
      rw [hE] at h
      refine .inr (.inr ?_)
      rw [revertInt_st]
      unfold revertedSt
      rw [hE]
      exact if_pos h
    · obtain ⟨-, hst | hst⟩ := loses_unoffered.reverts s t k hE h
      · exact .inl hst
      · exact .inr (.inl hst)

theorem Lasting.not_heldAt (hP : Lasting P) {r : IntRec} (h : P r) (t : Target) : ¬ heldAt r t := by
  unfold heldAt
  obtain hst | hst | hst := hP.free r h <;> rw [hst] <;> exact id

/-- A step of the list reaches what the others keep. -/
theorem foldS_reach {α : Type} {f : State → α → State} {R Q : State → Prop} {a : α} (hR : ∀ s x, R s → R (f s x))
    (hQ : ∀ s x, Q s → Q (f s x)) (ha : ∀ s, R s → Q (f s a)) (xs : List α) (hm : a ∈ xs) (h : R s) : Q (foldS f s xs) := by
  induction xs generalizing s with
  | nil => cases hm
  | cons x xs ih =>
    change Q (foldS f (f s x) xs)
    rcases List.mem_cons.1 hm with rfl | hm
    · exact foldS_inv Q f xs _ (ha s h) hQ
    · exact ih hm (hR s x h)

/-- The INTID is held at target `t` still, or has been reverted. -/
def revertDue (P E : IntRec → Prop) (t : Target) (r : IntRec) : Prop := P r ∨ E r ∧ heldAt r t

theorem intOf_revertTarget (s : State) (t : Target) : intOf (revertTarget s t) k = intOf (foldS (fun s p => revertInt s t p.1) s s.irq.ints) k := by
  rw [revertTarget_eq]
  dsimp only
  split <;> rfl

section
variable (hL : Loses P E)
include hL

theorem revertInt_stays (h : P (intOf s k)) (t' : Target) (j : Nat) : P (intOf (revertInt s t' j) k) := by
  by_cases hj : j = k
  · rw [hj, revertInt_of_not (hL.not_heldAt h t')]
    exact h
  · rw [(onInt_revertInt s t' j).others k (Ne.symm hj)]
    exact h

theorem revertInt_due (h : revertDue P E t (intOf s k)) (t' : Target) (j : Nat) : revertDue P E t (intOf (revertInt s t' j) k) := by
  by_cases hj : j = k
  · by_cases hh : heldAt (intOf s k) t'
    · obtain hp | ⟨hE, -⟩ := h
      · exact absurd hh (hL.not_heldAt hp t')
      · rw [hj]
        exact .inl (hL.reverts s t' k hE hh)
    · rw [hj, revertInt_of_not hh]
      exact h
  · rw [(onInt_revertInt s t' j).others k (Ne.symm hj)]
    exact h

theorem revertInt_reaches (h : revertDue P E t (intOf s k)) : P (intOf (revertInt s t k) k) := by
  obtain hp | ⟨hE, hh⟩ := h
  · exact revertInt_stays hL hp t k
  · exact hL.reverts s t k hE hh

theorem revertTarget_stays (h : P (intOf s k)) (t' : Target) : P (intOf (revertTarget s t') k) := by
  rw [intOf_revertTarget]
  exact foldS_inv (fun x : State => P (intOf x k)) _ _ s h fun x p hx => revertInt_stays hL hx t' p.1

theorem revertTarget_due (h : revertDue P E t (intOf s k)) (t' : Target) : revertDue P E t (intOf (revertTarget s t') k) := by
  rw [intOf_revertTarget]
  exact foldS_inv (fun x : State => revertDue P E t (intOf x k)) _ _ s h fun x p hx => revertInt_due hL hx t' p.1

theorem revertTarget_reaches (h : revertDue P E t (intOf s k)) : P (intOf (revertTarget s t) k) := by
  obtain hp | ⟨hE, hh⟩ := h
  · exact revertTarget_stays hL hp t
  · rw [intOf_revertTarget]
    have hmem : k ∈ s.irq.ints.map Prod.fst := by
      by_contra hno
      have hidle : intOf s k = {} := tabGet_of_not_mem ({} : IntRec) hno
      rw [hidle] at hh
      exact hh.elim
    obtain ⟨p, hp, rfl⟩ := List.mem_map.1 hmem
    exact foldS_reach (R := fun x => revertDue P E t (intOf x p.1)) (Q := fun x => P (intOf x p.1)) (a := p)
      (fun x q hx => revertInt_due hL hx t q.1) (fun x q hx => revertInt_stays hL hx t q.1) (fun x hx => revertInt_reaches hL hx)
      _ hp (.inr ⟨hE, hh⟩)

theorem evF_stays (h : P (intOf s k)) (j : Nat) : P (intOf (evF s j) k) := by
  obtain hf | hf := evF_cases s j <;> rw [hf]
  · exact h
  · rw [intOf_setInt]
    split
    · exact hL.rest _ _
    · exact h

theorem evF_due (h : revertDue P E t (intOf s k)) (j : Nat) : revertDue P E t (intOf (evF s j) k) := by
  obtain hf | hf := evF_cases s j <;> rw [hf]
  · exact h
  · rw [intOf_setInt]
    split
    · exact .inl (hL.rest _ _)
    · exact h

theorem dropLevels_stays (h : P (intOf s k)) (t' : Target) : P (intOf (dropLevels s t') k) := by
  refine foldS_inv (fun x : State => P (intOf x k)) _ _ _ h fun x j hx => ?_
  dsimp only
  split
  · exact evF_stays hL hx _
  · exact hx

theorem dropLevels_due (h : revertDue P E t (intOf s k)) (t' : Target) : revertDue P E t (intOf (dropLevels s t') k) := by
  refine foldS_inv (fun x : State => revertDue P E t (intOf x k)) _ _ _ h fun x j hx => ?_
  dsimp only
  split
  · exact evF_due hL hx _
  · exact hx

end

/-! ## The targets of the link (R44, R97, R316) -/

/-- `e` is `b` but for the INTIDs, the targets' views and the counters. -/
def OnIrq (b e : State) : Prop := ∃ q ts cs, e = { b with irq := { b.irq with ints := q, tgts := ts }, cfg := { b.cfg with cnt := cs } }

theorem onIrq_refl (s : State) : OnIrq s s := ⟨_, _, _, rfl⟩

theorem OnIrq.trans (h : OnIrq s b) (g : OnIrq b e) : OnIrq s e := by
  obtain ⟨q, ts, cs, rfl⟩ := h
  obtain ⟨q', ts', cs', rfl⟩ := g
  exact ⟨q', ts', cs', rfl⟩

theorem OnInts.onIrq (h : OnInts s e) : OnIrq s e := by
  obtain ⟨q, cs, rfl⟩ := h
  exact ⟨_, _, _, rfl⟩

theorem onIrq_setTgt (s : State) (t : Target) (r : TgtRec) : OnIrq s (setTgt s t r) := ⟨_, _, _, rfl⟩

theorem onInts_evF (s : State) (k : Nat) : OnInts s (evF s k) := by
  obtain hf | hf := evF_cases s k <;> rw [hf]
  · exact onInts_refl s
  · exact onInts_setInt s k _

/-- A target's private levels fall, and no view changes but its own. -/
theorem dropLevels_eq (s : State) (t : Target) : OnInts (setTgt s t { tgtOf s t with levels := 0 }) (dropLevels s t) := by
  unfold dropLevels
  dsimp only
  refine foldS_inv (OnInts _) _ _ _ (onInts_refl _) fun x j hx => ?_
  split
  · exact hx.trans (onInts_evF _ _)
  · exact hx

theorem tgtOf_onInts (h : OnInts s e) (t : Target) : tgtOf e t = tgtOf s t := by
  obtain ⟨q, cs, rfl⟩ := h
  rfl

theorem revertTarget_onInts (h : tgtBind s t = false) : OnInts s (revertTarget s t) := by
  rw [revertTarget_eq]
  dsimp only
  rw [h, if_neg Bool.false_ne_true]
  exact onInts_revertAll s t _

/-- The reversion of one target: every offer and claim of it, its levels, its view. -/
def downTarget (s : State) (t : Target) : State :=
  let s := revertTarget s t
  let s := dropLevels s t
  setTgt s t (viewDown (tgtOf s t))

/-- What a target's record is once its link is down. -/
def goneView (r : TgtRec) : TgtRec := viewDown { r with levels := 0 }

theorem tgtOf_downTarget (h : tgtBind s t = false) (u : Target) : tgtOf (downTarget s t) u = if u = t then goneView (tgtOf s t) else tgtOf s u := by
  have h1 := revertTarget_onInts h
  have h2 := dropLevels_eq (revertTarget s t) t
  have hold : tgtOf (dropLevels (revertTarget s t) t) u = if u = t then { tgtOf s t with levels := 0 } else tgtOf s u := by
    rw [tgtOf_onInts h2, tgtOf_setTgt]
    split
    · rw [tgtOf_onInts h1]
    · rw [tgtOf_onInts h1]
  unfold downTarget
  dsimp only
  rw [tgtOf_setTgt]
  split
  · next hu =>
    subst hu
    rw [hold, if_pos rfl]
    rfl
  · next hu => rw [hold, if_neg hu]

theorem onIrq_downTarget (h : tgtBind s t = false) : OnIrq s (downTarget s t) :=
  ((revertTarget_onInts h).onIrq.trans ((onIrq_setTgt _ _ _).trans (dropLevels_eq _ t).onIrq)).trans (onIrq_setTgt _ _ _)

theorem ofLink_onIrq (h : OnIrq s e) (l : Link) (t : Target) : ofLink e l t ↔ ofLink s l t := by
  obtain ⟨q, ts, cs, rfl⟩ := h
  rfl

/-- The turn of one target in the reversion of a link. -/
def downStep (l : Link) (s : State) (n : Nat) : State :=
  if tgtLink s (BitVec.ofNat 8 n) = l && !tgtBind s (BitVec.ofNat 8 n) then downTarget s (BitVec.ofNat 8 n) else s

theorem downStep_of (h : ofLink s l t) : downStep l s t.toNat = downTarget s t := by
  unfold downStep
  rw [BitVec.ofNat_toNat, BitVec.setWidth_eq, h.1, h.2]
  simp

theorem downStep_cases (s : State) (l : Link) (n : Nat) : downStep l s n = s ∨
    ofLink s l (BitVec.ofNat 8 n) ∧ downStep l s n = downTarget s (BitVec.ofNat 8 n) := by
  unfold downStep
  split
  · next h =>
    simp only [Bool.and_eq_true, decide_eq_true_eq, Bool.not_eq_true'] at h
    exact .inr ⟨h, rfl⟩
  · exact .inl rfl

theorem onIrq_downStep (s : State) (l : Link) (n : Nat) : OnIrq s (downStep l s n) := by
  obtain h | ⟨hl, h⟩ := downStep_cases s l n <;> rw [h]
  · exact onIrq_refl s
  · exact onIrq_downTarget hl.2

theorem onIrq_revertLink (s : State) (l : Link) : OnIrq s (revertLink s l) :=
  foldS_inv (OnIrq s) (downStep l) _ s (onIrq_refl s) fun x n hx => hx.trans (onIrq_downStep x l n)

theorem tgtOf_fold_downStep (s : State) (l : Link) (t : Target) (n : Nat) (hn : n ≤ 256) :
    tgtOf (foldS (downStep l) s (List.range n)) t = if t.toNat < n ∧ ofLink s l t then goneView (tgtOf s t) else tgtOf s t := by
  induction n with
  | zero => rw [if_neg (by omega)]; rfl
  | succ n ih =>
    have hx : OnIrq s (foldS (downStep l) s (List.range n)) :=
      foldS_inv (OnIrq s) (downStep l) _ s (onIrq_refl s) fun x n hx => hx.trans (onIrq_downStep x l n)
    have hstep : foldS (downStep l) s (List.range (n + 1)) = downStep l (foldS (downStep l) s (List.range n)) n := by
      unfold foldS
      rw [List.range_succ, List.foldl_append]
      rfl
    have ih := ih (by omega)
    rw [hstep]
    generalize foldS (downStep l) s (List.range n) = x at hx ih ⊢
    by_cases ht : t.toNat = n
    · subst ht
      rw [if_neg (by omega)] at ih
      by_cases hl : ofLink s l t
      · rw [downStep_of ((ofLink_onIrq hx l t).2 hl), tgtOf_downTarget ((ofLink_onIrq hx l t).2 hl).2, if_pos rfl, if_pos ⟨by omega, hl⟩, ih]
      · have hno : downStep l x t.toNat = x := by
          obtain h | ⟨h, -⟩ := downStep_cases x l t.toNat
          · exact h
          · rw [BitVec.ofNat_toNat, BitVec.setWidth_eq] at h
            exact absurd ((ofLink_onIrq hx l t).1 h) hl
        rw [hno, ih, if_neg fun h => hl h.2]
    · have hne : t ≠ BitVec.ofNat 8 n := by
        rintro rfl
        exact ht (by rw [BitVec.toNat_ofNat]; omega)
      have hsame : tgtOf (downStep l x n) t = tgtOf x t := by
        obtain h | ⟨hl, h⟩ := downStep_cases x l n <;> rw [h]
        rw [tgtOf_downTarget hl.2, if_neg hne]
      rw [hsame, ih]
      have hiff : (t.toNat < n ∧ ofLink s l t) ↔ (t.toNat < n + 1 ∧ ofLink s l t) := by
        constructor
        · exact fun h => ⟨by omega, h.2⟩
        · exact fun h => ⟨by omega, h.2⟩
      simp only [hiff]

theorem tgtOf_revertLink (s : State) (l : Link) (t : Target) :
    tgtOf (revertLink s l) t = if ofLink s l t then goneView (tgtOf s t) else tgtOf s t := by
  have h := tgtOf_fold_downStep s l t 256 (le_refl _)
  have hlt : t.toNat < 256 := t.isLt
  simp only [hlt, true_and] at h
  exact h

section
variable (hL : Loses P E)
include hL

theorem downTarget_stays (h : P (intOf s k)) (t : Target) : P (intOf (downTarget s t) k) :=
  dropLevels_stays hL (revertTarget_stays hL h t) t

theorem downTarget_due (h : revertDue P E t (intOf s k)) (t' : Target) : revertDue P E t (intOf (downTarget s t') k) :=
  dropLevels_due hL (revertTarget_due hL h t') t'

theorem downTarget_reaches (h : revertDue P E t (intOf s k)) : P (intOf (downTarget s t) k) :=
  dropLevels_stays hL (revertTarget_reaches hL h) t

/-- What a target of the link held is lost by the reversion. -/
theorem revertLink_reaches (hl : ofLink s l t) (hE : E (intOf s k)) (hh : heldAt (intOf s k) t) : P (intOf (revertLink s l) k) := by
  refine foldS_reach (f := downStep l) (R := fun x => OnIrq s x ∧ revertDue P E t (intOf x k)) (Q := fun x => P (intOf x k))
    (a := t.toNat) (fun x n hx => ⟨hx.1.trans (onIrq_downStep x l n), ?_⟩) (fun x n hx => ?_) (fun x hx => ?_) _
    (List.mem_range.2 t.isLt) ⟨onIrq_refl s, .inr ⟨hE, hh⟩⟩
  · obtain h | ⟨-, h⟩ := downStep_cases x l n <;> rw [h]
    · exact hx.2
    · exact downTarget_due hL hx.2 _
  · obtain h | ⟨-, h⟩ := downStep_cases x l n <;> rw [h]
    · exact hx
    · exact downTarget_stays hL hx _
  · rw [downStep_of ((ofLink_onIrq hx.1 l t).2 hl)]
    exact downTarget_reaches hL hx.2

end

end Sys2Proof.Machine
end

section
/-!
PROOFS. Chapter 11: what a link that goes down leaves behind (R258).
-/
namespace Sys2Proof.Machine
open Sys2Proof.Safety Sys2Proof.Claims

variable {s e b u x : State} {l m : Link} {t : Target} {k p : Nat} {P E : IntRec → Prop} {r : LinkRec}

/-! ## Lanes -/

theorem laneOf_setLane (s : State) (l m : Link) (p q : Nat) (a : LaneRec) (hp : p < 4) (hq : q < 4) :
    laneOf (setLane s l p a) m q = if m = l ∧ q = p then a else laneOf s m q := by
  unfold laneOf setLane
  dsimp only
  rw [tabGet_tabSet]
  have hiff : m.toNat * 4 + q = l.toNat * 4 + p ↔ m = l ∧ q = p := by
    constructor
    · intro h
      exact ⟨BitVec.eq_of_toNat_eq (by omega), by omega⟩
    · rintro ⟨rfl, rfl⟩
      rfl
  simp only [hiff]

/-- `e` is `b` but for the lanes. -/
def OnLanes (b e : State) : Prop := ∃ ns, e = { b with lanes := ns }

theorem onLanes_mapLanes (s : State) (l : Link) (f : LaneRec → LaneRec) : OnLanes s (mapLanes s l f) :=
  foldS_inv (OnLanes s) _ _ s ⟨_, rfl⟩ fun x p hx => by
    obtain ⟨ns, rfl⟩ := hx
    exact ⟨_, rfl⟩

/-- Every lane of the link is changed alike, and no other. -/
theorem laneOf_mapLanes (s : State) (l m : Link) (f : LaneRec → LaneRec) (hp : p < 4) :
    laneOf (mapLanes s l f) m p = if m = l then f (laneOf s l p) else laneOf s m p := by
  have hrange : upTo 4 = [0, 1, 2, 3] := rfl
  unfold mapLanes
  rw [hrange]
  change laneOf (setLane _ l 3 _) m p = _
  by_cases hm : m = l
  · subst hm
    obtain rfl | rfl | rfl | rfl : p = 0 ∨ p = 1 ∨ p = 2 ∨ p = 3 := by omega
    all_goals simp [laneOf_setLane]
  · simp [laneOf_setLane, hm, hp]

theorem laneOf_dropLanes (s : State) (l m : Link) (hp : p < 4) :
    laneOf (dropLanes s l) m p = if m = l then { toSearch (laneOf s l p) with buf := [], run := {}, fifo := [], count := 0, tx := {} }
      else laneOf s m p := laneOf_mapLanes s l m _ hp

theorem onLanes_dropLanes (s : State) (l : Link) : OnLanes s (dropLanes s l) := onLanes_mapLanes s l _

/-! ## The stages of a link's going down -/

/-- LK_EVT.DOWN and LINK_DOWN are raised. -/
def downFlagged (s : State) (l : Link) : State := house (lkEvt s l 8) hLINKDOWN

/-- What the link held is reverted, and its record is that of a link down. -/
def downLinked (s : State) (l : Link) : State :=
  setLink (revertLink (downFlagged s l) l) l (clearCounts (downRec (linkOf s l)))

/-- The ring records that waited in the replay buffer are lost, and the lanes fall silent. -/
def downSilent (s : State) (l : Link) : State := dropLanes (foldS (loseRing l) (downLinked s l) (linkOf s l).ll.replay) l

/-- Reads fault, posted writes and notes are dropped. -/
def downDropped (s : State) (l : Link) : State := dropNotes (dropPosts (faultReads (downSilent s l) l) l) l

theorem linkOf_onIrq (h : OnIrq b e) (m : Link) : linkOf e m = linkOf b m := by
  obtain ⟨q, ts, cs, rfl⟩ := h
  rfl

theorem goDown_eq (s : State) (l : Link) : goDown s l =
    arbSettle (downDropped s l) (dropReq (freeGrant (downDropped s l) (exitClient l)) (exitClient l)) := by
  have h : linkOf (revertLink (downFlagged s l) l) l = linkOf s l := linkOf_onIrq (onIrq_revertLink _ l) l
  unfold downDropped downSilent downLinked
  rw [← h]
  rfl

theorem side_downSilent (s : State) (l : Link) : SameSide (downSilent s l) (goDown s l) := by
  rw [goDown_eq]
  simp [downDropped, SameSide]

theorem side_lost (s : State) (l : Link) : SameSide (downLinked s l) (foldS (loseRing l) (downLinked s l) (linkOf s l).ll.replay) :=
  foldS_side _ _ fun x t => loseRing_side l x t

theorem linkOf_congr (h : e.links = b.links) (m : Link) : linkOf e m = linkOf b m := by
  unfold linkOf
  rw [h]

theorem tgtOf_congr (h : e.irq.tgts = b.irq.tgts) (t : Target) : tgtOf e t = tgtOf b t := by
  unfold tgtOf
  rw [h]

theorem laneOf_congr (h : e.lanes = b.lanes) (m : Link) (p : Nat) : laneOf e m p = laneOf b m p := by
  unfold laneOf
  rw [h]

theorem sqOf_congr (h : e.cfg.sq = b.cfg.sq) (off : Nat) : sqOf e off = sqOf b off := by
  unfold sqOf
  rw [h]

/-- What a link that goes down leaves of links, targets and status words. -/
theorem goDown_side (s : State) (l : Link) : (goDown s l).links = (downLinked s l).links ∧
    (goDown s l).irq.tgts = (downLinked s l).irq.tgts ∧ (goDown s l).cfg.sq = (downLinked s l).cfg.sq ∧
    (goDown s l).sqAcc = (downLinked s l).sqAcc := by
  obtain ⟨hl, -, ht, hs, ha⟩ := side_lost s l
  obtain ⟨hl', -, ht', hs', ha'⟩ := side_downSilent s l
  have h := onLanes_dropLanes (foldS (loseRing l) (downLinked s l) (linkOf s l).ll.replay) l
  unfold downSilent at hl' ht' hs' ha'
  obtain ⟨ns, h⟩ := h
  rw [h] at hl' ht' hs' ha'
  exact ⟨hl'.trans hl, ht'.trans ht, hs'.trans hs, ha'.trans ha⟩

theorem downFlagged_others (s : State) (l : Link) : (downFlagged s l).links = s.links ∧ (downFlagged s l).lanes = s.lanes ∧
    (downFlagged s l).irq = s.irq ∧ (downFlagged s l).cfg.live = s.cfg.live ∧ (downFlagged s l).cfg.im = s.cfg.im := ⟨rfl, rfl, rfl, rfl, rfl⟩

theorem downLinked_same (s : State) (l : Link) : (downLinked s l).irq = (revertLink (downFlagged s l) l).irq ∧
    (downLinked s l).hsAcc = (revertLink (downFlagged s l) l).hsAcc := by
  unfold downLinked
  exact ⟨rfl, rfl⟩

theorem linkOf_goDown (s : State) (l m : Link) :
    linkOf (goDown s l) m = if m = l then clearCounts (downRec (linkOf s l)) else linkOf s m := by
  rw [linkOf_congr (goDown_side s l).1]
  unfold downLinked
  rw [linkOf_setLink, linkOf_onIrq (onIrq_revertLink _ l), linkOf_congr (downFlagged_others s l).1]

theorem tgtOf_goDown (s : State) (l : Link) (t : Target) :
    tgtOf (goDown s l) t = if ofLink s l t then goneView (tgtOf s t) else tgtOf s t := by
  rw [tgtOf_congr (goDown_side s l).2.1]
  have hlive := (downFlagged_others s l).2.2.2.1
  have hof : ofLink (downFlagged s l) l t ↔ ofLink s l t := by
    unfold ofLink tgtLink tgtBind tgtW0 tabLive liveAt
    rw [hlive]
  have h := tgtOf_congr (congrArg (·.tgts) (downLinked_same s l).1) t
  rw [h, tgtOf_revertLink, tgtOf_congr (congrArg (·.tgts) (downFlagged_others s l).2.2.1)]
  simp only [hof]

theorem sqOf_downLinked (s : State) (l : Link) (off : Nat) : sqOf (downLinked s l) off = sqOf (lkEvt s l 8) off ∧
    (downLinked s l).sqAcc = (lkEvt s l 8).sqAcc := by
  unfold downLinked
  obtain ⟨q, ts, cs, h⟩ := onIrq_revertLink (downFlagged s l) l
  rw [h]
  exact ⟨rfl, rfl⟩

theorem sqOf_lkEvt (hq : Quiet s) (l : Link) (f : BitVec 24) : sqOf (lkEvt s l f) (lkEvtOff l) = sqRaise (sqOf s (lkEvtOff l)) f := by
  unfold lkEvt sqSet
  rw [hq.2]
  simp [sqOf, setSq]

theorem lkEvtOff_ne (l : Link) : lkEvtOff l ≠ 0x300 := by
  unfold lkEvtOff
  omega

theorem house_sqAcc_lkEvt (hq : Quiet s) (l : Link) (f : BitVec 24) : (lkEvt s l f).sqAcc.contains 0x300 = false := by
  have hne := lkEvtOff_ne l
  have hacc : (lkEvt s l f).sqAcc = if f = 0 then s.sqAcc else lkEvtOff l :: s.sqAcc := rfl
  rw [hacc, hq.2]
  split
  · rfl
  · simpa using hne.symm

theorem lock_goDown (s : State) (l : Link) (hp : p < 4) : (laneOf (goDown s l) l p).lock = false := by
  rw [laneOf_congr (side_downSilent s l).2.1]
  unfold downSilent
  rw [laneOf_dropLanes _ l l hp, if_pos rfl]
  rfl

theorem falls_downFlagged (h : Falls P k (revertLink (downFlagged s l) l)) (hP : Lasting P) : Falls P k (goDown s l) := by
  have hlinked : Falls P k (downLinked s l) :=
    h.of_same (congrArg (·.ints) (downLinked_same s l).1) (downLinked_same s l).2
  have hlost := foldS_falls (linkOf s l).ll.replay (fun x t hx => loseRing_falls l x t hx) hlinked
  have hsilent : Falls P k (downSilent s l) := by
    obtain ⟨ns, hns⟩ := onLanes_dropLanes (foldS (loseRing l) (downLinked s l) (linkOf s l).ll.replay) l
    unfold downSilent
    rw [hns]
    exact hlost
  have hdrop : Falls P k (downDropped s l) := dropNotes_falls _ l hP (dropPosts_falls _ l hP (faultReads_falls _ l hP hsilent))
  rw [goDown_eq]
  exact arbSettle_falls _ (dropReq_falls _ _ (freeGrant_falls _ _ hdrop))

theorem hsAcc_onIrq (h : OnIrq b e) : e.hsAcc = b.hsAcc := by
  obtain ⟨q, ts, cs, rfl⟩ := h
  rfl

theorem downFlagged_flag (s : State) (l : Link) : (revertLink (downFlagged s l) l).hsAcc.getLsbD 2 = true := by
  rw [hsAcc_onIrq (onIrq_revertLink _ l)]
  have h : (downFlagged s l).hsAcc = s.hsAcc ||| 4 := rfl
  rw [h]
  simp

/-- What the link held is lost with it. -/
theorem goDown_falls (hL : Loses P E) (hl : ofLink s l t) (hE : E (intOf s k)) (hh : heldAt (intOf s k) t) : Falls P k (goDown s l) :=
  falls_downFlagged ⟨revertLink_reaches (s := downFlagged s l) hL hl hE hh, downFlagged_flag s l⟩ hL.toLasting

theorem goDown_flag (s : State) (l : Link) : (goDown s l).hsAcc.getLsbD 2 = true := by
  obtain ⟨k, hk⟩ := Infinite.exists_notMem_finset ((revertLink (downFlagged s l) l).irq.ints.map Prod.fst).toFinset
  have hidle : intOf (revertLink (downFlagged s l) l) k = {} := tabGet_of_not_mem ({} : IntRec) (by simpa using hk)
  refine (falls_downFlagged (P := unheld) (k := k) ⟨?_, downFlagged_flag s l⟩ lasting_unheld).2
  rw [hidle]
  exact .inr (.inl rfl)

/-! ## A link lost (R258) -/

/-- A link's record as it stands with the link down. -/
def Fallen (r : LinkRec) : Prop := r.st = .down ∧ r.holdoff = true ∧ r.ll = {} ∧ r.rxMask = 0 ∧ r.entry = none ∧ r.exitStep = 0

theorem fallen_downRec (r : LinkRec) : Fallen (clearCounts (downRec r)) := ⟨rfl, rfl, rfl, rfl, rfl, rfl⟩

/-- Link `l` has gone down between `s` and `x`, which a command has yet to close. -/
structure Downed (s x : State) (l : Link) : Prop where
  link : Fallen (linkOf x l)
  others : ∀ m, m ≠ l → linkOf x m = linkOf s m
  event : sqOf x (lkEvtOff l) = sqRaise (sqOf s (lkEvtOff l)) 8
  house : x.sqAcc.contains 0x300 = false
  flag : x.hsAcc.getLsbD 2 = true
  lanes : ∀ p, p < 4 → (laneOf x l p).lock = false
  tgts : ∀ t, tgtOf x t = if ofLink s l t then goneView (tgtOf s t) else tgtOf s t
  ints : ∀ P E : IntRec → Prop, Loses P E → ∀ t k, ofLink s l t → E (intOf s k) → heldAt (intOf s k) t → P (intOf x k)
  tb : x.tb = s.tb
  still : Still s x

theorem goDown_downed (hq : Quiet s) (l : Link) : Downed s (goDown s l) l where
  link := by
    rw [linkOf_goDown, if_pos rfl]
    exact fallen_downRec _
  others m hm := by rw [linkOf_goDown, if_neg hm]
  event := by rw [sqOf_congr (goDown_side s l).2.2.1, (sqOf_downLinked s l _).1, sqOf_lkEvt hq]
  house := by
    rw [(goDown_side s l).2.2.2, (sqOf_downLinked s l 0).2]
    exact house_sqAcc_lkEvt hq l 8
  flag := goDown_flag s l
  lanes p hp := lock_goDown s l hp
  tgts := tgtOf_goDown s l
  ints _ _ hL _ _ hl hE hh := (goDown_falls hL hl hE hh).1
  tb := (goDown_keeps s l).2
  still := goDown_still s l

/-- What changed in the link's own record before it went down does not count. -/
theorem Downed.of_setLink (h : Downed (setLink s l r) x l) : Downed s x l where
  link := h.link
  others m hm := (h.others m hm).trans (by rw [linkOf_setLink, if_neg hm])
  event := h.event
  house := h.house
  flag := h.flag
  lanes := h.lanes
  tgts := h.tgts
  ints := h.ints
  tb := h.tb
  still := h.still

/-- Neither does what changes in it after. -/
theorem Downed.setLink (h : Downed s x l) (hr : Fallen r) : Downed s (setLink x l r) l where
  link := by
    rw [linkOf_setLink, if_pos rfl]
    exact hr
  others m hm := by
    rw [linkOf_setLink, if_neg hm]
    exact h.others m hm
  event := h.event
  house := h.house
  flag := h.flag
  lanes := h.lanes
  tgts := h.tgts
  ints := h.ints
  tb := h.tb
  still := h.still

theorem nvDone_flag (h : x.hsAcc.getLsbD 2 = true) (b : State) : (nvDone b x).hsAcc.getLsbD 2 = true := by
  unfold nvDone
  split
  · simp [Machine.house, h]
  · exact h

theorem sqRaise_flag (r : SqReg) {f : BitVec 24} (h : f.getLsbD 2 = true) : (sqRaise r f).flags.getLsbD 2 = true := by
  unfold sqRaise
  split
  · next hf =>
    rw [hf] at h
    simp at h
  · simp [h]

/-- The closing of the command ends what R258 asks for. -/
theorem Downed.linkLost (h : Downed s x l) : linkLost s (settle s x) l := by
  obtain ⟨hst, hhold, hll, hmask, hentry, hexit⟩ := h.link
  obtain ⟨-, -, hpw, -, -, hmbx, -, -, -, hlive, hshadow, him, -⟩ := h.still
  unfold Claims.linkLost
  dsimp only
  have hint (k : Nat) (hk : houseKey k = false) : intOf (settle s x) k = intOf x k := intOf_settle_of_still (x := x) hpw hlive him hk
  rw [linkOf_settle, sqOf_settle _ _ _ (lkEvtOff_ne l), sqOf_settle_house _ _ h.house]
  refine ⟨hst, hhold, hll, hmask, hentry, hexit, h.event, sqRaise_flag _ (by simpa using nvDone_flag h.flag s), fun p hp => ?_, fun n hn => ?_,
    fun n hn => ?_, fun k o hk hoff ho hl => ?_, fun k hk hact hl => ?_, fun m hm => ?_, ?_, ?_, ?_, ?_, ?_⟩
  · rw [laneOf_settle]
    exact h.lanes p hp
  · rw [tgtOf_settle, h.tgts, if_pos hn]
    exact ⟨rfl, rfl, rfl, rfl, rfl⟩
  · rw [tgtOf_settle, h.tgts, if_neg hn]
  · rw [hint k hk]
    refine h.ints _ _ loses_unoffered o.target k hl ?_ ?_
    · obtain hst | hst := hoff <;> rw [hst] <;> simp
    · unfold heldAt
      obtain hst | hst := hoff <;> rw [hst] <;> simp [ho]
  · rw [hint k hk]
    have := h.ints _ _ loses_unheld (intOf s k).holder k hl trivial (by unfold heldAt; rw [hact])
    unfold unheld at this
    tauto
  · rw [linkOf_settle, h.others m hm]
  · rw [settle_live, hlive]
  · rw [settle_shadow, hshadow]
  · rw [settle_tb, h.tb]
  · rw [settle_pw, hpw]
  · rw [settle_mbx, hmbx]

end Sys2Proof.Machine
end

section
/-!
PROOFS. Chapter 12: acknowledgement, replay and credit (R273, R274, R277).
-/
namespace Sys2Proof.Machine
open Sys2Proof.Safety Sys2Proof.Claims

variable {s e b u x : State} {l m : Link} {r : LinkRec} {q cum : BitVec 12} {cause : BitVec 3}

/-! ## Two writes of one record -/

theorem tabPut_tabPut {α : Type} (t : Tab α) (k : Nat) (v w : α) : tabPut (tabPut t k v) k w = tabPut t k w := by
  induction t with
  | nil => simp [tabPut]
  | cons a t ih =>
    obtain ⟨j, z⟩ := a
    by_cases h1 : j = k
    · simp [tabPut, h1]
    · by_cases h2 : k < j
      · simp [tabPut, h1, h2]
      · simp [tabPut, h1, h2, ih]

theorem tabErase_tabPut {α : Type} (t : Tab α) (k : Nat) (v : α) : tabErase (tabPut t k v) k = tabErase t k := by
  induction t with
  | nil => simp [tabPut, tabErase]
  | cons a t ih =>
    obtain ⟨j, z⟩ := a
    unfold tabErase at ih ⊢
    by_cases h1 : j = k
    · simp [tabPut, h1]
    · by_cases h2 : k < j
      · simp [tabPut, h1, h2]
      · rw [tabPut, if_neg h1, if_neg h2, List.filter_cons, List.filter_cons, ih]

/-- A record written over one that is not the default leaves no trace of it. -/
theorem setLink_setLink (s : State) (l : Link) {a : LinkRec} (ha : a.st ≠ .down) (r : LinkRec) :
    setLink (setLink s l a) l r = setLink s l r := by
  have hne : a ≠ ({} : LinkRec) := by
    rintro rfl
    exact ha rfl
  unfold setLink tabSet
  dsimp only
  rw [if_neg hne]
  split
  · rw [tabErase_tabPut]
  · rw [tabPut_tabPut]

/-! ## What follows an acknowledgement -/

theorem linkRuns_of_arrives (h : arrives s l) : linkRuns s l = true := by
  simp [linkRuns, operating, linkActive, h.1, h.2]

theorem cancelEntry_of_none (h : (linkOf s l).entry = none) : cancelEntry s l = setLink s l (linkOf s l) := by
  have hsent : entrySent s l = false := by
    unfold entrySent
    dsimp only
    rw [h]
    rfl
  unfold cancelEntry
  dsimp only
  rw [hsent, if_neg Bool.false_ne_true, ← h]

theorem freed_of_none (h : (linkOf s l).ll.cplQ = []) : freed s l = s := by
  have hsend : sendWaitingCpl s l = s := by
    unfold sendWaitingCpl
    dsimp only
    rw [h]
  unfold freed
  rw [hsend, ite_self]

/-- What an acknowledgement leaves in the replay buffer. -/
def uncovered (ll : LinkLayer) (q : BitVec 12) : List Tlp := ll.replay.filter fun t => !decide ((q - t.seq).toNat < 2048)

/-- The link layer once an acknowledgement has freed what it covers. -/
def acked (ll : LinkLayer) (q : BitVec 12) : LinkLayer :=
  if (uncovered ll q).length = ll.replay.length then ll
  else { ll with replay := uncovered ll q, rpl := ll.rpl.filter fun t => !decide ((q - t.seq).toNat < 2048), noProg := 0 }

theorem ackTlps_of_sent {ll : LinkLayer} (h : (ll.txSeq - 1 - q).toNat < 2048) : ackTlps ll q = some (acked ll q) := by
  unfold ackTlps acked uncovered
  dsimp only
  rw [if_pos h]
  split <;> rfl

theorem ackTlps_of_unsent {ll : LinkLayer} (h : 2048 ≤ (ll.txSeq - 1 - q).toNat) : ackTlps ll q = none := if_neg (by omega)

theorem acked_replay (ll : LinkLayer) (q : BitVec 12) : (acked ll q).replay = uncovered ll q := by
  unfold acked
  split
  · next h => exact (List.filter_sublist.eq_of_length h).symm
  · rfl

theorem acked_cplQ (ll : LinkLayer) (q : BitVec 12) : (acked ll q).cplQ = ll.cplQ := by
  unfold acked
  split <;> rfl

/-! ## A link that fails (R274) -/

/-- Link `l` has gone down with a cause. -/
def Fails (s x : State) (l : Link) (cause : BitVec 3) : Prop := Downed s x l ∧ (linkOf x l).failCause = cause

theorem fails_linkFail (hq : Quiet s) (l : Link) (cause : BitVec 3) : Fails s (linkFail s l cause) l cause := by
  have hq' : Quiet (setLink s l { linkOf s l with failCause := cause }) := hq
  refine ⟨(goDown_downed hq' l).of_setLink, ?_⟩
  unfold linkFail
  rw [linkOf_goDown, if_pos rfl, linkOf_setLink_self]
  rfl

theorem Fails.of_setLink (h : Fails (setLink s l r) x l cause) : Fails s x l cause := ⟨h.1.of_setLink, h.2⟩

theorem Fails.freed (h : Fails s x l cause) : Fails s (freed x l) l cause := by
  have hll := h.1.link.2.2.1
  rwa [freed_of_none (by rw [hll])]

theorem Fails.cancelEntry (h : Fails s x l cause) : Fails s (cancelEntry x l) l cause := by
  rw [cancelEntry_of_none h.1.link.2.2.2.2.1]
  refine ⟨h.1.setLink h.1.link, ?_⟩
  rw [linkOf_setLink_self]
  exact h.2

theorem Fails.settle (h : Fails s x l cause) : linkLost s (settle s x) l ∧ (linkOf (settle s x) l).failCause = cause :=
  ⟨h.1.linkLost, by rw [linkOf_settle]; exact h.2⟩

/-! ## Acknowledgements -/

/-- The record of link `l` with another link layer. -/
def withLl (s : State) (l : Link) (ll : LinkLayer) : State := setLink s l { linkOf s l with ll := ll }

theorem unflagged_withLl (s : State) (l : Link) (ll : LinkLayer) : Unflagged s (withLl s l ll) := unflagged_setLink (unflagged_refl s) l _

/-- A new record of an ACTIVE link stays as it is when no entry is under way. -/
theorem cancelEntry_setLink (hst : r.st = .active) (hentry : r.entry = none) : cancelEntry (setLink s l r) l = setLink s l r := by
  have h : (linkOf (setLink s l r) l).entry = none := by
    rw [linkOf_setLink_self]
    exact hentry
  rw [cancelEntry_of_none h, linkOf_setLink_self, setLink_setLink s l (by rw [hst]; simp)]

section
variable (ha : arrives s l) (he : (linkOf s l).entry = none)
include ha he

theorem cancelEntry_withLl (ll : LinkLayer) : cancelEntry (withLl s l ll) l = withLl s l ll :=
  cancelEntry_setLink ha.2 he

theorem ackReceive_of_sent (hc : (linkOf s l).ll.cplQ = []) (h : ((linkOf s l).ll.txSeq - 1 - q).toNat < 2048) :
    ackReceive s l q = withLl s l (acked (linkOf s l).ll q) := by
  have hfreed : freed (withLl s l (acked (linkOf s l).ll q)) l = withLl s l (acked (linkOf s l).ll q) := by
    refine freed_of_none ?_
    unfold withLl
    rw [linkOf_setLink_self]
    exact (acked_cplQ _ _).trans hc
  unfold ackReceive takeAck
  rw [if_pos (linkRuns_of_arrives ha), ackTlps_of_sent h]
  exact (congrArg (cancelEntry · l) hfreed).trans (cancelEntry_withLl ha he _)

end

theorem fails_of_unsent (hq : Quiet s) (ha : arrives s l) (h : 2048 ≤ ((linkOf s l).ll.txSeq - 1 - q).toNat) :
    Fails s (ackReceive s l q) l 3 ∧ Fails s (nakReceive s l q) l 3 := by
  unfold ackReceive nakReceive takeAck takeNak
  dsimp only
  rw [if_pos (linkRuns_of_arrives ha), if_pos (linkRuns_of_arrives ha), ackTlps_of_unsent h]
  exact ⟨(fails_linkFail hq l 3).cancelEntry, (fails_linkFail hq l 3).cancelEntry⟩

/-! ## Replays (R273) -/

/-- The record of a link that begins a replay of what link layer `b` holds. -/
def replaying (r : LinkRec) (b : LinkLayer) : LinkRec :=
  { r with replays := r.replays + 1, ll := { b with noProg := b.noProg + 1, rpl := b.replay } }

theorem replayNow_of_empty (h : (linkOf s l).ll.replay = []) : replayNow s l = s := by
  unfold replayNow
  dsimp only
  rw [h]
  rfl

theorem replayNow_of_held (h : (linkOf s l).ll.replay ≠ []) : replayNow s l =
    if 4 ≤ (linkOf s l).ll.noProg + 1 then linkFail (setLink s l (replaying (linkOf s l) (linkOf s l).ll)) l 1
    else setLink s l (replaying (linkOf s l) (linkOf s l).ll) := by
  have hne : (linkOf s l).ll.replay.isEmpty = false := by simpa using h
  unfold replayNow
  dsimp only
  rw [hne, if_neg Bool.false_ne_true]
  rfl

section
variable (ha : arrives s l) (he : (linkOf s l).entry = none) (hc : (linkOf s l).ll.cplQ = [])

theorem nakReceive_eq (ha : arrives s l) (h : ((linkOf s l).ll.txSeq - 1 - q).toNat < 2048) : nakReceive s l q =
    cancelEntry (if nakStands (linkOf s l).ll q then freed (replayNow (withLl s l (acked (linkOf s l).ll q)) l) l else s) l := by
  unfold nakReceive takeNak
  dsimp only
  rw [if_pos (linkRuns_of_arrives ha), ackTlps_of_sent h]
  rfl

include ha he in
theorem nakReceive_of_old (h : ((linkOf s l).ll.txSeq - 1 - q).toNat < 2048) (hn : nakStands (linkOf s l).ll q = false) :
    nakReceive s l q = setLink s l (linkOf s l) := by
  rw [nakReceive_eq ha h, hn, if_neg Bool.false_ne_true, cancelEntry_of_none he]

include ha he hc in
theorem nakReceive_of_all (h : ((linkOf s l).ll.txSeq - 1 - q).toNat < 2048) (hn : nakStands (linkOf s l).ll q = true)
    (hk : uncovered (linkOf s l).ll q = []) : nakReceive s l q = withLl s l (acked (linkOf s l).ll q) := by
  have hlink : linkOf (withLl s l (acked (linkOf s l).ll q)) l = { linkOf s l with ll := acked (linkOf s l).ll q } := linkOf_setLink_self s l _
  rw [nakReceive_eq ha h, if_pos hn, replayNow_of_empty, freed_of_none, cancelEntry_withLl ha he]
  · rw [hlink]
    exact (acked_cplQ _ _).trans hc
  · rw [hlink]
    exact (acked_replay _ _).trans hk

theorem replayNow_withLl (hst : (linkOf s l).st = .active) {b : LinkLayer} (hb : b.replay ≠ []) (hp : b.noProg < 3) :
    replayNow (withLl s l b) l = setLink s l (replaying (linkOf s l) b) := by
  have hlink : linkOf (withLl s l b) l = { linkOf s l with ll := b } := linkOf_setLink_self s l _
  rw [replayNow_of_held (by rw [hlink]; exact hb), hlink]
  dsimp only
  rw [if_neg (by omega)]
  unfold withLl
  rw [setLink_setLink s l (by change (linkOf s l).st ≠ .down; rw [hst]; simp)]
  rfl

theorem replayNow_fails (hq : Quiet s) {b : LinkLayer} (hb : b.replay ≠ []) (hp : 3 ≤ b.noProg) :
    Fails s (replayNow (withLl s l b) l) l 1 := by
  have hlink : linkOf (withLl s l b) l = { linkOf s l with ll := b } := linkOf_setLink_self s l _
  rw [replayNow_of_held (by rw [hlink]; exact hb), hlink]
  dsimp only
  rw [if_pos (by omega)]
  exact (fails_linkFail (s := setLink (setLink s l _) l _) hq l 1).of_setLink.of_setLink

include ha he hc in
theorem nakReceive_of_held (h : ((linkOf s l).ll.txSeq - 1 - q).toNat < 2048) (hn : nakStands (linkOf s l).ll q = true)
    (hk : uncovered (linkOf s l).ll q ≠ []) (hp : (acked (linkOf s l).ll q).noProg < 3) :
    nakReceive s l q = setLink s l (replaying (linkOf s l) (acked (linkOf s l).ll q)) := by
  rw [nakReceive_eq ha h, if_pos hn, replayNow_withLl ha.2 (by rw [acked_replay]; exact hk) hp, freed_of_none]
  · exact cancelEntry_setLink ha.2 he
  · rw [linkOf_setLink_self]
    exact (acked_cplQ _ _).trans hc

theorem nakReceive_fails (hq : Quiet s) (ha : arrives s l) (h : ((linkOf s l).ll.txSeq - 1 - q).toNat < 2048)
    (hn : nakStands (linkOf s l).ll q = true) (hk : uncovered (linkOf s l).ll q ≠ []) (hp : 3 ≤ (acked (linkOf s l).ll q).noProg) :
    Fails s (nakReceive s l q) l 1 := by
  rw [nakReceive_eq ha h, if_pos hn]
  exact (replayNow_fails hq (by rw [acked_replay]; exact hk) hp).freed.cancelEntry

end

theorem nakStands_cons {ll : LinkLayer} {t : Tlp} {rest : List Tlp} (h : ll.replay = t :: rest) :
    nakStands ll q = true ↔ q + 1 = t.seq ∨ decide ((q - t.seq).toNat < 2048) = true := by
  unfold nakStands
  rw [h]
  simp

/-! ## Credit (R277) -/

theorem creditReceive_eq (ha : arrives s l) (he : (linkOf s l).entry = none) (vc : Nat) (cum : BitVec 12) :
    creditReceive s l vc cum = withLl s l (takeCreditVc (linkOf s l).ll vc cum) := by
  unfold creditReceive
  rw [if_pos (linkRuns_of_arrives ha)]
  exact cancelEntry_withLl ha he _

theorem sendOwn_of_none (hc : (linkOf s l).ll.cplQ = []) (h1 : nextClass s l ≠ some .nak) (h2 : nextClass s l ≠ some .replay)
    (h3 : nextClass s l ≠ some .lcp) : sendOwn s l = s := by
  have hsend : sendWaitingCpl s l = s := by
    unfold sendWaitingCpl
    dsimp only
    rw [hc]
  unfold sendOwn
  dsimp only
  split
  · next h => exact absurd h h1
  · next h => exact absurd h h2
  · next h => exact absurd h h3
  · exact hsend
  · rfl

/-- One grain that finds room goes to the lane whose turn it is. -/
theorem fillOut_one {g : Grain} {p : Nat} (hout : (linkOf s l).ll.out = [g]) (hp : stripe (linkOf s l).txGroup (linkOf s l).ll.txK = some p)
    (hroom : (laneOf s l p).tx.fifo.length < 8) : fillOut s l =
    setTx (setLink s l { linkOf s l with ll := { (linkOf s l).ll with out := [], txK := (linkOf s l).ll.txK + 1 } }) l p
      { (laneOf s l p).tx with fifo := (laneOf s l p).tx.fifo ++ [g] } := by
  unfold fillOut
  rw [hout]
  change (match (linkOf s l).ll.out, stripe (linkOf s l).txGroup (linkOf s l).ll.txK with | g :: rest, some p => _ | _, _ => _) = _
  rw [hout, hp]
  exact if_pos hroom

theorem sendGrains_one {ll : LinkLayer} {g : Grain} {p : Nat} (hout : ll.out = []) (hp : stripe (linkOf s l).txGroup ll.txK = some p)
    (hroom : (laneOf s l p).tx.fifo.length < 8) :
    linkOf (sendGrains s l ll [g]) l = { linkOf s l with ll := { ll with out := [], txK := ll.txK + 1 } } ∧
    (laneOf (sendGrains s l ll [g]) l p).tx.fifo = (laneOf s l p).tx.fifo ++ [g] := by
  have hx := fillOut_one (s := setLink s l { linkOf s l with ll := { ll with out := ll.out ++ [g] } }) (l := l) (g := g) (p := p)
    (by rw [linkOf_setLink_self, hout]; rfl) (by rw [linkOf_setLink_self]; exact hp) hroom
  unfold sendGrains
  rw [hx]
  constructor
  · change linkOf (setLink _ l _) l = _
    rw [linkOf_setLink_self, linkOf_setLink_self]
  · unfold setTx setLane laneOf
    dsimp only
    rw [tabGet_tabSet_self]
    rfl

/-- A class but for a boundary needs an empty output and room in the next lane. -/
theorem boundary_of_nextClass {c : TxClass} (h : nextClass s l = some c) : (linkOf s l).ll.out = [] ∧
    ∃ p, stripe (linkOf s l).txGroup (linkOf s l).ll.txK = some p ∧ (laneOf s l p).tx.fifo.length < 8 := by
  have hb : atBoundary s l = true := by
    by_contra hno
    unfold nextClass at h
    dsimp only at h
    rw [if_pos (by simpa using hno)] at h
    exact absurd h (by simp)
  unfold atBoundary fifoRoom at hb
  simp only [Bool.and_eq_true] at hb
  obtain ⟨⟨-, hout⟩, hroom⟩ := hb
  refine ⟨by simpa using hout, ?_⟩
  split at hroom
  · next p hp => exact ⟨p, hp, by simpa using hroom⟩
  · exact absurd hroom Bool.false_ne_true

end Sys2Proof.Machine
end

section
/-!
PROOFS. Chapter 12: acknowledgement, replay and credit, settled (R273, R274, R277).
-/
namespace Sys2Proof.Machine
open Sys2Proof.Safety Sys2Proof.Claims

variable {s : State} {l : Link} {q cum : BitVec 12}

/-- A command that fails the link loses it, with the cause in its record. -/
theorem exec_fails {c : Instr} {x : State} {cause : BitVec 3} (h : Fails s x l cause) (hc : exec c s = .next (settle s x)) :
    ∃ t, exec c s = .next t ∧ linkLost s t l ∧ (linkOf t l).failCause = cause :=
  ⟨_, hc, h.settle⟩

/-- A command whose effect is on the links alone closes as usual. -/
theorem exec_wire {c : Instr} {x y : State} (hq : Quiet s) (hx : x = y) (hu : Unflagged s y) (hc : exec c s = .next (settle s x)) :
    ∃ t, exec c s = .next t ∧ UpToMarks y t :=
  ⟨_, hc, hx ▸ (hx ▸ hu : Unflagged s x).upToMarks hq⟩

theorem exec_setLink {c : Instr} {x : State} {r : LinkRec} (hq : Quiet s) (hx : x = setLink s l r) (hc : exec c s = .next (settle s x)) :
    ∃ t, exec c s = .next t ∧ UpToMarks (setLink s l r) t :=
  exec_wire hq hx (unflagged_setLink (unflagged_refl s) l r) hc

/-- A NAK of the oldest TLP held, or of the one after the last it covers, replays what it leaves. -/
theorem exec_nakReceive_of_stands (hq : Quiet s) (ha : arrives s l) (he : (linkOf s l).entry = none) (hc : (linkOf s l).ll.cplQ = [])
    (h : ((linkOf s l).ll.txSeq - 1 - q).toNat < 2048) (hn : nakStands (linkOf s l).ll q = true) :
    (uncovered (linkOf s l).ll q = [] → ∃ t, exec (.nakReceive l q) s = .next t ∧ UpToMarks (withLl s l (acked (linkOf s l).ll q)) t) ∧
    (uncovered (linkOf s l).ll q ≠ [] → (acked (linkOf s l).ll q).noProg < 3 →
      ∃ t, exec (.nakReceive l q) s = .next t ∧ UpToMarks (setLink s l (replaying (linkOf s l) (acked (linkOf s l).ll q))) t) ∧
    (uncovered (linkOf s l).ll q ≠ [] → 3 ≤ (acked (linkOf s l).ll q).noProg →
      ∃ t, exec (.nakReceive l q) s = .next t ∧ linkLost s t l ∧ (linkOf t l).failCause = 1) :=
  ⟨fun hk => exec_setLink hq (nakReceive_of_all ha he hc h hn hk) rfl,
   fun hk hp => exec_setLink hq (nakReceive_of_held ha he hc h hn hk hp) rfl,
   fun hk hp => exec_fails (nakReceive_fails hq ha h hn hk hp) rfl⟩

theorem exec_replayTimeout (hq : Quiet s) (ha : arrives s l) :
    ((linkOf s l).ll.replay = [] → ∃ t, exec (.replayTimeout l) s = .next t ∧ UpToMarks s t) ∧
    ((linkOf s l).ll.replay ≠ [] → (linkOf s l).ll.noProg < 3 →
      ∃ t, exec (.replayTimeout l) s = .next t ∧ UpToMarks (setLink s l (replaying (linkOf s l) (linkOf s l).ll)) t) ∧
    ((linkOf s l).ll.replay ≠ [] → 3 ≤ (linkOf s l).ll.noProg →
      ∃ t, exec (.replayTimeout l) s = .next t ∧ linkLost s t l ∧ (linkOf t l).failCause = 1) := by
  have hrun : replayTimeout s l = replayNow s l := if_pos (linkRuns_of_arrives ha)
  refine ⟨fun h => exec_wire hq (hrun.trans (replayNow_of_empty h)) (unflagged_refl s) rfl, fun h hp => ?_, fun h hp => ?_⟩
  · exact exec_setLink hq (hrun.trans ((replayNow_of_held h).trans (if_neg (by omega)))) rfl
  · refine exec_fails (x := replayTimeout s l) ?_ rfl
    rw [hrun, replayNow_of_held h, if_pos (by omega)]
    exact (fails_linkFail (s := setLink s l _) hq l 1).of_setLink

theorem crNext_of_all {ll : LinkLayer} (h : ll.crDue = 0xB) : crNext ll = some 0 := by
  unfold crNext
  rw [h]
  rfl

theorem sendOwn_lcp (h : nextClass s l = some .lcp) (hack : (linkOf s l).ll.ackDue = false) (hdue : (linkOf s l).ll.crDue = 0xB) :
    sendOwn s l = sendGrains s l { (linkOf s l).ll with crDue := 0xA } [buildLcp 3 0 (linkOf s l).ll.rxP.freed] := by
  have hmask : (0xB : BitVec 4) &&& ~~~(1#4 <<< 0) = 0xA := by decide
  unfold sendOwn sendDue
  dsimp only
  rw [h]
  dsimp only
  rw [hack, if_neg Bool.false_ne_true, crNext_of_all hdue]
  dsimp only
  rw [hdue, hmask]
  rfl

/-- The part's own counts, all due, go out in turn, VC-P's first. -/
theorem exec_creditRepeat (hq : Quiet s) (ha : arrives s l) (hc : (linkOf s l).ll.cplQ = [])
    (u : State) (hu : u = withLl s l { (linkOf s l).ll with crDue := 0xB }) :
    (nextClass u l ≠ some .nak → nextClass u l ≠ some .replay → nextClass u l ≠ some .lcp →
      ∃ t, exec (.creditRepeat l) s = .next t ∧ UpToMarks u t) ∧
    (nextClass u l = some .lcp → (linkOf s l).ll.ackDue = false → ∃ t, exec (.creditRepeat l) s = .next t ∧ (linkOf t l).ll.crDue = 0xA ∧
      ∃ p, stripe (linkOf s l).txGroup (linkOf s l).ll.txK = some p ∧
        (laneOf t l p).tx.fifo = (laneOf s l p).tx.fifo ++ [buildLcp 3 0 (linkOf s l).ll.rxP.freed]) := by
  have hrun : creditRepeat s l = sendOwn u l := by
    unfold creditRepeat
    rw [if_pos (linkRuns_of_arrives ha), hu]
    rfl
  have hlink : linkOf u l = { linkOf s l with ll := { (linkOf s l).ll with crDue := 0xB } } := by
    rw [hu]
    exact linkOf_setLink_self s l _
  refine ⟨fun h1 h2 h3 => ?_, fun h hack => ?_⟩
  · refine exec_wire hq (hrun.trans (sendOwn_of_none (by rw [hlink]; exact hc) h1 h2 h3)) ?_ rfl
    rw [hu]
    exact unflagged_withLl s l _
  · obtain ⟨hout, p, hp, hroom⟩ := boundary_of_nextClass h
    have hsend : sendOwn u l = sendGrains u l { (linkOf u l).ll with crDue := 0xA } [buildLcp 3 0 (linkOf s l).ll.rxP.freed] := by
      have hrx : (linkOf u l).ll.rxP = (linkOf s l).ll.rxP := by rw [hlink]
      rw [sendOwn_lcp h (by rw [hlink]; exact hack) (by rw [hlink]), hrx]
    obtain ⟨hrec, hfifo⟩ := sendGrains_one (s := u) (l := l) (ll := { (linkOf u l).ll with crDue := 0xA })
      (g := buildLcp 3 0 (linkOf s l).ll.rxP.freed) hout hp hroom
    rw [hlink] at hp
    have hlane : laneOf u l p = laneOf s l p := by rw [hu]; rfl
    refine ⟨_, congrArg (fun e => Host.Outcome.next (settle s e)) (hrun.trans hsend), ?_, p, hp, ?_⟩
    · rw [linkOf_settle, hrec]
    · rw [laneOf_settle, hfifo, hlane]

/-- Settles O46: an acknowledgement frees what it covers, a NAK replays what is left besides, and what fails the link loses it. -/
theorem ackReplayCredit : Obligations.AckReplayCredit := by
  intro s l q cum hq ha he hc r covered kept b replayed
  refine ⟨fun h => ⟨?_, fun x rest hr => ⟨fun hs => ?_, fun hs => ?_⟩⟩, ?_, fun h hr => ?_, ?_⟩
  · exact exec_setLink hq (ackReceive_of_sent ha he hc h) rfl
  · exact exec_nakReceive_of_stands hq ha he hc h ((nakStands_cons hr).2 hs)
  · have hn : nakStands (linkOf s l).ll q = false := by
      have := mt (nakStands_cons hr).1 hs
      simpa using this
    exact exec_setLink hq (nakReceive_of_old ha he h hn) rfl
  · rintro h c (rfl | rfl)
    · exact exec_fails (fails_of_unsent hq ha h).1 rfl
    · exact exec_fails (fails_of_unsent hq ha h).2 rfl
  · have hn : nakStands (linkOf s l).ll q = false := by
      unfold nakStands
      rw [show (linkOf s l).ll.replay = [] from hr]
    exact exec_setLink hq (nakReceive_of_old ha he h hn) rfl
  · obtain ⟨h1, h2, h3⟩ := exec_replayTimeout hq ha
    obtain ⟨h4, h5⟩ := exec_creditRepeat hq ha hc _ rfl
    exact ⟨h1, h2, h3, ⟨exec_setLink hq (creditReceive_eq ha he 0 cum) rfl, exec_setLink hq (creditReceive_eq ha he 1 cum) rfl,
      exec_setLink hq (creditReceive_eq ha he 3 cum) rfl⟩, h4, h5⟩

end Sys2Proof.Machine
end

section
/-!
PROOFS. Chapters 10 and 11: what the lines of a link bring changes that link and lanes, and nothing else.
-/
namespace Sys2Proof.Machine
open Sys2Proof.Safety Sys2Proof.Claims

variable {s e b u x : State} {l m : Link} {r : LinkRec} {p : Nat}

/-- `e` is `b` but for the record of link `l` and for lanes. -/
def OnLink (l : Link) (b e : State) : Prop := OnWire b e ∧ ∀ m, m ≠ l → linkOf e m = linkOf b m

theorem onLink_refl (l : Link) (s : State) : OnLink l s s := ⟨onWire_refl s, fun _ _ => rfl⟩

theorem OnLink.trans (h : OnLink l s b) (g : OnLink l b e) : OnLink l s e := ⟨h.1.trans g.1, fun m hm => (g.2 m hm).trans (h.2 m hm)⟩

theorem OnLink.setLink (h : OnLink l b e) (r : LinkRec) : OnLink l b (setLink e l r) :=
  ⟨h.1.trans (onWire_setLink e l r), fun m hm => by rw [linkOf_setLink, if_neg hm]; exact h.2 m hm⟩

theorem OnLink.setLane (h : OnLink l b e) (m : Link) (p : Nat) (a : LaneRec) : OnLink l b (setLane e m p a) :=
  ⟨h.1.trans (onWire_setLane e m p a), h.2⟩

theorem OnLink.setTx (h : OnLink l b e) (m : Link) (p : Nat) (t : LaneTx) : OnLink l b (setTx e m p t) := h.setLane m p _

theorem OnLink.setLl (h : OnLink l b e) (f : LinkLayer → LinkLayer) : OnLink l b (setLl e l f) := h.setLink _

theorem OnLink.ite {c : Prop} [Decidable c] (h : OnLink l b e) (g : OnLink l b u) : OnLink l b (if c then e else u) := by
  split
  · exact h
  · exact g

theorem OnLink.foldS {α : Type} {f : State → α → State} (hf : ∀ e a, OnLink l b e → OnLink l b (f e a)) (xs : List α)
    (h : OnLink l b e) : OnLink l b (foldS f e xs) := foldS_inv (OnLink l b) f xs e h hf

theorem OnLink.unflagged (h : OnLink l b e) : Unflagged b e := h.1.unflagged

/-! ## Groups, training grains and capabilities -/

theorem OnLink.mapLanes (h : OnLink l b e) (m : Link) (f : LaneRec → LaneRec) : OnLink l b (mapLanes e m f) :=
  OnLink.foldS (fun _ p hx => hx.setLane m p _) _ h

theorem OnLink.beginIntervals (h : OnLink l b e) : OnLink l b (beginIntervals e l) :=
  OnLink.foldS (fun _ p hx => hx.setTx l p _) _ h

theorem OnLink.activeMarks (h : OnLink l b e) (n : Nat) : OnLink l b (activeMarks e l n) :=
  OnLink.foldS (fun _ p hx => hx.setTx l p _) _ h

theorem OnLink.startRegroup (h : OnLink l b e) (cap : Nat) (rate : Option (BitVec 2)) : OnLink l b (startRegroup e l cap rate) :=
  (h.setLink _).beginIntervals

theorem OnLink.refreshAlign (h : OnLink l b e) : OnLink l b (refreshAlign e l) := h.setLink _

theorem OnLink.takeMode (h : OnLink l b e) (p : Nat) : OnLink l b (takeMode e l p) := h.setLane l p _

theorem OnLink.lockGone (h : OnLink l b e) (p : Nat) : OnLink l b (lockGone e l p) := by
  unfold Machine.lockGone
  dsimp only
  split
  · exact h.refreshAlign
  · exact (h.setLink _).takeMode p
  · exact h.setLink _
  · exact h.setLink _
  · exact h.setLink _
  · exact h.setLink _
  · exact h

theorem OnLink.noteShake (h : OnLink l b e) (g : Grain) : OnLink l b (noteShake e l g) := h.setLink _

theorem OnLink.trainingGrainIn (h : OnLink l b e) (g : Grain) : OnLink l b (trainingGrainIn e l g) := by
  have hs := h.setLink { linkOf e l with farMask := g.extractLsb' 8 4 }
  exact OnLink.ite h (OnLink.ite (OnLink.ite ((hs.startRegroup _ none).noteShake g) hs) (OnLink.ite (hs.noteShake g) hs))

theorem OnLink.closeCaps (h : OnLink l b e) : OnLink l b (closeCaps e l) := OnLink.ite (h.setLink _) (h.setLink _)

theorem OnLink.grainEvent (h : OnLink l b e) (p : Nat) (ev : Option Grain) : OnLink l b (grainEvent l p e ev) := by
  unfold Machine.grainEvent
  cases ev with
  | none => exact OnLink.ite (OnLink.ite h.closeCaps h) h
  | some g => exact OnLink.ite (OnLink.ite (h.setLink _) h) (h.trainingGrainIn g)

theorem OnLink.laneStepped (h : OnLink l b e) (p : Nat) (a : LaneRec) (ev : List (Option Grain)) : OnLink l b (laneStepped l p e a ev) := by
  have hf : OnLink l b (Machine.foldS (Machine.grainEvent l p) (Machine.setLane e l p a) ev) :=
    OnLink.foldS (fun _ x hx => hx.grainEvent p x) ev (h.setLane l p a)
  exact OnLink.ite (hf.lockGone p) (OnLink.ite hf.refreshAlign hf)

theorem OnLink.laneGo (p n : Nat) (h : OnLink l b e) : OnLink l b (laneGo l p n e) := by
  induction n generalizing e with
  | zero => exact h
  | succ n ih =>
    unfold Machine.laneGo
    split
    · exact h
    · exact ih (h.laneStepped p _ _)

theorem OnLink.laneFeed (h : OnLink l b e) (p : Nat) (bits : List Bool) : OnLink l b (laneFeed e l p bits) := by
  have hg (a : LaneRec) (n : Nat) : OnLink l b (Machine.laneGo l p n (Machine.setLane e l p a)) := OnLink.laneGo p n (h.setLane l p a)
  exact OnLink.ite ((hg _ _).setLane l p _) (hg _ _)

theorem OnLink.deskewGroup (h : OnLink l b e) : OnLink l b (deskewGroup e l) :=
  OnLink.ite (OnLink.foldS (fun _ p hx => OnLink.ite ((hx.setLane l p _).lockGone p) hx) _ h) h

/-- What the lines bring changes their link and its lanes. -/
theorem onLink_lineIn (s : State) (l : Link) (lines : Lines) : OnLink l s (lineIn s l lines) :=
  (OnLink.foldS (fun _ p hx => OnLink.ite ((hx.laneFeed p _).setLane l p _) hx) _ (onLink_refl l s)).deskewGroup

end Sys2Proof.Machine
end

section
/-!
PROOFS. Chapter 12: how a packet is judged (R269, R270, R274, R280).
-/
namespace Sys2Proof.Machine
open Sys2Proof.Safety Sys2Proof.Claims

variable {s e b u x : State} {l m : Link} {r : LinkRec} {ws : List Word} {w : Word} {vc g : Nat} {q : BitVec 12}

/-! ## Fields -/

theorem toNat_extract (w : Word) (lo n : Nat) : (w.extractLsb' lo n).toNat = fld w lo n := BitVec.extractLsb'_toNat lo n w

theorem ofNat_fld (w : Word) (lo n : Nat) : BitVec.ofNat n (fld w lo n) = w.extractLsb' lo n := by
  rw [← toNat_extract, BitVec.ofNat_toNat, BitVec.setWidth_eq]

theorem getD_zero (ws : List Word) : ws.getD 0 0 = ws.headD 0 := by cases ws <;> rfl

/-! ## A packet's CRC and order (R269) -/

theorem crcGood_of_goodPacket (h : goodPacket ws) : crcGood ws = true := by
  obtain ⟨hlen, hcrc⟩ := h
  unfold crcGood
  rw [hlen, decide_eq_true_eq]
  exact hcrc

theorem judge_bad (h : ws.getLastD 0 ≠ crc32c (ws.take (ws.length - 1))) :
    judge s l ws = setLink s l { sendNak { linkOf s l with crcErr := (linkOf s l).crcErr + 1 } with
      ll := { (sendNak { linkOf s l with crcErr := (linkOf s l).crcErr + 1 }).ll with hunt := true } } := by
  unfold judge
  have hbad : crcGood ws = false := by simpa [crcGood] using h
  dsimp only
  rw [hbad]
  rfl

theorem judge_lcp (h : crcGood ws = true) (hg : fld (ws.headD 0) 8 3 = 0) : judge s l ws = actLcp s l (ws.headD 0) := by
  unfold judge
  dsimp only
  rw [h, hg]
  rfl

section
variable (h : crcGood ws = true) (hg : 1 < fld (ws.headD 0) 8 3 + 1)
include h hg

theorem judge_tlp : judge s l ws = if (ws.headD 0).extractLsb' 11 12 = (linkOf s l).ll.rxExp then acceptTlp s l ws
    else if ((linkOf s l).ll.rxExp - (ws.headD 0).extractLsb' 11 12).toNat ≤ 2048
      then setLink s l { linkOf s l with ll := { (linkOf s l).ll with ackDue := true } }
    else setLink s l (sendNak (linkOf s l)) := by
  unfold judge
  dsimp only
  rw [h, if_neg (show ¬ (!true) = true by simp), if_neg (show ¬ fld (ws.headD 0) 8 3 = 0 by omega), ofNat_fld]

theorem judge_next (hs : (ws.headD 0).extractLsb' 11 12 = (linkOf s l).ll.rxExp) : judge s l ws = acceptTlp s l ws :=
  (judge_tlp h hg).trans (if_pos hs)

end

/-! ## Link control packets -/

theorem actLcp_ack (h : fld w 0 6 = 1) : actLcp s l w = takeAck s l (w.extractLsb' 11 12) := by
  unfold actLcp
  dsimp only
  rw [if_pos h, ofNat_fld]

theorem actLcp_nak (h : fld w 0 6 = 2) : actLcp s l w = takeNak s l (w.extractLsb' 11 12) := by
  unfold actLcp
  dsimp only
  rw [if_neg (by rw [h]; decide), if_pos h, ofNat_fld]

theorem actLcp_credit (h : fld w 0 6 = 3) :
    actLcp s l w = setLl s l fun ll => takeCreditVc ll (fld w 6 2) (w.extractLsb' 11 12) := by
  unfold actLcp
  dsimp only
  rw [if_neg (by rw [h]; decide), if_neg (by rw [h]; decide), if_pos h, ofNat_fld]

/-! ## A TLP that is taken (R269 step 3, R272, R278) -/

/-- The TLP of the expected sequence is to be acknowledged. -/
def taken (s : State) (l : Link) : State :=
  setLink s l { linkOf s l with
    ll := { (linkOf s l).ll with rxExp := (linkOf s l).ll.rxExp + 1, rxAny := true, nakSent := false, ackDue := true } }

/-- It has its place in the receive buffer of its VC; completions take none. -/
def buffered (s : State) (l : Link) (vc g : Nat) : State := if vc = 2 then taken s l else arrive (taken s l) l vc g

theorem linkOf_taken (s : State) (l : Link) : linkOf (taken s l) l = { linkOf s l with
    ll := { (linkOf s l).ll with rxExp := (linkOf s l).ll.rxExp + 1, rxAny := true, nakSent := false, ackDue := true } } :=
  linkOf_setLink_self s l _

theorem arrives_taken (h : arrives s l) : arrives (taken s l) l := ⟨h.1, by rw [linkOf_taken]; exact h.2⟩

theorem arrives_buffered (h : arrives s l) (vc g : Nat) : arrives (buffered s l vc g) l := by
  unfold buffered
  split
  · exact arrives_taken h
  · exact arrives_arrive (arrives_taken h) vc g

theorem buffered_eq (h : arrives s l) (vc g : Nat) : buffered s l vc g = setLink s l { linkOf (taken s l) l with
    ll := if vc = 2 then (linkOf (taken s l) l).ll
      else setRx (linkOf (taken s l) l).ll vc { rxOf (linkOf s l).ll vc with held := (rxOf (linkOf s l).ll vc).held + g } } := by
  have hlink := linkOf_taken s l
  have hne : ({ linkOf s l with
      ll := { (linkOf s l).ll with rxExp := (linkOf s l).ll.rxExp + 1, rxAny := true, nakSent := false, ackDue := true } } : LinkRec).st
        ≠ .down := by
    change (linkOf s l).st ≠ .down
    rw [h.2]
    simp
  unfold buffered
  split
  · rw [hlink]
    rfl
  · have hrx : rxOf (linkOf (taken s l) l).ll vc = rxOf (linkOf s l).ll vc := by
      rw [hlink]
      rfl
    rw [arrive_eq (arrives_taken h), hrx]
    unfold taken
    rw [setLink_setLink s l hne]

theorem acceptTlp_plain (h : arrives s l) (h12 : bit (ws.getD 1 0) 12 = false) (h15 : bit (ws.getD 1 0) 15 = false) :
    acceptTlp s l ws =
      let vc := fld (ws.headD 0) 6 2
      let g := fld (ws.headD 0) 8 3 + 1
      let a := buffered s l vc g
      if vc ≠ 2 && rxLimit vc < (rxOf (linkOf s l).ll vc).held + g then linkFail a l 2
      else if fld (ws.headD 0) 0 6 = 0x20 && vc = 2 && 5 < fld (ws.headD 0) 8 3 then linkFail a l 3
      else if wellFormedTlp (ws.headD 0) then actTlp a l ws
      else actMalformed a l ws := by
  have hactive : linkActive (buffered s l (fld (ws.headD 0) 6 2) (fld (ws.headD 0) 8 3 + 1)) l = true := by
    unfold linkActive
    rw [(arrives_buffered h _ _).2]
    rfl
  rw [buffered_eq h, linkOf_taken] at hactive
  unfold acceptTlp
  dsimp only
  rw [h12, h15, if_neg Bool.false_ne_true, if_neg Bool.false_ne_true, buffered_eq h, linkOf_taken]
  exact if_neg fun hno => Bool.false_ne_true ((Bool.not_eq_true' _ ▸ hno : _ = false).symm.trans hactive)

/-- The buffer has room, and a completion is not too long. -/
theorem acceptTlp_fits (h : arrives s l) (h12 : bit (ws.getD 1 0) 12 = false) (h15 : bit (ws.getD 1 0) 15 = false)
    (hf : fld (ws.headD 0) 6 2 = 2 ∨ (rxOf (linkOf s l).ll (fld (ws.headD 0) 6 2)).held + (fld (ws.headD 0) 8 3 + 1) ≤ rxLimit (fld (ws.headD 0) 6 2))
    (hl : ¬ (fld (ws.headD 0) 0 6 = 0x20 ∧ fld (ws.headD 0) 6 2 = 2 ∧ 6 < fld (ws.headD 0) 8 3 + 1)) :
    acceptTlp s l ws = if wellFormedTlp (ws.headD 0) then actTlp (buffered s l (fld (ws.headD 0) 6 2) (fld (ws.headD 0) 8 3 + 1)) l ws
      else actMalformed (buffered s l (fld (ws.headD 0) 6 2) (fld (ws.headD 0) 8 3 + 1)) l ws := by
  rw [acceptTlp_plain h h12 h15]
  dsimp only
  rw [if_neg, if_neg]
  · simp only [Bool.and_eq_true, decide_eq_true_eq]
    omega
  · simp only [Bool.and_eq_true, decide_eq_true_eq, ne_eq]
    omega

/-! ## The command of a well-formed TLP (Table LP-4, LP-5) -/

theorem wellFormedTlp_iff : wellFormedTlp w = true ↔ partAccepts (fld w 0 6) = true ∧ typeVc (fld w 0 6) = some (fld w 6 2) ∧
    fld w 8 3 + 1 ∈ typeLens (fld w 0 6) := by
  simp [wellFormedTlp, and_assoc]

/-- The types a part accepts have one VC each, and but for completions one length. -/
theorem buffered_of_wellFormed (hw : wellFormedTlp w = true) {ty v n : Nat} (hty : fld w 0 6 = ty) (hv : typeVc ty = some v)
    (hn : typeLens ty = [n]) : fld w 6 2 = v ∧ fld w 8 3 + 1 = n := by
  obtain ⟨-, hvc, hlen⟩ := wellFormedTlp_iff.1 hw
  rw [hty, hv] at hvc
  rw [hty, hn] at hlen
  exact ⟨(Option.some.inj hvc).symm, List.mem_singleton.1 hlen⟩

theorem long_of_wellFormed (hw : wellFormedTlp w = true) (hty : fld w 0 6 = 0x20) : fld w 6 2 = 2 ∧ fld w 8 3 + 1 ≤ 6 := by
  obtain ⟨-, hvc, hlen⟩ := wellFormedTlp_iff.1 hw
  rw [hty] at hvc hlen
  have h2 : typeVc 0x20 = some 2 := rfl
  have h3 : typeLens 0x20 = [2, 3, 6] := rfl
  rw [h2] at hvc
  rw [h3] at hlen
  simp only [List.mem_cons, List.not_mem_nil, or_false] at hlen
  exact ⟨(Option.some.inj hvc).symm, by omega⟩

theorem setWidth_eq_extract (w : Word) : w.setWidth 24 = w.extractLsb' 0 24 := by
  apply BitVec.eq_of_toNat_eq
  simp

/-- What the words of a TLP spell is what the transaction layer does with it. -/
theorem exec_message (hw : wellFormedTlp (ws.headD 0) = true) {c : Instr} (hc : messageOf l ws = some c) :
    exec c (taken s l) = .next (settle (taken s l) (actTlp (buffered s l (fld (ws.headD 0) 6 2) (fld (ws.headD 0) 8 3 + 1)) l ws)) := by
  unfold messageOf at hc
  simp only [getD_zero, toNat_extract] at hc
  split at hc
  case h_3 hty =>
    obtain ⟨hv, -⟩ := long_of_wellFormed hw hty
    obtain rfl := Option.some.inj hc
    simp only [actTlp, hty, hv, bodyWord]
    rfl
  case h_12 => cases hc
  all_goals
    next hty =>
      obtain ⟨hv, hn⟩ := buffered_of_wellFormed hw hty rfl rfl
      obtain rfl := Option.some.inj hc
      simp only [actTlp, hty, hv, hn, ofNat_fld, setWidth_eq_extract, bodyWord]
      rfl

/-! ## A TLP that is malformed (R270, R280) -/

theorem actMalformed_plain (hty : fld (ws.headD 0) 0 6 ≠ 0x11) (hv : fld (ws.headD 0) 6 2 ≠ 0) : actMalformed s l ws =
    countMalformed (freeRx s l (fld (ws.headD 0) 6 2) (fld (ws.headD 0) 8 3 + 1)) l := by
  unfold actMalformed malformedTlp
  dsimp only
  rw [if_neg hty, if_neg hv]

/-- Completions have no receive buffer whose grains could be freed. -/
theorem freeGrains_cpl (r : LinkRec) (g : Nat) : freeGrains r 2 g = r := by
  unfold freeGrains
  simp

theorem countMalformed_freeRx_cpl (h : (linkOf s l).st ≠ .down) (g : Nat) : countMalformed (freeRx s l 2 g) l = countMalformed s l := by
  unfold freeRx countMalformed
  rw [freeGrains_cpl, linkOf_setLink_self, setLink_setLink s l h]

/-! ## What the statement calls judged -/

theorem judged_malformed (h : arrives s l) (hs : judge s l ws = acceptTlp s l ws)
    (hw : wellFormedTlp (ws.headD 0) = false) (h12 : bit (ws.getD 1 0) 12 = false) (h15 : bit (ws.getD 1 0) 15 = false)
    (hf : fld (ws.headD 0) 6 2 = 2 ∨ (rxOf (linkOf s l).ll (fld (ws.headD 0) 6 2)).held + (fld (ws.headD 0) 8 3 + 1) ≤ rxLimit (fld (ws.headD 0) 6 2))
    (hv : fld (ws.headD 0) 6 2 ≠ 0) (hty : fld (ws.headD 0) 0 6 ≠ 0x11)
    (hl : ¬ (fld (ws.headD 0) 0 6 = 0x20 ∧ fld (ws.headD 0) 6 2 = 2 ∧ 6 < fld (ws.headD 0) 8 3 + 1)) :
    judge s l ws = countMalformed (if fld (ws.headD 0) 6 2 = 2 then taken s l
      else freeRx (arrive (taken s l) l (fld (ws.headD 0) 6 2) (fld (ws.headD 0) 8 3 + 1)) l (fld (ws.headD 0) 6 2) (fld (ws.headD 0) 8 3 + 1)) l := by
  rw [hs, acceptTlp_fits h h12 h15 hf hl, hw, if_neg Bool.false_ne_true, actMalformed_plain hty hv]
  unfold buffered
  split
  · next h2 =>
    rw [h2, countMalformed_freeRx_cpl]
    rw [(arrives_taken h).2]
    simp
  · rfl

theorem judged_overrun (h : arrives s l) (hs : judge s l ws = acceptTlp s l ws) (h12 : bit (ws.getD 1 0) 12 = false)
    (h15 : bit (ws.getD 1 0) 15 = false)
    (hf : ¬ (fld (ws.headD 0) 6 2 = 2 ∨ (rxOf (linkOf s l).ll (fld (ws.headD 0) 6 2)).held + (fld (ws.headD 0) 8 3 + 1) ≤ rxLimit (fld (ws.headD 0) 6 2))) :
    judge s l ws = linkFail (arrive (taken s l) l (fld (ws.headD 0) 6 2) (fld (ws.headD 0) 8 3 + 1)) l 2 := by
  obtain ⟨h2, hroom⟩ := not_or.1 hf
  rw [hs, acceptTlp_plain h h12 h15]
  dsimp only
  rw [if_pos (by simp only [Bool.and_eq_true, decide_eq_true_eq]; exact ⟨h2, by omega⟩)]
  unfold buffered
  rw [if_neg h2]

theorem judged_long (h : arrives s l) (hs : judge s l ws = acceptTlp s l ws) (h12 : bit (ws.getD 1 0) 12 = false)
    (h15 : bit (ws.getD 1 0) 15 = false) (hty : fld (ws.headD 0) 0 6 = 0x20) (hv : fld (ws.headD 0) 6 2 = 2)
    (hg : 6 < fld (ws.headD 0) 8 3 + 1) : judge s l ws = linkFail (taken s l) l 3 := by
  rw [hs, acceptTlp_plain h h12 h15]
  dsimp only
  rw [if_neg (by simp only [Bool.and_eq_true, decide_eq_true_eq]; exact fun hno => hno.1 hv),
    if_pos (by simp only [Bool.and_eq_true, decide_eq_true_eq]; exact ⟨⟨hty, hv⟩, by omega⟩), hv]
  rfl

theorem packetsJudged : PacketsJudged := by
  intro s l ws h r w0 g vc seq exp nak b q plain fits
  have hlcp (hg : g = 1) : fld (ws.headD 0) 8 3 = 0 := Nat.succ.inj hg
  refine ⟨fun hbad => ?_, fun hgood hg => ⟨fun ht => ?_, fun ht => ?_, fun ht => ?_⟩, fun hgood hg hs => ?_, fun c hgood hg hs hw hc hp hf => ?_,
    fun hgood hg hs hw hp hf hv hty hl => ?_, fun hgood hg hs hp hf => ?_, fun hgood hs hp hty hv hg => ?_⟩
  · exact judge_bad hbad
  · rw [judge_lcp (crcGood_of_goodPacket hgood) (hlcp hg), actLcp_ack ht]
    exact congrArg (fun e => Host.Outcome.next (settle s e)) (if_pos (linkRuns_of_arrives h))
  · rw [judge_lcp (crcGood_of_goodPacket hgood) (hlcp hg), actLcp_nak ht]
    exact congrArg (fun e => Host.Outcome.next (settle s e)) (if_pos (linkRuns_of_arrives h))
  · rw [judge_lcp (crcGood_of_goodPacket hgood) (hlcp hg), actLcp_credit ht, ← toNat_extract]
    exact congrArg (fun e => Host.Outcome.next (settle s e)) (if_pos (linkRuns_of_arrives h))
  · exact (judge_tlp (crcGood_of_goodPacket hgood) hg).trans ((if_neg hs).trans (apply_ite (setLink s l) _ _ _).symm)
  · rw [judge_next (crcGood_of_goodPacket hgood) hg hs, acceptTlp_fits h hp.1 hp.2 hf, if_pos hw]
    · exact exec_message hw hc
    · rintro ⟨hty, -, hlong⟩
      exact absurd hlong (not_lt.2 (long_of_wellFormed hw hty).2)
  · exact judged_malformed h (judge_next (crcGood_of_goodPacket hgood) hg hs) hw hp.1 hp.2 hf hv hty hl
  · exact judged_overrun h (judge_next (crcGood_of_goodPacket hgood) hg hs) hp.1 hp.2 hf
  · exact judged_long h (judge_next (crcGood_of_goodPacket hgood) (lt_trans (by decide) hg) hs) hp.1 hp.2 hty hv hg

end Sys2Proof.Machine
end

section
/-!
PROOFS. Chapter 12: packets framed from the grains of the stream (R246, R262, R269, R271, R309).
-/
namespace Sys2Proof.Machine
open Sys2Proof.Safety Sys2Proof.Claims

variable {s e b u v x : State} {l m : Link} {r : LinkRec} {ws : List Word} {w : Word} {g : Grain} {gs rest : List Grain} {n : Nat}

/-! ## The words of grains -/

theorem wordsOf_length (gs : List Grain) : (wordsOf gs).length = 2 * gs.length := by
  induction gs with
  | nil => rfl
  | cons g gs ih =>
    change (wordsOf gs).length + 1 + 1 = _
    rw [ih, List.length_cons]
    omega

theorem wordsOf_headD (g : Grain) (gs : List Grain) : (wordsOf (g :: gs)).headD 0 = g.extractLsb' 0 32 := rfl

/-- Of grains as many as their header says, the packet is good if its CRC is. -/
theorem goodPacket_iff (hn : n = fld (g.extractLsb' 0 32 : Word) 8 3 + 1) (hlen : n ≤ rest.length + 1) :
    goodPacket (wordsOf ((g :: rest).take n)) ↔ crcGood (wordsOf ((g :: rest).take n)) = true := by
  have hws : (wordsOf ((g :: rest).take n)).length = 2 * n := by
    rw [wordsOf_length, List.length_take, List.length_cons, min_eq_left hlen]
  have hhead : (wordsOf ((g :: rest).take n)).headD 0 = g.extractLsb' 0 32 := by
    rw [hn, List.take_succ_cons, wordsOf_headD]
  unfold goodPacket crcGood
  rw [decide_eq_true_eq, hhead, ← hn, hws]
  exact and_iff_right rfl

/-! ## One step of framing -/

theorem frameStep_eq (h : (linkOf s l).ll.frame = g :: rest) (hn : n = fld (g.extractLsb' 0 32 : Word) 8 3 + 1) : frameStep s l =
    if (linkOf s l).ll.hunt && !framable (g.extractLsb' 0 32) then some (setLl s l fun ll => { ll with frame := rest })
    else if rest.length + 1 < n then none
    else if (linkOf s l).ll.hunt && !crcGood (wordsOf ((g :: rest).take n)) then some (setLl s l fun ll => { ll with frame := rest })
    else
      let u := judge (setLl s l fun ll => { ll with frame := (g :: rest).drop n, hunt := false }) l (wordsOf ((g :: rest).take n))
      some (if crcGood (wordsOf ((g :: rest).take n)) && linkActive u l then cancelEntry u l else u) := by
  have hset : (setLl s l fun ll => { ll with frame := (g :: rest).drop n, hunt := false }) =
      setLl s l fun ll => { ll with frame := ll.frame.drop n, hunt := false } := by
    unfold setLl
    dsimp only
    rw [h]
  rw [hset, hn]
  unfold frameStep
  dsimp only
  rw [h]
  rfl

theorem packetsFramed : PacketsFramed := by
  intro s l g rest ha h ll w0 n ws
  have hframe : ll.frame = g :: rest := h
  have hws : ws = wordsOf ((g :: rest).take n) := by rw [← hframe]
  have hstep := frameStep_eq (n := n) h rfl
  refine ⟨fun hlen hk => ?_, fun hlen hk => ?_, fun hhunt hk => ?_⟩
  · have hno : ¬ ((linkOf s l).ll.hunt && !framable (g.extractLsb' 0 32)) = true := by
      obtain hk | hk := hk
      · rw [show (linkOf s l).ll.hunt = false from hk]
        simp
      · rw [show framable (g.extractLsb' 0 32) = true from hk]
        simp
    rw [hstep, if_neg hno, if_pos hlen]
  · intro u
    have hiff := goodPacket_iff (n := n) (g := g) (rest := rest) rfl hlen
    have hno : ¬ ((linkOf s l).ll.hunt && !framable (g.extractLsb' 0 32)) = true ∧
        ¬ ((linkOf s l).ll.hunt && !crcGood (wordsOf ((g :: rest).take n))) = true := by
      obtain hk | ⟨hf, hgood⟩ := hk
      · rw [show (linkOf s l).ll.hunt = false from hk]
        simp
      · rw [hws] at hgood
        rw [show framable (g.extractLsb' 0 32) = true from hf, hiff.1 hgood]
        simp
    have hu : u = judge (setLl s l fun ll => { ll with frame := (g :: rest).drop n, hunt := false }) l (wordsOf ((g :: rest).take n)) := by
      rw [← hframe]
    rw [hstep, if_neg hno.1, if_neg (not_lt.2 hlen), if_neg hno.2, hu, hws]
    dsimp only
    congr 2
    rw [hiff, Bool.and_eq_true]
    unfold linkActive
    rw [decide_eq_true_eq]
  · have hhunt' : (linkOf s l).ll.hunt = true := hhunt
    obtain hk | ⟨hlen, hgood⟩ := hk
    · rw [hstep, hhunt', show framable (g.extractLsb' 0 32) = false from hk]
      rfl
    · have hiff := goodPacket_iff (n := n) (g := g) (rest := rest) rfl hlen
      rw [hws, hiff, Bool.not_eq_true] at hgood
      rw [hstep, hhunt', hgood, if_neg (not_lt.2 hlen)]
      split <;> rfl

/-! ## What the lines bring (R246, R262) -/

theorem destripe_of_none (hr : linkRuns s l = true) (h : nextGrain s l = none) (n : Nat) : destripe l n s = s := by
  cases n with
  | zero => rfl
  | succ n =>
    unfold destripe
    rw [if_pos hr, h]

/-- The next grain leaves a lane of the link, and no record but the link's changes. -/
theorem nextGrain_onLink (h : nextGrain s l = some (v, g)) : OnLink l s v ∧
    linkOf v l = { linkOf s l with ll := { (linkOf s l).ll with rxK := (linkOf s l).ll.rxK + 1 } } := by
  unfold nextGrain at h
  dsimp only at h
  split at h
  · cases h
  · split at h
    · cases h
    · obtain ⟨rfl, -⟩ := Prod.mk.inj (Option.some.inj h)
      exact ⟨((onLink_refl l s).setLink _).setLane l _ _, linkOf_setLink_self s l _⟩

theorem frameStep_single (hframe : (linkOf s l).ll.frame = [g]) (hhunt : (linkOf s l).ll.hunt = false)
    (hg : fld (g.extractLsb' 0 32 : Word) 8 3 = 0) : frameStep s l =
      let u := judge (setLl s l fun ll => { ll with frame := [], hunt := false }) l [g.extractLsb' 0 32, g.extractLsb' 32 32]
      some (if crcGood [g.extractLsb' 0 32, g.extractLsb' 32 32] && linkActive u l then cancelEntry u l else u) := by
  rw [frameStep_eq (n := 1) hframe (by rw [hg]), hhunt, Bool.false_and, if_neg Bool.false_ne_true, if_neg (by simp), Bool.false_and,
    if_neg Bool.false_ne_true]
  rfl

theorem crcGood_pair (a c : Word) : crcGood [a, c] = true ↔ c = crc32c [a] := by
  unfold crcGood
  rw [decide_eq_true_eq]
  rfl

/-- The record of link `v`, a grain of whose stream has come in and is judged. -/
def cameIn (v : State) (l : Link) (g : Grain) : State := setLl v l fun ll => { ll with frame := ll.frame ++ [g] }

theorem frameOn_one (h : frameStep s l = some x) : frameOn l 1 s = x := by
  unfold frameOn
  rw [h]
  rfl

theorem destripe_one (hr : linkRuns s l = true) (h : nextGrain s l = some (v, g)) (hframe : (linkOf s l).ll.frame = [])
    (hx : frameStep (cameIn v l g) l = some x) : destripe l 1 s = x := by
  obtain ⟨-, hrec⟩ := nextGrain_onLink h
  have hcame : (linkOf (cameIn v l g) l).ll.frame = [g] := by
    unfold cameIn setLl
    rw [linkOf_setLink_self, hrec]
    change (linkOf s l).ll.frame ++ [g] = [g]
    rw [hframe]
    rfl
  unfold destripe
  rw [if_pos hr, h]
  change destripe l 0 (frameOn l (linkOf (cameIn v l g) l).ll.frame.length (cameIn v l g)) = _
  rw [hcame]
  exact frameOn_one hx

theorem linkOf_grain (ha : arrives s l) (h : nextGrain s l = some (v, g)) : (linkOf v l).st = .active ∧ (linkOf v l).entry = (linkOf s l).entry := by
  obtain ⟨-, hrec⟩ := nextGrain_onLink h
  rw [hrec]
  exact ⟨ha.2, rfl⟩

section
variable (ha : arrives s l) (h : nextGrain s l = some (v, g)) (hframe : (linkOf s l).ll.frame = []) (hhunt : (linkOf s l).ll.hunt = false)
  (hg : fld (g.extractLsb' 0 32 : Word) 8 3 = 0)
include ha h hframe hhunt hg

/-- Once its grain has left the stream for judgement, the framing keeps nothing. -/
theorem destripe_single {y : State} (hy : y = judge (setLink v l (linkOf v l)) l [g.extractLsb' 0 32, g.extractLsb' 32 32]) :
    destripe l 1 s = if crcGood [g.extractLsb' 0 32, g.extractLsb' 32 32] && linkActive y l then cancelEntry y l else y := by
  obtain ⟨-, hrec⟩ := nextGrain_onLink h
  have hcame : linkOf (cameIn v l g) l = { linkOf v l with ll := { (linkOf v l).ll with frame := (linkOf v l).ll.frame ++ [g] } } :=
    linkOf_setLink_self v l _
  have hnil : (linkOf v l).ll.frame = [] ∧ (linkOf v l).ll.hunt = false ∧ (linkOf v l).st ≠ .down := by
    rw [hrec]
    refine ⟨hframe, hhunt, ?_⟩
    change (linkOf s l).st ≠ .down
    rw [ha.2]
    simp
  obtain ⟨hnil, hoff, hst⟩ := hnil
  have hbase : (setLl (cameIn v l g) l fun ll => { ll with frame := [], hunt := false }) = setLink v l (linkOf v l) := by
    have hself : ({ linkOf v l with ll := { (linkOf v l).ll with frame := [], hunt := false } } : LinkRec) = linkOf v l := by
      rw [← hnil, ← hoff]
    rw [← hself]
    unfold setLl
    rw [hcame]
    exact setLink_setLink v l
      (a := { linkOf v l with ll := { (linkOf v l).ll with frame := (linkOf v l).ll.frame ++ [g] } }) hst _
  refine destripe_one (linkRuns_of_arrives ha) h hframe ?_
  rw [frameStep_single (by rw [hcame, hnil]; rfl) (by rw [hcame]; exact hoff) hg, hbase, ← hy]

theorem destripe_bad (hbad : g.extractLsb' 32 32 ≠ crc32c [(g.extractLsb' 0 32 : Word)]) (hn : (linkOf v l).ll.nakSent = false) :
    destripe l 1 s = setLink v l { linkOf v l with
      crcErr := (linkOf v l).crcErr + 1, nakCnt := (linkOf v l).nakCnt + 1,
      ll := { (linkOf v l).ll with nakSent := true, nakDue := some ((linkOf v l).ll.rxExp - 1), hunt := true } } := by
  have hcrc : crcGood [(g.extractLsb' 0 32 : Word), g.extractLsb' 32 32] = false := by
    rw [← Bool.not_eq_true, crcGood_pair]
    exact hbad
  have hst : (linkOf v l).st ≠ .down := by
    rw [(linkOf_grain ha h).1]
    simp
  rw [destripe_single ha h hframe hhunt hg rfl, hcrc, Bool.false_and, if_neg Bool.false_ne_true, judge_bad (ws := [g.extractLsb' 0 32, g.extractLsb' 32 32]) hbad, linkOf_setLink_self,
    setLink_setLink v l hst]
  unfold sendNak
  dsimp only
  rw [hn, if_neg Bool.false_ne_true]

theorem destripe_credit (he : (linkOf s l).entry = none) (hgood : g.extractLsb' 32 32 = crc32c [(g.extractLsb' 0 32 : Word)])
    (ht : fld (g.extractLsb' 0 32 : Word) 0 6 = 3) : destripe l 1 s = setLink v l { linkOf v l with
      ll := takeCreditVc (linkOf v l).ll (fld (g.extractLsb' 0 32 : Word) 6 2) ((g.extractLsb' 0 32 : Word).extractLsb' 11 12) } := by
  obtain ⟨hact, hentry⟩ := linkOf_grain ha h
  have hst : (linkOf v l).st ≠ .down := by
    rw [hact]
    simp
  have hjudge : judge (setLink v l (linkOf v l)) l [g.extractLsb' 0 32, g.extractLsb' 32 32] = setLink v l { linkOf v l with
      ll := takeCreditVc (linkOf v l).ll (fld (g.extractLsb' 0 32 : Word) 6 2) ((g.extractLsb' 0 32 : Word).extractLsb' 11 12) } := by
    rw [judge_lcp ((crcGood_pair _ _).2 hgood) hg]
    refine (actLcp_credit ht).trans ?_
    unfold setLl
    rw [linkOf_setLink_self, setLink_setLink v l hst]
  have hactive : linkActive (setLink v l { linkOf v l with
      ll := takeCreditVc (linkOf v l).ll (fld (g.extractLsb' 0 32 : Word) 6 2) ((g.extractLsb' 0 32 : Word).extractLsb' 11 12) }) l = true := by
    unfold linkActive
    rw [linkOf_setLink_self]
    exact decide_eq_true hact
  rw [destripe_single ha h hframe hhunt hg rfl, hjudge, (crcGood_pair _ _).2 hgood, hactive]
  exact cancelEntry_setLink hact (hentry.trans he)

end

/-- What the lines of a link bring and the link's own record take is seen in that record alone. -/
theorem exec_tlpReceive {lines : Lines} {q : LinkRec} (hq : Quiet s) (hu : u = lineIn s l lines) (h : nextGrain u l = some (v, g))
    (hx : tlpReceive s l lines = setLink v l q) : ∃ t, exec (.tlpReceive l lines) s = .next t ∧ linkOf t l = q ∧
      (∀ m, m ≠ l → linkOf t m = linkOf s m) ∧ UpToMarks { v with links := t.links } t := by
  have hon : OnLink l s v := (hu ▸ onLink_lineIn s l lines : OnLink l s u).trans (nextGrain_onLink h).1
  have hlinks : ({ v with links := (settle s (setLink v l q)).links } : State) = setLink v l q := by rw [settle_links]; rfl
  refine ⟨_, congrArg (fun e => Host.Outcome.next (settle s e)) hx, ?_, fun m hm => ?_, ?_⟩
  · rw [linkOf_settle, linkOf_setLink_self]
  · rw [linkOf_settle, linkOf_setLink, if_neg hm, hon.2 m hm]
  · rw [hlinks]
    exact (hon.setLink q).unflagged.upToMarks hq

/-- Settles O45: packets judged, packets framed, and what the lines bring at once. -/
theorem packetsReceived : Obligations.PacketsReceived := by
  refine ⟨packetsJudged, packetsFramed, ?_⟩
  intro s l lines hq hal u
  have hu : u = lineIn s l lines := rfl
  have ha : arrives u l := hal
  clear_value u
  refine ⟨fun hnone => ?_, ?_⟩
  · subst hu
    exact exec_wire hq (destripe_of_none (linkRuns_of_arrives ha) hnone _) (onLink_lineIn s l lines).unflagged rfl
  · intro v g h hheld hframe hhunt he w0 r got hg
    have hrun : tlpReceive s l lines = destripe l 1 u := by
      unfold tlpReceive
      dsimp only
      rw [← hu, hheld]
    refine ⟨fun hbad hn => ?_, fun hgood ht => ?_⟩
    · have hb := hrun.trans (destripe_bad ha h hframe hhunt hg hbad hn)
      exact exec_tlpReceive hq hu h hb
    · have hc := hrun.trans (destripe_credit ha h hframe hhunt hg he hgood ht)
      exact exec_tlpReceive hq hu h hc

end Sys2Proof.Machine
end

section
/-!
PROOFS. Chapter 10: the line code inverts (R216 to R229).
-/
namespace Sys2Proof.Machine
open Sys2Proof.Safety Sys2Proof.Claims

variable {r : Run} {bs rest key data : List Bool} {b v : Bool} {g : Grain} {lane : BitVec 2} {seq : BitVec 8}

/-! ## Stuffing (R222, R223) -/

theorem push_not (r : Run) : r.push (!r.v) = ⟨!r.v, 1⟩ := by
  unfold Run.push
  rw [if_neg (by simp)]

theorem bitErrors_not (first : Bool) (r : Run) : bitErrors first r (!r.v) = 0 := by
  unfold bitErrors
  rw [if_neg (by simp)]

theorem destuff_none (first : Bool) (r : Run) (acc : List Bool) (errs : Nat) (rest : List Bool) :
    destuff first 0 r acc errs rest = some ⟨acc.reverse, errs, r, rest⟩ := by
  cases rest <;> rfl

theorem destuff_bit {n : Nat} (first : Bool) (h : r.n < 24) (acc : List Bool) (errs : Nat) (b : Bool) (rest : List Bool) :
    destuff first (n + 1) r acc errs (b :: rest) = destuff false n (r.push b) (b :: acc) errs rest := by
  change (if n + 1 = 0 then _ else _) = _
  rw [if_neg (Nat.succ_ne_zero n), if_neg (by omega)]
  rfl

/-- The bit that stuffing put in is taken out again, and is no error. -/
theorem destuff_stuffed {n : Nat} (first : Bool) (h : 24 ≤ r.n) (acc : List Bool) (errs : Nat) (rest : List Bool) :
    destuff first (n + 1) r acc errs ((!r.v) :: rest) = destuff false (n + 1) (r.push (!r.v)) acc errs rest := by
  change (if n + 1 = 0 then _ else _) = _
  rw [if_neg (Nat.succ_ne_zero n), if_pos h, bitErrors_not]
  rfl

theorem destuff_stuff (first : Bool) (r : Run) (bs rest acc : List Bool) (errs : Nat) :
    destuff first bs.length r acc errs (stuff r bs ++ rest) = some ⟨acc.reverse ++ bs, errs, r.after (stuff r bs), rest⟩ := by
  induction bs generalizing first r acc with
  | nil =>
    rw [List.length_nil, destuff_none, List.append_nil]
    rfl
  | cons b bs ih =>
    unfold stuff
    split
    · next h =>
      have hone : (r.push (!r.v)).n < 24 := by
        rw [push_not]
        exact show 1 < 24 by decide
      rw [List.length_cons, List.cons_append, List.cons_append, destuff_stuffed first h, destuff_bit false hone, ih, List.reverse_cons,
        List.append_assoc]
      rfl
    · next h =>
      rw [List.length_cons, List.cons_append, destuff_bit first (by omega), ih, List.reverse_cons, List.append_assoc]
      rfl

theorem length_le_stuff (r : Run) (bs : List Bool) : bs.length ≤ (stuff r bs).length := by
  induction bs generalizing r with
  | nil => exact Nat.zero_le _
  | cons b bs ih =>
    unfold stuff
    split
    · have := ih ((r.push (!r.v)).push b)
      simp only [List.length_cons]
      omega
    · have := ih (r.push b)
      simp only [List.length_cons]
      omega

/-! ## Runs on the line (R222) -/

/-- A run of 25 alike does not begin in a shorter run of the other value before it. -/
theorem run_past {n : Nat} (hn : n ≤ 24) {u w : Bool} (hw : w ≠ u) (xs : List Bool) (h : List.replicate 25 v <:+: List.replicate n u ++ w :: xs) :
    List.replicate 25 v <:+: w :: xs := by
  induction n with
  | zero => exact h
  | succ n ih =>
    rw [List.replicate_succ (n := n), List.cons_append, List.infix_cons_iff] at h
    obtain ⟨t, ht⟩ | hin := h
    · have hv (i : Nat) (hi : i < 25) : (u :: (List.replicate n u ++ w :: xs))[i]? = some v := by
        rw [← ht, List.getElem?_append_left (by simpa using hi), List.getElem?_replicate, if_pos hi]
      have hfirst := hv 0 (by decide)
      have hlast := hv (n + 1) (by omega)
      rw [List.getElem?_cons_succ, List.getElem?_append_right (by simp), List.length_replicate, Nat.sub_self] at hlast
      exact absurd ((Option.some.inj hlast).trans (Option.some.inj hfirst).symm) hw
    · exact ih (by omega) hin

theorem not_long_run (r : Run) (bs : List Bool) (v : Bool) (h : r.n ≤ 24) :
    ¬ List.replicate 25 v <:+: (List.replicate r.n r.v ++ stuff r bs) := by
  induction bs generalizing r with
  | nil =>
    intro hin
    have hlen := hin.length_le
    simp only [stuff, List.append_nil, List.length_replicate] at hlen
    omega
  | cons b bs ih =>
    -- after a bit other than the run's, the line goes on with a run of one
    have hone (r : Run) (hr : r.n < 25) (b : Bool) (hb : b ≠ r.v) (h : List.replicate 25 v <:+: List.replicate r.n r.v ++ b :: stuff ⟨b, 1⟩ bs) :
        False := ih ⟨b, 1⟩ (show 1 ≤ 24 by decide) (run_past (by omega) hb _ h)
    have hmore (r : Run) (h : List.replicate 25 v <:+: List.replicate r.n r.v ++ r.v :: stuff ⟨r.v, r.n + 1⟩ bs) (hr : r.n + 1 ≤ 24) : False := by
      refine ih ⟨r.v, r.n + 1⟩ hr ?_
      change List.replicate 25 v <:+: List.replicate (r.n + 1) r.v ++ stuff ⟨r.v, r.n + 1⟩ bs
      rwa [List.replicate_succ' (n := r.n), List.append_assoc]
    intro hin
    unfold stuff at hin
    split at hin
    · have hin := run_past h (by simp) _ hin
      rw [push_not] at hin
      by_cases hb : b = !r.v
      · subst hb
        exact hmore ⟨!r.v, 1⟩ (by simpa [Run.push] using hin) (show 1 + 1 ≤ 24 by decide)
      · refine hone ⟨!r.v, 1⟩ (show 1 < 25 by decide) b hb ?_
        unfold Run.push at hin
        rw [if_neg hb] at hin
        exact hin
    · by_cases hb : b = r.v
      · subst hb
        refine hmore r ?_ (by omega)
        unfold Run.push at hin
        rwa [if_pos rfl] at hin
      · refine hone r (by omega) b hb ?_
        unfold Run.push at hin
        rwa [if_neg hb] at hin

end Sys2Proof.Machine
end

section
/-!
PROOFS. Chapter 10: grains, MARKs and what stands at a grain boundary (R216, R218, R224 to R229).
-/
namespace Sys2Proof.Machine
open Sys2Proof.Safety Sys2Proof.Claims

variable {r : Run} {bs rest key data : List Bool} {b v : Bool} {g : Grain} {lane : BitVec 2} {seq : BitVec 8} {i : Nat}

/-! ## Grains and their bits (R216) -/

theorem grainBits_length (g : Grain) : (grainBits g).length = 64 := by
  unfold grainBits upTo
  rw [List.length_map, List.length_range]

theorem grainBits_getElem? (h : i < 64) (g : Grain) : (grainBits g)[i]? = some (g.getLsbD i) := by
  unfold grainBits upTo
  rw [List.getElem?_map, List.getElem?_range h]
  rfl

theorem getLsbD_grainOf (bs : List Bool) (h : i < 64) : (grainOf bs).getLsbD i = bs.getD i false := by
  have hbit : ∀ (bs : List Bool) (i : Nat), (bs.foldr (fun (b : Bool) n => 2 * n + b.toNat) 0).testBit i = bs.getD i false := by
    intro bs
    induction bs with
    | nil => simp
    | cons b bs ih =>
      intro i
      have hval : 2 * bs.foldr (fun (b : Bool) n => 2 * n + b.toNat) 0 + b.toNat = Nat.bit b (bs.foldr (fun (b : Bool) n => 2 * n + b.toNat) 0) := by
        rw [Nat.bit_val]
      rw [List.foldr_cons, hval]
      cases i with
      | zero => rw [Nat.testBit_bit_zero]; rfl
      | succ i => rw [Nat.testBit_bit_succ, ih]; rfl
  unfold grainOf
  rw [BitVec.getLsbD_ofNat, hbit]
  simp [h]

theorem grainOf_grainBits (g : Grain) : grainOf (grainBits g) = g := by
  apply BitVec.eq_of_getLsbD_eq
  intro i hi
  rw [getLsbD_grainOf _ hi, List.getD_eq_getElem?_getD, grainBits_getElem? hi]
  rfl

/-! ## The scrambler (R220, R221) -/

theorem keyFrom_length (n : Nat) (win : List Bool) : (keyFrom n win).length = n := by
  induction n generalizing win with
  | zero => rfl
  | succ n ih => rw [keyFrom, List.length_cons, ih]

theorem scramble_scramble (h : data.length ≤ key.length) : scramble key (scramble key data) = data := by
  unfold scramble
  induction data generalizing key with
  | nil => cases key <;> rfl
  | cons d data ih =>
    cases key with
    | nil => simp at h
    | cons k key =>
      rw [List.zipWith_cons_cons, List.zipWith_cons_cons, ih (by simpa using h)]
      simp

theorem scramble_length (h : data.length = key.length) : (scramble key data).length = data.length := by
  unfold scramble
  rw [List.length_zipWith, h, min_self]

/-- The data bits of a grain, scrambled. -/
def scrambled (key : List Bool) (g : Grain) : List Bool := scramble (keyFrom 64 key) (grainBits g)

theorem scrambled_length (key : List Bool) (g : Grain) : (scrambled key g).length = 64 := by
  unfold scrambled
  rw [scramble_length (by rw [grainBits_length, keyFrom_length]), grainBits_length]

theorem descrambled (key : List Bool) (g : Grain) : grainOf (scramble (keyFrom 64 key) (scrambled key g)) = g := by
  unfold scrambled
  rw [scramble_scramble (by rw [grainBits_length, keyFrom_length]), grainOf_grainBits]

/-- A data grain comes back from its line bits without an error. -/
theorem destuff_dataLine (r : Run) (key rest : List Bool) (g : Grain) : ∃ d, destuff true 64 r [] 0 (dataLine r key g ++ rest) = some d ∧
    d.errs = 0 ∧ d.rest = rest ∧ grainOf (scramble (keyFrom 64 key) d.bits) = g := by
  have h := destuff_stuff true r (scrambled key g) rest [] 0
  rw [scrambled_length] at h
  exact ⟨_, h, rfl, rfl, descrambled key g⟩

/-! ## MARKs (R224, R225) -/

theorem getLsbD_markHead_run (h : i < 32) : (markHead lane seq).getLsbD i = true := by
  have hone : (0xFFFFFFFF#64).getLsbD i = true := by
    have hfin : ∀ j : Fin 32, (0xFFFFFFFF#64).getLsbD j = true := by decide
    exact hfin ⟨i, h⟩
  unfold markHead
  rw [BitVec.getLsbD_or, BitVec.getLsbD_or, hone]
  rfl

theorem getLsbD_mark (h : i < 48) : (mark lane seq).getLsbD i = (markHead lane seq).getLsbD i := by
  unfold mark
  dsimp only
  rw [BitVec.getLsbD_or, BitVec.getLsbD_shiftLeft]
  simp [h]

theorem markCheck_mark : markCheck (mark lane seq) = markCheck (markHead lane seq) := by
  unfold markCheck
  congr 1
  refine List.map_congr_left fun i hi => getLsbD_mark ?_
  have := List.mem_range.1 hi
  omega

/-- The fixed and the free bits of a MARK above its run. -/
theorem getLsbD_markHead_high (h : i < 16) : (markHead lane seq).getLsbD (32 + i) =
    ((0x40#64).getLsbD i || decide (1 ≤ i) && lane.getLsbD (i - 1) || decide (8 ≤ i) && seq.getLsbD (i - 8)) := by
  have hzero : (0xFFFFFFFF#64).getLsbD (32 + i) = false := by
    have hfin : ∀ j : Fin 16, (0xFFFFFFFF#64).getLsbD (32 + j) = false := by decide
    exact hfin ⟨i, h⟩
  unfold markHead
  rw [BitVec.getLsbD_or, BitVec.getLsbD_or, hzero]
  simp only [BitVec.getLsbD_shiftLeft, BitVec.getLsbD_or, BitVec.getLsbD_setWidth]
  interval_cases i <;> simp

theorem getLsbD_mark_high (h : i < 16) : (mark lane seq).getLsbD (32 + i) =
    ((0x40#64).getLsbD i || decide (1 ≤ i) && lane.getLsbD (i - 1) || decide (8 ≤ i) && seq.getLsbD (i - 8)) := by
  rw [getLsbD_mark (by omega), getLsbD_markHead_high h]

theorem getLsbD_mark_run (h : i < 32) : (mark lane seq).getLsbD i = true := by
  rw [getLsbD_mark (by omega), getLsbD_markHead_run h]

theorem getLsbD_mark_break : (mark lane seq).getLsbD 32 = false := by
  have h := getLsbD_mark_high (lane := lane) (seq := seq) (i := 0) (by decide)
  rw [h]
  simp

theorem markLane_mark : markLane (mark lane seq) = lane := by
  apply BitVec.eq_of_getLsbD_eq
  intro i hi
  unfold markLane
  have h := getLsbD_mark_high (lane := lane) (seq := seq) (i := 1 + i) (by omega)
  rw [BitVec.getLsbD_extractLsb', show 33 + i = 32 + (1 + i) by omega, h]
  interval_cases i <;> simp

theorem markSeq_mark : markSeq (mark lane seq) = seq := by
  apply BitVec.eq_of_getLsbD_eq
  intro i hi
  unfold markSeq
  have h := getLsbD_mark_high (lane := lane) (seq := seq) (i := 8 + i) (by omega)
  rw [BitVec.getLsbD_extractLsb', show 40 + i = 32 + (8 + i) by omega, h]
  interval_cases i <;> simp

theorem getLsbD_markHead_check (h : i < 16) : (markHead lane seq).getLsbD (48 + i) = false := by
  have hzero : (0xFFFFFFFF#64).getLsbD (48 + i) = false ∧ (0x40#64).getLsbD (16 + i) = false := by
    have hfin : ∀ j : Fin 16, (0xFFFFFFFF#64).getLsbD (48 + j) = false ∧ (0x40#64).getLsbD (16 + j) = false := by decide
    exact hfin ⟨i, h⟩
  unfold markHead
  rw [BitVec.getLsbD_or, BitVec.getLsbD_or, hzero.1]
  simp only [BitVec.getLsbD_shiftLeft, BitVec.getLsbD_or, BitVec.getLsbD_setWidth, show 48 + i - 32 = 16 + i by omega, hzero.2,
    BitVec.getLsbD_of_ge lane (16 + i - 1) (by omega), BitVec.getLsbD_of_ge seq (48 + i - 40) (by omega)]
  simp

theorem markValid_mark : markValid (mark lane seq) = true := by
  have hrun : (mark lane seq).extractLsb' 0 32 = 0xFFFFFFFF := by
    apply BitVec.eq_of_getLsbD_eq
    intro i hi
    have hone : (0xFFFFFFFF#32).getLsbD i = true := by
      have hfin : ∀ j : Fin 32, (0xFFFFFFFF#32).getLsbD j = true := by decide
      exact hfin ⟨i, hi⟩
    rw [BitVec.getLsbD_extractLsb', Nat.zero_add, getLsbD_mark_run hi, Bool.and_true, decide_eq_true hi]
    exact hone.symm
  have hfixed : (mark lane seq).extractLsb' 35 5 = 0x08 := by
    apply BitVec.eq_of_getLsbD_eq
    intro i hi
    have h := getLsbD_mark_high (lane := lane) (seq := seq) (i := 3 + i) (by omega)
    rw [BitVec.getLsbD_extractLsb', show 35 + i = 32 + (3 + i) by omega, h]
    interval_cases i <;> simp
  have hcheck : (mark lane seq).extractLsb' 48 16 = markCheck (mark lane seq) := by
    rw [markCheck_mark]
    apply BitVec.eq_of_getLsbD_eq
    intro i hi
    rw [BitVec.getLsbD_extractLsb']
    unfold mark
    dsimp only
    rw [BitVec.getLsbD_or, getLsbD_markHead_check hi, BitVec.getLsbD_shiftLeft]
    simp [hi, show 48 + i < 64 by omega, show i < 64 by omega]
  unfold markValid
  rw [hrun, getLsbD_mark_break, hfixed, hcheck]
  simp

/-! ## What stands at a grain boundary (R218, R229) -/

/-- The bits of a grain from `k` on, as far as they are alike, stand so on the line. -/
theorem take_grain_alike {k n : Nat} (hk : k + n ≤ 64) (h : ∀ i, i < n → g.getLsbD (k + i) = v) (rest : List Bool) :
    ((grainBits g ++ rest).drop k).take n = List.replicate n v := by
  apply List.ext_getElem?
  intro i
  by_cases hi : i < n
  · rw [List.getElem?_take_of_lt hi, List.getElem?_drop, List.getElem?_append_left (by rw [grainBits_length]; omega),
      grainBits_getElem? (by omega), h i hi, List.getElem?_replicate, if_pos hi]
  · rw [List.getElem?_eq_none (by rw [List.length_take]; omega), List.getElem?_eq_none (by rw [List.length_replicate]; omega)]

/-- A grain that begins with `n` bits alike and then one of the other value begins so on the line. -/
theorem runOf_grain {n : Nat} (hn : n < 64) (h : ∀ i, i < n → g.getLsbD i = v) (hlast : g.getLsbD n = !v) (rest : List Bool) :
    runOf v n (grainBits g ++ rest) = true := by
  have hrun := take_grain_alike (g := g) (v := v) (k := 0) (n := n) (by omega) (by simpa using h) rest
  rw [List.drop_zero] at hrun
  unfold runOf
  rw [decide_eq_true_eq, List.take_add_one, hrun, List.getElem?_append_left (by rw [grainBits_length]; omega), grainBits_getElem? hn, hlast]
  rfl

theorem headD_grain (g : Grain) (rest : List Bool) : (grainBits g ++ rest).headD false = g.getLsbD 0 := by
  rw [List.headD_eq_head?_getD, List.head?_eq_getElem?, List.getElem?_append_left (by rw [grainBits_length]; decide),
    grainBits_getElem? (by decide)]
  rfl

theorem startOf_of_not_guard (h : (bs.drop 1).take 28 ≠ List.replicate 28 (!bs.headD false)) : startOf bs =
    if runOf true 32 bs then .mark else if runOf false 28 bs then .idle else .data := if_neg h

theorem startOf_guard (v : Bool) (h : bs.take 28 = List.replicate 28 (!v)) : startOf (v :: bs) = .guard := if_pos h

theorem startOf_mark (lane : BitVec 2) (seq : BitVec 8) (rest : List Bool) : startOf (grainBits (mark lane seq) ++ rest) = .mark := by
  have hrun := take_grain_alike (g := mark lane seq) (v := true) (k := 1) (n := 28) (by decide)
    (fun i hi => getLsbD_mark_run (by omega)) rest
  have h32 := runOf_grain (g := mark lane seq) (v := true) (n := 32) (by decide) (fun i hi => getLsbD_mark_run hi) getLsbD_mark_break rest
  rw [startOf_of_not_guard, if_pos h32]
  rw [hrun, headD_grain, getLsbD_mark_run (by decide)]
  decide

theorem getLsbD_idle_zero (h : i < 28) : idleGrain.getLsbD i = false := by
  have hfin : ∀ j : Fin 28, idleGrain.getLsbD j = false := by decide
  exact hfin ⟨i, h⟩

theorem startOf_idle (rest : List Bool) : startOf (grainBits idleGrain ++ rest) = .idle := by
  have hrun := take_grain_alike (g := idleGrain) (v := false) (k := 1) (n := 1) (by decide)
    (fun i hi => getLsbD_idle_zero (by omega)) rest
  have h28 := runOf_grain (g := idleGrain) (v := false) (n := 28) (by decide) (fun i hi => getLsbD_idle_zero hi) (by decide) rest
  have hhead : (grainBits idleGrain ++ rest).headD false = false := by rw [headD_grain]; decide
  have hone : runOf true 32 (grainBits idleGrain ++ rest) = false := by
    unfold runOf
    rw [decide_eq_false_iff_not]
    intro h
    have h0 := congrArg (fun l : List Bool => l.headD false) h
    rw [List.headD_eq_head?_getD, List.head?_take, if_neg (by decide), ← List.headD_eq_head?_getD, hhead] at h0
    exact absurd h0 (by decide)
  rw [startOf_of_not_guard, hone, if_neg Bool.false_ne_true, if_pos h28]
  rw [hhead]
  intro h
  have h1 := congrArg (List.take 1) h
  rw [List.take_take, show min 1 28 = 1 from rfl, hrun] at h1
  exact absurd h1 (by decide)

/-- Stuffed data have no run as long as a guard bit, a MARK or an IDLE begins with. -/
theorem startOf_data (h : r.n ≤ 24) (hbs : 33 ≤ bs.length) (rest : List Bool) : startOf (stuff r bs ++ rest) = .data := by
  have hlen := length_le_stuff r bs
  have hno (v : Bool) (k : Nat) (hk : k ≤ 8) : ((stuff r bs ++ rest).drop k).take 25 ≠ List.replicate 25 v := by
    intro heq
    rw [List.drop_append_of_le_length (by omega), List.take_append_of_le_length (by rw [List.length_drop]; omega)] at heq
    refine not_long_run r bs v h ?_
    rw [← heq]
    exact ((List.take_prefix _ _).isInfix.trans (List.drop_suffix _ _).isInfix).trans (List.suffix_append _ _).isInfix
  have hrun (v : Bool) (n : Nat) (hn : 25 ≤ n) : runOf v n (stuff r bs ++ rest) = false := by
    unfold runOf
    rw [decide_eq_false_iff_not]
    intro heq
    have h25 := congrArg (List.take 25) heq
    rw [List.take_take, min_eq_left (by omega), List.take_append_of_le_length (l₁ := List.replicate n v) (by rw [List.length_replicate]; exact hn), List.take_replicate,
      min_eq_left hn] at h25
    exact hno v 0 (by decide) (by rwa [List.drop_zero])
  rw [startOf_of_not_guard, hrun true 32 (by decide), hrun false 28 (by decide)]
  · rfl
  · intro heq
    have h25 := congrArg (List.take 25) heq
    rw [List.take_take, List.take_replicate] at h25
    exact hno _ 1 (by decide) h25

theorem after_guardBit (h : r.n ≠ 0) : (r.after (guardBit r v)).v = !v := by
  unfold guardBit
  by_cases hv : r.v = v
  · have hpush : r.push (!v) = ⟨!v, 1⟩ := by
      rw [← hv]
      exact push_not r
    rw [if_pos (by simp [hv, h])]
    exact congrArg Run.v hpush
  · rw [if_neg (by simp [hv])]
    exact Bool.eq_not.2 hv

theorem lineCodeIsSound : LineCodeIsSound := by
  refine ⟨fun r bs rest => destuff_stuff true r bs rest [] 0, destuff_dataLine, not_long_run, fun key data h => scramble_scramble h,
    fun lane seq => ⟨markValid_mark, markLane_mark, markSeq_mark⟩, fun r v h => after_guardBit h, fun lane seq rest => ⟨startOf_mark lane seq rest, ?_, startOf_idle rest, ?_⟩,
    fun r key rest g h => ?_⟩
  · have h := take_grain_alike (g := mark lane seq) (v := true) (k := 0) (n := 28) (by decide) (fun i hi => getLsbD_mark_run (by omega)) rest
    exact startOf_guard false (by rwa [List.drop_zero] at h)
  · have h := take_grain_alike (g := idleGrain) (v := false) (k := 0) (n := 28) (by decide) (fun i hi => getLsbD_idle_zero (by omega)) rest
    exact startOf_guard true (by rwa [List.drop_zero] at h)
  · exact startOf_data h (by rw [show (scramble (keyFrom 64 key) (grainBits g)).length = 64 from scrambled_length key g]; decide) rest

end Sys2Proof.Machine
end

section
/-!
PROOFS. Chapter 10: receivers (R227, R228, R231, R232).
-/
namespace Sys2Proof.Machine
open Sys2Proof.Safety Sys2Proof.Claims

variable {a : LaneRec} {bs rest : List Bool} {b v inv : Bool} {g : Grain} {lane : BitVec 2} {seq : BitVec 8} {i : Nat}

/-! ## Polarity (R228) -/

theorem polarity_polarity (inv : Bool) (g : Grain) : polarity inv (polarity inv g) = g := by
  cases inv
  · rfl
  · exact BitVec.not_not

theorem getLsbD_polarity (h : i < 64) (inv : Bool) (g : Grain) : (polarity inv g).getLsbD i = xor inv (g.getLsbD i) := by
  unfold polarity
  cases inv <;> simp [h]

theorem map_xor_map_xor (inv : Bool) (bs : List Bool) : (bs.map (xor inv)).map (xor inv) = bs := by
  rw [List.map_map]
  have hid : xor inv ∘ xor inv = id := by
    funext b
    cases inv <;> cases b <;> rfl
  rw [hid, List.map_id]

/-! ## The search (R227) -/

/-- A MARK of either polarity is found behind a bit of the other value than its run's. -/
theorem findRun_mark (inv : Bool) (lane : BitVec 2) (seq : BitVec 8) (rest : List Bool) :
    findRun (inv :: (grainBits (polarity inv (mark lane seq)) ++ rest)) = some (!inv, grainBits (polarity inv (mark lane seq)) ++ rest) := by
  have hrun : runOf (!inv) 32 (grainBits (polarity inv (mark lane seq)) ++ rest) = true := by
    refine runOf_grain (by decide) (fun i hi => ?_) ?_ rest
    · rw [getLsbD_polarity (by omega), getLsbD_mark_run hi, Bool.xor_true]
    · rw [getLsbD_polarity (by decide), getLsbD_mark_break, Bool.xor_false, Bool.not_not]
  unfold findRun
  rw [if_pos hrun]

theorem searchStep_mark (h : a.lock = false) (hbuf : a.buf = inv :: (grainBits (polarity inv (mark lane seq)) ++ rest)) :
    ∃ b, searchStep a = some b ∧ b.sync = .found ∧ b.inv = inv ∧ b.field = lane ∧ b.seq = seq ∧ b.lock = false ∧
      b.buf = rest.map (xor inv) := by
  have hlen : (grainBits (polarity inv (mark lane seq))).length = 64 := grainBits_length _
  have htake : (grainBits (polarity inv (mark lane seq)) ++ rest).take 64 = grainBits (polarity inv (mark lane seq)) := by
    rw [List.take_append_of_le_length (le_of_eq hlen.symm), List.take_of_length_le (le_of_eq hlen)]
  have hdrop : (grainBits (polarity inv (mark lane seq)) ++ rest).drop 64 = rest := by
    rw [← hlen, List.drop_left]
  unfold searchStep
  rw [hbuf, findRun_mark]
  dsimp only
  rw [if_neg (by rw [List.length_append, hlen]; omega), htake, hdrop, grainOf_grainBits, Bool.not_not, polarity_polarity, markValid_mark, h]
  exact ⟨_, rfl, rfl, rfl, markLane_mark, markSeq_mark, rfl, rfl⟩

/-! ## Errors and lock (R231, R232) -/

theorem laneErrors_on (h : a.sync = .on) (n : Nat) : (laneErrors n a).errCnt = a.errCnt + BitVec.ofNat 16 n := by
  unfold laneErrors
  rw [if_pos h]
  split
  · next hn =>
    rw [hn]
    exact (BitVec.add_zero _).symm
  · rfl

theorem lockLost_iff : lockLost a = true ↔ a.sync = .on ∧ (8 ≤ a.errAt.length ∧ a.gno < a.errAt.getD 7 0 + 256 ∨ 2 ≤ a.bad) := by
  simp [lockLost]

theorem judgeLock_of_not (h : a.errAt.length < 8 ∨ a.errAt.getD 7 0 + 256 ≤ a.gno) (hbad : a.bad < 2) : judgeLock a = a := by
  refine if_neg fun hl => ?_
  obtain ⟨-, hl⟩ := lockLost_iff.1 hl
  omega

theorem receivers : Receivers := by
  refine ⟨fun a inv lane seq rest h hbuf => searchStep_mark h hbuf, fun a n h => laneErrors_on h n, fun a hon hl => ?_,
    fun a h hbad => judgeLock_of_not h hbad⟩
  have hj : judgeLock a = toSearch a := if_pos (lockLost_iff.2 ⟨hon, hl⟩)
  rw [hj]
  exact ⟨rfl, rfl, rfl⟩

/-! ## A receiver that waits for more line bits (R227, R229) -/

theorem findRun_length {v : Bool} (h : findRun bs = some (v, rest)) : rest.length < bs.length := by
  induction bs with
  | nil => cases h
  | cons x bs ih =>
    unfold findRun at h
    split at h
    · obtain ⟨-, rfl⟩ := Prod.mk.inj (Option.some.inj h)
      exact Nat.lt_succ_self _
    · exact (ih h).trans (Nat.lt_succ_self _)

/-- Fewer bits than R229 looks at tell nothing. -/
theorem laneStep_short (h : a.buf.length < 34) : laneStep a = none := by
  unfold laneStep
  split
  · unfold searchStep
    split
    · rfl
    · next hf => rw [if_pos (lt_trans (findRun_length hf) (by omega))]; rfl
  · rw [if_pos h]

/-! ## Grain lock (R228) -/

theorem laneStep_found_mark (hs : a.sync ≠ .search) (h : a.buf = grainBits g) (hg : startOf a.buf = .mark) :
    laneStep a = some (judgeLock (takeMark a g []), [none]) := by
  have hlen := grainBits_length g
  unfold laneStep
  split
  · next hss => exact absurd hss hs
  · rw [if_neg (by rw [h]; omega), hg]
    dsimp only
    rw [if_neg (by rw [h]; omega), h, List.take_of_length_le (le_of_eq hlen), List.drop_eq_nil_of_le (le_of_eq hlen), grainOf_grainBits]

theorem laneStep_found_guard (hs : a.sync ≠ .search) (h : a.buf = v :: grainBits g) (hg : startOf a.buf = .guard) :
    laneStep a = some ({ a with buf := grainBits g, run := a.run.push v }, []) := by
  have hlen := grainBits_length g
  unfold laneStep
  split
  · next hss => exact absurd hss hs
  · rw [if_neg (by rw [h, List.length_cons]; omega), hg, h]
    rfl

/-- The receiver once it has parsed a MARK it expected: reseeded, with the count of grains begun anew. -/
def parsed (a : LaneRec) (g : Grain) (rest : List Bool) : LaneRec :=
  reseed { a with buf := rest, run := a.run.after (grainBits g), gno := a.gno + 1, track := false, since := 0,
                  marks := ((markSeq g, a.count - rest.length) :: a.marks).take 4 } g

theorem takeMark_of_fits (ho : a.odd = false) (hv : markValid g = true) (hf : markFits a g = true) (hs : a.since + 1 = spacing a)
    (rest : List Bool) : takeMark a g rest = afterGo { takeLock (parsed a g rest) with
      bad := 0, good := if a.sync = .on then (takeLock (parsed a g rest)).good + 1 else 0, track := true } := by
  have hclose : ∀ c : LaneRec, c.odd = false → closeOdd c = c := fun c h => if_neg (by rw [h]; exact Bool.false_ne_true)
  unfold takeMark
  rw [hclose { a with buf := rest, run := a.run.after (grainBits g), gno := a.gno + 1, track := false } ho, hv]
  change (if (!markFits a g) = true then _ else if a.since + 1 = spacing a then _ else _) = _
  rw [hf, if_pos hs]
  rfl

theorem judgeLock_afterGo (herr : a.errAt = []) (hbad : a.bad = 0) : judgeLock (afterGo a) = afterGo a := by
  refine judgeLock_of_not (.inl ?_) ?_
  · unfold afterGo
    split <;> exact (congrArg List.length herr).trans_lt (by decide)
  · unfold afterGo
    split <;> exact hbad.trans_lt (by decide)

/-- What a receiver tells of its lock, its polarity, its lane and its equaliser. -/
abbrev tells (a : LaneRec) : Bool × Bool × BitVec 2 × BitVec 16 × BitVec 4 × Bool × Sync × List Bool :=
  (a.lock, a.polInv, a.lfield, a.errCnt, a.peakNow, a.fixed, a.sync, a.buf)

theorem tells_afterGo (a : LaneRec) : tells (afterGo a) = tells a := by
  unfold afterGo
  split <;> rfl

/-- The second MARK at its place locks the lane; what it had learnt of the line stands. -/
theorem takeMark_locks (hs : a.sync = .found) (hsince : a.since = 15) (hw : a.wide = false) (ho : a.odd = false) :
    tells (judgeLock (takeMark a (mark a.field (a.seq + 1)) [])) = (true, a.inv, a.field, a.errCnt, a.peakNow, a.fixed, .on, []) := by
  have hfits : markFits a (mark a.field (a.seq + 1)) = true := by
    unfold markFits
    rw [markLane_mark, markSeq_mark]
    simp
  have hspace : a.since + 1 = spacing a := by
    unfold spacing
    rw [hw, hsince]
    rfl
  have hlock : takeLock (parsed a (mark a.field (a.seq + 1)) []) = { parsed a (mark a.field (a.seq + 1)) [] with
      sync := .on, lock := true, polInv := a.inv, lfield := a.field, gno := 0, errAt := [], bad := 0, good := 0 } := by
    refine if_neg ?_
    change a.sync ≠ .on
    rw [hs]
    simp
  rw [takeMark_of_fits ho markValid_mark hfits hspace, hlock, judgeLock_afterGo rfl rfl, tells_afterGo]
  rfl

end Sys2Proof.Machine
end

section
/-!
PROOFS. Chapters 10 and 11: line bits that lock a lane of a link (R228, R236), and the other events on lanes (R232, R237, R245, R256).
-/
namespace Sys2Proof.Machine
open Sys2Proof.Safety Sys2Proof.Claims

variable {s e x u : State} {l m : Link} {r : LinkRec} {a b : LaneRec} {p q n : Nat} {bits : List Bool} {g : Grain}

/-- A step of a list that comes once takes what the steps before it keep to what the steps after it keep. -/
theorem foldS_once {α : Type} {f : State → α → State} {R Q : State → Prop} {a : α} {xs : List α}
    (hR : ∀ s, ∀ y ∈ xs, y ≠ a → R s → R (f s y)) (hQ : ∀ s, ∀ y ∈ xs, y ≠ a → Q s → Q (f s y)) (ha : ∀ s, R s → Q (f s a))
    (hd : xs.Nodup) (hm : a ∈ xs) (h : R s) : Q (foldS f s xs) := by
  induction xs generalizing s with
  | nil => cases hm
  | cons y xs ih =>
    obtain ⟨hy, hd⟩ := List.nodup_cons.1 hd
    change Q (foldS f (f s y) xs)
    by_cases hya : y = a
    · subst hya
      have hall : ∀ (zs : List α) (s : State), zs ⊆ xs → Q s → Q (foldS f s zs) := by
        intro zs
        induction zs with
        | nil => exact fun _ _ h => h
        | cons z zs ih =>
          intro s hsub hs
          obtain ⟨hz, hsub⟩ := List.cons_subset.1 hsub
          exact ih _ hsub (hQ s z (List.mem_cons_of_mem _ hz) (fun hzy => hy (hzy ▸ hz)) hs)
      exact hall xs _ (fun _ h => h) (ha s h)
    · exact ih (fun s z hz => hR s z (List.mem_cons_of_mem _ hz)) (fun s z hz => hQ s z (List.mem_cons_of_mem _ hz)) hd
        ((List.mem_cons.1 hm).resolve_left (Ne.symm hya)) (hR s y List.mem_cons_self hya h)

/-! ## What a receiver's bits leave alone -/

/-- Lane `p` of link `l` has been fed: the link's state, its detected set and its other lanes are as they were. -/
structure Fed (l : Link) (p : Nat) (s x : State) : Prop where
  pw : x.pw = s.pw
  st : (linkOf x l).st = (linkOf s l).st
  detected : (linkOf x l).detected = (linkOf s l).detected
  lanes : ∀ m, m < 4 → m ≠ p → laneOf x l m = laneOf s l m

theorem fed_refl (l : Link) (p : Nat) (s : State) : Fed l p s s := ⟨rfl, rfl, rfl, fun _ _ _ => rfl⟩

theorem Fed.trans (h : Fed l p s u) (g : Fed l p u x) : Fed l p s x :=
  ⟨g.pw.trans h.pw, g.st.trans h.st, g.detected.trans h.detected, fun m hm hp => (g.lanes m hm hp).trans (h.lanes m hm hp)⟩

theorem fed_setLane (hp : p < 4) (s : State) (l : Link) (a : LaneRec) : Fed l p s (setLane s l p a) :=
  ⟨rfl, rfl, rfl, fun m hm hmp => by rw [laneOf_setLane s l l p m a hp hm, if_neg (by simp [hmp])]⟩

theorem fed_refreshAlign (s : State) (l : Link) (p : Nat) : Fed l p s (refreshAlign s l) := by
  have hlink : linkOf (refreshAlign s l) l = { linkOf s l with
      rxMask := alignMask s l &&& (if (linkOf s l).hs.ready then (linkOf s l).hs.frozen else 15) } := linkOf_setLink_self s l _
  exact ⟨rfl, by rw [hlink], by rw [hlink], fun _ _ _ => rfl⟩

/-! ## A lane that is brought nothing -/

theorem laneGo_of_none (h : laneStep (laneOf s l p) = none) (n : Nat) : laneGo l p n s = s := by
  cases n with
  | zero => rfl
  | succ n =>
    unfold laneGo
    rw [h]

theorem laneFeed_nil (hp : p < 4) (h : (laneOf s l p).buf.length < 34) :
    Fed l p s (laneFeed s l p []) ∧ (laneOf (laneFeed s l p []) l p).buf = (laneOf s l p).buf := by
  have hbuf : (laneOf s l p).buf ++ (if (laneOf s l p).sync = .search then [] else ([] : List Bool).map (xor (laneOf s l p).inv)) =
      (laneOf s l p).buf := by
    rw [List.map_nil, ite_self, List.append_nil]
  have hgo (n : Nat) : laneGo l p n (setLane s l p { laneOf s l p with buf := (laneOf s l p).buf, count := (laneOf s l p).count + 0 }) =
      setLane s l p { laneOf s l p with buf := (laneOf s l p).buf, count := (laneOf s l p).count + 0 } :=
    laneGo_of_none (by rw [laneOf_setLane_self]; exact laneStep_short h) n
  unfold laneFeed
  dsimp only
  rw [hbuf, List.length_nil, hgo, laneOf_setLane_self]
  split
  · refine ⟨(fed_setLane hp s l _).trans (fed_setLane hp _ l _), ?_⟩
    rw [laneOf_setLane_self]
    change (laneOf s l p).buf.drop ((laneOf s l p).buf.length - 98) = _
    rw [Nat.sub_eq_zero_of_le (by omega), List.drop_zero]
  · exact ⟨fed_setLane hp s l _, by rw [laneOf_setLane_self]⟩

/-! ## A lane that is brought its second MARK -/

/-- The lane waits for its second MARK in its place. -/
structure Waits (a : LaneRec) : Prop where
  lock : a.lock = false
  sync : a.sync = .found
  since : a.since = 15
  wide : a.wide = false
  odd : a.odd = false

/-- What the receiver tells once it has locked. -/
def lockedAs (a : LaneRec) : Bool × Bool × BitVec 2 × BitVec 16 × BitVec 4 × Bool × Sync × List Bool :=
  (true, a.inv, a.field, a.errCnt, a.peakNow, a.fixed, .on, [])

theorem laneStepped_quiet (hl : (laneOf s l p).lock = false) (hb : b.lock = false) : laneStepped l p s b [] = setLane s l p b := by
  unfold laneStepped
  dsimp only
  rw [hl, hb]
  rfl

theorem laneStepped_locks (hst : (linkOf s l).st = .align) (hl : (laneOf s l p).lock = false) (hb : b.lock = true) :
    laneStepped l p s b [none] = refreshAlign (setLane s l p b) l := by
  have hev : foldS (grainEvent l p) (setLane s l p b) [none] = setLane s l p b := by
    change grainEvent l p (setLane s l p b) none = _
    unfold grainEvent
    rw [if_neg (by change ¬ (linkOf s l).st = .caps; rw [hst]; simp)]
  have hst' : (linkOf (setLane s l p b) l).st = .align := hst
  unfold laneStepped
  rw [hev, hl, hb]
  dsimp only
  rw [hst']
  rfl

section
variable (hp : p < 4) (hst : (linkOf s l).st = .align) (hw : Waits (laneOf s l p))
include hp hst hw

theorem laneGo_mark (hbuf : (laneOf s l p).buf = grainBits (mark (laneOf s l p).field ((laneOf s l p).seq + 1))) (n : Nat) :
    Fed l p s (laneGo l p (n + 1) s) ∧ tells (laneOf (laneGo l p (n + 1) s) l p) = lockedAs (laneOf s l p) := by
  have htells := takeMark_locks hw.sync hw.since hw.wide hw.odd
  have hmark : startOf (laneOf s l p).buf = .mark := by
    rw [hbuf, ← List.append_nil (grainBits _)]
    exact startOf_mark _ _ []
  have hstep := laneStep_found_mark (by rw [hw.sync]; simp) hbuf hmark
  generalize judgeLock (takeMark (laneOf s l p) (mark (laneOf s l p).field ((laneOf s l p).seq + 1)) []) = b at htells hstep
  have hlock : b.lock = true := congrArg Prod.fst htells
  have hempty : b.buf = [] := congrArg (fun t => t.2.2.2.2.2.2.2) htells
  have hlane : laneOf (refreshAlign (setLane s l p b) l) l p = b := laneOf_setLane_self _ l p b
  have hgo : laneGo l p (n + 1) s = refreshAlign (setLane s l p b) l := by
    have hdone : laneStep (laneOf (refreshAlign (setLane s l p b) l) l p) = none := by
      rw [hlane]
      exact laneStep_short (by rw [hempty]; decide)
    unfold laneGo
    rw [hstep]
    dsimp only
    rw [laneStepped_locks hst hw.lock hlock]
    exact laneGo_of_none hdone n
  rw [hgo, hlane]
  exact ⟨(fed_setLane hp s l b).trans (fed_refreshAlign _ l p), htells⟩

theorem laneGo_guard_mark (hbuf : (laneOf s l p).buf =
    guardBit (laneOf s l p).run true ++ grainBits (mark (laneOf s l p).field ((laneOf s l p).seq + 1))) (n : Nat) :
    Fed l p s (laneGo l p (n + 2) s) ∧ tells (laneOf (laneGo l p (n + 2) s) l p) = lockedAs (laneOf s l p) := by
  unfold guardBit at hbuf
  split at hbuf
  · have hguard : startOf (laneOf s l p).buf = .guard := by
      rw [hbuf]
      have hrun := take_grain_alike (g := mark (laneOf s l p).field ((laneOf s l p).seq + 1)) (v := true) (k := 0) (n := 28) (by decide)
        (fun i hi => getLsbD_mark_run (by omega)) []
      rw [List.drop_zero, List.append_nil] at hrun
      exact startOf_guard false hrun
    have hstep := laneStep_found_guard (by rw [hw.sync]; simp) hbuf hguard
    have hgo : laneGo l p (n + 2) s = laneGo l p (n + 1) (setLane s l p { laneOf s l p with
        buf := grainBits (mark (laneOf s l p).field ((laneOf s l p).seq + 1)), run := (laneOf s l p).run.push (!true) }) := by
      rw [← laneStepped_quiet hw.lock (show ({ laneOf s l p with
        buf := grainBits (mark (laneOf s l p).field ((laneOf s l p).seq + 1)), run := (laneOf s l p).run.push (!true) } : LaneRec).lock = false
          from hw.lock)]
      change (match laneStep (laneOf s l p) with | none => s | some (b, ev) => laneGo l p (n + 1) (laneStepped l p s b ev)) = _
      rw [hstep]
    rw [hgo]
    have hlane := laneOf_setLane_self s l p { laneOf s l p with
        buf := grainBits (mark (laneOf s l p).field ((laneOf s l p).seq + 1)), run := (laneOf s l p).run.push (!true) }
    obtain ⟨hfed, htells⟩ := laneGo_mark (s := setLane s l p { laneOf s l p with
        buf := grainBits (mark (laneOf s l p).field ((laneOf s l p).seq + 1)), run := (laneOf s l p).run.push (!true) }) hp hst
      (by rw [hlane]; exact ⟨hw.lock, hw.sync, hw.since, hw.wide, hw.odd⟩) (by rw [hlane]) n
    refine ⟨(fed_setLane hp s l _).trans hfed, htells.trans ?_⟩
    rw [hlane]
    rfl
  · exact laneGo_mark hp hst hw hbuf (n + 1)

/-- The lane is brought the MARK, with the guard bit before it where one is due. -/
theorem laneFeed_mark (hbuf : (laneOf s l p).buf = []) (hbits : bits = (guardBit (laneOf s l p).run true ++
    grainBits (mark (laneOf s l p).field ((laneOf s l p).seq + 1))).map (xor (laneOf s l p).inv)) :
    Fed l p s (laneFeed s l p bits) ∧ tells (laneOf (laneFeed s l p bits) l p) = lockedAs (laneOf s l p) := by
  have hin : (laneOf s l p).buf ++ (if (laneOf s l p).sync = .search then bits else bits.map (xor (laneOf s l p).inv)) =
      guardBit (laneOf s l p).run true ++ grainBits (mark (laneOf s l p).field ((laneOf s l p).seq + 1)) := by
    rw [hbuf, if_neg (by rw [hw.sync]; simp), hbits, map_xor_map_xor, List.nil_append]
  generalize hline : guardBit (laneOf s l p).run true ++ grainBits (mark (laneOf s l p).field ((laneOf s l p).seq + 1)) = line at hin
  have hlen : 64 ≤ line.length := by
    rw [← hline, List.length_append, grainBits_length]
    omega
  obtain ⟨s1, hs1⟩ : ∃ s1, s1 = setLane s l p { laneOf s l p with buf := line, count := (laneOf s l p).count + bits.length } := ⟨_, rfl⟩
  have hlane : laneOf s1 l p = { laneOf s l p with buf := line, count := (laneOf s l p).count + bits.length } := by
    rw [hs1, laneOf_setLane_self]
  have hfirst : Fed l p s s1 := by
    rw [hs1]
    exact fed_setLane hp s l _
  obtain ⟨hfed, htells⟩ := laneGo_guard_mark (s := s1) hp (hfirst.st.trans hst)
    (by rw [hlane]; exact ⟨hw.lock, hw.sync, hw.since, hw.wide, hw.odd⟩) (by rw [hlane]; exact hline.symm) (line.length - 1)
  rw [show line.length - 1 + 2 = line.length + 1 by omega] at hfed htells
  have hon : (laneOf (laneGo l p (line.length + 1) s1) l p).sync ≠ .search := by
    rw [show (laneOf (laneGo l p (line.length + 1) s1) l p).sync = .on from congrArg (fun t => t.2.2.2.2.2.2.1) htells]
    simp
  have hx : laneFeed s l p bits = laneGo l p (line.length + 1) s1 := by
    unfold laneFeed
    dsimp only
    rw [hin, ← hs1]
    exact if_neg hon
  rw [hx, htells, hlane]
  exact ⟨hfirst.trans hfed, rfl⟩

end

/-! ## The lines of a link that lock a lane -/

/-- The lane's part in what the lines bring. -/
def fedBy (l : Link) (lines : Lines) (s : State) (p : Nat) : State :=
  if operating s && receives (linkOf s l) && (linkOf s l).detected.getLsbD p then
    setLane (laneFeed s l p (lines.getD p [])) l p { laneOf (laneFeed s l p (lines.getD p [])) l p with
      count := (laneOf (laneFeed s l p (lines.getD p [])) l p).count + ((lines.map List.length).foldl max 0 - (lines.getD p []).length) }
  else s

theorem lineIn_eq (s : State) (l : Link) (lines : Lines) : lineIn s l lines = deskewGroup (foldS (fedBy l lines) s (upTo 4)) l := rfl

/-- The lines bring bits to lane `p` alone. -/
def onlyLane (p : Nat) (bits : List Bool) : Lines := List.replicate p [] ++ [bits]

theorem onlyLane_getD (p q : Nat) (bits : List Bool) : (onlyLane p bits).getD q [] = if q = p then bits else [] := by
  unfold onlyLane
  rw [List.getD_eq_getElem?_getD]
  split
  · next h => rw [h, List.getElem?_append_right (by simp), List.length_replicate, Nat.sub_self]; rfl
  · next h =>
    by_cases hq : q < p
    · rw [List.getElem?_append_left (by simpa using hq), List.getElem?_replicate, if_pos hq]
      rfl
    · rw [List.getElem?_append_right (by simp; omega), List.length_replicate, List.getElem?_eq_none (by simp; omega)]
      rfl

theorem fedBy_nil (hq : q < 4) (hqp : q ≠ p) (h : (laneOf s l q).buf.length < 34) :
    Fed l q s (fedBy l (onlyLane p bits) s q) ∧ (laneOf (fedBy l (onlyLane p bits) s q) l q).buf = (laneOf s l q).buf := by
  unfold fedBy
  rw [onlyLane_getD, if_neg hqp]
  obtain ⟨hfed, hbuf⟩ := laneFeed_nil hq h
  split
  · exact ⟨hfed.trans (fed_setLane hq _ l _), by rw [laneOf_setLane_self]; exact hbuf⟩
  · exact ⟨fed_refl l q s, rfl⟩

/-- The lanes but `p` hold too little to go on with, and lane `p` is as `P` has it. -/
structure Around (s : State) (l : Link) (p : Nat) (P : LaneRec → Prop) (x : State) : Prop where
  pw : x.pw = s.pw
  st : (linkOf x l).st = (linkOf s l).st
  detected : (linkOf x l).detected = (linkOf s l).detected
  short : ∀ m, m < 4 → m ≠ p → (laneOf x l m).buf.length < 34
  lane : P (laneOf x l p)

theorem Around.other {P : LaneRec → Prop} (hp : p < 4) (h : Around s l p P x) (hqp : q ≠ p) (hq : q < 4) :
    Around s l p P (fedBy l (onlyLane p bits) x q) := by
  obtain ⟨hfed, hbuf⟩ := fedBy_nil (p := p) (bits := bits) hq hqp (h.short q hq hqp)
  refine ⟨hfed.pw.trans h.pw, hfed.st.trans h.st, hfed.detected.trans h.detected, fun m hm hmp => ?_, ?_⟩
  · by_cases hmq : m = q
    · rw [hmq, hbuf]
      exact h.short q hq hqp
    · rw [hfed.lanes m hm hmq]
      exact h.short m hm hmp
  · rw [hfed.lanes p hp (Ne.symm hqp)]
    exact h.lane

end Sys2Proof.Machine
end

section
/-!
PROOFS. Chapters 10 and 11: the lanes of a link, settled (R228, R231, R232, R236, R237, R238, R245, R256).
-/
namespace Sys2Proof.Machine
open Sys2Proof.Safety Sys2Proof.Claims

variable {s e x u : State} {l m : Link} {r : LinkRec} {a b : LaneRec} {p q n : Nat} {bits : List Bool} {g : Grain}

theorem onlyLane_eq (s : State) (l : Link) (p : Nat) (bits : List Bool) : laneIn s l p bits = lineIn s l (onlyLane p bits) := rfl

section
variable (hp : p < 4) (hmode : s.pw.mode = .operating) (hst : (linkOf s l).st = .align) (hdet : (linkOf s l).detected.getLsbD p = true)
  (hw : Waits (laneOf s l p)) (hbuf : (laneOf s l p).buf = []) (hbits : bits = (guardBit (laneOf s l p).run true ++
    grainBits (mark (laneOf s l p).field ((laneOf s l p).seq + 1))).map (xor (laneOf s l p).inv))
include hp hmode hst hdet hw hbuf hbits

theorem fedBy_mark (h : Around s l p (· = laneOf s l p) x) :
    Around s l p (fun b => tells b = lockedAs (laneOf s l p)) (fedBy l (onlyLane p bits) x p) := by
  have hlane := h.lane
  have hrun : (operating x && receives (linkOf x l) && (linkOf x l).detected.getLsbD p) = true := by
    unfold operating receives
    rw [h.pw, hmode, h.st, hst, h.detected, hdet]
    rfl
  obtain ⟨hfed, htells⟩ := laneFeed_mark (s := x) (bits := bits) hp (h.st.trans hst) (by rw [hlane]; exact hw) (by rw [hlane]; exact hbuf)
    (by rw [hlane]; exact hbits)
  unfold fedBy
  rw [if_pos hrun, onlyLane_getD, if_pos rfl]
  have hall := hfed.trans (fed_setLane hp (laneFeed x l p bits) l { laneOf (laneFeed x l p bits) l p with
    count := (laneOf (laneFeed x l p bits) l p).count + (((onlyLane p bits).map List.length).foldl max 0 - bits.length) })
  refine ⟨hall.pw.trans h.pw, hall.st.trans h.st, hall.detected.trans h.detected, fun m hm hmp => ?_, ?_⟩
  · rw [hall.lanes m hm hmp]
    exact h.short m hm hmp
  · rw [laneOf_setLane_self]
    exact htells.trans (by rw [hlane])

theorem laneIn_locks (hshort : ∀ m, m < 4 → m ≠ p → (laneOf s l m).buf.length < 34) :
    tells (laneOf (laneIn s l p bits) l p) = lockedAs (laneOf s l p) ∧ (linkOf (laneIn s l p bits) l).st = .align := by
  have hstart : Around s l p (· = laneOf s l p) s := ⟨rfl, rfl, rfl, hshort, rfl⟩
  have hend : Around s l p (fun b => tells b = lockedAs (laneOf s l p)) (foldS (fedBy l (onlyLane p bits)) s (upTo 4)) :=
    foldS_once (R := Around s l p (· = laneOf s l p)) (fun x q hq hqp h => h.other hp hqp (List.mem_range.1 hq))
      (fun x q hq hqp h => h.other hp hqp (List.mem_range.1 hq)) (fun x h => fedBy_mark hp hmode hst hdet hw hbuf hbits h)
      List.nodup_range (List.mem_range.2 hp) hstart
  rw [onlyLane_eq, lineIn_eq]
  have hno : deskewGroup (foldS (fedBy l (onlyLane p bits)) s (upTo 4)) l = foldS (fedBy l (onlyLane p bits)) s (upTo 4) := by
    refine if_neg ?_
    rw [hend.st, hst]
    simp
  rw [hno]
  exact ⟨hend.lane, hend.st.trans hst⟩

end

/-! ## The events on a lane -/

theorem onLink_takePeak (s : State) (l : Link) (p : Nat) (k : BitVec 4) : OnLink l s (takePeak s l p k) := (onLink_refl l s).setLane l p _

theorem linkOf_takePeak (s : State) (l m : Link) (p : Nat) (k : BitVec 4) : linkOf (takePeak s l p k) m = linkOf s m := rfl

theorem onLink_laneIn (s : State) (l : Link) (p : Nat) (bits : List Bool) : OnLink l s (laneIn s l p bits) := onLink_lineIn s l _

theorem cfg_of_onLink (h : OnLink l s e) : e.cfg = s.cfg ∧ e.irq = s.irq ∧ e.stew = s.stew := by
  obtain ⟨⟨ls, ns, rfl⟩, -⟩ := h
  exact ⟨rfl, rfl, rfl⟩

/-- A command that changes a link and its lanes alone keeps the configuration and the INTIDs. -/
theorem upToMarks_onLink (hq : Quiet s) (h : OnLink l s e) : UpToMarks e (settle s e) ∧ (settle s e).cfg = s.cfg ∧
    (settle s e).irq = s.irq := by
  have hu := h.unflagged.upToMarks hq
  obtain ⟨hc, hi, -⟩ := cfg_of_onLink h
  obtain ⟨w, hw⟩ := hu
  refine ⟨⟨w, hw⟩, ?_, ?_⟩
  · rw [hw]
    exact hc
  · rw [hw]
    exact hi

theorem exec_grainLock {peak : BitVec 4} {lead c1 c2 : List Bool} {q : BitVec 2} (hq : Quiet s) (hmode : s.pw.mode = .operating)
    (hst : (linkOf s l).st = .align) (hdet : (linkOf s l).detected.getLsbD q.toNat = true) (hw : Waits (laneOf s l q.toNat))
    (hbuf : (laneOf s l q.toNat).buf = []) (hbits : lead ++ c1 ++ c2 = (guardBit (laneOf s l q.toNat).run true ++
      grainBits (mark (laneOf s l q.toNat).field ((laneOf s l q.toNat).seq + 1))).map (xor (laneOf s l q.toNat).inv))
    (hshort : ∀ m, m < 4 → m ≠ q.toNat → (laneOf s l m).buf.length < 34) :
    ∃ t, exec (.grainLock l q peak lead c1 c2) s = .next t ∧
      (laneOf t l q.toNat).lock = true ∧ (laneOf t l q.toNat).polInv = (laneOf s l q.toNat).inv ∧
      (laneOf t l q.toNat).lfield = (laneOf s l q.toNat).field ∧ (laneOf t l q.toNat).errCnt = (laneOf s l q.toNat).errCnt ∧
      (laneOf t l q.toNat).peakNow = (if (laneOf s l q.toNat).fixed = true ∨ s.stew.lmcPair = none
        then BitVec.ofNat 4 (fld (tabLive s 9 (l.toNat * 4 + q.toNat) 0 0) 8 4) else peak) ∧ (linkOf t l).st = .align ∧
      (∀ m, m ≠ l → linkOf t m = linkOf s m) ∧ t.irq.ints = s.irq.ints ∧ t.cfg = s.cfg := by
  obtain ⟨htells, halign⟩ := laneIn_locks q.isLt hmode hst hdet hw hbuf hbits hshort
  have hin := onLink_laneIn s l q.toNat (lead ++ c1 ++ c2)
  obtain ⟨hlock, hpol, hfield, herr, -, hfixed, -⟩ : (laneOf (laneIn s l q.toNat (lead ++ c1 ++ c2)) l q.toNat).lock = true ∧ _ ∧ _ ∧ _ ∧ _ ∧ _ ∧ _ ∧ _ := by
    simpa only [lockedAs, Prod.mk.injEq] using htells
  have hx : grainLock s l q.toNat peak (lead ++ c1 ++ c2) = takePeak (laneIn s l q.toNat (lead ++ c1 ++ c2)) l q.toNat peak := by
    unfold grainLock
    dsimp only
    refine if_pos ?_
    rw [hw.lock, hlock]
    unfold adapts
    rw [hst]
    rfl
  have hon : OnLink l s (takePeak (laneIn s l q.toNat (lead ++ c1 ++ c2)) l q.toNat peak) := hin.trans (onLink_takePeak _ l _ peak)
  have hlane : laneOf (takePeak (laneIn s l q.toNat (lead ++ c1 ++ c2)) l q.toNat peak) l q.toNat =
      { laneOf (laneIn s l q.toNat (lead ++ c1 ++ c2)) l q.toNat with
        peakNow := trainPeak (laneIn s l q.toNat (lead ++ c1 ++ c2)) l q.toNat peak } := laneOf_setLane_self _ l _ _
  obtain ⟨-, hcfg, hirq⟩ := upToMarks_onLink hq hon
  refine ⟨_, congrArg (fun e => Host.Outcome.next (settle s e)) hx, ?_, ?_, ?_, ?_, ?_, ?_, fun m hm => ?_, congrArg (·.ints) hirq, hcfg⟩
  · rw [laneOf_settle, hlane, hlock]
  · rw [laneOf_settle, hlane, hpol]
  · rw [laneOf_settle, hlane, hfield]
  · rw [laneOf_settle, hlane, herr]
  · obtain ⟨hc, -, hstew⟩ := cfg_of_onLink hin
    rw [laneOf_settle, hlane]
    unfold trainPeak laneEq tabLive liveAt
    rw [hfixed, hc, hstew]
    simp
  · rw [linkOf_settle, linkOf_takePeak, halign]
  · rw [linkOf_settle, hon.2 m hm]

/-! ## Loss of lock, readmission, tracking (R232, R237, R238, R245, R256) -/

theorem laneLockLoss_locked (hmode : s.pw.mode = .operating) (h : (laneOf s l p).lock = true) : laneLockLoss s l p .cdrLoss =
    lockGone (setLane s l p { toSearch (laneOf s l p) with buf := [] }) l p := by
  unfold laneLockLoss operating
  dsimp only
  rw [hmode, h]
  rfl

theorem lockGone_masked (h : (linkOf s l).st = .order ∨ (linkOf s l).st = .caps ∨ (linkOf s l).st = .alignAtRate ∨ (linkOf s l).st = .regroup) :
    lockGone s l p = setLink s l { linkOf s l with rxMask := (linkOf s l).rxMask &&& ~~~(1#4 <<< logical (linkOf s l).reversed p) } := by
  unfold lockGone
  dsimp only
  obtain h | h | h | h := h <;> rw [h]

theorem lockGone_active (h : (linkOf s l).st = .active) : lockGone s l p =
    takeMode (setLink s l { linkOf s l with rxMask := (linkOf s l).rxMask &&& ~~~(1#4 <<< logical (linkOf s l).reversed p) }) l p := by
  unfold lockGone
  dsimp only
  rw [h]

theorem lanes : Lanes := by
  intro s l p hq hmode r a j w silent out
  have hop : operating s = true := by
    unfold operating
    rw [hmode]
    rfl
  refine ⟨?_, fun hl => ⟨fun h => ?_, fun h => ?_⟩, fun hl => ?_, fun bits => ?_, fun hst hl hgood hdet hfield => ?_, fun h => ?_,
    fun hst hl ht hf hb hfeat hlmc up => ?_, fun up h => ?_⟩
  · intro peak lead c1 c2 hbits hst hdet hl hs hsince hw ho hbuf hshort
    exact exec_grainLock hq hmode hst hdet ⟨hl, hs, hsince, hw, ho⟩ hbuf hbits hshort
  · refine exec_wire hq ((laneLockLoss_locked hmode hl).trans (lockGone_masked h)) ?_ rfl
    exact (((onLink_refl l s).setLane l p.toNat silent).setLink _).unflagged
  · have hx : laneLockLoss s l p.toNat .cdrLoss = takeMode (setLink (setLane s l p.toNat silent) l out) l p.toNat :=
      (laneLockLoss_locked hmode hl).trans (lockGone_active h)
    have hon : OnLink l s (takeMode (setLink (setLane s l p.toNat silent) l out) l p.toNat) :=
      (((onLink_refl l s).setLane l p.toNat silent).setLink out).takeMode p.toNat
    obtain ⟨ls, ns, hwire⟩ := hon.1
    refine ⟨_, congrArg (fun e => Host.Outcome.next (settle s e)) hx, ?_, ?_, ?_⟩
    · rw [linkOf_settle]
      exact linkOf_setLink_self _ l out
    · rw [laneOf_settle]
      unfold takeMode
      rw [laneOf_setLane_self, show laneOf (setLink (setLane s l p.toNat silent) l out) l p.toNat = silent from
        laneOf_setLane_self s l p.toNat silent]
      rfl
    · have hsame : ({ s with links := (settle s (takeMode (setLink (setLane s l p.toNat silent) l out) l p.toNat)).links
                             lanes := (settle s (takeMode (setLink (setLane s l p.toNat silent) l out) l p.toNat)).lanes } : State) =
          takeMode (setLink (setLane s l p.toNat silent) l out) l p.toNat := by
        rw [settle_links, settle_lanes, hwire]
      rw [hsame]
      exact hon.unflagged.upToMarks hq
  · have hl' : (laneOf s l p.toNat).lock = false := hl
    refine exec_wire hq (x := laneLockLoss s l p.toNat .cdrLoss) ?_ (unflagged_refl s) rfl
    unfold laneLockLoss
    dsimp only
    rw [hl', Bool.and_false, if_neg Bool.false_ne_true]
  · exact exec_wire hq rfl (onLink_laneIn s l p.toNat bits).unflagged rfl
  · refine exec_setLink hq (x := laneReadmit s l p.toNat) ?_ rfl
    refine if_pos ?_
    rw [hop, show (linkOf s l).st = .active from hst, show (laneOf s l p.toNat).lock = true from hl,
      show (linkOf s l).detected.getLsbD p.toNat = true from hdet]
    simp only [decide_true, Bool.true_and, Bool.and_true, Bool.and_eq_true, decide_eq_true_eq]
    exact ⟨hgood, hfield⟩
  · refine exec_wire hq (x := laneReadmit s l p.toNat) (if_neg ?_) (unflagged_refl s) rfl
    intro hall
    simp only [Bool.and_eq_true, decide_eq_true_eq] at hall
    obtain ⟨⟨⟨⟨⟨-, h1⟩, h2⟩, h3⟩, -⟩, -⟩ := hall
    obtain h | h | h := h
    · exact h h1
    · exact Bool.false_ne_true (h.symm.trans h2)
    · exact absurd h3 (not_le.2 h)
  · refine exec_wire hq (x := equaliserTracking s l p.toNat up) (if_pos ?_) ((onLink_refl l s).setLane l p.toNat _).unflagged rfl
    unfold linkActive laneEq
    rw [hop, show (linkOf s l).st = .active from hst, show (laneOf s l p.toNat).lock = true from hl,
      show (laneOf s l p.toNat).track = true from ht, show (laneOf s l p.toNat).fixed = false from hf,
      show bit (tabLive s 9 (l.toNat * 4 + p.toNat) 0 0) 1 = true from hb, hfeat, hlmc]
    rfl
  · refine exec_wire hq (x := equaliserTracking s l p.toNat up) (if_neg ?_) (unflagged_refl s) rfl
    intro hall
    simp only [Bool.and_eq_true, Bool.not_eq_true', linkActive, decide_eq_true_eq] at hall
    obtain ⟨⟨⟨⟨⟨⟨⟨-, h1⟩, h2⟩, h3⟩, h4⟩, h5⟩, -⟩, -⟩ := hall
    obtain h | h | h | h | h := h
    · exact h h1
    · exact Bool.false_ne_true (h.symm.trans h2)
    · exact Bool.false_ne_true (h.symm.trans h3)
    · exact Bool.false_ne_true (h4.symm.trans h)
    · exact Bool.false_ne_true (h.symm.trans h5)

/-- Settles O47: the line code inverts, a receiver finds and loses lock, and the events on a lane by its state. -/
theorem lineCodeAndLanes : Obligations.LineCodeAndLanes := ⟨lineCodeIsSound, receivers, lanes⟩

end Sys2Proof.Machine
end

section
/-!
PROOFS. Chapter 11: what training does to the lanes of a link (R236, R241, R244).
-/
namespace Sys2Proof.Machine
open Sys2Proof.Safety Sys2Proof.Claims

variable {s e b x u : State} {l m : Link} {r : LinkRec} {p q n : Nat} {F G : Nat → LaneRec → LaneRec} {bits : List Bool} {g : Grain}

/-- Each lane of link `l` has become what `F` makes of it, and nothing else has changed. -/
def EachLane (l : Link) (F : Nat → LaneRec → LaneRec) (s x : State) : Prop :=
  OnLanes s x ∧ ∀ p, p < 4 → laneOf x l p = F p (laneOf s l p)

theorem onLanes_setLane (h : OnLanes s x) (l : Link) (p : Nat) (a : LaneRec) : OnLanes s (setLane x l p a) := by
  obtain ⟨ns, rfl⟩ := h
  exact ⟨_, rfl⟩

/-- A turn of each lane, which writes what `F` makes of it. -/
theorem eachLane_fold {f : State → Nat → State} (hf : ∀ x p, OnLanes s x → p < 4 → f x p = setLane x l p (F p (laneOf x l p))) :
    EachLane l F s (foldS f s (upTo 4)) := by
  have hrange : ∀ n, n ≤ 4 → OnLanes s (foldS f s (List.range n)) ∧
      ∀ p, p < 4 → laneOf (foldS f s (List.range n)) l p = if p < n then F p (laneOf s l p) else laneOf s l p := by
    intro n
    induction n with
    | zero => exact fun _ => ⟨⟨_, rfl⟩, fun p _ => (if_neg (Nat.not_lt_zero p)).symm⟩
    | succ n ih =>
      intro hn
      obtain ⟨hon, hlane⟩ := ih (by omega)
      have hstep : foldS f s (List.range (n + 1)) = f (foldS f s (List.range n)) n := by
        unfold foldS
        rw [List.range_succ, List.foldl_append]
        rfl
      rw [hstep, hf _ n hon (by omega)]
      refine ⟨onLanes_setLane hon l n _, fun p hp => ?_⟩
      rw [laneOf_setLane _ l l n p _ (by omega) hp]
      by_cases hpn : p = n
      · subst hpn
        rw [if_pos ⟨rfl, rfl⟩, hlane p hp, if_neg (by omega), if_pos (by omega)]
      · rw [if_neg (by simp [hpn]), hlane p hp]
        have hiff : p < n ↔ p < n + 1 := by omega
        simp only [hiff]
  obtain ⟨hon, hlane⟩ := hrange 4 le_rfl
  exact ⟨hon, fun p hp => (hlane p hp).trans (if_pos hp)⟩

theorem EachLane.linkOf (h : EachLane l F s x) (m : Link) : linkOf x m = Machine.linkOf s m := by
  obtain ⟨⟨ns, rfl⟩, -⟩ := h
  rfl

theorem EachLane.onLink (h : EachLane l F s x) : OnLink l s x := by
  obtain ⟨⟨ns, rfl⟩, -⟩ := h
  exact ⟨⟨_, _, rfl⟩, fun _ _ => rfl⟩

theorem onLanes_frame (h : OnLanes s x) : x.cfg = s.cfg ∧ x.stew = s.stew ∧ x.links = s.links := by
  obtain ⟨ns, rfl⟩ := h
  exact ⟨rfl, rfl, rfl⟩

theorem eachLane_mapLanes (s : State) (l : Link) (f : LaneRec → LaneRec) : EachLane l (fun _ => f) s (mapLanes s l f) :=
  eachLane_fold fun _ _ _ _ => rfl

theorem eachLane_searchLanes (s : State) (l : Link) :
    EachLane l (fun _ a => { toSearch a with buf := [], fifo := [] }) s (searchLanes s l) := eachLane_mapLanes s l _

theorem eachLane_dropLanes (s : State) (l : Link) :
    EachLane l (fun _ a => { toSearch a with buf := [], run := {}, fifo := [], count := 0, tx := {} }) s (dropLanes s l) :=
  eachLane_mapLanes s l _

theorem eachLane_beginIntervals (s : State) (l : Link) :
    EachLane l (fun _ a => { a with tx := { a.tx with force := true, iv := 0, fifo := [], tail := none, tp1 := 0 } }) s
      (beginIntervals s l) := eachLane_fold fun _ _ _ _ => rfl

theorem eachLane_takeModes (s : State) (l : Link) :
    EachLane l (fun p a => { a with fixed := bit (tabLive s 9 (l.toNat * 4 + p) 0 0) 0 }) s (takeModes s l) :=
  eachLane_fold fun x p hx _ => by
    unfold takeMode laneEq tabLive liveAt
    rw [(onLanes_frame hx).1]

/-- The peaking a lane is given: what adaptation found, or LANE_EQ's (R236, R238). -/
def peakFor (s : State) (l : Link) (peaks : BitVec 16) (p : Nat) (a : LaneRec) : BitVec 4 :=
  if a.fixed = true ∨ s.stew.lmcPair = none then BitVec.ofNat 4 (fld (tabLive s 9 (l.toNat * 4 + p) 0 0) 8 4)
  else peaks.extractLsb' (4 * p) 4

theorem eachLane_takePeaks (s : State) (l : Link) (peaks : BitVec 16) :
    EachLane l (fun p a => { a with peakNow := peakFor s l peaks p a }) s (takePeaks s l peaks) :=
  eachLane_fold fun x p hx _ => by
    unfold takePeak trainPeak peakFor laneEq tabLive liveAt
    rw [(onLanes_frame hx).1, (onLanes_frame hx).2.1]
    simp

/-- A step with TP2 begins: the receivers search, and each lane begins with a MARK. -/
theorem linkOf_beginTp2 (s : State) (l : Link) : linkOf (beginTp2 s l) l = { linkOf s l with st := .alignAtRate, hs := {} } := by
  unfold beginTp2
  rw [(eachLane_beginIntervals _ l).linkOf, (eachLane_searchLanes _ l).linkOf, linkOf_setLink_self]

theorem laneOf_beginTp2 (s : State) (l : Link) (hp : p < 4) : (laneOf (beginTp2 s l) l p).lock = false ∧
    (laneOf (beginTp2 s l) l p).tx.force = true ∧ (laneOf (beginTp2 s l) l p).peakNow = (laneOf s l p).peakNow := by
  unfold beginTp2
  rw [(eachLane_beginIntervals _ l).2 p hp, (eachLane_searchLanes _ l).2 p hp]
  exact ⟨rfl, rfl, rfl⟩

theorem OnLink.beginTp2 (h : OnLink l b e) : OnLink l b (beginTp2 e l) :=
  ((h.setLink _).trans (eachLane_searchLanes _ l).onLink).trans (eachLane_beginIntervals _ l).onLink

theorem OnLink.searchLanes (h : OnLink l b e) : OnLink l b (searchLanes e l) := h.trans (eachLane_searchLanes _ l).onLink
theorem OnLink.takeModes (h : OnLink l b e) : OnLink l b (takeModes e l) := h.trans (eachLane_takeModes _ l).onLink
theorem OnLink.takePeaks (h : OnLink l b e) (peaks : BitVec 16) : OnLink l b (takePeaks e l peaks) :=
  h.trans (eachLane_takePeaks _ l peaks).onLink
theorem OnLink.dropLanes (h : OnLink l b e) : OnLink l b (dropLanes e l) := h.trans (eachLane_dropLanes _ l).onLink

/-! ## The handshakes (R244, R248) -/

theorem OnLink.shake (h : OnLink l b e) (late : Bool) : OnLink l b (shake e l late) := by
  have hcaps : OnLink l b (shakeCaps e l) := by
    unfold shakeCaps
    dsimp only
    split
    · split
      · exact h.setLink _
      · exact h
    · exact h
  exact OnLink.ite (h.setLink _) (OnLink.ite hcaps h)

theorem shake_outside (h : inTp2 (linkOf s l) = false) (hc : (linkOf s l).st ≠ .caps) (late : Bool) : shake s l late = s := by
  unfold shake
  dsimp only
  rw [h, if_neg Bool.false_ne_true, if_neg hc]

/-- A link that receives no grains takes nothing from its lines. -/
theorem lineIn_deaf (h : receives (linkOf s l) = false) (lines : Lines) : lineIn s l lines = s := by
  have hst : (linkOf s l).st ≠ .active := by
    intro hst
    unfold receives at h
    rw [hst] at h
    exact Bool.true_eq_false.mp h
  have hfold : foldS (fedBy l lines) s (upTo 4) = s := by
    refine foldS_inv (· = s) _ _ s rfl fun x p hx => ?_
    subst hx
    unfold fedBy
    rw [h, Bool.and_false, Bool.false_and, if_neg Bool.false_ne_true]
  rw [lineIn_eq, hfold]
  exact if_neg hst

/-- What a step of a training pass begins from when its state takes nothing from the lines. -/
theorem entered_still (h : receives (linkOf s l) = false) (hi : inTp2 (linkOf s l) = false) (hc : (linkOf s l).st ≠ .caps)
    (lines : Lines) (late : Bool) : shake (lineIn s l lines) l late = s := by
  rw [lineIn_deaf h, shake_outside hi hc]

end Sys2Proof.Machine
end

section
/-!
PROOFS. Chapter 11: what the part says in training, and its handshakes (R241, R242, R244, R248).
-/
namespace Sys2Proof.Machine
open Sys2Proof.Safety Sys2Proof.Claims

variable {s e b x u : State} {l m : Link} {r : LinkRec} {p q n c w : Nat} {late : Bool} {g : Grain}

/-! ## Fields of a grain -/

theorem extract_ofNat {N lo n : Nat} (hlo : lo + n ≤ 64) : (BitVec.ofNat 64 N).extractLsb' lo n = BitVec.ofNat n (N / 2 ^ lo) := by
  apply BitVec.eq_of_toNat_eq
  rw [BitVec.extractLsb'_toNat, BitVec.toNat_ofNat, BitVec.toNat_ofNat, Nat.shiftRight_eq_div_pow]
  have hpow : 2 ^ 64 = 2 ^ lo * 2 ^ (64 - lo) := by rw [← pow_add]; congr 1; omega
  have hdvd : 2 ^ n ∣ 2 ^ (64 - lo) := pow_dvd_pow 2 (by omega)
  rw [hpow, Nat.mod_mul_right_div_self, Nat.mod_mod_of_dvd _ hdvd]

theorem bit_ofNat {N i : Nat} (hi : i < 64) : (BitVec.ofNat 64 N).getLsbD i = decide (N / 2 ^ i % 2 = 1) := by
  rw [BitVec.getLsbD_ofNat, Nat.testBit_eq_decide_div_mod_eq]
  simp [hi]

/-! ## Training grains (Table LB-3) -/

/-- A number of a training grain's fields: the step, READY and GO, the mask, what stands above it. -/
theorem trainingGrain_fields {step flags mask top : Nat} (hs : step < 16) (hf : flags % 16 = 0 ∧ flags < 64) (hm : mask < 16) (ht : top < 16) :
    (BitVec.ofNat 64 (step + flags + mask * 256 + top * 4096)).extractLsb' 0 4 = BitVec.ofNat 4 step ∧
    (BitVec.ofNat 64 (step + flags + mask * 256 + top * 4096)).getLsbD 6 = false ∧
    (BitVec.ofNat 64 (step + flags + mask * 256 + top * 4096)).extractLsb' 8 4 = BitVec.ofNat 4 mask ∧
    (BitVec.ofNat 64 (step + flags + mask * 256 + top * 4096)).extractLsb' 16 48 = 0 := by
  refine ⟨?_, ?_, ?_, ?_⟩
  · rw [extract_ofNat (by omega)]
    apply BitVec.eq_of_toNat_eq
    rw [BitVec.toNat_ofNat, BitVec.toNat_ofNat]
    omega
  · rw [bit_ofNat (by omega), decide_eq_false_iff_not]
    omega
  · rw [extract_ofNat (by omega)]
    apply BitVec.eq_of_toNat_eq
    rw [BitVec.toNat_ofNat, BitVec.toNat_ofNat]
    omega
  · rw [extract_ofNat (by omega), show (step + flags + mask * 256 + top * 4096) / 2 ^ 16 = 0 by omega]
    rfl

theorem sentCap_lt (s : State) (l : Link) (r : LinkRec) : sentCap s l r < 4 := by
  have hown : ownCap s l < 4 := by
    unfold ownCap
    dsimp only
    split
    · decide
    · omega
  unfold sentCap
  split
  · exact r.rgCap.isLt
  · split
    · exact r.rgCap.isLt
    · split
      · exact r.width.isLt
      · exact r.agreedWidth.isLt
  · exact hown

theorem stepCode_listed (r : LinkRec) : stepCode r = 3 ∨ stepCode r = 4 ∨ stepCode r = 8 ∨ stepCode r = 10 ∨
    stepCode r = 11 ∨ stepCode r = 12 := by
  unfold stepCode
  split
  · omega
  · omega
  · omega
  · split <;> omega
  · omega

/-- The rate that a rate change brings, 0 elsewhere. -/
def newRate (r : LinkRec) : Nat :=
  if r.st = .regroup then match r.rgRate with
    | some x => x.toNat
    | none => 0
  else 0

theorem newRate_lt (r : LinkRec) : newRate r < 4 := by
  unfold newRate
  split
  · split
    · next x _ => exact x.isLt
    · decide
  · decide

/-- What stands in a training grain above its mask: the cap, and in a rate change the new rate. -/
def aboveMask (s : State) (l : Link) : Nat :=
  sentCap s l (linkOf s l) + newRate (linkOf s l) * 4

theorem aboveMask_lt (s : State) (l : Link) : aboveMask s l < 16 := by
  have hcap := sentCap_lt s l (linkOf s l)
  have hrate := newRate_lt (linkOf s l)
  unfold aboveMask
  omega

/-- READY and GO in a training grain. -/
def shakeFlags (r : LinkRec) : Nat := (if r.hs.ready && !decide (r.st = .active) then 16 else 0) + (if r.hs.go && !decide (r.st = .active) then 32 else 0)

theorem shakeFlags_lt (r : LinkRec) : shakeFlags r % 16 = 0 ∧ shakeFlags r < 64 := by
  unfold shakeFlags
  split <;> split <;> omega

theorem ownGrain_eq (s : State) (l : Link) : ownGrain s l = BitVec.ofNat 64 (stepCode (linkOf s l) + shakeFlags (linkOf s l) +
    (if (linkOf s l).st = .active then (linkOf s l).rxMask else sentMask (linkOf s l)).toNat * 256 + aboveMask s l * 4096) := by
  unfold ownGrain shakeFlags aboveMask newRate
  dsimp only
  congr 1
  by_cases hr : (linkOf s l).st = .regroup
  · rw [if_pos hr, if_pos hr]
    cases (linkOf s l).rgRate with
    | none => dsimp only; omega
    | some x => dsimp only; omega
  · rw [if_neg hr, if_neg hr]
    omega

theorem ownGrain_fields (s : State) (l : Link) :
    trainingGrainOk (ownGrain s l) = true ∧ (ownGrain s l).getLsbD 6 = false ∧
      (ownGrain s l).extractLsb' 8 4 = if (linkOf s l).hs.ready = true ∧ (linkOf s l).st ≠ .active then (linkOf s l).hs.frozen else (linkOf s l).rxMask := by
  have hstep := stepCode_listed (linkOf s l)
  obtain ⟨h0, h6, h8, h16⟩ := trainingGrain_fields (step := stepCode (linkOf s l)) (by omega) (shakeFlags_lt (linkOf s l))
    (if (linkOf s l).st = .active then (linkOf s l).rxMask else sentMask (linkOf s l)).isLt (aboveMask_lt s l)
  rw [ownGrain_eq]
  refine ⟨?_, h6, ?_⟩
  · unfold trainingGrainOk
    rw [h16, h0]
    obtain hk | hk | hk | hk | hk | hk := hstep <;> rw [hk] <;> rfl
  · rw [h8, BitVec.ofNat_toNat, BitVec.setWidth_eq]
    unfold sentMask
    by_cases ha : (linkOf s l).st = .active
    · simp [ha]
    · simp [ha]

/-! ## Capability grains (Table LB-6, Table LP-6) -/

theorem ownCap0_fields (s : State) (r : LinkRec) : (ownCap0 s r).extractLsb' 0 4 = 5 ∧ (ownCap0 s r).extractLsb' 16 2 = 2 ∧
    ((ownCap0 s r).extractLsb' 18 3).toNat = s.stew.lmcRates.toNat % 8 ∧ (ownCap0 s r).getLsbD 23 = r.hs.go ∧
    (ownCap0 s r).extractLsb' 24 4 = sentMask r ∧ (ownCap0 s r).extractLsb' 48 8 = 0xB0 := by
  have hmask := (sentMask r).isLt
  have hcode : Config.implCode.toNat < 2 ^ 16 := Config.implCode.isLt
  have hgo : (if r.hs.go = true then 2 ^ 23 else 0) = r.hs.go.toNat * 2 ^ 23 := by cases r.hs.go <;> rfl
  have hone := r.hs.go.toNat_le
  unfold ownCap0
  rw [hgo]
  refine ⟨?_, ?_, ?_, ?_, ?_, ?_⟩
  · rw [extract_ofNat (by omega)]
    apply BitVec.eq_of_toNat_eq
    rw [BitVec.toNat_ofNat]
    change _ = 5
    omega
  · rw [extract_ofNat (by omega)]
    apply BitVec.eq_of_toNat_eq
    rw [BitVec.toNat_ofNat]
    change _ = 2
    omega
  · rw [extract_ofNat (by omega), BitVec.toNat_ofNat]
    omega
  · rw [bit_ofNat (by omega)]
    have hbit : (5 + 0x01 * 2 ^ 8 + 2 * 2 ^ 16 + s.stew.lmcRates.toNat % 8 * 2 ^ 18 + r.hs.go.toNat * 2 ^ 23 + (sentMask r).toNat * 2 ^ 24 +
        Config.implCode.toNat * 2 ^ 32 + 0xB0 * 2 ^ 48) / 2 ^ 23 % 2 = r.hs.go.toNat := by omega
    rw [hbit]
    cases r.hs.go <;> rfl
  · rw [extract_ofNat (by omega)]
    apply BitVec.eq_of_toNat_eq
    rw [BitVec.toNat_ofNat]
    omega
  · rw [extract_ofNat (by omega)]
    apply BitVec.eq_of_toNat_eq
    rw [BitVec.toNat_ofNat]
    change _ = 0xB0
    omega

theorem ownGrains : OwnGrains :=
  ⟨fun s l _ => ownGrain_fields s l, ownCap0_fields, by decide⟩

end Sys2Proof.Machine
end

section
/-!
PROOFS. Chapter 11: the handshakes of training (R244, R248).
-/
namespace Sys2Proof.Machine
open Sys2Proof.Safety Sys2Proof.Claims

variable {s e b x u : State} {l m : Link} {r : LinkRec} {p q n c w : Nat} {late : Bool} {g : Grain}

/-! ## READY and GO in a step with training grains (R244) -/

/-- The record of a link that becomes READY with a mask, if its own result for the step is final. -/
def readied (r : LinkRec) (final : Bool) (mask : BitVec 4) : LinkRec :=
  if r.hs.got && !r.hs.ready && final then { r with rxMask := mask, hs := { r.hs with ready := true, frozen := mask } } else r

theorem shake_tp2 (h : inTp2 (linkOf s l) = true) (late : Bool) :
    let q := readied (linkOf s l) (stepFinal s l late) (finalMask s l)
    linkOf (shake s l late) l = { q with hs := { q.hs with go := q.hs.go || (q.hs.ready && q.hs.farReady && q.hs.sentReady) } } := by
  unfold shake
  dsimp only
  rw [if_pos h]
  unfold shakeTp2
  exact linkOf_setLink_self s l _

theorem readied_of_ready (h : r.hs.ready = true) (final : Bool) (mask : BitVec 4) : readied r final mask = r := by
  unfold readied
  rw [h]
  simp

theorem readied_ready (h : r.hs.ready = false) {final : Bool} {mask : BitVec 4} (hq : (readied r final mask).hs.ready = true) :
    r.hs.got = true ∧ (readied r final mask).hs.frozen = (readied r final mask).rxMask := by
  unfold readied at hq ⊢
  split at hq
  · next hc =>
    rw [if_pos hc]
    simp only [Bool.and_eq_true] at hc
    exact ⟨hc.1.1, rfl⟩
  · rw [h] at hq
    exact absurd hq Bool.false_ne_true

theorem readied_hs (r : LinkRec) (final : Bool) (mask : BitVec 4) : (readied r final mask).hs.go = r.hs.go ∧
    (readied r final mask).hs.farReady = r.hs.farReady ∧ (readied r final mask).hs.sentReady = r.hs.sentReady := by
  unfold readied
  split <;> exact ⟨rfl, rfl, rfl⟩

/-! ## GO in CAPS (R248) -/

theorem shake_caps (h : (linkOf s l).st = .caps) (late : Bool) : shake s l late = shakeCaps s l := by
  have hno : inTp2 (linkOf s l) = false := by
    unfold inTp2
    rw [h]
    rfl
  unfold shake
  dsimp only
  rw [hno, if_neg Bool.false_ne_true, if_pos h]

/-- The first that passes, in falling order, is the highest that passes. -/
theorem find?_falling {P : Nat → Bool} {k : Nat} (hy : P w = true) (hk : w ≤ 2) (hno : ∀ d, w < d → d ≤ 2 → P d = false) (hw : w + k = n) :
    [2 + k, 1 + k, k].find? (fun v => P (v - k)) = some n := by
  subst hw
  obtain rfl | rfl | rfl : w = 2 ∨ w = 1 ∨ w = 0 := by omega
  · simp [List.find?, hy]
  · simp [List.find?, hy, hno 2]
  · simp [List.find?, hy, hno 2, hno 1]

theorem chosenRate_some (h1 : 1 ≤ c) (h3 : c ≤ 3) (hl : c ≤ rateLimit s l r) (hf : r.far0.getLsbD (17 + c) = true)
    (hbest : ∀ d, c < d → d ≤ 3 → d ≤ rateLimit s l r → r.far0.getLsbD (17 + d) = false) : chosenRate s l r = some c := by
  have hno (d : Nat) (hd : c < d) (hd3 : d ≤ 3) : (decide (d ≤ rateLimit s l r) && r.far0.getLsbD (17 + d)) = false := by
    by_cases hdl : d ≤ rateLimit s l r
    · rw [hbest d hd hd3 hdl, Bool.and_false]
    · rw [decide_eq_false hdl, Bool.false_and]
  have h := find?_falling (P := fun v => decide (v + 1 ≤ rateLimit s l r) && r.far0.getLsbD (17 + (v + 1))) (w := c - 1) (k := 1) (n := c)
    (by rw [Nat.sub_add_cancel h1, decide_eq_true hl, hf]; rfl) (by omega) (fun d hd hd2 => hno (d + 1) (by omega) (by omega)) (by omega)
  exact h

theorem widthIn_some {cap : Nat} {a b : BitVec 4} (h2 : w ≤ 2) (hc : w ≤ cap) (ha : hasGroup w a = true) (hb : hasGroup w b = true)
    (hbest : ∀ v, w < v → v ≤ 2 → v ≤ cap → hasGroup v a = false ∨ hasGroup v b = false) : widthIn cap a b = some w := by
  refine find?_falling (P := fun v => decide (v ≤ cap) && hasGroup v a && hasGroup v b) (k := 0) ?_ h2 (fun v hv hv2 => ?_) rfl
  · rw [decide_eq_true hc, ha, hb]
    rfl
  · by_cases hvc : v ≤ cap
    · obtain h | h := hbest v hv hv2 hvc <;> rw [h] <;> simp
    · rw [decide_eq_false hvc, Bool.false_and, Bool.false_and]

theorem shakeCaps_of_chosen (hh : (linkOf s l).hs.capHeld = true) (hr : (linkOf s l).hs.farReady = true) (hg : (linkOf s l).hs.go = false)
    (hc : chosenRate s l { linkOf s l with far0 := (linkOf s l).hs.cap0 } = some c)
    (hw : widthIn (capWidth s l { linkOf s l with far0 := (linkOf s l).hs.cap0 }) (linkOf s l).rxMask (linkOf s l).farMask = some w) :
    shakeCaps s l = setLink s l { linkOf s l with
      agreedRate := BitVec.ofNat 2 c, agreedWidth := BitVec.ofNat 2 w, hs := { (linkOf s l).hs with go := true } } := by
  unfold shakeCaps
  dsimp only
  rw [hh, hr, hg, hc, hw]
  rfl

theorem shakeCaps_of_waiting (h : (linkOf s l).hs.capHeld = false ∨ (linkOf s l).hs.farReady = false) : shakeCaps s l = s := by
  unfold shakeCaps
  refine if_neg ?_
  obtain h | h := h <;> rw [h] <;> simp

theorem handshakes : Handshakes := by
  intro s l late r q
  refine ⟨fun h => ?_, fun h hh hr hg => ?_, fun h hwait => ?_⟩
  · have hq : q = _ := shake_tp2 h late
    obtain ⟨hgo, hfar, hsent⟩ := readied_hs r (stepFinal s l late) (finalMask s l)
    refine ⟨fun hready => ?_, fun hready hqr => ?_, fun hno hqg => ?_⟩
    · rw [hq, readied_of_ready hready]
      exact ⟨hready, rfl, rfl⟩
    · rw [hq] at hqr ⊢
      exact readied_ready hready hqr
    · rw [hq] at hqg ⊢
      have hqg : ((readied r (stepFinal s l late) (finalMask s l)).hs.go || ((readied r (stepFinal s l late) (finalMask s l)).hs.ready &&
        (readied r (stepFinal s l late) (finalMask s l)).hs.farReady && (readied r (stepFinal s l late) (finalMask s l)).hs.sentReady)) = true := hqg
      rw [hgo, hno, hfar, hsent, Bool.false_or, Bool.and_eq_true, Bool.and_eq_true] at hqg
      exact ⟨hqg.1.1, hqg.1.2, hqg.2⟩
  · intro far c w h1 h3 hl hf hbest h2 hw ha hb hwide
    rw [shake_caps h]
    exact shakeCaps_of_chosen hh hr hg (chosenRate_some h1 h3 hl hf hbest) (widthIn_some h2 hw ha hb hwide)
  · rw [shake_caps h]
    exact shakeCaps_of_waiting hwait

end Sys2Proof.Machine
end

section
/-!
PROOFS. Chapter 11: the steps of a training pass, one by one (R243 to R249, R276, Table LB-4).
-/
namespace Sys2Proof.Machine
open Sys2Proof.Safety Sys2Proof.Claims

variable {s e b x u t : State} {l m : Link} {r q : LinkRec} {p n c w : Nat} {late training : Bool} {info : TrainInfo}

theorem trainingStepExit_of_enabled (h : linkEn s l = true) (info : TrainInfo) :
    trainingStepExit s l info = stepExit (shake (lineIn s l info.lines) l info.late) l info := if_pos h

theorem onLink_entered (s : State) (l : Link) (info : TrainInfo) : OnLink l s (shake (lineIn s l info.lines) l info.late) :=
  (onLink_lineIn s l info.lines).shake info.late

/-- A step that begins where nothing comes in is judged on the state itself. -/
theorem trainingStepExit_deaf (h : linkEn s l = true) (hst : (linkOf s l).st = .clock ∨ (linkOf s l).st = .rate ∨ (linkOf s l).st = .clockAtRate)
    (info : TrainInfo) : trainingStepExit s l info = stepExit s l info := by
  have hstill : receives (linkOf s l) = false ∧ inTp2 (linkOf s l) = false ∧ (linkOf s l).st ≠ .caps := by
    unfold receives inTp2
    obtain hst | hst | hst := hst <;> rw [hst] <;> exact ⟨rfl, rfl, by simp⟩
  rw [trainingStepExit_of_enabled h, entered_still hstill.1 hstill.2.1 hstill.2.2]

/-! ## The steps that end with TP1 (R241, R243) -/

/-- A step with TP2 has begun: every lane searches, begins with a MARK, and has its peaking. -/
def Peaked (s : State) (l : Link) (peaks : BitVec 16) (x : State) : Prop :=
  ∀ p, p < 4 → (laneOf x l p).lock = false ∧ (laneOf x l p).tx.force = true ∧ (laneOf x l p).peakNow = peakFor s l peaks p (laneOf s l p)

theorem peaked_beginTp2 (s : State) (l : Link) (peaks : BitVec 16) : Peaked s l peaks (beginTp2 (takePeaks s l peaks) l) := by
  intro p hp
  obtain ⟨hlock, hforce, hpeak⟩ := laneOf_beginTp2 (takePeaks s l peaks) l hp
  refine ⟨hlock, hforce, hpeak.trans ?_⟩
  rw [(eachLane_takePeaks s l peaks).2 p hp]

theorem linkOf_tp2 (s : State) (l : Link) (peaks : BitVec 16) :
    linkOf (beginTp2 (takePeaks s l peaks) l) l = { linkOf s l with st := .alignAtRate, hs := {} } := by
  rw [linkOf_beginTp2, (eachLane_takePeaks s l peaks).linkOf]

theorem onLink_tp2 (s : State) (l : Link) (peaks : BitVec 16) : OnLink l s (beginTp2 (takePeaks s l peaks) l) :=
  ((onLink_refl l s).takePeaks peaks).beginTp2

theorem stepExit_clock (h : (linkOf s l).st = .clock) : stepExit s l info = if (linkOf s l).detected &&& ~~~info.good = 0 then
    setLink (beginTp2 (takePeaks s l info.peaks) l) l { linkOf (beginTp2 (takePeaks s l info.peaks) l) l with st := .align } else s := by
  unfold stepExit
  dsimp only
  rw [h]

theorem stepExit_clockAtRate (h : (linkOf s l).st = .clockAtRate) (he : (linkOf s l).exitStep = 0) : stepExit s l info =
    if toLogical (linkOf s l).reversed (linkOf s l).rxMask &&& ~~~info.good = 0 then beginTp2 (takePeaks s l info.peaks) l else s := by
  unfold stepExit
  dsimp only
  rw [h]
  dsimp only
  rw [he]
  simp

theorem stepExit_rate (h : (linkOf s l).st = .rate) : stepExit s l info = takeModes (setLink s l { linkOf s l with st := .clockAtRate }) l := by
  unfold stepExit
  dsimp only
  rw [h]

/-! ## The steps with a handshake (R244, R245, R248) -/

section
variable (hgo : (linkOf u l).hs.sentGo = true)
include hgo

theorem stepExit_align (h : (linkOf u l).st = .align) : stepExit u l info = setLink u l { linkOf u l with
    st := .order, hs := { latch := (linkOf u l).hs.latch }, reversed := decide ((voters u l false).length < (voters u l true).length) } := by
  unfold stepExit
  dsimp only
  rw [h]
  dsimp only
  rw [if_pos hgo]
  rfl

theorem stepExit_order (h : (linkOf u l).st = .order) : stepExit u l info = setLink u l { linkOf u l with
    st := .caps, hs := { latch := (linkOf u l).hs.latch } } := by
  unfold stepExit
  dsimp only
  rw [h]
  dsimp only
  rw [if_pos hgo]
  rfl

theorem stepExit_alignAtRate (h : (linkOf u l).st = .alignAtRate) (he : (linkOf u l).exitStep = 0) :
    stepExit u l info = if (linkOf u l).rgRate.isSome then regroupEnds u l else enterActive u l := by
  unfold stepExit
  dsimp only
  rw [h]
  dsimp only
  rw [he, hgo]
  rfl

theorem stepExit_regroup (h : (linkOf u l).st = .regroup) :
    stepExit u l info = if (linkOf u l).rgRate.isSome then searchLanes (setLink u l (enterStep (linkOf u l) .rate)) l else regroupEnds u l := by
  unfold stepExit
  dsimp only
  rw [h]
  dsimp only
  rw [if_pos hgo]
  rfl

end

theorem stepExit_waits (hgo : (linkOf u l).hs.sentGo = false) (h : (linkOf u l).st = .align ∨ (linkOf u l).st = .order ∨
    (linkOf u l).st = .alignAtRate ∨ (linkOf u l).st = .regroup) : stepExit u l info = u := by
  unfold stepExit
  dsimp only
  obtain h | h | h | h := h <;> rw [h] <;> dsimp only <;> rw [hgo] <;> simp

theorem stepExit_caps (h : (linkOf u l).st = .caps) : stepExit u l info = if (linkOf u l).hs.go && (linkOf u l).hs.farGo then
    searchLanes (setLink u l { linkOf u l with
      st := .rate, hs := { latch := (linkOf u l).hs.latch }, far0 := (linkOf u l).hs.cap0, far1 := (linkOf u l).hs.cap1, far2 := (linkOf u l).hs.cap2 }) l
    else u := by
  unfold stepExit
  dsimp only
  rw [h]
  rfl

theorem lock_searchLanes (s : State) (l : Link) (hp : p < 4) : (laneOf (searchLanes s l) l p).lock = false := by
  rw [(eachLane_searchLanes s l).2 p hp]
  rfl

/-! ## Reaching ACTIVE (R249, R259, R276) -/

theorem takeGroups_some {cap : Nat} (h : widthIn cap r.hs.frozen r.farMask = some w) : takeGroups r cap =
    some { r with width := BitVec.ofNat 2 w, txGroup := groupIn w r.farMask, rxGroup := groupIn w r.hs.frozen } := by
  unfold takeGroups
  rw [h]

theorem takeGroups_none {cap : Nat} (h : widthIn cap r.hs.frozen r.farMask = none) : takeGroups r cap = none := by
  unfold takeGroups
  rw [h]

theorem eachLane_activeMarks (s : State) (l : Link) (n : Nat) :
    EachLane l (fun p a => { a with tx := { a.tx with
      force := a.tx.since ≠ 0 || n ≠ 0, tail := none, tp1 := if (linkOf s l).txGroup.getLsbD p then n else 0 } }) s (activeMarks s l n) :=
  eachLane_fold fun x p hx _ => by
    have hlink : linkOf x l = linkOf s l := linkOf_congr (onLanes_frame hx).2.2 l
    rw [hlink]
    rfl

/-- The link is narrower or slower than both ends allow (R259). -/
def narrowed (s : State) (l : Link) : Bool :=
  decide ((linkOf s l).width.toNat < capWidth s l (linkOf s l)) ||
    (match chosenRate s l (linkOf s l) with | some c => decide ((linkOf s l).rate.toNat < c) | none => false)

/-- The flags of LK_EVT that reaching ACTIVE sets (R259). -/
def reachFlags (s : State) (l : Link) (training : Bool) : BitVec 24 :=
  (if narrowed s l then 1 else 0) ||| (if !training && (linkOf s l).rgWidth0 < (linkOf s l).width then 2 else 0) |||
    (if !training && (linkOf s l).rgRate0 ≠ (linkOf s l).rate then 4 else 0)

/-- The flags are raised, and NARROWED with them. -/
def reachFlagged (s : State) (l : Link) (training : Bool) : State :=
  if reachFlags s l training = 0 then s else lkEvt s l (reachFlags s l training)

theorem reachEvents_eq (s : State) (l : Link) (training : Bool) :
    reachEvents s l training = if narrowed s l then house (reachFlagged s l training) hNARROW else reachFlagged s l training := rfl

theorem linkOf_reachEvents (s : State) (l m : Link) (training : Bool) : linkOf (reachEvents s l training) m = linkOf s m := by
  rw [reachEvents_eq]
  unfold reachFlagged
  split <;> split <;> rfl

theorem reachEvents_quiet (h : reachFlags s l training = 0) (hn : narrowed s l = false) : reachEvents s l training = s := by
  rw [reachEvents_eq, hn, if_neg Bool.false_ne_true]
  exact if_pos h

theorem capWidth_onLink (h : OnLink l s x) (hr : r.far0 = q.far0) : capWidth x l r = capWidth s l q := by
  obtain ⟨⟨ls, ns, rfl⟩, -⟩ := h
  unfold capWidth
  rw [hr]
  rfl

theorem chosenRate_onLink (h : OnLink l s x) (hr : r.far0 = q.far0) (hc : r.rateCap = q.rateCap) : chosenRate x l r = chosenRate s l q := by
  obtain ⟨⟨ls, ns, rfl⟩, -⟩ := h
  unfold chosenRate rateLimit
  rw [hr, hc]
  rfl

theorem regroupAgain_whole (h : groupBroken (linkOf s l) = false) : regroupAgain s l = s := by
  unfold regroupAgain
  dsimp only
  rw [h, Bool.and_false, if_neg Bool.false_ne_true]

theorem groupBroken_iff : groupBroken r = false ↔ r.rxGroup &&& ~~~r.rxMask = 0 := by
  unfold groupBroken
  rw [decide_eq_false_iff_not, not_not]

/-- The record with which a link reaches ACTIVE by training. -/
def trained (r : LinkRec) (w : Nat) : LinkRec :=
  { r with st := .active, rate := r.agreedRate, width := BitVec.ofNat 2 w, txGroup := groupIn w r.farMask, rxGroup := groupIn w r.hs.frozen,
           fails := 0, rateFails := 0, hs := {}, ll := freshLl r.far1 }

/-- The link is ACTIVE with its groups, and its lanes begin traffic. -/
def trainedOn (u : State) (l : Link) (w : Nat) : State := activeMarks (setLink u l (trained (linkOf u l) w)) l 0

theorem onLink_trainedOn (u : State) (l : Link) (w : Nat) : OnLink l u (trainedOn u l w) := ((onLink_refl l u).setLink _).activeMarks 0

theorem linkOf_trainedOn (u : State) (l : Link) (w : Nat) : linkOf (trainedOn u l w) l = trained (linkOf u l) w := by
  unfold trainedOn
  rw [(eachLane_activeMarks _ l 0).linkOf, linkOf_setLink_self]

theorem enterActive_some (h : widthIn (linkOf u l).agreedWidth.toNat (linkOf u l).hs.frozen (linkOf u l).farMask = some w) :
    enterActive u l = if creditsOk (linkOf u l).far1 then regroupAgain (reachEvents (trainedOn u l w) l true) l
      else linkFail (reachEvents (trainedOn u l w) l true) l 4 := by
  unfold enterActive
  dsimp only
  rw [takeGroups_some h]
  rfl

theorem enterActive_none (h : widthIn (linkOf u l).agreedWidth.toNat (linkOf u l).hs.frozen (linkOf u l).farMask = none) :
    enterActive u l = failPass u l := by
  unfold enterActive
  dsimp only
  rw [takeGroups_none h]

theorem enterActive_good (h : widthIn (linkOf u l).agreedWidth.toNat (linkOf u l).hs.frozen (linkOf u l).farMask = some w)
    (hc : creditsOk (linkOf u l).far1 = true) (hg : groupIn w (linkOf u l).hs.frozen &&& ~~~(linkOf u l).rxMask = 0) :
    enterActive u l = reachEvents (trainedOn u l w) l true := by
  have hlink : linkOf (reachEvents (trainedOn u l w) l true) l = trained (linkOf u l) w := by rw [linkOf_reachEvents, linkOf_trainedOn]
  rw [enterActive_some h, if_pos hc, regroupAgain_whole]
  rw [hlink, groupBroken_iff]
  exact hg

/-- Nothing is flagged where the link is as wide and as fast as both ends allow. -/
theorem reachEvents_trained (hw : w ≤ 2) (hwide : capWidth u l (linkOf u l) ≤ w)
    (hfast : ∀ c, chosenRate u l (linkOf u l) = some c → c ≤ (linkOf u l).agreedRate.toNat) :
    reachEvents (trainedOn u l w) l true = trainedOn u l w := by
  have hlink := linkOf_trainedOn u l w
  have hn : narrowed (trainedOn u l w) l = false := by
    unfold narrowed
    rw [hlink, capWidth_onLink (r := trained (linkOf u l) w) (q := linkOf u l) (onLink_trainedOn u l w) rfl,
      chosenRate_onLink (r := trained (linkOf u l) w) (q := linkOf u l) (onLink_trainedOn u l w) rfl rfl, Bool.or_eq_false_iff]
    refine ⟨decide_eq_false ?_, ?_⟩
    · change ¬ (BitVec.ofNat 2 w).toNat < _
      rw [BitVec.toNat_ofNat]
      omega
    · split
      · next c hc => exact decide_eq_false (not_lt.2 (hfast c hc))
      · rfl
  refine reachEvents_quiet ?_ hn
  unfold reachFlags
  rw [hn]
  simp

/-! ## A pass that fails (R250) -/

theorem failPass_eq (u : State) (l : Link) : failPass u l =
    passFailed u l (inRateSteps (linkOf u l)) := by
  have hlate : inRateSteps (linkOf u l) = (decide ((linkOf u l).st = .rate) || decide ((linkOf u l).st = .clockAtRate) ||
    decide ((linkOf u l).st = .alignAtRate)) := rfl
  unfold failPass passFailed downRec
  dsimp only
  rw [← hlate]
  cases inRateSteps (linkOf u l)
  · rfl
  · by_cases hr : (linkOf u l).rateFails = 1
    · simp [hr]
    · have hne : (linkOf u l).rateFails + 1 ≠ 2 := by omega
      simp [hr]

end Sys2Proof.Machine
end

section
/-!
PROOFS. Chapter 11: training, settled (R240 to R251, R257, R330, Table LB-4).
-/
namespace Sys2Proof.Machine
open Sys2Proof.Safety Sys2Proof.Claims

variable {s x y u : State} {l : Link} {n w : Nat} {late : Bool} {info : TrainInfo}

/-- A command that changes a link and its lanes alone ends in that change. -/
theorem exec_onLink {i : Instr} (hq : Quiet s) (hx : x = y) (hy : OnLink l s y) (hc : exec i s = .next (settle s x)) :
    ∃ t, exec i s = .next t ∧ UpToMarks y t ∧ linkOf t l = linkOf y l ∧ (∀ p, laneOf t l p = laneOf y l p) ∧ t.cfg = s.cfg := by
  subst hx
  obtain ⟨hmarks, hcfg, -⟩ := upToMarks_onLink hq hy
  exact ⟨_, hc, hmarks, linkOf_settle _ _ _, fun _ => laneOf_settle _ _ _ _, hcfg⟩

theorem unflagged_onLink (h : Unflagged s u) (g : OnLink l u x) : Unflagged s x := by
  obtain ⟨⟨ls, ns, rfl⟩, -⟩ := g
  exact ⟨⟨h.pw, h.live, h.im, h.lean, h.jobs, h.orphan⟩, h.hsAcc⟩

theorem onLink_passFailed (u : State) (l : Link) (late : Bool) : OnLink l (lkEvt u l 16) (passFailed u l late) :=
  ((onLink_refl l _).setLink _).dropLanes

theorem unflagged_passFailed (h : Unflagged s u) (l : Link) (late : Bool) : Unflagged s (passFailed u l late) :=
  unflagged_onLink (u := lkEvt u l 16) ⟨⟨h.pw, h.live, h.im, h.lean, h.jobs, h.orphan⟩, h.hsAcc⟩ (onLink_passFailed u l late)

/-! ## The last step of a training pass (R249, R250, R276) -/

section
variable (hq : Quiet s) (hu : OnLink l s u) (hrun : ∀ y, enterActive u l = y → trainingStepExit s l info = y)
include hq hu hrun

theorem reaches_active (hw : widthIn (linkOf u l).agreedWidth.toNat (linkOf u l).hs.frozen (linkOf u l).farMask = some w)
    (hc : creditsOk (linkOf u l).far1 = true) (hg : groupIn w (linkOf u l).hs.frozen &&& ~~~(linkOf u l).rxMask = 0) :
    ∃ t, exec (.trainingStepExit l info) s = .next t ∧ linkOf t l = trained (linkOf u l) w ∧
      (capWidth u l (linkOf u l) ≤ w → (∀ c, chosenRate u l (linkOf u l) = some c → c ≤ (linkOf u l).agreedRate.toNat) → w ≤ 2 →
        sqOf t (lkEvtOff l) = sqOf s (lkEvtOff l) ∧ sqOf t 0x300 = sqOf s 0x300) := by
  have hrun := hrun _ (enterActive_good hw hc hg)
  refine ⟨_, rfl, ?_, fun hwide hfast hw2 => ?_⟩
  · rw [hrun, linkOf_settle, linkOf_reachEvents, linkOf_trainedOn]
  · rw [hrun, reachEvents_trained hw2 hwide hfast]
    have hcfg := (upToMarks_onLink hq (hu.trans (onLink_trainedOn u l w))).2.1
    exact ⟨sqOf_congr (congrArg (·.sq) hcfg) _, sqOf_congr (congrArg (·.sq) hcfg) _⟩

omit hq hu in
theorem credits_fail (hw : widthIn (linkOf u l).agreedWidth.toNat (linkOf u l).hs.frozen (linkOf u l).farMask = some w)
    (hc : creditsOk (linkOf u l).far1 = false) :
    ∃ t, exec (.trainingStepExit l info) s = .next t ∧ (linkOf t l).st = .down ∧ (linkOf t l).holdoff = true ∧ (linkOf t l).failCause = 4 := by
  have hrun := hrun _ ((enterActive_some hw).trans (if_neg (by rw [hc]; exact Bool.false_ne_true)))
  have hlink : linkOf (trainingStepExit s l info) l =
      clearCounts (downRec { linkOf (reachEvents (trainedOn u l w) l true) l with failCause := 4 }) := by
    rw [hrun, linkFail, linkOf_goDown, if_pos rfl, linkOf_setLink_self]
  refine ⟨_, rfl, ?_⟩
  rw [linkOf_settle, hlink]
  exact ⟨rfl, rfl, rfl⟩

theorem no_group_fails (hst : (linkOf u l).st = .alignAtRate)
    (hw : widthIn (linkOf u l).agreedWidth.toNat (linkOf u l).hs.frozen (linkOf u l).farMask = none) :
    ∃ t, exec (.trainingStepExit l info) s = .next t ∧ UpToMarks (passFailed u l true) t := by
  have hlate : inRateSteps (linkOf u l) = true := by
    unfold inRateSteps
    rw [hst]
    rfl
  have hfail : enterActive u l = passFailed u l true := by rw [enterActive_none hw, failPass_eq, hlate]
  exact exec_wire hq (hrun _ hfail) (unflagged_passFailed hu.unflagged l true) rfl

end

/-- The end of a step that leaves the link in training. -/
theorem exec_step (hq : Quiet s) (hx : trainingStepExit s l info = y) (hy : OnLink l s y) :
    ∃ t, exec (.trainingStepExit l info) s = .next t ∧ UpToMarks y t ∧ linkOf t l = linkOf y l ∧ ∀ p, laneOf t l p = laneOf y l p := by
  obtain ⟨t, ht, hm, hl, hp, -⟩ := exec_onLink (i := .trainingStepExit l info) hq hx hy rfl
  exact ⟨t, ht, hm, hl, hp⟩

theorem exec_step_same (hq : Quiet s) (hx : trainingStepExit s l info = y) (hy : OnLink l s y) :
    ∃ t, exec (.trainingStepExit l info) s = .next t ∧ UpToMarks y t := by
  obtain ⟨t, ht, hm, -⟩ := exec_step hq hx hy
  exact ⟨t, ht, hm⟩

/-- A step with TP2 begins. -/
theorem exec_tp2 (hq : Quiet s) (hx : trainingStepExit s l info = beginTp2 (takePeaks s l info.peaks) l) :
    ∃ t, exec (.trainingStepExit l info) s = .next t ∧ linkOf t l = { linkOf s l with st := .alignAtRate, hs := {} } ∧
      Peaked s l info.peaks t := by
  obtain ⟨t, ht, -, hlink, hlane⟩ := exec_step hq hx (onLink_tp2 s l info.peaks)
  refine ⟨t, ht, hlink.trans (linkOf_tp2 s l _), fun p hp => ?_⟩
  rw [hlane]
  exact peaked_beginTp2 s l info.peaks p hp

theorem exec_tp2_align (hq : Quiet s) (hx : trainingStepExit s l info = setLink (beginTp2 (takePeaks s l info.peaks) l) l
      { linkOf (beginTp2 (takePeaks s l info.peaks) l) l with st := .align }) :
    ∃ t, exec (.trainingStepExit l info) s = .next t ∧ linkOf t l = { linkOf s l with st := .align, hs := {} } ∧
      Peaked s l info.peaks t := by
  obtain ⟨t, ht, -, hlink, hlane⟩ := exec_step hq hx ((onLink_tp2 s l info.peaks).setLink _)
  rw [linkOf_setLink_self, linkOf_tp2] at hlink
  refine ⟨t, ht, hlink, fun p hp => ?_⟩
  rw [hlane, laneOf_setLink]
  exact peaked_beginTp2 s l info.peaks p hp

/-- CAPS ends: the receivers search for the grains of the next step. -/
theorem exec_capsExit (hq : Quiet s) (hu : OnLink l s u) (r : LinkRec) (hx : trainingStepExit s l info = searchLanes (setLink u l r) l) :
    ∃ t, exec (.trainingStepExit l info) s = .next t ∧ linkOf t l = r ∧ ∀ p, p < 4 → (laneOf t l p).lock = false := by
  obtain ⟨t, ht, -, hlink, hlane⟩ := exec_step hq hx (hu.setLink _).searchLanes
  rw [(eachLane_searchLanes _ l).linkOf, linkOf_setLink_self] at hlink
  exact ⟨t, ht, hlink, fun p hp => (congrArg LaneRec.lock (hlane p)).trans (lock_searchLanes _ l hp)⟩

/-- Lanes take the mode of LANE_EQ that is live. -/
theorem exec_takeModes {i : Instr} (hq : Quiet s) (r : LinkRec) (hx : x = takeModes (setLink s l r) l) (hc : exec i s = .next (settle s x)) :
    ∃ t, exec i s = .next t ∧ linkOf t l = r ∧ ∀ p, p < 4 → (laneOf t l p).fixed = bit (tabLive s 9 (l.toNat * 4 + p) 0 0) 0 := by
  obtain ⟨t, ht, -, hlink, hlane, -⟩ := exec_onLink hq hx ((onLink_refl l s).setLink _).takeModes hc
  rw [(eachLane_takeModes _ l).linkOf, linkOf_setLink_self] at hlink
  refine ⟨t, ht, hlink, fun p hp => ?_⟩
  rw [hlane, (eachLane_takeModes _ l).2 p hp]
  rfl

theorem trainingSteps : TrainingSteps := by
  intro s l info hq hmode hen r u q next peaked
  have hu : OnLink l s u := onLink_entered s l info
  have hrun {y : State} (h : stepExit u l info = y) : trainingStepExit s l info = y := (trainingStepExit_of_enabled hen info).trans h
  have hdeaf {y : State} (hst : r.st = .clock ∨ r.st = .rate ∨ r.st = .clockAtRate) (h : stepExit s l info = y) :
      trainingStepExit s l info = y := (trainingStepExit_deaf hen hst info).trans h
  clear_value u
  have hactive (hst : q.st = .alignAtRate) (he : q.exitStep = 0) (hrg : q.rgRate = none) (hgo : q.hs.sentGo = true) (y : State)
      (hy : enterActive u l = y) : trainingStepExit s l info = y := by
    have hno : ¬ (linkOf u l).rgRate.isSome = true := by
      rw [show (linkOf u l).rgRate = none from hrg]
      exact Bool.false_ne_true
    refine hrun ?_
    rw [stepExit_alignAtRate hgo hst he, if_neg hno]
    exact hy
  refine ⟨fun hst hgood => ?_, fun hst hbad => ?_, fun hst hgo => ?_, fun hst hgo => ?_, fun hst hgo hfar => ?_, fun hst hgo => ?_,
    fun hst hgo => ?_, fun hst => ?_, fun hst he hgood => ?_, fun hst he hbad => ?_,
    fun hst he hrg hgo => ⟨fun w hw => ⟨fun hc hg => ?_, fun hc => ?_⟩, fun hw => ?_⟩⟩
  · exact exec_tp2_align hq (hdeaf (.inl hst) ((stepExit_clock hst).trans (if_pos hgood)))
  · exact exec_step_same hq (hdeaf (.inl hst) ((stepExit_clock hst).trans (if_neg hbad))) (onLink_refl l s)
  · exact exec_step_same hq (hrun (stepExit_align hgo hst)) (hu.setLink _)
  · exact exec_step_same hq (hrun (stepExit_order hgo hst)) (hu.setLink _)
  · exact exec_capsExit hq hu _ (hrun ((stepExit_caps hst).trans (if_pos ((Bool.and_eq_true _ _).mpr ⟨hgo, hfar⟩))))
  · exact exec_step_same hq (hrun (stepExit_waits hgo hst)) hu
  · have hno : ¬ ((q.hs.go && q.hs.farGo) = true) := by
      rw [Bool.not_eq_true, Bool.and_eq_false_iff]
      exact hgo
    exact exec_step_same hq (hrun ((stepExit_caps hst).trans (if_neg hno))) hu
  · exact exec_takeModes (i := .trainingStepExit l info) hq _ (hdeaf (.inr (.inl hst)) (stepExit_rate hst)) rfl
  · exact exec_tp2 hq (hdeaf (.inr (.inr hst)) ((stepExit_clockAtRate hst he).trans (if_pos hgood)))
  · exact exec_step_same hq (hdeaf (.inr (.inr hst)) ((stepExit_clockAtRate hst he).trans (if_neg hbad))) (onLink_refl l s)
  · exact reaches_active hq hu (hactive hst he hrg hgo) hw hc hg
  · exact credits_fail (hactive hst he hrg hgo) hw hc
  · exact no_group_fails hq hu (hactive hst he hrg hgo) hst hw

/-! ## Polls, time limits and electrical idle (R241, R243, R250, R251, R257, R330) -/

theorem operating_of_mode (h : s.pw.mode = .operating) : operating s = true := by
  unfold operating
  rw [h]
  rfl

theorem trainHoldoffEnd_down (hm : s.pw.mode = .operating) (hst : (linkOf s l).st = .down) (hh : (linkOf s l).holdoff = true) :
    trainHoldoffEnd s l = if !linkEn s l then setLink s l { linkOf s l with holdoff := false }
      else if stewardRuns s then setLink s l (enterDetect (linkOf s l)) else s :=
  if_pos (by simp [operating_of_mode hm, hst, hh])

theorem exec_failPass {i : Instr} (hq : Quiet s) (hlate : inRateSteps (linkOf s l) = late) (hx : x = failPass s l)
    (hc : exec i s = .next (settle s x)) : ∃ t, exec i s = .next t ∧ UpToMarks (passFailed s l late) t :=
  exec_wire hq (by rw [hx, failPass_eq, hlate]) (unflagged_passFailed (unflagged_refl s) l late) hc

theorem exec_downed {i : Instr} (hx : Downed s x l) (hc : exec i s = .next (settle s x)) :
    ∃ t, exec i s = .next t ∧ linkLost s t l ∧ linkOf t l = linkOf x l :=
  ⟨_, hc, hx.linkLost, linkOf_settle _ _ _⟩

theorem downed_failRate (hq : Quiet s) (l : Link) : Downed s (failRate s l) l ∧
    (linkOf (failRate s l) l).rateCap =
      BitVec.ofNat 2 (min (min (attempted (linkOf s l)).toNat (linkOf s l).rgRate0.toNat) (linkOf s l).rateCap.toNat) := by
  refine ⟨(goDown_downed (s := setLink s l _) hq l).of_setLink, ?_⟩
  unfold failRate
  rw [linkOf_goDown, if_pos rfl, linkOf_setLink_self]
  rfl

theorem downed_failExit (hq : Quiet s) (l : Link) : Downed s (failExit s l) l ∧ (linkOf (failExit s l) l).exitFail = 1 := by
  have hd := goDown_downed hq l
  refine ⟨hd.setLink hd.link, ?_⟩
  unfold failExit
  rw [linkOf_setLink_self, linkOf_goDown, if_pos rfl]
  rfl

theorem trainingStepTimeout_inTraining (hm : s.pw.mode = .operating) (h : inTraining (linkOf s l) = true) :
    trainingStepTimeout s l = if (linkOf s l).st = .detect && (linkOf s l).detected = 0 then s else failPass s l := by
  unfold trainingStepTimeout
  dsimp only
  rw [operating_of_mode hm, h]
  rfl

theorem trainingStepTimeout_inChange (hm : s.pw.mode = .operating) (h : inRateSteps (linkOf s l) = true) {z : BitVec 2}
    (hz : (linkOf s l).rgRate = some z) : trainingStepTimeout s l = failRate s l := by
  have hno : inTraining (linkOf s l) = false := by
    unfold inTraining
    unfold inRateSteps at h
    rw [hz]
    cases hst : (linkOf s l).st <;> simp_all
  unfold trainingStepTimeout
  dsimp only
  rw [operating_of_mode hm, hno, h, hz]
  rfl

theorem electricalIdleSeen_operating (hm : s.pw.mode = .operating) : electricalIdleSeen s l =
    match (linkOf s l).st with
    | .clock | .align | .order | .caps => failPass s l
    | .clockAtRate | .alignAtRate =>
      if (linkOf s l).exitStep ≠ 0 then failExit s l else if (linkOf s l).rgRate.isSome then failRate s l else failPass s l
    | .active | .regroup => goDown s l
    | _ => s := by
  unfold electricalIdleSeen
  dsimp only
  rw [operating_of_mode hm]
  rfl

section
variable (hq : Quiet s) (hm : s.pw.mode = .operating)
include hq hm

theorem exec_trainHoldoffEnd (hst : (linkOf s l).st = .down) (hh : (linkOf s l).holdoff = true) :
    (linkEn s l = true → stewardRuns s = true → ∃ t, exec (.trainHoldoffEnd l) s = .next t ∧
      UpToMarks (setLink s l (enterDetect (linkOf s l))) t) ∧
    (linkEn s l = false → ∃ t, exec (.trainHoldoffEnd l) s = .next t ∧ UpToMarks (setLink s l { linkOf s l with holdoff := false }) t) ∧
    (linkEn s l = true → stewardRuns s = false → ∃ t, exec (.trainHoldoffEnd l) s = .next t ∧ UpToMarks s t) := by
  have hx := trainHoldoffEnd_down hm hst hh
  refine ⟨fun hen hrun => exec_setLink hq (hx.trans ?_) rfl, fun hen => exec_setLink hq (hx.trans ?_) rfl,
    fun hen hrun => exec_wire hq (hx.trans ?_) (unflagged_refl s) rfl⟩ <;> simp [*]

theorem exec_trainingStepTimeout_low (h : ((linkOf s l).st = .clock ∨ (linkOf s l).st = .align ∨ (linkOf s l).st = .order ∨ (linkOf s l).st = .caps) ∨
      (linkOf s l).st = .detect ∧ (linkOf s l).detected ≠ 0) :
    ∃ t, exec (.trainingStepTimeout l) s = .next t ∧ UpToMarks (passFailed s l false) t := by
  have hin : inTraining (linkOf s l) = true ∧ inRateSteps (linkOf s l) = false ∧
      ¬ ((linkOf s l).st = .detect && (linkOf s l).detected = 0) = true := by
    unfold inTraining inRateSteps
    obtain (h | h | h | h) | ⟨h, hd⟩ := h <;> rw [h] <;> simp
    exact hd
  exact exec_failPass hq hin.2.1 ((trainingStepTimeout_inTraining hm hin.1).trans (if_neg hin.2.2)) rfl

theorem exec_trainingStepTimeout_high (h : (linkOf s l).st = .rate ∨ (linkOf s l).st = .clockAtRate ∨ (linkOf s l).st = .alignAtRate)
    (hrg : (linkOf s l).rgRate = none) (he : (linkOf s l).exitStep = 0) :
    ∃ t, exec (.trainingStepTimeout l) s = .next t ∧ UpToMarks (passFailed s l true) t := by
  have hin : inTraining (linkOf s l) = true ∧ inRateSteps (linkOf s l) = true ∧
      ¬ ((linkOf s l).st = .detect && (linkOf s l).detected = 0) = true := by
    unfold inTraining inRateSteps
    rw [hrg, he]
    obtain h | h | h := h <;> rw [h] <;> simp
  exact exec_failPass hq hin.2.1 ((trainingStepTimeout_inTraining hm hin.1).trans (if_neg hin.2.2)) rfl

theorem exec_trainingStepTimeout_change {z : BitVec 2}
    (h : (linkOf s l).st = .rate ∨ (linkOf s l).st = .clockAtRate ∨ (linkOf s l).st = .alignAtRate) (hz : (linkOf s l).rgRate = some z) :
    ∃ t, exec (.trainingStepTimeout l) s = .next t ∧ linkLost s t l ∧
      (linkOf t l).rateCap.toNat = min (min z.toNat (linkOf s l).rgRate0.toNat) (linkOf s l).rateCap.toNat := by
  have hin : inRateSteps (linkOf s l) = true := by
    unfold inRateSteps
    obtain h | h | h := h <;> rw [h] <;> rfl
  obtain ⟨hd, hcap⟩ := downed_failRate hq l
  have hx := trainingStepTimeout_inChange hm hin hz
  obtain ⟨t, ht, hlost, hlink⟩ := exec_downed (i := .trainingStepTimeout l) hd (by rw [← hx]; rfl)
  refine ⟨t, ht, hlost, ?_⟩
  rw [hlink, hcap]
  unfold attempted
  rw [hz, BitVec.toNat_ofNat]
  exact Nat.mod_eq_of_lt (lt_of_le_of_lt (min_le_right _ _) (linkOf s l).rateCap.isLt)

theorem exec_trainingStepTimeout_unseen (hst : (linkOf s l).st = .detect) (hd : (linkOf s l).detected = 0) :
    ∃ t, exec (.trainingStepTimeout l) s = .next t ∧ UpToMarks s t := by
  have hin : inTraining (linkOf s l) = true := by
    unfold inTraining
    rw [hst]
  exact exec_wire hq ((trainingStepTimeout_inTraining hm hin).trans (if_pos (by simp [hst, hd]))) (unflagged_refl s) rfl

theorem exec_electricalIdleSeen_low (h : (linkOf s l).st = .clock ∨ (linkOf s l).st = .align ∨ (linkOf s l).st = .order ∨ (linkOf s l).st = .caps) :
    ∃ t, exec (.electricalIdleSeen l) s = .next t ∧ UpToMarks (passFailed s l false) t := by
  have hx : electricalIdleSeen s l = failPass s l ∧ inRateSteps (linkOf s l) = false := by
    rw [electricalIdleSeen_operating hm]
    unfold inRateSteps
    obtain h | h | h | h := h <;> rw [h] <;> exact ⟨rfl, rfl⟩
  exact exec_failPass hq hx.2 hx.1 rfl

theorem exec_electricalIdleSeen_exit (h : (linkOf s l).st = .clockAtRate ∨ (linkOf s l).st = .alignAtRate) (he : (linkOf s l).exitStep ≠ 0) :
    ∃ t, exec (.electricalIdleSeen l) s = .next t ∧ linkLost s t l ∧ (linkOf t l).exitFail = 1 := by
  have hx : electricalIdleSeen s l = failExit s l := by
    rw [electricalIdleSeen_operating hm]
    obtain h | h := h <;> rw [h] <;> exact if_pos he
  obtain ⟨hd, hfail⟩ := downed_failExit hq l
  obtain ⟨t, ht, hlost, hlink⟩ := exec_downed (i := .electricalIdleSeen l) hd (by rw [← hx]; rfl)
  exact ⟨t, ht, hlost, (congrArg LinkRec.exitFail hlink).trans hfail⟩

theorem exec_electricalIdleSeen_up (h : (linkOf s l).st = .active ∨ (linkOf s l).st = .regroup) :
    ∃ t, exec (.electricalIdleSeen l) s = .next t ∧ linkLost s t l := by
  have hx : electricalIdleSeen s l = goDown s l := by
    rw [electricalIdleSeen_operating hm]
    obtain h | h := h <;> rw [h]
  obtain ⟨t, ht, hlost, -⟩ := exec_downed (i := .electricalIdleSeen l) (goDown_downed hq l) (by rw [← hx]; rfl)
  exact ⟨t, ht, hlost⟩

theorem exec_electricalIdleSeen_silent (h : (linkOf s l).st = .down ∨ (linkOf s l).st = .detect ∨ (linkOf s l).st = .rate ∨
      (linkOf s l).st = .idle ∨ (linkOf s l).st = .fallow ∨ (linkOf s l).st = .wake) :
    ∃ t, exec (.electricalIdleSeen l) s = .next t ∧ UpToMarks s t := by
  have hx : electricalIdleSeen s l = s := by
    rw [electricalIdleSeen_operating hm]
    obtain h | h | h | h | h | h := h <;> rw [h]
  exact exec_wire hq hx (unflagged_refl s) rfl

end

section
variable {k : BitVec 4} (hen : linkEn s l = true) (hst : (linkOf s l).st = .detect)
include hen hst

theorem detectPoll_detect : detectPoll s l k = if k ≠ 0 && k = (linkOf s l).lastPoll then
      takeModes (setLink s l { linkOf s l with st := .clock, detected := k, lastPoll := 0 }) l
    else setLink s l { linkOf s l with lastPoll := k, detected := if k = 0 then (linkOf s l).detected else k } :=
  if_pos (by simp [hen, hst])

theorem exec_detectPoll_again (hq : Quiet s) (h0 : k ≠ 0) (hk : k = (linkOf s l).lastPoll) : ∃ t, exec (.detectPoll l k) s = .next t ∧
    linkOf t l = { linkOf s l with st := .clock, detected := k, lastPoll := 0 } ∧
    ∀ p, p < 4 → (laneOf t l p).fixed = bit (tabLive s 9 (l.toNat * 4 + p) 0 0) 0 :=
  exec_takeModes (i := .detectPoll l k) hq _ ((detectPoll_detect hen hst).trans (if_pos (by simpa [← hk] using h0))) rfl

theorem exec_detectPoll_other (hq : Quiet s) (h : k = 0 ∨ k ≠ (linkOf s l).lastPoll) : ∃ t, exec (.detectPoll l k) s = .next t ∧
    UpToMarks (setLink s l { linkOf s l with lastPoll := k, detected := if k = 0 then (linkOf s l).detected else k }) t := by
  have hno : ¬ (k ≠ 0 && k = (linkOf s l).lastPoll) = true := by
    simp only [ne_eq, decide_not, Bool.and_eq_true, Bool.not_eq_true', decide_eq_false_iff_not, decide_eq_true_eq]
    tauto
  exact exec_setLink hq ((detectPoll_detect hen hst).trans (if_neg hno)) rfl

end

/-- Settles O48. Each step is judged on what the lines and the handshake leave of the link; a pass that fails leaves the same record wherever
it fails. -/
theorem training : Obligations.Training := by
  refine ⟨ownGrains, handshakes, trainingSteps, fun s l hq hm => ?_⟩
  exact ⟨fun hst hh => exec_trainHoldoffEnd hq hm hst hh,
    fun hen hst m => ⟨fun h0 hk => exec_detectPoll_again hen hst hq h0 hk, fun h => exec_detectPoll_other hen hst hq h⟩,
    fun h => exec_trainingStepTimeout_low hq hm h, fun hst hd => exec_trainingStepTimeout_unseen hq hm hst hd,
    fun h hrg he => exec_trainingStepTimeout_high hq hm h hrg he, fun x h hz => exec_trainingStepTimeout_change hq hm h hz,
    fun h => exec_electricalIdleSeen_low hq hm h, fun h he => exec_electricalIdleSeen_exit hq hm h he,
    fun h => exec_electricalIdleSeen_up hq hm h, fun h => exec_electricalIdleSeen_silent hq hm h⟩

end Sys2Proof.Machine
end

section
/-!
PROOFS. Chapter 11: regroups, and the ways a link goes down (R242, R252 to R260).
-/
namespace Sys2Proof.Machine
open Sys2Proof.Safety Sys2Proof.Claims

variable {s b x y u t : State} {l : Link} {r q : LinkRec} {p w : Nat} {info : TrainInfo} {g : Grain}

/-! ## The far end's training grains (R242, R244, R252) -/

theorem ofNat_toNat_width (w : BitVec 2) : BitVec.ofNat 2 w.toNat = w := by
  rw [BitVec.ofNat_toNat, BitVec.setWidth_eq]

/-- What a grain of the step at hand says of the far end. -/
def heard (h : Shake) (g : Grain) : Shake :=
  { h with got := true, farReady := h.farReady || g.getLsbD 4, farGo := h.farGo || g.getLsbD 5 }

/-- The record with which a regroup starts. -/
def regrouping (r : LinkRec) (cap : Nat) (rate : Option (BitVec 2)) : LinkRec :=
  { r with st := .regroup, rgCap := BitVec.ofNat 2 cap, rgRate := rate, rgWidth0 := r.width, rgRate0 := r.rate, entry := none, hs := {},
           ll := { r.ll with out := [], frame := [] } }

theorem linkOf_startRegroup (s : State) (l : Link) (cap : Nat) (rate : Option (BitVec 2)) :
    linkOf (startRegroup s l cap rate) l = regrouping (linkOf s l) cap rate := by
  unfold startRegroup
  rw [(eachLane_beginIntervals _ l).linkOf, linkOf_setLink_self]
  rfl

theorem linkOf_noteShake (s : State) (l : Link) (g : Grain) :
    linkOf (noteShake s l g) l = { linkOf s l with hs := heard (linkOf s l).hs g } := linkOf_setLink_self s l _

/-- The far end's receive mask follows a grain that is accepted. -/
def farHeard (s : State) (l : Link) (g : Grain) : State := setLink s l { linkOf s l with farMask := g.extractLsb' 8 4 }

theorem linkOf_farHeard (s : State) (l : Link) (g : Grain) : linkOf (farHeard s l g) l = { linkOf s l with farMask := g.extractLsb' 8 4 } :=
  linkOf_setLink_self s l _

theorem trainingGrainIn_bad (h : g.extractLsb' 16 48 ≠ 0) : trainingGrainIn s l g = s := by
  have hno : trainingGrainOk g = false := by
    unfold trainingGrainOk
    rw [Bool.and_eq_false_iff]
    exact .inl (decide_eq_false h)
  exact if_pos (by rw [hno]; rfl)

theorem trainingGrainIn_good (h : trainingGrainOk g = true) : trainingGrainIn s l g =
    if (linkOf s l).st = .active then
      if isRegroupStep (g.extractLsb' 0 4).toNat then noteShake (startRegroup (farHeard s l g) l (linkOf s l).width.toNat none) l g
      else farHeard s l g
    else if inTp2 (linkOf s l) && ((g.extractLsb' 0 4).toNat = stepCode (linkOf s l) ||
        ((linkOf s l).st = .regroup && isRegroupStep (g.extractLsb' 0 4).toNat)) then noteShake (farHeard s l g) l g
    else farHeard s l g := by
  unfold trainingGrainIn
  rw [h]
  rfl

theorem trainingGrainOk_of_step {n : BitVec 4} (h0 : g.extractLsb' 16 48 = 0) (h : g.extractLsb' 0 4 = n)
    (hn : n = 10 ∨ n = 11 ∨ n = 12) : trainingGrainOk g = true := by
  unfold trainingGrainOk
  rw [h0, h]
  obtain rfl | rfl | rfl := hn <;> rfl

/-- A grain of step REGROUP or RATE. -/
theorem trainingGrainIn_regroup (h0 : g.extractLsb' 16 48 = 0) (h : g.extractLsb' 0 4 = 10 ∨ g.extractLsb' 0 4 = 11) :
    ((linkOf s l).st = .active → linkOf (trainingGrainIn s l g) l =
      { regrouping (linkOf s l) (linkOf s l).width.toNat none with farMask := g.extractLsb' 8 4, hs := heard {} g }) ∧
    ((linkOf s l).st = .regroup → linkOf (trainingGrainIn s l g) l =
      { linkOf s l with farMask := g.extractLsb' 8 4, hs := heard (linkOf s l).hs g }) := by
  have hok : trainingGrainOk g = true := by
    obtain h | h := h
    · exact trainingGrainOk_of_step h0 h (.inl rfl)
    · exact trainingGrainOk_of_step h0 h (.inr (.inl rfl))
  have hstep : isRegroupStep (g.extractLsb' 0 4).toNat = true := by obtain h | h := h <;> rw [h] <;> rfl
  rw [trainingGrainIn_good hok, hstep]
  refine ⟨fun hst => ?_, fun hst => ?_⟩
  · rw [if_pos hst, if_pos rfl, linkOf_noteShake, linkOf_startRegroup, linkOf_farHeard]
    rfl
  · have hin : inTp2 (linkOf s l) = true := by
      unfold inTp2
      rw [hst]
      rfl
    rw [if_neg (by rw [hst]; simp), if_pos (by simp [hin, hst]), linkOf_noteShake, linkOf_farHeard]

/-- A grain of no step is heard for its mask only. -/
theorem trainingGrainIn_none (h0 : g.extractLsb' 16 48 = 0) (h : g.extractLsb' 0 4 = 12)
    (hst : (linkOf s l).st = .active ∨ (linkOf s l).st = .regroup) :
    linkOf (trainingGrainIn s l g) l = { linkOf s l with farMask := g.extractLsb' 8 4 } := by
  have hstep : isRegroupStep (g.extractLsb' 0 4).toNat = false ∧ (g.extractLsb' 0 4).toNat = 12 := by rw [h]; exact ⟨rfl, rfl⟩
  rw [trainingGrainIn_good (trainingGrainOk_of_step h0 h (.inr (.inr rfl))), hstep.1, if_neg Bool.false_ne_true]
  obtain hst | hst := hst
  · rw [if_pos hst, linkOf_farHeard]
  · have hcode : ¬ (g.extractLsb' 0 4).toNat = stepCode (linkOf s l) := by
      rw [hstep.2]
      unfold stepCode
      rw [hst]
      dsimp only
      split <;> simp
    rw [if_neg (by rw [hst]; simp), decide_eq_false hcode, Bool.and_false, Bool.or_false, Bool.and_false, if_neg Bool.false_ne_true, linkOf_farHeard]

theorem farGrains : FarGrains := by
  intro s l g r t heard
  refine ⟨trainingGrainIn_bad, fun h0 h => ?_, fun h0 h hst => trainingGrainIn_none h0 h hst⟩
  obtain ⟨hactive, hregroup⟩ := trainingGrainIn_regroup (s := s) (l := l) h0 h
  refine ⟨fun hst => ?_, hregroup⟩
  rw [hactive hst]
  unfold regrouping
  rw [ofNat_toNat_width]
  rfl

end Sys2Proof.Machine
end

section
/-!
PROOFS. Chapter 11: the end of a regroup (R249, R255, R257, R259).
-/
namespace Sys2Proof.Machine
open Sys2Proof.Safety Sys2Proof.Claims

variable {s b x y u t : State} {l : Link} {r q : LinkRec} {p w : Nat} {info : TrainInfo} {training : Bool}

/-! ## The flags of reaching ACTIVE -/

theorem sqRaise_bit (r : SqReg) (f : BitVec 24) (n : Nat) : (sqRaise r f).flags.getLsbD n = (r.flags.getLsbD n || f.getLsbD n) := by
  unfold sqRaise
  split
  · next h => simp [h]
  · simp

theorem sqAcc_onLink (hq : Quiet s) (h : OnLink l s x) : Quiet x := by
  obtain ⟨⟨ls, ns, rfl⟩, -⟩ := h
  exact hq

section
variable (hq : Quiet s) (h : OnLink l s x)
include hq h

theorem event_reachEvents (training : Bool) :
    sqOf (settle s (reachEvents x l training)) (lkEvtOff l) = sqRaise (sqOf s (lkEvtOff l)) (reachFlags x l training) := by
  have hsq : sqOf (reachEvents x l training) (lkEvtOff l) = sqOf (reachFlagged x l training) (lkEvtOff l) := by
    rw [reachEvents_eq]
    split <;> rfl
  have hx : sqOf x (lkEvtOff l) = sqOf s (lkEvtOff l) := sqOf_congr (congrArg (·.sq) (cfg_of_onLink h).1) _
  rw [sqOf_settle _ _ _ (lkEvtOff_ne l), hsq]
  unfold reachFlagged
  split
  · next hf =>
    rw [hf, hx]
    rfl
  · rw [sqOf_lkEvt (sqAcc_onLink hq h), hx]

/-- What the flags leave of the rest. -/
theorem reachFlagged_quiet (training : Bool) : (reachFlagged x l training).sqAcc.contains 0x300 = false ∧
    (reachFlagged x l training).hsAcc = 0 ∧ (reachFlagged x l training).nv = s.nv ∧
    sqOf (reachFlagged x l training) 0x300 = sqOf s 0x300 ∧ (reachFlagged x l training).pw = s.pw := by
  have hqx := sqAcc_onLink hq h
  obtain ⟨⟨ls, ns, hx⟩, -⟩ := h
  unfold reachFlagged
  split
  · rw [hx]
    exact ⟨by rw [hq.2]; rfl, hq.1, rfl, rfl, rfl⟩
  · refine ⟨house_sqAcc_lkEvt hqx l _, hqx.1, ?_, ?_, ?_⟩
    · rw [hx]; rfl
    · unfold lkEvt
      rw [sqOf_sqSet_ne x _ _ _ (lkEvtOff_ne l).symm, hx]
      rfl
    · rw [hx]; rfl

theorem house_reachEvents (training : Bool) : sqOf (settle s (reachEvents x l training)) 0x300 =
    sqRaise (sqOf s 0x300) (if narrowed x l then 2 else 0) := by
  obtain ⟨hacc, hhs, hnv, hsq, -⟩ := reachFlagged_quiet hq h training
  have hfirst : (reachEvents x l training).sqAcc.contains 0x300 = false ∧ (reachEvents x l training).nv = s.nv ∧
      sqOf (reachEvents x l training) 0x300 = sqOf s 0x300 ∧
      (reachEvents x l training).hsAcc = if narrowed x l then 2 else 0 := by
    rw [reachEvents_eq]
    split
    · refine ⟨hacc, hnv, hsq, ?_⟩
      rw [house_hsAcc, hhs]
      rfl
    · exact ⟨hacc, hnv, hsq, hhs⟩
  obtain ⟨hacc, hnv, hsq, hhs⟩ := hfirst
  rw [sqOf_settle_house _ _ hacc, nvDone_of_work (s := s) (by unfold storeWork; rw [hnv]), hsq, hhs]
  split <;> rfl

end

/-! ## The end of a regroup -/

/-- The record with which a regroup ends at a width. -/
def regrouped (r : LinkRec) (w : Nat) : LinkRec :=
  resume { r with width := BitVec.ofNat 2 w, txGroup := groupIn w r.farMask, rxGroup := groupIn w r.hs.frozen }

theorem regrouped_eq (r : LinkRec) (w : Nat) : regrouped r w = { r with
    st := .active, rgRate := none, width := BitVec.ofNat 2 w, txGroup := groupIn w r.farMask, rxGroup := groupIn w r.hs.frozen, hs := {}
    ll := { r.ll with hunt := false, rpl := r.ll.replay, out := [], frame := [], txK := 0, rxK := 0 }
    replays := if r.ll.replay = [] then r.replays else r.replays + 1 } := by
  unfold regrouped resume
  simp only [List.isEmpty_iff]

def regroupedOn (u : State) (l : Link) (w : Nat) : State := activeMarks (setLink u l (regrouped (linkOf u l) w)) l 0

theorem onLink_regroupedOn (u : State) (l : Link) (w : Nat) : OnLink l u (regroupedOn u l w) := ((onLink_refl l u).setLink _).activeMarks 0

theorem linkOf_regroupedOn (u : State) (l : Link) (w : Nat) : linkOf (regroupedOn u l w) l = regrouped (linkOf u l) w := by
  unfold regroupedOn
  rw [(eachLane_activeMarks _ l 0).linkOf, linkOf_setLink_self]

theorem regroupEnds_some (hr : (linkOf u l).rgRate = none)
    (h : widthIn (linkOf u l).rgCap.toNat (linkOf u l).hs.frozen (linkOf u l).farMask = some w)
    (hg : groupIn w (linkOf u l).hs.frozen &&& ~~~(linkOf u l).rxMask = 0) :
    regroupEnds u l = reachEvents (regroupedOn u l w) l false := by
  have hends : regroupEnds u l = regroupAgain (reachEvents (regroupedOn u l w) l false) l := by
    unfold regroupEnds
    dsimp only
    rw [takeGroups_some h]
    dsimp only
    rw [hr]
    rfl
  have hlink : linkOf (reachEvents (regroupedOn u l w) l false) l = regrouped (linkOf u l) w := by
    rw [linkOf_reachEvents, linkOf_regroupedOn]
  rw [hends, regroupAgain_whole]
  rw [hlink, groupBroken_iff]
  exact hg

theorem regroupEnds_none (hr : (linkOf u l).rgRate = none)
    (h : widthIn (linkOf u l).rgCap.toNat (linkOf u l).hs.frozen (linkOf u l).farMask = none) : regroupEnds u l = goDown u l := by
  unfold regroupEnds
  dsimp only
  rw [takeGroups_none h]
  dsimp only
  rw [hr]
  rfl

theorem width_le_two {cap : Nat} {a b : BitVec 4} (h : widthIn cap a b = some w) : w ≤ 2 := by
  have hmem := List.mem_of_find?_eq_some h
  simp only [List.mem_cons, List.not_mem_nil, or_false] at hmem
  omega

section
variable (hw2 : w ≤ 2)
include hw2

theorem narrowed_regroupedOn : narrowed (regroupedOn u l w) l = true ↔
    (w < capWidth u l (linkOf u l) ∨ ∃ c, chosenRate u l (linkOf u l) = some c ∧ (linkOf u l).rate.toNat < c) := by
  have hwidth : (regrouped (linkOf u l) w).width.toNat = w := by
    change (BitVec.ofNat 2 w).toNat = w
    rw [BitVec.toNat_ofNat]
    omega
  unfold narrowed
  rw [linkOf_regroupedOn, capWidth_onLink (r := regrouped (linkOf u l) w) (q := linkOf u l) (onLink_regroupedOn u l w) rfl,
    chosenRate_onLink (r := regrouped (linkOf u l) w) (q := linkOf u l) (onLink_regroupedOn u l w) rfl rfl, hwidth, Bool.or_eq_true,
    decide_eq_true_eq]
  have hrate : (regrouped (linkOf u l) w).rate = (linkOf u l).rate := rfl
  rw [hrate]
  cases chosenRate u l (linkOf u l) <;> simp

theorem reachFlags_bits : ((reachFlags (regroupedOn u l w) l false).getLsbD 0 = true ↔ narrowed (regroupedOn u l w) l = true) ∧
    ((reachFlags (regroupedOn u l w) l false).getLsbD 1 = true ↔ (linkOf u l).rgWidth0.toNat < w) ∧
    ((reachFlags (regroupedOn u l w) l false).getLsbD 2 = true ↔ (linkOf u l).rgRate0 ≠ (linkOf u l).rate) := by
  have hwidth : (linkOf u l).rgWidth0 < (regrouped (linkOf u l) w).width ↔ (linkOf u l).rgWidth0.toNat < w := by
    change (linkOf u l).rgWidth0.toNat < (BitVec.ofNat 2 w).toNat ↔ _
    rw [BitVec.toNat_ofNat, Nat.mod_eq_of_lt (by omega)]
  have hrec : (regrouped (linkOf u l) w).rgWidth0 = (linkOf u l).rgWidth0 ∧ (regrouped (linkOf u l) w).rgRate0 = (linkOf u l).rgRate0 ∧
      (regrouped (linkOf u l) w).rate = (linkOf u l).rate := ⟨rfl, rfl, rfl⟩
  obtain ⟨h1, h2, h3⟩ := hrec
  unfold reachFlags
  rw [linkOf_regroupedOn, h1, h2, h3]
  rw [← hwidth]
  generalize narrowed (regroupedOn u l w) l = a
  by_cases hb : (linkOf u l).rgWidth0 < (regrouped (linkOf u l) w).width <;> by_cases hc : (linkOf u l).rgRate0 = (linkOf u l).rate <;>
    cases a <;> simp [hb, hc]

end

/-- A command sees of the state before it nothing that the lines of a link can change. -/
theorem settle_of_onLink (h : OnLink l s u) (x : State) : settle s x = settle u x := by
  obtain ⟨⟨ls, ns, rfl⟩, -⟩ := h
  rfl

section
variable (hq : Quiet s) (hu : OnLink l s u)
include hq hu

theorem regroup_ends (hx : trainingStepExit s l info = reachEvents (regroupedOn u l w) l false) (hw2 : w ≤ 2) :
    ∃ t, exec (.trainingStepExit l info) s = .next t ∧ linkOf t l = regrouped (linkOf u l) w ∧
      ((sqOf t (lkEvtOff l)).flags.getLsbD 0 = true ↔ (sqOf s (lkEvtOff l)).flags.getLsbD 0 = true ∨ narrowed (regroupedOn u l w) l = true) ∧
      ((sqOf t (lkEvtOff l)).flags.getLsbD 1 = true ↔
        (sqOf s (lkEvtOff l)).flags.getLsbD 1 = true ∨ (linkOf u l).rgWidth0.toNat < w) ∧
      ((sqOf t (lkEvtOff l)).flags.getLsbD 2 = true ↔
        (sqOf s (lkEvtOff l)).flags.getLsbD 2 = true ∨ (linkOf u l).rgRate0 ≠ (linkOf u l).rate) ∧
      ((sqOf t 0x300).flags.getLsbD 1 = true ↔ (sqOf s 0x300).flags.getLsbD 1 = true ∨ narrowed (regroupedOn u l w) l = true) := by
  have hon := hu.trans (onLink_regroupedOn u l w)
  obtain ⟨h0, h1, h2⟩ := reachFlags_bits (u := u) (l := l) hw2
  refine ⟨_, rfl, ?_⟩
  rw [hx, linkOf_settle, linkOf_reachEvents, linkOf_regroupedOn, event_reachEvents hq hon, house_reachEvents hq hon]
  simp only [sqRaise_bit, Bool.or_eq_true]
  rw [h0, h1, h2]
  refine ⟨trivial, Iff.rfl, Iff.rfl, Iff.rfl, ?_⟩
  cases narrowed (regroupedOn u l w) l <;> simp

theorem regroup_lost (hx : trainingStepExit s l info = goDown u l) :
    ∃ t, exec (.trainingStepExit l info) s = .next t ∧ linkLost u t l := by
  refine ⟨_, rfl, ?_⟩
  rw [hx, settle_of_onLink hu]
  exact (goDown_downed (sqAcc_onLink hq hu) l).linkLost

end

theorem Settled.regroupEnds : RegroupEnds := by
  intro s l info hq hm hen u q hst hgo
  have hu : OnLink l s u := onLink_entered s l info
  have hrun {y : State} (h : stepExit u l info = y) : trainingStepExit s l info = y := (trainingStepExit_of_enabled hen info).trans h
  clear_value u
  have hx := hrun (stepExit_regroup hgo hst)
  have hnone (hr : q.rgRate = none) : trainingStepExit s l info = Machine.regroupEnds u l := by
    have hno : ¬ (linkOf u l).rgRate.isSome = true := by
      rw [show (linkOf u l).rgRate = none from hr]
      exact Bool.false_ne_true
    rw [hx, if_neg hno]
  refine ⟨fun hr => ⟨fun w hw hg => ?_, fun hw => regroup_lost hq hu ((hnone hr).trans (regroupEnds_none hr hw))⟩, fun z hz => ?_⟩
  · have hw2 := width_le_two hw
    obtain ⟨t, ht, hlink, h0, h1, h2, h3⟩ := regroup_ends hq hu ((hnone hr).trans (regroupEnds_some hr hw hg)) hw2
    rw [narrowed_regroupedOn hw2] at h0 h3
    rw [regrouped_eq] at hlink
    refine ⟨t, ht, hlink.trans ?_, h0, h1, h2, h3⟩
    rw [← hr]
  · have hyes : (linkOf u l).rgRate.isSome = true := by
      rw [show (linkOf u l).rgRate = some z from hz]
      rfl
    rw [if_pos hyes] at hx
    exact exec_capsExit hq hu _ hx

end Sys2Proof.Machine
end

section
/-!
PROOFS. Chapter 11: regroups and the ways a link goes down, settled (R250, R252 to R260).
-/
namespace Sys2Proof.Machine
open Sys2Proof.Safety Sys2Proof.Claims

variable {s b x y u t : State} {l : Link} {r q : LinkRec} {p w : Nat} {lines : Lines} {old : Word}

/-! ## Regroups -/

/-- A link that has gone down shows it. -/
theorem Downed.shows (h : Downed s x l) : (linkOf x l).st = .down ∧ (linkOf x l).holdoff = true ∧
    (sqOf x (lkEvtOff l)).flags.getLsbD 3 = true := by
  refine ⟨h.link.1, h.link.2.1, ?_⟩
  rw [h.event, sqRaise_bit]
  simp

section
variable (hq : Quiet s) (hm : s.pw.mode = .operating)
include hq hm

theorem exec_regroupStart (hst : (linkOf s l).st = .active) (hg : (linkOf s l).rxGroup &&& ~~~(linkOf s l).rxMask ≠ 0) :
    ∃ t, exec (.regroupStart l) s = .next t ∧ linkOf t l = regrouping (linkOf s l) (linkOf s l).width.toNat none ∧
      (∀ p, p < 4 → (laneOf t l p).tx.force = true ∧ (laneOf t l p).tx.fifo = []) ∧
      (∀ m, m ≠ l → linkOf t m = linkOf s m) ∧ UpToMarks { s with links := t.links, lanes := t.lanes } t := by
  have hx : regroupStart s l = startRegroup s l (linkOf s l).width.toNat none := by
    have hbroken : groupBroken (linkOf s l) = true := decide_eq_true hg
    unfold regroupStart regroupAgain
    dsimp only
    rw [operating_of_mode hm, hst, hbroken]
    rfl
  have hon := (onLink_refl l s).startRegroup (linkOf s l).width.toNat none
  obtain ⟨t, ht, hmarks, hlink, hlane, -⟩ := exec_onLink (i := .regroupStart l) hq hx hon rfl
  refine ⟨t, ht, hlink.trans (linkOf_startRegroup s l _ _), fun p hp => ?_, fun m hne => ?_, ?_⟩
  · rw [hlane]
    unfold startRegroup
    rw [(eachLane_beginIntervals _ l).2 p hp]
    exact ⟨rfl, rfl⟩
  · rw [← hon.2 m hne]
    exact linkOf_congr (hmarks.elim fun _ h => by rw [h]) m
  · obtain ⟨⟨ls, ns, he⟩, -⟩ := hon
    rw [he] at hmarks
    obtain ⟨h, rfl⟩ := hmarks
    exact ⟨h, rfl⟩

theorem exec_regroupStart_not (h : (linkOf s l).st ≠ .active ∨ (linkOf s l).rxGroup &&& ~~~(linkOf s l).rxMask = 0) :
    ∃ t, exec (.regroupStart l) s = .next t ∧ UpToMarks s t := by
  have hx : regroupStart s l = s := by
    have hno : ¬ ((linkOf s l).st = .active && groupBroken (linkOf s l)) = true := by
      rw [Bool.and_eq_true, decide_eq_true_eq]
      rintro ⟨hst, hbroken⟩
      obtain h | h := h
      · exact h hst
      · rw [groupBroken_iff.2 h] at hbroken
        exact Bool.false_ne_true hbroken
    unfold regroupStart
    rw [if_pos (operating_of_mode hm)]
    exact if_neg hno
  exact exec_wire hq hx (unflagged_refl s) rfl

omit hm in
theorem exec_regroupGrainReceived (lines : Lines) :
    ∃ t, exec (.regroupGrainReceived l lines) s = .next t ∧ UpToMarks (shake (lineIn s l lines) l false) t :=
  exec_wire hq rfl ((onLink_lineIn s l lines).shake false).unflagged rfl

theorem exec_regroupTimeout : ((linkOf s l).st = .regroup → ∃ t, exec (.regroupTimeout l) s = .next t ∧ linkLost s t l) ∧
    ((linkOf s l).st ≠ .regroup → ∃ t, exec (.regroupTimeout l) s = .next t ∧ UpToMarks s t) := by
  have hx : regroupTimeout s l = if (linkOf s l).st = .regroup then goDown s l else s := by
    unfold regroupTimeout
    simp [operating_of_mode hm]
  refine ⟨fun hst => ?_, fun hst => exec_wire hq (hx.trans (if_neg hst)) (unflagged_refl s) rfl⟩
  obtain ⟨t, ht, hlost, -⟩ := exec_downed (i := .regroupTimeout l) (goDown_downed hq l) (by rw [← hx.trans (if_pos hst)]; rfl)
  exact ⟨t, ht, hlost⟩

/-! ## Links that go down (R258) -/

omit hq in
theorem linkDown_eq (lines : Lines) : linkDown s l lines =
    if ((linkOf (lineIn s l lines) l).st = .active ∨ (linkOf (lineIn s l lines) l).st = .regroup) ∧
      widthIn 2 (linkOf (lineIn s l lines) l).rxMask (linkOf (lineIn s l lines) l).farMask = none
    then goDown (lineIn s l lines) l else lineIn s l lines := by
  have hop : operating (lineIn s l lines) = true := by
    obtain ⟨⟨ls, ns, h⟩, -⟩ := onLink_lineIn s l lines
    rw [h]
    exact operating_of_mode hm
  unfold linkDown
  simp [hop]

theorem exec_linkDown (lines : Lines) :
    (((linkOf (lineIn s l lines) l).st = .active ∨ (linkOf (lineIn s l lines) l).st = .regroup) →
      widthIn 2 (linkOf (lineIn s l lines) l).rxMask (linkOf (lineIn s l lines) l).farMask = none →
      ∃ t, exec (.linkDown l lines) s = .next t ∧ linkLost (lineIn s l lines) t l) ∧
    (((linkOf (lineIn s l lines) l).st ≠ .active ∧ (linkOf (lineIn s l lines) l).st ≠ .regroup) ∨
      (widthIn 2 (linkOf (lineIn s l lines) l).rxMask (linkOf (lineIn s l lines) l).farMask).isSome = true →
      ∃ t, exec (.linkDown l lines) s = .next t ∧ UpToMarks (lineIn s l lines) t) := by
  have hu := onLink_lineIn s l lines
  have hx := linkDown_eq (l := l) hm lines
  generalize lineIn s l lines = u at hu hx ⊢
  refine ⟨fun hst hw => ⟨_, rfl, ?_⟩, fun h => ?_⟩
  · rw [hx, if_pos ⟨hst, hw⟩, settle_of_onLink hu]
    exact (goDown_downed (sqAcc_onLink hq hu) l).linkLost
  · rw [if_neg] at hx
    · exact exec_wire hq hx hu.unflagged rfl
    · rintro ⟨hst, hw⟩
      obtain ⟨h1, h2⟩ | h := h
      · exact hst.elim h1 h2
      · rw [hw] at h
        exact Bool.false_ne_true h

/-! ## Commits and RETRAIN (R240, R250, R258, R260) -/

theorem linkCommit_disabled (hdown : linkIsDown (linkOf s l) = false) (hen : linkEn s l = false) : Downed s (linkCommit s l old) l := by
  have hbit : bit (lkCtl s l) 0 = false := by
    unfold linkEn at hen
    rwa [operating_of_mode hm, Bool.true_and] at hen
  unfold linkCommit
  rw [operating_of_mode hm, if_neg (by simp)]
  by_cases hc : fld old 8 2 ≠ fld (lkCtl s l) 8 2
  · have hbit' : bit (lkCtl (setLink s l { linkOf s l with rateCap := 3 }) l) 0 = false := hbit
    have hdown' : linkIsDown (linkOf (setLink s l { linkOf s l with rateCap := 3 }) l) = false := by
      rw [linkOf_setLink_self]
      exact hdown
    rw [if_pos hc]
    dsimp only
    rw [hbit', hdown']
    exact (goDown_downed (s := setLink s l _) hq l).of_setLink
  · rw [if_neg hc]
    dsimp only
    rw [hbit, hdown]
    exact goDown_downed hq l

theorem linkCommit_rateless (hen : linkEn s l = true) (hst : (linkOf s l).st = .active ∨ (linkOf s l).st = .regroup)
    (hold : fld old 8 2 = fld (lkCtl s l) 8 2) (hrate : chosenRate s l (linkOf s l) = none) : Downed s (linkCommit s l old) l := by
  have hbit : bit (lkCtl s l) 0 = true := (Bool.and_eq_true _ _).mp hen |>.2
  have hgo : linkCommit s l old = goDown s l := by
    unfold linkCommit commitActive commitRegroup
    rw [operating_of_mode hm, if_neg (by simp), if_neg (not_not.2 hold)]
    dsimp only
    rw [hbit, hrate]
    obtain hst | hst := hst <;> rw [hst] <;> rfl
  rw [hgo]
  exact goDown_downed hq l

end

theorem retrain_address : ∀ l : Link, baseOff (0xC00 + 0x40 * l.toNat) = 0xC00 + 0x40 * l.toNat ∧ busOp (0xC00 + 0x40 * l.toNat) = .plain ∧
    actsAlone (0xC00 + 0x40 * l.toNat) = false ∧ regHl (0xC00 + 0x40 * l.toNat) &&& writeMask .plain 4 0x10000 = 0 ∧
    regIm (0xC00 + 0x40 * l.toNat) &&& writeMask .plain 4 0x10000 = 0 ∧ isLinkOff (0xC00 + 0x40 * l.toNat) = true ∧
    linkOff (0xC00 + 0x40 * l.toNat) = 0 ∧ BitVec.ofNat 3 ((0xC00 + 0x40 * l.toNat - 0xC00) / 0x40) = l := by
  decide

theorem servedWrite_retrain (s : State) (l : Link) : servedWrite s .plain (0xC00 + 0x40 * l.toNat) 4 0x10000 0 = doRetrain s l := by
  obtain ⟨-, -, halone, hHl, hIm, hlink, hoff, hnum⟩ := retrain_address l
  have hl := l.isLt
  have hbit : bit (writeOnes .plain 4 0x10000) 16 = true := by decide
  rw [servedWrite_act s 0 halone hHl hIm]
  unfold writeAct
  simp only [hlink, hoff, hnum, hbit]
  rw [if_neg (by omega), if_neg (by omega), if_neg (by omega), if_neg (by omega), if_neg (by omega), if_neg (by omega),
    if_neg (by omega), if_neg (by omega), if_neg (by omega), if_neg (by omega), if_neg (by omega), if_neg (by omega),
    if_neg (by omega)]
  rfl

theorem exec_retrain (hs : served s true (0xC00 + 0x40 * l.toNat) 4) (hx : doRetrain s l = x) (hpw : x.pw = s.pw) :
    exec (.retrain l) s = .next (settle s x) := by
  obtain ⟨hbase, hop, -⟩ := retrain_address l
  refine put_effect (addr := 0xC00 + 0x40 * l.toNat) (be := 4) (data := 0x10000) hs (by decide) ?_ (by rw [hpw])
  rw [hbase, hop, servedWrite_retrain, hx]

theorem exec_retrain_up (hq : Quiet s) (hm : s.pw.mode = .operating) (hdown : linkIsDown (linkOf s l) = false)
    (hs : served s true (0xC00 + 0x40 * l.toNat) 4) : ∃ t, exec (.retrain l) s = .next t ∧ linkLost s t l ∧ (linkOf t l).rateCap = 3 ∧
      (linkOf t l).crcErr = 0 ∧ (linkOf t l).replays = 0 := by
  have hx : doRetrain s l = goDown (setLink s l { clearCounts (linkOf s l) with rateCap := 3 }) l := by
    unfold doRetrain
    rw [operating_of_mode hm]
    dsimp only
    rw [hdown]
    rfl
  have hd : Downed s (goDown (setLink s l { clearCounts (linkOf s l) with rateCap := 3 }) l) l :=
    (goDown_downed (s := setLink s l _) hq l).of_setLink
  obtain ⟨-, -, hpw, -⟩ := hd.still
  obtain ⟨t, ht, hlost, hlink⟩ := exec_downed hd (exec_retrain hs hx hpw)
  rw [linkOf_goDown, if_pos rfl, linkOf_setLink_self] at hlink
  refine ⟨t, ht, hlost, ?_⟩
  rw [hlink]
  exact ⟨rfl, rfl, rfl⟩

theorem exec_retrain_down (hq : Quiet s) (hm : s.pw.mode = .operating) (hst : (linkOf s l).st = .down)
    (hs : served s true (0xC00 + 0x40 * l.toNat) 4) : ∃ t, exec (.retrain l) s = .next t ∧
      UpToMarks (setLink s l { clearCounts (linkOf s l) with rateCap := 3 }) t := by
  have hx : doRetrain s l = setLink s l { clearCounts (linkOf s l) with rateCap := 3 } := by
    unfold doRetrain linkIsDown inTraining
    rw [operating_of_mode hm]
    dsimp only
    rw [hst]
    rfl
  exact exec_setLink hq rfl (exec_retrain hs hx rfl)

/-- Settles O49. -/
theorem regroups : Obligations.Regroups := by
  refine ⟨farGrains, Settled.regroupEnds, fun s l hq hm => ?_⟩
  intro r
  refine ⟨fun hst hg => ?_, fun h => exec_regroupStart_not hq hm h, fun lines => exec_regroupGrainReceived hq lines,
    (exec_regroupTimeout hq hm).1, (exec_regroupTimeout hq hm).2, fun lines => exec_linkDown hq hm lines, fun old hdown h => ?_,
    fun hdown hs => exec_retrain_up hq hm hdown hs, fun hst hs => exec_retrain_down hq hm hst hs⟩
  · obtain ⟨t, ht, hlink, hrest⟩ := exec_regroupStart hq hm hst hg
    refine ⟨t, ht, hlink.trans ?_, hrest⟩
    unfold regrouping
    rw [ofNat_toNat_width]
  · obtain hen | ⟨hen, hst, hold, hrate⟩ := h
    · exact (linkCommit_disabled hq hm hdown hen).shows
    · exact (linkCommit_rateless hq hm hen hst hold hrate).shows

end Sys2Proof.Machine
end

section
/-!
PROOFS. Chapter 14: the exit of a link from IDLE (R310).
-/
namespace Sys2Proof.Machine
open Sys2Proof.Safety Sys2Proof.Claims

variable {s : State} {l : Link} {byEndpoint : Bool}

theorem linkOf_exitDone (s : State) (l m : Link) : linkOf (exitDone s l) m = linkOf s m := by
  obtain ⟨a, v, f, h, hx⟩ := arbOnly_arbSettle s (dropReq (freeGrant s (exitClient l)) (exitClient l))
  unfold exitDone
  rw [hx]
  rfl

/-- A link that leaves IDLE has no entry under way. -/
theorem linkOf_idleExit (hm : s.pw.mode = .operating) (hst : (linkOf s l).st = .idle) (hleave : leavesIdle s l byEndpoint = true) :
    linkOf (idleExit s l byEndpoint) l =
      { linkOf s l with st := .active, entry := none, exitStep := 0, ll := { (linkOf s l).ll with txK := 0, rxK := 0 } } := by
  unfold idleExit
  rw [if_pos (by rw [operating_of_mode hm, hleave]; rfl), if_neg (by rw [hst]; simp)]
  dsimp only
  rw [linkOf_exitDone, (eachLane_activeMarks _ l _).linkOf, linkOf_setLink_self]

/-- A link in IDLE whose exit has begun, and in whose record an entry stands. -/
def entryInIdle : State :=
  { State.reset with
    pw := { State.reset.pw with mode := .operating }
    links := [(0, { st := .idle, entry := some false, exitStep := 1 })] }

theorem leavesIdle_entryInIdle : leavesIdle entryInIdle 0 false = true := by decide

/-- Refutes O50: nothing asks that a link in IDLE has no entry in its record. Where one stands there, the exit from IDLE clears it, and the
statement has the record keep it. -/
theorem not_powerStatesOfLinks : ¬ Obligations.PowerStatesOfLinks := by
  intro h
  obtain ⟨-, -, -, -, -, hexit, -⟩ := h entryInIdle 0 false [] ⟨rfl, rfl⟩ rfl
  obtain ⟨t, ht, -, hlink⟩ := hexit rfl (.inl (by decide))
  obtain rfl : settle entryInIdle (idleExit entryInIdle 0 false) = t := Host.Outcome.next.inj ht
  rw [linkOf_settle, linkOf_idleExit rfl rfl leavesIdle_entryInIdle] at hlink
  exact absurd (congrArg LinkRec.entry hlink) (by decide)

end Sys2Proof.Machine
end

section
/-!
PROOFS. Chapter 13: what the arbiter does of itself after every command (R62, R289, R296, R298, R304), and revocation (R298, R299).
-/
namespace Sys2Proof.Machine
open Sys2Proof.Safety Sys2Proof.Claims

variable {s b e u x : State} {c n : Nat} {l : Link} {g : Grant} {q : Req} {A B C : Allot}

/-! ## What the arbiter's following keeps -/

/-- `B` is `A` after requests have come and gone: no grant is made or changed, and the ones that stand by themselves are kept. -/
structure Follows (A B : Allot) : Prop where
  level : B.level = A.level
  pfail : B.pfail = A.pfail
  lean : B.lean = A.lean
  overdraft : B.overdraft = A.overdraft
  breq : B.breq = A.breq
  barred : B.barred = A.barred
  cntViol : B.cntViol = A.cntViol
  grants : B.grants.Sublist A.grants
  firm : ∀ g ∈ A.grants, g.started = true ∨ 264 ≤ g.client → g ∈ B.grants

theorem Follows.refl (A : Allot) : Follows A A := ⟨rfl, rfl, rfl, rfl, rfl, rfl, rfl, List.Sublist.refl _, fun _ h _ => h⟩

theorem Follows.trans (h : Follows A B) (k : Follows B C) : Follows A C :=
  ⟨k.level.trans h.level, k.pfail.trans h.pfail, k.lean.trans h.lean, k.overdraft.trans h.overdraft, k.breq.trans h.breq, k.barred.trans h.barred,
   k.cntViol.trans h.cntViol, k.grants.trans h.grants, fun g hg hf => k.firm g (h.firm g hg hf) hf⟩

/-- Requests may come and go. -/
theorem follows_of_reqs {rs : List Req} {m : Nat} {k : Word} :
    Follows A { A with reqs := rs, serial := m, cntUnfit := k } := ⟨rfl, rfl, rfl, rfl, rfl, rfl, rfl, List.Sublist.refl _, fun _ h _ => h⟩

theorem follows_filter {p : Grant → Bool} {rs : List Req} (hp : ∀ g, g.started = true ∨ 264 ≤ g.client → p g = true) :
    Follows A { A with grants := A.grants.filter p, reqs := rs } :=
  ⟨rfl, rfl, rfl, rfl, rfl, rfl, rfl, List.filter_sublist, fun g h hf => List.mem_filter.2 ⟨h, hp g hf⟩⟩

theorem follows_raiseReq (s : State) (c : Nat) (p : BitVec 8) (x : Option Link) (k : Option Nat) :
    Follows s.allot (raiseReq s c p x k).allot := by
  unfold raiseReq markUnfit dropReq
  split <;> exact follows_of_reqs

theorem exitClient_lt (l : Link) : exitClient l < 264 := by
  have := l.isLt
  unfold exitClient
  omega

theorem follows_exitRequest (s : State) (l : Link) : Follows s.allot (exitRequest s l).allot := by
  unfold exitRequest
  dsimp only
  split
  · split
    · exact follows_raiseReq _ _ _ _ _
    · exact follows_of_reqs
  · refine follows_filter fun g hf => ?_
    have := exitClient_lt l
    rw [Bool.or_eq_true, decide_eq_true_eq]
    obtain hs | hc := hf
    · exact .inr hs
    · exact .inl (by omega)

theorem follows_breqRequest (s : State) (n : Nat) : Follows s.allot (breqRequest s n).allot := by
  unfold breqRequest
  dsimp only
  split
  · exact follows_raiseReq _ _ _ _ _
  · exact Follows.refl _

theorem follows_engineRequest (s : State) : Follows s.allot (engineRequest s).allot := by
  unfold engineRequest
  split
  · exact follows_raiseReq _ _ _ _ _
  · exact Follows.refl _

theorem follows_foldS {α : Type} {f : State → α → State} (hf : ∀ x a, Follows x.allot (f x a).allot) (xs : List α) (s : State) :
    Follows s.allot (foldS f s xs).allot :=
  foldS_inv (fun x => Follows s.allot x.allot) f xs s (Follows.refl _) fun x a hx => hx.trans (hf x a)

theorem follows_pruneWakes (s : State) : Follows s.allot (pruneWakes s).allot := by
  refine follows_filter fun g hf => ?_
  obtain hs | hc := hf
  · simp [hs]
  · have : 256 ≤ g.client := by omega
    simp [this]

/-- The requests of the arbiter as it follows, before it looks at the overdraft. -/
def requested (s : State) : State :=
  engineRequest (foldS breqRequest (if operating (pruneWakes s) then exitRequests (pruneWakes s) else pruneWakes s) (upTo 8))

theorem follow_granting (h : arbGrants s = true) : follow s =
    markUnfit { requested s with allot := { (requested s).allot with
      overdraft := (requested s).allot.overdraft && freeAllot (requested s) < 0 } } := by
  unfold follow
  rw [if_pos h]
  rfl

theorem follow_idle (h : arbGrants s = false) : follow s = s := by
  unfold follow
  rw [h]
  rfl

theorem follows_requested (s : State) : Follows s.allot (requested s).allot := by
  have hexit : Follows s.allot (if operating (pruneWakes s) then exitRequests (pruneWakes s) else pruneWakes s).allot := by
    split
    · exact (follows_pruneWakes s).trans (follows_foldS (fun x n => follows_exitRequest x _) _ _)
    · exact follows_pruneWakes s
  exact (hexit.trans (follows_foldS follows_breqRequest _ _)).trans (follows_engineRequest _)

/-- The arbiter's following ends an overdraft too. -/
theorem follows_follow (s : State) : Follows s.allot { (follow s).allot with overdraft := s.allot.overdraft } := by
  cases h : arbGrants s with
  | false =>
    rw [follow_idle h]
    exact Follows.refl _
  | true =>
    rw [follow_granting h]
    have hr := follows_requested s
    exact ⟨hr.level, hr.pfail, hr.lean, rfl, hr.breq, hr.barred, hr.cntViol, hr.grants, hr.firm⟩

/-! ## The allotments after a command -/

/-- The state on which the arbiter follows. -/
def closing (b x : State) : State := endCclk (settlePermit b (logMode b (nvDone b x)))

theorem allot_settle (b x : State) : (settle b x).allot = (follow (closing b x)).allot := by
  obtain ⟨h, e⟩ := noteHwm_eq (flushHouse (arbFollow (settlePermit b (logMode b (nvDone b x)))))
  unfold settle
  rw [e]
  exact flushHouse_allot _

/-- What decides the arbiter's steps, but for what INTIDs wait for. -/
structure SameArb (b e : State) : Prop where
  allot : e.allot = b.allot
  pw : e.pw = b.pw
  cfg : e.cfg = b.cfg
  links : e.links = b.links
  au : e.au = b.au

theorem SameArb.refl (s : State) : SameArb s s := ⟨rfl, rfl, rfl, rfl, rfl⟩

theorem SameArb.trans (h : SameArb s b) (k : SameArb b e) : SameArb s e :=
  ⟨k.allot.trans h.allot, k.pw.trans h.pw, k.cfg.trans h.cfg, k.links.trans h.links, k.au.trans h.au⟩

theorem sameArb_evW (s : State) (k : Nat) : SameArb s (evW s k) := by
  unfold evW
  dsimp only
  split
  · exact ⟨rfl, rfl, rfl, rfl, rfl⟩
  · exact SameArb.refl s

theorem sameArb_closing (b x : State) : SameArb x (closing b x) := by
  have hdone : SameArb x (nvDone b x) := by
    unfold nvDone
    split <;> exact ⟨rfl, rfl, rfl, rfl, rfl⟩
  have hlog : SameArb x (logMode b (nvDone b x)) := by
    refine hdone.trans ?_
    unfold logMode logEntry pushJob
    dsimp only
    split
    · split <;> exact ⟨rfl, rfl, rfl, rfl, rfl⟩
    · exact SameArb.refl _
  have hpermit : SameArb x (settlePermit b (logMode b (nvDone b x))) := by
    unfold settlePermit withdrawAll
    split
    · exact foldS_inv (SameArb x) _ _ _ hlog fun y p hy => hy.trans (sameArb_evW y _)
    · exact hlog
  exact ⟨hpermit.allot, hpermit.pw, hpermit.cfg, hpermit.links, hpermit.au⟩

theorem follows_settle (b x : State) : Follows x.allot { (settle b x).allot with overdraft := x.allot.overdraft } := by
  rw [allot_settle, ← (sameArb_closing b x).allot]
  exact follows_follow _

/-- Where the arbiter does not grant, it does not follow either. -/
theorem allot_settle_idle (h : arbGrants x = false) (b : State) : (settle b x).allot = x.allot := by
  have hs := sameArb_closing b x
  have hi : arbGrants (closing b x) = false := by
    unfold arbGrants operating at h ⊢
    rw [hs.pw]
    exact h
  rw [allot_settle, follow_idle hi, hs.allot]

/-! ## The budget -/

theorem budget_congr (ha : e.allot.pfail = s.allot.pfail) (hl : e.allot.level = s.allot.level) (hp : e.pw = s.pw)
    (hc : e.cfg.live = s.cfg.live) : budget e = budget s := by
  unfold budget thrActs operating levelEntry regLive liveAt
  rw [ha, hl, hp, hc]

theorem budget_settle (b x : State) : budget (settle b x) = budget x := by
  have hf := follows_settle b x
  exact budget_congr hf.pfail hf.level (settle_pw b x) (settle_live b x)

theorem freeAllot_congr (hb : budget e = budget s) (hg : e.allot.grants = s.allot.grants) : freeAllot e = freeAllot s := by
  unfold freeAllot heldSum
  rw [hb, hg]

/-- Fewer grants leave more free. -/
theorem freeAllot_le (hb : budget e = budget s) (hg : e.allot.grants.Sublist s.allot.grants) : freeAllot s ≤ freeAllot e := by
  have hsum : heldSum e ≤ heldSum s := (hg.map _).sum_le_sum fun _ _ => Nat.zero_le _
  unfold freeAllot
  omega

theorem onAllot_foldS {α : Type} {f : State → α → State} (hf : ∀ x a, OnAllot x (f x a)) (xs : List α) (s : State) :
    OnAllot s (foldS f s xs) :=
  foldS_inv (OnAllot s) f xs s (onAllot_refl s) fun x a hx => hx.trans (hf x a)

theorem onAllot_requested (s : State) : OnAllot s (requested s) := by
  have hbreq : ∀ x n, OnAllot x (breqRequest x n) := fun x n => by
    unfold breqRequest
    dsimp only
    split
    · exact onAllot_raiseReq _ _ _ _ _
    · exact onAllot_refl x
  have hengine : ∀ x, OnAllot x (engineRequest x) := fun x => by
    unfold engineRequest
    split
    · exact onAllot_raiseReq _ _ _ _ _
    · exact onAllot_refl x
  have hprune : OnAllot s (pruneWakes s) := ⟨_, rfl, rfl⟩
  have hexit : OnAllot s (if operating (pruneWakes s) then exitRequests (pruneWakes s) else pruneWakes s) := by
    split
    · exact hprune.trans (onAllot_foldS (fun x n => onAllot_exitRequest x _) _ _)
    · exact hprune
  exact (hexit.trans (onAllot_foldS hbreq _ _)).trans (hengine _)

/-- The overdraft ends with what caused it. -/
theorem overdraft_settle (h : arbGrants x = true) (b : State) (hx : x.allot.overdraft = true ↔ freeAllot x < 0) :
    (settle b x).allot.overdraft = true ↔ freeAllot (settle b x) < 0 := by
  have hs := sameArb_closing b x
  have hg : arbGrants (closing b x) = true := by
    unfold arbGrants operating at h ⊢
    rw [hs.pw]
    exact h
  have hallot := allot_settle b x
  rw [follow_granting hg] at hallot
  obtain ⟨a, hw, -⟩ := onAllot_requested (closing b x)
  have hfollows := follows_requested (closing b x)
  rw [hs.allot] at hfollows
  have hbudget : budget (requested (closing b x)) = budget x := by
    refine budget_congr hfollows.pfail hfollows.level ?_ ?_ <;> rw [hw]
    · exact hs.pw
    · exact congrArg (·.live) hs.cfg
  have hfree : freeAllot (settle b x) = freeAllot (requested (closing b x)) :=
    freeAllot_congr ((budget_settle b x).trans hbudget.symm) (by rw [hallot]; rfl)
  have hle : freeAllot x ≤ freeAllot (requested (closing b x)) := freeAllot_le hbudget hfollows.grants
  have hover : (requested (closing b x)).allot.overdraft = x.allot.overdraft := hfollows.overdraft
  rw [hfree, hallot]
  change ((requested (closing b x)).allot.overdraft && decide (freeAllot (requested (closing b x)) < 0)) = true ↔ _
  rw [hover, Bool.and_eq_true, decide_eq_true_eq, hx]
  omega

end Sys2Proof.Machine
end

section
/-!
PROOFS. Chapter 13: what follows a change of the budget, the reserve or the grants (R286, R298, R299, R302).
-/
namespace Sys2Proof.Machine
open Sys2Proof.Safety Sys2Proof.Claims

variable {s b e u x before : State} {c n : Nat} {l : Link} {g h : Grant} {q : Req}

/-! ## Revocation (R299) -/

/-- `e` is `b` with grants revoked: no request, no flag and no other field of the arbiter has changed. -/
structure Revoked (b e : State) : Prop where
  only : ∃ gs k v f, e = { b with allot := { b.allot with grants := gs, cntRevoke := k }, nv := v, free := f }
  held : heldSum e ≤ heldSum b
  jobs : b.nv.jobs = [] → e.nv.jobs = []

theorem Revoked.refl (s : State) : Revoked s s := ⟨⟨_, _, _, _, rfl⟩, le_rfl, fun h => h⟩

theorem Revoked.trans (h : Revoked s b) (k : Revoked b e) : Revoked s e := by
  obtain ⟨⟨gs, m, v, f, rfl⟩, hheld, hjobs⟩ := h
  obtain ⟨⟨gs', m', v', f', rfl⟩, hheld', hjobs'⟩ := k
  exact ⟨⟨gs', m', v', f', rfl⟩, hheld'.trans hheld, fun hj => hjobs' (hjobs hj)⟩

theorem revoked_freeGrant (s : State) (c : Nat) : Revoked s (freeGrant s c) :=
  ⟨⟨_, _, _, _, rfl⟩, (List.filter_sublist.map _).sum_le_sum fun _ _ => Nat.zero_le _, fun h => h⟩

theorem revoked_abortErase (s : State) : Revoked s (abortErase s) := by
  unfold abortErase
  split
  · refine ⟨⟨_, _, _, _, rfl⟩, le_rfl, fun h => ?_⟩
    dsimp only
    rw [h]
  · exact Revoked.refl s

/-- A grant under revocation. -/
def underRevocation (s : State) (c : Nat) : State :=
  { s with allot := { s.allot with grants := s.allot.grants.map fun h => if h.client = c then { h with revoking := true } else h } }

theorem revoked_underRevocation (s : State) (c : Nat) : Revoked s (underRevocation s c) := by
  refine ⟨⟨_, _, _, _, rfl⟩, le_of_eq ?_, fun h => h⟩
  unfold heldSum underRevocation
  rw [List.map_map]
  congr 1
  refine List.map_congr_left fun g _ => ?_
  change (if g.client = c then { g with revoking := true } else g).held = g.held
  split <;> rfl

theorem revokeOne_eq (s : State) (g : Grant) : revokeOne s g =
    if revokeStep g = 1 then freeGrant s g.client
    else if 2 ≤ revokeStep g && revokeStep g ≤ 4 then
      if g.client = cERASE then
        freeGrant (abortErase { underRevocation s g.client with allot := { (underRevocation s g.client).allot with
          cntRevoke := s.allot.cntRevoke + 1 } }) cERASE
      else { underRevocation s g.client with allot := { (underRevocation s g.client).allot with cntRevoke := s.allot.cntRevoke + 1 } }
    else underRevocation s g.client := rfl

theorem revoked_counted (h : Revoked s e) (k : Word) : Revoked s { e with allot := { e.allot with cntRevoke := k } } := by
  obtain ⟨⟨gs, m, v, f, rfl⟩, hheld, hjobs⟩ := h
  exact ⟨⟨gs, k, v, f, rfl⟩, hheld, hjobs⟩

theorem revoked_revokeOne (s : State) (g : Grant) : Revoked s (revokeOne s g) := by
  have hunder := revoked_counted (revoked_underRevocation s g.client) (s.allot.cntRevoke + 1)
  rw [revokeOne_eq]
  split
  · exact revoked_freeGrant s _
  · split
    · split
      · exact (hunder.trans (revoked_abortErase _)).trans (revoked_freeGrant _ _)
      · exact hunder
    · exact revoked_underRevocation s _

theorem revoked_revoke (s : State) : Revoked s (revoke s) := by
  refine foldS_inv (Revoked s) _ _ s (Revoked.refl s) fun x g hx => ?_
  split
  · exact hx
  · exact hx.trans (revoked_revokeOne x g)

theorem mem_revokeOne (hg : g ∈ s.allot.grants) (hne : g.client ≠ h.client) : g ∈ (revokeOne s h).allot.grants := by
  have hfree : ∀ x : State, g ∈ x.allot.grants → g ∈ (freeGrant x h.client).allot.grants := fun x hx =>
    List.mem_filter.2 ⟨hx, decide_eq_true hne⟩
  have hunder : g ∈ (underRevocation s h.client).allot.grants := List.mem_map.2 ⟨g, hg, if_neg hne⟩
  rw [revokeOne_eq]
  split
  · exact hfree s hg
  · split
    · split
      · next hc =>
        rw [← hc]
        refine hfree _ ?_
        rw [abortErase_grants]
        exact hunder
      · exact hunder
    · exact hunder

theorem mem_insertBy {α : Type} {le : α → α → Bool} {a y : α} {xs : List α} : y ∈ insertBy le a xs ↔ y = a ∨ y ∈ xs := by
  induction xs with
  | nil => simp [insertBy]
  | cons z xs ih =>
    unfold insertBy
    split
    · simp
    · simp [ih]
      tauto

theorem mem_sortBy {α : Type} {le : α → α → Bool} {y : α} {xs : List α} : y ∈ sortBy le xs ↔ y ∈ xs := by
  induction xs with
  | nil => simp [sortBy]
  | cons z xs ih =>
    unfold sortBy
    rw [mem_insertBy, ih, List.mem_cons]

/-- A saffron grant is not revoked, nor is another taken for it. -/
theorem mem_revoke (hn : (s.allot.grants.map (·.client)).Nodup) (hg : g ∈ s.allot.grants) (hs : g.saff = true) :
    g ∈ (revoke s).allot.grants := by
  have hne : ∀ h ∈ revokeOrder s, g.client ≠ h.client := fun h hh hc => by
    unfold revokeOrder at hh
    rw [mem_sortBy, List.mem_filter, Bool.and_eq_true, Bool.not_eq_true'] at hh
    obtain ⟨hmem, hsaff, -⟩ := hh
    have heq : g = h := List.inj_on_of_nodup_map hn hg hmem hc
    rw [heq, hsaff] at hs
    exact Bool.false_ne_true hs
  unfold revoke foldS
  generalize revokeOrder s = order at hne
  clear hn hs
  induction order generalizing s with
  | nil => exact hg
  | cons h order ih =>
    refine ih ?_ fun k hk => hne k (List.mem_cons_of_mem _ hk)
    dsimp only
    split
    · exact hg
    · exact mem_revokeOne hg (hne h (List.mem_cons_self ..))

/-! ## The stages of a change (R286, R298, R302) -/

def budgetFlagged (before s : State) : State := if budget before ≠ budget s then house s hBUDGET else s

def overdrawn (s : State) : State :=
  if freeAllot s < 0 && !s.allot.overdraft then house { s with allot := { s.allot with overdraft := true } } hOVERDRAFT else s

def aimed (s : State) : State := if aimMet s then s else revoke s

def recovered (s : State) : State := if 0 ≤ freeAllot s then { s with allot := { s.allot with overdraft := false } } else s

def leaned (s : State) : State :=
  let enter := fld (regLive s 0x410) 0 12
  let leave := max enter (fld (regLive s 0x410) 12 12)
  let lean := if s.allot.lean then budget s < leave else budget s < enter
  { s with allot := { s.allot with lean := lean } }

theorem arbSettle_eq (before s : State) :
    arbSettle before s = markUnfit (leaned (recovered (aimed (overdrawn (budgetFlagged before s))))) := rfl

/-- `e` is `b` but for flags, the overdraft, LEAN, the marks of unfit requests, and what revocation takes. -/
structure Adjusts (b e : State) : Prop where
  only : ArbOnly b e
  level : e.allot.level = b.allot.level
  pfail : e.allot.pfail = b.allot.pfail
  breq : e.allot.breq = b.allot.breq
  barred : e.allot.barred = b.allot.barred
  cntViol : e.allot.cntViol = b.allot.cntViol
  reqs : e.allot.reqs.map (·.client) = b.allot.reqs.map (·.client)
  jobs : b.nv.jobs = [] → e.nv.jobs = []

theorem Adjusts.trans (h : Adjusts s b) (k : Adjusts b e) : Adjusts s e :=
  ⟨h.only.trans k.only, k.level.trans h.level, k.pfail.trans h.pfail, k.breq.trans h.breq, k.barred.trans h.barred,
   k.cntViol.trans h.cntViol, k.reqs.trans h.reqs, fun hj => k.jobs (h.jobs hj)⟩

theorem Revoked.adjusts (h : Revoked s e) : Adjusts s e := by
  obtain ⟨⟨gs, m, v, f, rfl⟩, -, hjobs⟩ := h
  exact ⟨⟨_, _, _, _, rfl⟩, rfl, rfl, rfl, rfl, rfl, rfl, hjobs⟩

theorem adjusts_budgetFlagged (before s : State) : Adjusts s (budgetFlagged before s) := by
  unfold budgetFlagged
  split <;> exact ⟨⟨_, _, _, _, rfl⟩, rfl, rfl, rfl, rfl, rfl, rfl, fun h => h⟩

theorem adjusts_overdrawn (s : State) : Adjusts s (overdrawn s) := by
  unfold overdrawn
  split <;> exact ⟨⟨_, _, _, _, rfl⟩, rfl, rfl, rfl, rfl, rfl, rfl, fun h => h⟩

theorem adjusts_aimed (s : State) : Adjusts s (aimed s) := by
  unfold aimed
  split
  · exact (Revoked.refl s).adjusts
  · exact (revoked_revoke s).adjusts

theorem adjusts_recovered (s : State) : Adjusts s (recovered s) := by
  unfold recovered
  split <;> exact ⟨⟨_, _, _, _, rfl⟩, rfl, rfl, rfl, rfl, rfl, rfl, fun h => h⟩

theorem adjusts_leaned (s : State) : Adjusts s (leaned s) := ⟨⟨_, _, _, _, rfl⟩, rfl, rfl, rfl, rfl, rfl, rfl, fun h => h⟩

theorem adjusts_markUnfit (s : State) : Adjusts s (markUnfit s) := by
  refine ⟨⟨_, _, _, _, rfl⟩, rfl, rfl, rfl, rfl, rfl, ?_, fun h => h⟩
  unfold markUnfit
  rw [List.map_map]
  rfl

theorem adjusts_arbSettle (before s : State) : Adjusts s (arbSettle before s) :=
  (((((adjusts_budgetFlagged before s).trans (adjusts_overdrawn _)).trans (adjusts_aimed _)).trans (adjusts_recovered _)).trans
    (adjusts_leaned _)).trans (adjusts_markUnfit _)

theorem ArbOnly.frame (h : ArbOnly s e) : e.pw = s.pw ∧ e.cfg = s.cfg ∧ e.irq = s.irq ∧ e.links = s.links ∧ e.sqAcc = s.sqAcc ∧
    e.au = s.au ∧ e.stew = s.stew := by
  obtain ⟨a, v, f, x, rfl⟩ := h
  exact ⟨rfl, rfl, rfl, rfl, rfl, rfl, rfl⟩

theorem ArbOnly.cfg (h : ArbOnly s e) : e.cfg = s.cfg := by
  obtain ⟨a, v, f, x, rfl⟩ := h
  rfl

theorem ArbOnly.irq (h : ArbOnly s e) : e.irq = s.irq := by
  obtain ⟨a, v, f, x, rfl⟩ := h
  rfl

theorem ArbOnly.links (h : ArbOnly s e) : e.links = s.links := by
  obtain ⟨a, v, f, x, rfl⟩ := h
  rfl

theorem Adjusts.budget (h : Adjusts s e) : budget e = budget s := by
  obtain ⟨hpw, hcfg, -⟩ := h.only.frame
  exact budget_congr h.pfail h.level hpw (congrArg (·.live) hcfg)

/-- BUDGET_CHANGE is flagged with the change (R286). -/
theorem budgetChange_arbSettle (before s : State) :
    (arbSettle before s).hsAcc.getLsbD 5 = true ↔ s.hsAcc.getLsbD 5 = true ∨ budget before ≠ budget s := by
  have hover : ∀ x, (overdrawn x).hsAcc.getLsbD 5 = x.hsAcc.getLsbD 5 := fun x => by
    unfold overdrawn
    split
    · rw [house_hsAcc, BitVec.getLsbD_or]
      exact Bool.or_false _
    · rfl
  have haim : ∀ x, (aimed x).hsAcc = x.hsAcc := fun x => by
    unfold aimed
    split
    · rfl
    · obtain ⟨gs, k, v, f, h⟩ := (revoked_revoke x).only
      rw [h]
  have hrec : ∀ x, (recovered x).hsAcc = x.hsAcc := fun x => by
    unfold recovered
    split <;> rfl
  rw [arbSettle_eq]
  change (recovered (aimed (overdrawn (budgetFlagged before s)))).hsAcc.getLsbD 5 = true ↔ _
  rw [hrec, haim, hover]
  unfold budgetFlagged
  split
  · next h => simp [h, hBUDGET]
  · next h => simp [h]

/-- LEAN between its two thresholds (R302). -/
theorem lean_arbSettle (before s : State) : (arbSettle before s).allot.lean = true ↔
    budget s < (if s.allot.lean = true then max (fld (regLive s 0x410) 0 12) (fld (regLive s 0x410) 12 12) else fld (regLive s 0x410) 0 12) := by
  have hlean : ∀ x, Adjusts s x → x.allot.lean = s.allot.lean → ((markUnfit (leaned x)).allot.lean = true ↔ budget s <
      (if s.allot.lean = true then max (fld (regLive s 0x410) 0 12) (fld (regLive s 0x410) 12 12) else fld (regLive s 0x410) 0 12)) := by
    intro x hx hl
    obtain ⟨-, hcfg, -⟩ := hx.only.frame
    have hreg : regLive x 0x410 = regLive s 0x410 := by
      unfold regLive liveAt
      rw [hcfg]
    change decide (if x.allot.lean = true then budget x < max (fld (regLive x 0x410) 0 12) (fld (regLive x 0x410) 12 12)
      else budget x < fld (regLive x 0x410) 0 12) = true ↔ _
    rw [hx.budget, hl, hreg, decide_eq_true_iff]
    split <;> exact Iff.rfl
  have hkeep : (recovered (aimed (overdrawn (budgetFlagged before s)))).allot.lean = s.allot.lean := by
    have h1 : (budgetFlagged before s).allot.lean = s.allot.lean := by unfold budgetFlagged; split <;> rfl
    have h2 : ∀ x, (overdrawn x).allot.lean = x.allot.lean := fun x => by unfold overdrawn; split <;> rfl
    have h3 : ∀ x, (aimed x).allot.lean = x.allot.lean := fun x => by
      unfold aimed
      split
      · rfl
      · obtain ⟨gs, k, v, f, h⟩ := (revoked_revoke x).only
        rw [h]
    have h4 : ∀ x, (recovered x).allot.lean = x.allot.lean := fun x => by unfold recovered; split <;> rfl
    rw [h4, h3, h2, h1]
  exact hlean _ ((((adjusts_budgetFlagged before s).trans (adjusts_overdrawn _)).trans (adjusts_aimed _)).trans (adjusts_recovered _)) hkeep

/-- The overdraft stands where FREE is negative (R298). -/
theorem overdraft_arbSettle (before s : State) : (arbSettle before s).allot.overdraft = true ↔ freeAllot (arbSettle before s) < 0 := by
  have haim : ∀ x, freeAllot x ≤ freeAllot (aimed x) ∧ (aimed x).allot.overdraft = x.allot.overdraft := fun x => by
    unfold aimed
    split
    · exact ⟨le_rfl, rfl⟩
    · have hr := revoked_revoke x
      have hb := hr.adjusts.budget
      refine ⟨?_, ?_⟩
      · have := hr.held
        unfold freeAllot
        omega
      · obtain ⟨gs, k, v, f, h⟩ := hr.only
        rw [h]
  have hover : ∀ x, freeAllot (overdrawn x) = freeAllot x ∧ (freeAllot x < 0 → (overdrawn x).allot.overdraft = true) := fun x => by
    unfold overdrawn
    split
    · exact ⟨rfl, fun _ => rfl⟩
    · next h =>
      refine ⟨rfl, fun hf => ?_⟩
      simpa [hf] using h
  generalize hy : overdrawn (budgetFlagged before s) = y
  obtain ⟨hfree, hflag⟩ := hover (budgetFlagged before s)
  rw [hy] at hfree hflag
  obtain ⟨hle, hkeep⟩ := haim y
  rw [arbSettle_eq, hy]
  have hrec : ∀ z, freeAllot (recovered z) = freeAllot z := fun z => by
    unfold recovered
    split <;> rfl
  have hend : ∀ z, freeAllot (markUnfit (leaned z)) = freeAllot z ∧ (markUnfit (leaned z)).allot.overdraft = z.allot.overdraft :=
    fun z => ⟨rfl, rfl⟩
  rw [(hend _).1, (hend _).2, hrec]
  unfold recovered
  split
  · next h => simp [h]
  · next h =>
    rw [hkeep, hflag (by omega)]
    simp only [true_iff]
    omega

theorem mem_arbSettle (hn : (s.allot.grants.map (·.client)).Nodup) (hg : g ∈ s.allot.grants) (hs : g.saff = true) :
    g ∈ (arbSettle before s).allot.grants := by
  have h1 : (overdrawn (budgetFlagged before s)).allot.grants = s.allot.grants := by
    unfold overdrawn budgetFlagged
    split <;> split <;> rfl
  rw [arbSettle_eq]
  change g ∈ (recovered (aimed _)).allot.grants
  have hrec : ∀ x, (recovered x).allot.grants = x.allot.grants := fun x => by unfold recovered; split <;> rfl
  rw [hrec]
  unfold aimed
  split
  · rw [h1]
    exact hg
  · exact mem_revoke (by rw [h1]; exact hn) (by rw [h1]; exact hg) hs

end Sys2Proof.Machine
end

section
/-!
PROOFS. Chapter 13: the arbiter's own events, settled (R283, R284, R289 to R293, R296 to R298, R302).
-/
namespace Sys2Proof.Machine
open Sys2Proof.Safety Sys2Proof.Claims

variable {s b e u x before : State} {c n m : Nat} {l : Link} {g h : Grant} {q p : Req} {saff : Bool}

/-! ## Requests while the arbiter follows -/

theorem hasReq_iff : hasReq s c = true ↔ c ∈ s.allot.reqs.map (·.client) := by
  simp [hasReq]

theorem hasReq_congr (h : e.allot.reqs.map (·.client) = s.allot.reqs.map (·.client)) : hasReq e c = hasReq s c := by
  rw [Bool.eq_iff_iff, hasReq_iff, hasReq_iff, h]

theorem hasReq_markUnfit (s : State) : hasReq (markUnfit s) c = hasReq s c := hasReq_congr (adjusts_markUnfit s).reqs

theorem hasReq_dropReq_self (s : State) (c : Nat) : hasReq (dropReq s c) c = false := by
  simp [hasReq, dropReq]

theorem hasReq_filter {f : Req → Bool} (h : hasReq s c = false) (hr : e.allot.reqs = s.allot.reqs.filter f) : hasReq e c = false := by
  rw [← Bool.not_eq_true, hasReq_iff] at h ⊢
  rw [hr]
  exact fun hm => h (List.map_subset _ (List.filter_subset_self _) hm)

/-- A request raised for one client is none of another's. -/
theorem hasReq_raiseReq (h : hasReq s c = false) (hne : c ≠ m) (p : BitVec 8) (x : Option Link) (k : Option Nat) :
    hasReq (raiseReq s m p x k) c = false := by
  unfold raiseReq
  split
  · rw [hasReq_markUnfit, ← Bool.not_eq_true, hasReq_iff]
    rw [← Bool.not_eq_true, hasReq_iff] at h
    intro hm
    refine h ?_
    obtain ⟨r, hr, hc⟩ := List.mem_map.1 hm
    obtain ⟨r0, hr0, rfl⟩ := List.mem_map.1 hr
    refine List.mem_map.2 ⟨r0, hr0, ?_⟩
    rw [← hc]
    split <;> rfl
  · have hd : hasReq (dropReq s m) c = false := hasReq_filter h rfl
    rw [hasReq_markUnfit]
    unfold hasReq at hd ⊢
    dsimp only
    rw [List.any_append, hd]
    simp [hne.symm]

theorem hasReq_exitRequest (h : hasReq s c = false) (hc : c ≠ exitClient l ∨ hasGrant s c = true) : hasReq (exitRequest s l) c = false := by
  unfold exitRequest
  dsimp only
  split
  · split
    · next hw =>
      refine hasReq_raiseReq h ?_ _ _ _
      rintro rfl
      obtain hne | hg := hc
      · exact hne rfl
      · unfold exitWanted at hw
        rw [hg] at hw
        simp at hw
    · exact hasReq_filter h rfl
  · exact hasReq_filter h rfl

/-- The exit request of a link, with its grant still to come. -/
theorem hasGrant_exitRequest (hg : hasGrant s c = true) (hne : c ≠ exitClient l) : hasGrant (exitRequest s l) c = true := by
  unfold exitRequest
  dsimp only
  split
  · split
    · rw [hasGrant_iff, clients_of_grants (raiseReq_grants _ _ _ _ _), ← hasGrant_iff]
      exact hg
    · exact hg
  · rw [hasGrant_iff] at hg ⊢
    obtain ⟨g, hmem, rfl⟩ := List.mem_map.1 hg
    exact List.mem_map.2 ⟨g, List.mem_filter.2 ⟨hmem, by simp [hne]⟩, rfl⟩

theorem hasReq_exitRequests (h : hasReq s c = false) (hc : (∀ l, c ≠ exitClient l) ∨ hasGrant s c = true) :
    hasReq (exitRequests s) c = false := by
  by_cases hex : ∃ l, c = exitClient l
  · obtain ⟨l, hl⟩ := hex
    have hgrant : hasGrant s c = true := hc.resolve_left fun hall => hall l hl
    have hnum : BitVec.ofNat 3 l.toNat = l := by rw [BitVec.ofNat_toNat, BitVec.setWidth_eq]
    have hdiff : ∀ m, m ∈ upTo 8 → m ≠ l.toNat → c ≠ exitClient (BitVec.ofNat 3 m) := fun m hm hmn => by
      have := List.mem_range.1 hm
      rw [hl]
      unfold exitClient
      rw [BitVec.toNat_ofNat]
      omega
    exact foldS_once (f := fun x n => exitRequest x (BitVec.ofNat 3 n)) (Q := fun x => hasReq x c = false) (a := l.toNat)
      (R := fun x => hasReq x c = false ∧ hasGrant x c = true)
      (fun x m hm hmn hx => ⟨hasReq_exitRequest hx.1 (.inr hx.2), hasGrant_exitRequest hx.2 (hdiff m hm hmn)⟩)
      (fun x m hm hmn hx => hasReq_exitRequest hx (.inl (hdiff m hm hmn))) (fun x hx => hasReq_exitRequest hx.1 (.inr hx.2))
      List.nodup_range (List.mem_range.2 l.isLt) ⟨h, hgrant⟩
  · exact foldS_inv (fun x => hasReq x c = false) _ _ s h fun x m hx => hasReq_exitRequest hx (.inl fun hm => hex ⟨_, hm⟩)

/-- A grant of the store, the engine or an external client stands through the arbiter's steps. -/
theorem hasGrant_follows (hc : 264 ≤ c) (h : Follows s.allot e.allot) (hg : hasGrant s c = true) : hasGrant e c = true := by
  rw [hasGrant_iff] at hg ⊢
  obtain ⟨g, hmem, rfl⟩ := List.mem_map.1 hg
  exact List.mem_map.2 ⟨g, h.firm g hmem (.inr hc), rfl⟩

theorem hasReq_breqRequest (h : hasReq s c = false)
    (hc : c ≠ extClient n ∨ hasGrant s c = true ∨ s.allot.breq.getLsbD n = false) : hasReq (breqRequest s n) c = false := by
  unfold breqRequest
  dsimp only
  split
  · next hr =>
    simp only [Bool.and_eq_true, Bool.not_eq_true'] at hr
    obtain ⟨⟨⟨hb, -⟩, hg⟩, -⟩ := hr
    refine hasReq_raiseReq h ?_ _ _ _
    rintro rfl
    obtain hne | hgr | hbr := hc
    · exact hne rfl
    · rw [hgr] at hg
      exact Bool.true_eq_false.mp hg
    · rw [hbr] at hb
      exact Bool.false_ne_true hb
  · exact h

theorem hasReq_engineRequest (h : hasReq s c = false) (hc : c ≠ cAUTH ∨ hasGrant s c = true) : hasReq (engineRequest s) c = false := by
  unfold engineRequest
  split
  · next hr =>
    simp only [Bool.and_eq_true, Bool.not_eq_true'] at hr
    obtain ⟨⟨-, hg⟩, -⟩ := hr
    refine hasReq_raiseReq h ?_ _ _ _
    rintro rfl
    obtain hne | hgr := hc
    · exact hne rfl
    · rw [hgr] at hg
      exact Bool.true_eq_false.mp hg
  · exact h

/-- A client for which the arbiter raises no request: it holds its grant, its BREQ is low, or it is a target. -/
def Served (s : State) (c : Nat) : Prop := hasGrant s c = true ∨ (∃ n, c = extClient n ∧ s.allot.breq.getLsbD n = false) ∨ c < 256

theorem hasGrant_pruneWakes (hc : 256 ≤ c) (h : hasGrant s c = true) : hasGrant (pruneWakes s) c = true := by
  rw [hasGrant_iff] at h ⊢
  obtain ⟨g, hmem, rfl⟩ := List.mem_map.1 h
  exact List.mem_map.2 ⟨g, List.mem_filter.2 ⟨hmem, by simp [hc]⟩, rfl⟩

/-- The requests of external clients and of the engine. -/
theorem hasReq_of_follows (hs : Served s c) (hf : Follows s.allot x.allot) (h : hasReq x c = false) :
    (∀ n, hasReq (breqRequest x n) c = false) ∧ hasReq (engineRequest x) c = false := by
  by_cases hc : c < 264
  · exact ⟨fun n => hasReq_breqRequest h (.inl (by unfold extClient; omega)), hasReq_engineRequest h (.inl (by unfold cAUTH; omega))⟩
  · obtain hg | ⟨k, rfl, hb⟩ | hlt := hs
    · have hgx := hasGrant_follows (by omega) hf hg
      exact ⟨fun n => hasReq_breqRequest h (.inr (.inl hgx)), hasReq_engineRequest h (.inr hgx)⟩
    · refine ⟨fun n => hasReq_breqRequest h ?_, hasReq_engineRequest h (.inl (by unfold extClient cAUTH; omega))⟩
      by_cases hkn : n = k
      · subst hkn
        exact .inr (.inr (by rw [hf.breq]; exact hb))
      · exact .inl (by unfold extClient; omega)
    · omega

theorem hasReq_follow (h : hasReq s c = false) (hs : Served s c) : hasReq (follow s) c = false := by
  cases hg : arbGrants s with
  | false =>
    rw [follow_idle hg]
    exact h
  | true =>
    have hprune : hasReq (pruneWakes s) c = false := hasReq_filter h rfl
    have hexit : (∀ l, c ≠ exitClient l) ∨ hasGrant (pruneWakes s) c = true := by
      by_cases hc : c < 256
      · exact .inl fun l => by unfold exitClient; omega
      · obtain hg | ⟨k, rfl, -⟩ | hlt := hs
        · exact .inr (hasGrant_pruneWakes (by omega) hg)
        · exact .inl fun l => by
            have := exitClient_lt l
            unfold extClient
            omega
        · omega
    have hexits : hasReq (if operating (pruneWakes s) then exitRequests (pruneWakes s) else pruneWakes s) c = false ∧
        Follows s.allot (if operating (pruneWakes s) then exitRequests (pruneWakes s) else pruneWakes s).allot := by
      split
      · exact ⟨hasReq_exitRequests hprune hexit, (follows_pruneWakes s).trans (follows_foldS (fun x n => follows_exitRequest x _) _ _)⟩
      · exact ⟨hprune, follows_pruneWakes s⟩
    have hbreq := foldS_inv (fun y => hasReq y c = false ∧ Follows s.allot y.allot) breqRequest (upTo 8) _ hexits
      fun y n hy => ⟨(hasReq_of_follows hs hy.2 hy.1).1 n, hy.2.trans (follows_breqRequest y n)⟩
    have hreq : hasReq (requested s) c = false := (hasReq_of_follows hs hbreq.2 hbreq.1).2
    rw [follow_granting hg, hasReq_markUnfit]
    exact hreq

theorem hasReq_settle (h : hasReq x c = false) (hs : Served x c) (b : State) : hasReq (settle b x) c = false := by
  have hsame := (sameArb_closing b x).allot
  have hclose : hasReq (follow (closing b x)) c = false := by
    refine hasReq_follow ?_ ?_
    · unfold hasReq at h ⊢
      rw [hsame]
      exact h
    · unfold Served hasGrant at hs ⊢
      rw [hsame]
      exact hs
  unfold hasReq at hclose ⊢
  rw [allot_settle]
  exact hclose

/-! ## A request that an external client has raised -/

/-- Client `c` asks, by a request of serial `m` for nothing but itself. -/
def AsksAt (c m : Nat) (s : State) : Prop := ∃ q ∈ s.allot.reqs, q.client = c ∧ q.order = m ∧ q.exit = none

theorem asksAt_markUnfit (h : AsksAt c m s) : AsksAt c m (markUnfit s) := by
  obtain ⟨q, hq, h1, h2, h3⟩ := h
  exact ⟨_, List.mem_map.2 ⟨q, hq, rfl⟩, h1, h2, h3⟩

theorem asksAt_filter {f : Req → Bool} (h : AsksAt c m s) (hf : ∀ q : Req, q.client = c → f q = true)
    (hr : e.allot.reqs = s.allot.reqs.filter f) : AsksAt c m e := by
  obtain ⟨q, hq, h1, h2, h3⟩ := h
  exact ⟨q, by rw [hr]; exact List.mem_filter.2 ⟨hq, hf q h1⟩, h1, h2, h3⟩

theorem asksAt_raiseReq (h : AsksAt c m s) (hne : c ≠ n) (p : BitVec 8) (x : Option Link) (k : Option Nat) :
    AsksAt c m (raiseReq s n p x k) := by
  unfold raiseReq
  split
  · obtain ⟨q, hq, h1, h2, h3⟩ := h
    refine asksAt_markUnfit ⟨q, List.mem_map.2 ⟨q, hq, if_neg ?_⟩, h1, h2, h3⟩
    rw [h1]
    exact hne
  · have hd : AsksAt c m (dropReq s n) := asksAt_filter h (fun q hq => decide_eq_true (by rw [hq]; exact hne)) rfl
    obtain ⟨q, hq, h1, h2, h3⟩ := hd
    exact asksAt_markUnfit ⟨q, List.mem_append_left _ hq, h1, h2, h3⟩

theorem asksAt_exitRequest (hc : 264 ≤ c) (h : AsksAt c m s) (l : Link) : AsksAt c m (exitRequest s l) := by
  have hne : c ≠ exitClient l := by
    have := exitClient_lt l
    omega
  have hf : ∀ q : Req, q.client = c → decide (q.client ≠ exitClient l) = true := fun q hq => decide_eq_true (by rw [hq]; exact hne)
  unfold exitRequest
  dsimp only
  split
  · split
    · exact asksAt_raiseReq h hne _ _ _
    · exact asksAt_filter h hf rfl
  · exact asksAt_filter h hf rfl

theorem asksAt_hasReq (h : AsksAt c m s) : hasReq s c = true := by
  obtain ⟨q, hq, h1, -⟩ := h
  rw [hasReq_iff]
  exact List.mem_map.2 ⟨q, hq, h1⟩

theorem asksAt_breqRequest (h : AsksAt c m s) (n : Nat) : AsksAt c m (breqRequest s n) := by
  unfold breqRequest
  dsimp only
  split
  · next hr =>
    refine asksAt_raiseReq h ?_ _ _ _
    rintro rfl
    rw [asksAt_hasReq h] at hr
    simp at hr
  · exact h

theorem asksAt_engineRequest (h : AsksAt c m s) : AsksAt c m (engineRequest s) := by
  unfold engineRequest
  split
  · next hr =>
    refine asksAt_raiseReq h ?_ _ _ _
    rintro rfl
    rw [asksAt_hasReq h] at hr
    simp at hr
  · exact h

theorem asksAt_follow (hc : 264 ≤ c) (h : AsksAt c m s) : AsksAt c m (follow s) := by
  cases hg : arbGrants s with
  | false =>
    rw [follow_idle hg]
    exact h
  | true =>
    have hprune : AsksAt c m (pruneWakes s) := asksAt_filter h (fun q hq => by
      have : 256 ≤ q.client := by omega
      simp [this]) rfl
    have hexit : AsksAt c m (if operating (pruneWakes s) then exitRequests (pruneWakes s) else pruneWakes s) := by
      split
      · exact foldS_inv (AsksAt c m) _ _ _ hprune fun y n hy => asksAt_exitRequest hc hy _
      · exact hprune
    have hreq : AsksAt c m (requested s) := asksAt_engineRequest (foldS_inv (AsksAt c m) _ _ _ hexit fun y n hy => asksAt_breqRequest hy n)
    rw [follow_granting hg]
    exact asksAt_markUnfit hreq

theorem asksAt_settle (hc : 264 ≤ c) (h : AsksAt c m x) (b : State) : AsksAt c m (settle b x) := by
  have hclose : AsksAt c m (closing b x) := by
    unfold AsksAt at h ⊢
    rw [(sameArb_closing b x).allot]
    exact h
  have hf := asksAt_follow hc hclose
  unfold AsksAt at hf ⊢
  rw [allot_settle]
  exact hf

end Sys2Proof.Machine
end

section
/-!
PROOFS. Chapter 13: the arbiter's own events, settled (R283, R284, R289 to R293, R296 to R298, R302).
-/
namespace Sys2Proof.Machine
open Sys2Proof.Safety Sys2Proof.Claims

variable {s b e u x before : State} {c k m : Nat} {l : Link} {g h : Grant} {q p : Req} {saff : Bool} {n : BitVec 3} {level : BitVec 4}

/-! ## Closing after a change of grants -/

theorem arbGrants_of_modes (h : s.pw.mode = .operating ∨ s.pw.mode = .safe) : arbGrants s = true := by
  unfold arbGrants operating
  obtain h | h := h <;> rw [h] <;> rfl

theorem arbGrants_congr (h : e.pw = s.pw) : arbGrants e = arbGrants s := by
  unfold arbGrants operating
  rw [h]

theorem hasGrant_mono (h : clients e ⊆ clients s) (hs : hasGrant s c = false) : hasGrant e c = false := by
  rw [← Bool.not_eq_true, hasGrant_iff] at hs ⊢
  exact fun hm => hs (h hm)

theorem hasGrant_settle (h : hasGrant x c = false) (b : State) : hasGrant (settle b x) c = false := hasGrant_mono (clients_settle b x) h

theorem hasGrant_arbSettle (h : hasGrant x c = false) (b : State) : hasGrant (arbSettle b x) c = false :=
  hasGrant_mono (clients_arbSettle b x) h

theorem level_settle (b x : State) : (settle b x).allot.level = x.allot.level := (follows_settle b x).level
theorem lean_settle (b x : State) : (settle b x).allot.lean = x.allot.lean := (follows_settle b x).lean
theorem breq_settle (b x : State) : (settle b x).allot.breq = x.allot.breq := (follows_settle b x).breq
theorem barred_settle (b x : State) : (settle b x).allot.barred = x.allot.barred := (follows_settle b x).barred
theorem cntViol_settle (b x : State) : (settle b x).allot.cntViol = x.allot.cntViol := (follows_settle b x).cntViol

theorem mem_settle (b : State) (hg : g ∈ x.allot.grants) (hf : g.started = true ∨ 264 ≤ g.client) : g ∈ (settle b x).allot.grants :=
  (follows_settle b x).firm g hg hf

/-- Only requests change while no flag is raised. -/
theorem unflagged_allot (s : State) {a : Allot} (h : a.lean = s.allot.lean) : Unflagged s { s with allot := a } := ⟨⟨rfl, rfl, rfl, h, rfl, rfl⟩, rfl⟩

/-! ## The budget level (R283, R284, R286) -/

/-- The level that is adopted. -/
def leveled (s : State) (level : BitVec 4) : State := { s with allot := { s.allot with level := level } }

theorem exec_budgetLevelAdopt (h : cclkRuns s = true) (level : BitVec 4) :
    exec (.budgetLevelAdopt level) s = .next (settle s (arbSettle s (leveled s level))) :=
  congrArg (fun e => Host.Outcome.next (settle s e)) (if_pos h)

theorem cclkRuns_of_modes (h : s.pw.mode = .operating ∨ s.pw.mode = .safe ∨ s.pw.mode = .load ∨ s.pw.mode = .lastGasp) : cclkRuns s = true := by
  unfold cclkRuns
  obtain h | h | h | h := h <;> rw [h]

theorem level_adopted (b s : State) (level : BitVec 4) : (settle b (arbSettle s (leveled s level))).allot.level = level :=
  (level_settle b _).trans (adjusts_arbSettle s _).level

/-- BUDGET_CHANGE as HS_STAT takes it with the flags of the CCLK. -/
theorem budgetFlag_settle (hacc : x.sqAcc = []) (hsq : x.cfg.sq = s.cfg.sq) (b : State) :
    (sqOf (settle b x) 0x300).flags.getLsbD 5 = true ↔ (sqOf s 0x300).flags.getLsbD 5 = true ∨ x.hsAcc.getLsbD 5 = true := by
  have hdone : (nvDone b x).hsAcc.getLsbD 5 = x.hsAcc.getLsbD 5 := by
    unfold nvDone
    split
    · rw [house_hsAcc, BitVec.getLsbD_or]
      exact Bool.or_false _
    · rfl
  have hwidth : decide (5 < 24) = true := rfl
  rw [sqOf_settle_house _ _ (by rw [hacc]; rfl), sqRaise_bit, sqOf_congr hsq, BitVec.getLsbD_setWidth, hdone, hwidth, Bool.true_and,
    Bool.or_eq_true]

theorem budgetFlag_level (hq : Quiet s) (level : BitVec 4) :
    (sqOf (settle s (arbSettle s (leveled s level))) 0x300).flags.getLsbD 5 = true ↔ (sqOf s 0x300).flags.getLsbD 5 = true ∨
      budget (settle s (arbSettle s (leveled s level))) ≠ budget s := by
  have had := adjusts_arbSettle s (leveled s level)
  obtain ⟨-, hcfg, -, -, hacc, -⟩ := had.only.frame
  have hflag := budgetChange_arbSettle s (leveled s level)
  have hzero : (leveled s level).hsAcc.getLsbD 5 = false := by
    change s.hsAcc.getLsbD 5 = false
    rw [hq.1]
    rfl
  rw [hzero, Bool.false_eq_true, false_or] at hflag
  rw [budgetFlag_settle (s := s) (hacc.trans hq.2) (congrArg (·.sq) hcfg), hflag, budget_settle, had.budget]
  exact or_congr Iff.rfl ne_comm

theorem adoptedLater : AdoptedLater := by
  intro s hq hm
  have hidle : arbGrants s = false := by
    unfold arbGrants operating
    obtain h | h := hm <;> rw [h] <;> rfl
  have hrun := cclkRuns_of_modes (s := s) (by tauto)
  refine ⟨fun level => ⟨_, exec_budgetLevelAdopt hrun level, level_adopted s s level, ?_, ?_, ?_⟩, fun n => ?_⟩
  · have had := adjusts_arbSettle s (leveled s level)
    obtain ⟨hpw, -⟩ := had.only.frame
    rw [allot_settle_idle ((arbGrants_congr hpw).trans hidle)]
    have hlen := congrArg List.length had.reqs
    rw [List.length_map, List.length_map] at hlen
    exact hlen
  · rw [settle_links]
    exact (adjusts_arbSettle s (leveled s level)).only.links
  · rw [settle_live]
    exact congrArg (·.live) (adjusts_arbSettle s (leveled s level)).only.cfg
  · have hx : breqAdopt s n.toNat true = { s with allot := { s.allot with breq := s.allot.breq ||| (1#8 <<< n.toNat) } } := by
      unfold breqAdopt
      dsimp only
      rw [hrun]
      have hno : arbGrants { s with allot := { s.allot with breq := s.allot.breq ||| (1#8 <<< n.toNat) } } = false := hidle
      rw [hno]
      rfl
    exact exec_wire hq hx (unflagged_allot s rfl) rfl

section
variable (hq : Quiet s) (hm : s.pw.mode = .operating ∨ s.pw.mode = .safe)
include hq hm

theorem level_events (level : BitVec 4) : ∃ t, exec (.budgetLevelAdopt level) s = .next t ∧ t.allot.level = level ∧
    ((sqOf t 0x300).flags.getLsbD 5 = true ↔ (sqOf s 0x300).flags.getLsbD 5 = true ∨ budget t ≠ budget s) ∧
    (t.allot.overdraft = true ↔ freeAllot t < 0) ∧
    (t.allot.lean = true ↔ budget t < (if s.allot.lean = true then max (fld (regLive s 0x410) 0 12) (fld (regLive s 0x410) 12 12)
      else fld (regLive s 0x410) 0 12)) ∧
    ((s.allot.grants.map (·.client)).Nodup → ∀ g ∈ s.allot.grants, g.saff = true → (g.started = true ∨ 264 ≤ g.client) →
      g ∈ t.allot.grants) ∧
    t.irq.tgts = s.irq.tgts ∧ t.links = s.links ∧ t.cfg.live = s.cfg.live := by
  have had := adjusts_arbSettle s (leveled s level)
  obtain ⟨hpw, hcfg, hirq, hlinks, -⟩ := had.only.frame
  have hg : arbGrants (arbSettle s (leveled s level)) = true := (arbGrants_congr hpw).trans (arbGrants_of_modes hm)
  refine ⟨_, exec_budgetLevelAdopt (cclkRuns_of_modes (by tauto)) level, level_adopted s s level, budgetFlag_level hq level,
    overdraft_settle hg s (overdraft_arbSettle s _), ?_, fun hn g hmem hs hf => ?_, ?_, ?_, ?_⟩
  · rw [budget_settle, had.budget]
    have hl := lean_arbSettle s (leveled s level)
    rw [lean_settle, hl]
    exact Iff.rfl
  · exact mem_settle s (mem_arbSettle hn hmem hs) hf
  · rw [settle_tgts, hirq]
    rfl
  · rw [settle_links, hlinks]
    rfl
  · rw [settle_live, hcfg]
    rfl

end

end Sys2Proof.Machine
end

section
/-!
PROOFS. Chapter 13: external clients, grants and their order, settled (R289 to R293, R296, R297).
-/
namespace Sys2Proof.Machine
open Sys2Proof.Safety Sys2Proof.Claims

variable {s b e u x before : State} {c k m : Nat} {l : Link} {g h : Grant} {q p : Req} {saff : Bool} {n : BitVec 3}

/-! ## External clients (R296, R297) -/

/-- BREQ of client `n` is adopted high. -/
def breqHigh (s : State) (n : BitVec 3) : State := { s with allot := { s.allot with breq := s.allot.breq ||| (1#8 <<< n.toNat) } }

section
variable (hq : Quiet s) (hm : s.pw.mode = .operating ∨ s.pw.mode = .safe)
include hm

theorem breqAdopt_high : breqAdopt s n.toNat true = breqRequest (breqHigh s n) n.toNat := by
  have hg : arbGrants (breqHigh s n) = true := arbGrants_of_modes (s := breqHigh s n) hm
  unfold breqAdopt
  dsimp only
  rw [cclkRuns_of_modes (by tauto)]
  exact if_pos hg

theorem breqAdopt_low : breqAdopt s n.toNat false = arbSettle s (dropReq (freeGrant { s with allot := { s.allot with
    breq := s.allot.breq &&& ~~~(1#8 <<< n.toNat), barred := s.allot.barred &&& ~~~(1#8 <<< n.toNat) } } (extClient n.toNat)) (extClient n.toNat)) := by
  unfold breqAdopt
  dsimp only
  rw [cclkRuns_of_modes (by tauto)]
  rfl

/-- BREQ raises the request of a client that has none and holds nothing. -/
theorem exec_breq_raises (hlow : (s.allot.breq.getLsbD n.toNat || s.allot.barred.getLsbD n.toNat) = false)
    (hr : hasReq s (267 + n.toNat) = false) (hg : hasGrant s (267 + n.toNat) = false) :
    ∃ t, exec (.breqAdopt n true) s = .next t ∧ t.allot.breq = s.allot.breq ||| (1#8 <<< n.toNat) ∧
      hasGrant t (267 + n.toNat) = false ∧ ∃ q ∈ t.allot.reqs, q.client = 267 + n.toNat ∧ q.order = s.allot.serial ∧ q.exit = none := by
  obtain ⟨-, hbar⟩ := (Bool.or_eq_false_iff ..).mp hlow
  have hbit : (breqHigh s n).allot.breq.getLsbD n.toNat = true := by
    change (s.allot.breq ||| (1#8 <<< n.toNat)).getLsbD n.toNat = true
    have hn : n.toNat < 8 := n.isLt
    simp [hn]
  have hx : breqAdopt s n.toNat true = raiseReq (breqHigh s n) (extClient n.toNat) 0 none none := by
    rw [breqAdopt_high hm]
    unfold breqRequest
    dsimp only
    have hb : (breqHigh s n).allot.barred.getLsbD n.toNat = false := hbar
    have hg' : hasGrant (breqHigh s n) (extClient n.toNat) = false := hg
    have hr' : hasReq (breqHigh s n) (extClient n.toNat) = false := hr
    rw [hbit, hb, hg', hr']
    rfl
  have hasks : AsksAt (267 + n.toNat) s.allot.serial (raiseReq (breqHigh s n) (extClient n.toNat) 0 none none) := by
    have hno : ((breqHigh s n).allot.reqs.any fun r => r.client = extClient n.toNat && r.key = none) = false := by
      rw [← Bool.not_eq_true, List.any_eq_true]
      rintro ⟨r, hmem, hc⟩
      rw [Bool.and_eq_true, decide_eq_true_eq] at hc
      rw [← Bool.not_eq_true, hasReq_iff] at hr
      exact hr (List.mem_map.2 ⟨r, hmem, hc.1⟩)
    unfold raiseReq
    rw [hno]
    exact asksAt_markUnfit ⟨_, List.mem_append_right _ (List.mem_singleton_self _), rfl, rfl, rfl⟩
  have hgrants : hasGrant (raiseReq (breqHigh s n) (extClient n.toNat) 0 none none) (267 + n.toNat) = false := by
    rw [← hg]
    unfold hasGrant
    rw [raiseReq_grants]
    rfl
  refine ⟨_, rfl, ?_, ?_, ?_⟩
  · rw [breq_settle, hx, (follows_raiseReq _ _ _ _ _).breq]
    rfl
  · exact hasGrant_settle (by rw [hx]; exact hgrants) s
  · exact asksAt_settle (by omega) (by rw [hx]; exact hasks) s

include hq in
/-- A client that must see BREQ low first raises nothing. -/
theorem exec_breq_barred (hbar : s.allot.barred.getLsbD n.toNat = true) :
    ∃ t, exec (.breqAdopt n true) s = .next t ∧ UpToMarks (breqHigh s n) t := by
  have hx : breqAdopt s n.toNat true = breqHigh s n := by
    have hb : (breqHigh s n).allot.barred.getLsbD n.toNat = true := hbar
    rw [breqAdopt_high hm]
    unfold breqRequest
    dsimp only
    rw [hb]
    simp
  exact exec_wire hq hx (unflagged_allot s rfl) rfl

/-- BREQ low ends the request and the grant of its client. -/
theorem exec_breq_low : ∃ t, exec (.breqAdopt n false) s = .next t ∧ hasGrant t (267 + n.toNat) = false ∧ hasReq t (267 + n.toNat) = false ∧
    t.allot.breq = s.allot.breq &&& ~~~(1#8 <<< n.toNat) ∧ t.allot.barred = s.allot.barred &&& ~~~(1#8 <<< n.toNat) := by
  have hx := breqAdopt_low (n := n) hm
  generalize hy : dropReq (freeGrant { s with allot := { s.allot with
    breq := s.allot.breq &&& ~~~(1#8 <<< n.toNat), barred := s.allot.barred &&& ~~~(1#8 <<< n.toNat) } } (extClient n.toNat)) (extClient n.toNat) = y at hx
  have hyg : hasGrant y (extClient n.toNat) = false := by
    rw [← hy]
    exact hasGrant_freeGrant _ _
  have hyr : hasReq y (extClient n.toNat) = false := by
    rw [← hy]
    exact hasReq_dropReq_self _ _
  have hyb : y.allot.breq = s.allot.breq &&& ~~~(1#8 <<< n.toNat) ∧ y.allot.barred = s.allot.barred &&& ~~~(1#8 <<< n.toNat) := by
    rw [← hy]
    exact ⟨rfl, rfl⟩
  have had := adjusts_arbSettle s y
  have hserved : Served (arbSettle s y) (extClient n.toNat) := by
    refine .inr (.inl ⟨n.toNat, rfl, ?_⟩)
    rw [had.breq, hyb.1]
    have hn : n.toNat < 8 := n.isLt
    simp [hn]
  refine ⟨_, rfl, ?_, ?_, ?_, ?_⟩
  · exact hasGrant_settle (by rw [hx]; exact hasGrant_arbSettle hyg s) s
  · refine hasReq_settle ?_ (by rw [hx]; exact hserved) s
    rw [hx, hasReq_congr had.reqs]
    exact hyr
  · rw [breq_settle, hx, had.breq, hyb.1]
  · rw [barred_settle, hx, had.barred, hyb.2]

/-- A client that overstays TREVOKE loses its grant (R297). -/
theorem exec_trevokeExpiry (hb : s.allot.breq.getLsbD n.toNat = true) (hg : ∃ g ∈ s.allot.grants, g.client = 267 + n.toNat ∧ g.revoking = true) :
    ∃ t, exec (.trevokeExpiry n) s = .next t ∧ hasGrant t (267 + n.toNat) = false ∧
      t.allot.cntViol = s.allot.cntViol + 1 ∧ t.allot.barred = s.allot.barred ||| (1#8 <<< n.toNat) := by
  have hany : (s.allot.grants.any fun g => g.client = extClient n.toNat && g.revoking) = true := by
    obtain ⟨g, hmem, hc, hr⟩ := hg
    refine List.any_eq_true.2 ⟨g, hmem, ?_⟩
    rw [hr, Bool.and_true]
    exact decide_eq_true hc
  have hx : trevokeExpiry s n.toNat = arbSettle s { freeGrant s (extClient n.toNat) with allot := { (freeGrant s (extClient n.toNat)).allot with
      cntViol := s.allot.cntViol + 1, barred := s.allot.barred ||| (1#8 <<< n.toNat) } } := by
    unfold trevokeExpiry
    rw [arbGrants_of_modes hm, hb, hany]
    rfl
  generalize hy : ({ freeGrant s (extClient n.toNat) with allot := { (freeGrant s (extClient n.toNat)).allot with
      cntViol := s.allot.cntViol + 1, barred := s.allot.barred ||| (1#8 <<< n.toNat) } } : State) = y at hx
  have hyg : hasGrant y (extClient n.toNat) = false := by
    rw [← hy]
    exact hasGrant_freeGrant _ _
  have hyf : y.allot.cntViol = s.allot.cntViol + 1 ∧ y.allot.barred = s.allot.barred ||| (1#8 <<< n.toNat) := by
    rw [← hy]
    exact ⟨rfl, rfl⟩
  have had := adjusts_arbSettle s y
  refine ⟨_, rfl, ?_, ?_, ?_⟩
  · exact hasGrant_settle (by rw [hx]; exact hasGrant_arbSettle hyg s) s
  · rw [cntViol_settle, hx, had.cntViol, hyf.1]
  · rw [barred_settle, hx, had.barred, hyf.2]

omit hm in
include hq in
theorem exec_trevokeExpiry_low (hb : s.allot.breq.getLsbD n.toNat = false) : ∃ t, exec (.trevokeExpiry n) s = .next t ∧ UpToMarks s t := by
  have hx : trevokeExpiry s n.toNat = s := by
    unfold trevokeExpiry
    rw [hb, Bool.and_false, Bool.false_and]
    rfl
  exact exec_wire hq hx (unflagged_refl s) rfl

/-! ## Wake grants (R289) -/

theorem exec_wakeGrantTimeout {t : Target} (hg : ∃ g ∈ s.allot.grants, g.client = t.toNat ∧ g.started = true) :
    ∃ u, exec (.wakeGrantTimeout t) s = .next u ∧ hasGrant u t.toNat = false := by
  have hany : (s.allot.grants.any fun g => g.client = t.toNat && g.started) = true := by
    obtain ⟨g, hmem, hc, hs⟩ := hg
    refine List.any_eq_true.2 ⟨g, hmem, ?_⟩
    rw [hs, Bool.and_true]
    exact decide_eq_true hc
  have hx : wakeGrantTimeout s t = arbSettle s (freeGrant s t.toNat) := by
    unfold wakeGrantTimeout
    rw [arbGrants_of_modes hm, hany]
    rfl
  exact ⟨_, rfl, hasGrant_settle (by rw [hx]; exact hasGrant_arbSettle (hasGrant_freeGrant _ _) s) s⟩

omit hm in
include hq in
theorem exec_wakeGrantTimeout_ended {t : Target} (hg : ∀ g ∈ s.allot.grants, g.client = t.toNat → g.started = false) :
    ∃ u, exec (.wakeGrantTimeout t) s = .next u ∧ UpToMarks s u := by
  have hany : (s.allot.grants.any fun g => g.client = t.toNat && g.started) = false := by
    rw [← Bool.not_eq_true, List.any_eq_true]
    rintro ⟨g, hmem, hc⟩
    rw [Bool.and_eq_true, decide_eq_true_eq] at hc
    rw [hg g hmem hc.1] at hc
    exact Bool.false_ne_true hc.2
  have hx : wakeGrantTimeout s t = s := by
    unfold wakeGrantTimeout
    rw [hany, Bool.and_false]
    rfl
  exact exec_wire hq hx (unflagged_refl s) rfl

/-! ## Grants (R290 to R293) -/

omit hm in
/-- The store's work stands still with none in hand. -/
theorem pump_of_none (h : s.nv.jobs = []) : pump s = s := by
  have hone : pumpOne s = none := by
    unfold pumpOne
    rw [h]
  have hn : ∀ n, pumpN n s = s := fun n => by
    cases n with
    | zero => rfl
    | succ n =>
      unfold pumpN
      rw [hone]
      exact ite_self s
  unfold pump
  rw [hn]
  exact ite_self s

end

end Sys2Proof.Machine
end

section
/-!
PROOFS. Chapter 13: what is granted next, and the arbiter's events, settled (R290 to R293).
-/
namespace Sys2Proof.Machine
open Sys2Proof.Safety Sys2Proof.Claims

variable {s b e u x before : State} {c k m : Nat} {l : Link} {g h : Grant} {q p r : Req} {saff : Bool}

/-! ## One grant -/

/-- The grant that a request becomes. -/
def granted (s : State) (q : Req) (saff : Bool) : Grant :=
  { client := q.client, held := clientCost s q.client, prio := BitVec.ofNat 8 (rankPrio s q), saff := saff, order := s.allot.serial,
    key := q.key, started := 267 ≤ q.client }

theorem makeGrant_mem (s : State) (q : Req) (saff : Bool) : granted s q saff ∈ (makeGrant s q saff).allot.grants := by
  unfold makeGrant
  dsimp only
  split <;> exact List.mem_append_right _ (List.mem_cons_self ..)

theorem makeGrant_hasReq (s : State) (q : Req) (saff : Bool) : hasReq (makeGrant s q saff) q.client = false := by
  unfold makeGrant
  dsimp only
  split
  · exact hasReq_filter (s := dropReq s q.client) (hasReq_dropReq_self s _) rfl
  · exact hasReq_dropReq_self s _

theorem makeGrant_others (s : State) (q : Req) (saff : Bool) : (makeGrant s q saff).irq = s.irq ∧ (makeGrant s q saff).nv = s.nv ∧
    (makeGrant s q saff).pw = s.pw := by
  unfold makeGrant
  dsimp only
  split <;> exact ⟨rfl, rfl, rfl⟩

/-- Nothing is revoked while the aim of revocation is met. -/
theorem grants_arbSettle_of_aim (h : aimMet x = true) (b : State) : (arbSettle b x).allot.grants = x.allot.grants := by
  have hpre : (overdrawn (budgetFlagged b x)).allot.grants = x.allot.grants ∧ aimMet (overdrawn (budgetFlagged b x)) = aimMet x := by
    unfold overdrawn budgetFlagged
    split <;> split <;> exact ⟨rfl, rfl⟩
  have hrec : ∀ y, (recovered y).allot.grants = y.allot.grants := fun y => by unfold recovered; split <;> rfl
  have haim : aimed (overdrawn (budgetFlagged b x)) = overdrawn (budgetFlagged b x) := if_pos (hpre.2.trans h)
  have hend : ∀ y, (markUnfit (leaned y)).allot.grants = y.allot.grants := fun _ => rfl
  rw [arbSettle_eq, haim, hend, hrec]
  exact hpre.1

section
variable (hq : Quiet s) (hm : s.pw.mode = .operating ∨ s.pw.mode = .safe) (hj : s.nv.jobs = [])
include hm hj

include hq in
theorem exec_allotGrant_none (h : nextGrant s = none) : ∃ t, exec .allotGrant s = .next t ∧ UpToMarks s t := by
  have hx : allotGrant s = s := by
    unfold allotGrant
    rw [arbGrants_of_modes hm, h]
    exact pump_of_none hj
  exact exec_wire hq hx (unflagged_refl s) rfl

theorem exec_allotGrant_some (h : nextGrant s = some (q, saff)) : ∃ t, exec .allotGrant s = .next t ∧ t.irq.tgts = s.irq.tgts ∧
    (aimMet (makeGrant s q saff) = true → hasReq t q.client = false ∧
      (264 ≤ q.client → ∃ g ∈ t.allot.grants, g.client = q.client ∧ g.held = clientCost s q.client ∧ g.saff = saff ∧
        g.order = s.allot.serial ∧ (g.started = true ↔ 267 ≤ q.client))) := by
  obtain ⟨hirq, hnv, -⟩ := makeGrant_others s q saff
  have had := adjusts_arbSettle s (makeGrant s q saff)
  have hx : allotGrant s = arbSettle s (makeGrant s q saff) := by
    unfold allotGrant
    rw [arbGrants_of_modes hm, h]
    exact pump_of_none (had.jobs (by rw [hnv]; exact hj))
  refine ⟨_, rfl, ?_, fun haim => ?_⟩
  · rw [settle_tgts, hx, had.only.irq, hirq]
  · have hgr := grants_arbSettle_of_aim haim s
    have hmem : granted s q saff ∈ (arbSettle s (makeGrant s q saff)).allot.grants := by
      rw [hgr]
      exact makeGrant_mem s q saff
    rw [hx]
    refine ⟨hasReq_settle ?_ (.inl ?_) s, fun hc => ⟨_, mem_settle s hmem (.inr hc), rfl, rfl, rfl, rfl, decide_eq_true_iff⟩⟩
    · rw [hasReq_congr had.reqs]
      exact makeGrant_hasReq s q saff
    · rw [hasGrant_iff]
      exact List.mem_map.2 ⟨_, hmem, rfl⟩

end

/-! ## The order of requests (R291) -/

/-- The first of a sorted list stands before every other one. -/
theorem sortBy_head {α : Type} {le : α → α → Bool} (htotal : ∀ a b, le a b = true ∨ le b a = true)
    (htrans : ∀ a b c, le a b = true → le b c = true → le a c = true) {xs : List α} {a y : α} (ha : (sortBy le xs).head? = some a)
    (hy : y ∈ xs) : le a y = true := by
  have hrefl : ∀ a, le a a = true := fun a => (htotal a a).elim id id
  have hinsert : ∀ (x : α) (ys : List α), (∀ a, ys.head? = some a → ∀ p ∈ ys, le a p = true) →
      ∀ a, (insertBy le x ys).head? = some a → ∀ p ∈ insertBy le x ys, le a p = true := by
    intro x ys hys a ha p hp
    rw [mem_insertBy] at hp
    cases ys with
    | nil =>
      simp only [insertBy, List.head?_cons, Option.some.injEq] at ha
      obtain rfl | hp := hp
      · rw [ha]
        exact hrefl a
      · cases hp
    | cons y ys =>
      have hhead := hys y rfl
      unfold insertBy at ha
      split at ha
      · next hle =>
        simp only [List.head?_cons, Option.some.injEq] at ha
        subst ha
        obtain rfl | hp := hp
        · exact hrefl p
        · exact htrans _ _ _ hle (hhead p hp)
      · next hle =>
        simp only [List.head?_cons, Option.some.injEq] at ha
        subst ha
        obtain rfl | hp := hp
        · exact (htotal p y).resolve_left hle
        · exact hhead p hp
  have hall : ∀ xs : List α, ∀ a, (sortBy le xs).head? = some a → ∀ p ∈ sortBy le xs, le a p = true := by
    intro xs
    induction xs with
    | nil => exact fun a ha => by cases ha
    | cons x xs ih => exact hinsert x _ ih
  exact hall xs a ha y (mem_sortBy.2 hy)

theorem reqBefore_iff : reqBefore s p q = true ↔ rankPrio s p < rankPrio s q ∨
    rankPrio s p = rankPrio s q ∧ (p.order < q.order ∨ p.order = q.order ∧ p.client ≤ q.client) := by
  unfold reqBefore
  simp

theorem mem_tier {saff : Bool} : q ∈ tier s saff ↔ q ∈ s.allot.reqs ∧ isSaffron s q = saff ∧ isUnfit s q = false ∧ reqCost s q ≠ 0 := by
  unfold tier
  rw [mem_sortBy, List.mem_filter]
  simp [and_assoc]

/-- The first of a tier. -/
theorem tier_head (h : (tier s saff).head? = some q) : (q ∈ s.allot.reqs ∧ isSaffron s q = saff ∧ isUnfit s q = false ∧ reqCost s q ≠ 0) ∧
    ∀ p ∈ s.allot.reqs, isSaffron s p = saff → isUnfit s p = false → reqCost s p ≠ 0 → rankPrio s q ≤ rankPrio s p := by
  refine ⟨mem_tier.1 (List.mem_of_mem_head? h), fun p hp hs hu hc => ?_⟩
  have hle : reqBefore s q p = true := by
    refine sortBy_head (fun a b => ?_) (fun a b c hab hbc => ?_) h (List.mem_filter.2 ⟨hp, by simp [hs, hu, hc]⟩)
    · simp only [reqBefore_iff]
      omega
    · simp only [reqBefore_iff] at hab hbc ⊢
      omega
  rw [reqBefore_iff] at hle
  omega

/-- What stands between a request that fits beside the reserve and its grant. -/
theorem normal_granted (h : (match (tier s false).head? with
      | some q => if (reqCost s q : Int) ≤ freeAllot s - (saffRes s : Int) && leanAllows s q then some (q, false) else none
      | none => none) = some (q, saff)) :
    saff = false ∧ (tier s false).head? = some q ∧ (reqCost s q : Int) ≤ freeAllot s - (saffRes s : Int) := by
  cases hh : (tier s false).head? with
  | none =>
    rw [hh] at h
    cases h
  | some r =>
    rw [hh] at h
    dsimp only at h
    split at h
    · next hfit =>
      simp only [Option.some.injEq, Prod.mk.injEq] at h
      obtain ⟨rfl, rfl⟩ := h
      rw [Bool.and_eq_true, decide_eq_true_eq] at hfit
      exact ⟨rfl, rfl, hfit.1⟩
    · cases h

theorem nextGrant_facts (h : nextGrant s = some (q, saff)) : q ∈ s.allot.reqs ∧ isSaffron s q = saff ∧
    (reqCost s q ≠ 0 → isUnfit s q = false ∧ (∀ p ∈ s.allot.reqs, reqCost s p ≠ 0) ∧
      (∀ p ∈ s.allot.reqs, isSaffron s p = saff → isUnfit s p = false → rankPrio s q ≤ rankPrio s p) ∧
      (saff = true → (reqCost s q : Int) ≤ freeAllot s) ∧
      (saff = false → (reqCost s q : Int) ≤ freeAllot s - (saffRes s : Int) ∧
        ∀ p ∈ s.allot.reqs, isSaffron s p = true → isUnfit s p = false → ∃ h ∈ s.allot.reqs, isSaffron s h = true ∧
          rankPrio s h ≤ rankPrio s p ∧ freeAllot s < (reqCost s h : Int))) := by
  unfold nextGrant at h
  cases hfree : s.allot.reqs.find? fun r => reqCost s r = 0 with
  | some r =>
    rw [hfree] at h
    simp only [Option.some.injEq, Prod.mk.injEq] at h
    obtain ⟨rfl, rfl⟩ := h
    exact ⟨List.mem_of_find?_eq_some hfree, rfl, fun hc => absurd (by simpa using List.find?_some hfree) hc⟩
  | none =>
    rw [hfree] at h
    have hcost : ∀ p ∈ s.allot.reqs, reqCost s p ≠ 0 := fun p hp => by simpa using List.find?_eq_none.1 hfree p hp
    dsimp only at h
    cases hsaff : (tier s true).head? with
    | some r =>
      rw [hsaff] at h
      obtain ⟨⟨hmem, htier, hunfit, -⟩, hbest⟩ := tier_head hsaff
      dsimp only at h
      split at h
      · next hfit =>
        simp only [Option.some.injEq, Prod.mk.injEq] at h
        obtain ⟨rfl, rfl⟩ := h
        exact ⟨hmem, htier, fun _ => ⟨hunfit, hcost, fun p hp hs hu => hbest p hp hs hu (hcost p hp), fun _ => hfit,
          fun hf => absurd hf.symm Bool.false_ne_true⟩⟩
      · next hfit =>
        obtain ⟨rfl, hhead, hroom⟩ := normal_granted h
        obtain ⟨⟨hmem', htier', hunfit', -⟩, hbest'⟩ := tier_head hhead
        exact ⟨hmem', htier', fun _ => ⟨hunfit', hcost, fun p hp hs hu => hbest' p hp hs hu (hcost p hp), fun hf => absurd hf Bool.false_ne_true,
          fun _ => ⟨hroom, fun p hp hs hu => ⟨r, hmem, htier, hbest p hp hs hu (hcost p hp), not_le.1 hfit⟩⟩⟩⟩
    | none =>
      rw [hsaff] at h
      obtain ⟨rfl, hhead, hroom⟩ := normal_granted h
      obtain ⟨⟨hmem', htier', hunfit', -⟩, hbest'⟩ := tier_head hhead
      refine ⟨hmem', htier', fun _ => ⟨hunfit', hcost, fun p hp hs hu => hbest' p hp hs hu (hcost p hp), fun hf => absurd hf Bool.false_ne_true,
        fun _ => ⟨hroom, fun p hp hs hu => ?_⟩⟩⟩
      have hin : p ∈ tier s true := mem_tier.2 ⟨hp, hs, hu, hcost p hp⟩
      rw [List.head?_eq_none_iff.1 hsaff] at hin
      cases hin

/-- Settles O51. -/
theorem arbiterEvents : Obligations.ArbiterEvents := by
  refine ⟨adoptedLater, fun s hq hm => ?_⟩
  exact ⟨level_events hq hm, fun n => ⟨fun hlow hr hg => exec_breq_raises hm hlow hr hg, fun hbar => exec_breq_barred hq hm hbar,
      exec_breq_low hm, fun hb hg => exec_trevokeExpiry hm hb hg, fun hb => exec_trevokeExpiry_low hq hb⟩,
    fun n => ⟨fun hg => exec_wakeGrantTimeout hm hg, fun hg => exec_wakeGrantTimeout_ended hq hg⟩,
    fun hj => ⟨fun h => exec_allotGrant_none hq hm hj h, fun q saff h => exec_allotGrant_some hm hj h⟩, fun q saff h => nextGrant_facts h⟩

end Sys2Proof.Machine
end

section
/-!
PROOFS. Chapters 13, 15 and 17: power fail, the gasp record and shutdown (R285, R340, R341, R381 to R383, R390).
-/
namespace Sys2Proof.Machine
open Sys2Proof.Safety Sys2Proof.Claims

variable {s b e u x before : State} {n a : Nat} {g : Gasp} {cause : BitVec 4}

/-! ## Closing outside the operating modes -/

/-- The house sources follow HS_STAT in the operating modes only. -/
theorem flushHouse_irq (h : operating s = false) : (flushHouse s).irq = s.irq := by
  rw [flushHouse_eq]
  split
  · rfl
  · have hop : operating (flagsRaised s) = false := h
    unfold houseEdges
    rw [hop, if_neg Bool.false_ne_true]
    rfl

theorem settle_irq_idle (h : operating x = false) (b : State) : (settle b x).irq = x.irq := by
  have hdone : (nvDone b x).irq = x.irq ∧ (nvDone b x).pw = x.pw := by
    unfold nvDone
    split <;> exact ⟨rfl, rfl⟩
  have hlog : ∀ y, (logMode b y).irq = y.irq ∧ (logMode b y).pw = y.pw := fun y => by
    unfold logMode logEntry pushJob
    dsimp only
    split
    · split <;> exact ⟨rfl, rfl⟩
    · exact ⟨rfl, rfl⟩
  have hop : operating (logMode b (nvDone b x)) = false := by
    unfold operating at h ⊢
    rw [(hlog _).2, hdone.2]
    exact h
  have hpermit : settlePermit b (logMode b (nvDone b x)) = logMode b (nvDone b x) := by
    unfold settlePermit
    rw [hop, Bool.and_false, if_neg Bool.false_ne_true]
  obtain ⟨m, hm⟩ := noteHwm_eq (flushHouse (arbFollow (logMode b (nvDone b x))))
  unfold settle
  rw [hpermit, hm]
  change (flushHouse (arbFollow (logMode b (nvDone b x)))).irq = x.irq
  rw [flushHouse_irq (s := arbFollow _) hop]
  exact (hlog _).1.trans hdone.1

/-! ## The record (R382, R383, Table NV-5) -/

theorem length_leBytes (w : Word) : (leBytes w).length = 4 := rfl
theorem length_le16 (n : Nat) : (le16 n).length = 2 := rfl

theorem length_gaspHead (s : State) (nvop : Byte) : (gaspHead s nvop).length = 40 := by
  unfold gaspHead temps
  dsimp only
  simp only [List.length_append, length_leBytes, length_le16, List.length_cons, List.length_nil, List.flatMap_cons, List.flatMap_nil]

theorem length_gaspMid (s : State) : (gaspMid s).length = 88 := by
  unfold gaspMid
  dsimp only
  simp only [List.length_append, length_leBytes, length_le16, List.length_nil, List.flatMap_cons, List.flatMap_nil,
    List.length_map, List.length_replicate]
  rfl

theorem length_gaspTrail (s : State) : (gaspTrail s).length = 64 := by
  unfold gaspTrail
  rw [List.length_take, List.length_append, List.length_replicate]
  omega

/-- What the CRC of a record covers. -/
def gaspBody (s : State) (nvop : Byte) : List Byte := gaspHead s nvop ++ gaspMid s ++ gaspTrail s ++ (upTo 60).map (freeByte s.free)

theorem gaspRecord_eq (s : State) (nvop : Byte) : gaspRecord s nvop = gaspBody s nvop ++ leBytes (crc32c (leWords (gaspBody s nvop))) := rfl

theorem length_gaspBody (s : State) (nvop : Byte) : (gaspBody s nvop).length = 252 := by
  unfold gaspBody upTo
  rw [List.length_append, List.length_append, List.length_append, length_gaspHead, length_gaspMid, length_gaspTrail, List.length_map,
    List.length_range]

/-- The record begins with its signature and GSEQ. -/
theorem gaspBody_begins (s : State) (nvop : Byte) : ∃ rest, gaspBody s nvop = [0x47, 0x41, 0x53, 0x50] ++ (leBytes s.nv.gseq ++ rest) := by
  have hsig : leBytes 0x50534147 = [0x47, 0x41, 0x53, 0x50] := by decide
  unfold gaspBody gaspHead
  dsimp only
  rw [hsig]
  simp only [List.append_assoc]
  exact ⟨_, rfl⟩

theorem gaspBody_fields (s : State) (nvop : Byte) : (gaspBody s nvop).take 4 = [0x47, 0x41, 0x53, 0x50] ∧
    ((gaspBody s nvop).drop 4).take 4 = leBytes s.nv.gseq := by
  obtain ⟨rest, h⟩ := gaspBody_begins s nvop
  rw [h]
  exact ⟨rfl, rfl⟩

/-! ## Power fail (R285, R340) -/

/-- The part writes its record: the firmware runs, and a slot is armed. -/
def writesRecord (s : State) : Bool := s.stew.fw = .olumon && !s.pw.stwDown && s.nv.armed

theorem writesRecord_iff : writesRecord s = true ↔ s.stew.fw = .olumon ∧ s.pw.stwDown = false ∧ s.nv.armed = true := by
  unfold writesRecord
  simp [and_assoc]

/-- What the capture leaves of the work in hand. -/
theorem discardWork_only (s : State) : ∃ v f, discardWork s = { s with nv := v, free := f } ∧ v.slot = s.nv.slot ∧ v.mem = s.nv.mem := by
  unfold discardWork abortErase
  split <;> exact ⟨_, _, rfl, rfl, rfl⟩

theorem holdWout_only (s : State) : ∃ p, holdWout s = { s with pw := p } ∧ p.wakeSrc = s.pw.wakeSrc := by
  unfold holdWout
  split <;> exact ⟨_, rfl, rfl⟩

theorem budget_pfail (h : s.allot.pfail = true) : budget s = 0 := if_pos h

/-- The state of a part in LAST-GASP, before the closing. -/
theorem enterGasp_only (s : State) : ∃ v f p,
    enterGasp s = { s with
      nv := v, free := f, pw := p, xl := { s.xl with tcache := [], xcache := [] }
      allot := { s.allot with pfail := true, reqs := [], grants := [], overdraft := false, lean := 0 < fld (regLive s 0x410) 0 12 }
      hsAcc := s.hsAcc ||| (if budget s ≠ 0 then hBUDGET else 0) } ∧
    p.mode = .lastGasp ∧ p.gaspWriting = writesRecord s ∧ p.wakeSrc = s.pw.wakeSrc ∧
    v.gasp = if writesRecord s then some { addr := slotAddr s.nv.slot, bytes := gaspRecord s (nvopCode s) } else none := by
  obtain ⟨p, hp, hsrc⟩ := holdWout_only s
  obtain ⟨v, f, hv, hslot, -⟩ := discardWork_only (holdWout s)
  rw [hp] at hv hslot
  refine ⟨{ v with gasp := if writesRecord s then some { addr := slotAddr s.nv.slot, bytes := gaspRecord s (nvopCode s) } else none }, f + 15,
    { p with mode := .lastGasp, gaspWriting := writesRecord s }, ?_, rfl, rfl, hsrc, rfl⟩
  have hslot' : v.slot = s.nv.slot := hslot
  unfold enterGasp emptyCaches setXl
  rw [hp, hv]
  dsimp only
  rw [hslot']
  have hzero : s.hsAcc ||| (0 : BitVec 16) = s.hsAcc := BitVec.or_zero
  by_cases hmoved : budget s ≠ 0
  · rw [if_pos hmoved, if_pos hmoved]
    rfl
  · rw [if_neg hmoved, if_neg hmoved, hzero]
    rfl

end Sys2Proof.Machine
end

section
/-!
PROOFS. Chapters 13, 15 and 17: power fail, the gasp record and shutdown, settled (R285, R340, R341, R381 to R383, R390).
-/
namespace Sys2Proof.Machine
open Sys2Proof.Safety Sys2Proof.Claims

variable {s b e u x before : State} {n a : Nat} {g : Gasp} {cause : BitVec 4}

/-! ## Power fail (R285, R340, R382) -/

theorem pfail_eq (hm : s.pw.mode ∈ [Mode.load, .safe, .operating, .fallow]) : pfail s = enterGasp s := by
  unfold pfail
  simp only [List.mem_cons, List.not_mem_nil, or_false] at hm
  obtain h | h | h | h := hm <;> rw [h]

theorem pfail_ignored (hm : s.pw.mode ∈ [Mode.reset, .shutdown, .test, .lastGasp]) : pfail s = s := by
  unfold pfail
  simp only [List.mem_cons, List.not_mem_nil, or_false] at hm
  obtain h | h | h | h := hm <;> rw [h]

theorem budgetBit (b : Prop) [Decidable b] : ((0 : BitVec 16) ||| if b then hBUDGET else 0).getLsbD 5 = true ↔ b := by
  split
  · next h => simp [h, hBUDGET]
  · next h => simp [h]

theorem exec_pfail (hq : Quiet s) (hm : s.pw.mode ∈ [Mode.load, .safe, .operating, .fallow]) : ∃ t, exec .pfail s = .next t ∧
    t.pw.mode = .lastGasp ∧ t.allot.grants = [] ∧ t.allot.reqs = [] ∧ budget t = 0 ∧ (t.pw.gaspWriting = true ↔ writesRecord s = true) ∧
    ((sqOf t 0x300).flags.getLsbD 5 = true ↔ (sqOf s 0x300).flags.getLsbD 5 = true ∨ budget s ≠ 0) ∧
    (writesRecord s = true → t.nv.gasp = some { addr := slotAddr s.nv.slot, bytes := gaspRecord s (nvopCode s) }) ∧
    t.xl.tcache = [] ∧ t.xl.xcache = [] ∧ (t.allot.lean = true ↔ 0 < fld (regLive s 0x410) 0 12) ∧
    t.irq = s.irq ∧ t.links = s.links ∧ t.cfg.live = s.cfg.live ∧ t.tb = s.tb := by
  obtain ⟨v, f, p, hx, hmode, hwriting, -, hgasp⟩ := enterGasp_only s
  have hidle : ∀ e : State, e.pw.mode = .lastGasp → arbGrants e = false ∧ operating e = false := fun e he => by
    unfold arbGrants operating
    rw [he]
    exact ⟨rfl, rfl⟩
  have hxm : (enterGasp s).pw.mode = .lastGasp := by rw [hx]; exact hmode
  have hallot := allot_settle_idle (hidle _ hxm).1 s
  refine ⟨settle s (enterGasp s), congrArg (fun e => Host.Outcome.next (settle s e)) (pfail_eq hm), ?_, ?_, ?_, ?_, ?_, ?_, fun hw => ?_, ?_, ?_, ?_,
    ?_, ?_, ?_, ?_⟩
  · rw [settle_pw]
    exact hxm
  · rw [hallot, hx]
  · rw [hallot, hx]
  · rw [budget_settle]
    exact budget_pfail (by rw [hx])
  · rw [settle_pw, hx]
    exact Bool.eq_iff_iff.mp hwriting
  · rw [budgetFlag_settle (s := s) (by rw [hx]; exact hq.2) (by rw [hx])]
    refine or_congr Iff.rfl ?_
    rw [hx, hq.1]
    exact budgetBit _
  · rw [settle_nv_gasp, hx]
    exact hgasp.trans (if_pos hw)
  · rw [settle_xl_tcache, hx]
  · rw [settle_xl_xcache, hx]
  · rw [hallot, hx]
    exact decide_eq_true_iff
  · rw [settle_irq_idle (hidle _ hxm).2, hx]
  · rw [settle_links, hx]
  · rw [settle_live, hx]
  · rw [settle_tb, hx]

/-! ## The record written (R382, R390) -/

/-- The record stands in the store, and the slot is used. -/
def recorded (s : State) (g : Gasp) : State :=
  { nvWrite s g.addr g.bytes with
    nv := { (nvWrite s g.addr g.bytes).nv with gasp := none, armed := false }, pw := { s.pw with gaspWriting := false } }

theorem cutWork_pw (s : State) : (cutWork s).pw = s.pw := by
  have habort : (abortErase s).pw = s.pw := by
    unfold abortErase
    split <;> rfl
  have hspoil : ∀ x : State, (match x.nv.op with | some (.program addr _) => nvSpoilWord x addr | _ => x).pw = x.pw := fun x => by
    split <;> rfl
  unfold cutWork
  dsimp only
  split
  · rw [foldS_keeps (fun x : State => x.pw) _ _ _ fun x w => by split <;> rfl]
    exact (hspoil _).trans habort
  · exact (hspoil _).trans habort

section
variable (hg : s.nv.gasp = some g) (ho : s.nv.op = none) (hm : s.pw.mode = .lastGasp)
include hg ho hm

theorem gaspRecordComplete_eq : gaspRecordComplete s true =
    match s.pw.deferred with | some c => warmReset (recorded s g) c false | none => recorded s g := by
  have hmode : (recorded s g).pw.mode = .lastGasp := hm
  unfold gaspRecordComplete
  rw [hg, ho, hm]
  change (match (recorded s g).pw.mode, (recorded s g).pw.deferred with | .lastGasp, some c => warmReset (recorded s g) c false | _, _ => recorded s g) = _
  have hdeferred : (recorded s g).pw.deferred = s.pw.deferred := rfl
  rw [hmode, hdeferred]
  cases s.pw.deferred <;> rfl

theorem exec_gaspRecordComplete (hd : s.pw.deferred = none) : ∃ t, exec (.gaspRecordComplete true) s = .next t ∧
    t.nv.gasp = none ∧ t.nv.armed = false ∧ t.pw.gaspWriting = false ∧ t.pw.mode = .lastGasp ∧
    ∀ i, i < g.bytes.length → indetSector s ((g.addr + i) / 4096) = false → nvByte t (g.addr + i) = g.bytes.getD i 0 := by
  have hx : gaspRecordComplete s true = recorded s g := by rw [gaspRecordComplete_eq hg ho hm, hd]
  refine ⟨_, rfl, ?_, ?_, ?_, ?_, fun i hi hin => ?_⟩
  · rw [settle_nv_gasp, hx]
    rfl
  · rw [settle_nv_armed, hx]
    rfl
  · rw [settle_pw, hx]
    rfl
  · rw [settle_pw, hx]
    exact hm
  · have hbyte : nvByte (settle s (gaspRecordComplete s true)) (g.addr + i) = nvByte (nvWrite s g.addr g.bytes) (g.addr + i) := by
      unfold nvByte
      rw [settle_nv_mem, settle_nv_indet, hx]
      rfl
    rw [hbyte, nvByte_nvWrite, if_pos ⟨hin, by omega, by omega⟩, Nat.add_sub_cancel_left]

theorem exec_gaspRecordComplete_deferred {c : BitVec 4} (hd : s.pw.deferred = some c) : ∃ t, exec (.gaspRecordComplete true) s = .next t ∧
    t.pw.mode = .reset ∧ t.pw.nextCause = c ∧ t.irq = {} := by
  have hx : gaspRecordComplete s true = warmReset (recorded s g) c false := by rw [gaspRecordComplete_eq hg ho hm, hd]
  have hmode : (cutWork (recorded s g)).pw.mode = .lastGasp := by rw [cutWork_pw]; exact hm
  refine ⟨_, rfl, ?_, ?_, ?_⟩
  · rw [settle_pw, hx]
    rfl
  · rw [settle_pw, hx]
    unfold warmReset
    dsimp only
    rw [hmode]
    rfl
  · rw [settle_irq_idle (by rw [hx]; rfl), hx]
    rfl

end

/-! ## Shutdown and the arming of a slot (R341, R381) -/

theorem exec_shutdownTrip (hr : s.pw.mode ≠ .reset) (hs : s.pw.mode ≠ .shutdown) : ∃ t, exec .shutdownTrip s = .next t ∧
    t.pw.mode = .shutdown ∧ t.allot.reqs = [] ∧ t.allot.grants = [] ∧ t.xl.tcache = [] ∧ t.xl.xcache = [] ∧ t.irq = s.irq ∧ t.cfg = s.cfg ∧
    t.nv.mem = s.nv.mem := by
  obtain ⟨v, f, hv, -, hmem⟩ := discardWork_only s
  have hx : shutdownTrip s = { s with
      nv := { v with gasp := if s.nv.op.isNone then v.gasp else none }, free := f, xl := { s.xl with tcache := [], xcache := [] }
      allot := { s.allot with reqs := [], grants := [] }
      pw := { s.pw with mode := .shutdown, gaspWriting := s.pw.gaspWriting && s.nv.op.isNone } } := by
    unfold shutdownTrip
    rw [hv]
    cases h : s.pw.mode
    case reset => exact absurd h hr
    case shutdown => exact absurd h hs
    all_goals rfl
  refine ⟨_, congrArg Host.Outcome.next hx, rfl, rfl, rfl, rfl, rfl, rfl, rfl, hmem⟩

theorem exec_shutdownTrip_down (h : s.pw.mode = .reset ∨ s.pw.mode = .shutdown) : exec .shutdownTrip s = .next s := by
  refine congrArg Host.Outcome.next ?_
  unfold shutdownTrip
  obtain h | h := h <;> rw [h]

theorem exec_gaspRecordComplete_none (hq : Quiet s) (hg : s.nv.gasp = none) (ok : Bool) :
    ∃ t, exec (.gaspRecordComplete ok) s = .next t ∧ UpToMarks s t := by
  have hx : gaspRecordComplete s ok = s := by
    unfold gaspRecordComplete
    rw [hg]
  exact exec_wire hq hx (unflagged_refl s) rfl

/-- The armed slot is taken. -/
def slotArmed (s : State) : State :=
  { s with nv := { s.nv with
      armed := true, wantArm := false, slot := armedSlot s
      gseq := match lastGasp s with | some (_, g) => BitVec.ofNat 32 (g + 1) | none => 1 } }

theorem exec_gaspArming (hq : Quiet s) (hw : s.nv.wantArm = true) (hr : stewardRuns s = true) (he : slotErased s (armedSlot s) = true)
    (ho : s.nv.op = none) (hk : armedSlot s % 16 ≠ 0) : ∃ t, exec .gaspArming s = .next t ∧ UpToMarks (slotArmed s) t := by
  have hx : gaspArming s = slotArmed s := by
    have hcond : (s.nv.wantArm && stewardRuns s && slotErased s (armedSlot s) && s.nv.op.isNone) = true := by
      rw [hw, hr, he, ho]
      rfl
    unfold gaspArming
    dsimp only
    rw [if_pos hcond, if_neg hk]
    rfl
  exact exec_wire hq hx ⟨⟨rfl, rfl, rfl, rfl, rfl, rfl⟩, rfl⟩ rfl

theorem exec_gaspArming_not (hq : Quiet s) (h : s.nv.wantArm = false ∨ slotErased s (armedSlot s) = false) :
    ∃ t, exec .gaspArming s = .next t ∧ UpToMarks s t := by
  have hx : gaspArming s = s := by
    refine if_neg ?_
    obtain h | h := h <;> rw [h] <;> simp
  exact exec_wire hq hx (unflagged_refl s) rfl

/-- Settles O52. -/
theorem lastGaspAndShutdown : Obligations.LastGaspAndShutdown := by
  intro s hq writes
  refine ⟨fun hm => ?_, fun hm => exec_wire hq (pfail_ignored hm) (unflagged_refl s) rfl, fun g hg ho hm => ⟨fun hd => exec_gaspRecordComplete hg ho hm hd,
      fun c hd => exec_gaspRecordComplete_deferred hg ho hm hd⟩, fun hg ok => exec_gaspRecordComplete_none hq hg ok,
    fun hr hs => exec_shutdownTrip hr hs, exec_shutdownTrip_down, fun hw hr he ho hk => exec_gaspArming hq hw hr he ho hk,
    exec_gaspArming_not hq⟩
  obtain ⟨t, ht, hmode, hgrants, hreqs, hbudget, hwriting, hflag, hrecord, hrest⟩ := exec_pfail hq hm
  refine ⟨t, ht, hmode, hgrants, hreqs, hbudget, hwriting.trans writesRecord_iff, hflag, fun hw => ?_, hrest⟩
  obtain ⟨hsig, hseq⟩ := gaspBody_fields s (nvopCode s)
  exact ⟨_, _, hrecord (writesRecord_iff.2 hw), rfl, gaspRecord_eq s _, length_gaspBody s _, hsig, hseq⟩

end Sys2Proof.Machine
end

section
/-!
PROOFS. Chapters 14 and 17: the thermal monitor (R386 to R389).
-/
namespace Sys2Proof.Machine
open Sys2Proof.Safety Sys2Proof.Claims

variable {i : Nat}

/-! ## Readings of a round -/

/-- The readings of a round, by sensor. -/
def reading (a b c d : BitVec 12) (i : Nat) : Int := if i = 0 then a.toInt else if i = 1 then b.toInt else if i = 2 then c.toInt else d.toInt

/-- The median of the other three. -/
def otherReading (a b c d : BitVec 12) (i : Nat) : Int :=
  let x := reading a b c d
  if i = 0 then median (x 1) (x 2) (x 3) else if i = 1 then median (x 0) (x 2) (x 3)
  else if i = 2 then median (x 0) (x 1) (x 3) else median (x 0) (x 1) (x 2)

def readings (a b c d : BitVec 12) : List Int := [temp a, temp b, temp c, temp d]

section
variable (a b c d : BitVec 12)

theorem readings_getD (hi : i < 4) : (readings a b c d).getD i 0 = reading a b c d i := by
  obtain rfl | rfl | rfl | rfl : i = 0 ∨ i = 1 ∨ i = 2 ∨ i = 3 := by omega
  all_goals rfl

theorem others_readings (hi : i < 4) : others (readings a b c d) i = (reading a b c d i, otherReading a b c d i) := by
  obtain rfl | rfl | rfl | rfl : i = 0 ∨ i = 1 ∨ i = 2 ∨ i = 3 := by omega
  all_goals rfl

/-- Rounds in a row that sensor i has been out of step. -/
def rounds (s : State) (i : Nat) : Nat :=
  if 120 < (reading a b c d i - otherReading a b c d i).natAbs then tabGet s.pw.tDev 0 i + 1 else 0

theorem upTo_four : upTo 4 = [0, 1, 2, 3] := rfl

theorem nextDev_get (s : State) (hi : i < 4) : tabGet (nextDev s (readings a b c d)) 0 i = rounds a b c d s i := by
  unfold nextDev rounds
  rw [upTo_four]
  simp only [List.foldl_cons, List.foldl_nil, others_readings a b c d (show 0 < 4 by omega), others_readings a b c d (show 1 < 4 by omega),
    others_readings a b c d (show 2 < 4 by omega), others_readings a b c d (show 3 < 4 by omega), tabGet_tabSet]
  obtain rfl | rfl | rfl | rfl : i = 0 ∨ i = 1 ∨ i = 2 ∨ i = 3 := by omega
  all_goals simp

/-- A sensor is failed by this round. -/
def fails (s : State) (i : Nat) : Prop := reading a b c d i < -400 ∨ 1200 < reading a b c d i ∨ 8 ≤ rounds a b c d s i

/-- Bits set one by one. -/
theorem getLsbD_foldl_set {p : Nat → Bool} {m : BitVec 4} (hi : i < 4) (xs : List Nat) :
    (xs.foldl (fun (m : BitVec 4) j => if p j then m ||| (1#4 <<< j) else m) m).getLsbD i = (m.getLsbD i || decide (i ∈ xs) && p i) := by
  induction xs generalizing m with
  | nil => simp
  | cons y xs ih =>
    rw [List.foldl_cons, ih]
    by_cases hp : p y = true
    · have hbit : (m ||| (1#4 <<< y)).getLsbD i = (m.getLsbD i || decide (i = y)) := by
        rw [BitVec.getLsbD_or, BitVec.getLsbD_shiftLeft, BitVec.getLsbD_one]
        congr 1
        by_cases hy : i = y
        · subst hy
          simp [hi]
        · by_cases hlt : i < y
          · simp [hy, hlt]
          · have : i - y ≠ 0 := by omega
            simp [hy, this]
      rw [if_pos hp, hbit]
      by_cases hy : i = y
      · subst hy
        simp [hp]
      · simp [hy]
    · rw [if_neg hp]
      by_cases hy : i = y
      · subst hy
        simp [hp]
      · simp [hy]

theorem nextFail_get (s : State) (hi : i < 4) : (nextFail s (readings a b c d) (nextDev s (readings a b c d))).getLsbD i = true ↔
    s.pw.tFail.getLsbD i = true ∨ fails a b c d s i := by
  unfold nextFail fails
  dsimp only
  rw [getLsbD_foldl_set hi, readings_getD a b c d hi, nextDev_get a b c d s hi]
  have hmem : i ∈ upTo 4 := List.mem_range.2 hi
  simp [hmem, or_assoc]

/-! ## The throttle (R387) -/

/-- The sensors that have not failed. -/
def goodReadings (a b c d : BitVec 12) (fail : BitVec 4) : List Int :=
  ((readings a b c d).zipIdx.filter fun p => !fail.getLsbD p.2).map (·.1)

theorem mem_goodReadings {fail : BitVec 4} {x : Int} :
    x ∈ goodReadings a b c d fail ↔ ∃ i, i < 4 ∧ fail.getLsbD i = false ∧ reading a b c d i = x := by
  unfold goodReadings
  rw [List.mem_map]
  constructor
  · rintro ⟨⟨y, i⟩, hmem, rfl⟩
    rw [List.mem_filter, List.mem_zipIdx_iff_getElem?] at hmem
    obtain ⟨hget, hfail⟩ := hmem
    have hi : i < 4 := (List.getElem?_eq_some_iff.1 hget).1
    refine ⟨i, hi, by simpa using hfail, ?_⟩
    rw [← readings_getD a b c d hi, List.getD_eq_getElem?_getD, hget]
    rfl
  · rintro ⟨i, hi, hfail, rfl⟩
    refine ⟨(reading a b c d i, i), ?_, rfl⟩
    rw [List.mem_filter, List.mem_zipIdx_iff_getElem?]
    refine ⟨?_, by simpa using hfail⟩
    obtain rfl | rfl | rfl | rfl : i = 0 ∨ i = 1 ∨ i = 2 ∨ i = 3 := by omega
    all_goals rfl

theorem two_failed : ∀ fail : BitVec 4, 2 ≤ 4 - ((List.range 4).filter fun i => !fail.getLsbD i).length ↔
    ∃ j, j < 4 ∧ ∃ i, i < j ∧ fail.getLsbD i = true ∧ fail.getLsbD j = true := by
  decide

/-- Two sensors have failed. -/
theorem length_goodReadings (fail : BitVec 4) :
    2 ≤ 4 - (goodReadings a b c d fail).length ↔ ∃ i j, i < j ∧ j < 4 ∧ fail.getLsbD i = true ∧ fail.getLsbD j = true := by
  have hlen : (goodReadings a b c d fail).length = ((List.range 4).filter fun i => !fail.getLsbD i).length := by
    have hzip : (readings a b c d).zipIdx.map Prod.snd = List.range 4 := rfl
    unfold goodReadings
    rw [List.length_map, ← hzip, List.filter_map, List.length_map]
    rfl
  rw [hlen, two_failed]
  constructor
  · rintro ⟨j, hj, i, hij, hi, hfj⟩
    exact ⟨i, j, hij, hj, hi, hfj⟩
  · rintro ⟨i, j, hij, hj, hi, hfj⟩
    exact ⟨j, hj, i, hij, hi, hfj⟩

/-- What becomes of THROTTLE in a round. -/
def throttled (s : State) (good : List Int) : Bool :=
  if 2 ≤ 4 - good.length then true
  else if good.any fun x => decide (thrThrottle s ≤ x) then true
  else if good.all fun x => decide (x ≤ thrThrottle s - thrHyst s) then false
  else s.pw.thr

theorem throttled_spec (s : State) (fail : BitVec 4) :
    ((∃ i j, i < j ∧ j < 4 ∧ fail.getLsbD i = true ∧ fail.getLsbD j = true) → throttled s (goodReadings a b c d fail) = true) ∧
    ((∀ i j, i < j → j < 4 → ¬ fail.getLsbD i = true ∨ ¬ fail.getLsbD j = true) →
      ((∃ i, i < 4 ∧ ¬ fail.getLsbD i = true ∧ thrThrottle s ≤ reading a b c d i) → throttled s (goodReadings a b c d fail) = true) ∧
      ((∀ i, i < 4 → ¬ fail.getLsbD i = true → reading a b c d i < thrThrottle s ∧ reading a b c d i ≤ thrThrottle s - thrHyst s) →
        throttled s (goodReadings a b c d fail) = false) ∧
      ((∀ i, i < 4 → ¬ fail.getLsbD i = true → reading a b c d i < thrThrottle s) →
        (∃ i, i < 4 ∧ ¬ fail.getLsbD i = true ∧ thrThrottle s - thrHyst s < reading a b c d i) →
        throttled s (goodReadings a b c d fail) = s.pw.thr)) := by
  have hmem : ∀ x, x ∈ goodReadings a b c d fail ↔ ∃ i, i < 4 ∧ ¬ fail.getLsbD i = true ∧ reading a b c d i = x := fun x => by
    rw [mem_goodReadings]
    simp only [Bool.not_eq_true]
  have hlen := length_goodReadings a b c d fail
  unfold throttled
  generalize goodReadings a b c d fail = good at hmem hlen
  refine ⟨fun h => if_pos (hlen.2 h), fun h => ?_⟩
  have hno : ¬ 2 ≤ 4 - good.length := by
    rw [hlen]
    rintro ⟨i, j, hij, hj, hi, hfj⟩
    exact (h i j hij hj).elim (· hi) (· hfj)
  rw [if_neg hno]
  have hany : (good.any fun x => decide (thrThrottle s ≤ x)) = true ↔ ∃ i, i < 4 ∧ ¬ fail.getLsbD i = true ∧ thrThrottle s ≤ reading a b c d i := by
    rw [List.any_eq_true]
    constructor
    · rintro ⟨x, hx, hle⟩
      obtain ⟨i, hi, hf, rfl⟩ := (hmem x).1 hx
      exact ⟨i, hi, hf, of_decide_eq_true hle⟩
    · rintro ⟨i, hi, hf, hle⟩
      exact ⟨_, (hmem _).2 ⟨i, hi, hf, rfl⟩, decide_eq_true hle⟩
  have hall : (good.all fun x => decide (x ≤ thrThrottle s - thrHyst s)) = true ↔
      ∀ i, i < 4 → ¬ fail.getLsbD i = true → reading a b c d i ≤ thrThrottle s - thrHyst s := by
    rw [List.all_eq_true]
    constructor
    · exact fun hx i hi hf => of_decide_eq_true (hx _ ((hmem _).2 ⟨i, hi, hf, rfl⟩))
    · intro hx x hxm
      obtain ⟨i, hi, hf, rfl⟩ := (hmem x).1 hxm
      exact decide_eq_true (hx i hi hf)
  refine ⟨fun hex => if_pos (hany.2 hex), fun hcool => ?_, fun hlow hex => ?_⟩
  · rw [if_neg, if_pos (hall.2 fun i hi hf => (hcool i hi hf).2)]
    rw [hany]
    rintro ⟨i, hi, hf, hle⟩
    have := (hcool i hi hf).1
    omega
  · rw [if_neg, if_neg]
    · rw [hall]
      intro hcool
      obtain ⟨i, hi, hf, hlt⟩ := hex
      have := hcool i hi hf
      omega
    · rw [hany]
      rintro ⟨i, hi, hf, hle⟩
      have := hlow i hi hf
      omega

end

end Sys2Proof.Machine
end

section
/-!
PROOFS. Chapters 14 and 17: temperature rounds and the wakes of the part, settled (R321, R322, R343, R386 to R389).
-/
namespace Sys2Proof.Machine
open Sys2Proof.Safety Sys2Proof.Claims

variable {s b e u x before : State} {n : Nat} {a c d : BitVec 12} {f : BitVec 16}

/-! ## A round of the thermal monitor -/

/-- `e` is `b` but for the store's work and the flags gathered. -/
def OnFlags (b e : State) : Prop := ∃ v h, e = { b with nv := v, hsAcc := h }

theorem onFlags_refl (s : State) : OnFlags s s := ⟨_, _, rfl⟩

theorem OnFlags.trans (h : OnFlags s b) (k : OnFlags b e) : OnFlags s e := by
  obtain ⟨v, x, rfl⟩ := h
  obtain ⟨v', x', rfl⟩ := k
  exact ⟨v', x', rfl⟩

theorem onFlags_ite {p : Prop} [Decidable p] (h : OnFlags s e) (k : OnFlags s u) : OnFlags s (if p then e else u) := by
  split
  · exact h
  · exact k

theorem onFlags_house (h : OnFlags s e) (f : BitVec 16) : OnFlags s (house e f) := by
  obtain ⟨v, x, rfl⟩ := h
  exact ⟨v, _, rfl⟩

theorem onFlags_logThermal (h : OnFlags s e) (k : BitVec 8) : OnFlags s (logThermal e k) := by
  obtain ⟨v, x, rfl⟩ := h
  unfold logThermal logEntry pushJob
  split <;> exact ⟨_, _, rfl⟩

theorem hsAcc_logThermal (s : State) (k : BitVec 8) : (logThermal s k).hsAcc = s.hsAcc := by
  unfold logThermal logEntry pushJob
  split <;> rfl

/-- A flag that has been gathered stays so through what follows a change of the budget. -/
theorem hsAcc_arbSettle (h : s.hsAcc.getLsbD n = true) (b : State) : (arbSettle b s).hsAcc.getLsbD n = true := by
  have h1 : (budgetFlagged b s).hsAcc.getLsbD n = true := by
    unfold budgetFlagged
    split
    · rw [house_hsAcc, BitVec.getLsbD_or, h, Bool.true_or]
    · exact h
  have h2 : (overdrawn (budgetFlagged b s)).hsAcc.getLsbD n = true := by
    unfold overdrawn
    split
    · rw [house_hsAcc, BitVec.getLsbD_or]
      exact (Bool.or_eq_true _ _).mpr (.inl h1)
    · exact h1
  have h3 : (aimed (overdrawn (budgetFlagged b s))).hsAcc.getLsbD n = true := by
    unfold aimed
    split
    · exact h2
    · obtain ⟨gs, k, v, f, hr⟩ := (revoked_revoke (overdrawn (budgetFlagged b s))).only
      rw [hr]
      exact h2
  rw [arbSettle_eq]
  generalize aimed (overdrawn (budgetFlagged b s)) = x at h3
  change (recovered x).hsAcc.getLsbD n = true
  unfold recovered
  split <;> exact h3

section
variable (s : State) (a b c d : BitVec 12)

/-- The sensors failed after a round, and the good readings left. -/
def failing : BitVec 4 := nextFail s (readings a b c d) (nextDev s (readings a b c d))

/-- What a round records. -/
def measured (tm : BitVec 12) (tw : Bool) : State :=
  { s with pw := { s.pw with
      t0 := a, t1 := b, t2 := c, t3 := d, tMax := tm, tDev := nextDev s (readings a b c d), tFail := failing s a b c d
      thr := throttled s (goodReadings a b c d (failing s a b c d)), tWarn := tw } }

/-- The throttle's change is logged. -/
def throttleLogged (x : State) : State :=
  if throttled s (goodReadings a b c d (failing s a b c d)) ≠ s.pw.thr then
    logThermal x (if throttled s (goodReadings a b c d (failing s a b c d)) then 1 else 2)
  else x

/-- The warning is flagged and logged. -/
def warningLogged (w : Bool) (x : State) : State := if w then logThermal (house x hTHERM) 3 else x

/-- A sensor newly failed is flagged and logged. -/
def failureLogged (x : State) : State :=
  if failing s a b c d &&& ~~~s.pw.tFail ≠ 0 then logThermal (house x hTHERM) 4 else x

/-- What a round gathers. -/
def roundLogged (tm : BitVec 12) (tw w : Bool) : State :=
  failureLogged s a b c d (warningLogged w (throttleLogged s a b c d (measured s a b c d tm tw)))

theorem thermalRound_eq (hr : thermalRuns s = true) : ∃ tm tw w,
    thermalRound s a b c d = if hasCommit (roundLogged s a b c d tm tw w) then arbSettle s (roundLogged s a b c d tm tw w)
      else roundLogged s a b c d tm tw w := by
  unfold thermalRound
  rw [hr]
  exact ⟨_, _, _, rfl⟩

theorem onFlags_roundLogged (tm : BitVec 12) (tw w : Bool) : OnFlags (measured s a b c d tm tw) (roundLogged s a b c d tm tw w) := by
  have h1 : OnFlags (measured s a b c d tm tw) (throttleLogged s a b c d (measured s a b c d tm tw)) :=
    onFlags_ite (onFlags_logThermal (onFlags_refl _) _) (onFlags_refl _)
  have h2 := onFlags_ite (p := w = true) (onFlags_logThermal (onFlags_house h1 hTHERM) 3) h1
  exact onFlags_ite (onFlags_logThermal (onFlags_house h2 hTHERM) 4) h2

theorem roundLogged_flag (h : failing s a b c d &&& ~~~s.pw.tFail ≠ 0) (tm : BitVec 12) (tw w : Bool) :
    (roundLogged s a b c d tm tw w).hsAcc.getLsbD 6 = true := by
  unfold roundLogged failureLogged
  rw [if_pos h, hsAcc_logThermal, house_hsAcc, BitVec.getLsbD_or]
  exact Bool.or_true _

end

/-! ## What a round shows -/

/-- A flag gathered reaches HS_STAT at the close. -/
theorem houseFlag_settle (hacc : x.sqAcc = []) (hn : n < 16) (h : x.hsAcc.getLsbD n = true) (b : State) :
    (sqOf (settle b x) 0x300).flags.getLsbD n = true := by
  have hdone : (nvDone b x).hsAcc.getLsbD n = true := by
    unfold nvDone
    split
    · rw [house_hsAcc, BitVec.getLsbD_or, h, Bool.true_or]
    · exact h
  have hwidth : decide (n < 24) = true := decide_eq_true (by omega)
  rw [sqOf_settle_house _ _ (by rw [hacc]; rfl), sqRaise_bit, BitVec.getLsbD_setWidth, hdone, hwidth]
  exact Bool.or_true _

section
variable (s : State) (a b c d : BitVec 12)

/-- What the arbiter leaves of a round's record. -/
theorem thermalRound_frame (hr : thermalRuns s = true) : ∃ tm tw,
    (thermalRound s a b c d).pw = (measured s a b c d tm tw).pw ∧ (thermalRound s a b c d).links = s.links ∧
    (thermalRound s a b c d).irq = s.irq ∧ (thermalRound s a b c d).cfg = s.cfg ∧ (thermalRound s a b c d).sqAcc = s.sqAcc ∧
    (failing s a b c d &&& ~~~s.pw.tFail ≠ 0 → (thermalRound s a b c d).hsAcc.getLsbD 6 = true) := by
  obtain ⟨tm, tw, w, he⟩ := thermalRound_eq s a b c d hr
  obtain ⟨v, f, hon⟩ := onFlags_roundLogged s a b c d tm tw w
  have hflag := fun h => roundLogged_flag s a b c d h tm tw w
  have hpw : (roundLogged s a b c d tm tw w).pw = (measured s a b c d tm tw).pw := by rw [hon]
  have hframe : (roundLogged s a b c d tm tw w).links = s.links ∧ (roundLogged s a b c d tm tw w).irq = s.irq ∧
      (roundLogged s a b c d tm tw w).cfg = s.cfg ∧ (roundLogged s a b c d tm tw w).sqAcc = s.sqAcc := by
    rw [hon]
    exact ⟨rfl, rfl, rfl, rfl⟩
  obtain ⟨hlinks, hirq, hcfg, hacc⟩ := hframe
  refine ⟨tm, tw, ?_⟩
  rw [he]
  generalize roundLogged s a b c d tm tw w = x at hpw hlinks hirq hcfg hacc hflag
  split
  · obtain ⟨apw, acfg, airq, alinks, aacc, -⟩ := (arbOnly_arbSettle s x).frame
    exact ⟨apw.trans hpw, alinks.trans hlinks, airq.trans hirq, acfg.trans hcfg, aacc.trans hacc, fun h => hsAcc_arbSettle (hflag h) s⟩
  · exact ⟨hpw, hlinks, hirq, hcfg, hacc, hflag⟩

theorem failing_get (i : Nat) (hi : i < 4) : (failing s a b c d).getLsbD i = true ↔ s.pw.tFail.getLsbD i = true ∨ fails a b c d s i :=
  nextFail_get a b c d s hi

theorem newly_failed {i : Nat} (h : (failing s a b c d).getLsbD i = true) (hold : s.pw.tFail.getLsbD i = false) :
    failing s a b c d &&& ~~~s.pw.tFail ≠ 0 := by
  have hi : i < 4 := BitVec.lt_of_getLsbD h
  intro hzero
  have hbit := congrArg (·.getLsbD i) hzero
  rw [BitVec.getLsbD_and, BitVec.getLsbD_not, h, hold, decide_eq_true hi] at hbit
  simp at hbit

end

theorem thermalRuns_iff : thermalRuns s = true ↔ s.pw.mode ≠ .reset ∧ s.pw.mode ≠ .test := by
  unfold thermalRuns
  cases s.pw.mode <;> simp

theorem exec_thermalRound_stopped (hq : Quiet s) (hm : s.pw.mode = .reset ∨ s.pw.mode = .test) (a b c d : BitVec 12) :
    ∃ t, exec (.thermalRound a b c d) s = .next t ∧ UpToMarks s t := by
  have hstop : thermalRuns s = false := by
    rw [← Bool.not_eq_true, thermalRuns_iff]
    tauto
  have hx : thermalRound s a b c d = s := by
    unfold thermalRound
    rw [hstop]
    rfl
  refine exists_next_upToMarks hq ?_ (unflagged_refl s)
  change execThermalRound a b c d s = _
  unfold execThermalRound
  rw [hx]

/-! ## What ends device-level FALLOW (R321, R322, R343) -/

/-- The waking record, while FALLOW still stands. -/
def waking (s : State) (code : BitVec 3) (num : BitVec 7) : State := { s with pw := { s.pw with wakeSrc := code, wakeNum := num } }

/-- The part has left FALLOW for the operating mode. -/
def wokenPw (s : State) (code : BitVec 3) (num : BitVec 7) : Power := { s.pw with mode := .operating, wakeSrc := code, wakeNum := num }

/-- The part in the operating mode, the budget that a throttle found in FALLOW trims taken. -/
def outOfFallow (s : State) (code : BitVec 3) (num : BitVec 7) : State :=
  arbSettle (waking s code num) { s with pw := wokenPw s code num }

theorem outOfFallow_frame (s : State) (code : BitVec 3) (num : BitVec 7) :
    (outOfFallow s code num).pw = wokenPw s code num ∧ (outOfFallow s code num).irq = s.irq := by
  obtain ⟨hpw, -, hirq, -⟩ := (arbOnly_arbSettle (waking s code num) { s with pw := wokenPw s code num }).frame
  exact ⟨hpw, hirq⟩

theorem exec_wake {src : WakeSource} {num : BitVec 7} (e : State) (h : deviceWake s src num = e) :
    exec (.deviceWake src num) s = .next (settle s e) := by
  rw [← h]
  rfl

theorem exec_wake_ignored (hq : Quiet s) {src : WakeSource} {num : BitVec 7} (h : deviceWake s src num = s) :
    ∃ t, exec (.deviceWake src num) s = .next t ∧ UpToMarks s t := exists_next_upToMarks hq (exec_wake s h) (unflagged_refl s)

theorem deviceWake_awake (hm : s.pw.mode ≠ .fallow) (src : WakeSource) (num : BitVec 7) : deviceWake s src num = s := by
  unfold deviceWake
  rw [decide_eq_false hm]
  rfl

theorem deviceWake_beacon (num : BitVec 7) : deviceWake s .beacon num = s := by
  unfold deviceWake canWake
  rw [Bool.and_false]
  rfl

section
variable (hm : s.pw.mode = .fallow)
include hm

theorem deviceWake_bus (num : BitVec 7) : deviceWake s .bus num = outOfFallow s 2 0 := by
  unfold deviceWake
  rw [hm]
  rfl

theorem deviceWake_thermal (num : BitVec 7) : deviceWake s .thermal num = outOfFallow s 5 0 := by
  unfold deviceWake
  rw [hm]
  rfl

theorem deviceWake_pfail (num : BitVec 7) : deviceWake s .pfail num = enterGasp (waking s 4 0) := by
  unfold deviceWake
  rw [hm]
  rfl

theorem deviceWake_breq {num : BitVec 7} (h : num.toNat < 8) : deviceWake s .breq num = breqAdopt (outOfFallow s 3 num) num.toNat true := by
  have hc : canWake s .breq num = true := decide_eq_true h
  unfold deviceWake
  rw [hm, hc]
  rfl

theorem deviceWake_wired {num : BitVec 7} (hn : num.toNat < 96) (hmask : wMasked s (BitVec.ofNat 24 (32 + num.toNat)) = false) :
    deviceWake s .wired num = if srcEdge s 0 (BitVec.ofNat 24 (32 + num.toNat)) then
      evT (outOfFallow s 1 num) (ikey 0 (BitVec.ofNat 24 (32 + num.toNat))) none else outOfFallow s 1 num := by
  have hc : canWake s .wired num = true := by
    unfold canWake
    rw [decide_eq_true hn, hmask]
    rfl
  unfold deviceWake
  rw [hm, hc]
  rfl

theorem exec_wake_bus (num : BitVec 7) : ∃ t, exec (.deviceWake .bus num) s = .next t ∧ t.pw = wokenPw s 2 0 :=
  ⟨_, exec_wake _ (deviceWake_bus hm num), (settle_pw _ _).trans (outOfFallow_frame s 2 0).1⟩

theorem exec_wake_thermal (num : BitVec 7) : ∃ t, exec (.deviceWake .thermal num) s = .next t ∧ t.pw = wokenPw s 5 0 :=
  ⟨_, exec_wake _ (deviceWake_thermal hm num), (settle_pw _ _).trans (outOfFallow_frame s 5 0).1⟩

theorem exec_wake_pfail (num : BitVec 7) :
    ∃ t, exec (.deviceWake .pfail num) s = .next t ∧ t.pw.mode = .lastGasp ∧ t.pw.wakeSrc = 4 := by
  obtain ⟨v, f, p, he, hmode, -, hsrc, -⟩ := enterGasp_only (waking s 4 0)
  refine ⟨_, exec_wake _ ((deviceWake_pfail hm num).trans he), ?_, ?_⟩
  · rw [settle_pw]
    exact hmode
  · rw [settle_pw]
    exact hsrc

theorem exec_wake_breq {num : BitVec 7} (h : num.toNat < 8) : ∃ t, exec (.deviceWake .breq num) s = .next t ∧
    t.pw = wokenPw s 3 num ∧ t.allot.breq.getLsbD num.toNat = true := by
  have hmode : (outOfFallow s 3 num).pw.mode = .operating ∨ (outOfFallow s 3 num).pw.mode = .safe := by
    rw [(outOfFallow_frame s 3 num).1]
    exact .inl rfl
  have hn : (BitVec.ofNat 3 num.toNat).toNat = num.toNat := by
    rw [BitVec.toNat_ofNat]
    exact Nat.mod_eq_of_lt h
  have hx : deviceWake s .breq num = breqRequest (breqHigh (outOfFallow s 3 num) (BitVec.ofNat 3 num.toNat)) num.toNat := by
    have hhigh := breqAdopt_high (n := BitVec.ofNat 3 num.toNat) hmode
    rw [hn] at hhigh
    exact (deviceWake_breq hm h).trans hhigh
  obtain ⟨-, -, hpw, -⟩ := breqRequest_still (breqHigh (outOfFallow s 3 num) (BitVec.ofNat 3 num.toNat)) num.toNat
  refine ⟨_, exec_wake _ hx, ?_, ?_⟩
  · rw [settle_pw]
    exact hpw.trans (outOfFallow_frame s 3 num).1
  · rw [breq_settle, (follows_breqRequest _ _).breq]
    change (_ ||| (1#8 <<< (BitVec.ofNat 3 num.toNat).toNat)).getLsbD num.toNat = true
    rw [hn, BitVec.getLsbD_or, BitVec.getLsbD_shiftLeft]
    simp [h]

theorem exec_wake_wired {num : BitVec 7} (hn : num.toNat < 96) (hmask : wMasked s (BitVec.ofNat 24 (32 + num.toNat)) = false) :
    ∃ t, exec (.deviceWake .wired num) s = .next t ∧ t.pw = wokenPw s 1 num ∧
      (srcEdge s 0 (BitVec.ofNat 24 (32 + num.toNat)) = true → (intOf s (8192 + 32 + num.toNat)).st = .inactive →
        (intOf t (8192 + 32 + num.toNat)).st = .pending) := by
  have hkey : ikey 0 (BitVec.ofNat 24 (32 + num.toNat)) = 8192 + 32 + num.toNat := by
    have hi : (BitVec.ofNat 24 (32 + num.toNat)).toNat = 32 + num.toNat := by
      rw [BitVec.toNat_ofNat]
      omega
    unfold ikey
    rw [hi, if_neg (by omega)]
    omega
  have hx := deviceWake_wired hm hn hmask
  rw [hkey] at hx
  obtain ⟨hpw, hirq⟩ := outOfFallow_frame s 1 num
  obtain ⟨-, -, hpwT, -⟩ := evT_still (outOfFallow s 1 num) (8192 + 32 + num.toNat) none
  have hst := evT_st (outOfFallow s 1 num) (8192 + 32 + num.toNat) none
  have hint : intOf (outOfFallow s 1 num) (8192 + 32 + num.toNat) = intOf s (8192 + 32 + num.toNat) := by
    unfold intOf
    rw [hirq]
  refine ⟨_, exec_wake _ hx, ?_, fun hedge hin => ?_⟩
  · rw [settle_pw]
    split
    · exact hpwT.trans hpw
    · exact hpw
  · have hhouse : houseKey (8192 + 32 + num.toNat) = false := by
      unfold houseKey
      rw [Bool.and_eq_false_iff, decide_eq_false_iff_not]
      exact .inl (by omega)
    have hno : permitS s = false := by
      unfold permitS operating
      rw [hm]
      rfl
    rw [intOf_settle_permit _ _ _ hhouse (by rw [hno]; exact fun h => absurd h Bool.false_ne_true), if_pos hedge, hst, hint, hin]

end

/-- Settles O53. A round changes the thermal monitor's own fields and gathers flags, so its clauses are those of `nextDev`,
`nextFail` and `throttled`; a wake-up turns on the arbiter's following the mode. -/
theorem temperatureAndWakes : Obligations.TemperatureAndWakes := by
  intro s hq
  refine ⟨fun a b c d hr ht => ?_, exec_thermalRound_stopped hq, fun hm => ?_, fun hm src num =>
    exec_wake_ignored hq (deviceWake_awake hm src num)⟩
  · obtain ⟨tm, tw, hpw, hlinks, hirq, hcfg, hacc, hflag⟩ := thermalRound_frame s a b c d (thermalRuns_iff.2 ⟨hr, ht⟩)
    obtain ⟨htwo, hone⟩ := throttled_spec a b c d s (failing s a b c d)
    refine ⟨_, rfl, ?_⟩
    change let t := settle s (thermalRound s a b c d); _
    dsimp only
    rw [settle_pw, settle_links, settle_tgts, settle_live, hpw, hlinks, hirq, hcfg]
    refine ⟨rfl, rfl, rfl, rfl, fun i hi => ⟨nextDev_get a b c d s hi, failing_get s a b c d i hi⟩, htwo, hone, ?_, rfl, rfl, rfl, rfl⟩
    rintro ⟨i, -, hfail, hold⟩
    exact houseFlag_settle (hacc.trans hq.2) (by omega) (hflag (newly_failed s a b c d hfail hold)) s
  · exact ⟨fun num => exec_wake_wired hm, exec_wake_bus hm, fun num => exec_wake_breq hm, exec_wake_pfail hm, exec_wake_thermal hm,
      fun num => exec_wake_ignored hq (deviceWake_beacon num)⟩

end Sys2Proof.Machine
end

section
/-!
PROOFS. Chapters 15 and 16: resets of the whole part and the release, settled in part (R105, R325 to R331, R340).
-/
namespace Sys2Proof.Machine
open Sys2Proof.Safety Sys2Proof.Claims

variable {s b e u x : State} {cause : BitVec 4} {n : Nat}

/-! ## The work cut off -/

/-- Only the store's state and the free values move, and with no work in hand the contents stay. -/
def SpoilsOnly (s e : State) : Prop :=
  ∃ v f, e = { s with nv := v, free := f } ∧
    (s.nv.op = none → s.nv.gasp = none → v.op = none ∧ v.gasp = none ∧ v.mem = s.nv.mem ∧ v.indet = s.nv.indet)

theorem SpoilsOnly.trans (h : SpoilsOnly s b) (k : SpoilsOnly b e) : SpoilsOnly s e := by
  obtain ⟨v, f, rfl, hv⟩ := h
  obtain ⟨v', f', rfl, hv'⟩ := k
  refine ⟨v', f', rfl, fun ho hg => ?_⟩
  obtain ⟨ho', hg', hmem, hindet⟩ := hv ho hg
  obtain ⟨ho'', hg'', hmem', hindet'⟩ := hv' ho' hg'
  exact ⟨ho'', hg'', hmem'.trans hmem, hindet'.trans hindet⟩

theorem spoilsOnly_refl (s : State) : SpoilsOnly s s := ⟨_, _, rfl, fun ho hg => ⟨ho, hg, rfl, rfl⟩⟩

/-- A word or an erase in hand is spoiled. -/
theorem spoilsOnly_abortErase (s : State) : SpoilsOnly s (abortErase s) := by
  unfold abortErase
  split
  · next h => exact ⟨_, _, rfl, fun hn => by rw [hn] at h; cases h⟩
  · exact spoilsOnly_refl s

def opSpoiled (s : State) : State :=
  match s.nv.op with
  | some (.program addr _) => nvSpoilWord s addr
  | _ => s

theorem spoilsOnly_opSpoiled (s : State) : SpoilsOnly s (opSpoiled s) := by
  unfold opSpoiled
  split
  · next h => exact ⟨_, _, rfl, fun hn => by rw [hn] at h; cases h⟩
  · exact spoilsOnly_refl s

/-- The words of a record that are not written yet are spoiled. -/
def gaspSpoiled (s : State) : State :=
  match s.nv.gasp with
  | some g => foldS (fun s w => if wordErased s (g.addr + 32 * w) then nvSpoilWord s (g.addr + 32 * w) else s) s (upTo 7)
  | none => s

theorem spoilsOnly_gaspSpoiled (s : State) : SpoilsOnly s (gaspSpoiled s) := by
  unfold gaspSpoiled
  split
  · next g hg =>
    obtain ⟨v, f, hx⟩ := foldS_inv (fun y => ∃ v f, y = { s with nv := v, free := f })
      (fun s w => if wordErased s (g.addr + 32 * w) then nvSpoilWord s (g.addr + 32 * w) else s) (upTo 7) s ⟨_, _, rfl⟩ fun y w hy => by
        obtain ⟨v, f, rfl⟩ := hy
        split <;> exact ⟨_, _, rfl⟩
    exact ⟨v, f, hx, fun _ hn => by rw [hn] at hg; cases hg⟩
  · exact spoilsOnly_refl s

theorem cutWork_only (s : State) : SpoilsOnly s (cutWork s) := by
  refine ((spoilsOnly_abortErase s).trans ((spoilsOnly_opSpoiled _).trans (spoilsOnly_gaspSpoiled _))).trans ?_
  exact ⟨_, _, rfl, fun _ _ => ⟨rfl, rfl, rfl, rfl⟩⟩

/-- The store keeps its contents over a reset that cuts off no work. -/
theorem storeKept_cutWork (ho : s.nv.op = none) (hg : s.nv.gasp = none) : storeKept (cutWork s) = { mem := s.nv.mem, indet := s.nv.indet } := by
  obtain ⟨v, f, hx, hv⟩ := cutWork_only s
  obtain ⟨-, -, hmem, hindet⟩ := hv ho hg
  unfold storeKept
  rw [hx, hmem, hindet]

/-! ## Resets of the whole part (R325 to R327, R340) -/

theorem warmReset_warm (s : State) (cause : BitVec 4) (shut : Bool) : warm s (warmReset s cause shut) cause := by
  obtain ⟨v, f, hx, -⟩ := cutWork_only s
  have hcause : (if (cutWork s).pw.mode = .reset && (cutWork s).pw.nextCause = 1 then 1 else cause) =
      if s.pw.mode = .reset ∧ s.pw.nextCause = 1 then (1 : BitVec 4) else cause := by
    rw [hx]
    simp only [Bool.and_eq_true, decide_eq_true_eq]
  have hkept := storeKept_cutWork (s := s)
  unfold warmReset
  dsimp only
  rw [hcause]
  generalize storeKept (cutWork s) = nv at hkept
  rw [hx]
  exact ⟨⟨rfl, rfl, rfl, rfl, rfl, rfl, rfl, rfl, rfl, rfl, rfl, rfl, rfl, rfl, rfl, hkept⟩, rfl, rfl, rfl, rfl, rfl, rfl, rfl⟩

theorem warmReset_ir (s : State) (cause : BitVec 4) (shut : Bool) : (warmReset s cause shut).pw.ir = s.pw.ir :=
  congrArg (·.ir) (cutWork_pw s)

theorem npor_wiped (s : State) : wiped s (npor s) := by
  obtain ⟨v, f, hx, -⟩ := cutWork_only s
  have hkept := storeKept_cutWork (s := s)
  unfold npor
  dsimp only
  generalize storeKept (cutWork s) = nv at hkept
  rw [hx]
  exact ⟨rfl, rfl, rfl, rfl, rfl, rfl, rfl, rfl, rfl, rfl, rfl, rfl, rfl, rfl, rfl, hkept⟩

theorem askWarm_modes (hm : s.pw.mode ∉ [Mode.shutdown, .test, .lastGasp]) : askWarm s cause = warmReset s cause false := by
  unfold askWarm
  split
  · next h => exact absurd (by rw [h]; decide) hm
  · next h => exact absurd (by rw [h]; decide) hm
  · next h => exact absurd (by rw [h]; decide) hm
  · rfl

/-- nRESET adopted low, over what it asks for. -/
theorem exec_nreset (h : askWarm s 2 = x) : exec .nreset s = .next { x with pw := { x.pw with nresetLow := true } } := by
  rw [← h]
  rfl

theorem exec_nreset_ignored (h : s.pw.mode = .test ∨ (s.pw.mode = .shutdown ∧ allCool s = false)) :
    exec .nreset s = .next { s with pw := { s.pw with nresetLow := true } } := by
  refine exec_nreset ?_
  unfold askWarm
  obtain h | ⟨h, hc⟩ := h
  · rw [h]
  · rw [h, hc]
    rfl

theorem exec_nreset_shutdown (hm : s.pw.mode = .shutdown) (hc : allCool s = true) :
    ∃ t, exec .nreset s = .next t ∧ warm s t 2 ∧ t.pw.endsShut = true := by
  have hx : askWarm s 2 = warmReset s 2 true := by
    unfold askWarm
    rw [hm, hc]
    rfl
  exact ⟨_, exec_nreset hx, warmReset_warm s 2 true, rfl⟩

theorem exec_nreset_deferred (hm : s.pw.mode = .lastGasp) (hg : s.pw.gaspWriting = true) :
    exec .nreset s = .next { s with pw := { s.pw with nresetLow := true, deferred := some 2 } } := by
  have hx : askWarm s 2 = { s with pw := { s.pw with deferred := some 2 } } := by
    unfold askWarm
    rw [hm, hg]
    rfl
  exact exec_nreset hx

theorem exec_pllLoss (hm : s.pw.mode ≠ .shutdown) (hl : s.pw.pllLocked = true) :
    ∃ t, exec .pllLoss s = .next t ∧ wiped s t ∧ t.pw.pllLocked = false ∧ t.tb.frame = s.tb.frame := by
  have hx : pllLoss s = { warmReset s 4 false with pw := { (warmReset s 4 false).pw with pllLocked := false } } := by
    unfold pllLoss
    rw [decide_eq_false hm, hl]
    rfl
  obtain ⟨hw, htb, -⟩ := warmReset_warm s 4 false
  exact ⟨_, congrArg Host.Outcome.next hx, hw, rfl, congrArg (·.frame) htb⟩

theorem exec_pllLoss_ignored (h : s.pw.mode = .shutdown ∨ s.pw.pllLocked = false) : exec .pllLoss s = .next s := by
  refine congrArg Host.Outcome.next (?_ : pllLoss s = s)
  unfold pllLoss
  obtain h | h := h
  · rw [h]
    rfl
  · rw [h, Bool.not_false, Bool.or_true]
    rfl

theorem exec_testExit (hm : s.pw.mode = .test) : ∃ t, exec .testExit s = .next t ∧ warm s t 5 ∧ t.pw.ir = 2 := by
  have hx : testExit s = warmReset (takeIr s 2) 5 false := by
    unfold testExit
    rw [if_pos hm]
  exact ⟨_, congrArg Host.Outcome.next hx, warmReset_warm (takeIr s 2) 5 false, warmReset_ir _ _ _⟩

theorem exec_gaspRecovery (hm : s.pw.mode = .lastGasp) (hg : s.pw.gaspWriting = false) :
    ∃ t, exec .gaspRecovery s = .next t ∧ warm s t 6 := by
  have hx : gaspRecovery s = warmReset s 6 false := by
    unfold gaspRecovery
    rw [hm, hg]
    rfl
  exact ⟨_, congrArg Host.Outcome.next hx, warmReset_warm s 6 false⟩

theorem exec_gaspRecovery_ignored (h : s.pw.mode ≠ .lastGasp ∨ s.pw.gaspWriting = true) : exec .gaspRecovery s = .next s := by
  refine congrArg Host.Outcome.next (?_ : gaspRecovery s = s)
  unfold gaspRecovery
  obtain h | h := h
  · rw [decide_eq_false h]
    rfl
  · rw [h, Bool.not_true, Bool.and_false]
    rfl

/-! ## The release (R105, R325, R328, R331) -/

theorem exec_nporRise (hm : s.pw.mode = .reset) (hn : s.pw.nporHigh = false) (range : HbRange) :
    exec (.nporRise range) s = .next { s with pw := { s.pw with nporHigh := true, hbRange := range } } := by
  refine congrArg Host.Outcome.next (?_ : nporRise s range = _)
  unfold nporRise
  rw [hm, hn]
  rfl

theorem exec_rootPllLock (hm : s.pw.mode = .reset) (hn : s.pw.nporHigh = true) (hl : s.pw.pllLocked = false) :
    exec .rootPllLock s = .next { s with pw := { s.pw with pllLocked := true }, tb := { s.tb with started := true } } := by
  refine congrArg Host.Outcome.next (?_ : rootPllLock s = _)
  unfold rootPllLock
  rw [hm, hn, hl]
  rfl

/-- The straps stand inverted in the output enables. -/
theorem woutReset_straps (straps : BitVec 5) : ((0xFFE00000 : Word) ||| put (~~~straps).toNat 16).extractLsb' 16 5 = ~~~straps := by
  revert straps
  decide

theorem exec_resetRelease (straps : BitVec 5) (level : BitVec 4) (hm : s.pw.mode = .reset) (hn : s.pw.nporHigh = true)
    (hl : s.pw.pllLocked = true) :
    ∃ t, exec (.resetRelease straps level) s = .next t ∧ t.pw.mode = .load ∧ t.pw.straps = straps ∧
      t.pw.cause = s.pw.nextCause ∧ t.pw.shut = s.pw.endsShut ∧
      t.pw.count = (if s.pw.nextCause = 1 then 0 else satInc8 s.pw.count) ∧ t.allot.level = level ∧
      t.tb.mode = (if straps.getLsbD 3 = true then .acquire else .free) ∧ t.irq = s.irq ∧ t.nv = s.nv ∧
      (regLive t 0x1280).extractLsb' 16 5 = ~~~straps := by
  refine ⟨resetRelease s straps level, rfl, ?_⟩
  unfold resetRelease
  rw [hm, hn, hl]
  rw [if_pos (by decide)]
  refine ⟨rfl, rfl, rfl, rfl, ?_, rfl, rfl, rfl, rfl, ?_⟩
  · change (if s.pw.nextCause ≠ 1 then satInc8 s.pw.count else 0) = _
    exact ite_not _ _ _
  · rw [regLive, liveAt, setLive, tabGet_tabSet_self]
    exact woutReset_straps straps

theorem exec_resetRelease_ignored (straps : BitVec 5) (level : BitVec 4) (hm : s.pw.mode ≠ .reset) :
    exec (.resetRelease straps level) s = .next s := by
  refine congrArg Host.Outcome.next (?_ : resetRelease s straps level = s)
  unfold resetRelease
  rw [decide_eq_false hm]
  rfl

end Sys2Proof.Machine
end

section
/-!
PROOFS. Chapters 15, 16 and 22: the keyed resets, and the test access port (R330, R331, R342, R440, R486, R487, R490).
-/
namespace Sys2Proof.Machine
open Sys2Proof.Safety Sys2Proof.Claims

variable {s b e u x : State} {c n : Nat}

/-! ## RST_CTL (R440) -/

/-- The fields of a keyed write, under the enables of its two bytes. -/
def keyed (low : Nat) (key : BitVec 8) : Word := writeOnes .plain 3 (BitVec.ofNat 32 low ||| put key.toNat 8)

theorem keyed_key : ∀ low < 4, ∀ key : BitVec 8, fld (keyed low key) 8 8 = key.toNat := by
  decide +kernel

theorem servedWrite_rstCtl (s : State) (low : Nat) (key : BitVec 8) :
    servedWrite s .plain 0x208 3 (BitVec.ofNat 32 low ||| put key.toNat 8) 0 = rstCtl s (keyed low key) := by
  have hz : ∀ m : Word, (0 : Word) &&& m = 0 := fun m => BitVec.zero_and
  exact (servedWrite_act s 0 (by decide) (hz _) (hz _)).trans rfl

/-- With another key the write does nothing. -/
theorem rstCtl_locked (low : Nat) (hlow : low < 4) {key : BitVec 8} (h : key ≠ 0xA5) : rstCtl s (keyed low key) = s := by
  unfold rstCtl
  rw [keyed_key low hlow]
  exact if_neg fun h' : key.toNat = 165 => h (BitVec.eq_of_toNat_eq h')

theorem put_rstCtl_locked (hq : Quiet s) (hs : served s true 0x208 3) (low : Nat) (hlow : low < 4) {key : BitVec 8} (h : key ≠ 0xA5) :
    ∃ t, busPut 0x208 3 (BitVec.ofNat 32 low ||| put key.toNat 8) s = .next t ∧ UpToMarks s t :=
  ⟨_, put_effect hs (by decide) ((servedWrite_rstCtl s low key).trans (rstCtl_locked low hlow h)) rfl, (unflagged_refl s).upToMarks hq⟩

theorem warmData (also : Bool) (key : BitVec 8) :
    exec (.softwareWarmReset key also) s = busPut 0x208 3 (BitVec.ofNat 32 (if also then 3 else 1) ||| put key.toNat 8) s := by
  cases also <;> rfl

theorem exec_softwareWarmReset (hm : s.pw.mode = .operating ∨ s.pw.mode = .safe ∨ s.pw.mode = .load) (hs : served s true 0x208 3) (also : Bool) :
    ∃ t, exec (.softwareWarmReset 0xA5 also) s = .next t ∧ warm s t 3 := by
  have hask : askWarm s 3 = warmReset s 3 false := by
    refine askWarm_modes fun h => ?_
    obtain h' | h' | h' := hm <;> rw [h'] at h <;> exact absurd h (by decide)
  have hw : busWrite s 0x208 3 (BitVec.ofNat 32 (if also then 3 else 1) ||| put (0xA5 : BitVec 8).toNat 8) 0 = warmReset s 3 false := by
    refine (busWrite_of_served hs (by decide)).trans ((servedWrite_rstCtl s _ _).trans (Eq.trans ?_ hask))
    cases also <;> rfl
  refine ⟨_, ?_, warmReset_warm s 3 false⟩
  rw [warmData]
  change busDo s (fun s => busWrite s 0x208 3 _ 0) = _
  unfold busDo
  rw [if_neg hs.1]
  dsimp only
  rw [hw]
  exact if_pos rfl

theorem exec_softwareWarmReset_locked (hq : Quiet s) (hs : served s true 0x208 3) (also : Bool) {key : BitVec 8} (h : key ≠ 0xA5) :
    ∃ t, exec (.softwareWarmReset key also) s = .next t ∧ UpToMarks s t := by
  rw [warmData]
  exact put_rstCtl_locked hq hs _ (by cases also <;> decide) h

/-! ## The Steward's reset (R330) -/

/-- Without firmware no entry joins the log at the close. -/
theorem settle_jobs (h : x.stew.fw = .none) (b : State) : (settle b x).nv.jobs = x.nv.jobs := by
  obtain ⟨m, e⟩ := noteHwm_eq (flushHouse (arbFollow (settlePermit b (logMode b (nvDone b x)))))
  have hdone : (nvDone b x).nv = x.nv ∧ (nvDone b x).stew.fw = .none := by
    unfold nvDone
    split
    · exact ⟨rfl, h⟩
    · exact ⟨rfl, h⟩
  have hlog : logMode b (nvDone b x) = nvDone b x := by
    unfold logMode
    simp [h]
  unfold settle
  rw [e]
  change (flushHouse (arbFollow (settlePermit b (logMode b (nvDone b x))))).nv.jobs = _
  rw [flushHouse_jobs]
  change (settlePermit b (logMode b (nvDone b x))).nv.jobs = _
  rw [settlePermit_nv, hlog, hdone.1]

/-- What a bundle's part of a Steward reset leaves. -/
theorem bundleStewardReset_only (s : State) : ∃ h b m, bundleStewardReset s = { s with hl := h, bun := b, cfg := { s.cfg with shadow := m } } := by
  unfold bundleStewardReset abandonApply revertShadows
  repeat' split
  all_goals exact ⟨_, _, _, rfl⟩

/-- The work and the bundle that a Steward reset gives up. -/
theorem stewardGivenUp (s : State) : ∃ v f h b m, bundleStewardReset (discardWork s) =
    { s with nv := v, free := f, hl := h, bun := b, cfg := { s.cfg with shadow := m } } ∧ v.jobs = [] := by
  have hjobs : (discardWork s).nv.jobs = [] := rfl
  obtain ⟨v, f, hd, -⟩ := discardWork_only s
  obtain ⟨h, b, m, hb⟩ := bundleStewardReset_only (discardWork s)
  rw [hb]
  rw [hd] at hjobs ⊢
  exact ⟨_, _, _, _, _, rfl, hjobs⟩

/-- The Steward's registers, the mailbox and the engine's contexts and keys, at their reset values. -/
def stewardCleared (s : State) : State :=
  { s with
    mbx := { epoch := s.mbx.epoch + 1 }, au := { s.au with ctxs := [], slots := [], sealed := false }
    stew := { s.stew with fw := .none, imgKind := 0, imgSet := [] } }

/-- A client asks for nothing and holds nothing. -/
def droppedClient (s : State) (c : Nat) : State := freeGrant (dropReq s c) c

/-- The Steward's clients ask for nothing and hold nothing. -/
def stewardDropped (s : State) : State := droppedClient (droppedClient (droppedClient s cPROGRAM) cERASE) cAUTH

theorem stewardReset_eq (hm : hasCommit s = true) : stewardReset s =
    arbSettle (stewardCleared (bundleStewardReset (discardWork s))) (stewardDropped (stewardCleared (bundleStewardReset (discardWork s)))) := by
  unfold stewardReset
  rw [if_pos hm]
  rfl

theorem hasGrant_droppedClient (s : State) (c : Nat) : hasGrant (droppedClient s c) c = false := hasGrant_freeGrant _ _

theorem hasGrant_droppedClient_mono (h : hasGrant s n = false) (c : Nat) : hasGrant (droppedClient s c) n = false :=
  hasGrant_mono (clients_freeGrant (dropReq s c) c) h

/-- What a Steward reset leaves. -/
structure StewardDown (s e : State) : Prop where
  stew : e.stew = { s.stew with fw := .none, imgKind := 0, imgSet := [] }
  mbx : e.mbx = { epoch := s.mbx.epoch + 1 }
  ctxs : e.au.ctxs = []
  slots : e.au.slots = []
  pw : e.pw = s.pw
  live : e.cfg.live = s.cfg.live
  irq : e.irq = s.irq
  links : e.links = s.links
  tb : e.tb = s.tb
  jobs : e.nv.jobs = []
  grants : hasGrant e cPROGRAM = false ∧ hasGrant e cERASE = false ∧ hasGrant e cAUTH = false

theorem stewardReset_down (hm : hasCommit s = true) : StewardDown s (stewardReset s) := by
  have hx := stewardReset_eq hm
  obtain ⟨v, f, hl, bn, sh, hb, hnone⟩ := stewardGivenUp s
  rw [hb] at hx
  rw [hx]
  clear hx
  generalize hc : stewardCleared _ = c
  generalize hy : stewardDropped c = y
  have had := adjusts_arbSettle c y
  have hclients := clients_arbSettle c y
  have hjobs := had.jobs (by rw [← hy, ← hc]; exact hnone)
  obtain ⟨a, v', f', h', ho⟩ := had.only
  have hgrants : hasGrant y cPROGRAM = false ∧ hasGrant y cERASE = false ∧ hasGrant y cAUTH = false := by
    rw [← hy]
    exact ⟨hasGrant_droppedClient_mono (hasGrant_droppedClient_mono (hasGrant_droppedClient _ _) _) _,
      hasGrant_droppedClient_mono (hasGrant_droppedClient _ _) _, hasGrant_droppedClient _ _⟩
  obtain ⟨hprog, herase, hauth⟩ := hgrants
  refine ⟨?_, ?_, ?_, ?_, ?_, ?_, ?_, ?_, ?_, hjobs,
    ⟨hasGrant_mono hclients hprog, hasGrant_mono hclients herase, hasGrant_mono hclients hauth⟩⟩
  all_goals
    rw [ho, ← hy, ← hc]
    rfl

theorem exec_stewardReset (hs : served s true 0x208 3) (hm : s.pw.mode = .operating ∨ s.pw.mode = .safe) :
    ∃ t, exec (.stewardReset 0xA5) s = .next t ∧ t.stew.fw = .none ∧ t.mbx = { epoch := s.mbx.epoch + 1 } ∧
      t.au.ctxs = [] ∧ t.au.slots = [] ∧ t.pw = s.pw ∧ t.cfg.live = s.cfg.live ∧ t.irq.tgts = s.irq.tgts ∧ t.links = s.links ∧
      t.tb = s.tb ∧ t.nv.jobs = [] ∧ hasGrant t cPROGRAM = false ∧ hasGrant t cERASE = false ∧ hasGrant t cAUTH = false := by
  have hcommit : hasCommit s = true := by
    unfold hasCommit operating
    obtain h | h := hm <;> rw [h] <;> rfl
  have hd := stewardReset_down hcommit
  have hexec : exec (.stewardReset 0xA5) s = .next (settle s (stewardReset s)) :=
    put_effect hs (by decide) ((servedWrite_rstCtl s 2 0xA5).trans rfl) (by rw [hd.pw])
  obtain ⟨hprog, herase, hauth⟩ := hd.grants
  have hfw : (stewardReset s).stew.fw = .none := by rw [hd.stew]
  refine ⟨_, hexec, ?_⟩
  rw [settle_stew, settle_mbx, settle_au, settle_pw, settle_live, settle_tgts, settle_links, settle_tb, settle_jobs hfw s, hd.irq]
  exact ⟨hfw, hd.mbx, hd.ctxs, hd.slots, hd.pw, hd.live, rfl, hd.links, hd.tb, hd.jobs, hasGrant_settle hprog s,
    hasGrant_settle herase s, hasGrant_settle hauth s⟩

/-- The resets and the release, clause by clause. -/
theorem Settled.resetsAndRelease : ResetsAndRelease := by
  intro s hq
  have hnpor : ∃ t, exec .npor s = .next t ∧ wiped s t ∧ t.tb = {} ∧ t.stew = {} ∧ t.pw.nextCause = 1 ∧ t.pw.nporHigh = false ∧
      t.pw.pllLocked = false ∧ t.pw.ir = 2 := ⟨npor s, rfl, npor_wiped s, rfl, rfl, rfl, rfl, rfl, rfl⟩
  have hnreset : s.pw.mode ∉ [Mode.shutdown, .test, .lastGasp] → ∃ t, exec .nreset s = .next t ∧ warm s t 2 ∧ t.pw.nresetLow = true :=
    fun hm => ⟨_, exec_nreset (askWarm_modes hm), warmReset_warm s 2 false, rfl⟩
  have htest : s.pw.mode ≠ .test → exec .testExit s = .next s := fun hm => congrArg Host.Outcome.next (if_neg hm : testExit s = s)
  exact ⟨hnpor, hnreset, exec_nreset_ignored, exec_nreset_shutdown, exec_nreset_deferred,
    fun also hm hs => ⟨exec_softwareWarmReset hm hs also, fun key hk => exec_softwareWarmReset_locked hq hs also hk⟩,
    fun hs hm _ => exec_stewardReset hs hm, fun hs key hk => put_rstCtl_locked hq hs 2 (by decide) hk,
    exec_pllLoss, exec_pllLoss_ignored, exec_testExit, htest, exec_gaspRecovery, exec_gaspRecovery_ignored, exec_nporRise,
    exec_rootPllLock, exec_resetRelease, exec_resetRelease_ignored⟩

/-! ## The test access port and the supplies (R342, R486, R487, R490) -/

theorem isTestIr_iff (ir : BitVec 5) : isTestIr ir = true ↔ ir ∈ [(0 : BitVec 5), 4, 5, 6, 8, 9] := by
  unfold isTestIr
  simp [or_assoc]

theorem exec_testEntry {ir : BitVec 5} (hir : ir ∈ [(0 : BitVec 5), 4, 5, 6, 8, 9])
    (hm : s.pw.mode ∈ [Mode.reset, .load, .safe, .operating, .fallow]) :
    exec (.testEntry ir) s = .next { s with
      allot := { s.allot with reqs := [], grants := [] }
      xl := { s.xl with tcache := [], xcache := [] }
      pw := { s.pw with mode := .test, ir := ir, bist := if ir = 8 ∨ ir = 9 then 0 else s.pw.bist } } := by
  refine congrArg Host.Outcome.next (?_ : testEntry s ir = _)
  have hbist : (if isBistIr ir then (0 : Word) else s.pw.bist) = if ir = 8 ∨ ir = 9 then 0 else s.pw.bist := by
    unfold isBistIr
    simp only [Bool.or_eq_true, decide_eq_true_eq]
  have hin : testEntry s ir = { s with
      allot := { s.allot with reqs := [], grants := [] }
      xl := { s.xl with tcache := [], xcache := [] }
      pw := { s.pw with mode := .test, ir := ir, bist := if isBistIr ir then 0 else s.pw.bist } } := by
    unfold testEntry
    rw [if_pos ((isTestIr_iff ir).2 hir)]
    simp only [List.mem_cons, List.not_mem_nil, or_false] at hm
    obtain h | h | h | h | h := hm <;> rw [h] <;> rfl
  rw [hin, hbist]

theorem exec_testEntry_other {ir : BitVec 5} (hir : ir ∉ [(0 : BitVec 5), 4, 5, 6, 8, 9]) (hm : s.pw.mode ≠ .test) :
    exec (.testEntry ir) s = .next { s with pw := { s.pw with ir := ir } } := by
  refine congrArg Host.Outcome.next (?_ : testEntry s ir = _)
  have hbist : isBistIr ir = false := by
    unfold isBistIr
    simp only [List.mem_cons, List.not_mem_nil, or_false, not_or] at hir
    obtain ⟨-, -, -, -, h8, h9⟩ := hir
    rw [decide_eq_false h8, decide_eq_false h9]
    rfl
  unfold testEntry takeIr
  rw [if_neg fun h => hir ((isTestIr_iff ir).1 h), if_neg hm, hbist]
  rfl

theorem bist_own (hm : s.pw.mode = .test) {ir : BitVec 5} (h : s.pw.ir = ir) (test : Nat) (pass : Bool) (nfail : BitVec 8) (first : BitVec 16) :
    bist s ir test pass nfail first = { s with pw := { s.pw with bist := bistWord test pass nfail first } } := by
  unfold bist
  rw [decide_eq_true hm, decide_eq_true h]
  rfl

theorem bist_other {ir : BitVec 5} (h : s.pw.ir ≠ ir) (test : Nat) (pass : Bool) (nfail : BitVec 8) (first : BitVec 16) :
    bist s ir test pass nfail first = s := by
  unfold bist
  rw [decide_eq_false h, Bool.and_false]
  rfl

theorem bistWord_eq (test : Nat) (pass : Bool) (nfail : BitVec 8) (first : BitVec 16) : bistWord test pass nfail first =
    (1 : Word) ||| (if pass = true then 2 else 0) ||| BitVec.ofNat 32 (16 * test) |||
      (if pass = true then 0 else BitVec.ofNat 32 (256 * nfail.toNat) ||| BitVec.ofNat 32 (65536 * first.toNat)) := by
  have hput : ∀ v lo : Nat, put v lo = BitVec.ofNat 32 (2 ^ lo * v) := fun v lo => by
    unfold put
    rw [Nat.shiftLeft_eq, Nat.mul_comm]
  unfold bistWord
  rw [hput, hput, hput]
  cases pass <;> rfl

theorem Settled.testPort : TestPort := by
  intro s hq
  refine ⟨fun ir hir hm => exec_testEntry hir hm, fun ir hir hm => exec_testEntry_other hir hm, fun pass nfail first hm => ?_, fun out => rfl,
    fun k m n h => ?_⟩
  · refine ⟨fun h => ?_, fun h => ?_, fun h => congrArg Host.Outcome.next (bist_other h _ _ _ _),
      fun h => congrArg Host.Outcome.next (bist_other h _ _ _ _)⟩
    · refine (congrArg Host.Outcome.next (bist_own hm h 1 pass nfail first)).trans ?_
      rw [bistWord_eq]
    · refine (congrArg Host.Outcome.next (bist_own hm h 2 pass nfail first)).trans ?_
      rw [bistWord_eq]
  · exact ⟨if_pos h, if_pos h, if_pos h⟩

/-- Settles O54. Every reset of the whole part is `State.reset` but for what it keeps, so each clause is one about what is kept. -/
theorem resetsReleaseAndTest : Obligations.ResetsReleaseAndTest := ⟨Settled.resetsAndRelease, Settled.testPort⟩

end Sys2Proof.Machine
end

section
/-!
PROOFS. Chapter 18: the check of a bundle whose verdict waits for the engine, refuted (R410, R412).
-/
namespace Sys2Proof.Machine
open Sys2Proof.Safety Sys2Proof.Claims

variable {e t : State}

/-! ## The counterexample -/

/-- A staged bundle of sequence 0 under a floor, its key loaded. -/
def stagedUnderFloor : State :=
  { mbx := { q := [{ op := 0x32, tag := 0, a0 := 0, a1 := 0, a2 := 0, a3 := 0 }] }
    pw := { mode := .operating }
    stew := { fw := .olumon, featEn := 0xFF }
    bun := { stage := some 0, declared := 128, floor := 1 }
    nv := { mem := putBytes [] (128 * 4096 + 0x100) [0x42, 0x4E, 0x44, 0x4C, 1, 0, 0, 0, 0, 0, 0, 0, 0, 0, 0, 0] }
    au := { slots := [(0, { key := some { kind := 2, use := 4, bytes := List.replicate 64 0 } })] } }

/-- Its signature fails, which takes turns of the engine to find. -/
theorem stagedUnderFloor_check : bundleCheck stagedUnderFloor noEcc 0 (some 128) (some 1) = 4 := by decide +kernel

theorem stagedUnderFloor_atHead : atHead stagedUnderFloor 0x32 { op := 0x32, tag := 0 } [] :=
  ⟨rfl, rfl, rfl, rfl, .inl rfl, .inr ⟨rfl, rfl⟩, rfl, rfl, rfl⟩

/-- The verdict's item waits behind the engine's work, so CODE keeps its value. -/
theorem stagedUnderFloor_keepsCode : (bundleVerify stagedUnderFloor noEcc).bun.code = 0 := by decide +kernel

/-- What the statement puts in hand: CODE has the verdict already, and the work waits for the engine. -/
def verdictAhead : State :=
  pump { takenUp stagedUnderFloor { op := 0x32, tag := 0 } [] with
    bun := { stagedUnderFloor.bun with code := 4 }
    nv := { stagedUnderFloor.nv with
      jobs := [⟨true, [.engine (some 0) (bundleTurns stagedUnderFloor 0 4) 5 3, .append .log 0x19 4 (bSeq stagedUnderFloor 0) 0,
        .reply 5 4 0 0 0]⟩] } }

theorem verdictAhead_code : verdictAhead.bun.code = 4 := by decide +kernel

theorem bun_of_closed (h : Closed e t) : t.bun = e.bun := by
  unfold Closed at h
  split at h
  · obtain ⟨m, rfl⟩ := h
    rfl
  · obtain ⟨ha, -⟩ := h
    exact ha.bun

/-- Refutes O59. BUNDLE_VERIFY of a bundle whose signature fails waits for the engine before it writes CODE (R412), where the
statement has CODE written as the work is put in hand. -/
theorem not_bundleAndKeyCommands : ¬ Obligations.BundleAndKeyCommands := by
  unfold Obligations.BundleAndKeyCommands
  intro h
  obtain ⟨-, -, -, hverify, -⟩ := h stagedUnderFloor { op := 0x32, tag := 0 } [] ⟨rfl, rfl⟩
  obtain ⟨hfails, -⟩ := hverify ⟨rfl, rfl⟩ stagedUnderFloor_atHead 0 rfl
  have hcode : bundleCheck stagedUnderFloor noEcc 0 (some stagedUnderFloor.bun.declared) (some stagedUnderFloor.bun.floor.toNat) = 4 :=
    stagedUnderFloor_check
  dsimp only at hfails
  rw [hcode] at hfails
  obtain ⟨t, hexec, hclosed⟩ := hfails (by decide)
  have ht : t = settle stagedUnderFloor (bundleVerify stagedUnderFloor noEcc) := by
    cases hexec
    rfl
  have hstated : t.bun = verdictAhead.bun := bun_of_closed hclosed
  rw [ht, settle_bun] at hstated
  have hcodes := congrArg (·.code) hstated
  rw [stagedUnderFloor_keepsCode, verdictAhead_code] at hcodes
  exact absurd hcodes (by decide)

end Sys2Proof.Machine
end

section
/-!
PROOFS. Chapters 13, 16 and 17: the work of a mailbox command while LEAN is out of date, refuted (R302, R333, R376).
-/
namespace Sys2Proof.Machine
open Sys2Proof.Safety Sys2Proof.Claims

variable {e t : State}

/-- Flags set or not, the closing that a statement of work speaks of puts no further work in hand. -/
theorem jobs_of_closed (h : Closed e t) : t.nv.jobs = e.nv.jobs := by
  unfold Closed at h
  split at h
  · obtain ⟨m, rfl⟩ := h
    rfl
  · obtain ⟨-, -, hjobs, -⟩ := h
    exact hjobs

theorem exec_imgVerify (s : State) (e : Ecc) : exec (.imgVerify e) s = .next (settle s (imgVerify s e)) := rfl

theorem exec_switch (s : State) : exec .switch s = .next (settle s (switchBank s)) := rfl

/-- The Steward's verification has ended, its context and the engine's grant still in place, and LEAN does not stand although
the budget, 0, is under its threshold, 1. The arbiter sets LEAN as the context is closed, and firmware logs the mode. -/
def leanOutOfDate (c : MbxCmd) : State :=
  { mbx := { q := [c] }
    pw := { mode := .operating }
    stew := { fw := .olumon }
    cfg := { live := [(0x200, 1), (0x410, 1)] }
    au := { ctxs := [(0, { owner := some .steward, st := .done })] }
    allot := { grants := [{ client := 266, held := 0, prio := 0, saff := false, order := 0, started := true }] } }

/-- What the statements leave in hand: a verification without turns and its answer. -/
def checkAhead (c : MbxCmd) (reply : NvItem) : State :=
  pump { takenUp (leanOutOfDate c) c [] with nv := { (leanOutOfDate c).nv with jobs := [⟨true, [.engine none 0 0 0, reply]⟩] } }

/-! ## IMG_VERIFY of an area that holds no image -/

def verifyCmd : MbxCmd := { op := 0x12, tag := 0, a0 := 2 }

theorem verify_logs : (settle (leanOutOfDate verifyCmd) (imgVerify (leanOutOfDate verifyCmd) noEcc)).nv.jobs.length = 1 := by
  decide +kernel

theorem verify_ahead : (checkAhead verifyCmd (.reply 5 1 0 0 0)).nv.jobs.length = 0 := by
  decide +kernel

/-- Refutes O58. IMG_VERIFY closes the Steward's context, whereupon the arbiter brings LEAN up to date (R302), and running firmware
logs the change of mode (R376): a log entry stands in hand that the statement leaves out. -/
theorem not_mailboxQueueAndAnswers : ¬ Obligations.MailboxQueueAndAnswers := by
  intro h
  obtain ⟨-, hanswers⟩ := h
  obtain ⟨-, -, -, -, -, -, -, -, -, hverify, -⟩ := hanswers (leanOutOfDate verifyCmd) verifyCmd [] ⟨rfl, rfl⟩
  have hhead : atHead (leanOutOfDate verifyCmd) 0x12 verifyCmd [] := ⟨rfl, rfl, rfl, rfl, .inl rfl, .inl rfl, rfl, rfl, rfl⟩
  obtain ⟨-, hlmc, -⟩ := hverify hhead
  obtain ⟨t, hexec, hclosed⟩ := hlmc (by decide)
  have ht : t = settle (leanOutOfDate verifyCmd) (imgVerify (leanOutOfDate verifyCmd) noEcc) := by
    rw [exec_imgVerify] at hexec
    exact (Host.Outcome.next.inj hexec).symm
  have hcode : checkImage (leanOutOfDate verifyCmd) noEcc (leanOutOfDate verifyCmd).stew.policy true false = 1 := by decide +kernel
  have hjobs : t.nv.jobs = (checkAhead verifyCmd (.reply 5 1 0 0 0)).nv.jobs := by
    have hc := jobs_of_closed hclosed
    rw [show bit verifyCmd.a0 8 = false from rfl, hcode] at hc
    exact hc
  have hlen := congrArg List.length hjobs
  rw [ht, verify_logs, verify_ahead] at hlen
  exact absurd hlen (by decide)

/-! ## SWITCH to a bank that holds no image -/

def switchCmd : MbxCmd := { op := 0x15, tag := 0 }

theorem switch_logs : (settle (leanOutOfDate switchCmd) (switchBank (leanOutOfDate switchCmd))).nv.jobs.length = 1 := by
  decide +kernel

theorem switch_ahead : (checkAhead switchCmd (.reply 7 0 0 0 0)).nv.jobs.length = 0 := by
  decide +kernel

/-- Refutes O57. SWITCH closes the Steward's context, whereupon the arbiter brings LEAN up to date (R302), and running firmware logs
the change of mode (R376): a log entry stands in hand that the statement leaves out. -/
theorem not_imageAndStoreCommands : ¬ Obligations.ImageAndStoreCommands := by
  intro h
  obtain ⟨-, -, -, -, hswitch, -⟩ := h (leanOutOfDate switchCmd) switchCmd [] ⟨rfl, rfl⟩
  have hhead : atHead (leanOutOfDate switchCmd) 0x15 switchCmd [] := ⟨rfl, rfl, rfl, rfl, .inl rfl, .inl rfl, rfl, rfl, rfl⟩
  obtain ⟨-, hbank⟩ := hswitch hhead
  obtain ⟨hrefused, -⟩ := hbank (by decide)
  have hcode : (checkFirmware (leanOutOfDate switchCmd) noEcc (leanOutOfDate switchCmd).stew.policy false false).1 = 1 := by
    decide +kernel
  have hbit : bit switchCmd.a0 0 = false := rfl
  dsimp only at hrefused
  rw [hbit, hcode] at hrefused
  obtain ⟨t, hexec, hclosed⟩ := hrefused (by decide)
  have ht : t = settle (leanOutOfDate switchCmd) (switchBank (leanOutOfDate switchCmd)) := by
    rw [exec_switch] at hexec
    exact (Host.Outcome.next.inj hexec).symm
  have hjobs : t.nv.jobs = (checkAhead switchCmd (.reply 7 0 0 0 0)).nv.jobs := jobs_of_closed hclosed
  have hlen := congrArg List.length hjobs
  rw [ht, switch_logs, switch_ahead] at hlen
  exact absurd hlen (by decide)

end Sys2Proof.Machine
end

section
/-!
PROOFS. Chapters 16 to 18: what the Steward's work leaves as it was (R370 to R377, R395 to R397).
-/
namespace Sys2Proof.Machine
open Sys2Proof.Safety Sys2Proof.Claims

variable {s b e u x : State} {c k n off : Nat} {w : Bool} {f : BitVec 16} {g : BitVec 24}

/-! ## The frame -/

/-- Only the store's work, the mailbox's answers, the engine, the bundle's record, the policy, the arbiter and flags move. -/
def OnWork (b e : State) : Prop :=
  ∃ v al m u bn p sq sa h fr, e = { b with
    nv := v, allot := al, mbx := m, au := u, bun := bn, stew := { b.stew with policy := p }
    cfg := { b.cfg with sq := sq }, sqAcc := sa, hsAcc := h, free := fr }

theorem OnWork.trans (h : OnWork s b) (k : OnWork b e) : OnWork s e := by
  obtain ⟨_, _, _, _, _, _, _, _, _, _, rfl⟩ := h
  obtain ⟨v, al, m, u, bn, p, sq, sa, hh, fr, rfl⟩ := k
  exact ⟨v, al, m, u, bn, p, sq, sa, hh, fr, rfl⟩

/-- HS_STAT waits as it was, no flag is lost, and PAIRING is not among those that are gathered. -/
structure FlagsKept (b e : State) : Prop where
  house : sqOf e 0x300 = sqOf b 0x300
  first : e.sqAcc.contains 0x300 = b.sqAcc.contains 0x300
  evt : ∀ off n, (sqOf b off).flags.getLsbD n = true → (sqOf e off).flags.getLsbD n = true
  raised : ∀ n, b.hsAcc.getLsbD n = true → e.hsAcc.getLsbD n = true
  pairing : e.hsAcc.getLsbD 12 = b.hsAcc.getLsbD 12

theorem FlagsKept.trans (h : FlagsKept s b) (k : FlagsKept b e) : FlagsKept s e :=
  ⟨k.house.trans h.house, k.first.trans h.first, fun off n hn => k.evt off n (h.evt off n hn), fun n hn => k.raised n (h.raised n hn),
   k.pairing.trans h.pairing⟩

theorem flagsKept_of_eq (hsq : e.cfg.sq = b.cfg.sq) (hacc : e.sqAcc = b.sqAcc) (hhs : e.hsAcc = b.hsAcc) : FlagsKept b e :=
  ⟨sqOf_congr hsq _, by rw [hacc], fun off n hn => by rwa [sqOf_congr hsq], fun n hn => by rwa [hhs], by rw [hhs]⟩

theorem flagsKept_house (hf : f.getLsbD 12 = false) : FlagsKept s (house s f) := by
  refine ⟨rfl, rfl, fun _ _ hn => hn, fun n hn => ?_, ?_⟩
  · rw [house_hsAcc, BitVec.getLsbD_or, hn, Bool.true_or]
  · rw [house_hsAcc, BitVec.getLsbD_or, hf, Bool.or_false]

theorem flagsKept_sqSet (ho : off ≠ 0x300) (g : BitVec 24) : FlagsKept s (sqSet s off g) := by
  have hother : ∀ o, o ≠ off → sqOf (sqSet s off g) o = sqOf s o := fun o ho => tabGet_tabSet_ne _ _ _ _ _ ho
  refine ⟨hother _ (Ne.symm ho), ?_, fun o n hn => ?_, fun _ hn => hn, rfl⟩
  · change (if g = 0 then s.sqAcc else off :: s.sqAcc).contains 0x300 = _
    split
    · rfl
    · rw [List.contains_cons, beq_false_of_ne (Ne.symm ho), Bool.false_or]
  · by_cases hoff : o = off
    · subst hoff
      have hself : sqOf (sqSet s o g) o = if s.sqAcc.contains o then sqJoin (sqOf s o) g else sqRaise (sqOf s o) g :=
        tabGet_tabSet_self _ _ _ _
      rw [hself]
      split
      · change (_ ||| g).getLsbD n = true
        rw [BitVec.getLsbD_or, hn, Bool.true_or]
      · rw [sqRaise_bit, hn, Bool.true_or]
    · rwa [hother o hoff]

/-- The store's bytes stay, and a retired sector stays retired; with no operation begun (`w` false) none begins. -/
structure StoreKept (w : Bool) (b e : State) : Prop where
  mem : e.nv.mem = b.nv.mem
  retired : ∀ q ∈ b.nv.retired, q ∈ e.nv.retired
  indet : b.nv.op = none → e.nv.indet = b.nv.indet
  op : w = false → b.nv.op = none → e.nv.op = none

theorem StoreKept.trans (h : StoreKept false s b) (k : StoreKept w b e) : StoreKept w s e :=
  ⟨k.mem.trans h.mem, fun q hq => k.retired q (h.retired q hq), fun ho => (k.indet (h.op rfl ho)).trans (h.indet ho), fun hw ho => k.op hw (h.op rfl ho)⟩

theorem storeKept_of_eq (h : e.nv = b.nv) : StoreKept w b e :=
  ⟨by rw [h], fun q hq => by rwa [h], fun _ => by rw [h], fun _ ho => by rwa [h]⟩

/-- What a piece of the Steward's work leaves. -/
structure Worked (w : Bool) (b e : State) : Prop where
  only : OnWork b e
  flags : FlagsKept b e
  store : StoreKept w b e

theorem Worked.trans (h : Worked false s b) (k : Worked w b e) : Worked w s e :=
  ⟨h.only.trans k.only, h.flags.trans k.flags, h.store.trans k.store⟩

/-- An operation that has begun keeps the store's bytes while they stay. -/
theorem Worked.after (h : Worked true s b) (k : Worked false b e) (hi : e.nv.indet = b.nv.indet) : Worked true s e :=
  ⟨h.only.trans k.only, h.flags.trans k.flags, k.store.mem.trans h.store.mem, fun q hq => k.store.retired q (h.store.retired q hq),
   fun ho => hi.trans (h.store.indet ho), fun hw => by cases hw⟩

theorem worked_refl (s : State) : Worked w s s :=
  ⟨⟨_, _, _, _, _, _, _, _, _, _, rfl⟩, flagsKept_of_eq rfl rfl rfl, storeKept_of_eq rfl⟩

theorem worked_ite {p : Prop} [Decidable p] {y : State} (hx : Worked w s x) (hy : Worked w s y) : Worked w s (if p then x else y) := by
  split
  · exact hx
  · exact hy

theorem worked_foldS {α : Type} (h : State → α → State) (l : List α) (s : State) (hstep : ∀ x a, Worked false x (h x a)) :
    Worked false s (foldS h s l) := foldS_inv (Worked false s) h l s (worked_refl s) fun x a hx => hx.trans (hstep x a)

/-! ## The state's parts -/

theorem worked_nv {v : Store} (hm : v.mem = s.nv.mem) (hr : v.retired = s.nv.retired) (hi : v.indet = s.nv.indet) (ho : v.op = s.nv.op) :
    Worked w s { s with nv := v } :=
  ⟨⟨_, _, _, _, _, _, _, _, _, _, rfl⟩, flagsKept_of_eq rfl rfl rfl, hm, fun q hq => by rwa [hr], fun _ => hi, fun _ h => ho.trans h⟩

theorem worked_mbx (m : Mailbox) : Worked w s { s with mbx := m } :=
  ⟨⟨_, _, _, _, _, _, _, _, _, _, rfl⟩, flagsKept_of_eq rfl rfl rfl, storeKept_of_eq rfl⟩

theorem worked_au (v : Engine) : Worked w s { s with au := v } :=
  ⟨⟨_, _, _, _, _, _, _, _, _, _, rfl⟩, flagsKept_of_eq rfl rfl rfl, storeKept_of_eq rfl⟩

theorem worked_bun (v : Bundle) : Worked w s { s with bun := v } :=
  ⟨⟨_, _, _, _, _, _, _, _, _, _, rfl⟩, flagsKept_of_eq rfl rfl rfl, storeKept_of_eq rfl⟩

theorem worked_policy (p : Policy) : Worked w s { s with stew := { s.stew with policy := p } } :=
  ⟨⟨_, _, _, _, _, _, _, _, _, _, rfl⟩, flagsKept_of_eq rfl rfl rfl, storeKept_of_eq rfl⟩

theorem worked_allot (a : Allot) : Worked w s { s with allot := a } :=
  ⟨⟨_, _, _, _, _, _, _, _, _, _, rfl⟩, flagsKept_of_eq rfl rfl rfl, storeKept_of_eq rfl⟩

theorem worked_onAllot (h : OnAllot s e) : Worked w s e := by
  obtain ⟨a, rfl, -⟩ := h
  exact worked_allot a

theorem worked_house (hf : f.getLsbD 12 = false) : Worked w s (house s f) :=
  ⟨⟨_, _, _, _, _, _, _, _, _, _, rfl⟩, flagsKept_house hf, storeKept_of_eq rfl⟩

theorem worked_sqSet (ho : off ≠ 0x300) (g : BitVec 24) : Worked w s (sqSet s off g) :=
  ⟨⟨_, _, _, _, _, _, _, _, _, _, rfl⟩, flagsKept_sqSet ho g, storeKept_of_eq rfl⟩

theorem worked_setJobs (js : List NvJob) : Worked w s (setJobs s js) := worked_nv rfl rfl rfl rfl

theorem worked_setHead (its : List NvItem) : Worked w s (setHead s its) := by
  unfold setHead
  split
  · exact worked_refl s
  · exact worked_ite (worked_setJobs _) (worked_setJobs _)

theorem worked_logEntry (ty arg : BitVec 8) (v : Word) (d : BitVec 96) : Worked w s (logEntry s ty arg v d) :=
  worked_ite (worked_nv rfl rfl rfl rfl) (worked_refl s)

theorem worked_nvEvt (k q : Nat) : Worked w s (nvEvt s k q) :=
  ((worked_sqSet (by decide) _).trans (worked_house (by decide))).trans (worked_logEntry _ _ _ _)

theorem worked_setAreaPos (a : Area) (p : AreaPos) : Worked w s (setAreaPos s a p) := by
  unfold setAreaPos
  cases a <;> exact worked_nv rfl rfl rfl rfl

theorem worked_replyNow (code : BitVec 8) (d0 d1 d2 d3 : Word) : Worked w s (replyNow s code d0 d1 d2 d3) := by
  unfold replyNow
  split
  · exact worked_mbx _
  · exact worked_refl s

theorem worked_failWork (s : State) : Worked w s (failWork s) := by
  unfold failWork
  split
  · exact worked_refl s
  · exact worked_ite ((worked_replyNow _ _ _ _ _).trans (worked_setJobs _)) (worked_ite (worked_setJobs _) (worked_setHead _))

/-! ## The arbiter -/

/-- Revocation leaves the store's bytes, and with no erase begun the store. -/
theorem revoke_store (s : State) : (revoke s).nv.mem = s.nv.mem ∧ (revoke s).nv.retired = s.nv.retired ∧
    (s.nv.op = none → (revoke s).nv = s.nv) := by
  have habort : ∀ x : State, (abortErase x).nv.mem = x.nv.mem ∧ (abortErase x).nv.retired = x.nv.retired ∧
      (x.nv.op = none → (abortErase x).nv = x.nv) := fun x => by
    unfold abortErase
    split
    · next h => exact ⟨rfl, rfl, fun hn => by rw [hn] at h; cases h⟩
    · exact ⟨rfl, rfl, fun _ => rfl⟩
  have hone : ∀ (x : State) (g : Grant), (revokeOne x g).nv.mem = x.nv.mem ∧ (revokeOne x g).nv.retired = x.nv.retired ∧
      (x.nv.op = none → (revokeOne x g).nv = x.nv) := fun x g => by
    unfold revokeOne
    dsimp only
    split
    · exact ⟨rfl, rfl, fun _ => rfl⟩
    · split
      · split
        · exact habort _
        · exact ⟨rfl, rfl, fun _ => rfl⟩
      · exact ⟨rfl, rfl, fun _ => rfl⟩
  refine foldS_inv (fun y => y.nv.mem = s.nv.mem ∧ y.nv.retired = s.nv.retired ∧ (s.nv.op = none → y.nv = s.nv)) _ _ s
    ⟨rfl, rfl, fun _ => rfl⟩ fun x g hx => ?_
  split
  · exact hx
  · obtain ⟨hmem, hret, hnv⟩ := hx
    obtain ⟨hmem', hret', hnv'⟩ := hone x g
    exact ⟨hmem'.trans hmem, hret'.trans hret, fun ho => (hnv' (by rw [hnv ho, ho])).trans (hnv ho)⟩

theorem worked_aimed (s : State) : Worked w s (aimed s) := by
  obtain ⟨hmem, hret, hnv⟩ := revoke_store s
  obtain ⟨gs, m, v, f, hr⟩ := (revoked_revoke s).only
  refine worked_ite (worked_refl s) ⟨?_, ?_, hmem, fun q hq => by rwa [hret], fun ho => by rw [hnv ho], fun _ ho => by rw [hnv ho, ho]⟩
  · rw [hr]
    exact ⟨_, _, _, _, _, _, _, _, _, _, rfl⟩
  · rw [hr]
    exact flagsKept_of_eq rfl rfl rfl

theorem worked_arbSettle (before s : State) : Worked w s (arbSettle before s) := by
  have h1 : Worked false s (budgetFlagged before s) := worked_ite (worked_house (by decide)) (worked_refl s)
  have h2 : ∀ x, Worked false x (overdrawn x) := fun x => worked_ite ((worked_allot _).trans (worked_house (by decide))) (worked_refl x)
  have h3 : ∀ x, Worked false x (recovered x) := fun x => worked_ite (worked_allot _) (worked_refl x)
  rw [arbSettle_eq]
  exact ((((h1.trans (h2 _)).trans (worked_aimed _)).trans (h3 _)).trans (worked_allot _)).trans (worked_allot _)

theorem worked_engineNeed (s : State) : Worked w s (engineNeed s) := by
  have hreq : Worked w s (engineRequest s) := worked_ite (worked_onAllot (onAllot_raiseReq s _ _ _ _)) (worked_refl s)
  exact worked_ite hreq (worked_ite ((worked_allot _).trans (worked_arbSettle _ _)) (worked_refl s))

/-! ## The engine and the key slots -/

theorem worked_settleSlots (s : State) : Worked false s (settleSlots s) :=
  worked_foldS _ _ _ fun x _ => worked_ite (worked_au _) (worked_refl x)

theorem worked_eraseSlot (s : State) (k : Nat) : Worked w s (eraseSlot s k) := by
  have hctxs := worked_foldS (fun s c => setCtx s c { ctxOf s c with st := .error, code := 6, key := [], todo := [], steps := 0 })
    ((upTo 4).filter fun c => ctxUses (ctxOf s c) k) s fun _ _ => worked_au _
  exact (hctxs.trans (worked_au _)).trans (worked_ite (worked_house (by decide)) (worked_refl _))

theorem worked_putKey (s : State) (k : Nat) (q : Key) : Worked w s (putKey s k q) := worked_ite (worked_au _) (worked_au _)

theorem worked_keyDone (s : State) (k : Nat) (q : Option Key) : Worked w s (keyDone s k q) := by
  unfold keyDone
  cases q with
  | some q => exact (worked_au _).trans (worked_putKey _ _ _)
  | none => exact (worked_au _).trans (worked_eraseSlot _ _)

theorem worked_loadKeys (s : State) : Worked w s (loadKeys s) := by
  unfold loadKeys
  split
  · exact worked_refl s
  · refine Worked.trans ?_ (worked_ite (worked_sqSet (by decide) _) (worked_refl _))
    refine (worked_au _).trans (worked_foldS _ _ _ fun x _ => ?_)
    split
    · exact worked_au _
    · exact worked_refl x

theorem worked_bootApply (s : State) : Worked w s (bootApply s) := by
  unfold bootApply
  split
  · exact worked_refl s
  · split
    · exact worked_refl s
    · exact worked_ite (worked_refl s) (worked_ite (worked_bun _) (worked_bun _))

theorem worked_stewardOpens (s : State) (c : Nat) (slot : Option (BitVec 4)) (turns : Nat) : Worked w s (stewardOpens s c slot turns) :=
  (worked_au _).trans (worked_engineNeed _)

theorem worked_stewardCloses (s : State) : Worked w s (stewardCloses s) := by
  unfold stewardCloses
  split
  · exact ((worked_au _).trans (worked_settleSlots _)).trans (worked_engineNeed _)
  · exact worked_refl s

theorem worked_engineFails (s : State) (code : BitVec 8) (d0 : Word) : Worked w s (engineFails s code d0) :=
  worked_ite ((worked_bun _).trans (worked_setHead _)) (worked_setHead _)

theorem worked_engineWork {slot : Option (BitVec 4)} {turns : Nat} {code : BitVec 8} {d0 : Word} {rest : List NvItem}
    (h : engineWork s slot turns code d0 rest = some e) : Worked w s e := by
  unfold engineWork at h
  split at h
  · split at h
    · cases h
      exact worked_setHead _
    · obtain ⟨c, -, rfl⟩ := Option.map_eq_some_iff.1 h
      exact worked_stewardOpens s c slot turns
  · dsimp only at h
    split at h
    · cases h
    · cases h
      exact worked_ite ((worked_stewardCloses s).trans (worked_engineFails _ _ _)) ((worked_stewardCloses s).trans (worked_setHead _))

/-! ## The items -/

theorem worked_doItem (s : State) (i : NvItem) : Worked w s (doItem s i) := by
  cases i with
  | ckptDone => exact worked_nv rfl rfl rfl rfl
  | areaMoved a q => exact worked_setAreaPos _ _
  | reply c a b d e => exact worked_replyNow _ _ _ _ _
  | policyDone p => exact worked_policy p
  | markDone => exact worked_replyNow _ _ _ _ _
  | gaspDone r => exact (worked_nv (v := { s.nv with gaspResult := r }) rfl rfl rfl rfl).trans (worked_house (f := hGASP) (by decide))
  | armWanted => exact worked_nv rfl rfl rfl rfl
  | bootKeys => exact worked_loadKeys s
  | bootApply => exact worked_bootApply s
  | keyDone k key => exact worked_keyDone s _ _
  | staleDone => exact worked_au _
  | verdict c => exact worked_bun _
  | locate => exact worked_nv rfl rfl rfl rfl
  | applyDone => exact (worked_bun _).trans (worked_house (f := hAUTH) (by decide))
  | repaired q => exact worked_nvEvt _ _
  | _ => exact worked_refl s

/-- An operation begins: none of the store's bytes move. -/
theorem worked_startOp (s : State) (client : Nat) (op : NvOp) : Worked true s (startOp s client op) := by
  have hbegun : Worked true s (startGrant { s with nv := { s.nv with op := some op } } client) :=
    ⟨⟨_, _, _, _, _, _, _, _, _, _, rfl⟩, flagsKept_of_eq rfl rfl rfl, rfl, fun _ hq => hq, fun _ => rfl, fun h => by cases h⟩
  cases op with
  | program addr b => exact hbegun
  | erase q =>
    have hevt : ∀ (x : State) k, (nvEvt x k q).nv.indet = x.nv.indet := fun x k => by
      unfold nvEvt logEntry
      dsimp only
      split <;> rfl
    have hcounted := hbegun.after (worked_nv rfl rfl rfl rfl : Worked false _ { startGrant { s with nv := { s.nv with op := some (.erase q) } } client with
      nv := { s.nv with op := some (.erase q), counts := tabSet s.nv.counts 0 q (eraseCount s q + 1) } }) rfl
    refine worked_ite ?_ hcounted
    exact hcounted.after (worked_nvEvt 5 q) (hevt _ 5)

theorem worked_askOp {client : Nat} {op : NvOp} (h : askOp s client op = some e) : Worked true s e := by
  unfold askOp at h
  split at h
  · cases h
    exact worked_startOp s client op
  · split at h
    · cases h
    · cases h
      exact worked_onAllot (onAllot_raiseReq s _ _ _ _)

/-! ## The work -/

theorem worked_pumpOne (h : pumpOne s = some e) : Worked true s e := by
  unfold pumpOne at h
  cases hj : s.nv.jobs with
  | nil =>
    rw [hj] at h
    cases h
  | cons j js =>
    rw [hj] at h
    dsimp only at h
    cases hi : j.items with
    | nil =>
      rw [hi] at h
      cases h
      exact worked_setHead []
    | cons it rest =>
      rw [hi] at h
      have hfail : some (failWork s) = some e → Worked true s e := fun h => by
        cases h
        exact worked_failWork s
      have hhead : ∀ its, some (setHead s its) = some e → Worked true s e := fun its h => by
        cases h
        exact worked_setHead its
      have hitem : ∀ i, some (doItem (setHead s rest) i) = some e → Worked true s e := fun i h => by
        cases h
        exact (worked_setHead rest).trans (worked_doItem _ i)
      cases it with
      | append a ty arg v d =>
        dsimp only at h
        split at h
        · exact hfail h
        · split at h
          · exact worked_askOp h
          · split at h
            · cases h
            · split at h
              · exact hhead _ h
              · exact hfail h
      | program addr b =>
        dsimp only at h
        split at h
        · exact hfail h
        · exact worked_askOp h
      | eraseSector q again =>
        dsimp only at h
        split at h
        · exact hfail h
        · split at h
          · cases h
          · exact hhead _ h
      | erase q again => exact worked_askOp h
      | ckpt k =>
        dsimp only at h
        split at h
        · exact worked_askOp h
        · exact hhead _ h
      | areaMoved a q =>
        dsimp only at h
        split at h
        · split at h
          · exact hhead _ h
          · exact hfail h
        · cases h
          exact (worked_doItem s (.areaMoved a q)).trans (worked_setHead rest)
      | gaspRecover => exact hhead _ h
      | keyCopy k key why => exact hhead _ h
      | engine slot turns code d0 => exact worked_engineWork h
      | _ => exact hitem _ h

/-- What the Steward's work leaves: an operation begun ends it. -/
theorem worked_pumpN (n : Nat) (s : State) : Worked true s (pumpN n s) := by
  induction n generalizing s with
  | zero => exact worked_refl s
  | succ n ih =>
    unfold pumpN
    split
    · exact worked_refl s
    · split
      · next t ht =>
        have hone := worked_pumpOne ht
        have hrest := ih t
        refine ⟨hone.only.trans hrest.only, hone.flags.trans hrest.flags, hrest.store.mem.trans hone.store.mem,
          fun q hq => hrest.store.retired q (hone.store.retired q hq), fun ho => ?_, fun h => by cases h⟩
        refine Eq.trans ?_ (hone.store.indet ho)
        cases hop : t.nv.op with
        | none => exact hrest.store.indet hop
        | some op =>
          have hstop : pumpN n t = t := by
            cases n with
            | zero => rfl
            | succ n => exact if_pos (by rw [hop]; rfl)
          rw [hstop]
      · exact worked_refl s

theorem worked_pump (s : State) : Worked true s (pump s) := worked_ite (worked_pumpN _ s) (worked_refl s)

end Sys2Proof.Machine
end

section
/-!
PROOFS. Chapter 16: the loader's decision (R349, R353 to R355, Tables SW-5 to SW-7).
-/
namespace Sys2Proof.Machine
open Sys2Proof.Safety Sys2Proof.Claims

variable {s b e u x : State} {ecc : Ecc} {p : Policy} {again bank : Bool} {rest : List Bool} {r : LoadRun}

/-! ## One bank after the other (R353, R354) -/

theorem tryBanks_cons (s : State) (ecc : Ecc) (p : Policy) (again bank : Bool) (rest : List Bool) (r : LoadRun) :
    tryBanks s ecc p again (bank :: rest) r =
      if (checkFirmware s ecc p again bank).1 = 0 then
        { r with outcome := if (checkFirmware s ecc p again bank).2 = true then 1 else 0, bank := some bank }
      else if (checkFirmware s ecc p again bank).1 = 9 then { setFail r bank 9 with outcome := 3 }
      else tryBanks s ecc p again rest (setFail r bank (checkFirmware s ecc p again bank).1) := by
  conv => lhs; unfold tryBanks
  generalize checkFirmware s ecc p again bank = q
  obtain ⟨c, restricted⟩ := q
  dsimp only
  split
  · next h =>
    cases h
    rfl
  · next h =>
    cases h
    rfl
  · next h0 h9 h =>
    cases h
    rw [if_neg fun h => h0 (by rw [h]), if_neg fun h => h9 (by rw [h])]

theorem setFail_kept (r : LoadRun) (bank : Bool) (c : Nat) :
    (setFail r bank c).bank = r.bank ∧ (setFail r bank c).outcome = r.outcome := by
  unfold setFail
  split <;> exact ⟨rfl, rfl⟩

/-- What a bank's check decides. -/
theorem tryBanks_head (s : State) (ecc : Ecc) (p : Policy) (again bank : Bool) (rest : List Bool) (r : LoadRun) (hr : r.bank = none) :
    ((checkFirmware s ecc p again bank).1 = 0 → (tryBanks s ecc p again (bank :: rest) r).bank = some bank ∧
      (tryBanks s ecc p again (bank :: rest) r).outcome = if (checkFirmware s ecc p again bank).2 = true then 1 else 0) ∧
    ((checkFirmware s ecc p again bank).1 = 9 → (tryBanks s ecc p again (bank :: rest) r).bank = none ∧
      (tryBanks s ecc p again (bank :: rest) r).outcome = 3) := by
  rw [tryBanks_cons]
  refine ⟨fun h => ?_, fun h => ?_⟩
  · rw [if_pos h]
    exact ⟨rfl, rfl⟩
  · rw [if_neg (by omega), if_pos h]
    exact ⟨(setFail_kept r bank 9).1.trans hr, rfl⟩

theorem loaderDecide_tries (s : State) (ecc : Ecc) (p : Policy) (again : Bool) :
    (loaderDecide s ecc p again).bank =
      (tryBanks s ecc p again (bankOrder s p again) { outcome := if (bankOrder s p again).isEmpty then 4 else 2 }).bank ∧
    (loaderDecide s ecc p again).outcome =
      (tryBanks s ecc p again (bankOrder s p again) { outcome := if (bankOrder s p again).isEmpty then 4 else 2 }).outcome := ⟨rfl, rfl⟩

/-- The first bank of the order decides, and after a failure but UNSUPPORTED_REV the other. -/
theorem loaderDecide_order (h : bankOrder s p again = bank :: rest) :
    ((checkFirmware s ecc p again bank).1 = 0 → (loaderDecide s ecc p again).bank = some bank ∧
      (loaderDecide s ecc p again).outcome = if (checkFirmware s ecc p again bank).2 = true then 1 else 0) ∧
    ((checkFirmware s ecc p again bank).1 = 9 → (loaderDecide s ecc p again).bank = none ∧ (loaderDecide s ecc p again).outcome = 3) ∧
    (∀ c, (checkFirmware s ecc p again bank).1 ≠ 0 → (checkFirmware s ecc p again bank).1 ≠ 9 → rest = [c] →
      ((checkFirmware s ecc p again c).1 = 0 → (loaderDecide s ecc p again).bank = some c ∧
        (loaderDecide s ecc p again).outcome = if (checkFirmware s ecc p again c).2 = true then 1 else 0) ∧
      ((checkFirmware s ecc p again c).1 = 9 → (loaderDecide s ecc p again).bank = none ∧ (loaderDecide s ecc p again).outcome = 3) ∧
      ((checkFirmware s ecc p again c).1 ≠ 0 → (checkFirmware s ecc p again c).1 ≠ 9 →
        (loaderDecide s ecc p again).bank = none ∧ (loaderDecide s ecc p again).outcome = 2)) := by
  obtain ⟨hbank, hout⟩ := loaderDecide_tries s ecc p again
  rw [h] at hbank hout
  rw [hbank, hout]
  obtain ⟨hpass, hstop⟩ := tryBanks_head s ecc p again bank rest { outcome := if (bank :: rest).isEmpty then 4 else 2 } rfl
  refine ⟨hpass, hstop, fun c h0 h9 hrest => ?_⟩
  have hnext := tryBanks_cons s ecc p again bank rest { outcome := if (bank :: rest).isEmpty then 4 else 2 }
  rw [if_neg h0, if_neg h9] at hnext
  rw [hnext, hrest]
  obtain ⟨hkept, hkeptOut⟩ := setFail_kept { outcome := if (bank :: [c]).isEmpty then 4 else 2 } bank (checkFirmware s ecc p again bank).1
  generalize setFail _ bank (checkFirmware s ecc p again bank).1 = r at hkept hkeptOut
  obtain ⟨hpass', hstop'⟩ := tryBanks_head s ecc p again c [] r hkept
  refine ⟨hpass', hstop', fun h0' h9' => ?_⟩
  rw [tryBanks_cons, if_neg h0', if_neg h9']
  obtain ⟨hlast, hlastOut⟩ := setFail_kept r c (checkFirmware s ecc p again c).1
  exact ⟨hlast.trans hkept, hlastOut.trans hkeptOut⟩

/-- Table SW-5. -/
theorem bankOrder_straps (s : State) (ecc : Ecc) (p : Policy) (again : Bool) :
    (s.pw.straps.extractLsb' 1 2 = 0 → bankOrder s p again = [false, true]) ∧
    (s.pw.straps.extractLsb' 1 2 = 1 → bankOrder s p again = [true, false]) ∧
    (s.pw.straps.extractLsb' 1 2 = 3 → bankOrder s p again = [] ∧ (loaderDecide s ecc p again).outcome = 4) := by
  refine ⟨fun h => ?_, fun h => ?_, fun h => ?_⟩
  · unfold bankOrder
    rw [h]
    rfl
  · unfold bankOrder
    rw [h]
    rfl
  · have hnone : bankOrder s p again = [] := by
      unfold bankOrder
      rw [h]
      rfl
    obtain ⟨-, hout⟩ := loaderDecide_tries s ecc p again
    refine ⟨hnone, ?_⟩
    rw [hout, hnone]
    rfl

/-! ## The checks read the store's bytes alone -/

def SameBytes (e s : State) : Prop := e.nv.mem = s.nv.mem ∧ e.nv.indet = s.nv.indet

section
variable (h : SameBytes e s)
include h

theorem indetSector_same : indetSector e = indetSector s := by
  funext q
  unfold indetSector
  rw [h.2]

theorem nvByte_same : nvByte e = nvByte s := by
  funext a
  unfold nvByte
  rw [h.1, h.2]

theorem nvBytes_same : nvBytes e = nvBytes s := by
  funext a n
  unfold nvBytes
  rw [nvByte_same h]

theorem nv32_same : nv32 e = nv32 s := by
  funext a
  unfold nv32
  rw [nvBytes_same h]

theorem nv16_same : nv16 e = nv16 s := by
  funext a
  unfold nv16
  rw [nv32_same h]

theorem wordErased_same : wordErased e = wordErased s := by
  funext a
  unfold wordErased
  rw [nvBytes_same h, indetSector_same h]

theorem entryAt_same : entryAt e = entryAt s := by
  funext a
  unfold entryAt
  rw [nvBytes_same h, indetSector_same h, wordErased_same h]

theorem areaEnd_same (q n : Nat) : ∀ i, areaEnd e q n i = areaEnd s q n i := by
  induction n with
  | zero => exact fun _ => rfl
  | succ n ih =>
    intro i
    unfold areaEnd
    rw [wordErased_same h, ih]

theorem sectorEntries_same : sectorEntries e = sectorEntries s := by
  funext q
  unfold sectorEntries sectorEnd
  rw [areaEnd_same h, entryAt_same h]

theorem incomplete_same : incomplete e = incomplete s := by
  funext q
  unfold incomplete replayJournal journalSector checkpointOf
  rw [sectorEntries_same h]

theorem areaBroken_same (first n : Nat) : areaBroken e first n = areaBroken s first n := by
  unfold areaBroken
  rw [indetSector_same h, incomplete_same h]

theorem imgPair_same (lmc bank : Bool) : imgPair e lmc bank = imgPair s lmc bank := by
  unfold imgPair
  rw [nv16_same h]

theorem headerOk_same (lmc bank : Bool) : headerOk e lmc bank = headerOk s lmc bank := by
  unfold headerOk imgLen
  rw [nv16_same h, nv32_same h, nvByte_same h]

theorem signatureOk_same (lmc bank : Bool) : signatureOk e lmc bank = signatureOk s lmc bank := by
  unfold signatureOk imgKeyId
  rw [nvByte_same h, nvBytes_same h]

theorem digestOk_same (lmc bank : Bool) : digestOk e lmc bank = digestOk s lmc bank := by
  unfold digestOk imgLen
  rw [nv32_same h, nvBytes_same h]
  simp only [areaBroken_same h]

theorem checkImage_same (ecc : Ecc) (p : Policy) (lmc bank : Bool) : checkImage e ecc p lmc bank = checkImage s ecc p lmc bank := by
  unfold checkImage
  rw [headerOk_same h, signatureOk_same h, digestOk_same h]
  unfold imgLen imgKeyId imgRollback
  rw [nv16_same h, nv32_same h, nvByte_same h]
  simp only [areaBroken_same h]

theorem lmcSource_same (ecc : Ecc) (p : Policy) (bank : Bool) (pair : BitVec 16) :
    lmcSource e ecc p bank pair = lmcSource s ecc p bank pair := by
  unfold lmcSource
  simp only [checkImage_same h, imgPair_same h]

end

end Sys2Proof.Machine
end

section
/-!
PROOFS. Chapters 15 and 16: the loader's runs and the Steward's resets, settled (R330, R337, R348, R355 to R358).
-/
namespace Sys2Proof.Machine
open Sys2Proof.Safety Sys2Proof.Claims

variable {s b e u x y : State} {ecc : Ecc} {p : Policy} {again bank restricted : Bool} {r : LoadRun} {n src : Nat} {w : Word} {m : Mode}

/-! ## What the start of firmware leaves -/

/-- What a piece of the Steward's work leaves, whatever it learns of the store. -/
structure Booted (b e : State) : Prop where
  only : OnWork b e
  flags : FlagsKept b e
  mem : e.nv.mem = b.nv.mem

theorem Worked.booted {k : Bool} (h : Worked k b e) : Booted b e := ⟨h.only, h.flags, h.store.mem⟩

theorem Booted.trans (h : Booted s b) (k : Booted b e) : Booted s e :=
  ⟨h.only.trans k.only, h.flags.trans k.flags, k.mem.trans h.mem⟩

theorem booted_nv {v : Store} (hm : v.mem = s.nv.mem) : Booted s { s with nv := v } :=
  ⟨⟨_, _, _, _, _, _, _, _, _, _, rfl⟩, flagsKept_of_eq rfl rfl rfl, hm⟩

theorem booted_nvEvt {v : Store} (hm : v.mem = s.nv.mem) (k q : Nat) : Booted s (nvEvt { s with nv := v } k q) :=
  (booted_nv hm).trans (worked_nvEvt (w := true) k q).booted

theorem booted_eccTake (s : State) (ecc : Ecc) (a n : Nat) : Booted s (eccTake s ecc a n) := by
  unfold eccTake
  dsimp only
  split
  · refine booted_nvEvt ?_ _ _
    rfl
  · exact booted_nv rfl

theorem sameBytes_eccTake (s : State) (ecc : Ecc) (a n : Nat) : SameBytes (eccTake s ecc a n) s := by
  unfold eccTake nvEvt logEntry
  dsimp only
  split
  · split <;> exact ⟨rfl, rfl⟩
  · exact ⟨rfl, rfl⟩

theorem booted_loadCal (s : State) : Booted s (loadCal s) := by
  unfold loadCal
  split
  · exact booted_nv rfl
  · refine booted_nvEvt ?_ _ _
    rfl

theorem booted_learnStore (s : State) : Booted s (learnStore s) := booted_nv rfl

theorem booted_olumonBoots (s : State) : Booted s (olumonBoots s) :=
  ((booted_learnStore s).trans (booted_loadCal _)).trans (booted_nv rfl)

theorem booted_bundleResume (s : State) : Booted s (bundleResume s) := by
  unfold bundleResume
  split
  · split
    · exact (worked_refl s : Worked true s s).booted
    · exact booted_nv rfl
  · exact (worked_refl s : Worked true s s).booted

theorem booted_olumonRestarts (s : State) : Booted s (olumonRestarts s) :=
  ((booted_learnStore s).trans (booted_nv rfl : Booted _ (pushJob (learnStore s) [.bootKeys]))).trans (booted_bundleResume _)

/-- The Steward's registers but the policy in force, the mode and the modes' registers. -/
theorem OnWork.steward (h : OnWork b e) : e.pw = b.pw ∧ e.links = b.links ∧ ∃ p, e.stew = { b.stew with policy := p } := by
  obtain ⟨_, _, _, _, _, p, _, _, _, _, rfl⟩ := h
  exact ⟨rfl, rfl, p, rfl⟩

/-- PAIRING stands after the close if it stood before or was gathered. -/
theorem pairing_settle (h : FlagsKept y x) (hy : sqOf y 0x300 = sqOf s 0x300) (hacc : y.sqAcc.contains 0x300 = false) (b : State) :
    (sqOf (settle b x) 0x300).flags.getLsbD 12 = true ↔ (sqOf s 0x300).flags.getLsbD 12 = true ∨ y.hsAcc.getLsbD 12 = true := by
  have hdone : (nvDone b x).hsAcc.getLsbD 12 = x.hsAcc.getLsbD 12 := by
    unfold nvDone
    split
    · rw [house_hsAcc, BitVec.getLsbD_or]
      exact Bool.or_false _
    · rfl
  have hwidth : decide (12 < 24) = true := rfl
  rw [sqOf_settle_house _ _ (h.first.trans hacc), sqRaise_bit, h.house, hy, BitVec.getLsbD_setWidth, hdone, h.pairing, hwidth,
    Bool.true_and, Bool.or_eq_true]

/-! ## The run in LOAD (R353 to R358) -/

/-- The image in force and its LMC, and the mode that follows. -/
def firmwareLoaded (s : State) (p : Policy) (bank restricted : Bool) (src : Nat) (w : Word) (m : Mode) : State :=
  setMode (setLoadStat (takeLmc (takeFirmware s p bank restricted) bank src) w) m

def pairingFlagged (s : State) (flag : Bool) : State := if flag then house s hPAIRING else s

theorem firmwareLoaded_facts (s : State) (p : Policy) (bank restricted : Bool) (src : Nat) (w : Word) (m : Mode) :
    (firmwareLoaded s p bank restricted src w m).pw = { s.pw with mode := m } ∧
    (firmwareLoaded s p bank restricted src w m).stew.fw = .olumon ∧ (firmwareLoaded s p bank restricted src w m).stew.loadStat = w ∧
    (firmwareLoaded s p bank restricted src w m).stew.mirror = p ∧
    (firmwareLoaded s p bank restricted src w m).stew.featEn = (if restricted then 0xFF &&& nv32 s (imgAddr false bank + 0x18) else 0xFF) ∧
    (firmwareLoaded s p bank restricted src w m).stew.fwVer = nv32 s (imgAddr false bank + 8) ∧
    (firmwareLoaded s p bank restricted src w m).stew.lmcPair =
      (if src = 2 then none else some (imgPair s true (if src = 0 then bank else !bank))) := by
  unfold firmwareLoaded takeLmc
  by_cases h : src = 2
  · simp only [h, if_true]
    exact ⟨rfl, rfl, rfl, rfl, rfl, rfl, rfl⟩
  · simp only [h, if_false]
    exact ⟨rfl, rfl, rfl, rfl, rfl, rfl, rfl⟩

theorem firmwareLoaded_rest (s : State) (p : Policy) (bank restricted : Bool) (src : Nat) (w : Word) (m : Mode) :
    (firmwareLoaded s p bank restricted src w m).nv = s.nv ∧ (firmwareLoaded s p bank restricted src w m).cfg = s.cfg ∧
    (firmwareLoaded s p bank restricted src w m).sqAcc = s.sqAcc ∧ (firmwareLoaded s p bank restricted src w m).hsAcc = s.hsAcc := by
  unfold firmwareLoaded takeLmc
  dsimp only
  split <;> exact ⟨rfl, rfl, rfl, rfl⟩

theorem loadOutcome_some (h : (loaderDecide s ecc (readPolicy s) false).bank = some bank) :
    let r := loaderDecide s ecc (readPolicy s) false
    let y := eccTake s ecc 0 (2 ^ 20)
    let src := lmcSource s ecc (readPolicy s) bank (imgPair s false bank)
    loadOutcome s ecc = olumonBoots (pairingFlagged (firmwareLoaded y (readPolicy s) bank (decide (r.outcome = 1)) src (loadStatWord r false src)
      (if s.pw.straps.getLsbD 4 = true then .safe else .operating)) (r.outcome = 1 || src = 2)) := by
  have hsame := sameBytes_eccTake s ecc 0 (2 ^ 20)
  obtain ⟨hpw, -⟩ := (booted_eccTake s ecc 0 (2 ^ 20)).only.steward
  unfold loadOutcome
  dsimp only
  rw [h]
  dsimp only
  rw [imgPair_same hsame, lmcSource_same hsame]
  have hforce : ∀ (q : Bool) (src : Nat) (w : Word), safeForce (setLoadStat (takeLmc (takeFirmware (eccTake s ecc 0 (2 ^ 20)) (readPolicy s) bank q)
      bank src) w) = s.pw.straps.getLsbD 4 := fun q src w => by
    rw [← hpw]
    unfold safeForce takeLmc
    dsimp only
    split <;> rfl
  rw [hforce]
  rfl

theorem loadOutcome_none (h : (loaderDecide s ecc (readPolicy s) false).bank = none) : loadOutcome s ecc =
    loadCal (setMode (setLoadStat (monitorStarts (eccTake s ecc 0 (2 ^ 20)) (readPolicy s))
      (loadStatWord (loaderDecide s ecc (readPolicy s) false) false 3)) .safe) := by
  unfold loadOutcome
  dsimp only
  rw [h]

theorem exec_loaderOutcome (h : loaderOutcome s ecc = x) : exec (.loaderOutcome ecc) s = .next (settle s (pump x)) := by
  rw [← h]
  rfl

theorem loaderOutcome_load (hm : s.pw.mode = .load) : loaderOutcome s ecc = loadOutcome s ecc := if_pos hm

section
variable (hq : Quiet s) (hm : s.pw.mode = .load)
include hm

theorem exec_load_none (h : (loaderDecide s ecc (readPolicy s) false).bank = none) :
    ∃ t, exec (.loaderOutcome ecc) s = .next t ∧ t.pw.mode = .safe ∧ t.stew.fw = .monitor ∧ t.stew.fwVer = 0 ∧
      t.stew.loadStat = loadStatWord (loaderDecide s ecc (readPolicy s) false) false 3 ∧ t.stew.featEn = s.stew.featEn := by
  obtain ⟨-, -, p, hy⟩ := (booted_eccTake s ecc 0 (2 ^ 20)).only.steward
  have hx := (loaderOutcome_load hm).trans (loadOutcome_none h)
  generalize eccTake s ecc 0 (2 ^ 20) = y at hy hx
  generalize hz : setMode (setLoadStat (monitorStarts y (readPolicy s)) (loadStatWord (loaderDecide s ecc (readPolicy s) false) false 3)) .safe = z
    at hx
  obtain ⟨hpw, -, p', hstew⟩ := ((booted_loadCal z).trans (worked_pump _).booted).only.steward
  refine ⟨_, exec_loaderOutcome hx, ?_⟩
  rw [settle_pw, settle_stew, hpw, hstew, ← hz]
  refine ⟨rfl, rfl, rfl, rfl, ?_⟩
  change y.stew.featEn = _
  rw [hy]

include hq

theorem exec_load_some (h : (loaderDecide s ecc (readPolicy s) false).bank = some bank) :
    let r := loaderDecide s ecc (readPolicy s) false
    let src := lmcSource s ecc (readPolicy s) bank (imgPair s false bank)
    let force := s.pw.straps.getLsbD 4 = true
    ∃ t, exec (.loaderOutcome ecc) s = .next t ∧ (force → t.pw.mode = .safe) ∧ (¬ force → t.pw.mode = .operating) ∧
      t.stew.fw = .olumon ∧ t.stew.loadStat = loadStatWord r false src ∧ t.stew.mirror = readPolicy s ∧
      t.stew.featEn = (if r.outcome = 1 then 0xFF &&& nv32 s (imgAddr false bank + 0x18) else 0xFF) ∧
      t.stew.fwVer = nv32 s (imgAddr false bank + 8) ∧
      t.stew.lmcPair = (if src = 2 then none else some (imgPair s true (if src = 0 then bank else !bank))) ∧
      ((sqOf t 0x300).flags.getLsbD 12 = true ↔ (sqOf s 0x300).flags.getLsbD 12 = true ∨ r.outcome = 1 ∨ src = 2) ∧
      t.nv.mem = s.nv.mem := by
  have hx := (loaderOutcome_load hm).trans (loadOutcome_some h)
  have hsame := sameBytes_eccTake s ecc 0 (2 ^ 20)
  have hecc := booted_eccTake s ecc 0 (2 ^ 20)
  dsimp only at hx ⊢
  generalize loaderDecide s ecc (readPolicy s) false = r at h hx ⊢
  generalize lmcSource s ecc (readPolicy s) bank (imgPair s false bank) = src at hx ⊢
  generalize eccTake s ecc 0 (2 ^ 20) = y at hx hsame hecc
  generalize hmode : (if s.pw.straps.getLsbD 4 = true then Mode.safe else .operating) = m at hx
  obtain ⟨hpw, hfw, hstat, hmirror, hfeat, hver, hpair⟩ :=
    firmwareLoaded_facts y (readPolicy s) bank (decide (r.outcome = 1)) src (loadStatWord r false src) m
  obtain ⟨hnv, hcfg, hacc, hhs⟩ := firmwareLoaded_rest y (readPolicy s) bank (decide (r.outcome = 1)) src (loadStatWord r false src) m
  generalize firmwareLoaded y (readPolicy s) bank (decide (r.outcome = 1)) src (loadStatWord r false src) m = z at *
  have hflagged : (pairingFlagged z (r.outcome = 1 || src = 2)).pw = z.pw ∧ (pairingFlagged z (r.outcome = 1 || src = 2)).stew = z.stew ∧
      (pairingFlagged z (r.outcome = 1 || src = 2)).nv = z.nv ∧ (pairingFlagged z (r.outcome = 1 || src = 2)).cfg = z.cfg ∧
      (pairingFlagged z (r.outcome = 1 || src = 2)).sqAcc = z.sqAcc ∧
      ((pairingFlagged z (r.outcome = 1 || src = 2)).hsAcc.getLsbD 12 = true ↔ z.hsAcc.getLsbD 12 = true ∨ r.outcome = 1 ∨ src = 2) := by
    unfold pairingFlagged
    split
    · next hf =>
      refine ⟨rfl, rfl, rfl, rfl, rfl, ?_⟩
      have hbit : hPAIRING.getLsbD 12 = true := rfl
      rw [house_hsAcc, BitVec.getLsbD_or, hbit, Bool.or_true]
      exact iff_of_true rfl (.inr (by simpa using hf))
    · next hf => exact ⟨rfl, rfl, rfl, rfl, rfl, .inl, fun h => h.resolve_right (by simpa using hf)⟩
  obtain ⟨fpw, fstew, fnv, fcfg, facc, fhs⟩ := hflagged
  generalize pairingFlagged z (r.outcome = 1 || src = 2) = v at *
  have hbooted := (booted_olumonBoots v).trans (worked_pump _).booted
  obtain ⟨tpw, -, p', tstew⟩ := hbooted.only.steward
  have hfirst : v.sqAcc.contains 0x300 = false := by
    rw [facc, hacc, hecc.flags.first, hq.2]
    rfl
  have hsq : sqOf v 0x300 = sqOf s 0x300 := by
    rw [sqOf_congr (congrArg (·.sq) (fcfg.trans hcfg)), hecc.flags.house]
  have hpairing := pairing_settle hbooted.flags hsq hfirst s
  have hnone : y.hsAcc.getLsbD 12 = false := by
    rw [hecc.flags.pairing, hq.1]
    rfl
  have hmem := hbooted.mem
  refine ⟨_, exec_loaderOutcome hx, ?_⟩
  generalize pump (olumonBoots v) = e at *
  rw [settle_pw, settle_stew, settle_nv_mem, hpairing, fhs, hhs, hnone, tpw, fpw, hpw, tstew, fstew, hmem, fnv, hnv, hsame.1, ← hmode]
  refine ⟨fun hf => if_pos hf, fun hf => if_neg hf, hfw, hstat, hmirror, ?_, ?_, ?_, ?_, rfl⟩
  · refine hfeat.trans ?_
    simp only [nv32_same hsame, decide_eq_true_eq]
  · refine hver.trans ?_
    rw [nv32_same hsame]
  · refine hpair.trans ?_
    rw [imgPair_same hsame]
  · simp

end

/-! ## The load timeout (R337) -/

theorem exec_loadTimeout (hm : s.pw.mode = .load) : ∃ t, exec .loadTimeout s = .next t ∧ t.pw.mode = .safe ∧ t.pw.loadTmo = true ∧
    t.stew.fw = .monitor ∧ fld t.stew.loadStat 0 4 = 5 := by
  have hx : loadTimeout s = loadCal { setMode (setLoadStat (monitorStarts s (readPolicy s)) (loadStatWord { outcome := 5 } false 3)) .safe with
      pw := { s.pw with mode := .safe, loadTmo := true } } := by
    unfold loadTimeout
    rw [if_pos hm]
    rfl
  refine ⟨settle s (loadTimeout s), rfl, ?_⟩
  rw [hx]
  generalize hz : ({ setMode (setLoadStat (monitorStarts s (readPolicy s)) (loadStatWord { outcome := 5 } false 3)) .safe with
      pw := { s.pw with mode := .safe, loadTmo := true } } : State) = z
  obtain ⟨hpw, -, p, hstew⟩ := (booted_loadCal z).only.steward
  rw [settle_pw, settle_stew, hpw, hstew, ← hz]
  refine ⟨rfl, rfl, rfl, ?_⟩
  change fld (loadStatWord { outcome := 5 } false 3) 0 4 = 5
  decide

theorem exec_loadTimeout_ignored (hq : Quiet s) (hm : s.pw.mode ≠ .load) : ∃ t, exec .loadTimeout s = .next t ∧ UpToMarks s t := by
  have hx : loadTimeout s = s := if_neg hm
  refine exists_next_upToMarks hq ?_ (unflagged_refl s)
  change execLoadTimeout s = _
  unfold execLoadTimeout
  rw [hx]

/-! ## The run after a Steward reset (R330, R355, R356) -/

section
variable (hm : s.pw.mode = .operating ∨ s.pw.mode = .safe) (hf : s.stew.fw = .none) (hd : s.pw.stwDown = false)
include hm

theorem hasCommit_of_modes : hasCommit s = true := by
  unfold hasCommit operating
  obtain h | h := hm <;> rw [h] <;> rfl

include hf hd

theorem loaderOutcome_reload : loaderOutcome s ecc = reloadOutcome s ecc := by
  have hload : s.pw.mode ≠ .load := by
    obtain h | h := hm <;> rw [h] <;> decide
  unfold loaderOutcome
  rw [if_neg hload, hasCommit_of_modes hm, hf, hd]
  rfl

theorem exec_reload_some (h : (loaderDecide s ecc (readPolicy s) true).bank = some bank)
    (ha : s.pw.mode = .operating ∨ s.pw.straps.getLsbD 4 = true) :
    ∃ t, exec (.loaderOutcome ecc) s = .next t ∧ t.stew.fw = .olumon ∧ t.pw = s.pw ∧
      t.stew.loadStat = loadStatWord (loaderDecide s ecc (readPolicy s) true) true (fld s.stew.loadStat 8 2) := by
  obtain ⟨hpw, -, p, hy⟩ := (booted_eccTake s ecc 0 (2 ^ 20)).only.steward
  have hgoes : (operating (eccTake s ecc 0 (2 ^ 20)) || safeForce (eccTake s ecc 0 (2 ^ 20))) = true := by
    unfold operating safeForce
    rw [hpw, Bool.or_eq_true]
    exact ha.imp decide_eq_true id
  have hx := loaderOutcome_reload (ecc := ecc) hm hf hd
  unfold reloadOutcome at hx
  dsimp only at hx
  rw [h, hgoes] at hx
  dsimp only at hx
  generalize eccTake s ecc 0 (2 ^ 20) = y at hpw hy hx
  generalize hz : holdFeatures _ = z at hx
  have hflag : ∀ q : Bool, (if q then house z hPAIRING else z).pw = z.pw ∧ (if q then house z hPAIRING else z).stew = z.stew := fun q => by
    split <;> exact ⟨rfl, rfl⟩
  generalize ((loaderDecide s ecc (readPolicy s) true).outcome = 1 || z.stew.lmcBank.isNone : Bool) = q at hx
  obtain ⟨hqpw, hqstew⟩ := hflag q
  generalize (if q then house z hPAIRING else z) = v at hx hqpw hqstew
  obtain ⟨tpw, -, p', tstew⟩ := ((booted_olumonRestarts v).trans (worked_pump _).booted).only.steward
  refine ⟨_, exec_loaderOutcome hx, ?_⟩
  generalize pump (olumonRestarts v) = e at *
  rw [settle_pw, settle_stew, tpw, tstew, hqpw, hqstew, ← hz]
  refine ⟨rfl, hpw, ?_⟩
  change loadStatWord _ true (fld y.stew.loadStat 8 2) = _
  rw [hy]

omit hm hf hd in
/-- The Steward is not taken up again. -/
theorem reloadOutcome_refused (h : (loaderDecide s ecc (readPolicy s) true).bank = none ∨
      (operating (eccTake s ecc 0 (2 ^ 20)) || safeForce (eccTake s ecc 0 (2 ^ 20))) = false) :
    ∃ w, let y := eccTake s ecc 0 (2 ^ 20)
      let z := setLoadStat { y with stew := { y.stew with mirror := readPolicy s, policy := readPolicy s, fwVer := 0 } } w
      reloadOutcome s ecc = if operating z then { z with pw := { z.pw with stwDown := true } } else monitorStarts z (readPolicy s) := by
  unfold reloadOutcome
  dsimp only
  split
  · next h1 h2 =>
    obtain h | h := h
    · rw [h] at h1
      cases h1
    · rw [h] at h2
      cases h2
  · exact ⟨_, rfl⟩

theorem exec_reload_none (h : (loaderDecide s ecc (readPolicy s) true).bank = none ∨ (s.pw.mode = .safe ∧ ¬ s.pw.straps.getLsbD 4 = true)) :
    ∃ t, exec (.loaderOutcome ecc) s = .next t ∧ (s.pw.mode = .operating → t.stew.fw = .none ∧ t.pw = { s.pw with stwDown := true }) ∧
      (s.pw.mode = .safe → t.stew.fw = .monitor ∧ t.pw = s.pw) := by
  obtain ⟨hpw, -, p, hy⟩ := (booted_eccTake s ecc 0 (2 ^ 20)).only.steward
  have hrefused : (loaderDecide s ecc (readPolicy s) true).bank = none ∨
      (operating (eccTake s ecc 0 (2 ^ 20)) || safeForce (eccTake s ecc 0 (2 ^ 20))) = false := by
    refine h.imp_right fun ⟨hsafe, hforce⟩ => ?_
    unfold operating safeForce
    rw [hpw, hsafe]
    exact Bool.not_eq_true _ ▸ hforce
  obtain ⟨w, hx⟩ := reloadOutcome_refused hrefused
  have hrun := loaderOutcome_reload (ecc := ecc) hm hf hd
  dsimp only at hx
  generalize eccTake s ecc 0 (2 ^ 20) = y at hpw hy hx
  generalize hz : setLoadStat _ w = z at hx
  have hzpw : z.pw = s.pw := by
    rw [← hz]
    exact hpw
  have hzfw : z.stew.fw = .none := by
    rw [← hz]
    change y.stew.fw = .none
    rw [hy]
    exact hf
  obtain ⟨tpw, -, p', tstew⟩ := (worked_pump (reloadOutcome s ecc)).only.steward
  refine ⟨_, exec_loaderOutcome hrun, fun ho => ?_, fun hs => ?_⟩
  · have hop : operating z = true := by
      unfold operating
      rw [hzpw]
      exact decide_eq_true ho
    rw [settle_pw, settle_stew, tpw, tstew, hx, if_pos hop, hzpw]
    exact ⟨hzfw, rfl⟩
  · have hop : operating z = false := by
      unfold operating
      rw [hzpw, hs]
      rfl
    rw [settle_pw, settle_stew, tpw, tstew, hx, if_neg (by rw [hop]; exact Bool.false_ne_true)]
    exact ⟨rfl, hzpw⟩

end

/-- A Steward that runs is not taken up again. -/
theorem exec_loaderOutcome_ignored (hq : Quiet s) (hj : s.nv.jobs = []) (hm : s.pw.mode ≠ .load) (hf : s.stew.fw ≠ .none) :
    ∃ t, exec (.loaderOutcome ecc) s = .next t ∧ UpToMarks s t := by
  have hx : loaderOutcome s ecc = s := by
    unfold loaderOutcome
    rw [if_neg hm, decide_eq_false hf, Bool.and_false, Bool.false_and]
    rfl
  have hrun := exec_loaderOutcome hx
  rw [pump_of_idle hj] at hrun
  exact exists_next_upToMarks hq hrun (unflagged_refl s)

/-! ## The watchdog (R348) -/

theorem exec_watchdogExpiry (hm : s.pw.mode = .operating ∨ s.pw.mode = .safe) (hf : s.stew.fw = .olumon) (hd : s.pw.stwDown = false) :
    ∃ t, exec .watchdogExpiry s = .next t ∧ t.stew.wdog = satInc8 s.stew.wdog ∧ t.stew.fw = .none ∧
      t.mbx = { epoch := s.mbx.epoch + 1 } ∧ t.au.ctxs = [] ∧ t.au.slots = [] ∧ t.pw = s.pw ∧ t.links = s.links := by
  have hx : watchdogExpiry s = stewardReset { s with stew := { s.stew with wdog := satInc8 s.stew.wdog } } := by
    unfold watchdogExpiry
    rw [hasCommit_of_modes hm, hf, hd]
    rfl
  have hdown := stewardReset_down (s := { s with stew := { s.stew with wdog := satInc8 s.stew.wdog } }) (hasCommit_of_modes hm)
  refine ⟨settle s (watchdogExpiry s), rfl, ?_⟩
  rw [hx, settle_stew, settle_mbx, settle_au, settle_pw, settle_links, hdown.stew]
  exact ⟨rfl, rfl, hdown.mbx, hdown.ctxs, hdown.slots, hdown.pw, hdown.links⟩

theorem exec_watchdogExpiry_ignored (hq : Quiet s) (hf : s.stew.fw ≠ .olumon) :
    ∃ t, exec .watchdogExpiry s = .next t ∧ UpToMarks s t := by
  have hx : watchdogExpiry s = s := by
    unfold watchdogExpiry
    rw [decide_eq_false hf, Bool.and_false, Bool.false_and]
    rfl
  refine exists_next_upToMarks hq ?_ (unflagged_refl s)
  change execWatchdogExpiry s = _
  unfold execWatchdogExpiry
  rw [hx]

/-- Settles O55. The loader's decision is a fold over two banks, and the Steward's work that follows a start leaves the Steward's registers
but the policy, the modes and the bytes of the store (`worked_pump`). -/
theorem loaderRuns : Obligations.LoaderRuns := by
  intro s ecc hq hj
  dsimp only
  refine ⟨fun again b rest => loaderDecide_order, bankOrder_straps s ecc (readPolicy s), fun hm => ?_, exec_loadTimeout_ignored hq,
    fun hm hf hd => ?_, exec_loaderOutcome_ignored hq hj, exec_watchdogExpiry, exec_watchdogExpiry_ignored hq⟩
  · exact ⟨fun b => exec_load_some hq hm, exec_load_none hm, exec_loadTimeout hm⟩
  · refine ⟨fun b hb ha => exec_reload_some hm hf hd hb ha, fun hb ho => ?_, fun hs hb => ?_⟩
    · obtain ⟨t, hexec, hdown, -⟩ := exec_reload_none (ecc := ecc) hm hf hd (.inl hb)
      exact ⟨t, hexec, hdown ho⟩
    · obtain ⟨t, hexec, -, hup⟩ := exec_reload_none (ecc := ecc) hm hf hd (hb.imp_right fun hforce => ⟨hs, hforce⟩)
      exact ⟨t, hexec, hup hs⟩

end Sys2Proof.Machine
end

section
/-!
PROOFS. Chapter 17: the ends of programs and erases, and the journal's checkpoint (R366 to R369, R371, R374, R393).
-/
namespace Sys2Proof.Machine
open Sys2Proof.Safety Sys2Proof.Claims

variable {s b e u x z : State} {n off addr q : Nat} {w good orphan : Bool} {bytes : List Byte}

/-! ## What the close leaves -/

/-- In the same mode no entry joins the log at the close. -/
theorem settle_jobs_of_code (h : modeCode x = modeCode b) : (settle b x).nv.jobs = x.nv.jobs := by
  have hdone : (nvDone b x).nv = x.nv ∧ modeCode (nvDone b x) = modeCode b := by
    unfold nvDone
    split
    · exact ⟨rfl, h⟩
    · exact ⟨rfl, h⟩
  obtain ⟨hnv, hcode⟩ := hdone
  obtain ⟨m, hm⟩ := noteHwm_eq (flushHouse (arbFollow (settlePermit b (logMode b (nvDone b x)))))
  unfold settle
  rw [hm]
  change (flushHouse (arbFollow (settlePermit b (logMode b (nvDone b x))))).nv.jobs = _
  rw [flushHouse_jobs]
  change (settlePermit b (logMode b (nvDone b x))).nv.jobs = _
  rw [settlePermit_nv, logMode_of_code hcode, hnv]

/-- A flag gathered for HS_STAT is set at the close. -/
theorem houseFlag_of_gathered (hacc : x.sqAcc.contains 0x300 = false) (hn : n < 16) (h : (nvDone b x).hsAcc.getLsbD n = true) :
    (sqOf (settle b x) 0x300).flags.getLsbD n = true := by
  have hwidth : decide (n < 24) = true := decide_eq_true (by omega)
  rw [sqOf_settle_house _ _ hacc, sqRaise_bit, BitVec.getLsbD_setWidth, h, hwidth]
  exact Bool.or_true _

theorem nvDone_raised (h : x.hsAcc.getLsbD n = true) (b : State) : (nvDone b x).hsAcc.getLsbD n = true := by
  unfold nvDone
  split
  · rw [house_hsAcc, BitVec.getLsbD_or, h, Bool.true_or]
  · exact h

theorem nvByte_settle (b x : State) : nvByte (settle b x) = nvByte x := nvByte_same ⟨settle_nv_mem b x, settle_nv_indet b x⟩

theorem sameBytes_of_worked (h : Worked w b e) (ho : b.nv.op = none) : SameBytes e b := ⟨h.store.mem, h.store.indet ho⟩

/-! ## A flag of NV_EVT -/

theorem nvEvt_evt (s : State) (k q : Nat) (hk : k < 24) : (sqOf (nvEvt s k q) 0x604).flags.getLsbD k = true := by
  have hpow : (BitVec.ofNat 24 (2 ^ k)).getLsbD k = true := by
    rw [BitVec.getLsbD_ofNat, Nat.testBit_two_pow_self, decide_eq_true hk]
    rfl
  have hset : sqOf (nvEvt s k q) 0x604 = sqOf (sqSet s 0x604 (BitVec.ofNat 24 (2 ^ k))) 0x604 := by
    unfold nvEvt logEntry
    dsimp only
    split <;> rfl
  have hself : sqOf (sqSet s 0x604 (BitVec.ofNat 24 (2 ^ k))) 0x604 =
      if s.sqAcc.contains 0x604 then sqJoin (sqOf s 0x604) (BitVec.ofNat 24 (2 ^ k)) else sqRaise (sqOf s 0x604) (BitVec.ofNat 24 (2 ^ k)) :=
    tabGet_tabSet_self _ _ _ _
  rw [hset, hself]
  split
  · change (_ ||| BitVec.ofNat 24 (2 ^ k)).getLsbD k = true
    rw [BitVec.getLsbD_or, hpow, Bool.or_true]
  · rw [sqRaise_bit, hpow, Bool.or_true]

theorem nvEvt_house (s : State) (k q : Nat) : (nvEvt s k q).hsAcc.getLsbD 8 = true := by
  have hacc : (nvEvt s k q).hsAcc = s.hsAcc ||| hNVERROR := by
    unfold nvEvt logEntry
    dsimp only
    split <;> rfl
  rw [hacc, BitVec.getLsbD_or]
  exact Bool.or_true _

theorem sameBytes_nvEvt (s : State) (k q : Nat) : SameBytes (nvEvt s k q) s :=
  ⟨(worked_nvEvt (w := true) k q).store.mem, by unfold nvEvt logEntry; dsimp only; split <;> rfl⟩

/-- Work that was at hand is still at hand after a log entry. -/
theorem headItems_nvEvt (h : s.nv.jobs ≠ []) (k q : Nat) : headItems (nvEvt s k q) = headItems s := by
  obtain ⟨j, js, hj⟩ := List.exists_cons_of_ne_nil h
  unfold nvEvt logEntry
  dsimp only
  split
  · unfold headItems
    change (match s.nv.jobs ++ _ with | [] => [] | j :: _ => j.items) = _
    rw [hj]
    rfl
  · rfl

/-! ## The controller is free -/

/-- The operation is over. -/
def opOver (s : State) : State := { s with nv := { s.nv with op := none, orphan := false } }

theorem worked_opFree (s : State) (c : Nat) : Worked w (opOver s) (opFree s c) :=
  (worked_allot _ : Worked false (opOver s) (freeGrant (opOver s) c)).trans (worked_arbSettle s _)

theorem arbSettle_nv (h : s.nv.op = none) (b : State) : (arbSettle b s).nv = s.nv := by
  have hflag : (budgetFlagged b s).nv = s.nv := by
    unfold budgetFlagged
    split <;> rfl
  have hover : ∀ x, (overdrawn x).nv = x.nv := fun x => by
    unfold overdrawn
    split <;> rfl
  have haim : ∀ x : State, x.nv.op = none → (aimed x).nv = x.nv := fun x hx => by
    unfold aimed
    split
    · rfl
    · exact (revoke_store x).2.2 hx
  have hrec : ∀ x, (recovered x).nv = x.nv := fun x => by
    unfold recovered
    split <;> rfl
  rw [arbSettle_eq]
  change (recovered (aimed (overdrawn (budgetFlagged b s)))).nv = _
  rw [hrec, haim _ (by rw [hover, hflag, h]), hover, hflag]

theorem opFree_nv (s : State) (c : Nat) : (opFree s c).nv = (opOver s).nv := by
  have hnv : (freeGrant (opOver s) c).nv = (opOver s).nv := rfl
  unfold opFree
  exact (arbSettle_nv (congrArg (·.op) hnv) s).trans hnv

/-! ## The Steward's part of an operation's end -/

theorem worked_programNext (s : State) (good : Bool) : Worked w s (programNext s good) := by
  unfold programNext
  split
  · exact worked_ite ((worked_setAreaPos _ _).trans (worked_setHead _)) (worked_setAreaPos _ _)
  · have hpos : ∀ w, Worked w s { s with nv := { s.nv with ckptPos := s.nv.ckptPos + 1 } } := fun w => worked_nv rfl rfl rfl rfl
    refine worked_ite (((hpos false).trans ?_).trans (worked_setHead _)) (hpos w)
    exact worked_nv rfl rfl rfl rfl
  · exact worked_ite (worked_setHead _) (worked_failWork s)
  · exact worked_refl s

theorem worked_retireSector (s : State) (q : Nat) : Worked w s (retireSector s q) := by
  have hret : Worked false s { s with nv := { s.nv with retired := if s.nv.retired.contains q then s.nv.retired else s.nv.retired ++ [q] } } := by
    refine ⟨⟨_, _, _, _, _, _, _, _, _, _, rfl⟩, flagsKept_of_eq rfl rfl rfl, rfl, fun r hr => ?_, fun _ => rfl, fun _ h => h⟩
    change r ∈ if s.nv.retired.contains q then s.nv.retired else s.nv.retired ++ [q]
    split
    · exact hr
    · exact List.mem_append_left _ hr
  exact hret.trans (worked_nvEvt 4 q)

theorem mem_retireSector (s : State) (q : Nat) : q ∈ (retireSector s q).nv.retired := by
  refine (worked_nvEvt (w := true) 4 q).store.retired q ?_
  change q ∈ if s.nv.retired.contains q then s.nv.retired else s.nv.retired ++ [q]
  split
  · next h => exact List.contains_iff_mem.1 h
  · exact List.mem_append_right _ (List.mem_singleton_self q)

/-- What follows an erase that went well, and what follows the second that failed (R371). -/
theorem eraseNext_eq (s : State) (q : Nat) (again : Bool) (rest : List NvItem) :
    let y := if q < 2 then { s with nv := { s.nv with ckptPos := 0 } } else s
    let z := failWork (setHead (retireSector s q) (.append .journal 0x03 (BitVec.ofNat 8 q) 0 0 :: rest))
    (∃ its its', eraseNext s q true again rest = if (196 ≤ q && 20000 ≤ eraseCount s q) = true then setHead (retireSector y q) its
      else setHead y its') ∧
    eraseNext s q false true rest =
      if 196 ≤ q then setHead (retireSector s q) (.append .journal 0x03 (BitVec.ofNat 8 q) 0 0 :: rest)
      else setJobs z ({ mailbox := false, items := [.append .journal 0x03 (BitVec.ofNat 8 q) 0 0] } :: z.nv.jobs) := ⟨⟨_, _, rfl⟩, rfl⟩

theorem eraseNext_again (s : State) (q : Nat) (rest : List NvItem) : Worked w (retireSector s q) (eraseNext s q false true rest) := by
  rw [(eraseNext_eq s q true rest).2]
  exact worked_ite (worked_setHead _) (((worked_setHead _).trans (worked_failWork _)).trans (worked_setJobs _))

theorem worked_eraseNext (s : State) (q : Nat) (ok again : Bool) (rest : List NvItem) : Worked w s (eraseNext s q ok again rest) := by
  cases ok with
  | true =>
    obtain ⟨its, its', he⟩ := (eraseNext_eq s q again rest).1
    rw [he]
    have hpos : Worked false s (if q < 2 then { s with nv := { s.nv with ckptPos := 0 } } else s) :=
      worked_ite (worked_nv rfl rfl rfl rfl) (worked_refl s)
    exact worked_ite ((hpos.trans (worked_retireSector _ q)).trans (worked_setHead _)) (hpos.trans (worked_setHead _))
  | false =>
    cases again with
    | true => exact (worked_retireSector s q).trans (eraseNext_again s q rest)
    | false => exact worked_setHead _

/-! ## The end of a program (R368) -/

/-- The store once the word has been programmed and read back. -/
def programmed (s : State) (addr : Nat) (bytes : List Byte) (good : Bool) : State := (programEnds s addr bytes good).1

theorem nvProgramDone_eq (hc : nvClocked s = true) (ho : s.nv.op = some (.program addr bytes)) (good : Bool) :
    nvProgramDone s good = if s.nv.orphan then opFree (programmed s addr bytes good) cPROGRAM
      else pump (programNext (opFree (programmed s addr bytes good) cPROGRAM) (programEnds s addr bytes good).2) := by
  unfold nvProgramDone
  rw [hc, ho]
  rfl

/-- What follows a program leaves the store's bytes, and the flags that the controller set. -/
theorem worked_nvProgramDone (hc : nvClocked s = true) (ho : s.nv.op = some (.program addr bytes)) (good : Bool) :
    Worked true (opOver (programmed s addr bytes good)) (nvProgramDone s good) := by
  rw [nvProgramDone_eq hc ho]
  exact worked_ite (worked_opFree _ _) (((worked_opFree _ _).trans (worked_programNext _ _)).trans (worked_pump _))

/-! ## The end of an erase (R369) -/

/-- The store once the erase has ended. -/
def erased (s : State) (q : Nat) (o : EraseOutcome) : State := if o = .ok then nvEraseSector s q else nvEvt (nvSpoil s q) 3 q

theorem nvEraseDone_eq (hc : nvClocked s = true) (ho : s.nv.op = some (.erase q)) (o : EraseOutcome) :
    nvEraseDone s o = if s.nv.orphan then opFree (erased s q o) cERASE
      else match headItems (opFree (erased s q o) cERASE) with
        | .erase _ again :: rest => pump (eraseNext (opFree (erased s q o) cERASE) q (decide (o = .ok)) again rest)
        | _ => opFree (erased s q o) cERASE := by
  unfold nvEraseDone
  rw [hc, ho]
  dsimp only
  unfold erased
  cases o <;> rfl

theorem worked_nvEraseDone (hc : nvClocked s = true) (ho : s.nv.op = some (.erase q)) (o : EraseOutcome) :
    Worked true (opOver (erased s q o)) (nvEraseDone s o) := by
  rw [nvEraseDone_eq hc ho]
  refine worked_ite (worked_opFree _ _) ?_
  split
  · exact ((worked_opFree _ _).trans (worked_eraseNext _ _ _ _ _)).trans (worked_pump _)
  · exact worked_opFree _ _

end Sys2Proof.Machine
end

section
/-!
PROOFS. Chapter 17: the operations of the store, settled (R366 to R369, R371, R374, R393).
-/
namespace Sys2Proof.Machine
open Sys2Proof.Safety Sys2Proof.Claims

variable {s b e u x z : State} {k n off addr q : Nat} {w good : Bool} {bytes : List Byte}

theorem nvClocked_of_modes (hm : s.pw.mode = .operating ∨ s.pw.mode = .safe) : nvClocked s = true := by
  unfold nvClocked
  rw [hasCommit_of_modes hm]
  rfl

/-- Both flags of an error of the store. -/
def NvFlagged (t : State) (k : Nat) : Prop := (sqOf t 0x604).flags.getLsbD k = true ∧ (sqOf t 0x300).flags.getLsbD 8 = true

/-- Flags set before a piece of the Steward's work stand after the close. -/
theorem nvFlagged_settle (h : Worked w x e) (hevt : (sqOf x 0x604).flags.getLsbD k = true) (hhs : x.hsAcc.getLsbD 8 = true)
    (hacc : x.sqAcc.contains 0x300 = false) (b : State) : NvFlagged (settle b e) k := by
  refine ⟨?_, houseFlag_of_gathered (h.flags.first.trans hacc) (by decide) (nvDone_raised (h.flags.raised 8 hhs) b)⟩
  rw [sqOf_settle _ _ _ (by decide)]
  exact h.flags.evt 0x604 k hevt

theorem nvEvt_first (hq : Quiet s) (k q : Nat) : (nvEvt s k q).sqAcc.contains 0x300 = false := by
  rw [(worked_nvEvt (w := true) (s := s) k q).flags.first, hq.2]
  rfl

theorem nvByte_settled (h : Worked w x e) (ho : x.nv.op = none) (b : State) : nvByte (settle b e) = nvByte x :=
  (nvByte_settle b e).trans (nvByte_same (sameBytes_of_worked h ho))

/-! ## Programs (R368, R371, R393) -/

theorem programmed_good (h : wordErased s addr = true) : programEnds s addr bytes true = (nvWrite s addr bytes, true) := by
  unfold programEnds
  rw [h]
  rfl

theorem programmed_fails (h : wordErased s addr = true) : programmed s addr bytes false = nvEvt (nvSpoilWord s addr) 2 (addr / 4096) := by
  unfold programmed programEnds
  rw [h]
  rfl

theorem programmed_refused (h : wordErased s addr = false) (good : Bool) : programmed s addr bytes good = nvEvt s 1 (addr / 4096) := by
  unfold programmed programEnds
  rw [h]
  rfl

theorem exec_program_good (hc : nvClocked s = true) (ho : s.nv.op = some (.program addr bytes)) (h : wordErased s addr = true) :
    nvByte (settle s (nvProgramDone s true)) = nvByte (nvWrite s addr bytes) := by
  have hw := worked_nvProgramDone hc ho true
  unfold programmed at hw
  rw [programmed_good h] at hw
  exact nvByte_settled hw rfl s

theorem exec_program_fails (hq : Quiet s) (hc : nvClocked s = true) (ho : s.nv.op = some (.program addr bytes)) (h : wordErased s addr = true) :
    NvFlagged (settle s (nvProgramDone s false)) 2 ∧
    nvByte (settle s (nvProgramDone s false)) = nvByte (nvWrite s addr ((upTo 32).map fun i => freeByte s.free i)) := by
  have hw := worked_nvProgramDone hc ho false
  rw [programmed_fails h] at hw
  have hq' : Quiet (nvSpoilWord s addr) := hq
  exact ⟨nvFlagged_settle hw (nvEvt_evt _ 2 _ (by decide)) (nvEvt_house _ 2 _) (nvEvt_first hq' 2 _) s,
    (nvByte_settled hw rfl s).trans (nvByte_same (sameBytes_nvEvt (nvSpoilWord s addr) 2 (addr / 4096)))⟩

theorem exec_program_refused (hq : Quiet s) (hc : nvClocked s = true) (ho : s.nv.op = some (.program addr bytes)) (h : wordErased s addr = false)
    (good : Bool) : NvFlagged (settle s (nvProgramDone s good)) 1 ∧ (settle s (nvProgramDone s good)).nv.mem = s.nv.mem ∧
      (settle s (nvProgramDone s good)).nv.indet = s.nv.indet := by
  have hw := worked_nvProgramDone hc ho good
  rw [programmed_refused h] at hw
  obtain ⟨hmem, hind⟩ := sameBytes_nvEvt s 1 (addr / 4096)
  refine ⟨nvFlagged_settle hw (nvEvt_evt s 1 _ (by decide)) (nvEvt_house s 1 _) (nvEvt_first hq 1 _) s, ?_, ?_⟩
  · rw [settle_nv_mem]
    exact hw.store.mem.trans hmem
  · rw [settle_nv_indet]
    exact (hw.store.indet rfl).trans hind

/-- The last entry appended moves its area on, and Q-NVM is empty. -/
theorem exec_program_last {m : Bool} {ar : Area} {ty arg : BitVec 8} {v : Word} {d : BitVec 96} (hq : Quiet s) (hc : nvClocked s = true)
    (ho : s.nv.op = some (.program addr bytes)) (h : wordErased s addr = true) (horph : s.nv.orphan = false)
    (hj : s.nv.jobs = [⟨m, [.append ar ty arg v d]⟩]) :
    areaPos (settle s (nvProgramDone s true)) ar = { areaPos s ar with word := (areaPos s ar).word + 1, eseq := (areaPos s ar).eseq + 1 } ∧
    (sqOf (settle s (nvProgramDone s true)) 0x300).flags.getLsbD 7 = true := by
  have hw := worked_nvProgramDone hc ho true
  have heq := nvProgramDone_eq hc ho true
  unfold programmed at hw heq
  rw [programmed_good h] at hw heq
  rw [horph, if_neg Bool.false_ne_true] at heq
  have hnv := opFree_nv (nvWrite s addr bytes) cPROGRAM
  generalize opFree (nvWrite s addr bytes) cPROGRAM = y at heq hnv
  have hhead : headItems y = [.append ar ty arg v d] := by
    unfold headItems
    rw [hnv]
    change (match s.nv.jobs with | [] => [] | j :: _ => j.items) = _
    rw [hj]
  have hpos : areaPos y ar = areaPos s ar := by
    unfold areaPos
    rw [hnv]
    rfl
  have hnext : programNext y true =
      setHead (setAreaPos y ar { areaPos s ar with word := (areaPos s ar).word + 1, eseq := (areaPos s ar).eseq + 1 }) [] := by
    unfold programNext
    rw [hhead]
    dsimp only
    rw [hpos, if_pos rfl]
  have hjobs : y.nv.jobs = [⟨m, [.append ar ty arg v d]⟩] := by
    rw [hnv]
    exact hj
  have hend : (programNext y true).nv.jobs = [] ∧ (programNext y true).nv.orphan = false ∧
      areaPos (programNext y true) ar = { areaPos s ar with word := (areaPos s ar).word + 1, eseq := (areaPos s ar).eseq + 1 } := by
    have horph' : y.nv.orphan = false := by
      rw [hnv]
      rfl
    rw [hnext]
    cases ar <;> (unfold setAreaPos setHead; dsimp only; rw [hjobs]; exact ⟨rfl, horph', rfl⟩)
  obtain ⟨hnone, hown, harea⟩ := hend
  rw [pump_of_idle hnone] at heq
  have hwork : storeWork s = 1 ∧ storeWork (nvProgramDone s true) = 0 := by
    unfold storeWork
    rw [heq, hj, horph, hnone, hown]
    exact ⟨rfl, rfl⟩
  refine ⟨?_, houseFlag_of_gathered (hw.flags.first.trans (by rw [show (opOver (nvWrite s addr bytes)).sqAcc = s.sqAcc from rfl, hq.2]; rfl))
    (by decide) ?_⟩
  · rw [← harea, ← heq]
    unfold areaPos
    rw [settle_nv_journal, settle_nv_policy, settle_nv_log]
  · unfold nvDone
    rw [hwork.1, hwork.2, if_pos (by decide), house_hsAcc, BitVec.getLsbD_or]
    exact Bool.or_true _

/-! ## Erases (R369, R371) -/

theorem erased_fails (s : State) (q : Nat) : erased s q .fail = nvEvt (nvSpoil s q) 3 q := rfl

theorem exec_erase_ok (hc : nvClocked s = true) (ho : s.nv.op = some (.erase q)) :
    nvByte (settle s (nvEraseDone s .ok)) = nvByte (nvEraseSector s q) := nvByte_settled (worked_nvEraseDone hc ho .ok) rfl s

theorem nvByte_nvSpoil {a : Nat} (h : a / 4096 ≠ q) : nvByte (nvSpoil s q) a = nvByte s a := by
  unfold nvByte nvSpoil
  dsimp only
  rw [tabGet_tabSet_ne _ _ _ _ _ h]

theorem indetSector_nvSpoil (s : State) (q : Nat) : indetSector (nvSpoil s q) q = true := by
  unfold indetSector nvSpoil
  dsimp only
  rw [tabGet_tabSet_self]
  exact decide_eq_true (Nat.succ_ne_zero _)

theorem exec_erase_fails (hq : Quiet s) (hc : nvClocked s = true) (ho : s.nv.op = some (.erase q)) :
    NvFlagged (settle s (nvEraseDone s .fail)) 3 ∧ indetSector (settle s (nvEraseDone s .fail)) q = true ∧
    ∀ a, a / 4096 ≠ q → nvByte (settle s (nvEraseDone s .fail)) a = nvByte s a := by
  have hw := worked_nvEraseDone hc ho .fail
  rw [erased_fails] at hw
  have hq' : Quiet (nvSpoil s q) := hq
  have hsame : SameBytes (settle s (nvEraseDone s .fail)) (nvSpoil s q) := by
    obtain ⟨hmem, hind⟩ := sameBytes_nvEvt (nvSpoil s q) 3 q
    refine ⟨?_, ?_⟩
    · rw [settle_nv_mem]
      exact hw.store.mem.trans hmem
    · rw [settle_nv_indet]
      exact (hw.store.indet rfl).trans hind
  refine ⟨nvFlagged_settle hw (nvEvt_evt _ 3 _ (by decide)) (nvEvt_house _ 3 _) (nvEvt_first hq' 3 _) s, ?_, fun a ha => ?_⟩
  · rw [indetSector_same hsame]
    exact indetSector_nvSpoil s q
  · rw [nvByte_same hsame]
    exact nvByte_nvSpoil ha

/-- The second failing erase retires its sector. -/
theorem exec_erase_retires {r : Nat} {rest : List NvItem} (hq : Quiet s) (hc : nvClocked s = true) (ho : s.nv.op = some (.erase q))
    (horph : s.nv.orphan = false) (hhead : headItems s = .erase r true :: rest) :
    NvFlagged (settle s (nvEraseDone s .fail)) 4 ∧ q ∈ (settle s (nvEraseDone s .fail)).nv.retired := by
  have hne : s.nv.jobs ≠ [] := fun h => by
    unfold headItems at hhead
    rw [h] at hhead
    cases hhead
  have heq := nvEraseDone_eq hc ho .fail
  rw [erased_fails, horph, if_neg Bool.false_ne_true] at heq
  have hstill : headItems (opFree (nvEvt (nvSpoil s q) 3 q) cERASE) = .erase r true :: rest := by
    have hspoilt : headItems (nvEvt (nvSpoil s q) 3 q) = headItems (nvSpoil s q) := headItems_nvEvt (s := nvSpoil s q) hne 3 q
    have hfree : headItems (opFree (nvEvt (nvSpoil s q) 3 q) cERASE) = headItems (nvEvt (nvSpoil s q) 3 q) := by
      unfold headItems
      rw [opFree_nv]
      rfl
    exact (hfree.trans hspoilt).trans hhead
  rw [hstill] at heq
  have hlast : Worked true (opOver (nvEvt (nvSpoil s q) 3 q)) (opFree (nvEvt (nvSpoil s q) 3 q) cERASE) := worked_opFree _ _
  have hacc : (opFree (nvEvt (nvSpoil s q) 3 q) cERASE).sqAcc.contains 0x300 = false :=
    hlast.flags.first.trans (nvEvt_first (s := nvSpoil s q) hq 3 q)
  generalize opFree (nvEvt (nvSpoil s q) 3 q) cERASE = y at heq hacc
  have hw : Worked true (retireSector y q) (nvEraseDone s .fail) := by
    rw [heq]
    exact (eraseNext_again y q rest).trans (worked_pump _)
  refine ⟨nvFlagged_settle hw (nvEvt_evt _ 4 _ (by decide)) (nvEvt_house _ 4 _) ?_ s, ?_⟩
  · exact (worked_retireSector (w := true) y q).flags.first.trans hacc
  · rw [settle_nv_retired]
    exact hw.store.retired q (mem_retireSector y q)

/-! ## The checkpoint of the journal (R374) -/

/-- The entry that begins a checkpoint's erase waits to be programmed. -/
structure CkptBegun (p : AreaPos) (rt : List Nat) (js : List NvJob) (c : Nat) (x : State) : Prop where
  jobs : x.nv.jobs = js
  journal : x.nv.journal = p
  retired : x.nv.retired = rt
  ckpt : x.nv.ckpt = true
  code : modeCode x = c

section
variable {p : AreaPos} {rt : List Nat} {js : List NvJob} {c : Nat}

theorem CkptBegun.onAllot (h : CkptBegun p rt js c x) (he : OnAllot x e) : CkptBegun p rt js c e := by
  obtain ⟨a, rfl, hl⟩ := he
  have hcode : modeCode { x with allot := a } = modeCode x := by
    unfold modeCode
    dsimp only
    rw [hl]
    rfl
  exact ⟨h.jobs, h.journal, h.retired, h.ckpt, hcode.trans h.code⟩

/-- Asking for the grant and beginning the program leave the work at hand. -/
theorem ckptBegun_askOp {bs : List Byte} (h : CkptBegun p rt js c x) (he : askOp x cPROGRAM (.program addr bs) = some e) :
    CkptBegun p rt js c e := by
  unfold askOp at he
  split at he
  · cases he
    exact ⟨h.jobs, h.journal, h.retired, h.ckpt, h.code⟩
  · split at he
    · cases he
    · cases he
      exact h.onAllot (onAllot_raiseReq x cPROGRAM 0 none none)

theorem ckptBegun_pumpOne {m : Bool} {ty arg : BitVec 8} {v : Word} {d : BitVec 96} {rest : List NvItem} {js' : List NvJob}
    (hjs : js = ⟨m, .append .journal ty arg v d :: rest⟩ :: js') (hdead : ∀ y : State, y.nv.retired = rt → areaDead y p.sector = false)
    (h : CkptBegun p rt js c x) (he : pumpOne x = some e) : CkptBegun p rt js c e := by
  unfold pumpOne at he
  rw [h.jobs, hjs] at he
  dsimp only [areaPos] at he
  rw [h.journal, if_neg (by rw [hdead x h.retired]; exact Bool.false_ne_true)] at he
  split at he
  · exact ckptBegun_askOp h he
  · cases he

theorem ckptBegun_pumpN {m : Bool} {ty arg : BitVec 8} {v : Word} {d : BitVec 96} {rest : List NvItem} {js' : List NvJob}
    (hjs : js = ⟨m, .append .journal ty arg v d :: rest⟩ :: js') (hdead : ∀ y : State, y.nv.retired = rt → areaDead y p.sector = false)
    (n : Nat) (h : CkptBegun p rt js c x) : CkptBegun p rt js c (pumpN n x) := by
  induction n generalizing x with
  | zero => exact h
  | succ n ih =>
    unfold pumpN
    split
    · exact h
    · split
      · next t ht => exact ih (ckptBegun_pumpOne hjs hdead h ht)
      · exact h

end

/-- The two sectors of the journal are one area. -/
theorem areaDead_journal (h : e.nv.retired = s.nv.retired) {i : Nat} (hi : i ≤ 1) : areaDead e i = areaDead s (1 - i) := by
  have hof : areaOfSector i = (0, 2) ∧ areaOfSector (1 - i) = (0, 2) := by
    unfold areaOfSector
    rw [if_pos (by omega), if_pos (by omega)]
    exact ⟨by rw [show i / 2 * 2 = 0 by omega], by rw [show (1 - i) / 2 * 2 = 0 by omega]⟩
  obtain ⟨h1, h2⟩ := hof
  unfold areaDead
  rw [h1, h2, h]
  dsimp only
  rw [decide_eq_true (by omega : i < 196), decide_eq_true (by omega : 1 - i < 196)]

theorem stewardRuns_of_olumon (hfw : s.stew.fw = .olumon) (hdown : s.pw.stwDown = false) : stewardRuns s = true := by
  unfold stewardRuns
  rw [hfw, hdown]
  rfl

section
variable (hm : s.pw.mode = .operating ∨ s.pw.mode = .safe) (hfw : s.stew.fw = .olumon) (hdown : s.pw.stwDown = false)
  (ho : s.nv.op = none) (hck : s.nv.ckpt = false)
include hm hfw hdown ho hck

theorem journalCheckpoint_begins (hsec : s.nv.journal.sector ≤ 1) (hword : 120 < s.nv.journal.word)
    (hdead : areaDead s (1 - s.nv.journal.sector) = false) :
    modeCode (journalCheckpoint s) = modeCode s ∧ (journalCheckpoint s).nv.ckpt = true ∧ (journalCheckpoint s).nv.jobs =
      ⟨false, .append .journal 1 (BitVec.ofNat 8 (1 - s.nv.journal.sector)) 0 0 :: .erase (1 - s.nv.journal.sector) false ::
        ((upTo 44).map .ckpt ++ [.ckptDone])⟩ :: s.nv.jobs := by
  have hgo : journalCheckpoint s = pumpN
      (32 + 4 * ((⟨false, ckptWork s⟩ :: s.nv.jobs : List NvJob).foldl (fun n j => n + j.items.length + 1) 0))
      (setJobs { s with nv := { s.nv with ckpt := true } } (⟨false, ckptWork s⟩ :: s.nv.jobs)) := by
    have hruns := stewardRuns_of_olumon hfw hdown
    have hgrants := arbGrants_of_modes hm
    unfold journalCheckpoint pump
    rw [if_pos (by
        rw [hfw, hruns, hgrants, hck, ho, decide_eq_true (show journalFree s < 8 by unfold journalFree; omega)]
        rfl)]
    exact if_pos (Bool.and_eq_true_iff.2 ⟨hruns, hgrants⟩)
  have hfirst : pumpOne (setJobs { s with nv := { s.nv with ckpt := true } } (⟨false, ckptWork s⟩ :: s.nv.jobs)) =
      some (setJobs { s with nv := { s.nv with ckpt := true } }
        (⟨false, .append .journal 1 (BitVec.ofNat 8 (1 - s.nv.journal.sector)) 0 0 :: .erase (1 - s.nv.journal.sector) false ::
          ((upTo 44).map .ckpt ++ [.ckptDone])⟩ :: s.nv.jobs)) := by
    have hdone : ((upTo 44).map NvItem.ckpt ++ [NvItem.ckptDone]).contains .ckptDone = true := by decide
    unfold pumpOne ckptWork
    change (if areaDead s (1 - s.nv.journal.sector) = true then _ else _) = _
    rw [if_neg (by rw [hdead]; exact Bool.false_ne_true), hdone, if_neg (by simp)]
    rfl
  have hbegun := ckptBegun_pumpN (p := s.nv.journal) (rt := s.nv.retired) rfl
    (fun y hy => (areaDead_journal hy hsec).trans hdead)
    (31 + 4 * ((⟨false, ckptWork s⟩ :: s.nv.jobs : List NvJob).foldl (fun n j => n + j.items.length + 1) 0))
    (⟨rfl, rfl, rfl, rfl, rfl⟩ : CkptBegun s.nv.journal s.nv.retired _ (modeCode s) (setJobs { s with nv := { s.nv with ckpt := true } }
      (⟨false, .append .journal 1 (BitVec.ofNat 8 (1 - s.nv.journal.sector)) 0 0 :: .erase (1 - s.nv.journal.sector) false ::
        ((upTo 44).map .ckpt ++ [.ckptDone])⟩ :: s.nv.jobs)))
  rw [hgo, show ∀ f, 32 + f = (31 + f) + 1 by omega]
  unfold pumpN
  rw [if_neg (by
    change ¬ s.nv.op.isSome = true
    rw [ho]
    exact Bool.false_ne_true), hfirst]
  exact ⟨hbegun.code, hbegun.ckpt, hbegun.jobs⟩

end

theorem journalCheckpoint_early (h : s.nv.journal.word ≤ 120) : journalCheckpoint s = s := by
  refine if_neg ?_
  rw [decide_eq_false (show ¬ journalFree s < 8 by unfold journalFree; omega)]
  simp

/-- Settles O56. What ends an operation moves the store's bytes, flags what failed, and hands the work that follows to the Steward,
whose work keeps the bytes and the flags. -/
theorem storeOperations : Obligations.StoreOperations := by
  intro s hq hm
  have hc := nvClocked_of_modes hm
  refine ⟨fun addr bytes ho => ⟨fun her => ⟨⟨_, rfl, ?_, ?_, ?_⟩, ?_⟩, fun her good => ⟨_, rfl, ?_⟩⟩, fun q ho => ⟨⟨_, rfl, ?_, ?_⟩, ⟨_, rfl, ?_⟩⟩,
    fun ho => ⟨fun good => ?_, fun o => ?_⟩, fun hfw hdown ho hck hsec => ⟨fun hword hdead => ⟨_, rfl, ?_⟩, fun hword => ?_⟩⟩
  · intro i hi hdet
    rw [exec_program_good hc ho her, nvByte_nvWrite, if_pos ⟨hdet, by omega, by omega⟩, Nat.add_sub_cancel_left]
  · intro a ha
    rw [exec_program_good hc ho her, nvByte_nvWrite, if_neg (by omega)]
  · exact fun m ar ty arg v d horph hj => exec_program_last hq hc ho her horph hj
  · obtain ⟨hflag, hbytes⟩ := exec_program_fails hq hc ho her
    refine ⟨_, rfl, hflag, fun a ha => ?_⟩
    rw [hbytes, nvByte_nvWrite, if_neg]
    simp only [List.length_map, List.length_range, upTo]
    omega
  · exact exec_program_refused hq hc ho her good
  · intro i hi
    rw [exec_erase_ok hc ho, nvByte_nvEraseSector, if_pos (by omega)]
  · intro a ha
    rw [exec_erase_ok hc ho, nvByte_nvEraseSector, if_neg ha]
  · obtain ⟨hflag, hind, hbytes⟩ := exec_erase_fails hq hc ho
    exact ⟨hflag, hind, hbytes, fun r rest horph hhead => exec_erase_retires hq hc ho horph hhead⟩
  · have hsame : nvProgramDone s good = s := by
      unfold nvProgramDone
      rw [hc, ho]
    exact exists_next_upToMarks hq (congrArg (fun x => Host.Outcome.next (settle s x)) hsame) (unflagged_refl s)
  · have hsame : nvEraseDone s o = s := by
      unfold nvEraseDone
      rw [hc, ho]
    exact exists_next_upToMarks hq (congrArg (fun x => Host.Outcome.next (settle s x)) hsame) (unflagged_refl s)
  · obtain ⟨hcode, hckpt, hjobs⟩ := journalCheckpoint_begins hm hfw hdown ho hck hsec hword hdead
    exact ⟨by rw [settle_nv_ckpt, hckpt], by rw [settle_jobs_of_code hcode, hjobs]⟩
  · exact exists_next_upToMarks hq (congrArg (fun x => Host.Outcome.next (settle s x)) (journalCheckpoint_early hword)) (unflagged_refl s)

end Sys2Proof.Machine
end

section
/-!
PROOFS. Chapter 18: the cycles of the management host at the authentication engine (R395 to R402).
-/
namespace Sys2Proof.Machine
open Sys2Proof.Safety Sys2Proof.Claims

variable {s b e u x : State} {c d k n code : Nat} {w : Bool}

/-! ## The engine's grant -/

/-- The engine's need moves neither its contexts nor its slots, and begins no work of the Steward. -/
theorem engineNeed_leaves (s : State) : (engineNeed s).au = s.au ∧ (s.nv.jobs = [] → (engineNeed s).nv.jobs = []) := by
  have hsettle : ∀ x, (arbSettle s x).au = x.au ∧ (x.nv.jobs = [] → (arbSettle s x).nv.jobs = []) := fun x => by
    obtain ⟨-, -, -, -, -, hau, -⟩ := (adjusts_arbSettle s x).only.frame
    exact ⟨hau, (adjusts_arbSettle s x).jobs⟩
  unfold engineNeed engineRequest
  split
  · split
    · obtain ⟨a, ha, -⟩ := onAllot_raiseReq s cAUTH 0 none none
      rw [ha]
      exact ⟨rfl, fun h => h⟩
    · exact ⟨rfl, fun h => h⟩
  · split
    · exact hsettle (freeGrant (dropReq s cAUTH) cAUTH)
    · exact ⟨rfl, fun h => h⟩

theorem ctxOf_engineNeed (s : State) (c : Nat) : ctxOf (engineNeed s) c = ctxOf s c := by
  unfold ctxOf
  rw [(engineNeed_leaves s).1]

theorem engineNeed_mode (s : State) : (engineNeed s).pw.mode = s.pw.mode := by
  rw [(worked_engineNeed (w := true) s).only.steward.1]

/-! ## Contexts and slots -/

/-- A context that was set stands so after the engine's need and the close. -/
theorem ctxOf_opened (b s : State) (c : Nat) (y : Ctx) :
    ctxOf (settle b (engineNeed (setCtx s c y))) c = y ∧ ∀ d, d ≠ c → ctxOf (settle b (engineNeed (setCtx s c y))) d = ctxOf s d := by
  refine ⟨?_, fun d hd => ?_⟩
  · rw [ctxOf_settle, ctxOf_engineNeed, ctxOf_setCtx_self]
  · rw [ctxOf_settle, ctxOf_engineNeed, ctxOf_setCtx, if_neg hd]

theorem settleSlots_ctxs (s : State) : (settleSlots s).au.ctxs = s.au.ctxs := by
  refine foldS_inv (fun y => y.au.ctxs = s.au.ctxs) _ _ s rfl fun y k hy => ?_
  dsimp only
  split
  · exact hy
  · exact hy

theorem ctxOf_settleSlots (s : State) (c : Nat) : ctxOf (settleSlots s) c = ctxOf s c := by
  unfold ctxOf
  rw [settleSlots_ctxs]

theorem settleSlots_mode (s : State) : (settleSlots s).pw.mode = s.pw.mode := by
  rw [(worked_settleSlots s).only.steward.1]

/-! ## AU_OPEN (R398, R401) -/

/-- What an open makes of its context. -/
def openedCtx (alg : BitVec 2) (slot : BitVec 4) (key : List Byte) : Ctx :=
  { owner := some .host, alg := alg, slot := slot, key := key, hash := shaInit,
    st := if alg = 1 then .run else .ready, todo := if alg = 1 then [hmacPad 0x36 key] else [] }

theorem openState_opened (alg : BitVec 2) (slot : BitVec 4) (key : List Byte) :
    openState { owner := some .host, alg := BitVec.ofNat 2 alg.toNat, slot := BitVec.ofNat 4 slot.toNat, key := key, hash := shaInit,
                todo := if alg.toNat = 1 then [hmacPad 0x36 key] else [] } = openedCtx alg slot key := by
  have hone : alg.toNat = 1 ↔ alg = 1 := by
    rw [← BitVec.toNat_inj]
    rfl
  unfold openedCtx
  rw [BitVec.ofNat_toNat, BitVec.ofNat_toNat, BitVec.setWidth_eq, BitVec.setWidth_eq]
  by_cases h1 : alg = 1
  · rw [if_pos h1, if_pos h1, if_pos (hone.2 h1)]
    rfl
  · rw [if_neg h1, if_neg h1, if_neg fun hx => h1 (hone.1 hx)]
    rfl

theorem auOpen_refused {alg slot : Nat} (h : openKey s alg slot = .error code) : auOpen s alg slot = hstatCode s code := by
  unfold auOpen
  rw [h]

theorem auOpen_full {alg slot : Nat} {key : List Byte} (h : openKey s alg slot = .ok key) (hf : freeCtx s = none ∨ 3 ≤ heldBy s .host) :
    auOpen s alg slot = hstatCode s 3 := by
  unfold auOpen
  rw [h]
  dsimp only
  split
  · rfl
  · next c hc =>
    obtain hn | hl := hf
    · rw [hn] at hc
      cases hc
    · exact if_pos hl

theorem auOpen_opens {alg : BitVec 2} {slot : BitVec 4} {key : List Byte} (h : openKey s alg.toNat slot.toNat = .ok key)
    (hf : freeCtx s = some c) (hl : heldBy s .host < 3) : auOpen s alg.toNat slot.toNat =
      engineNeed (setCtx { s with au := { s.au with hstat := BitVec.ofNat 8 c } } c (openedCtx alg slot key)) := by
  rw [← openState_opened]
  unfold auOpen
  rw [h]
  dsimp only
  rw [hf]
  exact if_neg (show ¬ 3 ≤ heldBy s .host by omega)

theorem openKey_digest (slot : Nat) : openKey s 0 slot = .ok [] := rfl

theorem openKey_barred {alg : Nat} (slot : Nat) (h : alg = 3 ∨ (alg = 2 ∧ feat s 7 = false)) : openKey s alg slot = .error 4 := by
  unfold openKey
  rw [if_neg (by omega), if_pos]
  obtain h | ⟨h, hf⟩ := h
  · rw [h]
    rfl
  · rw [h, hf]
    rfl

/-- What an open takes of a slot's key. -/
def keyTaken (alg : Nat) : Option Key → Except Nat (List Byte)
  | none => .error 4
  | some k => if k.kind.toNat = alg && k.use.getLsbD (alg - 1) then .ok k.bytes else .error 4

theorem openKey_keyed {alg : Nat} (slot : Nat) (h : alg = 1 ∨ (alg = 2 ∧ feat s 7 = true)) : openKey s alg slot =
    if slotState (slotOf s slot) = 2 then .error 5 else keyTaken alg (slotOf s slot).key := by
  have hopen : ¬ (decide (alg = 3) || (decide (alg = 2) && !feat s 7)) = true := by
    obtain h | ⟨h, hf⟩ := h
    · rw [h]
      simp
    · rw [h, hf]
      simp
  have hne : ¬ alg = 0 := by omega
  unfold openKey
  rw [if_neg hne, if_neg hopen]
  rfl

section
variable {alg slot : Nat} (h : alg = 1 ∨ (alg = 2 ∧ feat s 7 = true))
include h

theorem openKey_pending (hn : (slotOf s slot).next.isSome = true) : openKey s alg slot = .error 5 := by
  rw [openKey_keyed slot h, if_pos (show slotState (slotOf s slot) = 2 from if_pos hn)]

theorem openKey_empty (hn : (slotOf s slot).next = none) (hk : (slotOf s slot).key = none) : openKey s alg slot = .error 4 := by
  have hstate : ¬ slotState (slotOf s slot) = 2 := by
    unfold slotState
    rw [hn, hk]
    decide
  rw [openKey_keyed slot h, hk, if_neg hstate]
  rfl

theorem openKey_loaded {q : Key} (hn : (slotOf s slot).next = none) (hk : (slotOf s slot).key = some q) :
    openKey s alg slot = if q.kind.toNat = alg && q.use.getLsbD (alg - 1) then .ok q.bytes else .error 4 := by
  have hstate : ¬ slotState (slotOf s slot) = 2 := by
    unfold slotState
    rw [hn, hk]
    exact of_decide_eq_true rfl
  rw [openKey_keyed slot h, hk, if_neg hstate]
  rfl

end

/-! ## The cycles -/

theorem openData_fields : ∀ (alg : BitVec 2) (k : BitVec 4),
    fld (writeOnes .plain 15 (alg.setWidth 32 ||| (k.setWidth 32 <<< 8))) 0 2 = alg.toNat ∧
    fld (writeOnes .plain 15 (alg.setWidth 32 ||| (k.setWidth 32 <<< 8))) 8 4 = k.toNat := by
  decide

theorem feedData_fields : ∀ (c : BitVec 2) (n : BitVec 7) (last : Bool),
    let w := writeOnes .plain 15 (c.setWidth 32 ||| (n.setWidth 32 <<< 8) ||| (if last = true then 0x10000 else 0))
    fld w 0 2 = c.toNat ∧ fld w 8 7 = n.toNat ∧ bit w 16 = last ∧ bit w 17 = false := by
  decide

theorem closeData_field : ∀ c : BitVec 2, fld (writeOnes .plain 15 (c.setWidth 32)) 0 2 = c.toNat := by decide

theorem eraseData_fields : ∀ k : BitVec 4, bit (writeOnes .plain 15 (k.setWidth 32 ||| 0x100)) 8 = true ∧
    (k.setWidth 32 ||| 0x100 : Word) &&& 0xF = k.setWidth 32 := by decide

theorem exec_auOpen (hs : served s true 0x700 15) (alg : BitVec 2) (k : BitVec 4) (h : auOpen s alg.toNat k.toNat = e)
    (hm : e.pw.mode = s.pw.mode) : exec (.auOpen 15 (alg.setWidth 32 ||| (k.setWidth 32 <<< 8))) s = .next (settle s e) := by
  obtain ⟨halg, hslot⟩ := openData_fields alg k
  have hz : ∀ m : Word, (0 : Word) &&& m = 0 := fun m => BitVec.zero_and
  refine put_effect hs (by decide) ?_ hm
  change servedWrite s .plain 0x700 15 _ 0 = e
  rw [servedWrite_act s 0 (by decide) (hz _) (hz _), ← h, ← halg, ← hslot]
  rfl

theorem exec_auFeed (hs : served s true 0x708 15) (c : BitVec 2) (n : BitVec 7) (last : Bool) (h : auFeed s c.toNat n.toNat last false = e)
    (hm : e.pw.mode = s.pw.mode) :
    exec (.auFeed 15 (c.setWidth 32 ||| (n.setWidth 32 <<< 8) ||| (if last = true then 0x10000 else 0))) s = .next (settle s e) := by
  obtain ⟨hc, hn, hl, hsig⟩ := feedData_fields c n last
  have hz : ∀ m : Word, (0 : Word) &&& m = 0 := fun m => BitVec.zero_and
  refine put_effect hs (by decide) ?_ hm
  change servedWrite s .plain 0x708 15 _ 0 = e
  rw [servedWrite_act s 0 (by decide) (hz _) (hz _)]
  refine Eq.trans ?_ h
  change auFeed s (fld _ 0 2) (fld _ 8 7) (bit _ 16) (bit _ 17) = _
  rw [hc, hn, hl, hsig]

theorem exec_auClose (hs : served s true 0x70C 15) (c : BitVec 2) (h : auClose s c.toNat = e) (hm : e.pw.mode = s.pw.mode) :
    exec (.auClose 15 (c.setWidth 32)) s = .next (settle s e) := by
  have hz : ∀ m : Word, (0 : Word) &&& m = 0 := fun m => BitVec.zero_and
  refine put_effect hs (by decide) ?_ hm
  change servedWrite s .plain 0x70C 15 _ 0 = e
  rw [servedWrite_act s 0 (by decide) (hz _) (hz _), ← h, ← closeData_field c]
  rfl

/-- A refused open shows its code and changes nothing else. -/
theorem exec_auOpen_refused (hq : Quiet s) (hs : served s true 0x700 15) (alg : BitVec 2) (k : BitVec 4)
    (h : auOpen s alg.toNat k.toNat = hstatCode s code) : ∃ t, exec (.auOpen 15 (alg.setWidth 32 ||| (k.setWidth 32 <<< 8))) s = .next t ∧
      UpToMarks { s with au := { s.au with hstat := (s.au.hstat &&& 3) ||| BitVec.ofNat 8 (16 * code) } } t := by
  rw [Nat.mul_comm]
  exact exists_next_upToMarks hq (exec_auOpen hs alg k h rfl) ⟨⟨rfl, rfl, rfl, rfl, rfl, rfl⟩, rfl⟩

/-- An open with a key at hand. -/
theorem exec_auOpen_keyed (hq : Quiet s) (hs : served s true 0x700 15) (alg : BitVec 2) (k : BitVec 4) {key : List Byte}
    (h : openKey s alg.toNat k.toNat = .ok key) :
    (freeCtx s = none ∨ 3 ≤ heldBy s .host → ∃ t, exec (.auOpen 15 (alg.setWidth 32 ||| (k.setWidth 32 <<< 8))) s = .next t ∧
      UpToMarks { s with au := { s.au with hstat := (s.au.hstat &&& 3) ||| BitVec.ofNat 8 (16 * 3) } } t) ∧
    (∀ c, freeCtx s = some c → heldBy s .host < 3 → ∃ t, exec (.auOpen 15 (alg.setWidth 32 ||| (k.setWidth 32 <<< 8))) s = .next t ∧
      ctxOf t c = openedCtx alg k key ∧
      t.au.hstat = BitVec.ofNat 8 c ∧ ∀ d, d ≠ c → ctxOf t d = ctxOf s d) := by
  refine ⟨fun hf => exec_auOpen_refused hq hs alg k (auOpen_full h hf), fun c hf hl => ?_⟩
  obtain ⟨hself, hother⟩ := ctxOf_opened s { s with au := { s.au with hstat := BitVec.ofNat 8 c } } c _
  refine ⟨_, exec_auOpen hs alg k (auOpen_opens h hf hl) (engineNeed_mode _), hself, ?_, hother⟩
  rw [settle_au, (engineNeed_leaves _).1]
  rfl

/-! ## AU_FEED (R398, R399) -/

/-- What a context takes of a feed. -/
def fed (s : State) (y : Ctx) (n : Nat) (last : Bool) : Ctx :=
  openState { y with todo := if last = true then shaBlocks (auBuf s n ++ shaPad (y.bytes + n + (if y.alg = 1 then 64 else 0))) else [auBuf s 64],
                     bytes := y.bytes + n, last := last }

def FeedFits (y : Ctx) (n : Nat) (last : Bool) : Prop :=
  y.owner = some .host ∧ y.st = .ready ∧ y.todo = [] ∧ y.steps = 0 ∧ y.last = false ∧ 1 ≤ n ∧ n ≤ 64 ∧ (n = 64 ∨ last = true)

theorem feedFits_iff {y : Ctx} {n : BitVec 7} {last : Bool} : FeedFits y n.toNat last ↔ y.owner = some .host ∧ y.st = .ready ∧ y.todo = [] ∧
    y.steps = 0 ∧ y.last = false ∧ 1 ≤ n.toNat ∧ n.toNat ≤ 64 ∧ (n = 64 ∨ last = true) := by
  have hn : n.toNat = 64 ↔ n = 64 := by
    rw [← BitVec.toNat_inj]
    rfl
  unfold FeedFits
  rw [hn]

theorem ctxReady_iff {y : Ctx} (h : y.owner = some .host) : ctxReady y = true ↔ ¬ (y.todo = [] ∧ y.steps = 0) := by
  unfold ctxReady
  rw [h]
  cases y.todo <;> simp [Nat.pos_iff_ne_zero]

theorem auFeed_fits {last : Bool} (h : FeedFits (ctxOf s c) n last) : auFeed s c n last false =
    engineNeed (setCtx { s with au := { s.au with feedCtx := BitVec.ofNat 2 c } } c (fed s (ctxOf s c) n last)) := by
  obtain ⟨hown, hst, htodo, hsteps, hlast, h1, h64, hend⟩ := h
  have hready : ctxReady (ctxOf s c) = false := by
    rw [Bool.eq_false_iff]
    exact fun hx => (ctxReady_iff hown).1 hx ⟨htodo, hsteps⟩
  have hgo : (decide (n = 0) || decide (64 < n) || decide ((ctxOf s c).owner ≠ some .host) || ctxReady (ctxOf s c) ||
      decide ((ctxOf s c).st ≠ .ready)) = false := by
    rw [decide_eq_false (by omega), decide_eq_false (by omega), hown, hready, hst]
    rfl
  have hpart : ((ctxOf s c).last || (decide (n < 64) && !last)) = false := by
    rw [hlast]
    obtain h | h := hend
    · rw [decide_eq_false (by omega)]
      rfl
    · rw [h]
      exact Bool.and_false _
  refine (if_neg (Bool.eq_false_iff.1 hgo)).trans ?_
  exact if_neg (Bool.eq_false_iff.1 hpart)

theorem auFeed_ignored {last : Bool} (h : ¬ FeedFits (ctxOf s c) n last) :
    auFeed s c n last false = sqSet { s with au := { s.au with feedCtx := BitVec.ofNat 2 c } } 0x72C 1 := by
  by_cases hgo : (decide (n = 0) || decide (64 < n) || decide ((ctxOf s c).owner ≠ some .host) || ctxReady (ctxOf s c) ||
      decide ((ctxOf s c).st ≠ .ready)) = true
  · exact if_pos hgo
  · refine (if_neg hgo).trans (if_pos ?_ : (if ((ctxOf s c).last || (decide (n < 64) && !last)) = true then _ else _) = _)
    simp only [Bool.or_eq_true, decide_eq_true_eq, not_or, not_not] at hgo
    obtain ⟨⟨⟨⟨h0, h64⟩, hown⟩, hready⟩, hst⟩ := hgo
    rw [ctxReady_iff hown, not_not] at hready
    obtain ⟨htodo, hsteps⟩ := hready
    by_contra hpart
    rw [Bool.or_eq_true, not_or, Bool.not_eq_true, Bool.and_eq_true, decide_eq_true_eq, Bool.not_eq_true'] at hpart
    obtain ⟨hlast, hend⟩ := hpart
    refine h ⟨hown, hst, htodo, hsteps, hlast, by omega, by omega, ?_⟩
    by_cases hn : n = 64
    · exact .inl hn
    · exact .inr (Bool.eq_true_of_not_eq_false fun hl => hend ⟨by omega, hl⟩)

theorem exec_auFeed_fits (hs : served s true 0x708 15) (c : BitVec 2) (n : BitVec 7) (last : Bool)
    (h : FeedFits (ctxOf s c.toNat) n.toNat last) :
    ∃ t, exec (.auFeed 15 (c.setWidth 32 ||| (n.setWidth 32 <<< 8) ||| (if last = true then 0x10000 else 0))) s = .next t ∧
      ctxOf t c.toNat = fed s (ctxOf s c.toNat) n.toNat last ∧ ∀ d, d ≠ c.toNat → ctxOf t d = ctxOf s d := by
  obtain ⟨hself, hother⟩ := ctxOf_opened s { s with au := { s.au with feedCtx := BitVec.ofNat 2 c.toNat } } c.toNat (fed s (ctxOf s c.toNat) n.toNat last)
  exact ⟨_, exec_auFeed hs c n last (auFeed_fits h) (engineNeed_mode _), hself, hother⟩

theorem exec_auFeed_ignored (hq : Quiet s) (hs : served s true 0x708 15) (c : BitVec 2) (n : BitVec 7) (last : Bool)
    (h : ¬ FeedFits (ctxOf s c.toNat) n.toNat last) :
    ∃ t, exec (.auFeed 15 (c.setWidth 32 ||| (n.setWidth 32 <<< 8) ||| (if last = true then 0x10000 else 0))) s = .next t ∧
      UpToMarks (sqSet { s with au := { s.au with feedCtx := c } } 0x72C 1) t := by
  have hign := auFeed_ignored h
  rw [BitVec.ofNat_toNat, BitVec.setWidth_eq] at hign
  exact exists_next_upToMarks hq (exec_auFeed hs c n last hign rfl) ⟨⟨rfl, rfl, rfl, rfl, rfl, rfl⟩, rfl⟩

/-! ## AU_CLOSE (R398) -/

theorem exec_auClose_own (hs : served s true 0x70C 15) (c : BitVec 2) (h : (ctxOf s c.toNat).owner = some .host) :
    ∃ t, exec (.auClose 15 (c.setWidth 32)) s = .next t ∧ ctxOf t c.toNat = {} ∧ ∀ d, d ≠ c.toNat → ctxOf t d = ctxOf s d := by
  have hclose : auClose s c.toNat = engineNeed (settleSlots (setCtx s c.toNat {})) := if_pos h
  refine ⟨_, exec_auClose hs c hclose ((engineNeed_mode _).trans (settleSlots_mode _)), ?_, fun d hd => ?_⟩
  · rw [ctxOf_settle, ctxOf_engineNeed, ctxOf_settleSlots, ctxOf_setCtx_self]
  · rw [ctxOf_settle, ctxOf_engineNeed, ctxOf_settleSlots, ctxOf_setCtx, if_neg hd]

theorem exec_auClose_other (hq : Quiet s) (hs : served s true 0x70C 15) (c : BitVec 2) (h : (ctxOf s c.toNat).owner ≠ some .host) :
    ∃ t, exec (.auClose 15 (c.setWidth 32)) s = .next t ∧ UpToMarks s t :=
  exists_next_upToMarks hq (exec_auClose hs c (if_neg h) rfl) (unflagged_refl s)

end Sys2Proof.Machine
end

section
/-!
PROOFS. Chapter 18: an erased slot, the engine's turns, and the timeout of a context (R394, R396, R399, R402).
-/
namespace Sys2Proof.Machine
open Sys2Proof.Safety Sys2Proof.Claims

variable {s b e u x : State} {c d k n code : Nat} {w : Bool} {y : Ctx}

/-! ## An erased slot (R402) -/

/-- A context whose key has been erased. -/
def keyErased (y : Ctx) : Ctx := { y with st := .error, code := 6, key := [], todo := [], steps := 0 }

theorem ctxOf_eraseCtxs (l : List Nat) (s : State) (c : Nat) :
    ctxOf (foldS (fun s c => setCtx s c (keyErased (ctxOf s c))) s l) c = if c ∈ l then keyErased (ctxOf s c) else ctxOf s c := by
  induction l generalizing s with
  | nil => rfl
  | cons a l ih =>
    change ctxOf (foldS _ (setCtx s a (keyErased (ctxOf s a))) l) c = _
    rw [ih, ctxOf_setCtx]
    by_cases hca : c = a
    · subst hca
      rw [if_pos rfl, if_pos (List.mem_cons_self ..)]
      split <;> rfl
    · rw [if_neg hca]
      by_cases hc : c ∈ l
      · rw [if_pos hc, if_pos (List.mem_cons_of_mem _ hc)]
      · rw [if_neg hc, if_neg (by simp [hca, hc])]

theorem slots_eraseCtxs (l : List Nat) (s : State) :
    (foldS (fun s c => setCtx s c (keyErased (ctxOf s c))) s l).au.slots = s.au.slots := by
  refine foldS_inv (fun y => y.au.slots = s.au.slots) _ l s rfl fun y c hy => ?_
  exact hy

/-- The contexts and the slots once a slot is zeroised. -/
theorem eraseSlot_leaves (s : State) (k : Nat) :
    (∀ c < 4, ctxOf (eraseSlot s k) c = if ctxUses (ctxOf s c) k = true then keyErased (ctxOf s c) else ctxOf s c) ∧
    ∀ j, slotOf (eraseSlot s k) j = if j = k then {} else slotOf s j := by
  have heq : ∃ z, eraseSlot s k = z ∧ z.au = (setSlot (foldS (fun s c => setCtx s c (keyErased (ctxOf s c))) s
      ((upTo 4).filter fun c => ctxUses (ctxOf s c) k)) k {}).au := by
    refine ⟨_, rfl, ?_⟩
    unfold eraseSlot
    dsimp only
    split <;> rfl
  obtain ⟨z, hz, hau⟩ := heq
  rw [hz]
  refine ⟨fun c hc => ?_, fun j => ?_⟩
  · have hmem : c ∈ ((upTo 4).filter fun c => ctxUses (ctxOf s c) k) ↔ ctxUses (ctxOf s c) k = true := by
      unfold upTo
      rw [List.mem_filter, List.mem_range]
      exact ⟨fun h => h.2, fun h => ⟨hc, h⟩⟩
    unfold ctxOf at hmem ⊢
    rw [hau]
    refine (ctxOf_eraseCtxs _ s c).trans ?_
    exact if_congr hmem rfl rfl
  · unfold slotOf
    rw [hau]
    refine (slotOf_setSlot _ k {} j).trans ?_
    unfold slotOf
    rw [slots_eraseCtxs]

theorem eraseSlot_house (h : ∃ c, c < 4 ∧ ctxUses (ctxOf s c) k = true ∧ (ctxOf s c).owner = some .host) :
    (eraseSlot s k).hsAcc.getLsbD 9 = true := by
  obtain ⟨c, hc, huse, hown⟩ := h
  have hhost : (((upTo 4).filter fun c => ctxUses (ctxOf s c) k).any fun c => (ctxOf s c).owner = some .host) = true := by
    rw [List.any_eq_true]
    exact ⟨c, List.mem_filter.2 ⟨List.mem_range.2 hc, huse⟩, decide_eq_true hown⟩
  unfold eraseSlot
  dsimp only
  rw [hhost, if_pos rfl, house_hsAcc, BitVec.getLsbD_or]
  exact Bool.or_true _

/-- What the Steward takes up once a slot is erased. -/
def copyDue (s : State) (k : Nat) : State :=
  if s.stew.fw = .olumon && !s.pw.stwDown then pushJob s [.keyCopy (BitVec.ofNat 4 k) none 3] else s

theorem auKeyErase_eq (s : State) (k : Nat) : auKeyErase s k =
    engineNeed (copyDue { eraseSlot s k with au := { (eraseSlot s k).au with stale := true } } k) := rfl

theorem worked_copyDue (s : State) (k : Nat) : Worked w s (copyDue s k) := worked_ite (worked_nv rfl rfl rfl rfl) (worked_refl s)

theorem copyDue_au (s : State) (k : Nat) : (copyDue s k).au = s.au := by
  unfold copyDue
  split <;> rfl

theorem worked_auKeyErase (s : State) (k : Nat) : Worked true (eraseSlot s k) (auKeyErase s k) := by
  rw [auKeyErase_eq]
  exact ((worked_au _).trans (worked_copyDue _ k)).trans (worked_engineNeed _)

theorem auKeyErase_au (s : State) (k : Nat) : (auKeyErase s k).au = { (eraseSlot s k).au with stale := true } := by
  rw [auKeyErase_eq, (engineNeed_leaves _).1, copyDue_au]

/-- The slot's number goes to its register before the erase. -/
def slotChosen (s : State) (k : BitVec 4) : State := setIm s 0x720 ((imAt s 0x720 &&& ~~~0xF) ||| k.setWidth 32)

theorem slotChosen_field : ∀ (old : Word) (k : BitVec 4), fld ((old &&& ~~~0xF) ||| k.setWidth 32) 0 4 = k.toNat := by
  intro old k
  have hlow : ((old &&& ~~~0xF) ||| k.setWidth 32).setWidth 4 = k := by
    ext i hi
    have h : i = 0 ∨ i = 1 ∨ i = 2 ∨ i = 3 := by omega
    obtain rfl | rfl | rfl | rfl := h <;> simp
  have hnat := congrArg BitVec.toNat hlow
  rw [BitVec.toNat_setWidth] at hnat
  unfold fld
  rw [Nat.shiftRight_zero]
  exact hnat

theorem servedWrite_keyErase (s : State) (k : BitVec 4) :
    servedWrite s .plain 0x720 15 (k.setWidth 32 ||| 0x100) 0 = auKeyErase (slotChosen s k) k.toNat := by
  obtain ⟨hgo, hlow⟩ := eraseData_fields k
  have hz : ∀ m : Word, (0 : Word) &&& m = 0 := fun m => BitVec.zero_and
  have hmask : regIm 0x720 &&& writeMask .plain 15 (k.setWidth 32 ||| 0x100) = 0xF := by
    change (0xF : Word) &&& beMask 15 = 0xF
    decide
  rw [servedWrite_eq s .plain 15 _ 0 (by decide), writeHl_none s (hz _)]
  have hw : writeIm s .plain 0x720 15 (k.setWidth 32 ||| 0x100) = slotChosen s k := by
    unfold writeIm
    rw [hmask]
    change (if (0xF : Word) = 0 then s else setIm s 0x720 (mergeMask 0xF (imAt s 0x720) (k.setWidth 32 ||| 0x100))) = _
    rw [if_neg (by decide)]
    unfold mergeMask
    rw [hlow]
    rfl
  rw [hw]
  change (if bit (writeOnes .plain 15 (k.setWidth 32 ||| 0x100)) 8 = true then
    auKeyErase (slotChosen s k) (fld (imAt (slotChosen s k) 0x720) 0 4) else slotChosen s k) = _
  rw [if_pos hgo]
  unfold slotChosen
  rw [imAt_setIm_self, slotChosen_field]

theorem exec_auKeyErase (hq : Quiet s) (hs : served s true 0x720 15) (k : BitVec 4) :
    ∃ t, exec (.auKeyErase 15 (k.setWidth 32 ||| 0x100)) s = .next t ∧
      slotOf t k.toNat = {} ∧ t.au.stale = true ∧ (∀ j, j ≠ k.toNat → slotOf t j = slotOf s j) ∧
      (∀ c, c < 4 → ctxOf t c = if ctxUses (ctxOf s c) k.toNat = true then keyErased (ctxOf s c) else ctxOf s c) ∧
      ((∃ c, c < 4 ∧ ctxUses (ctxOf s c) k.toNat = true ∧ (ctxOf s c).owner = some .host) →
        (sqOf t 0x300).flags.getLsbD 9 = true) := by
  have hwork := worked_auKeyErase (slotChosen s k) k.toNat
  have hau := auKeyErase_au (slotChosen s k) k.toNat
  have hslot : Worked false (slotChosen s k) (eraseSlot (slotChosen s k) k.toNat) := worked_eraseSlot _ _
  obtain ⟨hctxs, hslots⟩ := eraseSlot_leaves (slotChosen s k) k.toNat
  have hctx : ∀ b c, ctxOf (settle b (auKeyErase (slotChosen s k) k.toNat)) c = ctxOf (eraseSlot (slotChosen s k) k.toNat) c := fun b c => by
    rw [ctxOf_settle]
    unfold ctxOf
    rw [hau]
  have hsl : ∀ b j, slotOf (settle b (auKeyErase (slotChosen s k) k.toNat)) j = slotOf (eraseSlot (slotChosen s k) k.toNat) j := fun b j => by
    rw [slotOf_settle]
    unfold slotOf
    rw [hau]
  refine ⟨_, put_effect hs (by decide) (servedWrite_keyErase s k) ?_, ?_, ?_, fun j hj => ?_, fun c hc => ?_, fun hhost => ?_⟩
  · rw [hwork.only.steward.1, hslot.only.steward.1]
    rfl
  · rw [hsl, hslots, if_pos rfl]
  · rw [settle_au, hau]
  · rw [hsl, hslots, if_neg hj]
    rfl
  · rw [hctx, hctxs c hc]
    rfl
  · have hraised : (eraseSlot (slotChosen s k) k.toNat).hsAcc.getLsbD 9 = true := eraseSlot_house hhost
    refine houseFlag_of_gathered ?_ (by decide) (nvDone_raised (hwork.flags.raised 9 hraised) s)
    rw [hwork.flags.first, hslot.flags.first]
    change s.sqAcc.contains 0x300 = false
    rw [hq.2]
    rfl

/-! ## One block or one step (R394, R396) -/

theorem ctxTurn_block {bl : List Byte} {r : List (List Byte)} (h : y.todo = bl :: r) (hr : r ≠ [] ∨ y.last = false) :
    ctxTurn y = openState { y with hash := shaBlock y.hash bl, todo := r } := by
  unfold ctxTurn
  rw [h]
  refine if_neg ?_
  rw [Bool.and_eq_true, List.isEmpty_iff]
  rintro ⟨hnil, hlast⟩
  obtain hne | hl := hr
  · exact hne hnil
  · exact Bool.false_ne_true (hl.symm.trans hlast)

theorem ctxTurn_last {bl : List Byte} (h : y.todo = [bl]) (hl : y.last = true) :
    ctxTurn y = ctxEnds { y with hash := shaBlock y.hash bl, todo := [] } := by
  unfold ctxTurn
  rw [h]
  exact if_pos (by rw [hl]; rfl)

theorem ctxEnds_done (h : y.alg = 0 ∨ (y.alg = 1 ∧ y.outer = true)) :
    ctxEnds y = { y with st := .done, code := 0, res := shaBytes y.hash } := by
  refine if_pos ?_
  obtain h | ⟨h, ho⟩ := h
  · rw [h]
    rfl
  · rw [h, ho]
    rfl

theorem ctxEnds_inner (h : y.alg = 1) (ho : y.outer = false) :
    ctxEnds y = openState { y with hash := shaInit, outer := true, todo := [hmacPad 0x5C y.key, shaBytes y.hash ++ shaPad 96] } := by
  unfold ctxEnds
  rw [h, ho]
  rfl

/-- The verdict of the last step of a verification. -/
def verdictCode (y : Ctx) : BitVec 4 :=
  if y.owner = some .steward then y.code
  else if (match y.sig with | some g => ecdsa y.key y.digest g | none => false) = true then 1 else 2

theorem ctxTurn_verdict (h : y.todo = []) (h1 : y.steps = 1) : ctxTurn y = { y with steps := 0, st := .done, code := verdictCode y } := by
  unfold ctxTurn
  rw [h]
  dsimp only
  rw [if_pos h1]
  rfl

theorem ctxTurn_step (h : y.todo = []) (h1 : 1 < y.steps) : ctxTurn y = { y with steps := y.steps - 1 } := by
  unfold ctxTurn
  rw [h]
  exact if_neg (by omega)

/-! ## The engine's turn (R396, R397) -/

/-- The context that has been served, and its flag. -/
def engineServed (s : State) (c : Nat) : State :=
  let x := ctxTurn (ctxOf s c)
  let z := setCtx { startGrant s cAUTH with au := { s.au with last := BitVec.ofNat 2 c } } c x
  if x.st = .done && x.owner = some .host then house z hAUTH else z

theorem turned_leaves (s : State) (c : Nat) : (engineServed s c).au = (setCtx { s with au := { s.au with last := BitVec.ofNat 2 c } } c (ctxTurn (ctxOf s c))).au ∧
    (engineServed s c).nv = s.nv ∧ (engineServed s c).sqAcc = s.sqAcc := by
  unfold engineServed
  dsimp only
  split <;> exact ⟨rfl, rfl, rfl⟩

theorem turned_flag (hd : (ctxTurn (ctxOf s c)).st = .done) (ho : (ctxTurn (ctxOf s c)).owner = some .host) :
    (engineServed s c).hsAcc.getLsbD 9 = true := by
  unfold engineServed
  dsimp only
  rw [hd, ho, if_pos (by decide), house_hsAcc, BitVec.getLsbD_or]
  exact Bool.or_true _

section
variable (hm : s.pw.mode = .operating ∨ s.pw.mode = .safe)
include hm

theorem engineTurn_none (h : ∀ g ∈ s.allot.grants, g.client ≠ cAUTH) : engineTurn s = s := by
  have hf : (s.allot.grants.find? fun g => g.client = cAUTH) = none := List.find?_eq_none.2 fun g hg => by
    rw [decide_eq_true_eq]
    exact h g hg
  unfold engineTurn
  rw [arbGrants_of_modes hm, hf]
  rfl

theorem engineTurn_serves {g : Grant} (hg : (s.allot.grants.find? fun g => g.client = cAUTH) = some g) (hr : g.revoking = false)
    (hc : nextCtx s = some c) (hj : s.nv.jobs = []) : engineTurn s = engineNeed (engineServed s c) := by
  have hidle : pump (engineNeed (engineServed s c)) = engineNeed (engineServed s c) :=
    pump_of_idle ((engineNeed_leaves _).2 (by rw [(turned_leaves s c).2.1, hj]))
  have hgo : engineTurn s = pump (engineNeed (engineServed s c)) := by
    unfold engineTurn
    rw [arbGrants_of_modes hm, hg]
    dsimp only
    rw [hr, hc]
    rfl
  rw [hgo, hidle]

/-- The context served, the others, and the flag of its end. -/
theorem exec_engineTurn (hq : Quiet s) {g : Grant} (hg : (s.allot.grants.find? fun g => g.client = cAUTH) = some g)
    (hr : g.revoking = false) (hc : nextCtx s = some c) (hj : s.nv.jobs = []) :
    ∃ t, exec .engineTurn s = .next t ∧ t.au.last = BitVec.ofNat 2 c ∧ ctxOf t c = ctxTurn (ctxOf s c) ∧ (∀ d, d ≠ c → ctxOf t d = ctxOf s d) ∧
      ((ctxTurn (ctxOf s c)).st = .done → (ctxTurn (ctxOf s c)).owner = some .host → (sqOf t 0x300).flags.getLsbD 9 = true) := by
  obtain ⟨hau, -, hacc⟩ := turned_leaves s c
  have hend : (settle s (engineTurn s)).au = (setCtx { s with au := { s.au with last := BitVec.ofNat 2 c } } c (ctxTurn (ctxOf s c))).au := by
    rw [settle_au, engineTurn_serves hm hg hr hc hj, (engineNeed_leaves _).1, hau]
  have hctx : ∀ d, ctxOf (settle s (engineTurn s)) d = if d = c then ctxTurn (ctxOf s c) else ctxOf s d := fun d => by
    refine Eq.trans ?_ (ctxOf_setCtx (s := { s with au := { s.au with last := BitVec.ofNat 2 c } }) c (ctxTurn (ctxOf s c)) d)
    unfold ctxOf
    rw [hend]
    rfl
  refine ⟨_, rfl, ?_, ?_, fun d hd => ?_, fun hd ho => ?_⟩
  · rw [hend]
    rfl
  · rw [hctx, if_pos rfl]
  · rw [hctx, if_neg hd]
  · have hw : Worked true (engineServed s c) (engineTurn s) := by
      rw [engineTurn_serves hm hg hr hc hj]
      exact worked_engineNeed _
    refine houseFlag_of_gathered ?_ (by decide) (nvDone_raised (hw.flags.raised 9 (turned_flag hd ho)) s)
    rw [hw.flags.first, hacc, hq.2]
    rfl

/-! ## The timeout of a context (R399) -/

theorem exec_timeout (hq : Quiet s) {c : BitVec 2} (ho : (ctxOf s c.toNat).owner = some .host) (he : (ctxOf s c.toNat).st ≠ .error) :
    ∃ t, exec (.auContextTimeout c) s = .next t ∧ ctxOf t c.toNat = { st := .error, code := 7 } ∧
      (sqOf t 0x300).flags.getLsbD 9 = true ∧ ∀ d, d ≠ c.toNat → ctxOf t d = ctxOf s d := by
  have hgo : auContextTimeout s c.toNat = house (engineNeed (settleSlots (setCtx s c.toNat { st := .error, code := 7 }))) hAUTH := by
    unfold auContextTimeout
    dsimp only
    rw [if_pos]
    rw [decide_eq_true ho, decide_eq_true he, arbGrants_of_modes hm]
    rfl
  have hctx : ∀ d, ctxOf (settle s (auContextTimeout s c.toNat)) d = if d = c.toNat then { st := .error, code := 7 } else ctxOf s d := fun d => by
    rw [ctxOf_settle, hgo, ctxOf_house, ctxOf_engineNeed, ctxOf_settleSlots, ctxOf_setCtx]
  have hw : Worked true s (auContextTimeout s c.toNat) := by
    rw [hgo]
    have hslots : Worked false s (settleSlots (setCtx s c.toNat { st := .error, code := 7 })) := (worked_au _).trans (worked_settleSlots _)
    exact (hslots.trans (worked_engineNeed _)).trans (worked_house (by decide))
  refine ⟨_, rfl, ?_, ?_, fun d hd => ?_⟩
  · rw [hctx, if_pos rfl]
  · refine houseFlag_of_gathered ?_ (by decide) (nvDone_raised ?_ s)
    · rw [hw.flags.first, hq.2]
      rfl
    · rw [hgo, house_hsAcc, BitVec.getLsbD_or]
      exact Bool.or_true _
  · rw [hctx, if_neg hd]

end

theorem exec_timeout_ignored (hq : Quiet s) {c : BitVec 2} (ho : (ctxOf s c.toNat).owner ≠ some .host) :
    ∃ t, exec (.auContextTimeout c) s = .next t ∧ UpToMarks s t := by
  have hsame : auContextTimeout s c.toNat = s := by
    unfold auContextTimeout
    dsimp only
    rw [decide_eq_false ho]
    rfl
  exact exists_next_upToMarks hq (congrArg (fun x => Host.Outcome.next (settle s x)) hsame) (unflagged_refl s)

/-! ## The engine, settled -/

theorem Settled.engineEvents : EngineEvents := by
  intro s hq
  refine ⟨fun alg k hs => ⟨?_, ?_, fun halg => ⟨?_, ?_, ?_⟩⟩, fun c n last hs => ⟨?_, ?_⟩, fun c hs => ⟨?_, ?_⟩, fun k hs => ?_,
    fun hm => ⟨fun hnone => ?_, fun g c hg hr hc hj => ?_, fun c => ⟨?_, ?_⟩⟩⟩
  · rintro rfl
    exact exec_auOpen_keyed hq hs 0 k (openKey_digest _)
  · intro h
    refine exec_auOpen_refused hq hs alg k (auOpen_refused (openKey_barred _ ?_))
    exact h.imp (congrArg BitVec.toNat) (And.imp_left (congrArg BitVec.toNat))
  · have halg' := halg.imp (congrArg BitVec.toNat) (And.imp_left (congrArg BitVec.toNat))
    exact fun hn => exec_auOpen_refused hq hs alg k (auOpen_refused (openKey_pending halg' hn))
  · have halg' := halg.imp (congrArg BitVec.toNat) (And.imp_left (congrArg BitVec.toNat))
    exact fun hn hk => exec_auOpen_refused hq hs alg k (auOpen_refused (openKey_empty halg' hn hk))
  · have halg' := halg.imp (congrArg BitVec.toNat) (And.imp_left (congrArg BitVec.toNat))
    intro q hn hk
    have hkey := openKey_loaded halg' hn hk
    refine ⟨fun hbad => exec_auOpen_refused hq hs alg k (auOpen_refused (hkey.trans (if_neg ?_))), fun hkind huse =>
      exec_auOpen_keyed hq hs alg k (hkey.trans (if_pos ?_))⟩
    · rw [Bool.and_eq_true, decide_eq_true_eq]
      rintro ⟨hkind, huse⟩
      obtain hne | hno := hbad
      · exact hne (BitVec.toNat_inj.1 hkind)
      · exact Bool.false_ne_true (hno.symm.trans huse)
    · rw [hkind, decide_eq_true rfl, huse]
      rfl
  · intro hfits
    obtain ⟨t, hexec, hself, hother⟩ := exec_auFeed_fits hs c n last (feedFits_iff.2 hfits)
    exact ⟨t, hexec, by rw [hself]; rfl, by rw [hself]; rfl, by rw [hself]; rfl, by rw [hself]; rfl, hother⟩
  · exact fun hno => exec_auFeed_ignored hq hs c n last fun hfits => hno (feedFits_iff.1 hfits)
  · exact exec_auClose_own hs c
  · exact exec_auClose_other hq hs c
  · obtain ⟨t, hexec, hslot, hstale, hslots, hctxs, hflag⟩ := exec_auKeyErase hq hs k
    refine ⟨t, hexec, hslot, hstale, hslots, fun c hc => ⟨fun huse => ?_, fun huse => ?_⟩, hflag⟩
    · rw [hctxs c hc, if_pos huse]
      exact ⟨rfl, rfl, rfl⟩
    · rw [hctxs c hc, huse]
      rfl
  · exact exists_next_upToMarks hq (congrArg (fun x => Host.Outcome.next (settle s x)) (engineTurn_none hm hnone)) (unflagged_refl s)
  · obtain ⟨t, hexec, hlast, hself, hother, hflag⟩ := exec_engineTurn hm hq hg hr hc hj
    refine ⟨t, hexec, hlast, hother, fun bl r htodo hmore => ?_, fun bl htodo hend halg => ?_, fun bl htodo hend halg ho => ?_,
      fun htodo h1 hown => ?_, fun sg htodo h1 hown hsig => ?_, fun htodo h1 => ?_⟩
    · rw [hself, ctxTurn_block htodo hmore]
      exact ⟨rfl, rfl, rfl⟩
    · have hturn := (ctxTurn_last htodo hend).trans (ctxEnds_done halg)
      rw [hself]
      rw [hturn] at hflag ⊢
      exact ⟨rfl, rfl, rfl, hflag rfl⟩
    · have hturn := (ctxTurn_last htodo hend).trans (ctxEnds_inner halg ho)
      rw [hself, hturn]
      exact ⟨rfl, rfl, rfl⟩
    · rw [hself, ctxTurn_verdict htodo h1]
      exact ⟨rfl, if_pos hown⟩
    · rw [hself, ctxTurn_verdict htodo h1]
      refine ⟨rfl, rfl, ?_⟩
      change verdictCode _ = _
      unfold verdictCode
      rw [hown, hsig]
      rfl
    · rw [hself, ctxTurn_step htodo h1]
  · exact exec_timeout hm hq
  · exact exec_timeout_ignored hq

end Sys2Proof.Machine
end

section
/-!
PROOFS. Chapter 18: sealed bundles in time: the hold and the rollback (R407, R413 to R418).
-/
namespace Sys2Proof.Machine
open Sys2Proof.Safety Sys2Proof.Claims

variable {s b e u x : State} {r q : Rec} {k : Nat}

/-! ## The order of the records gives each a word of its own (R407) -/

/-- The order of a body. -/
def RecBefore (r q : Rec) : Prop := (r.isTab = false ∧ q.isTab = true) ∨ (r.isTab = q.isTab ∧ r.low < q.low)

theorem recBefore_trans {a b c : Rec} (h : RecBefore a b) (k : RecBefore b c) : RecBefore a c := by
  unfold RecBefore at *
  obtain ⟨ha, hb⟩ | ⟨hab, hlt⟩ := h
  · obtain ⟨hb', -⟩ | ⟨hbc, -⟩ := k
    · exact absurd (hb.symm.trans hb') (by decide)
    · exact .inl ⟨ha, hbc.symm.trans hb⟩
  · obtain ⟨hb, hc⟩ | ⟨hbc, hlt'⟩ := k
    · exact .inl ⟨hab.trans hb, hc⟩
    · exact .inr ⟨hab.trans hbc, hlt.trans hlt'⟩

theorem pairwise_recordsOrdered : ∀ {rs : List Rec}, recordsOrdered rs = true → rs.Pairwise RecBefore := by
  intro rs
  induction rs with
  | nil => exact fun _ => .nil
  | cons a rs ih =>
    cases rs with
    | nil => exact fun _ => List.pairwise_singleton _ _
    | cons b rs =>
      intro h
      unfold recordsOrdered at h
      rw [Bool.and_eq_true] at h
      obtain ⟨hab, hrest⟩ := h
      have hfirst : RecBefore a b := by
        simpa [RecBefore] using hab
      have htail := ih hrest
      refine List.Pairwise.cons (fun c hc => ?_) htail
      obtain rfl | hc := List.mem_cons.1 hc
      · exact hfirst
      · exact recBefore_trans hfirst (List.rel_of_pairwise_cons htail hc)

/-- The first word of a record names its word of the configuration, and nothing else. -/
structure RecForm (r : Rec) : Prop where
  reg : r.isTab = false → r.key < 2 ^ 16 ∧ r.low = 1 + 2 ^ 16 * r.key
  tab : r.isTab = true → ∃ t n w, t < 16 ∧ n < 2 ^ 20 ∧ w < 8 ∧ (t = 1 → n < 8192) ∧ r.low = 2 + 2 ^ 4 * t + 2 ^ 8 * w + 2 ^ 12 * n ∧
    r.key = if t = 1 then tabKey t (n % 32) (n / 32) w else tabKey t n 0 w

theorem recForm_recordOf {lo hi : Word} (h : (recordOf lo hi).ok = true) : RecForm (recordOf lo hi) := by
  have hbound := lo.isLt
  have hfld : ∀ i n, fld lo i n = lo.toNat / 2 ^ i % 2 ^ n := fun i n => by
    unfold fld
    rw [Nat.shiftRight_eq_div_pow]
  have hbit : bit lo 11 = false → lo.toNat / 2 ^ 11 % 2 = 0 := fun hb => by
    have hb' : lo.toNat.testBit 11 = false := hb
    rw [Nat.testBit_eq_decide_div_mod_eq, decide_eq_false_iff_not] at hb'
    omega
  unfold recordOf at h ⊢
  by_cases hkind : fld lo 0 4 = 1
  · simp only [hkind, if_true, Bool.and_eq_true, decide_eq_true_eq] at h ⊢
    obtain ⟨⟨⟨⟨hzero, hoff⟩, -⟩, -⟩, -⟩ := h
    rw [hfld] at hkind hzero
    refine ⟨fun _ => ?_, fun hf => absurd hf (by simp)⟩
    unfold regKey
    dsimp only
    rw [hfld]
    omega
  · simp only [hkind, if_false, Bool.and_eq_true, Bool.not_eq_true', decide_eq_true_eq] at h ⊢
    obtain ⟨⟨⟨⟨⟨⟨hk, -⟩, hb⟩, -⟩, htgt⟩, -⟩, -⟩ := h
    have hb := hbit hb
    refine ⟨fun hf => absurd hf (by simp), fun _ => ⟨fld lo 4 4, fld lo 12 20, fld lo 8 3, ?_, ?_, ?_, fun h1 => ?_, ?_, ?_⟩⟩
    · rw [hfld]; omega
    · rw [hfld]; omega
    · rw [hfld]; omega
    · rw [if_pos h1] at htgt
      omega
    · dsimp only
      rw [hfld] at hk
      rw [hfld, hfld, hfld]
      omega
    · by_cases h1 : fld lo 4 4 = 1
      · simp only [h1, if_true]
      · simp only [h1, if_false]

/-- Two records of a body write different words. -/
theorem key_ne_of_before (hr : RecForm r) (hq : RecForm q) (h : RecBefore r q) : r.key ≠ q.key := by
  have htabKey : ∀ t n m w, tabKey t n m w = 2 ^ 16 + (((t * 2 ^ 24 + n) * 256 + m) * 8 + w) := fun _ _ _ _ => rfl
  intro hkey
  obtain ⟨hrt, hqt⟩ | ⟨hsame, hlt⟩ := h
  · obtain ⟨hlow, -⟩ := hr.reg hrt
    obtain ⟨t, n, w, -, -, -, -, -, hk⟩ := hq.tab hqt
    rw [htabKey, htabKey] at hk
    split at hk <;> omega
  · cases hrt : r.isTab with
    | false =>
      obtain ⟨-, hl⟩ := hr.reg hrt
      obtain ⟨-, hl'⟩ := hq.reg (hsame.symm.trans hrt)
      omega
    | true =>
      obtain ⟨t, n, w, ht, hn, hw, h1, hl, hk⟩ := hr.tab hrt
      obtain ⟨t', n', w', ht', hn', hw', h1', hl', hk'⟩ := hq.tab (hsame.symm.trans hrt)
      rw [htabKey, htabKey] at hk hk'
      by_cases h : t = 1
      · have hn := h1 h
        rw [if_pos h] at hk
        by_cases h' : t' = 1
        · have hn' := h1' h'
          rw [if_pos h'] at hk'
          omega
        · rw [if_neg h'] at hk'
          omega
      · rw [if_neg h] at hk
        by_cases h' : t' = 1
        · have hn' := h1' h'
          rw [if_pos h'] at hk'
          omega
        · rw [if_neg h'] at hk'
          omega

theorem keys_nodup {k : BitVec 1} (h : formatOk s k = true) : (bodyRecords s k).Pairwise fun r q => r.key ≠ q.key := by
  unfold formatOk at h
  rw [Bool.and_eq_true, List.all_eq_true] at h
  obtain ⟨hok, hord⟩ := h
  have hform : ∀ r ∈ bodyRecords s k, RecForm r := fun r hr => by
    have hr' := hok r hr
    unfold bodyRecords at hr
    obtain ⟨i, -, rfl⟩ := List.mem_map.1 hr
    exact recForm_recordOf hr'
  exact (pairwise_recordsOrdered hord).imp_of_mem fun hr hq h => key_ne_of_before (hform _ hr) (hform _ hq) h

/-! ## The records as shadow writes (R116, R408) -/

/-- One record in its shadow. -/
def recordWritten (s : State) (r : Rec) : State :=
  setShadow s r.key (mergeMask (r.hl &&& ~~~(featOff s r.key)) (shadowAt s r.key) r.value)

theorem onShadow_written (rs : List Rec) (s : State) : OnShadow s (foldS recordWritten s rs) :=
  foldS_inv (OnShadow s) _ rs s (onShadow_refl s) fun _ _ hy => hy.trans ⟨_, _, rfl⟩

theorem shadowAt_written_other (rs : List Rec) (s : State) (h : ∀ r ∈ rs, r.key ≠ k) :
    shadowAt (foldS recordWritten s rs) k = shadowAt s k := by
  induction rs generalizing s with
  | nil => rfl
  | cons r rs ih =>
    change shadowAt (foldS recordWritten (recordWritten s r) rs) k = _
    rw [ih _ fun q hq => h q (List.mem_cons_of_mem _ hq)]
    unfold recordWritten
    rw [shadowAt_setShadow, if_neg (Ne.symm (h r (List.mem_cons_self ..)))]

theorem mergeMask_and (m o v : Word) : mergeMask m o v &&& m = v &&& m := by
  unfold mergeMask
  ext i hi
  simp
  cases m[i] <;> simp

/-- Each record's bits stand in its shadow. -/
theorem shadowAt_written (rs : List Rec) (s : State) (hp : rs.Pairwise fun r q => r.key ≠ q.key) (hr : r ∈ rs) (hf : featOff s r.key = 0) :
    shadowAt (foldS recordWritten s rs) r.key &&& r.hl = r.value &&& r.hl := by
  induction rs generalizing s with
  | nil => exact absurd hr (List.not_mem_nil)
  | cons q rs ih =>
    rw [List.pairwise_cons] at hp
    obtain ⟨hq, hp⟩ := hp
    change shadowAt (foldS recordWritten (recordWritten s q) rs) r.key &&& r.hl = _
    obtain rfl | hr := List.mem_cons.1 hr
    · rw [shadowAt_written_other _ _ fun p hp => (hq p hp).symm]
      unfold recordWritten
      rw [shadowAt_setShadow_self, hf]
      have hall : r.hl &&& ~~~(0 : Word) = r.hl := BitVec.and_allOnes
      rw [hall, mergeMask_and]
    · exact ih _ hp hr hf

/-! ## The hold begins (R413, R414) -/

/-- The bundle's own state as the hold begins. -/
def holding (s : State) : State := { s with bun := { s.bun with holding := true }, hl := { s.hl with bundleHold := true } }

/-- The records' words as the hold has them read. -/
def recordsRead (s : State) : State := eccTake (shadowsReset (holding s)) noEcc (bslotAddr s.bun.slot + 0x180) (bLen s s.bun.slot)

theorem recordsRead_eq (s : State) : ∃ m c, recordsRead s = { holding s with
    cfg := { s.cfg with shadow := m }, nv := { s.nv with corrected := c } } := ⟨_, _, rfl⟩

theorem bodyRecords_same (h : SameBytes e s) (k : BitVec 1) : bodyRecords e k = bodyRecords s k := by
  unfold bodyRecords bLen bh
  rw [nv32_same h]

section
variable (hm : s.pw.mode = .operating ∨ s.pw.mode = .safe) (hruns : stewardRuns s = true)
include hm hruns

theorem bundleHoldStart_eq (ha : s.bun.apply = true) (hh : s.bun.holding = false) (hf : s.bun.finishing = false)
    (hn : (s.hl.seq - (s.bun.n - 16)).toNat < 2 ^ 31) :
    let z := writeRecords (recordsRead s) (bodyRecords (recordsRead s) (recordsRead s).bun.slot)
    bundleHoldStart s noEcc = { z with bun := { z.bun with written := true } } := by
  have hgo : (s.bun.apply && !s.bun.holding && !s.bun.finishing && reached s.hl.seq (s.bun.n - 16) && hasCommit s && stewardRuns s) = true := by
    rw [ha, hh, hf, hasCommit_of_modes hm, hruns]
    unfold reached
    rw [decide_eq_true hn]
    rfl
  exact (if_pos hgo).trans rfl

/-- The shadows take the records, and the hold stands. -/
theorem bundleHoldStart_holds (ha : s.bun.apply = true) (hh : s.bun.holding = false) (hf : s.bun.finishing = false)
    (hn : (s.hl.seq - (s.bun.n - 16)).toNat < 2 ^ 31) :
    ∃ m c, bundleHoldStart s noEcc = { s with
        cfg := { s.cfg with shadow := m }, nv := { s.nv with corrected := c }, bun := { s.bun with holding := true, written := true },
        hl := { s.hl with bundleHold := true, dirty := true } } ∧
      (formatOk s s.bun.slot = true → ∀ r ∈ bodyRecords s s.bun.slot, featOff s r.key = 0 →
        shadowAt (bundleHoldStart s noEcc) r.key &&& r.hl = r.value &&& r.hl) := by
  rw [bundleHoldStart_eq hm hruns ha hh hf hn]
  obtain ⟨m, c, hread⟩ := recordsRead_eq s
  have hsame : SameBytes (recordsRead s) s := by
    rw [hread]
    exact ⟨rfl, rfl⟩
  have hslot : (recordsRead s).bun.slot = s.bun.slot := by rw [hread]; rfl
  have hfeat : ∀ k, featOff (recordsRead s) k = featOff s k := fun k => by rw [hread]; rfl
  rw [bodyRecords_same hsame, hslot]
  obtain ⟨m', d, hwritten⟩ := onShadow_written (bodyRecords s s.bun.slot) (recordsRead s)
  have hrecords : writeRecords (recordsRead s) (bodyRecords s s.bun.slot) =
      { foldS recordWritten (recordsRead s) (bodyRecords s s.bun.slot) with
        hl := { (foldS recordWritten (recordsRead s) (bodyRecords s s.bun.slot)).hl with dirty := true } } := rfl
  refine ⟨m', c, ?_, fun hform r hr hoff => ?_⟩
  · rw [hrecords, hwritten, hread]
    rfl
  · rw [hrecords]
    exact shadowAt_written _ (recordsRead s) (keys_nodup hform) hr ((hfeat r.key).trans hoff)

theorem exec_bundleHoldStart (hq : Quiet s) (ha : s.bun.apply = true) (hh : s.bun.holding = false) (hf : s.bun.finishing = false)
    (hn : (s.hl.seq - (s.bun.n - 16)).toNat < 2 ^ 31) :
    ∃ t, exec (.bundleHoldStart noEcc) s = .next t ∧
      t.bun = { s.bun with holding := true, written := true } ∧ t.hl = { s.hl with bundleHold := true, dirty := true } ∧
      t.cfg.live = s.cfg.live ∧ t.irq = s.irq ∧ t.links = s.links ∧ t.nv.mem = s.nv.mem ∧
      (formatOk s s.bun.slot = true → ∀ r ∈ bodyRecords s s.bun.slot, featOff s r.key = 0 →
        shadowAt t r.key &&& r.hl = r.value &&& r.hl) := by
  obtain ⟨m, c, heq, hshadow⟩ := bundleHoldStart_holds hm hruns ha hh hf hn
  have hmarks : UpToMarks (bundleHoldStart s noEcc) (settle s (bundleHoldStart s noEcc)) := by
    rw [heq]
    exact settle_upToMarks hq.1 ⟨rfl, rfl, rfl, rfl, rfl, rfl⟩
  obtain ⟨h, ht⟩ := hmarks
  refine ⟨_, rfl, ?_, ?_, ?_, ?_, ?_, ?_, fun hform r hr hoff => ?_⟩
  · rw [settle_bun, heq]
  · rw [settle_hl, heq]
  · rw [settle_live, heq]
  · rw [ht, heq]
  · rw [settle_links, heq]
  · rw [settle_nv_mem, heq]
  · rw [shadowAt_settle]
    exact hshadow hform r hr hoff

end

theorem bundleHoldStart_waits (h : s.bun.apply = false ∨ s.bun.holding = true ∨ s.bun.finishing = true ∨
    2 ^ 31 ≤ (s.hl.seq - (s.bun.n - 16)).toNat) (ecc : Ecc) : bundleHoldStart s ecc = s := by
  refine if_neg fun hgo => ?_
  simp only [Bool.and_eq_true, Bool.not_eq_true', reached, decide_eq_true_eq] at hgo
  obtain ⟨⟨⟨⟨⟨ha, hh⟩, hf⟩, hn⟩, -⟩, -⟩ := hgo
  obtain h | h | h | h := h
  · exact Bool.false_ne_true (h.symm.trans ha)
  · exact Bool.false_ne_true (hh.symm.trans h)
  · exact Bool.false_ne_true (hf.symm.trans h)
  · omega

/-! ## The confirmation (R417, R418) -/

theorem confirmTimeout_due (hm : s.pw.mode = .operating ∨ s.pw.mode = .safe) (hruns : stewardRuns s = true) (hu : s.bun.unconf = true)
    (hn : s.bun.noAuto = false) (ha : s.bun.apply = false) : confirmTimeout s =
      if s.bun.confirm.toNat ≤ (s.hl.seq - s.bun.tSeq).toNat ∨ s.bun.drift = true then
        match startRollback s (if s.bun.drift then 3 else 2) with
        | (some t, _) => t
        | (none, t) => { t with bun := { t.bun with noAuto := true } }
      else s := by
  have hgo : (s.bun.unconf && !s.bun.noAuto && !s.bun.apply && stewardRuns s && hasCommit s) = true := by
    rw [hu, hn, ha, hruns, hasCommit_of_modes hm]
    rfl
  refine (if_pos hgo).trans (if_congr ?_ rfl rfl)
  unfold confirmOver
  rw [Bool.or_eq_true, decide_eq_true_eq]

theorem confirmTimeout_idle (h : s.bun.unconf = false ∨ s.bun.noAuto = true ∨ s.bun.apply = true) : confirmTimeout s = s := by
  refine if_neg fun hgo => ?_
  simp only [Bool.and_eq_true, Bool.not_eq_true'] at hgo
  obtain ⟨⟨⟨⟨hu, hn⟩, ha⟩, -⟩, -⟩ := hgo
  obtain h | h | h := h
  · exact Bool.false_ne_true (h.symm.trans hu)
  · exact Bool.false_ne_true (hn.symm.trans h)
  · exact Bool.false_ne_true (ha.symm.trans h)

theorem startRollback_begins {k : BitVec 1} (hk : previousSlot s = some k) (ha : s.bun.apply = false) (hfree : (freeRestored s k).isSome = true)
    (hcheck : bundleCheck s noEcc k none none = 0) (cause : BitVec 2) :
    startRollback s cause = (some (startApply s k (s.hl.seq + 17) (.rollback cause (k + 1))), s) := by
  have hnone : (freeRestored s k).isNone = false := by
    rw [← Option.not_isSome, hfree]
    rfl
  unfold startRollback
  rw [hk]
  dsimp only
  rw [ha, hnone, if_neg (by decide)]
  exact if_neg (not_not.2 hcheck)

theorem startRollback_refused (hk : previousSlot s = none) (cause : BitVec 2) : startRollback s cause = (none, s) := by
  unfold startRollback
  rw [hk]

/-! ## Bundles in time, settled -/

theorem Settled.bundleEvents : BundleEvents := by
  intro s hq hm hruns
  have hexec : ∀ e, confirmTimeout s = e → Unflagged s e → ∃ t, exec .confirmTimeout s = .next t ∧ UpToMarks e t := fun e he hu =>
    exists_next_upToMarks hq (congrArg (fun x => Host.Outcome.next (settle s x)) he) hu
  refine ⟨exec_bundleHoldStart hm hruns hq, fun h => ?_, fun hu hn ha => ⟨fun hdue => ⟨fun k hk hfree hcheck => ?_, fun hk => ?_⟩, fun hlt hd => ?_⟩,
    fun h => ?_⟩
  · exact exists_next_upToMarks hq (congrArg (fun x => Host.Outcome.next (settle s x)) (bundleHoldStart_waits h noEcc)) (unflagged_refl s)
  · refine hexec _ ?_ ⟨⟨rfl, rfl, rfl, rfl, rfl, rfl⟩, rfl⟩
    rw [confirmTimeout_due hm hruns hu hn ha, if_pos hdue, startRollback_begins hk ha hfree hcheck]
    rfl
  · refine hexec _ ?_ ⟨⟨rfl, rfl, rfl, rfl, rfl, rfl⟩, rfl⟩
    rw [confirmTimeout_due hm hruns hu hn ha, if_pos hdue, startRollback_refused hk]
  · refine hexec s ?_ (unflagged_refl s)
    rw [confirmTimeout_due hm hruns hu hn ha, if_neg]
    rintro (h | h)
    · omega
    · exact Bool.false_ne_true (hd.symm.trans h)
  · exact hexec s (confirmTimeout_idle h) (unflagged_refl s)

/-- Settles O60, by its two parts. A cycle, a turn or a timeout of the engine sets one context; the records of a body that has its form lie in
different words of the configuration, so each keeps what it wrote. -/
theorem engineAndBundleEvents : Obligations.EngineAndBundleEvents := ⟨Settled.engineEvents, Settled.bundleEvents⟩

end Sys2Proof.Machine
end
